-- ==== Sys2Proof/Word.lean ====
section
/-! DEFINITION. The word and byte types. -/

namespace Sys2Proof

/-- A 32-bit register or coefficient word. -/
abbrev Word := BitVec 32

/-- A byte of memory. -/
abbrev Byte := BitVec 8

end Sys2Proof
end

