-- ==== Sys2Proof/Syntax.lean ====
section
/-! DEFINITION. The commands of the block: one constructor per row of the opcode table, with its operands. -/

namespace Sys2Proof.Machine

/-! ### Operand types -/

/-- Where a command comes from: its own ring, a management datagram of a source under the management or the alarm key (R448), or the
partner of a synced pair, with its origin there: a command of the standby that the lead serves, or one that the lead has accepted (R377). -/
inductive Origin where
  | ring
  | mgmt (src : Word) (alarm : Bool)
  | partner (o : Origin)
  | lead (o : Origin)
  deriving DecidableEq, Repr

/-- Names one command: ring number, tag (R404) and origin. -/
structure CmdRef where
  ring : Nat
  tag : Nat
  origin : Origin
  deriving DecidableEq, Repr

/-- A Quigil command as fetched from its ring (R390, R391): the ring, the opcode, the header fields (`len` is the length field), the reply buffer
(words 4–5, present with the xreply flag), the parameter words, and where it comes from. -/
structure Cmd where
  ring : Fin 16
  op : Nat
  len : BitVec 8
  flags : BitVec 8
  tag : BitVec 16
  resv : BitVec 16
  scope : BitVec 2
  cls : BitVec 6
  index : BitVec 24
  apply : Word
  xaddr : Word
  xlen : Word
  params : List Word
  slot : BitVec 16
  origin : Origin
  deriving DecidableEq, Repr

/-- A lane error seen in an engine cycle: the lane and the column in which it occurred (R79). -/
structure LaneErr where
  lane : Fin 128
  column : Fin 8
  deriving DecidableEq, Repr

/-- An ECC error met by a coefficient read: bank, column, input and whether it is a double-bit error (R77). -/
structure CoefErr where
  bank : Bool
  column : Fin 1024
  input : Fin 1024
  double : Bool
  deriving DecidableEq, Repr

/-- The ten masters of the bus matrix (R456). -/
inductive Master where
  | cp | hb | ndma | mdma | fdma | cdma (n : Fin 4) | xld
  deriving DecidableEq, Repr

/-- A sample that a source outside the block delivers in the engine cycle that ends: source ID, position, 24-bit PCM, and whether
its decimation chain saturated it (R198). -/
structure SrcSample where
  source : BitVec 16
  pos : Fin 32
  pcm : BitVec 24
  sat : Bool
  deriving DecidableEq, Repr

/-- A unit that has not finished at the deadline (R47): 0–31 a core, 32 the crosspoint; the unfinished quads of a core
(kind × 256 + quad, kind 1 for output quads) or the unwritten columns. -/
structure LateUnit where
  unit : Fin 33
  items : List (Fin 1024)
  deriving DecidableEq, Repr

/-- One beat of a burst (R458): 16 byte strobes and 128 data bits, lowest byte first; `error` marks a lane of a read that
the memory finds uncorrectable, or a poisoned lane of a write (R179, R181). -/
structure Beat where
  strobe : BitVec 16
  data : BitVec 128
  error : Bool
  deriving DecidableEq, Repr

/-- A burst of a master (R458): direction, address, beats, whether it belongs to a locked sequence and is its last, how many
grants it waited (R463). -/
structure Burst where
  master : Master
  write : Bool
  addr : Word
  beats : List Beat
  locked : Bool
  lockEnd : Bool
  waited : Nat
  deriving DecidableEq, Repr

/-- Where a slot operation issues: the core, and whether it is the first slot of its bundle (R148, R149). -/
structure Slot where
  core : Fin 32
  head : Bool
  deriving DecidableEq, Repr

/-- A memory operand (R159, R160): pointer, mode, offset register; and what arbitration did to the access (R163): how many
times it lost, and whether a courtesy grant served it. -/
structure MemAcc where
  p : Fin 16
  mode : Fin 4
  m : Fin 16
  lost : Nat
  courtesy : Bool
  deriving DecidableEq, Repr

/-- What the background scan has just verified (R260): the pinned head or the data of a message, or a copy of the directory (false)
or chain table (true). -/
inductive ScanItem where
  | head (m : Fin 8192)
  | table (chains : Bool) (copy : Fin 2)
  | data (m : Fin 8192)
  deriving DecidableEq, Repr

/-- The estimator's measurements at an update (R277–R280): too few pairs, the index and the seven MTI in 0.001, the delay in ms, program
and ambient level in 0.1 dB SPL, and whether the microphone has read below −80 dBFS for 10 s. -/
structure VisEst where
  quiet : Bool
  index : Fin 1001
  mtis : List (Fin 1001)
  delay : Fin 1001
  prog : BitVec 16
  amb : BitVec 16
  silent : Bool
  deriving DecidableEq, Repr

/-- One measurement of a reference monitor (R341): the reference against nominal in ppb; the media clock's mean over the last 10 s and
its frequency now, in ppb; the difference Δf of the latest second in ppb; the phase of the grid against the tick in ns. -/
structure RefMeas where
  ppb : BitVec 24
  mean : Word
  freq : Word
  df : Word
  phase : Word
  deriving DecidableEq, Repr

/-- A stream packet as it arrives (R287, R299, R308): NETB or NETA; addresses; the checks of frame, buffer, IP and UDP; the RTP
header; header extension elements (`twoByte`: in the two-byte form); payload; and the time in µs from its arrival to the capture point
of its first sample, signed (R298). -/
structure StreamPkt where
  netb : Bool
  dst : Word
  src : Word
  udp : BitVec 16
  fcsOk : Bool
  buffer : Bool
  ipOk : Bool
  udpOk : Bool
  version : Fin 4
  pt : BitVec 7
  seq : BitVec 16
  ts : Word
  twoByte : Bool
  ext : List (BitVec 4 × List Byte)
  payload : List Byte
  slack : Word
  deriving DecidableEq, Repr

/-- What a PTP message says (R310–R316). Times are signed nanoseconds: the master's time, the correction field, the receive stamp. -/
inductive PtpMsg where
  | announce (gm : BitVec 64) (prio1 cls acc : BitVec 8) (variance : BitVec 16) (prio2 : BitVec 8) (steps : BitVec 16) (utc : BitVec 16)
  | sync (seq : BitVec 16) (twoStep : Bool) (t1 corr rx : BitVec 64)
  | followUp (seq : BitVec 16) (t1 corr : BitVec 64)
  | delayReq (seq : BitVec 16) (rx : BitVec 64)
  | delayResp (seq : BitVec 16) (t4 corr : BitVec 64)
  | broken
  deriving DecidableEq, Repr

/-- The PTP messages that the clock sends at its intervals. -/
inductive PtpSend where
  | sync | announce | delayReq
  deriving DecidableEq, Repr

/-- A shared output of a pair (R348). -/
inductive SharedOut where
  | bclk (n : Fin 16)
  | fs (n : Fin 16)
  | dout (n : Fin 16)
  | pdmClk (n : Fin 4)
  | wclk
  | pps
  | gpio (n : Fin 24)
  | aout (n : Fin 8)
  | mbias (n : Fin 8)
  deriving DecidableEq, Repr

/-- A record of a CMD frame (R377): a command the lead has accepted with its apply cycle; a command of the standby's rings for the lead to
serve; the standby's answer to a forwarded command (status 0 is ACCEPT); the completion of a served command; a ring-0 trigger record
with its latch cycle; a twin request; a unit's own conditions for SQUALL and whether
its own Tj calls for level 2 (R502); a state change of the lead with its level and apply cycle. -/
inductive LinkRec where
  | fwd (c : Cmd) (a : Word)
  | serve (c : Cmd)
  | ack (r : CmdRef) (status : BitVec 8) (detail : BitVec 16)
  | done (r : CmdRef) (status : BitVec 8) (detail : BitVec 16) (apply : Word) (reply : List Byte)
  | trig (t : Fin 64) (on : Bool) (latched : Word)
  | twin (t : Fin 64) (on : Bool)
  | power (cond : BitVec 4) (hot2 : Bool)
  | go (st : Fin 8) (level : Fin 3) (a : Word)
  deriving DecidableEq, Repr

/-- A received Ceiling bus frame (R354). -/
structure CeilFrame where
  line : Fin 2
  claim : BitVec 16
  stat : BitVec 4
  trig : BitVec 8
  crc : BitVec 8
  eof : Bool
  deriving DecidableEq, Repr

/-- A received CYCLE_OPEN (R373): the sender's cycle, claim, attach state and grade, its verdict record (self-test failed, error
detected), the DTIME of its device-state block, and whether any other field of that block differs from the receiver's (R376). -/
structure CycleOpen where
  cyc : Word
  claim : BitVec 16
  astate : Fin 7
  grade : Fin 8
  verdict : Option (Bool × Bool)
  dtime : BitVec 64
  differs : Bool
  deriving DecidableEq, Repr

/-- One write of bulk sync or of a tee record (R381): bytes, a coefficient, a register word. -/
inductive BulkItem where
  | mem (addr : Word) (bytes : List Byte)
  | coef (bank : Bool) (column input : Fin 1024) (gain : Word)
  | reg (addr : Word) (value : Word)
  deriving DecidableEq, Repr

/-- What an attach compares (R382) of the other unit: image digest, whether the message tables are the same, OVR_LIVE_CRC, PAIR_HOME, Glehal
version, grade. -/
structure PeerInfo where
  digest : BitVec 256
  tablesSame : Bool
  liveCrc : Word
  homeB : Bool
  version : Word
  grade : Fin 8
  deriving DecidableEq, Repr

/-- The strap pins as they are driven (R347, R438, R334). -/
structure Straps where
  bootsel : Fin 4
  twinen : Bool
  unitsel : Bool
  refsel : Fin 8
  deriving DecidableEq, Repr

end Sys2Proof.Machine

namespace Sys2Proof

open Sys2Proof.Machine

/-- The commands, in the order of the table. Each docstring is the row's own summary and rule. -/
inductive Instr where
  /-- POWER_ON: VSYS rises above 8.5 V with PORST_N high, so the device leaves OFF, enters BOOT and soft-starts its rails. (R437) -/
  | powerOn (p : Straps)
  /-- VSYS_FALL: VSYS falls below 8.0 V and the device goes to OFF. (R26) -/
  | vsysFall
  /-- PORST_N_LOW: PORST_N is driven low and the device goes to OFF. (R26) -/
  | porstNLow
  /-- PORST_N_RELEASE: PORST_N rises: the internal reset releases and the straps TWINEN, UNITSEL, REFSEL and BOOTSEL are sampled. (R347) -/
  | porstNRelease (p : Straps)
  /-- REGULATOR_CUTOFF: Tj reaches 175 °C and the regulator cuts power, taking the device to OFF. (R497) -/
  | regulatorCutoff
  /-- REGULATOR_RESTART: After a cutoff, once Tj is below 150 °C with VSYS present, the regulator restarts into BOOT. (R497) -/
  | regulatorRestart (p : Straps)
  /-- RAILS_IN_REGULATION: The rails reach regulation, the internal reset releases and clock start-up begins. (R437) -/
  | railsInRegulation
  /-- IRC_QUALIFIED: The IRC completes 64 good Afterglow windows and is qualified, which starts the crystal count. (R324) -/
  | ircQualified
  /-- CRYSTAL_QUALIFIED: The crystal completes 64 good windows and is qualified, which starts the root PLL. (R324) -/
  | crystalQualified
  /-- CRYSTAL_QUAL_TIMEOUT: The crystal has not qualified 20 ms after the internal reset, which is a crystal failure and leads to CLOCK-WAIT. (R326) -/
  | crystalQualTimeout
  /-- ROOT_PLL_LOCK: The root PLL locks and the logic moves from the IRC to the PLL clocks. (R326) -/
  | rootPllLock
  /-- PLL_LOCK_TIMEOUT: The PLL has not locked 1 ms after crystal qualification, which is a lock failure. (R326) -/
  | pllLockTimeout
  /-- IRC_STOP: 10 ms after PLL lock the IRC stops and the periodic checks begin. (R326) -/
  | ircStop
  /-- IRC_PERIODIC_CHECK: Every 1 s the IRC restarts, qualifies and checks the crystal over 16 windows. (R325) -/
  | ircPeriodicCheck (ok : Bool)
  /-- CLOCK_SUPERVISOR_TRIP: The supervisor detects a clock or die-to-die link failure: the pins go to the safe state and the device enters CLOCK-WAIT. (R328) -/
  | clockSupervisorTrip (cause : BitVec 4)
  /-- CLOCK_WAIT_RETRY: The 100 ms retry timer expires in CLOCK-WAIT and the failed source is re-qualified, leading to BOOT or to a counted failure. (R329) -/
  | clockWaitRetry (ok : Bool)
  /-- AFTERGLOW_OUT_OF_RANGE: The PER domain finds Afterglow outside 0.5–8 MHz: ag_fail is set, FAULT_N asserts and the grade falls to 5. (R331) -/
  | afterglowOutOfRange (khz : BitVec 13)
  /-- DRAM_TRAINED: DRAM training completes, or fails and leads to FAULT-HOLD. (R437) -/
  | dramTrained (ok : Bool)
  /-- FIRMWARE_LOAD: The ROM selects, verifies and loads a firmware slot, then remaps and starts Glehal. (R439) -/
  | firmwareLoad
  /-- BOOT_IMAGE_LOAD: The pinned engine image is checked and loaded, the default patch applies, and the device reaches READY. (R145) -/
  | bootImageLoad
  /-- HEAD_LOAD_DONE: A pinned message head finishes loading into DRAM after READY, so its message starts with pinned timing. (R441) -/
  | headLoadDone (m : Fin 8192)
  /-- SEC_RECOV_GO: A write of go to SEC_RECOV starts the recovery check of the container in the recovery window. (R442) -/
  | secRecovGo (v : Word)
  /-- RECOVERY_CHECK_DONE: The recovery check ends: the container is programmed or refused, the result is written, and boot may resume. (R442) -/
  | recoveryCheckDone
  /-- ENGINE_TICK: The media-clock tick increments CYCLE and commits every shadow parameter and pending command due at that cycle, then the fabric window and stage work run. (R37) -/
  | engineTick (captures : List SrcSample) (laneErrs : List LaneErr) (coefErrs : List CoefErr) (elapsed : Word)
  /-- DISPATCH_RECORD: A core starts a non-bypass dispatch record and sets its registers from the record. (R147) -/
  | dispatchRecord (core : Fin 32) (outq : Bool) (quad : Fin 256)
  /-- STRIP_COMPLETION: A core or the crosspoint signals completion and the sequencer records its margin. (R45) -/
  | stripCompletion (unit : Fin 33) (time : Nat)
  /-- ENGINE_DEADLINE: The deadline C_T − 2,000 CORE passes: unfinished units overrun, and the guard begins. (R47) -/
  | engineDeadline (late : List LateUnit) (wispFail : List (Fin 6))
  /-- WISP_ABANDON: The march has not finished 100 CORE clock cycles before the tick, so it is abandoned and the restore starts. (R183) -/
  | wispAbandon (m : Fin 6)
  /-- WISP_RESTORE_DONE: The shadow buffer is copied back, redirection ends and the region pointer advances. (R182) -/
  | wispRestoreDone (m : Fin 6)
  /-- ECC_WRITEBACK: A corrected SRAM lane is written back in the next idle bank cycle, unless a write to the lane came first. (R179) -/
  | eccWriteback (addr : Word)
  /-- SLOT_NOP: An all-zero X or memory slot does nothing. (R148) -/
  | slotNop (sl : Slot)
  /-- VADD: Saturating lane add. (R155) -/
  | vadd (sl : Slot) (d a b : Fin 32)
  /-- VADDM: Modular lane add. (R155) -/
  | vaddm (sl : Slot) (d a b : Fin 32)
  /-- VSUB: Saturating lane subtract. (R155) -/
  | vsub (sl : Slot) (d a b : Fin 32)
  /-- VSUBM: Modular lane subtract. (R155) -/
  | vsubm (sl : Slot) (d a b : Fin 32)
  /-- VNEG: Saturating lane negate. (R155) -/
  | vneg (sl : Slot) (d a : Fin 32)
  /-- VABS: Saturating lane absolute value. (R155) -/
  | vabs (sl : Slot) (d a : Fin 32)
  /-- VMIN: Signed lane minimum. (R155) -/
  | vmin (sl : Slot) (d a b : Fin 32)
  /-- VMAX: Signed lane maximum. (R155) -/
  | vmax (sl : Slot) (d a b : Fin 32)
  /-- VAND: Bitwise AND. (R155) -/
  | vand (sl : Slot) (d a b : Fin 32)
  /-- VOR: Bitwise OR; VMOV is VOR of a register with itself. (R155) -/
  | vor (sl : Slot) (d a b : Fin 32)
  /-- VXOR: Bitwise XOR. (R155) -/
  | vxor (sl : Slot) (d a b : Fin 32)
  /-- VPICK: Per-lane choice between two registers by bit 31 of the old destination. (R155) -/
  | vpick (sl : Slot) (d a b : Fin 32)
  /-- VCGT: Signed greater-than compare to a lane mask. (R155) -/
  | vcgt (sl : Slot) (d a b : Fin 32)
  /-- VCEQ: Equality compare to a lane mask. (R155) -/
  | vceq (sl : Slot) (d a b : Fin 32)
  /-- VSHL: Saturating shift left. (R155) -/
  | vshl (sl : Slot) (d a n : Fin 32)
  /-- VSRA: Arithmetic shift right. (R155) -/
  | vsra (sl : Slot) (d a n : Fin 32)
  /-- VSRAR: Shift right with convergent rounding. (R155) -/
  | vsrar (sl : Slot) (d a n : Fin 32)
  /-- VSRL: Logical shift right. (R155) -/
  | vsrl (sl : Slot) (d a n : Fin 32)
  /-- VSPL: Splat one lane into every lane. (R155) -/
  | vspl (sl : Slot) (d a : Fin 32) (l : Fin 4)
  /-- VIDX: Copy IDX into every lane. (R155) -/
  | vidx (sl : Slot) (d : Fin 32)
  /-- VHSUM: Saturated horizontal sum into lane 0. (R155) -/
  | vhsum (sl : Slot) (d a : Fin 32)
  /-- VHMAX: Horizontal maximum with its lowest lane. (R158) -/
  | vhmax (sl : Slot) (d a : Fin 32)
  /-- VHMIN: Horizontal minimum with its lowest lane. (R158) -/
  | vhmin (sl : Slot) (d a : Fin 32)
  /-- VHMAXI: Horizontal maximum with an index taken from the paired register. (R158) -/
  | vhmaxi (sl : Slot) (d a : Fin 32)
  /-- VHMINI: Horizontal minimum with an index taken from the paired register. (R158) -/
  | vhmini (sl : Slot) (d a : Fin 32)
  /-- VSMAX: Running maximum with the IDX of each new maximum. (R158) -/
  | vsmax (sl : Slot) (d a : Fin 32)
  /-- VSMIN: Running minimum with the IDX of each new minimum. (R158) -/
  | vsmin (sl : Slot) (d a : Fin 32)
  /-- VSMAXA: Running maximum of the saturated magnitude, with its IDX. (R158) -/
  | vsmaxa (sl : Slot) (d a : Fin 32)
  /-- VMUL: Multiply with convergent rounding by 27, 28, 31 or 32 bits, then saturate. (R155) -/
  | vmul (sl : Slot) (d a b : Fin 32) (k : Fin 4)
  /-- MAC: Accumulate a lane product into a 72-bit accumulator, with wrap. (R155) -/
  | mac (sl : Slot) (d : Fin 8) (a b : Fin 32)
  /-- MSU: Subtract a lane product from an accumulator, with wrap. (R155) -/
  | msu (sl : Slot) (d : Fin 8) (a b : Fin 32)
  /-- MUL: Set an accumulator to a lane product. (R155) -/
  | mul (sl : Slot) (d : Fin 8) (a b : Fin 32)
  /-- ASET: Set an accumulator to a lane shifted left by 0–40 bits. (R155) -/
  | aset (sl : Slot) (d : Fin 8) (a : Fin 32) (n : Fin 41)
  /-- ALO: Set the low 32 bits of an accumulator. (R155) -/
  | alo (sl : Slot) (d : Fin 8) (a : Fin 32)
  /-- AMOV: Copy one accumulator to another. (R155) -/
  | amov (sl : Slot) (d a : Fin 8)
  /-- AADD: Add one accumulator to another, with wrap. (R155) -/
  | aadd (sl : Slot) (d a : Fin 8)
  /-- ACLR: Clear an accumulator. (R155) -/
  | aclr (sl : Slot) (d : Fin 8)
  /-- EXT: Extract an accumulator to a lane with rounding or floor, then saturate. (R157) -/
  | ext (sl : Slot) (d : Fin 32) (a : Fin 8) (sh : Fin 64) (r : Bool)
  /-- EXTL: Extract 32 raw bits of an accumulator. (R157) -/
  | extl (sl : Slot) (d : Fin 32) (a : Fin 8) (sh : Fin 41)
  /-- VLD: Load a 16-byte native word from the scratchpad. (R159) -/
  | vld (sl : Slot) (v : Fin 32) (acc : MemAcc) (ue ce : BitVec 4)
  /-- VST: Store a 16-byte native word to the scratchpad. (R159) -/
  | vst (sl : Slot) (v : Fin 32) (acc : MemAcc)
  /-- VLDB: Load one 32-bit word into every lane. (R159) -/
  | vldb (sl : Slot) (v : Fin 32) (acc : MemAcc)
  /-- ATADD: Atomic add on 16 bytes at the bank, returning the old value. (R162) -/
  | atadd (sl : Slot) (v : Fin 32) (acc : MemAcc)
  /-- ATSWP: Atomic swap on 16 bytes at the bank, returning the old value. (R162) -/
  | atswp (sl : Slot) (v : Fin 32) (acc : MemAcc)
  /-- PMOD: Post-modify a pointer with no access. (R159) -/
  | pmod (sl : Slot) (acc : MemAcc)
  /-- PLD: Load a pointer register from memory. (R159) -/
  | pld (sl : Slot) (n : Fin 16) (acc : MemAcc)
  /-- MLD: Load a sign-extended offset register from memory. (R159) -/
  | mld (sl : Slot) (n : Fin 16) (acc : MemAcc)
  /-- CNOP: Control no-operation. (R166) -/
  | cnop (sl : Slot)
  /-- LOOP: Start a hardware block repeat on a loop counter. (R167) -/
  | loopOp (sl : Slot) (k : Fin 4) (idx : Bool) (len : Fin 2048)
  /-- LOOP_PASS_END: The last bundle of a loop body ends a pass: the loop repeats or falls through, and IDX advances. (R167) -/
  | loopPassEnd (core : Fin 32) (k : Fin 4)
  /-- SETLC: Set a loop counter to an immediate. (R166) -/
  | setlc (sl : Slot) (k : Fin 4) (n : BitVec 12)
  /-- SETLCR: Set a loop counter from a pointer, clamped. (R166) -/
  | setlcr (sl : Slot) (k : Fin 4) (p : Fin 16) (max : BitVec 8)
  /-- BRF: Conditional forward branch. (R169) -/
  | brf (sl : Slot) (c : Fin 8) (off : Fin 2048)
  /-- PADDI: Add a scaled immediate to a pointer, with circular wrap. (R160) -/
  | paddi (sl : Slot) (p : Fin 16) (imm : BitVec 10)
  /-- SETM: Set an offset register to a scaled immediate. (R166) -/
  | setm (sl : Slot) (m : Fin 16) (imm : BitVec 9) (x16 : Bool)
  /-- PMOV: Copy one pointer register to another. (R166) -/
  | pmov (sl : Slot) (d a : Fin 16)
  /-- SETW: Define a circular window. (R166) -/
  | setw (sl : Slot) (k : Fin 4) (p m : Fin 16)
  /-- BIND: Bind a pointer to a window, or unbind it. (R166) -/
  | bindOp (sl : Slot) (p : Fin 16) (w : Option (Fin 4))
  /-- SETIDX: Set IDX to an immediate. (R166) -/
  | setidx (sl : Slot) (imm : BitVec 14)
  /-- DLQ: Queue a DRAM transfer on the real-time port. (R171) -/
  | dlq (sl : Slot) (v : Fin 32)
  /-- END: End the program's dispatch record, forming any bypass crossfade. (R170) -/
  | endOp (sl : Slot)
  /-- DLQ_TRANSFER_DONE: A queued DRAM transfer completes before the next tick. (R171) -/
  | dlqTransferDone (core : Fin 32)
  /-- XPT_COPY_DONE: A COPY finishes moving active gains into the shadow bank. (R74) -/
  | xptCopyDone (m : Fin 1024)
  /-- XPT_RAMP_END: A column's bank-swap ramp ends and the column uses the new bank unchanged. (R70) -/
  | xptRampEnd (m : Fin 1024)
  /-- COEF_SHADOW_WRITE: A write through the coefficient shadow port is accepted into a shadow bank or refused. (R75) -/
  | coefShadowWrite (master : Master) (addr : Word) (words : List Word)
  /-- CAPTURE_DONE: A capture buffer stores its 512th sample and the capture ends. (R83) -/
  | captureDone (n : Fin 4)
  /-- METER_WINDOW_END: A mean-square window of 2^w engine cycles ends and its result is latched. (R82) -/
  | meterWindowEnd
  /-- PATCH_FADE_OUT_END: The fade-out half of a dip ends and the multiplexer switches to the new selection. (R60) -/
  | patchFadeOutEnd (k : Fin 2056)
  /-- PATCH_FADE_END: A patch ramp ends, the command completes DONE and any held request commits. (R62) -/
  | patchFadeEnd (k : Fin 2056)
  /-- CIN_SAMPLE: A 1 kHz contact-input sample measures the loop and classifies its state. (R246) -/
  | cinSample (n : Fin 16) (ohms : BitVec 16) (isForeign : Bool)
  /-- CIN_DEBOUNCE_COMPLETE: A state seen in deb consecutive samples becomes the debounced state, latches the cin flag and sets the status bits. (R248) -/
  | cinDebounceComplete (n : Fin 16)
  /-- TRIGGER_ASSERTION: At its assertion tick a trigger forces its columns, starts its player or generator and unmutes its sinks. (R94) -/
  | triggerAssertion (t : Fin 64)
  /-- TRIGGER_RELEASE: At its release tick a trigger ramps its columns back toward the bank and handles its action. (R96) -/
  | triggerRelease (t : Fin 64)
  /-- OVR_FORCE_RAMP_END: A forcing ramp of a column ends. (R97) -/
  | ovrForceRampEnd (m : Fin 1024)
  /-- OVR_RELEASE_RAMP_END: A release ramp ends: the column is no longer forced and the plane re-mutes its recorded sinks. (R100) -/
  | ovrReleaseRampEnd (m : Fin 1024)
  /-- OVR_CRC_CHECK: Every 64 engine cycles both live-table copies are checked against OVR_LIVE_CRC and a failing copy is repaired. (R106) -/
  | ovrCrcCheck (bad1 bad2 : Bool)
  /-- OVR_ARM_EXPIRY: An arm not followed by a commit within 1 s expires. (R109) -/
  | ovrArmExpiry
  /-- OVR_KEY_LOCKOUT_END: The 10 s arming lockout after three key failures ends. (R109) -/
  | ovrKeyLockoutEnd
  /-- OVR_COMMIT_TAKE_EFFECT: A passed commit reaches its apply tick: the live table changes, OVR_GEN increments, the plane disarms, and the table is stored to flash. (R111) -/
  | ovrCommitTakeEffect
  /-- IMG_RESTART_TICK: After a full-restart load the tick restarts at the new rate, with CYCLE continuing. (R33) -/
  | imgRestartTick
  /-- IMG_DIP_BYPASS: At A + Ld of a dip activation every quad runs as bypass and the loader writes the new image. (R139) -/
  | imgDipBypass
  /-- IMG_SWITCH_TICK: At the switch tick S the new fabric plan and dispatch lists take effect and changed quads crossfade. (R138) -/
  | imgSwitchTick (loaded : Bool)
  /-- IMG_ACTIVATE_COMPLETE: An activation completes at S + 1 or S + Ld, releasing the old code and regions. (R138) -/
  | imgActivateComplete
  /-- PARAM_SYNC_DONE: The SYNCING copy of a quad ends, the quad becomes CLEAN and the swap completes DONE. (R128) -/
  | paramSyncDone (outq : Bool) (quad : Fin 256)
  /-- BACKGROUND_JOB_DONE: A chunked write step, image check or bulk read finishes and gives its final completion. (R422) -/
  | backgroundJobDone (ring : Fin 16) (tag : BitVec 16)
  /-- DEC_START: DECn_CTRL.start schedules a channel start at DECn_APPLY. (R208) -/
  | decStart (master : Master) (n : Fin 40)
  /-- DEC_STOP: DECn_CTRL.stop schedules a channel stop at DECn_APPLY. (R208) -/
  | decStop (master : Master) (n : Fin 40)
  /-- DEC_SETTLE_END: After S engine cycles of settling the channel ramps in and becomes RUNNING. (R208) -/
  | decSettleEnd (n : Fin 40)
  /-- DEC_STOP_END: At tick A + 1 after a stop the channel clears its stages and enters STOPPED. (R208) -/
  | decStopEnd (n : Fin 40)
  /-- DEC_STROBE: A channel-switch strobe arrives, starting a window after skip bits or aborting a running one. (R206) -/
  | decStrobe (n : Fin 40)
  /-- DEC_TIMER_STROBE: A DEC timer counts out its period and strobes, optionally pulsing its GPIO. (R207) -/
  | decTimerStrobe (t : Fin 4)
  /-- DEC_WINDOW_END: A single-cycle-settling window completes and yields one output sample. (R205) -/
  | decWindowEnd (n : Fin 40) (bits : List Bool)
  /-- DEC_FIFO_READ: A read of DECn_FIFO removes the oldest word. (R211) -/
  | decFifoRead (n : Fin 40)
  /-- TRACKER_EDGES_SEEN: A tracker's clock edges appear in range and it enters ACQUIRE. (R214) -/
  | trackerEdgesSeen (t : Fin 64) (ratio : Word)
  /-- TRACKER_LOCK: The phase error stays below 1/256 sample for 20 ms and the tracker enters LOCKED. (R214) -/
  | trackerLock (t : Fin 64) (ratio : Word)
  /-- TRACKER_EDGE_LOSS: A tracker's clock shows no edge for 1 ms, so it returns to ACQUIRE or IDLE and its channels ramp out. (R214) -/
  | trackerEdgeLoss (t : Fin 64)
  /-- TRACKER_RATIO_JUMP: The measured ratio moves by more than 1,000 ppm within 10 ms and the tracker returns to ACQUIRE. (R214) -/
  | trackerRatioJump (t : Fin 64) (ratio : Word)
  /-- TRACKER_RANGE: The measured rate leaves 7.9–193 kHz and the tracker enters RANGE. (R214) -/
  | trackerRange (t : Fin 64) (ratio : Word)
  /-- TRACKER_RANGE_EXIT: The rate has stayed in range for 100 ms and the tracker returns to ACQUIRE. (R214) -/
  | trackerRangeExit (t : Fin 64) (ratio : Word)
  /-- SP_START: SPn_CTRL.start schedules a port start at SPn_APPLY. (R224) -/
  | spStart (master : Master) (n : Fin 16)
  /-- SP_STOP: SPn_CTRL.stop schedules a port stop at SPn_APPLY. (R225) -/
  | spStop (master : Master) (n : Fin 16)
  /-- SP_MUTE: SPn_CTRL.mute schedules a port mute. (R229) -/
  | spMute (master : Master) (n : Fin 16)
  /-- SP_UNMUTE: SPn_CTRL.unmute schedules a port unmute. (R229) -/
  | spUnmute (master : Master) (n : Fin 16)
  /-- SP_MASK_COMMIT: SPn_MASK_COMMIT copies both shadow masks for the next frame boundary. (R230) -/
  | spMaskCommit (master : Master) (n : Fin 16)
  /-- SP_MASK_TAKE_EFFECT: At the first frame boundary after a commit the active masks change. (R230) -/
  | spMaskTakeEffect (n : Fin 16)
  /-- SP_FRAME_ALIGNED: A slave sees two FS edges exactly bits BCLK periods apart and aligns its frames. (R224) -/
  | spFrameAligned (n : Fin 16) (slack : BitVec 16)
  /-- SP_DATA_TICK: The lead-in count ends: data blocks ramp in and the port enters RUNNING or OPENING. (R224) -/
  | spDataTick (n : Fin 16)
  /-- SP_SLOT_CROSSING: A gated slot finds a zero crossing and opens or closes. (R227) -/
  | spSlotCrossing (n : Fin 16) (slot : Fin 32) (pos : Fin 32)
  /-- SP_ZC_TIMEOUT: A slot finds no crossing within zc_to + 1 ms and opens or closes by a ramp. (R228) -/
  | spZcTimeout (n : Fin 16) (slot : Fin 32)
  /-- SP_LEAD_OUT_END: LEAD-OUT ends, the clocks stop, the port enters STOPPED and its claims are released. (R225) -/
  | spLeadOutEnd (n : Fin 16)
  /-- SP_UNDERRUN: A transmit or receive buffer lacks a frame, so a frame of zeros is inserted. (R231) -/
  | spUnderrun (n : Fin 16) (tx : Bool)
  /-- SP_OVERRUN: A frame meets a full buffer and the oldest frame is discarded. (R231) -/
  | spOverrun (n : Fin 16) (tx : Bool)
  /-- SP_SLIP: A synchronous slave's grid passes ±2 frames and it drops and inserts a frame pair. (R232) -/
  | spSlip (n : Fin 16) (fast : Bool)
  /-- SP_GLITCH: A slave sees a misplaced FS edge or a BCLK stop, discards the frame and realigns. (R233) -/
  | spGlitch (n : Fin 16)
  /-- SP_LOST: A slave finds no valid frame pair within 4 frame periods and enters LOST. (R234) -/
  | spLost (n : Fin 16)
  /-- SP_REALIGN: Two valid frames return and the port leaves LOST. (R234) -/
  | spRealign (n : Fin 16)
  /-- ANA_GAIN_WRITE: A write of ANAn_IN_CFG.gain starts or redirects a gain walk. (R241) -/
  | anaGainWrite (master : Master) (n : Fin 8) (gain : BitVec 6)
  /-- GAIN_STEP: A 1 dB gain step lands at the input's zero crossing. (R241) -/
  | gainStep (n : Fin 8)
  /-- GAIN_STEP_TIMEOUT: No crossing within 2 ms, so the step lands and gain_to is set. (R241) -/
  | gainStepTimeout (n : Fin 8)
  /-- BIAS_STATE_CHANGE: A new capsule state has persisted for 1 s and takes effect, possibly setting bias_fault. (R242) -/
  | biasStateChange (n : Fin 8) (ua : BitVec 12)
  /-- AOUT_GATE_CROSSING: An analog output gate opens or closes at a zero crossing. (R244) -/
  | aoutGateCrossing (n : Fin 8) (pos : Fin 32)
  /-- AOUT_HOLD_END: HOLD ends after hold ms and the output goes to high impedance. (R244) -/
  | aoutHoldEnd (n : Fin 8)
  /-- DRV_SAMPLE: A 1 kHz sample measures each driver's current and tries shed drivers in return order. (R250) -/
  | drvSample (currents : List (BitVec 10)) (low : BitVec 16)
  /-- DRV_FAULT_DEBOUNCE: A wire_break or off_break condition persists for deb samples and is declared or cleared. (R250) -/
  | drvFaultDebounce (n : Fin 16)
  /-- DRV_OVERCURRENT: A driver current above 75 mA turns the driver off within 10 µs, latching after the third trip in 10 s. (R251) -/
  | drvOvercurrent (n : Fin 16)
  /-- DRV_RETRY: 100 ms after an overcurrent trip the driver retries. (R251) -/
  | drvRetry (n : Fin 16)
  /-- DRV_TOTAL_OVERLOAD: The total stays above 500 mA for 1 ms and drivers are shed in order. (R251) -/
  | drvTotalOverload
  /-- LS_ESTIMATE: Each second a line monitor estimates |Z| from the pilot correlation and decides a condition. (R253) -/
  | lsEstimate (m : Fin 32) (cv ci : BitVec 25)
  /-- LS_FAULT_DECLARED: det_s consecutive equal conditions declare or clear a line fault. (R254) -/
  | lsFaultDeclared (m : Fin 32)
  /-- LS_LEARN_START: SUP_LSm.learn starts averaging 10 estimates into ref. (R254) -/
  | lsLearnStart (master : Master) (m : Fin 32)
  /-- LS_LEARN_DONE: The 10th estimate of a learn writes ref. (R254) -/
  | lsLearnDone (m : Fin 32)
  /-- PLAYER_FIRST_SAMPLE: A WAIT player's first sample falls due and it enters PLAYING. (R266) -/
  | playerFirstSample (p : Fin 64)
  /-- CHAIN_STEP_ADVANCE: A play, silence or gap ends and the chain moves on, or ends and completes DONE. (R262) -/
  | chainStepAdvance (p : Fin 64)
  /-- PLAYER_UNDERRUN: A block's samples are not in DRAM, so the player delivers zeros and holds its position. (R267) -/
  | playerUnderrun (p : Fin 64)
  /-- SCAN_VERIFY: The background scan finishes checking a message, head or directory copy and handles any failure. (R260) -/
  | scanVerify (item : ScanItem) (ok : Bool)
  /-- SCAN_PHASE_END: The 25 s other phase ends and a new round begins with its alarm phase. (R260) -/
  | scanPhaseEnd
  /-- GEN_ENABLE_WRITE: A write of GENg_CFG.en starts a generator at the next tick or ramps it out. (R276) -/
  | genEnableWrite (master : Master) (g : Fin 32) (value : Word)
  /-- GEN_SEGMENT_END: A pattern segment or ISO 8201 phase ends and the next begins. (R275) -/
  | genSegmentEnd (g : Fin 32)
  /-- VIS_UPDATE: At its update tick an estimator zone applies its rules and writes the gain and tilt words. (R281) -/
  | visUpdate (z : Fin 32) (e : VisEst)
  /-- STREAM_PACKET_RECEIVED: A stream packet arrives, is checked, merged by sequence number and placed in the jitter buffer. (R300) -/
  | streamPacketReceived (p : StreamPkt)
  /-- STREAM_PACKET_TRANSMIT: A transmit packet leaves the MAC within 50 µs after the emit point of its last sample. (R294) -/
  | streamPacketTransmit (s : Fin 128)
  /-- STREAM_TX_STOP_END: After the last packet of a stopping stream leaves, the stream enters OFF at the next tick. (R295) -/
  | streamTxStopEnd (s : Fin 128)
  /-- STREAM_RX_TIMEOUT: A RUNNING receive stream accepts no packet for 100 ms and returns to WAITING. (R296) -/
  | streamRxTimeout (s : Fin 128)
  /-- LEG_DOWN: A leg delivers no packet for max(4 packet times, 2 ms) and is down. (R300) -/
  | legDown (k : Fin 512)
  /-- LINK_SPEED_CHANGE: A port's link changes; a downgrade suspends streams by class and a return resumes them. (R292) -/
  | linkSpeedChange (netb : Bool) (link : Fin 3)
  /-- IGMP_QUERY_RECEIVED: An IGMP query is answered with the port's memberships. (R306) -/
  | igmpQueryReceived (netb v2 : Bool)
  /-- IGMP_REPORT_REPEAT: 1 s after a join or leave the report is sent a second time. (R306) -/
  | igmpReportRepeat
  /-- SAP_ANNOUNCE: Every 30 s the SDP of each sap stream is announced. (R307) -/
  | sapAnnounce (s : Fin 128)
  /-- SAP_ANNOUNCE_RECEIVED: A received SAP announcement is cached. (R307) -/
  | sapAnnounceReceived (origin : Word) (text : List Byte) (delete : Bool)
  /-- SAP_ENTRY_AGE_OUT: A cached announcement ages out. (R307) -/
  | sapEntryAgeOut (i : Fin 256)
  /-- MGMT_DATAGRAM_RECEIVED: A management datagram is checked in hardware and, if it passes, joins its ring's service order. (R449) -/
  | mgmtDatagramReceived (netb : Bool) (src : Word) (bytes : List Byte)
  /-- PTP_MESSAGE_RECEIVED: A PTP message is processed by the port state machine and servo as a measurement. (R316) -/
  | ptpMessageReceived (port : Fin 2) (domain : BitVec 8) (m : PtpMsg)
  /-- PTP_MESSAGE_SEND: The PTP clock sends Sync, Announce or Delay_Req at its interval. (R310) -/
  | ptpMessageSend (port : Fin 2) (k : PtpSend) (stamp : BitVec 64)
  /-- ANNOUNCE_TIMEOUT: The slave port misses its announce receipt timeout, so the port switches or the servo goes to HOLDOVER. (R313) -/
  | announceTimeout (port : Fin 2)
  /-- SERVO_STEP: At the step tick DTIME is stepped at acquisition or re-step, with the consequences of R321. (R317) -/
  | servoStep
  /-- AUTO_RESTEP: The servo has been DIVERGED for hold seconds with stable measurements and no class 5–7 path, so it re-steps. (R319) -/
  | autoRestep
  /-- REF_MEASUREMENT: Each second a reference monitor measures frequency, applies tolerances and votes. (R341) -/
  | refMeasurement (k : Fin 7) (m : RefMeas)
  /-- REF_PRESENCE_CHANGE: A reference becomes present or absent from its edges or state. (R335) -/
  | refPresenceChange (k : Fin 7) (present : Bool)
  /-- REF_LOCK: At the tick after |Δf| < 0.1 ppm the media clock locks and absorbs the phase. (R338) -/
  | refLock (phase : Word)
  /-- REF_PULL_DONE: The pull-in brings REF_ABS to 0. (R338) -/
  | refPullDone
  /-- REF_OUTLIER_CLEAR: An OUTLIER monitor sees 60 s without disagreement and returns to QUALIFYING. (R341) -/
  | refOutlierClear (k : Fin 7)
  /-- REF_SEL_WRITE: A write of REF_SEL under pins 111 changes the reference at the next tick, or is refused. (R344) -/
  | refSelWrite (master : Master) (sel : Fin 8)
  /-- CEILING_FRAME_RECEIVED: A claim-bus frame is received, its claim taken and its TRIG field applied. (R356) -/
  | ceilingFrameReceived (f : CeilFrame)
  /-- CEILING_FRAME_RETRY: A unit that lost arbitration retries after the winner's EOF and 2 idle bits. (R355) -/
  | ceilingFrameRetry (line : Fin 2)
  /-- PAIR_LINE_LOST: No valid frame on a line for 4 engine cycles loses its heartbeat. (R356) -/
  | pairLineLost (line : Fin 2)
  /-- PAIR_LINE_RECOVER: 16 consecutive engine cycles with valid frames recover a line. (R356) -/
  | pairLineRecover (line : Fin 2)
  /-- BEACON_SEND: Every 10 ms a pair beacon is sent on each enabled port. (R358) -/
  | beaconSend (netb : Bool)
  /-- BEACON_RECEIVED: A pair beacon is authenticated and its claim made current. (R358) -/
  | beaconReceived (netb : Bool) (bytes : List Byte) (gap : Bool)
  /-- BEACON_HEARTBEAT_LOST: 35 ms without an accepted beacon loses the beacon heartbeat. (R358) -/
  | beaconHeartbeatLost
  /-- PARTNER_SILENCE: At the first tick at which the Ceiling bus is lost and the link is down, the partner is declared silent. (R359) -/
  | partnerSilence
  /-- HANDOVER_TICK: At the handover tick roles change and the shared outputs change hands. (R352) -/
  | handoverTick
  /-- DRIVE_SENSE_PROBE: A sense probe of a shared output completes and shows a driver or none. (R361) -/
  | driveSenseProbe (out : SharedOut) (driver : Option Bool)
  /-- DRIVE_TAKEN: A synced standby sees a shared pin undriven and takes it at its next frame boundary. (R363) -/
  | driveTaken (out : SharedOut)
  /-- DRIVE_CONFLICT: A driven pin differs in 4 consecutive frames, so the unit logs and lowers its grade to 5. (R364) -/
  | driveConflict (out : SharedOut)
  /-- TWPC_AUTO_PULSE: The winner drives TWPC_OUT low for 50 ms after the wedge time. (R368) -/
  | twpcAutoPulse
  /-- TWPC_IN_PULSE: A low level on TWPC_IN is filtered: short ones are ignored, and one of 20 ms turns the rails off for 200 ms. (R369) -/
  | twpcInPulse (ms : BitVec 16)
  /-- TWPC_RAIL_OFF_END: The 200 ms rail-off ends and the unit boots as a cold reset. (R369) -/
  | twpcRailOffEnd
  /-- TWPC_HOLD_LAPSE: An unrefreshed hold signal lapses after 10 ms. (R369) -/
  | twpcHoldLapse
  /-- SUNDOG_LANES_LOCK: The link lanes lock and the link enters training. (R372) -/
  | sundogLanesLock (lanes : BitVec 4) (latency : BitVec 16)
  /-- SUNDOG_LINK_UP: 16 complete engine cycles bring the link up. (R372) -/
  | sundogLinkUp
  /-- LINK_DOWN: The third cycle without CYCLE_OPEN, or fewer than 3 lanes, takes the link down. (R372) -/
  | linkDown
  /-- CYCLE_OPEN: A received CYCLE_OPEN carries the partner's claim, state, verdict and device-state block. (R373) -/
  | cycleOpen (f : CycleOpen)
  /-- INPUT: A received INPUT block carries a position record of the lead's captured channels. (R374) -/
  | input (cyc : Word) (pos : Fin 32) (words : List Word) (bias : Option (List (Fin 4)))
  /-- STATE_FRAME: A received STATE block carries region snapshots for comparison or attach. (R376) -/
  | stateFrame (region : BitVec 16) (offset : Word) (bytes : List Byte)
  /-- CMD_FRAME: A received CMD block carries forwarded commands, acknowledgements, trigger records or state requests. (R377) -/
  | cmdFrame (recs : List LinkRec)
  /-- SIG: A received SIG block carries the partner's 16 output signatures. (R378) -/
  | sig (sigs : List (BitVec 64))
  /-- CYCLE_CLOSE: A received CYCLE_CLOSE gives the block counts of the cycle. (R373) -/
  | cycleClose (cyc : Word) (inputs : Fin 33)
  /-- BULK: A received BULK block carries bulk-sync data or a tee record. (R381) -/
  | bulk (item : BulkItem)
  /-- SUNDOG_ACK: A received acknowledgement or negative acknowledgement ends or resends a block. (R373) -/
  | sundogAck (ok : Bool)
  /-- PAIR_VERDICT: At d + 9 each unit sends its verdict record. (R379) -/
  | pairVerdict
  /-- PAIR_DECISION: At d + 10 both units apply the decision rules and demote one unit. (R380) -/
  | pairDecision
  /-- ATTACH_START: With the link up and a LEAD and a detached partner, an attach starts and runs its checks. (R381) -/
  | attachStart (peer : PeerInfo)
  /-- BULK_COPY_COMPLETE: The bulk copy completes and the source names the cut-over tick. (R381) -/
  | bulkCopyComplete (cut : Word) (st : Fin 8)
  /-- CUTOVER_TICK: At C the receiver enters SYNCED. (R381) -/
  | cutoverTick
  /-- STANDBY_PROMOTION: A non-home SYNCED unit reaches 16 matching cycles and becomes STANDBY. (R384) -/
  | standbyPromotion
  /-- RECLAIM_PROMOTION: A home unit reaches 1,000 matches and its hold-off, so it is promoted with its home bit. (R386) -/
  | reclaimPromotion
  /-- CMD_DOORBELL: A write of CMD_RINGn_DB advances pi, or is ignored as a protocol fault. (R388) -/
  | cmdDoorbell (n : Fin 16) (pi : BitVec 16)
  /-- CMD_CDB_WRITE: A write of CMD_RINGn_CDB frees completion entries. (R388) -/
  | cmdCdbWrite (n : Fin 16) (cci : BitVec 16)
  /-- CMD_RING_ENABLE: CMD_RINGn_CTRL.enable enables an OFF ring and zeroes its indices, or sets cfg_bad. (R387) -/
  | cmdRingEnable (n : Fin 16)
  /-- CMD_RING_DISABLE: CMD_RINGn_CTRL.disable starts draining the ring. (R409) -/
  | cmdRingDisable (n : Fin 16)
  /-- RING_DRAIN_DONE: The last final completion of a draining ring is written and the ring enters OFF. (R409) -/
  | ringDrainDone (n : Fin 16)
  /-- COMMAND_FETCH: A submitted command is fetched once the completion ring has room. (R389) -/
  | commandFetch (n : Fin 16)
  /-- COMMAND_DECISION: The command processor decides the next command in service order. (R398) -/
  | commandDecision
  /-- RING0_DECODE: The hardware decoder consumes a ring-0 command, executing overrides or queueing the rest. (R399) -/
  | ring0Decode
  /-- CP_WATCHDOG_EXPIRY: 250 ms without a kick resets the command processor and starts re-initialisation. (R482) -/
  | cpWatchdogExpiry
  /-- CP_TRAP: An instruction-fetch trap stops the command processor and starts re-initialisation. (R482) -/
  | cpTrap
  /-- CP_RESTART: Glehal restarts after re-initialisation, rebuilds its state and resumes ring service. (R483) -/
  | cpRestart
  /-- SYS_WDOG_KICK: A SYS_WDOG write of 0x6B1C by the command processor kicks the watchdog; any other write sets kick_bad. (R513) -/
  | sysWdogKick (master : Master) (v : BitVec 16)
  /-- SYS_RESET_WRITE: A write of SYS_RESET resets the device at the next tick, or is refused. (R511) -/
  | sysResetWrite (v : Word)
  /-- SYS_REMAP_WRITE: Setting SYS_REMAP.remap maps system SRAM at address 0. (R469) -/
  | sysRemapWrite (v : Word)
  /-- DUSK_EXIT_READY: 50 µs after a Dusk exit tick the memory serves accesses. (R185) -/
  | duskExitReady (m : Fin 5)
  /-- MEM_DUSK_WRITE: A write of MEM_DUSK.req requests Dusk entry or exit at the next tick, or is refused. (R186) -/
  | memDuskWrite (master : Master) (req : BitVec 5)
  /-- SCRUB_PASS: The DRAM patrol scrub completes a pass. (R193) -/
  | scrubPass
  /-- SELFTEST_DONE: A targeted self-test finishes and marks the resource transient or lasting-faulty. (R473) -/
  | selftestDone (kind : Fin 8) (res : BitVec 18) (pass : Bool) (word : Word)
  /-- FENCE: At the next tick a lasting-faulty resource is fenced or remapped to a spare. (R474) -/
  | fence
  /-- LADDER_STEP: An escalation takes the next recovery-ladder step: FUNC_REINIT, warm or cold reset, or PWR_CYCLE. (R479) -/
  | ladderStep (step : Fin 6) (func : BitVec 8)
  /-- LADDER_HELD_RELEASE: The held-off step is taken at the first tick at which its condition no longer holds. (R480) -/
  | ladderHeldRelease
  /-- FUNC_RESTART: A function held in reset restarts with its configuration restored. (R485) -/
  | funcRestart (func : BitVec 8)
  /-- LOG_FLUSH: Staged log entries are written to flash. (R492) -/
  | logFlush
  /-- FLASH_OPERATION_DONE: A flash read, program or erase completes, suspended operations resuming after class 5–7 reads. (R195) -/
  | flashOperationDone (corrections : Nat) (uncorr blockFail : Bool)
  /-- BUS_BURST: A master's burst is granted at a target and completes with a response on each beat. (R458) -/
  | busBurst (b : Burst)
  /-- BUS_TIMEOUT: A target leaves a granted beat unanswered for 1.049 ms and the burst ends TARGET_ERR. (R461) -/
  | busTimeout (master : Master) (target : Fin 10) (write : Bool) (addr : Word) (beats : Fin 17)
  /-- BUS_ABANDON: A master reset mid-burst makes the matrix complete the burst harmlessly. (R465) -/
  | busAbandon (master : Master) (target : Fin 10) (addr : Word)
  /-- CLK_GATE_REQ_WRITE: A write of CLK_GATE_REQ requests gating or opens a gate, or is refused. (R332) -/
  | clkGateReqWrite (master : Master) (req : BitVec 10)
  /-- GATE_QUIESCENT: The block's interface goes quiescent and its gate closes. (R332) -/
  | gateQuiescent (k : Fin 10)
  /-- GATE_QUIESCE_TIMEOUT: After 4,096 FAB cycles the matrix forces quiescence and the gate closes. (R332) -/
  | gateQuiesceTimeout (k : Fin 10)
  /-- THERMAL_SAMPLE: Each 1 ms sensor sample updates Tj and drives the governor thresholds. (R497) -/
  | thermalSample (t0 t1 t2 t3 t4 : BitVec 16)
  /-- THERMAL_EXIT_TIMER: Tj below exit_tj (or 140 °C) for 10 s clears the thermal condition or shed level 2. (R497) -/
  | thermalExitTimer (hot2 : Bool)
  /-- SUPPLY_LOW_TIMER: VSYS below squall_v for 1 s sets the supply condition. (R498) -/
  | supplyLowTimer
  /-- SUPPLY_CLEAR_TIMER: VSYS at squall_v + 1 V for 60 s clears the supply condition. (R498) -/
  | supplyClearTimer
  /-- BUDGET_EXCEEDED: Input power above PWR_BUDGET for 100 ms sets the budget condition. (R498) -/
  | budgetExceeded
  /-- VAUX_OVERCURRENT: A VAUX load above 650 mA turns VAUX off within 1 ms. (R494) -/
  | vauxOvercurrent
  /-- VAUX_RETRY: Every 100 ms VAUX retries. (R494) -/
  | vauxRetry (ok : Bool) (ma : BitVec 16)
  /-- NIGHTFALL_BYPASS: At N + 1 non-survival quads bypass and the crosspoint stops. (R504) -/
  | nightfallBypass
  /-- NIGHTFALL_DUSK: At N + 2 memories enter Dusk, blocks are gated, the link drops to lane 0 and the command completes. (R504) -/
  | nightfallDusk
  /-- WAKE_EVENT: A filtered WAKE pulse, or another wake trigger, starts the wake sequence in NIGHTFALL. (R519) -/
  | wakeEvent
  /-- WAKE_GATES_OPEN: At tick W gates open, Dusk ends, and NETB and the link lanes restart. (R505) -/
  | wakeGatesOpen
  /-- WAKE_RUN: At W + 1 the device enters RUN and recorded sinks unmute. (R505) -/
  | wakeRun
  /-- WP_LOCKOUT_END: The 60 s WP_SET lockout ends. (R454) -/
  | wpLockoutEnd
  /-- SEC_AKEY_COMMIT: SEC_AKEY_CTRL.commit stores the alarm key and zeroes its replay state. (R451) -/
  | secAkeyCommit
  /-- XPT_QPUSH: A write of XPT_QPUSH pushes the staged entry into the swap queue or discards it. (R72) -/
  | xptQpush (master : Master)
  /-- XPT_CNT_CLR_SAT: XPT_CNT_CLR.sat clears XPT_SAT_CNT and XPT_SAT_LAST. (R66) -/
  | xptCntClrSat
  /-- XPT_CNT_CLR_ECC: XPT_CNT_CLR.ecc clears XPT_ECC_CNT. (R77) -/
  | xptCntClrEcc
  /-- XPT_CNT_CLR_BLK: XPT_CNT_CLR.blk clears XPT_BLK_CNT. (R73) -/
  | xptCntClrBlk
  /-- XPT_CAP_ARM: XPT_CAPn_CFG.arm arms a capture buffer for its start cycle. (R83) -/
  | xptCapArm (n : Fin 4)
  /-- PATCH_PUSH: A write of PATCH_PUSH pushes the staged request into the 64-entry queue or discards it. (R541) -/
  | patchPush (master : Master)
  /-- PATCH_CNT_CLR_SINKS: PATCH_CNT_CLR.sinks clears every sink saturation counter. (R57) -/
  | patchCntClrSinks
  /-- PATCH_CNT_CLR_TOTAL: PATCH_CNT_CLR.total clears PATCH_SAT_TOTAL. (R57) -/
  | patchCntClrTotal
  /-- PATCH_MTR_CLR: PATCH_MTR_CLR.peak clears every peak at the next tick. (R82) -/
  | patchMtrClr
  /-- PATCH_MTR_CFG_WRITE: A change of win starts a new window at the next CYCLE divisible by 2^w. (R82) -/
  | patchMtrCfgWrite (win : BitVec 4)
  /-- OVR_ARM_WRITE: A write of OVR_ARM.key arms the plane with a new challenge, or sets key_fail. (R109) -/
  | ovrArmWrite (master : Master) (key : BitVec 16)
  /-- OVR_COMMIT_WRITE: A write of OVR_COMMIT while armed runs the commit checks and sets commit_pend on a pass. (R110) -/
  | ovrCommitWrite (master : Master) (resp : BitVec 16)
  /-- ENG_CNT_CLR_OVERRUN: ENG_CNT_CLR.overrun clears ENG_OVERRUN_CNT. (R47) -/
  | engCntClrOverrun
  /-- ENG_MARGIN_MIN_READ: A read of ENG_MARGIN_MIN returns the window and resets it. (R514) -/
  | engMarginMinRead
  /-- CLU_CNT_CLR_SAT: CLUn_CNT_CLR.sat clears every core saturation counter. (R154) -/
  | cluCntClrSat (n : Fin 4)
  /-- CLU_LOAD_READ: A read of CLUn_COREk_LOAD returns and clears the largest load. (R515) -/
  | cluLoadRead (n : Fin 4) (k : Fin 8)
  /-- MEM_CNT_CLR_DLQ: MEM_CNT_CLR.dlq clears MEM_DLQ_DROP. (R192) -/
  | memCntClrDlq
  /-- MEM_CNT_CLR_CONF: MEM_CNT_CLR.conf clears every MEM_CONFn. (R176) -/
  | memCntClrConf
  /-- MEM_CNT_CLR_DRAM: MEM_CNT_CLR.dram clears MEM_DRAM_ECC. (R193) -/
  | memCntClrDram
  /-- MEM_CNT_CLR_SRAM: MEM_CNT_CLR.sram clears the SRAM ECC counters and MEM_ECC_LAST.valid. (R179) -/
  | memCntClrSram
  /-- MEM_DRAM_RT_READ: A read of MEM_DRAM_RT returns and clears the peak. (R191) -/
  | memDramRtRead
  /-- BUS_CNT_CLR_LK: BUS_CNT_CLR.lk clears BUS_LKCNT. (R464) -/
  | busCntClrLk
  /-- BUS_CNT_CLR_EV: BUS_CNT_CLR.ev clears BUS_EVCNT. (R466) -/
  | busCntClrEv
  /-- BUS_CNT_CLR_ERR: BUS_CNT_CLR.err clears BUS_ERRCNT and BUS_ERR_LAST.valid. (R459) -/
  | busCntClrErr
  /-- BUS_WAIT_READ: A read of BUS_WAITt returns and clears the longest wait. (R463) -/
  | busWaitRead (t : Fin 10)
  /-- CMD_PEND_READ: A read of CMD_PEND returns and clears the peak. (R402) -/
  | cmdPendRead
  /-- FLASHC_SUSP_READ: A read of FLASHC_SUSP returns and clears the worst suspension latency. (R195) -/
  | flashcSuspRead
  /-- PWR_TJ_MAX_READ: A read of PWR_TJ_MAX returns and resets the highest Tj. (R496) -/
  | pwrTjMaxRead
  /-- PTP_DTIME_LO_READ: A read of PTP_DTIME_LO latches the high word. (R315) -/
  | ptpDtimeLoRead
  /-- PTP_STEP_LO_READ: A read of PTP_STEP_LO latches the high word. (R320) -/
  | ptpStepLoRead
  /-- BROADCAST_ALIAS_WRITE: A write to a broadcast alias writes every instance of the aliased range in order. (R508) -/
  | broadcastAliasWrite (master : Master) (addr : Word) (v : Word)
  /-- GROUP_ALIAS_WRITE: A write to a group alias writes every instance selected by GRPSEL. (R508) -/
  | groupAliasWrite (master : Master) (addr : Word) (v : Word)
  /-- REGISTER_WRITE: A write to any register without its own row obeys the field access types and locks. (R8) -/
  | registerWrite (master : Master) (addr : Word) (v : Word)
  /-- RDSR: Quad-SPI read of the status byte. (R447) -/
  | rdsr
  /-- CLSR: Quad-SPI clear of the err bit. (R443) -/
  | clsr
  /-- RDID: Quad-SPI read of SYS_ID. (R443) -/
  | rdid
  /-- READ: Quad-SPI single-line read with status byte. (R444) -/
  | read (addr : Word) (words : BitVec 8) (ready : Bool)
  /-- READ_Q: Quad-SPI read with quad data lines. (R444) -/
  | readQ (addr : Word) (words : BitVec 8) (ready : Bool)
  /-- READ_QIO: Quad-SPI read with quad address and data. (R444) -/
  | readQio (addr : Word) (words : BitVec 8) (ready : Bool)
  /-- WRITE: Quad-SPI single-line write into the 64-byte buffer. (R445) -/
  | write (addr : Word) (bytes : List Byte)
  /-- WRITE_Q: Quad-SPI write with quad data lines. (R445) -/
  | writeQ (addr : Word) (bytes : List Byte)
  /-- WRITE_QIO: Quad-SPI write with quad address and data. (R445) -/
  | writeQio (addr : Word) (bytes : List Byte)
  /-- QSPI_WRITE_FLUSH: HCS_N rising flushes the write buffer as whole words. (R445) -/
  | qspiWriteFlush
  /-- OTP_KEY: TAP instruction that writes a key hash into an empty OTP slot while JTAG is unlocked. (R452) -/
  | otpKey (slot : Fin 3) (hash : BitVec 256)
  /-- EXTEST: TAP boundary-scan EXTEST, refused except in BOOT with BOOTSEL 10. (R455) -/
  | extest
  /-- BYPASS: TAP BYPASS instruction. (R455) -/
  | bypass
  /-- IDCODE: TAP IDCODE instruction, which reads 0x1B02_4D3F. (R455) -/
  | idcode
  /-- NOP: Command that does nothing and completes DONE. (R417) -/
  | nop (c : Cmd)
  /-- SYS_INFO: Command that returns identity, state, grade, version and epoch. (R417) -/
  | sysInfo (c : Cmd)
  /-- ABORT: Command that stops a pending or running command by ring and tag. (R405) -/
  | abort (c : Cmd)
  /-- SYS_STATE: Command that starts, stops, enters or releases SQUALL, enters NIGHTFALL or wakes. (R417) -/
  | sysState (c : Cmd)
  /-- SYS_RESET: Command that resets the device warm or cold and ends the ring epoch. (R419) -/
  | sysReset (c : Cmd)
  /-- GROUP_DEF: Command that defines a group's member class and bitmap. (R418) -/
  | groupDef (c : Cmd)
  /-- GROUP_READ: Command that returns a group's class, count and bitmap. (R417) -/
  | groupRead (c : Cmd)
  /-- REG_READ: Command that reads registers with bus-read side effects. (R420) -/
  | regRead (c : Cmd)
  /-- REG_WRITE: Command that writes consecutive registers at the commit tick, all or none. (R420) -/
  | regWrite (c : Cmd)
  /-- REG_RMW: Command that masks and writes one register, returning its old value. (R420) -/
  | regRmw (c : Cmd)
  /-- PATCH_IN: Command that selects a source for crosspoint inputs by dip. (R421) -/
  | patchIn (c : Cmd)
  /-- SINK_SET: Command that selects, mutes, unmutes or disconnects a sink. (R421) -/
  | sinkSet (c : Cmd)
  /-- XPT_NODE: Command that writes one node gain into its column's shadow bank. (R421) -/
  | xptNode (c : Cmd)
  /-- XPT_COL: Command that writes consecutive gains of a column's shadow bank. (R421) -/
  | xptCol (c : Cmd)
  /-- XPT_SWAP: Command that queues a bank swap with ramp for columns. (R421) -/
  | xptSwap (c : Cmd)
  /-- XPT_COPY: Command that queues a COPY of active into shadow banks. (R421) -/
  | xptCopy (c : Cmd)
  /-- XPT_READ: Command that reads gains of a column's active or shadow bank. (R421) -/
  | xptRead (c : Cmd)
  /-- METER_READ: Command that returns peak and mean square of meter points. (R421) -/
  | meterRead (c : Cmd)
  /-- CAPTURE: Command that arms a capture buffer at its apply cycle. (R421) -/
  | capture (c : Cmd)
  /-- PARAM_WRITE: Command that writes parameter words into strips' shadow banks. (R423) -/
  | paramWrite (c : Cmd)
  /-- PARAM_SWAP: Command that swaps strips' parameter banks at its apply cycle. (R423) -/
  | paramSwap (c : Cmd)
  /-- PARAM_READ: Command that returns a strip's parameter and its quad's shadow state. (R423) -/
  | paramRead (c : Cmd)
  /-- IMG_WRITE: Chunked command that opens, fills or closes an engine-image slot. (R422) -/
  | imgWrite (c : Cmd)
  /-- IMG_ACTIVATE: Command that activates an image slot by full restart, dip or seamless switch. (R136) -/
  | imgActivate (c : Cmd)
  /-- IMG_PIN: Command that pins a VALID slot as the default. (R144) -/
  | imgPin (c : Cmd)
  /-- IMG_STATUS: Command that returns slot states, ids and digest. (R423) -/
  | imgStatus (c : Cmd)
  /-- FW_WRITE: Chunked command that writes a firmware slot. (R422) -/
  | fwWrite (c : Cmd)
  /-- SP_CONFIG: Command that configures stopped serial ports. (R237) -/
  | spConfig (c : Cmd)
  /-- SP_CTRL: Command that starts, stops, mutes or unmutes serial ports. (R424) -/
  | spCtrl (c : Cmd)
  /-- SP_MASK: Command that commits slot masks at its apply cycle. (R230) -/
  | spMask (c : Cmd)
  /-- DEC_CONFIG: Command that configures stopped decimation channels. (R210) -/
  | decConfig (c : Cmd)
  /-- DEC_TAPS: Command that writes compensation taps of stopped channels. (R210) -/
  | decTaps (c : Cmd)
  /-- DEC_CTRL: Command that starts or stops decimation channels. (R208) -/
  | decCtrl (c : Cmd)
  /-- DEC_CLOCK: Command that sets PDM clocks and DEC timers. (R210) -/
  | decClock (c : Cmd)
  /-- ANA_IN: Command that configures analog inputs and bias thresholds. (R424) -/
  | anaIn (c : Cmd)
  /-- ANA_OUT: Command that configures analog output hold and timeout. (R424) -/
  | anaOut (c : Cmd)
  /-- ASRC_READ: Command that returns a converter channel and its tracker. (R424) -/
  | asrcRead (c : Cmd)
  /-- NET_CONFIG: Command that configures a network port. (R425) -/
  | netConfig (c : Cmd)
  /-- STRM_TX_SETUP: Command that records a transmit stream's configuration. (R425) -/
  | strmTxSetup (c : Cmd)
  /-- STRM_RX_SETUP: Command that records a receive stream and its legs. (R425) -/
  | strmRxSetup (c : Cmd)
  /-- STRM_CTRL: Command that starts or stops streams, claiming or releasing resources. (R290) -/
  | strmCtrl (c : Cmd)
  /-- STRM_TAG: Command that sets the stream tag ID. (R425) -/
  | strmTag (c : Cmd)
  /-- SAP_READ: Command that returns cached SAP announcements. (R425) -/
  | sapRead (c : Cmd)
  /-- PTP_CONFIG: Command that configures the PTP clock. (R426) -/
  | ptpConfig (c : Cmd)
  /-- PTP_RESTEP: Command that re-steps DTIME at its apply cycle. (R320) -/
  | ptpRestep (c : Cmd)
  /-- REF_SELECT: Command that selects the media-clock reference under pins 111. (R344) -/
  | refSelect (c : Cmd)
  /-- REF_CONFIG: Command that configures reference loop, tolerances, ranks and offsets. (R426) -/
  | refConfig (c : Cmd)
  /-- TIME_READ: Command that returns DTIME and CYCLE of the same tick and the servo state. (R426) -/
  | timeRead (c : Cmd)
  /-- MSG_WRITE: Chunked command that writes a message and its directory entry. (R258) -/
  | msgWrite (c : Cmd)
  /-- CHAIN_WRITE: Command that writes a chain's steps. (R427) -/
  | chainWrite (c : Cmd)
  /-- PLAY_START: Command that starts a chain on a named or any player at a class. (R268) -/
  | playStart (c : Cmd)
  /-- PLAY_STOP: Command that stops players. (R428) -/
  | playStop (c : Cmd)
  /-- GEN_CONFIG: Command that configures disabled generators. (R427) -/
  | genConfig (c : Cmd)
  /-- GEN_CTRL: Command that enables or disables generators and sets level or frequency. (R276) -/
  | genCtrl (c : Cmd)
  /-- VIS_CONFIG: Command that configures an estimator zone. (R282) -/
  | visConfig (c : Cmd)
  /-- CIN_CONFIG: Command that configures contact inputs. (R429) -/
  | cinConfig (c : Cmd)
  /-- CIN_THR: Command that sets a contact threshold set. (R247) -/
  | cinThr (c : Cmd)
  /-- DRV_CONFIG: Command that configures driver outputs. (R429) -/
  | drvConfig (c : Cmd)
  /-- LS_CONFIG: Command that configures a line monitor. (R429) -/
  | lsConfig (c : Cmd)
  /-- LS_LEARN: Command that learns a monitor's reference impedance. (R429) -/
  | lsLearn (c : Cmd)
  /-- SUP_READ: Command that returns supervision status and grade. (R429) -/
  | supRead (c : Cmd)
  /-- GPIO_CONFIG: Command that sets GPIO functions and levels. (R252) -/
  | gpioConfig (c : Cmd)
  /-- PAIR_ATTACH: Command that starts an attach and clears attach_fail and unstable. (R381) -/
  | pairAttach (c : Cmd)
  /-- PAIR_DETACH: Command that detaches the STANDBY or SYNCED unit to DETACHED-WARM. (R430) -/
  | pairDetach (c : Cmd)
  /-- PAIR_YIELD: Command that makes the lead show grade 0 until the partner wins. (R431) -/
  | pairYield (c : Cmd)
  /-- PAIR_RECLAIM: Command that promotes the waiting home unit. (R430) -/
  | pairReclaim (c : Cmd)
  /-- PAIR_CONFIG: Command that sets pair configuration on both units. (R430) -/
  | pairConfig (c : Cmd)
  /-- TWPC_PULSE: Command that pulses TWPC_OUT while this unit is the winner. (R368) -/
  | twpcPulse (c : Cmd)
  /-- PAIR_READ: Command that returns pair status, claims, match count and link. (R430) -/
  | pairRead (c : Cmd)
  /-- SELFTEST: Command that runs a targeted self-test on a resource. (R432) -/
  | selftest (c : Cmd)
  /-- MEM_READ: Command that reads memory into a reply buffer as a background job. (R432) -/
  | memRead (c : Cmd)
  /-- MEM_DUSK: Command that requests Dusk for memories. (R186) -/
  | memDusk (c : Cmd)
  /-- WISP_CONFIG: Command that enables Wisp per memory. (R432) -/
  | wispConfig (c : Cmd)
  /-- SEC_STATUS: Command that returns key, JTAG and protection status. (R433) -/
  | secStatus (c : Cmd)
  /-- KEY_REVOKE: Command that revokes an OTP key slot. (R452) -/
  | keyRevoke (c : Cmd)
  /-- MGMT_KEY: Command that sets the management key and optionally zeroes replay counters. (R433) -/
  | mgmtKey (c : Cmd)
  /-- JTAG_LOCK: Command that permanently locks JTAG. (R455) -/
  | jtagLock (c : Cmd)
  /-- WP_SET: Command that turns write protection on, or off with a credential. (R454) -/
  | wpSet (c : Cmd)
  /-- LOG_READ: Command that returns log entries or sequence bounds. (R434) -/
  | logRead (c : Cmd)
  /-- LOG_MARK: Command that writes a host entry into the log. (R434) -/
  | logMark (c : Cmd)
  /-- OVR_ASSERT: Ring-0 command, decoded in hardware, that sets a trigger's ring0 flag. (R91) -/
  | ovrAssert (c : Cmd)
  /-- OVR_RELEASE: Ring-0 command, decoded in hardware, that clears a trigger's flags. (R91) -/
  | ovrRelease (c : Cmd)
  /-- OVR_STAGE: Command that writes a staging trigger entry. (R435) -/
  | ovrStage (c : Cmd)
  /-- OVR_STAGE_MASK: Command that writes a staging column mask. (R435) -/
  | ovrStageMask (c : Cmd)
  /-- OVR_ARM: Command that arms the override plane and returns the challenge. (R435) -/
  | ovrArm (c : Cmd)
  /-- OVR_COMMIT: Command that checks and commits the staging table at its apply cycle. (R436) -/
  | ovrCommit (c : Cmd)
  /-- OVR_COLCLASS: Command that sets columns' declared class. (R435) -/
  | ovrColclass (c : Cmd)
  /-- OVR_READ: Command that returns a trigger's flags, columns and live entry. (R435) -/
  | ovrRead (c : Cmd)
  /-- AOUT_ZC_TIMEOUT: An analog output gate finds no zero crossing within zc_to + 1 ms, opens or closes by a ramp and sets ANAn_STATUS.zc_timeout. (R244) -/
  | aoutZcTimeout (n : Fin 8)
  /-- STREAM_UNIT_UNHEARD: A sending unit of a claim-aware receive stream has no packet for max(4 packet times, 2 ms), stops being heard, and the merge winner is chosen again. (R302) -/
  | streamUnitUnheard (s : Fin 128) (u : BitVec 11)
  /-- ARP_REQUEST_RECEIVED: An ARP request arrives and the device answers it for its own address, and for NETx_PAIR_IP only while it is the claim winner. (R305) -/
  | arpRequestReceived (netb : Bool) (ip : Word)
  /-- REFSEL_CHANGE: The REFSEL pins change after they were sampled, which sets REF_STATUS.pin_chg and changes nothing else until the next reset. (R335) -/
  | refselChange (pins : Fin 8)
  /-- AFTERGLOW_BACK_IN_RANGE: The PER-domain check finds Afterglow again within 0.5–8 MHz, so its grade-5 condition clears and the grade rises at the next tick. (R331) -/
  | afterglowBackInRange (khz : BitVec 13)
  /-- VSYS_SAMPLE: A 1 ms supply measurement updates VSYS, current and power and sets vsys_low below 9.0 V or vsys_high above 36.5 V. (R493) -/
  | vsysSample (mv ma p10 : BitVec 16)
  /-- PPS_OUT_PULSE: At each second mark plus REF_PPS_OFS a 100 µs PPS_OUT pulse starts, applying any pending offset change and omitting a pulse less than 0.5 s after the previous one. (R345) -/
  | ppsOutPulse (elapsed : Word)
  /-- DEBUG_HALT: A TAP debug-halt request of the command processor is obeyed only in BOOT with BOOTSEL = 10 and JTAG unlocked, and is refused otherwise. (R455) -/
  | debugHalt
  deriving DecidableEq, Repr

end Sys2Proof
end

