-- ==== Sys2Proof/Config.lean ====
section
/-! DEFINITION. What the spec leaves to the implementation or computes by algorithms outside it, and the free values.
Each constant has no body: nothing can be proved about its value. -/

namespace Sys2Proof.Config

/-- A free value of 32 bits, the n-th that the machine draws (State.free counts them). -/
opaque freeValue : Nat → BitVec 32

/-- How a quotient is rounded where a rule states a quotient and no rounding: up, or down. -/
opaque roundUp : Int → Nat → Bool

/-- Which quad (kind × 256 + quad) parameter descriptor i of a PARAM section belongs to: R126 does not say. -/
opaque paramOwner : List Byte → Nat → Nat

/-- First record and record count of bound list i in a BOUND section: R132 does not give the delimiting. -/
opaque boundSplit : List Byte → Nat → Nat × Nat

/-- The DRAM bank of an 8 KiB row (R474 gives 64 spare rows per bank and no mapping). -/
opaque dramBank : Nat → Nat

end Sys2Proof.Config
end

