-- ==== Sys2Proof/Machine/Arith.lean ====
section
/-! DEFINITION. Exact arithmetic: signed fields, saturation, convergent rounding, scale and ramp (R53, R54, R57),
comparison of wrapping counters (R5, R6), byte order (R1) and the checksums the spec names. -/

namespace Sys2Proof.Machine

/-- A quotient that a rule states without its rounding: one of the two neighbouring integers, the implementation's choice
(notes/assumptions/74.md). -/
def openDiv (x : Int) (d : Nat) : Int :=
  let q := x / (d : Int)
  if x % (d : Int) = 0 then q else if Config.roundUp x d then q + 1 else q

/-- The signed value of the low `n` bits of a number. -/
def signedOf (n : Nat) (v : Nat) : Int :=
  let m := v % 2 ^ n
  if m < 2 ^ (n - 1) then (m : Int) else (m : Int) - (2 ^ n : Nat)

/-- The low `n` bits of an integer, as a number. -/
def bitsOf (n : Nat) (x : Int) : Nat := (x % ((2 ^ n : Nat) : Int)).toNat

/-- The signed value of a 32-bit word. -/
def sval (w : Word) : Int := w.toInt

/-- The word of an integer, modulo 2^32. -/
def wordOf (x : Int) : Word := BitVec.ofInt 32 x

/-- Saturation to `n` signed bits. -/
def satTo (n : Nat) (x : Int) : Int :=
  if x < -((2 ^ (n - 1) : Nat) : Int) then -((2 ^ (n - 1) : Nat) : Int)
  else if x ≥ ((2 ^ (n - 1) : Nat) : Int) then ((2 ^ (n - 1) : Nat) : Int) - 1
  else x

/-- Whether an integer lies outside `n` signed bits. -/
def outOf (n : Nat) (x : Int) : Bool := decide (satTo n x ≠ x)

/-- Shift right by `k` bits with convergent rounding (R53 step 2). -/
def roundConv (v : Int) (k : Nat) : Int :=
  let q := v / ((2 ^ k : Nat) : Int)
  let r := v - q * ((2 ^ k : Nat) : Int)
  let half : Int := ((2 ^ (k - 1) : Nat) : Int)
  if k = 0 then v
  else if r > half then q + 1
  else if r = half ∧ q % 2 = 1 then q + 1
  else q

/-- Scale a Q5.27 sample by a Q4.28 gain (R53). -/
def scale (x g : Word) : Word := wordOf (satTo 32 (roundConv (sval x * sval g) 28))

/-- Unity gain in Q4.28 (R3). -/
def unity : Word := 0x10000000

/-- The step of a ramp over `n` samples (R54): truncated toward zero. -/
def rampStep (gOld gNew : Int) (n : Nat) : Int := ((gNew - gOld) * 4096).tdiv n

/-- The Q4.40 internal gain of ramp sample `i` of `n` (R54); the last one lands exactly. -/
def rampInternal (gOld gNew : Int) (n i : Nat) : Int :=
  if i < n then gOld * 4096 + i * rampStep gOld gNew n else gNew * 4096

/-- The gain applied at ramp sample `i` of `n` (R54): rounded toward minus infinity. -/
def rampGain (gOld gNew : Word) (n i : Nat) : Word :=
  wordOf (rampInternal (sval gOld) (sval gNew) n i / 4096)

/-- A 24-bit sink's PCM value and whether the rounded value lay outside its range (R57). -/
def toPcm24 (x : Word) : Int × Bool :=
  let r := roundConv (sval x) 4
  (satTo 24 r, outOf 24 r)

/-- A 16-bit sink's PCM value and whether the rounded value lay outside its range (R57). -/
def toPcm16 (x : Word) : Int × Bool :=
  let r := roundConv (sval x) 12
  (satTo 16 r, outOf 16 r)

/-- A 24-bit source sample as it enters the engine (R4, R56). -/
def fromPcm24 (v : Nat) : Word := wordOf (signedOf 24 v * 16)

/-- A 16-bit source sample as it enters the engine (R56). -/
def fromPcm16 (v : Nat) : Word := wordOf (signedOf 16 v * 4096)

/-- `a` is later than `b` as `n`-bit wrapping counters (R5, R6). -/
def laterN (n : Nat) (a b : Nat) : Bool :=
  let d := (a + 2 ^ n - b % 2 ^ n) % 2 ^ n
  decide (0 < d) && decide (d < 2 ^ (n - 1))

/-- `a` is later than `b` as 32-bit counters. -/
def later32 (a b : Word) : Bool := laterN 32 a.toNat b.toNat

/-- `a` is later than `b` as 16-bit counters. -/
def later16 (a b : BitVec 16) : Bool := laterN 16 a.toNat b.toNat

/-- The number of cycles from `b` to `a`, modulo 2^32. -/
def since (a b : Word) : Nat := (a - b).toNat

/-- Add to a counter that stops at its greatest value. -/
def bumpTo (limit : Nat) (v k : Nat) : Nat := min limit (v + k)

/-- The bytes of a word, lowest address first (R1). -/
def bytesOfWord (w : Word) : List Byte :=
  [w.extractLsb' 0 8, w.extractLsb' 8 8, w.extractLsb' 16 8, w.extractLsb' 24 8]

/-- The bytes of a list of words. -/
def bytesOfWords (ws : List Word) : List Byte := ws.flatMap bytesOfWord

/-- A little-endian number from bytes (R1). -/
def leNat : List Byte → Nat
  | [] => 0
  | b :: bs => b.toNat + 256 * leNat bs

/-- The `n` little-endian bytes of a number. -/
def leBytes : Nat → Nat → List Byte
  | 0, _ => []
  | n + 1, v => BitVec.ofNat 8 v :: leBytes n (v / 256)

/-- The words of a byte list, four bytes each; a short tail is padded with zeros. -/
def wordsOfBytes : List Byte → List Word
  | a :: b :: c :: d :: r => BitVec.ofNat 32 (leNat [a, b, c, d]) :: wordsOfBytes r
  | [] => []
  | r => [BitVec.ofNat 32 (leNat r)]

/-- A big-endian number from bytes (network order, R1). -/
def beNat (bs : List Byte) : Nat := bs.foldl (fun acc b => acc * 256 + b.toNat) 0

/-- The `n` bytes of a number in network order. -/
def beBytes (n v : Nat) : List Byte := (leBytes n v).reverse

/-- Field [hi:lo] of a word, as a number. -/
def fieldOf (w : Word) (hi lo : Nat) : Nat := (w.toNat / 2 ^ lo) % 2 ^ (hi + 1 - lo)

/-- One bit of a word. -/
def bitOf (w : Word) (i : Nat) : Bool := w.getLsbD i

/-- A word with one field set from a number; the other bits are zero. -/
def place (lo : Nat) (v : Nat) : Word := BitVec.ofNat 32 (v * 2 ^ lo)

/-- A bit as a number. -/
def b2n (b : Bool) : Nat := if b then 1 else 0

/-- Eight steps of a reflected CRC register. -/
def crcByteR (poly : Nat) (c : Nat) : Nat → Nat
  | 0 => c
  | k + 1 => crcByteR poly (if c % 2 = 1 then (c / 2) ^^^ poly else c / 2) k

/-- The reflected CRC-32 of IEEE 802.3 over bytes: polynomial 0x04C11DB7, all-ones start and final inversion. -/
def crc32 (bs : List Byte) : Word :=
  BitVec.ofNat 32 ((bs.foldl (fun c b => crcByteR 0xEDB88320 (c ^^^ b.toNat) 8) 0xFFFFFFFF) ^^^ 0xFFFFFFFF)

/-- `k` steps of a non-reflected CRC register of `n` bits. -/
def crcStepsM (n poly : Nat) (c : Nat) : Nat → Nat
  | 0 => c
  | k + 1 =>
    crcStepsM n poly (if c / 2 ^ (n - 1) % 2 = 1 then (c * 2 % 2 ^ n) ^^^ poly else c * 2 % 2 ^ n) k

/-- A non-reflected CRC of `n` bits over bytes, from a start value. -/
def crcMsb (n poly start : Nat) (bs : List Byte) : Nat :=
  bs.foldl (fun c b => crcStepsM n poly (c ^^^ (b.toNat * 2 ^ (n - 8))) 8) start

/-- CRC-64 of ECMA-182: polynomial 0x42F0E1EBA9EA3693, start zero. -/
def crc64 (bs : List Byte) : BitVec 64 := BitVec.ofNat 64 (crcMsb 64 0x42F0E1EBA9EA3693 0 bs)

/-- CRC-8 with polynomial 0x07, start zero. -/
def crc8 (bs : List Byte) : Byte := BitVec.ofNat 8 (crcMsb 8 0x07 0 bs)

/-- The integer square root, by bisection over `k` bits. -/
def isqrtAux (n : Nat) : Nat → Nat → Nat
  | 0, r => r
  | k + 1, r =>
    let t := r + 2 ^ k
    if t * t ≤ n then isqrtAux n k t else isqrtAux n k r

/-- The integer square root of a number below 2^128. -/
def isqrt (n : Nat) : Nat := isqrtAux n 64 0

end Sys2Proof.Machine
end

