-- ==== Sys2Proof/Machine/Crypto.lean ====
section
/-! DEFINITION. The algorithms that the spec names: SHA-256 and ECDSA P-256 (R116, R439, R452), HMAC-SHA-256 (R358, R448, R454). The
spec fixes the byte layouts of keys, signatures and tags; the algorithms and their constants are those of the standards of these names
(PRESUMED, notes/assumptions/73.md). -/

namespace Sys2Proof.Machine

/-! ### SHA-256 -/

/-- The round constants. -/
def shaK0 : List Nat :=
  [ 0x428a2f98, 0x71374491, 0xb5c0fbcf, 0xe9b5dba5, 0x3956c25b, 0x59f111f1, 0x923f82a4, 0xab1c5ed5,
    0xd807aa98, 0x12835b01, 0x243185be, 0x550c7dc3, 0x72be5d74, 0x80deb1fe, 0x9bdc06a7, 0xc19bf174,
    0xe49b69c1, 0xefbe4786, 0x0fc19dc6, 0x240ca1cc, 0x2de92c6f, 0x4a7484aa, 0x5cb0a9dc, 0x76f988da,
    0x983e5152, 0xa831c66d, 0xb00327c8, 0xbf597fc7, 0xc6e00bf3, 0xd5a79147, 0x06ca6351, 0x14292967 ]

def shaK1 : List Nat :=
  [ 0x27b70a85, 0x2e1b2138, 0x4d2c6dfc, 0x53380d13, 0x650a7354, 0x766a0abb, 0x81c2c92e, 0x92722c85,
    0xa2bfe8a1, 0xa81a664b, 0xc24b8b70, 0xc76c51a3, 0xd192e819, 0xd6990624, 0xf40e3585, 0x106aa070,
    0x19a4c116, 0x1e376c08, 0x2748774c, 0x34b0bcb5, 0x391c0cb3, 0x4ed8aa4a, 0x5b9cca4f, 0x682e6ff3,
    0x748f82ee, 0x78a5636f, 0x84c87814, 0x8cc70208, 0x90befffa, 0xa4506ceb, 0xbef9a3f7, 0xc67178f2 ]

/-- The hash value before the first block. -/
def shaStart : List Word :=
  [ 0x6a09e667, 0xbb67ae85, 0x3c6ef372, 0xa54ff53a, 0x510e527f, 0x9b05688c, 0x1f83d9ab, 0x5be0cd19 ]

/-- A message padded to whole blocks. -/
def shaPad (m : List Byte) : List Byte :=
  m ++ [(0x80 : Byte)] ++ List.replicate ((119 - m.length % 64) % 64) (0 : Byte) ++ beBytes 8 (8 * m.length)

/-- The big-endian words of a byte string. -/
def beWords : Nat → List Byte → List Word
  | 0, _ => []
  | n + 1, bs => BitVec.ofNat 32 (beNat (bs.take 4)) :: beWords n (bs.drop 4)

/-- One further word of the message schedule, whose words so far come newest first. -/
def shaNext (w : List Word) : Word :=
  let a := w.getD 1 0
  let b := w.getD 14 0
  let s1 := a.rotateRight 17 ^^^ a.rotateRight 19 ^^^ (a >>> 10)
  let s0 := b.rotateRight 7 ^^^ b.rotateRight 18 ^^^ (b >>> 3)
  s1 + w.getD 6 0 + s0 + w.getD 15 0

/-- The schedule extended by n words, newest first. -/
def shaExtend : Nat → List Word → List Word
  | 0, w => w
  | n + 1, w => shaExtend n (shaNext w :: w)

/-- One round, with its constant and its schedule word. -/
def shaRound (h : List Word) (kw : Nat × Word) : List Word :=
  match h with
  | [a, b, c, d, e, f, g, k] =>
    let s1 := e.rotateRight 6 ^^^ e.rotateRight 11 ^^^ e.rotateRight 25
    let ch := (e &&& f) ^^^ (~~~e &&& g)
    let t1 := k + s1 + ch + BitVec.ofNat 32 kw.1 + kw.2
    let s0 := a.rotateRight 2 ^^^ a.rotateRight 13 ^^^ a.rotateRight 22
    let maj := (a &&& b) ^^^ (a &&& c) ^^^ (b &&& c)
    [t1 + s0 + maj, a, b, c, d + t1, e, f, g]
  | _ => h

/-- One block of 64 bytes. -/
def shaBlock (h : List Word) (block : List Byte) : List Word :=
  let w := (shaExtend 48 (beWords 16 block).reverse).reverse
  let r := ((shaK0 ++ shaK1).zip w).foldl shaRound h
  (h.zip r).map (fun x => x.1 + x.2)

/-- The hash value after n blocks. -/
def shaBlocks : Nat → List Byte → List Word → List Word
  | 0, _, h => h
  | n + 1, bs, h => shaBlocks n (bs.drop 64) (shaBlock h (bs.take 64))

/-- The hash as bytes in order. -/
def sha256Bytes (m : List Byte) : List Byte :=
  let p := shaPad m
  (shaBlocks (p.length / 64) p shaStart).flatMap (fun w => beBytes 4 w.toNat)

/-- The hash as a number, its first byte the highest. -/
def sha256 (m : List Byte) : BitVec 256 := BitVec.ofNat 256 (beNat (sha256Bytes m))

/-! ### HMAC-SHA-256 -/

def hmacSha256 (key body : List Byte) : List Byte :=
  let k0 := if key.length > 64 then sha256Bytes key else key
  let k := k0 ++ List.replicate (64 - k0.length) (0 : Byte)
  sha256Bytes (k.map (· ^^^ 0x5C) ++ sha256Bytes (k.map (· ^^^ 0x36) ++ body))

/-! ### ECDSA P-256 -/

/-- The field prime, the order of the base point, the curve's constant b and the base point. -/
def pPrime : Nat := 0xFFFFFFFF00000001000000000000000000000000FFFFFFFFFFFFFFFFFFFFFFFF
def pOrder : Nat := 0xFFFFFFFF00000000FFFFFFFFFFFFFFFFBCE6FAADA7179E84F3B9CAC2FC632551
def pB : Nat := 0x5AC635D8AA3A93E7B3EBBD55769886BC651D06B0CC53B0F63BCE3C3E27D2604B
def pGx : Nat := 0x6B17D1F2E12C4247F8BCE6E563A440F277037D812DEB33A0F4A13945D898C296
def pGy : Nat := 0x4FE342E2FE1A7F9B8EE7EB4A7C0F9E162BCE33576B315ECECBB6406837BF51F5

/-- A power modulo m, over the low bits of the exponent. -/
def powMod (m : Nat) : Nat → Nat → Nat → Nat
  | 0, _, _ => 1 % m
  | n + 1, b, e =>
    let r := powMod m n (b * b % m) (e / 2)
    if e % 2 = 1 then r * b % m else r

/-- The inverse modulo a prime. -/
def invMod (m x : Nat) : Nat := powMod m 256 (x % m) (m - 2)

/-- A difference modulo the field prime. -/
def subP (x y : Nat) : Nat := (x + pPrime - y % pPrime) % pPrime

/-- A point as (X, Y, Z) with x = X / Z² and y = Y / Z³; Z = 0 is the point at infinity. -/
abbrev Point := Nat × Nat × Nat

def ptDouble (a : Point) : Point :=
  let (x, y, z) := a
  if z = 0 || y = 0 then (1, 1, 0)
  else
    let p := pPrime
    let zz := z * z % p
    let yy := y * y % p
    let m := 3 * (subP x zz) * ((x + zz) % p) % p
    let s := 4 * x * yy % p
    let x3 := subP (m * m % p) (2 * s)
    (x3, subP (m * subP s x3 % p) (8 * (yy * yy % p)), 2 * y * z % p)

def ptAdd (a b : Point) : Point :=
  let (x1, y1, z1) := a
  let (x2, y2, z2) := b
  if z1 = 0 then b
  else if z2 = 0 then a
  else
    let p := pPrime
    let z1z1 := z1 * z1 % p
    let z2z2 := z2 * z2 % p
    let u1 := x1 * z2z2 % p
    let u2 := x2 * z1z1 % p
    let s1 := y1 * z2 * z2z2 % p
    let s2 := y2 * z1 * z1z1 % p
    if u1 = u2 then (if s1 = s2 then ptDouble a else (1, 1, 0))
    else
      let h := subP u2 u1
      let r := subP s2 s1
      let hh := h * h % p
      let hhh := h * hh % p
      let v := u1 * hh % p
      let x3 := subP (subP (r * r % p) hhh) (2 * v)
      (x3, subP (r * subP v x3 % p) (s1 * hhh % p), h * z1 * z2 % p)

/-- A multiple of a point, over n bits of the factor. -/
def ptMul : Nat → Nat → Point → Point
  | 0, _, _ => (1, 1, 0)
  | n + 1, k, a =>
    let r := ptMul n (k / 2) (ptDouble a)
    if k % 2 = 1 then ptAdd r a else r

/-- Whether (x, y) is a point of the curve. -/
def onCurve (x y : Nat) : Bool :=
  x < pPrime && y < pPrime && y * y % pPrime == (x * x * x + (pPrime - 3) * x + pB) % pPrime

/-- Whether a signature over a digest verifies under a key: X, Y, r and s are 32-byte little-endian integers (R439, R113). -/
def ecdsaOk (key : List Byte) (digest : BitVec 256) (sig : List Byte) : Bool :=
  let x := leNat (key.take 32)
  let y := leNat (key.drop 32)
  let r := leNat (sig.take 32)
  let s := leNat (sig.drop 32)
  let n := pOrder
  key.length == 64 && sig.length == 64 && onCurve x y && 1 ≤ r && r < n && 1 ≤ s && s < n &&
    (let w := invMod n s
     let q := ptAdd (ptMul 256 (digest.toNat * w % n) (pGx, pGy, 1)) (ptMul 256 (r * w % n) (x, y, 1))
     let zi := invMod pPrime q.2.2
     q.2.2 != 0 && q.1 * (zi * zi % pPrime) % pPrime % n == r)

end Sys2Proof.Machine
end

