-- ==== Sys2Proof/Machine/Regs.lean ====
section
/-! DEFINITION. The register map: every register of the index (R506 and the register tables of each block's chapter),
its address, its fields, their access types (R8) and their reset values.

A register of an array takes its instance number(s). A field is a `Fld`: the register's address, the lowest bit, the width.
Reset values the spec does not give as a number are the model's own: notes/assumptions/2.md. -/

namespace Sys2Proof.Machine

/-- The access types of R8, and `rwl`, a field a lock may refuse (R11). -/
inductive Acc where
  | rw | ro | w1c | w1s | wo | sc | rwl
  deriving DecidableEq, Repr

/-- A field of one register: address, lowest bit, width. -/
structure Fld where
  addr : Nat
  lo : Nat
  width : Nat
  deriving DecidableEq, Repr

/-- A field in a register table: top bit, low bit, type, reset value. -/
structure FieldDef where
  hi : Nat
  lo : Nat
  acc : Acc
  reset : Nat
  deriving DecidableEq, Repr

/-- One row of the register map: name, base address, two array dimensions (count and stride), fields. -/
structure RegDef where
  name : String
  base : Nat
  n1 : Nat
  s1 : Nat
  n2 : Nat
  s2 : Nat
  fields : List FieldDef
  deriving DecidableEq, Repr

/-- Register SYS_ID (spec/23_register_index.md). -/
abbrev SYS_ID : Nat := 0x40000000
abbrev SYS_ID.id : Fld := ⟨SYS_ID, 0, 32⟩
/-- Register SYS_STEP (spec/23_register_index.md). -/
abbrev SYS_STEP : Nat := 0x40000004
abbrev SYS_STEP.rom : Fld := ⟨SYS_STEP, 8, 8⟩
abbrev SYS_STEP.step : Fld := ⟨SYS_STEP, 0, 8⟩
/-- Register SYS_STATE (spec/23_register_index.md). -/
abbrev SYS_STATE : Nat := 0x40000008
abbrev SYS_STATE.unit : Fld := ⟨SYS_STATE, 15, 1⟩
abbrev SYS_STATE.twin : Fld := ⟨SYS_STATE, 14, 1⟩
abbrev SYS_STATE.bootsel : Fld := ⟨SYS_STATE, 12, 2⟩
abbrev SYS_STATE.grade : Fld := ⟨SYS_STATE, 8, 3⟩
abbrev SYS_STATE.attach : Fld := ⟨SYS_STATE, 4, 3⟩
abbrev SYS_STATE.state : Fld := ⟨SYS_STATE, 0, 3⟩
/-- Register SYS_REMAP (spec/23_register_index.md). -/
abbrev SYS_REMAP : Nat := 0x4000000C
abbrev SYS_REMAP.remap : Fld := ⟨SYS_REMAP, 0, 1⟩
/-- Register SYS_RST_CAUSE (spec/23_register_index.md). -/
abbrev SYS_RST_CAUSE : Nat := 0x40000010
abbrev SYS_RST_CAUSE.cause : Fld := ⟨SYS_RST_CAUSE, 0, 4⟩
/-- Register SYS_RESET (spec/23_register_index.md). -/
abbrev SYS_RESET : Nat := 0x40000014
abbrev SYS_RESET.key : Fld := ⟨SYS_RESET, 16, 16⟩
abbrev SYS_RESET.force : Fld := ⟨SYS_RESET, 1, 1⟩
abbrev SYS_RESET.cold : Fld := ⟨SYS_RESET, 0, 1⟩
/-- Register SYS_WDOG (spec/23_register_index.md). -/
abbrev SYS_WDOG : Nat := 0x40000018
abbrev SYS_WDOG.ms : Fld := ⟨SYS_WDOG, 16, 16⟩
abbrev SYS_WDOG.kick : Fld := ⟨SYS_WDOG, 0, 16⟩
/-- Register SYS_STATUS (spec/23_register_index.md). -/
abbrev SYS_STATUS : Nat := 0x4000001C
abbrev SYS_STATUS.rst_refused : Fld := ⟨SYS_STATUS, 2, 1⟩
abbrev SYS_STATUS.kick_bad : Fld := ⟨SYS_STATUS, 1, 1⟩
abbrev SYS_STATUS.wr_refused : Fld := ⟨SYS_STATUS, 0, 1⟩
/-- Register SYS_IRQ_STAT (spec/23_register_index.md). -/
abbrev SYS_IRQ_STAT : Nat := 0x40000020
abbrev SYS_IRQ_STAT.irq : Fld := ⟨SYS_IRQ_STAT, 0, 26⟩
/-- Register SYS_IRQ_EN (spec/23_register_index.md). -/
abbrev SYS_IRQ_EN : Nat := 0x40000024
abbrev SYS_IRQ_EN.en : Fld := ⟨SYS_IRQ_EN, 0, 26⟩
/-- Register SYS_SERIAL_LO (spec/23_register_index.md). -/
abbrev SYS_SERIAL_LO : Nat := 0x40000028
abbrev SYS_SERIAL_LO.hash : Fld := ⟨SYS_SERIAL_LO, 0, 32⟩
/-- Register SYS_SERIAL_HI (spec/23_register_index.md). -/
abbrev SYS_SERIAL_HI : Nat := 0x4000002C
abbrev SYS_SERIAL_HI.hash : Fld := ⟨SYS_SERIAL_HI, 0, 32⟩
/-- Register CLK_STATUS (spec/14_clocks_and_references.md). -/
abbrev CLK_STATUS : Nat := 0x40010000
abbrev CLK_STATUS.xtal_ok : Fld := ⟨CLK_STATUS, 31, 1⟩
abbrev CLK_STATUS.pll_lock : Fld := ⟨CLK_STATUS, 30, 1⟩
abbrev CLK_STATUS.irc_run : Fld := ⟨CLK_STATUS, 29, 1⟩
abbrev CLK_STATUS.cause : Fld := ⟨CLK_STATUS, 8, 4⟩
abbrev CLK_STATUS.ag_fail : Fld := ⟨CLK_STATUS, 5, 1⟩
abbrev CLK_STATUS.gate_refused : Fld := ⟨CLK_STATUS, 4, 1⟩
abbrev CLK_STATUS.gate_forced : Fld := ⟨CLK_STATUS, 3, 1⟩
abbrev CLK_STATUS.retry_fail : Fld := ⟨CLK_STATUS, 2, 1⟩
abbrev CLK_STATUS.sup_trip : Fld := ⟨CLK_STATUS, 1, 1⟩
abbrev CLK_STATUS.wr_refused : Fld := ⟨CLK_STATUS, 0, 1⟩
/-- Register CLK_FAILCNT (spec/14_clocks_and_references.md). -/
abbrev CLK_FAILCNT : Nat := 0x40010004
abbrev CLK_FAILCNT.trips : Fld := ⟨CLK_FAILCNT, 16, 16⟩
abbrev CLK_FAILCNT.retries : Fld := ⟨CLK_FAILCNT, 0, 16⟩
/-- Register CLK_QUAL (spec/14_clocks_and_references.md). -/
abbrev CLK_QUAL : Nat := 0x40010008
abbrev CLK_QUAL.xtal : Fld := ⟨CLK_QUAL, 16, 7⟩
abbrev CLK_QUAL.irc : Fld := ⟨CLK_QUAL, 0, 7⟩
/-- Register CLK_GATE_REQ (spec/14_clocks_and_references.md). -/
abbrev CLK_GATE_REQ : Nat := 0x40010010
abbrev CLK_GATE_REQ.req : Fld := ⟨CLK_GATE_REQ, 0, 10⟩
/-- Register CLK_GATE_STAT (spec/14_clocks_and_references.md). -/
abbrev CLK_GATE_STAT : Nat := 0x40010014
abbrev CLK_GATE_STAT.pend : Fld := ⟨CLK_GATE_STAT, 16, 10⟩
abbrev CLK_GATE_STAT.closed : Fld := ⟨CLK_GATE_STAT, 0, 10⟩
/-- Register CLK_AFTERGLOW (spec/14_clocks_and_references.md). -/
abbrev CLK_AFTERGLOW : Nat := 0x40010018
abbrev CLK_AFTERGLOW.khz : Fld := ⟨CLK_AFTERGLOW, 0, 13⟩
/-- Register REF_STATUS (spec/14_clocks_and_references.md). -/
abbrev REF_STATUS : Nat := 0x40020000
abbrev REF_STATUS.pins : Fld := ⟨REF_STATUS, 29, 3⟩
abbrev REF_STATUS.ref : Fld := ⟨REF_STATUS, 26, 3⟩
abbrev REF_STATUS.mc : Fld := ⟨REF_STATUS, 24, 2⟩
abbrev REF_STATUS.pull_busy : Fld := ⟨REF_STATUS, 23, 1⟩
abbrev REF_STATUS.xchk : Fld := ⟨REF_STATUS, 6, 1⟩
abbrev REF_STATUS.hard : Fld := ⟨REF_STATUS, 5, 1⟩
abbrev REF_STATUS.soft : Fld := ⟨REF_STATUS, 4, 1⟩
abbrev REF_STATUS.holdover : Fld := ⟨REF_STATUS, 3, 1⟩
abbrev REF_STATUS.locked : Fld := ⟨REF_STATUS, 2, 1⟩
abbrev REF_STATUS.pin_chg : Fld := ⟨REF_STATUS, 1, 1⟩
abbrev REF_STATUS.wr_refused : Fld := ⟨REF_STATUS, 0, 1⟩
/-- Register REF_SEL (spec/14_clocks_and_references.md). -/
abbrev REF_SEL : Nat := 0x40020004
abbrev REF_SEL.sel : Fld := ⟨REF_SEL, 0, 3⟩
/-- Register REF_CFG (spec/14_clocks_and_references.md). -/
abbrev REF_CFG : Nat := 0x40020008
abbrev REF_CFG.pull_en : Fld := ⟨REF_CFG, 31, 1⟩
abbrev REF_CFG.pull_ppm : Fld := ⟨REF_CFG, 24, 5⟩
abbrev REF_CFG.slew : Fld := ⟨REF_CFG, 16, 8⟩
abbrev REF_CFG.qual : Fld := ⟨REF_CFG, 0, 8⟩
/-- Register REF_LOOP (spec/14_clocks_and_references.md). -/
abbrev REF_LOOP : Nat := 0x4002000C
abbrev REF_LOOP.acq_bw : Fld := ⟨REF_LOOP, 4, 3⟩
abbrev REF_LOOP.bw : Fld := ⟨REF_LOOP, 0, 3⟩
/-- Register REF_TOL (spec/14_clocks_and_references.md). -/
abbrev REF_TOL : Nat := 0x40020010
abbrev REF_TOL.hard : Fld := ⟨REF_TOL, 16, 8⟩
abbrev REF_TOL.soft : Fld := ⟨REF_TOL, 0, 8⟩
/-- Register REF_RANK (spec/14_clocks_and_references.md). -/
abbrev REF_RANK : Nat := 0x40020014
abbrev REF_RANK.rank : Fld := ⟨REF_RANK, 2, 12⟩
/-- Register REF_XCHK (spec/14_clocks_and_references.md). -/
abbrev REF_XCHK : Nat := 0x40020018
abbrev REF_XCHK.valid : Fld := ⟨REF_XCHK, 31, 1⟩
abbrev REF_XCHK.undecided : Fld := ⟨REF_XCHK, 30, 1⟩
abbrev REF_XCHK.outlier : Fld := ⟨REF_XCHK, 27, 3⟩
abbrev REF_XCHK.other : Fld := ⟨REF_XCHK, 24, 3⟩
abbrev REF_XCHK.judge : Fld := ⟨REF_XCHK, 21, 3⟩
abbrev REF_XCHK.tol : Fld := ⟨REF_XCHK, 0, 8⟩
/-- Register REF_PHASE (spec/14_clocks_and_references.md). -/
abbrev REF_PHASE : Nat := 0x40020020
abbrev REF_PHASE.ns : Fld := ⟨REF_PHASE, 0, 32⟩
/-- Register REF_ABS (spec/14_clocks_and_references.md). -/
abbrev REF_ABS : Nat := 0x40020024
abbrev REF_ABS.ns : Fld := ⟨REF_ABS, 0, 32⟩
/-- Register REF_FREQ (spec/14_clocks_and_references.md). -/
abbrev REF_FREQ : Nat := 0x40020028
abbrev REF_FREQ.ppb : Fld := ⟨REF_FREQ, 0, 32⟩
/-- Register REF_HOLD (spec/14_clocks_and_references.md). -/
abbrev REF_HOLD : Nat := 0x4002002C
abbrev REF_HOLD.ppb : Fld := ⟨REF_HOLD, 0, 32⟩
/-- Register REF_WCLK_OFS (spec/14_clocks_and_references.md). -/
abbrev REF_WCLK_OFS : Nat := 0x40020030
abbrev REF_WCLK_OFS.ns : Fld := ⟨REF_WCLK_OFS, 0, 32⟩
/-- Register REF_PPS_OFS (spec/14_clocks_and_references.md). -/
abbrev REF_PPS_OFS : Nat := 0x40020034
abbrev REF_PPS_OFS.ns : Fld := ⟨REF_PPS_OFS, 0, 32⟩
/-- Register REF_FRM_OFS (spec/14_clocks_and_references.md). -/
abbrev REF_FRM_OFS : Nat := 0x40020038
abbrev REF_FRM_OFS.ns : Fld := ⟨REF_FRM_OFS, 0, 32⟩
/-- Register REF_MON (spec/14_clocks_and_references.md). -/
abbrev REF_MON (n : Nat) : Nat := 0x40020040 + n * 0x4
abbrev REF_MON.en (n : Nat) : Fld := ⟨REF_MON n, 31, 1⟩
abbrev REF_MON.state (n : Nat) : Fld := ⟨REF_MON n, 28, 3⟩
abbrev REF_MON.count (n : Nat) : Fld := ⟨REF_MON n, 24, 4⟩
abbrev REF_MON.ppb (n : Nat) : Fld := ⟨REF_MON n, 0, 24⟩
/-- Register PWR_STATUS (spec/22_power_thermal_modes.md). -/
abbrev PWR_STATUS : Nat := 0x40030000
abbrev PWR_STATUS.level : Fld := ⟨PWR_STATUS, 30, 2⟩
abbrev PWR_STATUS.cond : Fld := ⟨PWR_STATUS, 26, 4⟩
abbrev PWR_STATUS.pcond : Fld := ⟨PWR_STATUS, 22, 4⟩
abbrev PWR_STATUS.vaux_oc : Fld := ⟨PWR_STATUS, 6, 1⟩
abbrev PWR_STATUS.vsys_high : Fld := ⟨PWR_STATUS, 5, 1⟩
abbrev PWR_STATUS.vsys_low : Fld := ⟨PWR_STATUS, 4, 1⟩
abbrev PWR_STATUS.warn : Fld := ⟨PWR_STATUS, 3, 1⟩
abbrev PWR_STATUS.exit : Fld := ⟨PWR_STATUS, 2, 1⟩
abbrev PWR_STATUS.entry : Fld := ⟨PWR_STATUS, 1, 1⟩
abbrev PWR_STATUS.wr_refused : Fld := ⟨PWR_STATUS, 0, 1⟩
/-- Register PWR_CFG (spec/22_power_thermal_modes.md). -/
abbrev PWR_CFG : Nat := 0x40030004
abbrev PWR_CFG.warn : Fld := ⟨PWR_CFG, 24, 8⟩
abbrev PWR_CFG.exit_tj : Fld := ⟨PWR_CFG, 16, 8⟩
abbrev PWR_CFG.squall_v : Fld := ⟨PWR_CFG, 0, 9⟩
/-- Register PWR_BUDGET (spec/22_power_thermal_modes.md). -/
abbrev PWR_BUDGET : Nat := 0x40030008
abbrev PWR_BUDGET.budget : Fld := ⟨PWR_BUDGET, 0, 16⟩
/-- Register PWR_MEAS0 (spec/22_power_thermal_modes.md). -/
abbrev PWR_MEAS0 : Nat := 0x40030010
abbrev PWR_MEAS0.vsys : Fld := ⟨PWR_MEAS0, 16, 16⟩
abbrev PWR_MEAS0.isys : Fld := ⟨PWR_MEAS0, 0, 16⟩
/-- Register PWR_MEAS1 (spec/22_power_thermal_modes.md). -/
abbrev PWR_MEAS1 : Nat := 0x40030014
abbrev PWR_MEAS1.pin : Fld := ⟨PWR_MEAS1, 16, 16⟩
abbrev PWR_MEAS1.tj : Fld := ⟨PWR_MEAS1, 0, 16⟩
/-- Register PWR_TJ_MAX (spec/22_power_thermal_modes.md). -/
abbrev PWR_TJ_MAX : Nat := 0x40030018
abbrev PWR_TJ_MAX.tj : Fld := ⟨PWR_TJ_MAX, 0, 16⟩
/-- Register PWR_SQUALL (spec/22_power_thermal_modes.md). -/
abbrev PWR_SQUALL : Nat := 0x4003001C
abbrev PWR_SQUALL.entries : Fld := ⟨PWR_SQUALL, 16, 16⟩
abbrev PWR_SQUALL.p_entry : Fld := ⟨PWR_SQUALL, 0, 16⟩
/-- Register PWR_VAUX (spec/22_power_thermal_modes.md). -/
abbrev PWR_VAUX : Nat := 0x40030020
abbrev PWR_VAUX.on : Fld := ⟨PWR_VAUX, 16, 1⟩
abbrev PWR_VAUX.ma : Fld := ⟨PWR_VAUX, 0, 16⟩
/-- Register MEM_STATUS (spec/07_memories.md). -/
abbrev MEM_STATUS : Nat := 0x40040000
abbrev MEM_STATUS.dusk : Fld := ⟨MEM_STATUS, 16, 5⟩
abbrev MEM_STATUS.dusk_refused : Fld := ⟨MEM_STATUS, 5, 1⟩
abbrev MEM_STATUS.dlq_drop : Fld := ⟨MEM_STATUS, 4, 1⟩
abbrev MEM_STATUS.dram_ue : Fld := ⟨MEM_STATUS, 3, 1⟩
abbrev MEM_STATUS.wisp_fail : Fld := ⟨MEM_STATUS, 2, 1⟩
abbrev MEM_STATUS.ecc_ue : Fld := ⟨MEM_STATUS, 1, 1⟩
abbrev MEM_STATUS.ecc_ce : Fld := ⟨MEM_STATUS, 0, 1⟩
/-- Register MEM_SP_ECC (spec/07_memories.md). -/
abbrev MEM_SP_ECC (n : Nat) : Nat := 0x40040010 + n * 0x4
abbrev MEM_SP_ECC.uncorrected (n : Nat) : Fld := ⟨MEM_SP_ECC n, 16, 16⟩
abbrev MEM_SP_ECC.corrected (n : Nat) : Fld := ⟨MEM_SP_ECC n, 0, 16⟩
/-- Register MEM_SRAM_ECC (spec/07_memories.md). -/
abbrev MEM_SRAM_ECC : Nat := 0x40040020
abbrev MEM_SRAM_ECC.uncorrected : Fld := ⟨MEM_SRAM_ECC, 16, 16⟩
abbrev MEM_SRAM_ECC.corrected : Fld := ⟨MEM_SRAM_ECC, 0, 16⟩
/-- Register MEM_ECC_LAST (spec/07_memories.md). -/
abbrev MEM_ECC_LAST : Nat := 0x40040024
abbrev MEM_ECC_LAST.valid : Fld := ⟨MEM_ECC_LAST, 31, 1⟩
abbrev MEM_ECC_LAST.memory : Fld := ⟨MEM_ECC_LAST, 0, 3⟩
/-- Register MEM_ECC_ADDR (spec/07_memories.md). -/
abbrev MEM_ECC_ADDR : Nat := 0x40040028
abbrev MEM_ECC_ADDR.addr : Fld := ⟨MEM_ECC_ADDR, 0, 32⟩
/-- Register MEM_CONF (spec/07_memories.md). -/
abbrev MEM_CONF (n : Nat) : Nat := 0x40040030 + n * 0x4
abbrev MEM_CONF.courtesy (n : Nat) : Fld := ⟨MEM_CONF n, 16, 16⟩
abbrev MEM_CONF.lost (n : Nat) : Fld := ⟨MEM_CONF n, 0, 16⟩
/-- Register MEM_WISP_CFG (spec/07_memories.md). -/
abbrev MEM_WISP_CFG : Nat := 0x40040040
abbrev MEM_WISP_CFG.enable : Fld := ⟨MEM_WISP_CFG, 0, 6⟩
/-- Register MEM_WISP_POS (spec/07_memories.md). -/
abbrev MEM_WISP_POS (n : Nat) : Nat := 0x40040044 + n * 0x4
abbrev MEM_WISP_POS.passes (n : Nat) : Fld := ⟨MEM_WISP_POS n, 16, 16⟩
abbrev MEM_WISP_POS.region (n : Nat) : Fld := ⟨MEM_WISP_POS n, 0, 13⟩
/-- Register MEM_WISP_FAIL (spec/07_memories.md). -/
abbrev MEM_WISP_FAIL : Nat := 0x40040060
abbrev MEM_WISP_FAIL.valid : Fld := ⟨MEM_WISP_FAIL, 31, 1⟩
abbrev MEM_WISP_FAIL.memory : Fld := ⟨MEM_WISP_FAIL, 16, 3⟩
abbrev MEM_WISP_FAIL.region : Fld := ⟨MEM_WISP_FAIL, 0, 13⟩
/-- Register MEM_DUSK (spec/07_memories.md). -/
abbrev MEM_DUSK : Nat := 0x40040070
abbrev MEM_DUSK.req : Fld := ⟨MEM_DUSK, 0, 5⟩
/-- Register MEM_DRAM_ECC (spec/07_memories.md). -/
abbrev MEM_DRAM_ECC : Nat := 0x40040080
abbrev MEM_DRAM_ECC.uncorrected : Fld := ⟨MEM_DRAM_ECC, 16, 16⟩
abbrev MEM_DRAM_ECC.corrected : Fld := ⟨MEM_DRAM_ECC, 0, 16⟩
/-- Register MEM_DRAM_RT (spec/07_memories.md). -/
abbrev MEM_DRAM_RT : Nat := 0x40040084
abbrev MEM_DRAM_RT.peak : Fld := ⟨MEM_DRAM_RT, 0, 8⟩
/-- Register MEM_DLQ_DROP (spec/07_memories.md). -/
abbrev MEM_DLQ_DROP : Nat := 0x40040088
abbrev MEM_DLQ_DROP.count : Fld := ⟨MEM_DLQ_DROP, 0, 32⟩
/-- Register MEM_SCRUB (spec/07_memories.md). -/
abbrev MEM_SCRUB : Nat := 0x4004008C
abbrev MEM_SCRUB.passes : Fld := ⟨MEM_SCRUB, 0, 32⟩
/-- Register MEM_CNT_CLR (spec/07_memories.md). -/
abbrev MEM_CNT_CLR : Nat := 0x40040090
abbrev MEM_CNT_CLR.dlq : Fld := ⟨MEM_CNT_CLR, 3, 1⟩
abbrev MEM_CNT_CLR.conf : Fld := ⟨MEM_CNT_CLR, 2, 1⟩
abbrev MEM_CNT_CLR.dram : Fld := ⟨MEM_CNT_CLR, 1, 1⟩
abbrev MEM_CNT_CLR.sram : Fld := ⟨MEM_CNT_CLR, 0, 1⟩
/-- Register BUS_STATUS (spec/20_bus_matrix.md). -/
abbrev BUS_STATUS : Nat := 0x40050000
abbrev BUS_STATUS.timeout : Fld := ⟨BUS_STATUS, 5, 1⟩
abbrev BUS_STATUS.unavail : Fld := ⟨BUS_STATUS, 4, 1⟩
abbrev BUS_STATUS.abandon : Fld := ⟨BUS_STATUS, 3, 1⟩
abbrev BUS_STATUS.lock_trunc : Fld := ⟨BUS_STATUS, 2, 1⟩
abbrev BUS_STATUS.terr : Fld := ⟨BUS_STATUS, 1, 1⟩
abbrev BUS_STATUS.rerr : Fld := ⟨BUS_STATUS, 0, 1⟩
/-- Register BUS_ERR_LAST (spec/20_bus_matrix.md). -/
abbrev BUS_ERR_LAST : Nat := 0x40050004
abbrev BUS_ERR_LAST.valid : Fld := ⟨BUS_ERR_LAST, 31, 1⟩
abbrev BUS_ERR_LAST.write : Fld := ⟨BUS_ERR_LAST, 30, 1⟩
abbrev BUS_ERR_LAST.resp : Fld := ⟨BUS_ERR_LAST, 28, 2⟩
abbrev BUS_ERR_LAST.master : Fld := ⟨BUS_ERR_LAST, 20, 4⟩
abbrev BUS_ERR_LAST.target : Fld := ⟨BUS_ERR_LAST, 16, 4⟩
/-- Register BUS_ERR_ADDR (spec/20_bus_matrix.md). -/
abbrev BUS_ERR_ADDR : Nat := 0x40050008
abbrev BUS_ERR_ADDR.addr : Fld := ⟨BUS_ERR_ADDR, 0, 32⟩
/-- Register BUS_ERRCNT (spec/20_bus_matrix.md). -/
abbrev BUS_ERRCNT : Nat := 0x4005000C
abbrev BUS_ERRCNT.route : Fld := ⟨BUS_ERRCNT, 16, 16⟩
abbrev BUS_ERRCNT.target : Fld := ⟨BUS_ERRCNT, 0, 16⟩
/-- Register BUS_EVCNT (spec/20_bus_matrix.md). -/
abbrev BUS_EVCNT : Nat := 0x40050010
abbrev BUS_EVCNT.unavail : Fld := ⟨BUS_EVCNT, 16, 16⟩
abbrev BUS_EVCNT.timeout : Fld := ⟨BUS_EVCNT, 0, 16⟩
/-- Register BUS_LKCNT (spec/20_bus_matrix.md). -/
abbrev BUS_LKCNT : Nat := 0x40050014
abbrev BUS_LKCNT.trunc : Fld := ⟨BUS_LKCNT, 16, 16⟩
abbrev BUS_LKCNT.abandon : Fld := ⟨BUS_LKCNT, 0, 16⟩
/-- Register BUS_CNT_CLR (spec/20_bus_matrix.md). -/
abbrev BUS_CNT_CLR : Nat := 0x40050020
abbrev BUS_CNT_CLR.lk : Fld := ⟨BUS_CNT_CLR, 2, 1⟩
abbrev BUS_CNT_CLR.ev : Fld := ⟨BUS_CNT_CLR, 1, 1⟩
abbrev BUS_CNT_CLR.err : Fld := ⟨BUS_CNT_CLR, 0, 1⟩
/-- Register BUS_WAIT (spec/20_bus_matrix.md). -/
abbrev BUS_WAIT (n : Nat) : Nat := 0x40050040 + n * 0x4
abbrev BUS_WAIT.max (n : Nat) : Fld := ⟨BUS_WAIT n, 16, 16⟩
abbrev BUS_WAIT.courtesy (n : Nat) : Fld := ⟨BUS_WAIT n, 0, 16⟩
/-- Register CMD_STATUS (spec/17_command_rings.md). -/
abbrev CMD_STATUS : Nat := 0x40060000
abbrev CMD_STATUS.wd : Fld := ⟨CMD_STATUS, 4, 1⟩
abbrev CMD_STATUS.r0_full : Fld := ⟨CMD_STATUS, 3, 1⟩
abbrev CMD_STATUS.pend_full : Fld := ⟨CMD_STATUS, 2, 1⟩
abbrev CMD_STATUS.viol : Fld := ⟨CMD_STATUS, 1, 1⟩
/-- Register CMD_EPOCH (spec/17_command_rings.md). -/
abbrev CMD_EPOCH : Nat := 0x40060004
abbrev CMD_EPOCH.resets : Fld := ⟨CMD_EPOCH, 0, 16⟩
/-- Register CMD_PEND (spec/17_command_rings.md). -/
abbrev CMD_PEND : Nat := 0x40060008
abbrev CMD_PEND.free : Fld := ⟨CMD_PEND, 16, 11⟩
abbrev CMD_PEND.peak : Fld := ⟨CMD_PEND, 0, 11⟩
/-- Register CMD_IRQ (spec/17_command_rings.md). -/
abbrev CMD_IRQ : Nat := 0x4006000C
abbrev CMD_IRQ.ring : Fld := ⟨CMD_IRQ, 0, 16⟩
/-- Register CMD_VIOL (spec/17_command_rings.md). -/
abbrev CMD_VIOL : Nat := 0x40060010
abbrev CMD_VIOL.valid : Fld := ⟨CMD_VIOL, 31, 1⟩
abbrev CMD_VIOL.ring : Fld := ⟨CMD_VIOL, 24, 4⟩
abbrev CMD_VIOL.code : Fld := ⟨CMD_VIOL, 16, 4⟩
abbrev CMD_VIOL.value : Fld := ⟨CMD_VIOL, 0, 16⟩
/-- Register CMD_RING_CFG (spec/17_command_rings.md). -/
abbrev CMD_RING_CFG (n : Nat) : Nat := 0x40060100 + n * 0x20
abbrev CMD_RING_CFG.irq_en (n : Nat) : Fld := ⟨CMD_RING_CFG n, 31, 1⟩
abbrev CMD_RING_CFG.size (n : Nat) : Fld := ⟨CMD_RING_CFG n, 0, 3⟩
/-- Register CMD_RING_CBASE (spec/17_command_rings.md). -/
abbrev CMD_RING_CBASE (n : Nat) : Nat := 0x40060104 + n * 0x20
abbrev CMD_RING_CBASE.addr (n : Nat) : Fld := ⟨CMD_RING_CBASE n, 0, 32⟩
/-- Register CMD_RING_PBASE (spec/17_command_rings.md). -/
abbrev CMD_RING_PBASE (n : Nat) : Nat := 0x40060108 + n * 0x20
abbrev CMD_RING_PBASE.addr (n : Nat) : Fld := ⟨CMD_RING_PBASE n, 0, 32⟩
/-- Register CMD_RING_CTRL (spec/17_command_rings.md). -/
abbrev CMD_RING_CTRL (n : Nat) : Nat := 0x4006010C + n * 0x20
abbrev CMD_RING_CTRL.disable (n : Nat) : Fld := ⟨CMD_RING_CTRL n, 1, 1⟩
abbrev CMD_RING_CTRL.enable (n : Nat) : Fld := ⟨CMD_RING_CTRL n, 0, 1⟩
/-- Register CMD_RING_DB (spec/17_command_rings.md). -/
abbrev CMD_RING_DB (n : Nat) : Nat := 0x40060110 + n * 0x20
abbrev CMD_RING_DB.pi (n : Nat) : Fld := ⟨CMD_RING_DB n, 0, 16⟩
/-- Register CMD_RING_CI (spec/17_command_rings.md). -/
abbrev CMD_RING_CI (n : Nat) : Nat := 0x40060114 + n * 0x20
abbrev CMD_RING_CI.cpi (n : Nat) : Fld := ⟨CMD_RING_CI n, 16, 16⟩
abbrev CMD_RING_CI.ci (n : Nat) : Fld := ⟨CMD_RING_CI n, 0, 16⟩
/-- Register CMD_RING_CDB (spec/17_command_rings.md). -/
abbrev CMD_RING_CDB (n : Nat) : Nat := 0x40060118 + n * 0x20
abbrev CMD_RING_CDB.cci (n : Nat) : Fld := ⟨CMD_RING_CDB n, 0, 16⟩
/-- Register CMD_RING_STAT (spec/17_command_rings.md). -/
abbrev CMD_RING_STAT (n : Nat) : Nat := 0x4006011C + n * 0x20
abbrev CMD_RING_STAT.state (n : Nat) : Fld := ⟨CMD_RING_STAT n, 30, 2⟩
abbrev CMD_RING_STAT.outstanding (n : Nat) : Fld := ⟨CMD_RING_STAT n, 16, 9⟩
abbrev CMD_RING_STAT.cq_stall (n : Nat) : Fld := ⟨CMD_RING_STAT n, 8, 1⟩
abbrev CMD_RING_STAT.cfg_bad (n : Nat) : Fld := ⟨CMD_RING_STAT n, 2, 1⟩
abbrev CMD_RING_STAT.db_err (n : Nat) : Fld := ⟨CMD_RING_STAT n, 1, 1⟩
abbrev CMD_RING_STAT.wr_refused (n : Nat) : Fld := ⟨CMD_RING_STAT n, 0, 1⟩
/-- Register PAIR_STATUS (spec/16_twin_lockstep.md). -/
abbrev PAIR_STATUS : Nat := 0x40070000
abbrev PAIR_STATUS.astate : Fld := ⟨PAIR_STATUS, 28, 4⟩
abbrev PAIR_STATUS.partner : Fld := ⟨PAIR_STATUS, 27, 1⟩
abbrev PAIR_STATUS.synced_pair : Fld := ⟨PAIR_STATUS, 26, 1⟩
abbrev PAIR_STATUS.unstable : Fld := ⟨PAIR_STATUS, 7, 1⟩
abbrev PAIR_STATUS.attach_fail : Fld := ⟨PAIR_STATUS, 6, 1⟩
abbrev PAIR_STATUS.attach_refused : Fld := ⟨PAIR_STATUS, 5, 1⟩
abbrev PAIR_STATUS.lead_chg : Fld := ⟨PAIR_STATUS, 4, 1⟩
abbrev PAIR_STATUS.link_down : Fld := ⟨PAIR_STATUS, 3, 1⟩
abbrev PAIR_STATUS.missed : Fld := ⟨PAIR_STATUS, 2, 1⟩
abbrev PAIR_STATUS.mismatch : Fld := ⟨PAIR_STATUS, 1, 1⟩
abbrev PAIR_STATUS.wr_refused : Fld := ⟨PAIR_STATUS, 0, 1⟩
/-- Register PAIR_CLAIM (spec/16_twin_lockstep.md). -/
abbrev PAIR_CLAIM : Nat := 0x40070004
abbrev PAIR_CLAIM.own : Fld := ⟨PAIR_CLAIM, 16, 16⟩
abbrev PAIR_CLAIM.partner : Fld := ⟨PAIR_CLAIM, 0, 16⟩
/-- Register PAIR_CFG (spec/16_twin_lockstep.md). -/
abbrev PAIR_CFG : Nat := 0x40070008
abbrev PAIR_CFG.auto_attach : Fld := ⟨PAIR_CFG, 31, 1⟩
abbrev PAIR_CFG.reclaim_en : Fld := ⟨PAIR_CFG, 30, 1⟩
abbrev PAIR_CFG.holdoff : Fld := ⟨PAIR_CFG, 0, 16⟩
/-- Register PAIR_HOME (spec/16_twin_lockstep.md). -/
abbrev PAIR_HOME : Nat := 0x4007000C
abbrev PAIR_HOME.home_b : Fld := ⟨PAIR_HOME, 0, 1⟩
/-- Register PAIR_WEDGE (spec/16_twin_lockstep.md). -/
abbrev PAIR_WEDGE : Nat := 0x40070010
abbrev PAIR_WEDGE.s : Fld := ⟨PAIR_WEDGE, 0, 16⟩
/-- Register PAIR_SHARED (spec/16_twin_lockstep.md). -/
abbrev PAIR_SHARED : Nat := 0x40070014
abbrev PAIR_SHARED.gpio : Fld := ⟨PAIR_SHARED, 0, 24⟩
/-- Register PAIR_MATCH (spec/16_twin_lockstep.md). -/
abbrev PAIR_MATCH : Nat := 0x40070018
abbrev PAIR_MATCH.count : Fld := ⟨PAIR_MATCH, 0, 32⟩
/-- Register PAIR_MISMATCH (spec/16_twin_lockstep.md). -/
abbrev PAIR_MISMATCH : Nat := 0x4007001C
abbrev PAIR_MISMATCH.groups : Fld := ⟨PAIR_MISMATCH, 16, 16⟩
abbrev PAIR_MISMATCH.kind : Fld := ⟨PAIR_MISMATCH, 12, 4⟩
abbrev PAIR_MISMATCH.decision : Fld := ⟨PAIR_MISMATCH, 8, 4⟩
/-- Register PAIR_MISCYC (spec/16_twin_lockstep.md). -/
abbrev PAIR_MISCYC : Nat := 0x40070020
abbrev PAIR_MISCYC.cycle : Fld := ⟨PAIR_MISCYC, 0, 32⟩
/-- Register PAIR_LINK (spec/16_twin_lockstep.md). -/
abbrev PAIR_LINK : Nat := 0x40070024
abbrev PAIR_LINK.state : Fld := ⟨PAIR_LINK, 30, 2⟩
abbrev PAIR_LINK.lanes : Fld := ⟨PAIR_LINK, 24, 4⟩
abbrev PAIR_LINK.latency : Fld := ⟨PAIR_LINK, 0, 16⟩
/-- Register PAIR_LINKCNT (spec/16_twin_lockstep.md). -/
abbrev PAIR_LINKCNT : Nat := 0x40070028
abbrev PAIR_LINKCNT.missed : Fld := ⟨PAIR_LINKCNT, 16, 16⟩
abbrev PAIR_LINKCNT.resent : Fld := ⟨PAIR_LINKCNT, 0, 16⟩
/-- Register PAIR_ATTACH (spec/16_twin_lockstep.md). -/
abbrev PAIR_ATTACH : Nat := 0x4007002C
abbrev PAIR_ATTACH.reason : Fld := ⟨PAIR_ATTACH, 28, 4⟩
abbrev PAIR_ATTACH.attempts : Fld := ⟨PAIR_ATTACH, 24, 4⟩
abbrev PAIR_ATTACH.progress : Fld := ⟨PAIR_ATTACH, 0, 8⟩
/-- Register PAIR_MIRROR (spec/16_twin_lockstep.md). -/
abbrev PAIR_MIRROR : Nat := 0x40070030
abbrev PAIR_MIRROR.channels : Fld := ⟨PAIR_MIRROR, 0, 11⟩
/-- Register PTP_CFG (spec/13_network_time.md). -/
abbrev PTP_CFG : Nat := 0x40080000
abbrev PTP_CFG.en : Fld := ⟨PTP_CFG, 31, 1⟩
abbrev PTP_CFG.profile : Fld := ⟨PTP_CFG, 29, 2⟩
abbrev PTP_CFG.one_step : Fld := ⟨PTP_CFG, 28, 1⟩
abbrev PTP_CFG.slave_only : Fld := ⟨PTP_CFG, 27, 1⟩
abbrev PTP_CFG.ports : Fld := ⟨PTP_CFG, 25, 2⟩
abbrev PTP_CFG.auto_restep : Fld := ⟨PTP_CFG, 24, 1⟩
abbrev PTP_CFG.hold : Fld := ⟨PTP_CFG, 16, 8⟩
abbrev PTP_CFG.domain : Fld := ⟨PTP_CFG, 0, 7⟩
/-- Register PTP_STATUS (spec/13_network_time.md). -/
abbrev PTP_STATUS : Nat := 0x40080004
abbrev PTP_STATUS.servo : Fld := ⟨PTP_STATUS, 29, 3⟩
abbrev PTP_STATUS.port0 : Fld := ⟨PTP_STATUS, 25, 4⟩
abbrev PTP_STATUS.port1 : Fld := ⟨PTP_STATUS, 21, 4⟩
abbrev PTP_STATUS.slave_port : Fld := ⟨PTP_STATUS, 20, 1⟩
abbrev PTP_STATUS.wr_refused : Fld := ⟨PTP_STATUS, 4, 1⟩
abbrev PTP_STATUS.port_sw : Fld := ⟨PTP_STATUS, 3, 1⟩
abbrev PTP_STATUS.gm_chg : Fld := ⟨PTP_STATUS, 2, 1⟩
abbrev PTP_STATUS.stepped : Fld := ⟨PTP_STATUS, 1, 1⟩
abbrev PTP_STATUS.diverged : Fld := ⟨PTP_STATUS, 0, 1⟩
/-- Register PTP_PRIO (spec/13_network_time.md). -/
abbrev PTP_PRIO : Nat := 0x40080008
abbrev PTP_PRIO.priority1 : Fld := ⟨PTP_PRIO, 8, 8⟩
abbrev PTP_PRIO.priority2 : Fld := ⟨PTP_PRIO, 0, 8⟩
/-- Register PTP_INTV (spec/13_network_time.md). -/
abbrev PTP_INTV : Nat := 0x4008000C
abbrev PTP_INTV.sync : Fld := ⟨PTP_INTV, 16, 8⟩
abbrev PTP_INTV.announce : Fld := ⟨PTP_INTV, 8, 8⟩
abbrev PTP_INTV.dreq : Fld := ⟨PTP_INTV, 0, 8⟩
/-- Register PTP_DTIME_LO (spec/13_network_time.md). -/
abbrev PTP_DTIME_LO : Nat := 0x40080010
abbrev PTP_DTIME_LO.ns : Fld := ⟨PTP_DTIME_LO, 0, 32⟩
/-- Register PTP_DTIME_HI (spec/13_network_time.md). -/
abbrev PTP_DTIME_HI : Nat := 0x40080014
abbrev PTP_DTIME_HI.ns : Fld := ⟨PTP_DTIME_HI, 0, 32⟩
/-- Register PTP_OFFSET (spec/13_network_time.md). -/
abbrev PTP_OFFSET : Nat := 0x40080018
abbrev PTP_OFFSET.ns : Fld := ⟨PTP_OFFSET, 0, 32⟩
/-- Register PTP_MPD (spec/13_network_time.md). -/
abbrev PTP_MPD : Nat := 0x4008001C
abbrev PTP_MPD.ns : Fld := ⟨PTP_MPD, 0, 32⟩
/-- Register PTP_RATE (spec/13_network_time.md). -/
abbrev PTP_RATE : Nat := 0x40080020
abbrev PTP_RATE.rate : Fld := ⟨PTP_RATE, 0, 32⟩
/-- Register PTP_THR (spec/13_network_time.md). -/
abbrev PTP_THR : Nat := 0x40080024
abbrev PTP_THR.us : Fld := ⟨PTP_THR, 0, 20⟩
/-- Register PTP_SERVO (spec/13_network_time.md). -/
abbrev PTP_SERVO : Nat := 0x40080028
abbrev PTP_SERVO.bw : Fld := ⟨PTP_SERVO, 0, 2⟩
/-- Register PTP_GM_HI (spec/13_network_time.md). -/
abbrev PTP_GM_HI : Nat := 0x40080030
abbrev PTP_GM_HI.id : Fld := ⟨PTP_GM_HI, 0, 32⟩
/-- Register PTP_GM_LO (spec/13_network_time.md). -/
abbrev PTP_GM_LO : Nat := 0x40080034
abbrev PTP_GM_LO.id : Fld := ⟨PTP_GM_LO, 0, 32⟩
/-- Register PTP_UTC (spec/13_network_time.md). -/
abbrev PTP_UTC : Nat := 0x40080038
abbrev PTP_UTC.offset : Fld := ⟨PTP_UTC, 0, 16⟩
/-- Register PTP_XCHK (spec/13_network_time.md). -/
abbrev PTP_XCHK : Nat := 0x4008003C
abbrev PTP_XCHK.ns : Fld := ⟨PTP_XCHK, 0, 32⟩
/-- Register PTP_PHY (spec/13_network_time.md). -/
abbrev PTP_PHY (n : Nat) : Nat := 0x40080040 + n * 0x8
abbrev PTP_PHY.ingress (n : Nat) : Fld := ⟨PTP_PHY n, 16, 16⟩
abbrev PTP_PHY.egress (n : Nat) : Fld := ⟨PTP_PHY n, 0, 16⟩
/-- Register PTP_ASYM (spec/13_network_time.md). -/
abbrev PTP_ASYM (n : Nat) : Nat := 0x40080044 + n * 0x8
abbrev PTP_ASYM.ns (n : Nat) : Fld := ⟨PTP_ASYM n, 0, 32⟩
/-- Register PTP_DIVOFS (spec/13_network_time.md). -/
abbrev PTP_DIVOFS : Nat := 0x40080050
abbrev PTP_DIVOFS.ns : Fld := ⟨PTP_DIVOFS, 0, 32⟩
/-- Register PTP_DIVCNT (spec/13_network_time.md). -/
abbrev PTP_DIVCNT : Nat := 0x40080054
abbrev PTP_DIVCNT.count : Fld := ⟨PTP_DIVCNT, 0, 16⟩
/-- Register PTP_STEP_LO (spec/13_network_time.md). -/
abbrev PTP_STEP_LO : Nat := 0x40080058
abbrev PTP_STEP_LO.ns : Fld := ⟨PTP_STEP_LO, 0, 32⟩
/-- Register PTP_STEP_HI (spec/13_network_time.md). -/
abbrev PTP_STEP_HI : Nat := 0x4008005C
abbrev PTP_STEP_HI.ns : Fld := ⟨PTP_STEP_HI, 0, 32⟩
/-- Register PTP_CNT (spec/13_network_time.md). -/
abbrev PTP_CNT : Nat := 0x40080060
abbrev PTP_CNT.bad : Fld := ⟨PTP_CNT, 16, 16⟩
abbrev PTP_CNT.sync : Fld := ⟨PTP_CNT, 0, 16⟩
/-- Register NET_CFG (spec/12_network_streams.md). -/
abbrev NET_CFG (n : Nat) : Nat := 0x40090000 + n * 0x10000
abbrev NET_CFG.en (n : Nat) : Fld := ⟨NET_CFG n, 31, 1⟩
abbrev NET_CFG.speed_adv (n : Nat) : Fld := ⟨NET_CFG n, 29, 2⟩
abbrev NET_CFG.vlan_en (n : Nat) : Fld := ⟨NET_CFG n, 28, 1⟩
abbrev NET_CFG.pcp (n : Nat) : Fld := ⟨NET_CFG n, 25, 3⟩
abbrev NET_CFG.dscp (n : Nat) : Fld := ⟨NET_CFG n, 18, 6⟩
abbrev NET_CFG.vid (n : Nat) : Fld := ⟨NET_CFG n, 0, 12⟩
/-- Register NET_STATUS (spec/12_network_streams.md). -/
abbrev NET_STATUS (n : Nat) : Nat := 0x40090004 + n * 0x10000
abbrev NET_STATUS.link (n : Nat) : Fld := ⟨NET_STATUS n, 30, 2⟩
abbrev NET_STATUS.shed (n : Nat) : Fld := ⟨NET_STATUS n, 3, 1⟩
abbrev NET_STATUS.fcs (n : Nat) : Fld := ⟨NET_STATUS n, 2, 1⟩
abbrev NET_STATUS.link_chg (n : Nat) : Fld := ⟨NET_STATUS n, 1, 1⟩
abbrev NET_STATUS.wr_refused (n : Nat) : Fld := ⟨NET_STATUS n, 0, 1⟩
/-- Register NET_MAC_HI (spec/12_network_streams.md). -/
abbrev NET_MAC_HI (n : Nat) : Nat := 0x40090008 + n * 0x10000
abbrev NET_MAC_HI.mac (n : Nat) : Fld := ⟨NET_MAC_HI n, 0, 16⟩
/-- Register NET_MAC_LO (spec/12_network_streams.md). -/
abbrev NET_MAC_LO (n : Nat) : Nat := 0x4009000C + n * 0x10000
abbrev NET_MAC_LO.mac (n : Nat) : Fld := ⟨NET_MAC_LO n, 0, 32⟩
/-- Register NET_IP (spec/12_network_streams.md). -/
abbrev NET_IP (n : Nat) : Nat := 0x40090010 + n * 0x10000
abbrev NET_IP.ip (n : Nat) : Fld := ⟨NET_IP n, 0, 32⟩
/-- Register NET_MASK (spec/12_network_streams.md). -/
abbrev NET_MASK (n : Nat) : Nat := 0x40090014 + n * 0x10000
abbrev NET_MASK.mask (n : Nat) : Fld := ⟨NET_MASK n, 0, 32⟩
/-- Register NET_GW (spec/12_network_streams.md). -/
abbrev NET_GW (n : Nat) : Nat := 0x40090018 + n * 0x10000
abbrev NET_GW.gw (n : Nat) : Fld := ⟨NET_GW n, 0, 32⟩
/-- Register NET_PAIR_IP (spec/12_network_streams.md). -/
abbrev NET_PAIR_IP (n : Nat) : Nat := 0x4009001C + n * 0x10000
abbrev NET_PAIR_IP.ip (n : Nat) : Fld := ⟨NET_PAIR_IP n, 0, 32⟩
/-- Register NET_TTL (spec/12_network_streams.md). -/
abbrev NET_TTL (n : Nat) : Nat := 0x40090020 + n * 0x10000
abbrev NET_TTL.ttl (n : Nat) : Fld := ⟨NET_TTL n, 0, 8⟩
/-- Register NET_ADMIT (spec/12_network_streams.md). -/
abbrev NET_ADMIT (n : Nat) : Nat := 0x40090024 + n * 0x10000
abbrev NET_ADMIT.kbps (n : Nat) : Fld := ⟨NET_ADMIT n, 0, 20⟩
/-- Register NET_CNT_FCS (spec/12_network_streams.md). -/
abbrev NET_CNT_FCS (n : Nat) : Nat := 0x40090040 + n * 0x10000
abbrev NET_CNT_FCS.count (n : Nat) : Fld := ⟨NET_CNT_FCS n, 0, 32⟩
/-- Register NET_CNT_OVF (spec/12_network_streams.md). -/
abbrev NET_CNT_OVF (n : Nat) : Nat := 0x40090044 + n * 0x10000
abbrev NET_CNT_OVF.count (n : Nat) : Fld := ⟨NET_CNT_OVF n, 0, 32⟩
/-- Register STRM_STATUS (spec/12_network_streams.md). -/
abbrev STRM_STATUS : Nat := 0x400B0000
abbrev STRM_STATUS.bad_pkt : Fld := ⟨STRM_STATUS, 5, 1⟩
abbrev STRM_STATUS.late : Fld := ⟨STRM_STATUS, 4, 1⟩
abbrev STRM_STATUS.missing : Fld := ⟨STRM_STATUS, 3, 1⟩
abbrev STRM_STATUS.shed : Fld := ⟨STRM_STATUS, 2, 1⟩
abbrev STRM_STATUS.refused : Fld := ⟨STRM_STATUS, 1, 1⟩
abbrev STRM_STATUS.leg_down : Fld := ⟨STRM_STATUS, 0, 1⟩
/-- Register STRM_FREE (spec/12_network_streams.md). -/
abbrev STRM_FREE : Nat := 0x400B0004
abbrev STRM_FREE.rx_ch : Fld := ⟨STRM_FREE, 16, 10⟩
abbrev STRM_FREE.tx_ch : Fld := ⟨STRM_FREE, 0, 10⟩
/-- Register STRM_TAG (spec/12_network_streams.md). -/
abbrev STRM_TAG : Nat := 0x400B0008
abbrev STRM_TAG.id : Fld := ⟨STRM_TAG, 0, 4⟩
/-- Register STRM_TX_CFG (spec/12_network_streams.md). -/
abbrev STRM_TX_CFG (n : Nat) : Nat := 0x400B1000 + n * 0x20
abbrev STRM_TX_CFG.state (n : Nat) : Fld := ⟨STRM_TX_CFG n, 30, 2⟩
abbrev STRM_TX_CFG.susp (n : Nat) : Fld := ⟨STRM_TX_CFG n, 29, 1⟩
abbrev STRM_TX_CFG.talk (n : Nat) : Fld := ⟨STRM_TX_CFG n, 28, 1⟩
abbrev STRM_TX_CFG.ports (n : Nat) : Fld := ⟨STRM_TX_CFG n, 26, 2⟩
abbrev STRM_TX_CFG.tag (n : Nat) : Fld := ⟨STRM_TX_CFG n, 25, 1⟩
abbrev STRM_TX_CFG.l16 (n : Nat) : Fld := ⟨STRM_TX_CFG n, 24, 1⟩
abbrev STRM_TX_CFG.r96 (n : Nat) : Fld := ⟨STRM_TX_CFG n, 23, 1⟩
abbrev STRM_TX_CFG.ptime (n : Nat) : Fld := ⟨STRM_TX_CFG n, 20, 3⟩
abbrev STRM_TX_CFG.class (n : Nat) : Fld := ⟨STRM_TX_CFG n, 17, 3⟩
abbrev STRM_TX_CFG.async (n : Nat) : Fld := ⟨STRM_TX_CFG n, 16, 1⟩
abbrev STRM_TX_CFG.nch (n : Nat) : Fld := ⟨STRM_TX_CFG n, 10, 6⟩
abbrev STRM_TX_CFG.sap (n : Nat) : Fld := ⟨STRM_TX_CFG n, 9, 1⟩
abbrev STRM_TX_CFG.ch0 (n : Nat) : Fld := ⟨STRM_TX_CFG n, 0, 9⟩
/-- Register STRM_TX_DST (spec/12_network_streams.md). -/
abbrev STRM_TX_DST (n : Nat) : Nat := 0x400B1004 + n * 0x20
abbrev STRM_TX_DST.group (n : Nat) : Fld := ⟨STRM_TX_DST n, 0, 32⟩
/-- Register STRM_TX_PORT (spec/12_network_streams.md). -/
abbrev STRM_TX_PORT (n : Nat) : Nat := 0x400B1008 + n * 0x20
abbrev STRM_TX_PORT.dst (n : Nat) : Fld := ⟨STRM_TX_PORT n, 16, 16⟩
abbrev STRM_TX_PORT.src (n : Nat) : Fld := ⟨STRM_TX_PORT n, 0, 16⟩
/-- Register STRM_TX_SSRC (spec/12_network_streams.md). -/
abbrev STRM_TX_SSRC (n : Nat) : Nat := 0x400B100C + n * 0x20
abbrev STRM_TX_SSRC.ssrc (n : Nat) : Fld := ⟨STRM_TX_SSRC n, 0, 32⟩
/-- Register STRM_TX_SEQ (spec/12_network_streams.md). -/
abbrev STRM_TX_SEQ (n : Nat) : Nat := 0x400B1010 + n * 0x20
abbrev STRM_TX_SEQ.pt (n : Nat) : Fld := ⟨STRM_TX_SEQ n, 16, 7⟩
abbrev STRM_TX_SEQ.seq (n : Nat) : Fld := ⟨STRM_TX_SEQ n, 0, 16⟩
/-- Register STRM_TX_MOFS (spec/12_network_streams.md). -/
abbrev STRM_TX_MOFS (n : Nat) : Nat := 0x400B1014 + n * 0x20
abbrev STRM_TX_MOFS.moffset (n : Nat) : Fld := ⟨STRM_TX_MOFS n, 0, 32⟩
/-- Register STRM_TX_ID (spec/12_network_streams.md). -/
abbrev STRM_TX_ID (n : Nat) : Nat := 0x400B1018 + n * 0x20
abbrev STRM_TX_ID.sid (n : Nat) : Fld := ⟨STRM_TX_ID n, 0, 16⟩
/-- Register STRM_RX_CFG (spec/12_network_streams.md). -/
abbrev STRM_RX_CFG (n : Nat) : Nat := 0x400B2000 + n * 0x20
abbrev STRM_RX_CFG.state (n : Nat) : Fld := ⟨STRM_RX_CFG n, 30, 2⟩
abbrev STRM_RX_CFG.susp (n : Nat) : Fld := ⟨STRM_RX_CFG n, 29, 1⟩
abbrev STRM_RX_CFG.talk (n : Nat) : Fld := ⟨STRM_RX_CFG n, 28, 1⟩
abbrev STRM_RX_CFG.ports (n : Nat) : Fld := ⟨STRM_RX_CFG n, 26, 2⟩
abbrev STRM_RX_CFG.tag (n : Nat) : Fld := ⟨STRM_RX_CFG n, 25, 1⟩
abbrev STRM_RX_CFG.l16 (n : Nat) : Fld := ⟨STRM_RX_CFG n, 24, 1⟩
abbrev STRM_RX_CFG.r96 (n : Nat) : Fld := ⟨STRM_RX_CFG n, 23, 1⟩
abbrev STRM_RX_CFG.ptime (n : Nat) : Fld := ⟨STRM_RX_CFG n, 20, 3⟩
abbrev STRM_RX_CFG.class (n : Nat) : Fld := ⟨STRM_RX_CFG n, 17, 3⟩
abbrev STRM_RX_CFG.async (n : Nat) : Fld := ⟨STRM_RX_CFG n, 16, 1⟩
abbrev STRM_RX_CFG.nch (n : Nat) : Fld := ⟨STRM_RX_CFG n, 10, 6⟩
abbrev STRM_RX_CFG.sap (n : Nat) : Fld := ⟨STRM_RX_CFG n, 9, 1⟩
abbrev STRM_RX_CFG.ch0 (n : Nat) : Fld := ⟨STRM_RX_CFG n, 0, 9⟩
/-- Register STRM_RX_OFS (spec/12_network_streams.md). -/
abbrev STRM_RX_OFS (n : Nat) : Nat := 0x400B2004 + n * 0x20
abbrev STRM_RX_OFS.pt (n : Nat) : Fld := ⟨STRM_RX_OFS n, 16, 7⟩
abbrev STRM_RX_OFS.offset (n : Nat) : Fld := ⟨STRM_RX_OFS n, 0, 11⟩
/-- Register STRM_RX_MOFS (spec/12_network_streams.md). -/
abbrev STRM_RX_MOFS (n : Nat) : Nat := 0x400B2008 + n * 0x20
abbrev STRM_RX_MOFS.moffset (n : Nat) : Fld := ⟨STRM_RX_MOFS n, 0, 32⟩
/-- Register STRM_RX_STAT (spec/12_network_streams.md). -/
abbrev STRM_RX_STAT (n : Nat) : Nat := 0x400B200C + n * 0x20
abbrev STRM_RX_STAT.winner (n : Nat) : Fld := ⟨STRM_RX_STAT n, 16, 11⟩
abbrev STRM_RX_STAT.synced (n : Nat) : Fld := ⟨STRM_RX_STAT n, 15, 1⟩
abbrev STRM_RX_STAT.heard (n : Nat) : Fld := ⟨STRM_RX_STAT n, 0, 4⟩
/-- Register STRM_RX_CNT0 (spec/12_network_streams.md). -/
abbrev STRM_RX_CNT0 (n : Nat) : Nat := 0x400B2010 + n * 0x20
abbrev STRM_RX_CNT0.late (n : Nat) : Fld := ⟨STRM_RX_CNT0 n, 16, 16⟩
abbrev STRM_RX_CNT0.early (n : Nat) : Fld := ⟨STRM_RX_CNT0 n, 0, 16⟩
/-- Register STRM_RX_CNT1 (spec/12_network_streams.md). -/
abbrev STRM_RX_CNT1 (n : Nat) : Nat := 0x400B2014 + n * 0x20
abbrev STRM_RX_CNT1.missing (n : Nat) : Fld := ⟨STRM_RX_CNT1 n, 16, 16⟩
abbrev STRM_RX_CNT1.dup (n : Nat) : Fld := ⟨STRM_RX_CNT1 n, 0, 16⟩
/-- Register STRM_RX_CNT2 (spec/12_network_streams.md). -/
abbrev STRM_RX_CNT2 (n : Nat) : Nat := 0x400B2018 + n * 0x20
abbrev STRM_RX_CNT2.bad (n : Nat) : Fld := ⟨STRM_RX_CNT2 n, 16, 16⟩
abbrev STRM_RX_CNT2.rejected (n : Nat) : Fld := ⟨STRM_RX_CNT2 n, 0, 16⟩
/-- Register STRM_RX_ID (spec/12_network_streams.md). -/
abbrev STRM_RX_ID (n : Nat) : Nat := 0x400B201C + n * 0x20
abbrev STRM_RX_ID.sid (n : Nat) : Fld := ⟨STRM_RX_ID n, 0, 16⟩
/-- Register STRM_LEG_GRP (spec/12_network_streams.md). -/
abbrev STRM_LEG_GRP (n : Nat) : Nat := 0x400B3000 + n * 0x10
abbrev STRM_LEG_GRP.group (n : Nat) : Fld := ⟨STRM_LEG_GRP n, 0, 32⟩
/-- Register STRM_LEG_SRC (spec/12_network_streams.md). -/
abbrev STRM_LEG_SRC (n : Nat) : Nat := 0x400B3004 + n * 0x10
abbrev STRM_LEG_SRC.src (n : Nat) : Fld := ⟨STRM_LEG_SRC n, 0, 32⟩
/-- Register STRM_LEG_CFG (spec/12_network_streams.md). -/
abbrev STRM_LEG_CFG (n : Nat) : Nat := 0x400B3008 + n * 0x10
abbrev STRM_LEG_CFG.en (n : Nat) : Fld := ⟨STRM_LEG_CFG n, 31, 1⟩
abbrev STRM_LEG_CFG.port (n : Nat) : Fld := ⟨STRM_LEG_CFG n, 30, 1⟩
abbrev STRM_LEG_CFG.up (n : Nat) : Fld := ⟨STRM_LEG_CFG n, 29, 1⟩
abbrev STRM_LEG_CFG.udp (n : Nat) : Fld := ⟨STRM_LEG_CFG n, 0, 16⟩
/-- Register STRM_LEG_STAT (spec/12_network_streams.md). -/
abbrev STRM_LEG_STAT (n : Nat) : Nat := 0x400B300C + n * 0x10
abbrev STRM_LEG_STAT.claim (n : Nat) : Fld := ⟨STRM_LEG_STAT n, 16, 16⟩
abbrev STRM_LEG_STAT.firsts (n : Nat) : Fld := ⟨STRM_LEG_STAT n, 0, 16⟩
/-- Register SP_CFG (spec/09_serial_audio_ports.md). -/
abbrev SP_CFG (n : Nat) : Nat := 0x40100000 + n * 0x400
abbrev SP_CFG.master (n : Nat) : Fld := ⟨SP_CFG n, 31, 1⟩
abbrev SP_CFG.sync (n : Nat) : Fld := ⟨SP_CFG n, 30, 1⟩
abbrev SP_CFG.priv (n : Nat) : Fld := ⟨SP_CFG n, 29, 1⟩
abbrev SP_CFG.clk_src (n : Nat) : Fld := ⟨SP_CFG n, 28, 1⟩
abbrev SP_CFG.fmt (n : Nat) : Fld := ⟨SP_CFG n, 26, 2⟩
abbrev SP_CFG.fs_pulse (n : Nat) : Fld := ⟨SP_CFG n, 25, 1⟩
abbrev SP_CFG.fs_inv (n : Nat) : Fld := ⟨SP_CFG n, 24, 1⟩
abbrev SP_CFG.bclk_inv (n : Nat) : Fld := ⟨SP_CFG n, 23, 1⟩
abbrev SP_CFG.delay (n : Nat) : Fld := ⟨SP_CFG n, 22, 1⟩
abbrev SP_CFG.width (n : Nat) : Fld := ⟨SP_CFG n, 20, 2⟩
abbrev SP_CFG.do_idle (n : Nat) : Fld := ⟨SP_CFG n, 19, 1⟩
abbrev SP_CFG.grp_en (n : Nat) : Fld := ⟨SP_CFG n, 18, 1⟩
abbrev SP_CFG.grp (n : Nat) : Fld := ⟨SP_CFG n, 16, 2⟩
abbrev SP_CFG.tx_en (n : Nat) : Fld := ⟨SP_CFG n, 15, 1⟩
abbrev SP_CFG.rx_en (n : Nat) : Fld := ⟨SP_CFG n, 14, 1⟩
/-- Register SP_FRAME (spec/09_serial_audio_ports.md). -/
abbrev SP_FRAME (n : Nat) : Nat := 0x40100004 + n * 0x400
abbrev SP_FRAME.slots (n : Nat) : Fld := ⟨SP_FRAME n, 16, 5⟩
abbrev SP_FRAME.bits (n : Nat) : Fld := ⟨SP_FRAME n, 0, 11⟩
/-- Register SP_DIVN (spec/09_serial_audio_ports.md). -/
abbrev SP_DIVN (n : Nat) : Nat := 0x40100008 + n * 0x400
abbrev SP_DIVN.n (n : Nat) : Fld := ⟨SP_DIVN n, 0, 12⟩
/-- Register SP_DIVF (spec/09_serial_audio_ports.md). -/
abbrev SP_DIVF (n : Nat) : Nat := 0x4010000C + n * 0x400
abbrev SP_DIVF.f (n : Nat) : Fld := ⟨SP_DIVF n, 0, 24⟩
/-- Register SP_TIMING (spec/09_serial_audio_ports.md). -/
abbrev SP_TIMING (n : Nat) : Nat := 0x40100010 + n * 0x400
abbrev SP_TIMING.pre (n : Nat) : Fld := ⟨SP_TIMING n, 24, 8⟩
abbrev SP_TIMING.post (n : Nat) : Fld := ⟨SP_TIMING n, 16, 8⟩
abbrev SP_TIMING.zc_to (n : Nat) : Fld := ⟨SP_TIMING n, 0, 6⟩
/-- Register SP_TXMASK (spec/09_serial_audio_ports.md). -/
abbrev SP_TXMASK (n : Nat) : Nat := 0x40100014 + n * 0x400
abbrev SP_TXMASK.mask (n : Nat) : Fld := ⟨SP_TXMASK n, 0, 32⟩
/-- Register SP_RXMASK (spec/09_serial_audio_ports.md). -/
abbrev SP_RXMASK (n : Nat) : Nat := 0x40100018 + n * 0x400
abbrev SP_RXMASK.mask (n : Nat) : Fld := ⟨SP_RXMASK n, 0, 32⟩
/-- Register SP_MASK_COMMIT (spec/09_serial_audio_ports.md). -/
abbrev SP_MASK_COMMIT (n : Nat) : Nat := 0x4010001C + n * 0x400
abbrev SP_MASK_COMMIT.commit (n : Nat) : Fld := ⟨SP_MASK_COMMIT n, 0, 1⟩
/-- Register SP_TXMASK_ACT (spec/09_serial_audio_ports.md). -/
abbrev SP_TXMASK_ACT (n : Nat) : Nat := 0x40100020 + n * 0x400
abbrev SP_TXMASK_ACT.mask (n : Nat) : Fld := ⟨SP_TXMASK_ACT n, 0, 32⟩
/-- Register SP_RXMASK_ACT (spec/09_serial_audio_ports.md). -/
abbrev SP_RXMASK_ACT (n : Nat) : Nat := 0x40100024 + n * 0x400
abbrev SP_RXMASK_ACT.mask (n : Nat) : Fld := ⟨SP_RXMASK_ACT n, 0, 32⟩
/-- Register SP_CTRL (spec/09_serial_audio_ports.md). -/
abbrev SP_CTRL (n : Nat) : Nat := 0x40100028 + n * 0x400
abbrev SP_CTRL.unmute (n : Nat) : Fld := ⟨SP_CTRL n, 3, 1⟩
abbrev SP_CTRL.mute (n : Nat) : Fld := ⟨SP_CTRL n, 2, 1⟩
abbrev SP_CTRL.stop (n : Nat) : Fld := ⟨SP_CTRL n, 1, 1⟩
abbrev SP_CTRL.start (n : Nat) : Fld := ⟨SP_CTRL n, 0, 1⟩
/-- Register SP_APPLY (spec/09_serial_audio_ports.md). -/
abbrev SP_APPLY (n : Nat) : Nat := 0x4010002C + n * 0x400
abbrev SP_APPLY.apply (n : Nat) : Fld := ⟨SP_APPLY n, 0, 32⟩
/-- Register SP_STATUS (spec/09_serial_audio_ports.md). -/
abbrev SP_STATUS (n : Nat) : Nat := 0x40100030 + n * 0x400
abbrev SP_STATUS.state (n : Nat) : Fld := ⟨SP_STATUS n, 29, 3⟩
abbrev SP_STATUS.muted (n : Nat) : Fld := ⟨SP_STATUS n, 28, 1⟩
abbrev SP_STATUS.commit_pend (n : Nat) : Fld := ⟨SP_STATUS n, 8, 1⟩
abbrev SP_STATUS.zc_timeout (n : Nat) : Fld := ⟨SP_STATUS n, 7, 1⟩
abbrev SP_STATUS.lost (n : Nat) : Fld := ⟨SP_STATUS n, 6, 1⟩
abbrev SP_STATUS.glitch (n : Nat) : Fld := ⟨SP_STATUS n, 5, 1⟩
abbrev SP_STATUS.tx_ins (n : Nat) : Fld := ⟨SP_STATUS n, 4, 1⟩
abbrev SP_STATUS.tx_drop (n : Nat) : Fld := ⟨SP_STATUS n, 3, 1⟩
abbrev SP_STATUS.rx_ins (n : Nat) : Fld := ⟨SP_STATUS n, 2, 1⟩
abbrev SP_STATUS.rx_drop (n : Nat) : Fld := ⟨SP_STATUS n, 1, 1⟩
abbrev SP_STATUS.wr_refused (n : Nat) : Fld := ⟨SP_STATUS n, 0, 1⟩
/-- Register SP_SLIPCNT (spec/09_serial_audio_ports.md). -/
abbrev SP_SLIPCNT (n : Nat) : Nat := 0x40100034 + n * 0x400
abbrev SP_SLIPCNT.inserted (n : Nat) : Fld := ⟨SP_SLIPCNT n, 16, 16⟩
abbrev SP_SLIPCNT.dropped (n : Nat) : Fld := ⟨SP_SLIPCNT n, 0, 16⟩
/-- Register SP_GLITCHCNT (spec/09_serial_audio_ports.md). -/
abbrev SP_GLITCHCNT (n : Nat) : Nat := 0x40100038 + n * 0x400
abbrev SP_GLITCHCNT.lost (n : Nat) : Fld := ⟨SP_GLITCHCNT n, 16, 16⟩
abbrev SP_GLITCHCNT.glitches (n : Nat) : Fld := ⟨SP_GLITCHCNT n, 0, 16⟩
/-- Register SP_SLACK (spec/09_serial_audio_ports.md). -/
abbrev SP_SLACK (n : Nat) : Nat := 0x4010003C + n * 0x400
abbrev SP_SLACK.offset (n : Nat) : Fld := ⟨SP_SLACK n, 0, 16⟩
/-- Register SP_ZCWAIT (spec/09_serial_audio_ports.md). -/
abbrev SP_ZCWAIT (n : Nat) : Nat := 0x40100040 + n * 0x400
abbrev SP_ZCWAIT.wait (n : Nat) : Fld := ⟨SP_ZCWAIT n, 0, 32⟩
/-- Register SP_GRP_FCNT (spec/09_serial_audio_ports.md). -/
abbrev SP_GRP_FCNT (n : Nat) : Nat := 0x40107000 + n * 0x8
abbrev SP_GRP_FCNT.count (n : Nat) : Fld := ⟨SP_GRP_FCNT n, 0, 32⟩
/-- Register SP_GRP_STAT (spec/09_serial_audio_ports.md). -/
abbrev SP_GRP_STAT (n : Nat) : Nat := 0x40107004 + n * 0x8
abbrev SP_GRP_STAT.leader (n : Nat) : Fld := ⟨SP_GRP_STAT n, 16, 4⟩
abbrev SP_GRP_STAT.members (n : Nat) : Fld := ⟨SP_GRP_STAT n, 0, 16⟩
/-- Register SP_GRPSEL0 (spec/23_register_index.md). -/
abbrev SP_GRPSEL0 : Nat := 0x40107FF0
abbrev SP_GRPSEL0.sel : Fld := ⟨SP_GRPSEL0, 0, 16⟩
/-- Register DEC_CFG (spec/08_decimation_and_rate_conversion.md). -/
abbrev DEC_CFG (n : Nat) : Nat := 0x40110000 + n * 0x100
abbrev DEC_CFG.mode (n : Nat) : Fld := ⟨DEC_CFG n, 30, 2⟩
abbrev DEC_CFG.phase (n : Nat) : Fld := ⟨DEC_CFG n, 29, 1⟩
abbrev DEC_CFG.fifo_en (n : Nat) : Fld := ⟨DEC_CFG n, 28, 1⟩
abbrev DEC_CFG.order (n : Nat) : Fld := ⟨DEC_CFG n, 24, 2⟩
abbrev DEC_CFG.ratio (n : Nat) : Fld := ⟨DEC_CFG n, 22, 2⟩
/-- Register DEC_STEP (spec/08_decimation_and_rate_conversion.md). -/
abbrev DEC_STEP (n : Nat) : Nat := 0x40110004 + n * 0x100
abbrev DEC_STEP.step (n : Nat) : Fld := ⟨DEC_STEP n, 0, 32⟩
/-- Register DEC_FIRGD (spec/08_decimation_and_rate_conversion.md). -/
abbrev DEC_FIRGD (n : Nat) : Nat := 0x40110008 + n * 0x100
abbrev DEC_FIRGD.gd (n : Nat) : Fld := ⟨DEC_FIRGD n, 0, 16⟩
/-- Register DEC_STROBE (spec/08_decimation_and_rate_conversion.md). -/
abbrev DEC_STROBE (n : Nat) : Nat := 0x4011000C + n * 0x100
abbrev DEC_STROBE.src (n : Nat) : Fld := ⟨DEC_STROBE n, 30, 2⟩
abbrev DEC_STROBE.gpio (n : Nat) : Fld := ⟨DEC_STROBE n, 16, 5⟩
abbrev DEC_STROBE.timer (n : Nat) : Fld := ⟨DEC_STROBE n, 8, 2⟩
abbrev DEC_STROBE.skip (n : Nat) : Fld := ⟨DEC_STROBE n, 0, 8⟩
/-- Register DEC_CTRL (spec/08_decimation_and_rate_conversion.md). -/
abbrev DEC_CTRL (n : Nat) : Nat := 0x40110010 + n * 0x100
abbrev DEC_CTRL.stop (n : Nat) : Fld := ⟨DEC_CTRL n, 1, 1⟩
abbrev DEC_CTRL.start (n : Nat) : Fld := ⟨DEC_CTRL n, 0, 1⟩
/-- Register DEC_APPLY (spec/08_decimation_and_rate_conversion.md). -/
abbrev DEC_APPLY (n : Nat) : Nat := 0x40110014 + n * 0x100
abbrev DEC_APPLY.apply (n : Nat) : Fld := ⟨DEC_APPLY n, 0, 32⟩
/-- Register DEC_STATUS (spec/08_decimation_and_rate_conversion.md). -/
abbrev DEC_STATUS (n : Nat) : Nat := 0x40110018 + n * 0x100
abbrev DEC_STATUS.state (n : Nat) : Fld := ⟨DEC_STATUS n, 16, 2⟩
abbrev DEC_STATUS.cfg_bad (n : Nat) : Fld := ⟨DEC_STATUS n, 4, 1⟩
abbrev DEC_STATUS.abort (n : Nat) : Fld := ⟨DEC_STATUS n, 3, 1⟩
abbrev DEC_STATUS.fifo_ovf (n : Nat) : Fld := ⟨DEC_STATUS n, 2, 1⟩
abbrev DEC_STATUS.sat (n : Nat) : Fld := ⟨DEC_STATUS n, 1, 1⟩
abbrev DEC_STATUS.wr_refused (n : Nat) : Fld := ⟨DEC_STATUS n, 0, 1⟩
/-- Register DEC_SAT (spec/08_decimation_and_rate_conversion.md). -/
abbrev DEC_SAT (n : Nat) : Nat := 0x4011001C + n * 0x100
abbrev DEC_SAT.count (n : Nat) : Fld := ⟨DEC_SAT n, 0, 32⟩
/-- Register DEC_FIFO (spec/08_decimation_and_rate_conversion.md). -/
abbrev DEC_FIFO (n : Nat) : Nat := 0x40110020 + n * 0x100
abbrev DEC_FIFO.valid (n : Nat) : Fld := ⟨DEC_FIFO n, 31, 1⟩
abbrev DEC_FIFO.sample (n : Nat) : Fld := ⟨DEC_FIFO n, 0, 24⟩
/-- Register DEC_FIFOLVL (spec/08_decimation_and_rate_conversion.md). -/
abbrev DEC_FIFOLVL (n : Nat) : Nat := 0x40110024 + n * 0x100
abbrev DEC_FIFOLVL.level (n : Nat) : Fld := ⟨DEC_FIFOLVL n, 0, 9⟩
/-- Register DEC_GD (spec/08_decimation_and_rate_conversion.md). -/
abbrev DEC_GD (n : Nat) : Nat := 0x40110028 + n * 0x100
abbrev DEC_GD.ns (n : Nat) : Fld := ⟨DEC_GD n, 0, 32⟩
/-- Register DEC_TAP (spec/08_decimation_and_rate_conversion.md). -/
abbrev DEC_TAP (n k : Nat) : Nat := 0x40113000 + n * 0x180 + k * 0x4
abbrev DEC_TAP.tap (n k : Nat) : Fld := ⟨DEC_TAP n k, 0, 32⟩
/-- Register DEC_PDMCLK (spec/08_decimation_and_rate_conversion.md). -/
abbrev DEC_PDMCLK : Nat := 0x40117000
abbrev DEC_PDMCLK.r128 : Fld := ⟨DEC_PDMCLK, 4, 4⟩
abbrev DEC_PDMCLK.en : Fld := ⟨DEC_PDMCLK, 0, 4⟩
/-- Register DEC_GSTATUS (spec/08_decimation_and_rate_conversion.md). -/
abbrev DEC_GSTATUS : Nat := 0x40117004
abbrev DEC_GSTATUS.wr_refused : Fld := ⟨DEC_GSTATUS, 0, 1⟩
/-- Register DEC_TMR (spec/08_decimation_and_rate_conversion.md). -/
abbrev DEC_TMR (n : Nat) : Nat := 0x40117010 + n * 0x4
abbrev DEC_TMR.en (n : Nat) : Fld := ⟨DEC_TMR n, 31, 1⟩
abbrev DEC_TMR.out_en (n : Nat) : Fld := ⟨DEC_TMR n, 30, 1⟩
abbrev DEC_TMR.gpio (n : Nat) : Fld := ⟨DEC_TMR n, 25, 5⟩
abbrev DEC_TMR.clk (n : Nat) : Fld := ⟨DEC_TMR n, 22, 3⟩
abbrev DEC_TMR.period (n : Nat) : Fld := ⟨DEC_TMR n, 0, 16⟩
/-- Register DEC_GRPSEL0 (spec/23_register_index.md). -/
abbrev DEC_GRPSEL0 : Nat := 0x40117FF0
abbrev DEC_GRPSEL0.sel : Fld := ⟨DEC_GRPSEL0, 0, 32⟩
/-- Register DEC_GRPSEL1 (spec/23_register_index.md). -/
abbrev DEC_GRPSEL1 : Nat := 0x40117FF4
abbrev DEC_GRPSEL1.sel : Fld := ⟨DEC_GRPSEL1, 0, 8⟩
/-- Register ASRC_STATUS (spec/08_decimation_and_rate_conversion.md). -/
abbrev ASRC_STATUS : Nat := 0x40120000
abbrev ASRC_STATUS.ch_free : Fld := ⟨ASRC_STATUS, 12, 10⟩
abbrev ASRC_STATUS.trk_free : Fld := ⟨ASRC_STATUS, 4, 7⟩
abbrev ASRC_STATUS.range : Fld := ⟨ASRC_STATUS, 2, 1⟩
abbrev ASRC_STATUS.unlock : Fld := ⟨ASRC_STATUS, 1, 1⟩
abbrev ASRC_STATUS.exhausted : Fld := ⟨ASRC_STATUS, 0, 1⟩
/-- Register ASRC_TRK_CFG (spec/08_decimation_and_rate_conversion.md). -/
abbrev ASRC_TRK_CFG (n : Nat) : Nat := 0x40121000 + n * 0x10
abbrev ASRC_TRK_CFG.dir (n : Nat) : Fld := ⟨ASRC_TRK_CFG n, 30, 2⟩
abbrev ASRC_TRK_CFG.phase (n : Nat) : Fld := ⟨ASRC_TRK_CFG n, 29, 1⟩
abbrev ASRC_TRK_CFG.kind (n : Nat) : Fld := ⟨ASRC_TRK_CFG n, 12, 4⟩
abbrev ASRC_TRK_CFG.index (n : Nat) : Fld := ⟨ASRC_TRK_CFG n, 0, 12⟩
/-- Register ASRC_TRK_STATE (spec/08_decimation_and_rate_conversion.md). -/
abbrev ASRC_TRK_STATE (n : Nat) : Nat := 0x40121004 + n * 0x10
abbrev ASRC_TRK_STATE.state (n : Nat) : Fld := ⟨ASRC_TRK_STATE n, 30, 2⟩
abbrev ASRC_TRK_STATE.nch (n : Nat) : Fld := ⟨ASRC_TRK_STATE n, 0, 7⟩
/-- Register ASRC_TRK_RATIO (spec/08_decimation_and_rate_conversion.md). -/
abbrev ASRC_TRK_RATIO (n : Nat) : Nat := 0x40121008 + n * 0x10
abbrev ASRC_TRK_RATIO.ratio (n : Nat) : Fld := ⟨ASRC_TRK_RATIO n, 0, 32⟩
/-- Register ASRC_TRK_UNLOCK (spec/08_decimation_and_rate_conversion.md). -/
abbrev ASRC_TRK_UNLOCK (n : Nat) : Nat := 0x4012100C + n * 0x10
abbrev ASRC_TRK_UNLOCK.count (n : Nat) : Fld := ⟨ASRC_TRK_UNLOCK n, 0, 16⟩
/-- Register ASRC_CH (spec/08_decimation_and_rate_conversion.md). -/
abbrev ASRC_CH (n : Nat) : Nat := 0x40122000 + n * 0x4
abbrev ASRC_CH.used (n : Nat) : Fld := ⟨ASRC_CH n, 31, 1⟩
abbrev ASRC_CH.active (n : Nat) : Fld := ⟨ASRC_CH n, 30, 1⟩
abbrev ASRC_CH.tracker (n : Nat) : Fld := ⟨ASRC_CH n, 16, 6⟩
abbrev ASRC_CH.id (n : Nat) : Fld := ⟨ASRC_CH n, 0, 16⟩
/-- Register ANA_IN_CFG (spec/10_analog_and_field_io.md). -/
abbrev ANA_IN_CFG (n : Nat) : Nat := 0x40130000 + n * 0x100
abbrev ANA_IN_CFG.bias_en (n : Nat) : Fld := ⟨ANA_IN_CFG n, 31, 1⟩
abbrev ANA_IN_CFG.bsup_en (n : Nat) : Fld := ⟨ANA_IN_CFG n, 30, 1⟩
abbrev ANA_IN_CFG.gain (n : Nat) : Fld := ⟨ANA_IN_CFG n, 0, 6⟩
/-- Register ANA_IN_STAT (spec/10_analog_and_field_io.md). -/
abbrev ANA_IN_STAT (n : Nat) : Nat := 0x40130004 + n * 0x100
abbrev ANA_IN_STAT.bias_state (n : Nat) : Fld := ⟨ANA_IN_STAT n, 30, 2⟩
abbrev ANA_IN_STAT.gain_now (n : Nat) : Fld := ⟨ANA_IN_STAT n, 16, 6⟩
abbrev ANA_IN_STAT.bias_ua (n : Nat) : Fld := ⟨ANA_IN_STAT n, 0, 12⟩
/-- Register ANA_BIAS_THR (spec/10_analog_and_field_io.md). -/
abbrev ANA_BIAS_THR (n : Nat) : Nat := 0x40130008 + n * 0x100
abbrev ANA_BIAS_THR.open_ua (n : Nat) : Fld := ⟨ANA_BIAS_THR n, 16, 12⟩
abbrev ANA_BIAS_THR.short_ua (n : Nat) : Fld := ⟨ANA_BIAS_THR n, 0, 12⟩
/-- Register ANA_OUT_CFG (spec/10_analog_and_field_io.md). -/
abbrev ANA_OUT_CFG (n : Nat) : Nat := 0x40130010 + n * 0x100
abbrev ANA_OUT_CFG.hold (n : Nat) : Fld := ⟨ANA_OUT_CFG n, 8, 8⟩
abbrev ANA_OUT_CFG.zc_to (n : Nat) : Fld := ⟨ANA_OUT_CFG n, 0, 6⟩
/-- Register ANA_OUT_STAT (spec/10_analog_and_field_io.md). -/
abbrev ANA_OUT_STAT (n : Nat) : Nat := 0x40130014 + n * 0x100
abbrev ANA_OUT_STAT.state (n : Nat) : Fld := ⟨ANA_OUT_STAT n, 29, 3⟩
/-- Register ANA_STATUS (spec/10_analog_and_field_io.md). -/
abbrev ANA_STATUS (n : Nat) : Nat := 0x40130018 + n * 0x100
abbrev ANA_STATUS.gain_to (n : Nat) : Fld := ⟨ANA_STATUS n, 3, 1⟩
abbrev ANA_STATUS.bias_fault (n : Nat) : Fld := ⟨ANA_STATUS n, 2, 1⟩
abbrev ANA_STATUS.zc_timeout (n : Nat) : Fld := ⟨ANA_STATUS n, 1, 1⟩
abbrev ANA_STATUS.wr_refused (n : Nat) : Fld := ⟨ANA_STATUS n, 0, 1⟩
/-- Register ANA_GRPSEL0 (spec/23_register_index.md). -/
abbrev ANA_GRPSEL0 : Nat := 0x40137FF0
abbrev ANA_GRPSEL0.sel : Fld := ⟨ANA_GRPSEL0, 0, 8⟩
/-- Register XPT_STATUS (spec/03_patch_and_crosspoint.md). -/
abbrev XPT_STATUS : Nat := 0x40200000
abbrev XPT_STATUS.q_level : Fld := ⟨XPT_STATUS, 16, 6⟩
abbrev XPT_STATUS.bad_entry : Fld := ⟨XPT_STATUS, 4, 1⟩
abbrev XPT_STATUS.wr_blocked : Fld := ⟨XPT_STATUS, 3, 1⟩
abbrev XPT_STATUS.skip : Fld := ⟨XPT_STATUS, 2, 1⟩
abbrev XPT_STATUS.q_full : Fld := ⟨XPT_STATUS, 1, 1⟩
abbrev XPT_STATUS.lane_err : Fld := ⟨XPT_STATUS, 0, 1⟩
/-- Register XPT_QENT0 (spec/03_patch_and_crosspoint.md). -/
abbrev XPT_QENT0 : Nat := 0x40200010
abbrev XPT_QENT0.apply : Fld := ⟨XPT_QENT0, 0, 32⟩
/-- Register XPT_QENT1 (spec/03_patch_and_crosspoint.md). -/
abbrev XPT_QENT1 : Nat := 0x40200014
abbrev XPT_QENT1.op : Fld := ⟨XPT_QENT1, 30, 2⟩
abbrev XPT_QENT1.scope : Fld := ⟨XPT_QENT1, 28, 2⟩
abbrev XPT_QENT1.ramp : Fld := ⟨XPT_QENT1, 16, 10⟩
abbrev XPT_QENT1.target : Fld := ⟨XPT_QENT1, 0, 10⟩
/-- Register XPT_QPUSH (spec/03_patch_and_crosspoint.md). -/
abbrev XPT_QPUSH : Nat := 0x40200018
abbrev XPT_QPUSH.push : Fld := ⟨XPT_QPUSH, 0, 1⟩
/-- Register XPT_SAT_CNT (spec/03_patch_and_crosspoint.md). -/
abbrev XPT_SAT_CNT : Nat := 0x40200020
abbrev XPT_SAT_CNT.count : Fld := ⟨XPT_SAT_CNT, 0, 32⟩
/-- Register XPT_SAT_LAST (spec/03_patch_and_crosspoint.md). -/
abbrev XPT_SAT_LAST : Nat := 0x40200024
abbrev XPT_SAT_LAST.valid : Fld := ⟨XPT_SAT_LAST, 31, 1⟩
abbrev XPT_SAT_LAST.column : Fld := ⟨XPT_SAT_LAST, 0, 10⟩
/-- Register XPT_ECC_CNT (spec/03_patch_and_crosspoint.md). -/
abbrev XPT_ECC_CNT : Nat := 0x40200028
abbrev XPT_ECC_CNT.uncorrected : Fld := ⟨XPT_ECC_CNT, 16, 16⟩
abbrev XPT_ECC_CNT.corrected : Fld := ⟨XPT_ECC_CNT, 0, 16⟩
/-- Register XPT_BLK_CNT (spec/03_patch_and_crosspoint.md). -/
abbrev XPT_BLK_CNT : Nat := 0x4020002C
abbrev XPT_BLK_CNT.skip : Fld := ⟨XPT_BLK_CNT, 16, 16⟩
abbrev XPT_BLK_CNT.wr_blocked : Fld := ⟨XPT_BLK_CNT, 0, 16⟩
/-- Register XPT_CNT_CLR (spec/03_patch_and_crosspoint.md). -/
abbrev XPT_CNT_CLR : Nat := 0x40200030
abbrev XPT_CNT_CLR.blk : Fld := ⟨XPT_CNT_CLR, 2, 1⟩
abbrev XPT_CNT_CLR.ecc : Fld := ⟨XPT_CNT_CLR, 1, 1⟩
abbrev XPT_CNT_CLR.sat : Fld := ⟨XPT_CNT_CLR, 0, 1⟩
/-- Register XPT_SPARE (spec/03_patch_and_crosspoint.md). -/
abbrev XPT_SPARE (n : Nat) : Nat := 0x40200040 + n * 0x4
abbrev XPT_SPARE.valid (n : Nat) : Fld := ⟨XPT_SPARE n, 31, 1⟩
abbrev XPT_SPARE.fenced (n : Nat) : Fld := ⟨XPT_SPARE n, 30, 1⟩
abbrev XPT_SPARE.lane (n : Nat) : Fld := ⟨XPT_SPARE n, 0, 7⟩
/-- Register XPT_FENCE (spec/03_patch_and_crosspoint.md). -/
abbrev XPT_FENCE (n : Nat) : Nat := 0x40200060 + n * 0x4
abbrev XPT_FENCE.fenced (n : Nat) : Fld := ⟨XPT_FENCE n, 0, 32⟩
/-- Register XPT_CAP_CFG (spec/03_patch_and_crosspoint.md). -/
abbrev XPT_CAP_CFG (n : Nat) : Nat := 0x40200080 + n * 0x10
abbrev XPT_CAP_CFG.arm (n : Nat) : Fld := ⟨XPT_CAP_CFG n, 31, 1⟩
abbrev XPT_CAP_CFG.point (n : Nat) : Fld := ⟨XPT_CAP_CFG n, 28, 2⟩
abbrev XPT_CAP_CFG.index (n : Nat) : Fld := ⟨XPT_CAP_CFG n, 0, 10⟩
/-- Register XPT_CAP_START (spec/03_patch_and_crosspoint.md). -/
abbrev XPT_CAP_START (n : Nat) : Nat := 0x40200084 + n * 0x10
abbrev XPT_CAP_START.cycle (n : Nat) : Fld := ⟨XPT_CAP_START n, 0, 32⟩
/-- Register XPT_COLSTATE (spec/03_patch_and_crosspoint.md). -/
abbrev XPT_COLSTATE (n : Nat) : Nat := 0x40201000 + n * 0x4
abbrev XPT_COLSTATE.bank (n : Nat) : Fld := ⟨XPT_COLSTATE n, 31, 1⟩
abbrev XPT_COLSTATE.ramping (n : Nat) : Fld := ⟨XPT_COLSTATE n, 30, 1⟩
abbrev XPT_COLSTATE.copying (n : Nat) : Fld := ⟨XPT_COLSTATE n, 29, 1⟩
abbrev XPT_COLSTATE.forced (n : Nat) : Fld := ⟨XPT_COLSTATE n, 28, 1⟩
abbrev XPT_COLSTATE.no_lane (n : Nat) : Fld := ⟨XPT_COLSTATE n, 27, 1⟩
abbrev XPT_COLSTATE.left (n : Nat) : Fld := ⟨XPT_COLSTATE n, 0, 11⟩
/-- Register XPT_GMASK (spec/03_patch_and_crosspoint.md). -/
abbrev XPT_GMASK (n k : Nat) : Nat := 0x40202000 + n * 0x80 + k * 0x4
abbrev XPT_GMASK.cols (n k : Nat) : Fld := ⟨XPT_GMASK n k, 0, 32⟩
/-- Register XPT_CAPDATA (spec/03_patch_and_crosspoint.md). -/
abbrev XPT_CAPDATA (n k : Nat) : Nat := 0x40204000 + n * 0x800 + k * 0x4
abbrev XPT_CAPDATA.data (n k : Nat) : Fld := ⟨XPT_CAPDATA n k, 0, 32⟩
/-- Register PATCH_STATUS (spec/03_patch_and_crosspoint.md). -/
abbrev PATCH_STATUS : Nat := 0x40210000
abbrev PATCH_STATUS.q_level : Fld := ⟨PATCH_STATUS, 16, 7⟩
abbrev PATCH_STATUS.bad_req : Fld := ⟨PATCH_STATUS, 2, 1⟩
abbrev PATCH_STATUS.q_full : Fld := ⟨PATCH_STATUS, 1, 1⟩
abbrev PATCH_STATUS.sat : Fld := ⟨PATCH_STATUS, 0, 1⟩
/-- Register PATCH_REQ0 (spec/03_patch_and_crosspoint.md). -/
abbrev PATCH_REQ0 : Nat := 0x40210010
abbrev PATCH_REQ0.apply : Fld := ⟨PATCH_REQ0, 0, 32⟩
/-- Register PATCH_REQ1 (spec/03_patch_and_crosspoint.md). -/
abbrev PATCH_REQ1 : Nat := 0x40210014
abbrev PATCH_REQ1.op : Fld := ⟨PATCH_REQ1, 29, 3⟩
abbrev PATCH_REQ1.ld : Fld := ⟨PATCH_REQ1, 16, 6⟩
abbrev PATCH_REQ1.entry : Fld := ⟨PATCH_REQ1, 0, 11⟩
/-- Register PATCH_REQ2 (spec/03_patch_and_crosspoint.md). -/
abbrev PATCH_REQ2 : Nat := 0x40210018
abbrev PATCH_REQ2.value : Fld := ⟨PATCH_REQ2, 0, 16⟩
/-- Register PATCH_PUSH (spec/03_patch_and_crosspoint.md). -/
abbrev PATCH_PUSH : Nat := 0x4021001C
abbrev PATCH_PUSH.push : Fld := ⟨PATCH_PUSH, 0, 1⟩
/-- Register PATCH_SAT_TOTAL (spec/03_patch_and_crosspoint.md). -/
abbrev PATCH_SAT_TOTAL : Nat := 0x40210020
abbrev PATCH_SAT_TOTAL.count : Fld := ⟨PATCH_SAT_TOTAL, 0, 32⟩
/-- Register PATCH_CNT_CLR (spec/03_patch_and_crosspoint.md). -/
abbrev PATCH_CNT_CLR : Nat := 0x40210024
abbrev PATCH_CNT_CLR.sinks : Fld := ⟨PATCH_CNT_CLR, 1, 1⟩
abbrev PATCH_CNT_CLR.total : Fld := ⟨PATCH_CNT_CLR, 0, 1⟩
/-- Register PATCH_MTR_CFG (spec/03_patch_and_crosspoint.md). -/
abbrev PATCH_MTR_CFG : Nat := 0x40210030
abbrev PATCH_MTR_CFG.win : Fld := ⟨PATCH_MTR_CFG, 0, 4⟩
/-- Register PATCH_MTR_CLR (spec/03_patch_and_crosspoint.md). -/
abbrev PATCH_MTR_CLR : Nat := 0x40210034
abbrev PATCH_MTR_CLR.peak : Fld := ⟨PATCH_MTR_CLR, 0, 1⟩
/-- Register PATCH_IN (spec/03_patch_and_crosspoint.md). -/
abbrev PATCH_IN (n : Nat) : Nat := 0x40211000 + n * 0x4
abbrev PATCH_IN.state (n : Nat) : Fld := ⟨PATCH_IN n, 30, 2⟩
abbrev PATCH_IN.held (n : Nat) : Fld := ⟨PATCH_IN n, 29, 1⟩
abbrev PATCH_IN.source (n : Nat) : Fld := ⟨PATCH_IN n, 0, 16⟩
/-- Register PATCH_OUT (spec/03_patch_and_crosspoint.md). -/
abbrev PATCH_OUT (n : Nat) : Nat := 0x40212000 + n * 0x4
abbrev PATCH_OUT.state (n : Nat) : Fld := ⟨PATCH_OUT n, 30, 2⟩
abbrev PATCH_OUT.held (n : Nat) : Fld := ⟨PATCH_OUT n, 29, 1⟩
abbrev PATCH_OUT.muted (n : Nat) : Fld := ⟨PATCH_OUT n, 28, 1⟩
abbrev PATCH_OUT.connected (n : Nat) : Fld := ⟨PATCH_OUT n, 27, 1⟩
abbrev PATCH_OUT.output (n : Nat) : Fld := ⟨PATCH_OUT n, 0, 10⟩
/-- Register PATCH_SATCNT (spec/03_patch_and_crosspoint.md). -/
abbrev PATCH_SATCNT (n : Nat) : Nat := 0x40213400 + n * 0x4
abbrev PATCH_SATCNT.odd (n : Nat) : Fld := ⟨PATCH_SATCNT n, 16, 16⟩
abbrev PATCH_SATCNT.even (n : Nat) : Fld := ⟨PATCH_SATCNT n, 0, 16⟩
/-- Register PATCH_MTR_PEAK (spec/03_patch_and_crosspoint.md). -/
abbrev PATCH_MTR_PEAK (n : Nat) : Nat := 0x40214000 + n * 0x8
abbrev PATCH_MTR_PEAK.peak (n : Nat) : Fld := ⟨PATCH_MTR_PEAK n, 0, 32⟩
/-- Register PATCH_MTR_MS (spec/03_patch_and_crosspoint.md). -/
abbrev PATCH_MTR_MS (n : Nat) : Nat := 0x40214004 + n * 0x8
abbrev PATCH_MTR_MS.ms (n : Nat) : Fld := ⟨PATCH_MTR_MS n, 0, 32⟩
/-- Register OVR_CFG (spec/04_alarm_override_plane.md). -/
abbrev OVR_CFG (n : Nat) : Nat := 0x40220000 + n * 0x40
abbrev OVR_CFG.enable (n : Nat) : Fld := ⟨OVR_CFG n, 31, 1⟩
abbrev OVR_CFG.latch (n : Nat) : Fld := ⟨OVR_CFG n, 30, 1⟩
abbrev OVR_CFG.class (n : Nat) : Fld := ⟨OVR_CFG n, 27, 3⟩
abbrev OVR_CFG.ramp (n : Nat) : Fld := ⟨OVR_CFG n, 20, 4⟩
abbrev OVR_CFG.nin (n : Nat) : Fld := ⟨OVR_CFG n, 16, 3⟩
abbrev OVR_CFG.group (n : Nat) : Fld := ⟨OVR_CFG n, 0, 6⟩
/-- Register OVR_SRC (spec/04_alarm_override_plane.md). -/
abbrev OVR_SRC (n : Nat) : Nat := 0x40220004 + n * 0x40
abbrev OVR_SRC.cin_en (n : Nat) : Fld := ⟨OVR_SRC n, 31, 1⟩
abbrev OVR_SRC.ring0_en (n : Nat) : Fld := ⟨OVR_SRC n, 30, 1⟩
abbrev OVR_SRC.twin_en (n : Nat) : Fld := ⟨OVR_SRC n, 29, 1⟩
abbrev OVR_SRC.cin_states (n : Nat) : Fld := ⟨OVR_SRC n, 8, 4⟩
abbrev OVR_SRC.cin (n : Nat) : Fld := ⟨OVR_SRC n, 0, 4⟩
/-- Register OVR_ACT (spec/04_alarm_override_plane.md). -/
abbrev OVR_ACT (n : Nat) : Nat := 0x40220008 + n * 0x40
abbrev OVR_ACT.play_en (n : Nat) : Fld := ⟨OVR_ACT n, 31, 1⟩
abbrev OVR_ACT.gen_en (n : Nat) : Fld := ⟨OVR_ACT n, 30, 1⟩
abbrev OVR_ACT.rel_stop (n : Nat) : Fld := ⟨OVR_ACT n, 29, 1⟩
abbrev OVR_ACT.gen (n : Nat) : Fld := ⟨OVR_ACT n, 24, 5⟩
abbrev OVR_ACT.player (n : Nat) : Fld := ⟨OVR_ACT n, 16, 6⟩
abbrev OVR_ACT.chain (n : Nat) : Fld := ⟨OVR_ACT n, 0, 12⟩
/-- Register OVR_TAG (spec/04_alarm_override_plane.md). -/
abbrev OVR_TAG (n : Nat) : Nat := 0x4022000C + n * 0x40
abbrev OVR_TAG.tag (n : Nat) : Fld := ⟨OVR_TAG n, 0, 32⟩
/-- Register OVR_IN_SEL (spec/04_alarm_override_plane.md). -/
abbrev OVR_IN_SEL (n k : Nat) : Nat := 0x40220010 + n * 0x40 + k * 0x8
abbrev OVR_IN_SEL.xi (n k : Nat) : Fld := ⟨OVR_IN_SEL n k, 0, 10⟩
/-- Register OVR_IN_GAIN (spec/04_alarm_override_plane.md). -/
abbrev OVR_IN_GAIN (n k : Nat) : Nat := 0x40220014 + n * 0x40 + k * 0x8
abbrev OVR_IN_GAIN.gain (n k : Nat) : Fld := ⟨OVR_IN_GAIN n k, 0, 32⟩
/-- Register OVR_LIVE (spec/04_alarm_override_plane.md). -/
abbrev OVR_LIVE (n k : Nat) : Nat := 0x40221000 + n * 0x40 + k * 0x4
abbrev OVR_LIVE.word (n k : Nat) : Fld := ⟨OVR_LIVE n k, 0, 32⟩
/-- Register OVR_SMASK (spec/04_alarm_override_plane.md). -/
abbrev OVR_SMASK (n k : Nat) : Nat := 0x40222000 + n * 0x80 + k * 0x4
abbrev OVR_SMASK.cols (n k : Nat) : Fld := ⟨OVR_SMASK n k, 0, 32⟩
/-- Register OVR_LMASK (spec/04_alarm_override_plane.md). -/
abbrev OVR_LMASK (n k : Nat) : Nat := 0x40224000 + n * 0x80 + k * 0x4
abbrev OVR_LMASK.cols (n k : Nat) : Fld := ⟨OVR_LMASK n k, 0, 32⟩
/-- Register OVR_COLCLASS (spec/04_alarm_override_plane.md). -/
abbrev OVR_COLCLASS (n : Nat) : Nat := 0x40226000 + n * 0x4
abbrev OVR_COLCLASS.c7 (n : Nat) : Fld := ⟨OVR_COLCLASS n, 28, 3⟩
abbrev OVR_COLCLASS.c6 (n : Nat) : Fld := ⟨OVR_COLCLASS n, 24, 3⟩
abbrev OVR_COLCLASS.c5 (n : Nat) : Fld := ⟨OVR_COLCLASS n, 20, 3⟩
abbrev OVR_COLCLASS.c4 (n : Nat) : Fld := ⟨OVR_COLCLASS n, 16, 3⟩
abbrev OVR_COLCLASS.c3 (n : Nat) : Fld := ⟨OVR_COLCLASS n, 12, 3⟩
abbrev OVR_COLCLASS.c2 (n : Nat) : Fld := ⟨OVR_COLCLASS n, 8, 3⟩
abbrev OVR_COLCLASS.c1 (n : Nat) : Fld := ⟨OVR_COLCLASS n, 4, 3⟩
abbrev OVR_COLCLASS.c0 (n : Nat) : Fld := ⟨OVR_COLCLASS n, 0, 3⟩
/-- Register OVR_COLOWNER (spec/04_alarm_override_plane.md). -/
abbrev OVR_COLOWNER (n : Nat) : Nat := 0x40226400 + n * 0x4
abbrev OVR_COLOWNER.owners (n : Nat) : Fld := ⟨OVR_COLOWNER n, 0, 32⟩
/-- Register OVR_STATUS (spec/04_alarm_override_plane.md). -/
abbrev OVR_STATUS : Nat := 0x40227000
abbrev OVR_STATUS.key_lockout : Fld := ⟨OVR_STATUS, 10, 1⟩
abbrev OVR_STATUS.both_bad : Fld := ⟨OVR_STATUS, 9, 1⟩
abbrev OVR_STATUS.repaired : Fld := ⟨OVR_STATUS, 8, 1⟩
abbrev OVR_STATUS.act_refused : Fld := ⟨OVR_STATUS, 7, 1⟩
abbrev OVR_STATUS.refused_busy : Fld := ⟨OVR_STATUS, 6, 1⟩
abbrev OVR_STATUS.expired : Fld := ⟨OVR_STATUS, 5, 1⟩
abbrev OVR_STATUS.key_fail : Fld := ⟨OVR_STATUS, 4, 1⟩
abbrev OVR_STATUS.bad_entry : Fld := ⟨OVR_STATUS, 3, 1⟩
abbrev OVR_STATUS.crc_fail : Fld := ⟨OVR_STATUS, 2, 1⟩
abbrev OVR_STATUS.commit_pend : Fld := ⟨OVR_STATUS, 1, 1⟩
abbrev OVR_STATUS.armed : Fld := ⟨OVR_STATUS, 0, 1⟩
/-- Register OVR_ARM (spec/04_alarm_override_plane.md). -/
abbrev OVR_ARM : Nat := 0x40227004
abbrev OVR_ARM.chal : Fld := ⟨OVR_ARM, 16, 16⟩
abbrev OVR_ARM.key : Fld := ⟨OVR_ARM, 0, 16⟩
/-- Register OVR_CRC (spec/04_alarm_override_plane.md). -/
abbrev OVR_CRC : Nat := 0x40227008
abbrev OVR_CRC.crc : Fld := ⟨OVR_CRC, 0, 32⟩
/-- Register OVR_COMMIT_APPLY (spec/04_alarm_override_plane.md). -/
abbrev OVR_COMMIT_APPLY : Nat := 0x4022700C
abbrev OVR_COMMIT_APPLY.apply : Fld := ⟨OVR_COMMIT_APPLY, 0, 32⟩
/-- Register OVR_COMMIT (spec/04_alarm_override_plane.md). -/
abbrev OVR_COMMIT : Nat := 0x40227010
abbrev OVR_COMMIT.resp : Fld := ⟨OVR_COMMIT, 0, 16⟩
/-- Register OVR_LIVE_CRC (spec/04_alarm_override_plane.md). -/
abbrev OVR_LIVE_CRC : Nat := 0x40227014
abbrev OVR_LIVE_CRC.crc : Fld := ⟨OVR_LIVE_CRC, 0, 32⟩
/-- Register OVR_GEN (spec/04_alarm_override_plane.md). -/
abbrev OVR_GEN : Nat := 0x40227018
abbrev OVR_GEN.count : Fld := ⟨OVR_GEN, 0, 16⟩
/-- Register OVR_ASSERT (spec/04_alarm_override_plane.md). -/
abbrev OVR_ASSERT (n : Nat) : Nat := 0x40227020 + n * 0x4
abbrev OVR_ASSERT.asserted (n : Nat) : Fld := ⟨OVR_ASSERT n, 0, 32⟩
/-- Register OVR_SUSP (spec/04_alarm_override_plane.md). -/
abbrev OVR_SUSP (n : Nat) : Nat := 0x40227028 + n * 0x4
abbrev OVR_SUSP.suspended (n : Nat) : Fld := ⟨OVR_SUSP n, 0, 32⟩
/-- Register OVR_GRPSEL0 (spec/23_register_index.md). -/
abbrev OVR_GRPSEL0 : Nat := 0x40227FF0
abbrev OVR_GRPSEL0.sel : Fld := ⟨OVR_GRPSEL0, 0, 32⟩
/-- Register OVR_GRPSEL1 (spec/23_register_index.md). -/
abbrev OVR_GRPSEL1 : Nat := 0x40227FF4
abbrev OVR_GRPSEL1.sel : Fld := ⟨OVR_GRPSEL1, 0, 32⟩
/-- Register CLU_STATUS (spec/23_register_index.md). -/
abbrev CLU_STATUS (n : Nat) : Nat := 0x40300000 + n * 0x1000
abbrev CLU_STATUS.state (n : Nat) : Fld := ⟨CLU_STATUS n, 30, 2⟩
abbrev CLU_STATUS.busy (n : Nat) : Fld := ⟨CLU_STATUS n, 16, 8⟩
abbrev CLU_STATUS.flagged (n : Nat) : Fld := ⟨CLU_STATUS n, 0, 8⟩
/-- Register CLU_CNT_CLR (spec/23_register_index.md). -/
abbrev CLU_CNT_CLR (n : Nat) : Nat := 0x40300004 + n * 0x1000
abbrev CLU_CNT_CLR.sat (n : Nat) : Fld := ⟨CLU_CNT_CLR n, 0, 1⟩
/-- Register CLU_CORE_SAT (spec/23_register_index.md). -/
abbrev CLU_CORE_SAT (n k : Nat) : Nat := 0x40300100 + n * 0x1000 + k * 0x10
abbrev CLU_CORE_SAT.count (n k : Nat) : Fld := ⟨CLU_CORE_SAT n k, 0, 32⟩
/-- Register CLU_CORE_FLAG (spec/23_register_index.md). -/
abbrev CLU_CORE_FLAG (n k : Nat) : Nat := 0x40300104 + n * 0x1000 + k * 0x10
abbrev CLU_CORE_FLAG.prog_fault (n k : Nat) : Fld := ⟨CLU_CORE_FLAG n k, 1, 1⟩
abbrev CLU_CORE_FLAG.acc_ovf (n k : Nat) : Fld := ⟨CLU_CORE_FLAG n k, 0, 1⟩
/-- Register CLU_CORE_LOAD (spec/23_register_index.md). -/
abbrev CLU_CORE_LOAD (n k : Nat) : Nat := 0x40300108 + n * 0x1000 + k * 0x10
abbrev CLU_CORE_LOAD.cycles (n k : Nat) : Fld := ⟨CLU_CORE_LOAD n k, 0, 20⟩
/-- Register CLU_GRPSEL0 (spec/23_register_index.md). -/
abbrev CLU_GRPSEL0 : Nat := 0x40307FF0
abbrev CLU_GRPSEL0.sel : Fld := ⟨CLU_GRPSEL0, 0, 4⟩
/-- Register ENG_CYCLE (spec/23_register_index.md). -/
abbrev ENG_CYCLE : Nat := 0x40310000
abbrev ENG_CYCLE.cycle : Fld := ⟨ENG_CYCLE, 0, 32⟩
/-- Register ENG_CFG (spec/23_register_index.md). -/
abbrev ENG_CFG : Nat := 0x40310004
abbrev ENG_CFG.fi : Fld := ⟨ENG_CFG, 8, 1⟩
abbrev ENG_CFG.b : Fld := ⟨ENG_CFG, 0, 8⟩
/-- Register ENG_CT (spec/23_register_index.md). -/
abbrev ENG_CT : Nat := 0x40310008
abbrev ENG_CT.ct : Fld := ⟨ENG_CT, 0, 20⟩
/-- Register ENG_MARGIN_MIN (spec/23_register_index.md). -/
abbrev ENG_MARGIN_MIN : Nat := 0x4031000C
abbrev ENG_MARGIN_MIN.unit : Fld := ⟨ENG_MARGIN_MIN, 26, 6⟩
abbrev ENG_MARGIN_MIN.margin : Fld := ⟨ENG_MARGIN_MIN, 0, 20⟩
/-- Register ENG_MARGIN_WARN (spec/23_register_index.md). -/
abbrev ENG_MARGIN_WARN : Nat := 0x40310010
abbrev ENG_MARGIN_WARN.warn : Fld := ⟨ENG_MARGIN_WARN, 0, 20⟩
/-- Register ENG_OVERRUN_CNT (spec/23_register_index.md). -/
abbrev ENG_OVERRUN_CNT : Nat := 0x40310014
abbrev ENG_OVERRUN_CNT.count : Fld := ⟨ENG_OVERRUN_CNT, 0, 32⟩
/-- Register ENG_CNT_CLR (spec/23_register_index.md). -/
abbrev ENG_CNT_CLR : Nat := 0x40310018
abbrev ENG_CNT_CLR.overrun : Fld := ⟨ENG_CNT_CLR, 0, 1⟩
/-- Register ENG_STATUS (spec/23_register_index.md). -/
abbrev ENG_STATUS : Nat := 0x4031001C
abbrev ENG_STATUS.overrun : Fld := ⟨ENG_STATUS, 1, 1⟩
abbrev ENG_STATUS.margin_low : Fld := ⟨ENG_STATUS, 0, 1⟩
/-- Register MSG_STATE (spec/11_messages_generators_visibility.md). -/
abbrev MSG_STATE (n : Nat) : Nat := 0x40400000 + n * 0x80
abbrev MSG_STATE.state (n : Nat) : Fld := ⟨MSG_STATE n, 30, 2⟩
abbrev MSG_STATE.class (n : Nat) : Fld := ⟨MSG_STATE n, 27, 3⟩
abbrev MSG_STATE.trig (n : Nat) : Fld := ⟨MSG_STATE n, 26, 1⟩
abbrev MSG_STATE.step_bad (n : Nat) : Fld := ⟨MSG_STATE n, 25, 1⟩
abbrev MSG_STATE.step (n : Nat) : Fld := ⟨MSG_STATE n, 12, 4⟩
abbrev MSG_STATE.chain (n : Nat) : Fld := ⟨MSG_STATE n, 0, 12⟩
/-- Register MSG_POS (spec/11_messages_generators_visibility.md). -/
abbrev MSG_POS (n : Nat) : Nat := 0x40400004 + n * 0x80
abbrev MSG_POS.sample (n : Nat) : Fld := ⟨MSG_POS n, 0, 32⟩
/-- Register MSG_MSG (spec/11_messages_generators_visibility.md). -/
abbrev MSG_MSG (n : Nat) : Nat := 0x40400008 + n * 0x80
abbrev MSG_MSG.rep (n : Nat) : Fld := ⟨MSG_MSG n, 24, 8⟩
abbrev MSG_MSG.msg (n : Nat) : Fld := ⟨MSG_MSG n, 0, 13⟩
/-- Register MSG_CNT (spec/11_messages_generators_visibility.md). -/
abbrev MSG_CNT (n : Nat) : Nat := 0x4040000C + n * 0x80
abbrev MSG_CNT.underrun (n : Nat) : Fld := ⟨MSG_CNT n, 16, 16⟩
/-- Register GEN_CFG (spec/11_messages_generators_visibility.md). -/
abbrev GEN_CFG (n : Nat) : Nat := 0x40402000 + n * 0x80
abbrev GEN_CFG.en (n : Nat) : Fld := ⟨GEN_CFG n, 31, 1⟩
abbrev GEN_CFG.type (n : Nat) : Fld := ⟨GEN_CFG n, 28, 3⟩
abbrev GEN_CFG.nseg (n : Nat) : Fld := ⟨GEN_CFG n, 0, 3⟩
/-- Register GEN_FREQ (spec/11_messages_generators_visibility.md). -/
abbrev GEN_FREQ (n : Nat) : Nat := 0x40402004 + n * 0x80
abbrev GEN_FREQ.word (n : Nat) : Fld := ⟨GEN_FREQ n, 0, 32⟩
/-- Register GEN_LEVEL (spec/11_messages_generators_visibility.md). -/
abbrev GEN_LEVEL (n : Nat) : Nat := 0x40402008 + n * 0x80
abbrev GEN_LEVEL.gain (n : Nat) : Fld := ⟨GEN_LEVEL n, 0, 32⟩
/-- Register GEN_SEED (spec/11_messages_generators_visibility.md). -/
abbrev GEN_SEED (n : Nat) : Nat := 0x4040200C + n * 0x80
abbrev GEN_SEED.seed (n : Nat) : Fld := ⟨GEN_SEED n, 0, 32⟩
/-- Register GEN_SEG_FSTART (spec/11_messages_generators_visibility.md). -/
abbrev GEN_SEG_FSTART (n k : Nat) : Nat := 0x40402010 + n * 0x80 + k * 0xC
abbrev GEN_SEG_FSTART.fstart (n k : Nat) : Fld := ⟨GEN_SEG_FSTART n k, 0, 32⟩
/-- Register GEN_SEG_FEND (spec/11_messages_generators_visibility.md). -/
abbrev GEN_SEG_FEND (n k : Nat) : Nat := 0x40402014 + n * 0x80 + k * 0xC
abbrev GEN_SEG_FEND.fend (n k : Nat) : Fld := ⟨GEN_SEG_FEND n k, 0, 32⟩
/-- Register GEN_SEG_DUR (spec/11_messages_generators_visibility.md). -/
abbrev GEN_SEG_DUR (n k : Nat) : Nat := 0x40402018 + n * 0x80 + k * 0xC
abbrev GEN_SEG_DUR.on (n k : Nat) : Fld := ⟨GEN_SEG_DUR n k, 31, 1⟩
abbrev GEN_SEG_DUR.dur (n k : Nat) : Fld := ⟨GEN_SEG_DUR n k, 0, 16⟩
/-- Register GEN_STAT (spec/11_messages_generators_visibility.md). -/
abbrev GEN_STAT (n : Nat) : Nat := 0x40402070 + n * 0x80
abbrev GEN_STAT.running (n : Nat) : Fld := ⟨GEN_STAT n, 31, 1⟩
abbrev GEN_STAT.seg (n : Nat) : Fld := ⟨GEN_STAT n, 0, 3⟩
/-- Register VIS_CFG (spec/11_messages_generators_visibility.md). -/
abbrev VIS_CFG (n : Nat) : Nat := 0x40403000 + n * 0x80
abbrev VIS_CFG.en (n : Nat) : Fld := ⟨VIS_CFG n, 31, 1⟩
abbrev VIS_CFG.lift_en (n : Nat) : Fld := ⟨VIS_CFG n, 30, 1⟩
abbrev VIS_CFG.amb_en (n : Nat) : Fld := ⟨VIS_CFG n, 29, 1⟩
abbrev VIS_CFG.freeze_ls (n : Nat) : Fld := ⟨VIS_CFG n, 28, 1⟩
abbrev VIS_CFG.os (n : Nat) : Fld := ⟨VIS_CFG n, 0, 10⟩
/-- Register VIS_MIC (spec/11_messages_generators_visibility.md). -/
abbrev VIS_MIC (n : Nat) : Nat := 0x40403004 + n * 0x80
abbrev VIS_MIC.source (n : Nat) : Fld := ⟨VIS_MIC n, 0, 16⟩
/-- Register VIS_CAL (spec/11_messages_generators_visibility.md). -/
abbrev VIS_CAL (n : Nat) : Nat := 0x40403008 + n * 0x80
abbrev VIS_CAL.spl (n : Nat) : Fld := ⟨VIS_CAL n, 0, 16⟩
/-- Register VIS_TARGET (spec/11_messages_generators_visibility.md). -/
abbrev VIS_TARGET (n : Nat) : Nat := 0x4040300C + n * 0x80
abbrev VIS_TARGET.target (n : Nat) : Fld := ⟨VIS_TARGET n, 16, 10⟩
abbrev VIS_TARGET.hyst (n : Nat) : Fld := ⟨VIS_TARGET n, 0, 10⟩
/-- Register VIS_AMB (spec/11_messages_generators_visibility.md). -/
abbrev VIS_AMB (n : Nat) : Nat := 0x40403010 + n * 0x80
abbrev VIS_AMB.amb_ref (n : Nat) : Fld := ⟨VIS_AMB n, 24, 8⟩
abbrev VIS_AMB.slope (n : Nat) : Fld := ⟨VIS_AMB n, 16, 8⟩
abbrev VIS_AMB.amb_max (n : Nat) : Fld := ⟨VIS_AMB n, 0, 8⟩
/-- Register VIS_LIM (spec/11_messages_generators_visibility.md). -/
abbrev VIS_LIM (n : Nat) : Nat := 0x40403014 + n * 0x80
abbrev VIS_LIM.ceiling (n : Nat) : Fld := ⟨VIS_LIM n, 24, 8⟩
abbrev VIS_LIM.lift_max (n : Nat) : Fld := ⟨VIS_LIM n, 16, 8⟩
abbrev VIS_LIM.tilt_max (n : Nat) : Fld := ⟨VIS_LIM n, 0, 8⟩
/-- Register VIS_INDEX (spec/11_messages_generators_visibility.md). -/
abbrev VIS_INDEX (n : Nat) : Nat := 0x40403020 + n * 0x80
abbrev VIS_INDEX.valid (n : Nat) : Fld := ⟨VIS_INDEX n, 31, 1⟩
abbrev VIS_INDEX.outside (n : Nat) : Fld := ⟨VIS_INDEX n, 30, 1⟩
abbrev VIS_INDEX.quiet (n : Nat) : Fld := ⟨VIS_INDEX n, 29, 1⟩
abbrev VIS_INDEX.mic_fault (n : Nat) : Fld := ⟨VIS_INDEX n, 28, 1⟩
abbrev VIS_INDEX.index (n : Nat) : Fld := ⟨VIS_INDEX n, 16, 10⟩
abbrev VIS_INDEX.delay (n : Nat) : Fld := ⟨VIS_INDEX n, 0, 10⟩
/-- Register VIS_CORR (spec/11_messages_generators_visibility.md). -/
abbrev VIS_CORR (n : Nat) : Nat := 0x40403024 + n * 0x80
abbrev VIS_CORR.gain (n : Nat) : Fld := ⟨VIS_CORR n, 16, 16⟩
abbrev VIS_CORR.tilt (n : Nat) : Fld := ⟨VIS_CORR n, 0, 16⟩
/-- Register VIS_LVL (spec/11_messages_generators_visibility.md). -/
abbrev VIS_LVL (n : Nat) : Nat := 0x40403028 + n * 0x80
abbrev VIS_LVL.prog (n : Nat) : Fld := ⟨VIS_LVL n, 16, 16⟩
abbrev VIS_LVL.amb (n : Nat) : Fld := ⟨VIS_LVL n, 0, 16⟩
/-- Register VIS_MTI (spec/11_messages_generators_visibility.md). -/
abbrev VIS_MTI (n k : Nat) : Nat := 0x40403030 + n * 0x80 + k * 0x4
abbrev VIS_MTI.mti (n k : Nat) : Fld := ⟨VIS_MTI n k, 0, 10⟩
/-- Register MSG_STATUS (spec/11_messages_generators_visibility.md). -/
abbrev MSG_STATUS : Nat := 0x40407000
abbrev MSG_STATUS.free : Fld := ⟨MSG_STATUS, 16, 7⟩
abbrev MSG_STATUS.wr_refused : Fld := ⟨MSG_STATUS, 5, 1⟩
abbrev MSG_STATUS.vis_fault : Fld := ⟨MSG_STATUS, 4, 1⟩
abbrev MSG_STATUS.underrun : Fld := ⟨MSG_STATUS, 3, 1⟩
abbrev MSG_STATUS.refused : Fld := ⟨MSG_STATUS, 2, 1⟩
abbrev MSG_STATUS.preempted : Fld := ⟨MSG_STATUS, 1, 1⟩
abbrev MSG_STATUS.msg_bad : Fld := ⟨MSG_STATUS, 0, 1⟩
/-- Register MSG_SCAN (spec/11_messages_generators_visibility.md). -/
abbrev MSG_SCAN : Nat := 0x40407004
abbrev MSG_SCAN.rounds : Fld := ⟨MSG_SCAN, 16, 16⟩
abbrev MSG_SCAN.msg : Fld := ⟨MSG_SCAN, 0, 13⟩
/-- Register MSG_PIN (spec/11_messages_generators_visibility.md). -/
abbrev MSG_PIN : Nat := 0x40407008
abbrev MSG_PIN.kib : Fld := ⟨MSG_PIN, 0, 16⟩
/-- Register MSG_GRPSEL0 (spec/23_register_index.md). -/
abbrev MSG_GRPSEL0 : Nat := 0x40407FF0
abbrev MSG_GRPSEL0.sel : Fld := ⟨MSG_GRPSEL0, 0, 32⟩
/-- Register MSG_GRPSEL1 (spec/23_register_index.md). -/
abbrev MSG_GRPSEL1 : Nat := 0x40407FF4
abbrev MSG_GRPSEL1.sel : Fld := ⟨MSG_GRPSEL1, 0, 32⟩
/-- Register SUP_STATUS (spec/10_analog_and_field_io.md). -/
abbrev SUP_STATUS : Nat := 0x40410000
abbrev SUP_STATUS.cfg_bad : Fld := ⟨SUP_STATUS, 6, 1⟩
abbrev SUP_STATUS.drv_shed : Fld := ⟨SUP_STATUS, 5, 1⟩
abbrev SUP_STATUS.drv_oc : Fld := ⟨SUP_STATUS, 4, 1⟩
abbrev SUP_STATUS.drv_fault : Fld := ⟨SUP_STATUS, 3, 1⟩
abbrev SUP_STATUS.ls_fault : Fld := ⟨SUP_STATUS, 2, 1⟩
abbrev SUP_STATUS.cin_fault : Fld := ⟨SUP_STATUS, 1, 1⟩
abbrev SUP_STATUS.cin_change : Fld := ⟨SUP_STATUS, 0, 1⟩
/-- Register SUP_CIN_THR0 (spec/10_analog_and_field_io.md). -/
abbrev SUP_CIN_THR0 (n : Nat) : Nat := 0x40410010 + n * 0x8
abbrev SUP_CIN_THR0.sa (n : Nat) : Fld := ⟨SUP_CIN_THR0 n, 16, 16⟩
abbrev SUP_CIN_THR0.an (n : Nat) : Fld := ⟨SUP_CIN_THR0 n, 0, 16⟩
/-- Register SUP_CIN_THR1 (spec/10_analog_and_field_io.md). -/
abbrev SUP_CIN_THR1 (n : Nat) : Nat := 0x40410014 + n * 0x8
abbrev SUP_CIN_THR1.no (n : Nat) : Fld := ⟨SUP_CIN_THR1 n, 0, 16⟩
/-- Register SUP_CIN_CFG (spec/10_analog_and_field_io.md). -/
abbrev SUP_CIN_CFG (n : Nat) : Nat := 0x40410100 + n * 0x8
abbrev SUP_CIN_CFG.en (n : Nat) : Fld := ⟨SUP_CIN_CFG n, 31, 1⟩
abbrev SUP_CIN_CFG.sup_en (n : Nat) : Fld := ⟨SUP_CIN_CFG n, 30, 1⟩
abbrev SUP_CIN_CFG.wake_en (n : Nat) : Fld := ⟨SUP_CIN_CFG n, 29, 1⟩
abbrev SUP_CIN_CFG.thr_set (n : Nat) : Fld := ⟨SUP_CIN_CFG n, 28, 1⟩
abbrev SUP_CIN_CFG.deb (n : Nat) : Fld := ⟨SUP_CIN_CFG n, 0, 8⟩
/-- Register SUP_CIN_STAT (spec/10_analog_and_field_io.md). -/
abbrev SUP_CIN_STAT (n : Nat) : Nat := 0x40410104 + n * 0x8
abbrev SUP_CIN_STAT.state (n : Nat) : Fld := ⟨SUP_CIN_STAT n, 30, 2⟩
abbrev SUP_CIN_STAT.raw (n : Nat) : Fld := ⟨SUP_CIN_STAT n, 28, 2⟩
abbrev SUP_CIN_STAT.foreign (n : Nat) : Fld := ⟨SUP_CIN_STAT n, 27, 1⟩
abbrev SUP_CIN_STAT.ohms (n : Nat) : Fld := ⟨SUP_CIN_STAT n, 0, 16⟩
/-- Register SUP_DRV_CFG (spec/10_analog_and_field_io.md). -/
abbrev SUP_DRV_CFG (n : Nat) : Nat := 0x40410200 + n * 0x8
abbrev SUP_DRV_CFG.on (n : Nat) : Fld := ⟨SUP_DRV_CFG n, 31, 1⟩
abbrev SUP_DRV_CFG.trig_en (n : Nat) : Fld := ⟨SUP_DRV_CFG n, 30, 1⟩
abbrev SUP_DRV_CFG.trig (n : Nat) : Fld := ⟨SUP_DRV_CFG n, 24, 6⟩
abbrev SUP_DRV_CFG.offchk_en (n : Nat) : Fld := ⟨SUP_DRV_CFG n, 23, 1⟩
abbrev SUP_DRV_CFG.class (n : Nat) : Fld := ⟨SUP_DRV_CFG n, 20, 3⟩
abbrev SUP_DRV_CFG.brk (n : Nat) : Fld := ⟨SUP_DRV_CFG n, 8, 10⟩
abbrev SUP_DRV_CFG.deb (n : Nat) : Fld := ⟨SUP_DRV_CFG n, 0, 8⟩
/-- Register SUP_DRV_STAT (spec/10_analog_and_field_io.md). -/
abbrev SUP_DRV_STAT (n : Nat) : Nat := 0x40410204 + n * 0x8
abbrev SUP_DRV_STAT.state (n : Nat) : Fld := ⟨SUP_DRV_STAT n, 30, 2⟩
abbrev SUP_DRV_STAT.driven (n : Nat) : Fld := ⟨SUP_DRV_STAT n, 29, 1⟩
abbrev SUP_DRV_STAT.shed (n : Nat) : Fld := ⟨SUP_DRV_STAT n, 28, 1⟩
abbrev SUP_DRV_STAT.wire_break (n : Nat) : Fld := ⟨SUP_DRV_STAT n, 27, 1⟩
abbrev SUP_DRV_STAT.off_break (n : Nat) : Fld := ⟨SUP_DRV_STAT n, 26, 1⟩
abbrev SUP_DRV_STAT.current (n : Nat) : Fld := ⟨SUP_DRV_STAT n, 0, 10⟩
/-- Register SUP_DRV_TOTAL (spec/10_analog_and_field_io.md). -/
abbrev SUP_DRV_TOTAL : Nat := 0x40410280
abbrev SUP_DRV_TOTAL.ma : Fld := ⟨SUP_DRV_TOTAL, 0, 10⟩
/-- Register SUP_GPIO_FUNC0 (spec/10_analog_and_field_io.md). -/
abbrev SUP_GPIO_FUNC0 : Nat := 0x40410300
abbrev SUP_GPIO_FUNC0.func : Fld := ⟨SUP_GPIO_FUNC0, 0, 32⟩
/-- Register SUP_GPIO_FUNC1 (spec/10_analog_and_field_io.md). -/
abbrev SUP_GPIO_FUNC1 : Nat := 0x40410304
abbrev SUP_GPIO_FUNC1.func : Fld := ⟨SUP_GPIO_FUNC1, 0, 16⟩
/-- Register SUP_GPIO_OUT (spec/10_analog_and_field_io.md). -/
abbrev SUP_GPIO_OUT : Nat := 0x40410308
abbrev SUP_GPIO_OUT.out : Fld := ⟨SUP_GPIO_OUT, 0, 24⟩
/-- Register SUP_GPIO_IN (spec/10_analog_and_field_io.md). -/
abbrev SUP_GPIO_IN : Nat := 0x4041030C
abbrev SUP_GPIO_IN.in : Fld := ⟨SUP_GPIO_IN, 0, 24⟩
/-- Register SUP_LS_CFG (spec/10_analog_and_field_io.md). -/
abbrev SUP_LS_CFG (n : Nat) : Nat := 0x40410400 + n * 0x20
abbrev SUP_LS_CFG.en (n : Nat) : Fld := ⟨SUP_LS_CFG n, 31, 1⟩
abbrev SUP_LS_CFG.mode (n : Nat) : Fld := ⟨SUP_LS_CFG n, 30, 1⟩
abbrev SUP_LS_CFG.nf_en (n : Nat) : Fld := ⟨SUP_LS_CFG n, 29, 1⟩
abbrev SUP_LS_CFG.vch (n : Nat) : Fld := ⟨SUP_LS_CFG n, 23, 6⟩
abbrev SUP_LS_CFG.ich (n : Nat) : Fld := ⟨SUP_LS_CFG n, 17, 6⟩
abbrev SUP_LS_CFG.os (n : Nat) : Fld := ⟨SUP_LS_CFG n, 0, 10⟩
/-- Register SUP_LS_KZ (spec/10_analog_and_field_io.md). -/
abbrev SUP_LS_KZ (n : Nat) : Nat := 0x40410404 + n * 0x20
abbrev SUP_LS_KZ.kz (n : Nat) : Fld := ⟨SUP_LS_KZ n, 0, 32⟩
/-- Register SUP_LS_REF (spec/10_analog_and_field_io.md). -/
abbrev SUP_LS_REF (n : Nat) : Nat := 0x40410408 + n * 0x20
abbrev SUP_LS_REF.ref (n : Nat) : Fld := ⟨SUP_LS_REF n, 0, 32⟩
/-- Register SUP_LS_Z (spec/10_analog_and_field_io.md). -/
abbrev SUP_LS_Z (n : Nat) : Nat := 0x4041040C + n * 0x20
abbrev SUP_LS_Z.z (n : Nat) : Fld := ⟨SUP_LS_Z n, 0, 32⟩
/-- Register SUP_LS_DET (spec/10_analog_and_field_io.md). -/
abbrev SUP_LS_DET (n : Nat) : Nat := 0x40410410 + n * 0x20
abbrev SUP_LS_DET.det_s (n : Nat) : Fld := ⟨SUP_LS_DET n, 24, 7⟩
abbrev SUP_LS_DET.open_pct (n : Nat) : Fld := ⟨SUP_LS_DET n, 8, 8⟩
abbrev SUP_LS_DET.short_pct (n : Nat) : Fld := ⟨SUP_LS_DET n, 0, 8⟩
/-- Register SUP_LS_STAT (spec/10_analog_and_field_io.md). -/
abbrev SUP_LS_STAT (n : Nat) : Nat := 0x40410414 + n * 0x20
abbrev SUP_LS_STAT.state (n : Nat) : Fld := ⟨SUP_LS_STAT n, 30, 2⟩
abbrev SUP_LS_STAT.fault (n : Nat) : Fld := ⟨SUP_LS_STAT n, 28, 2⟩
abbrev SUP_LS_STAT.count (n : Nat) : Fld := ⟨SUP_LS_STAT n, 0, 7⟩
/-- Register SUP_LS_LEARN (spec/10_analog_and_field_io.md). -/
abbrev SUP_LS_LEARN (n : Nat) : Nat := 0x40410418 + n * 0x20
abbrev SUP_LS_LEARN.learn (n : Nat) : Fld := ⟨SUP_LS_LEARN n, 0, 1⟩
/-- Register SEC_STATUS (spec/19_boot_host_security.md). -/
abbrev SEC_STATUS : Nat := 0x40420000
abbrev SEC_STATUS.jtag_locked : Fld := ⟨SEC_STATUS, 31, 1⟩
abbrev SEC_STATUS.wp_on : Fld := ⟨SEC_STATUS, 30, 1⟩
abbrev SEC_STATUS.revoked : Fld := ⟨SEC_STATUS, 27, 3⟩
abbrev SEC_STATUS.empty : Fld := ⟨SEC_STATUS, 24, 3⟩
abbrev SEC_STATUS.fw_slot : Fld := ⟨SEC_STATUS, 23, 1⟩
abbrev SEC_STATUS.fw_fallback : Fld := ⟨SEC_STATUS, 22, 1⟩
abbrev SEC_STATUS.akey_set : Fld := ⟨SEC_STATUS, 21, 1⟩
abbrev SEC_STATUS.wp_lockout : Fld := ⟨SEC_STATUS, 4, 1⟩
abbrev SEC_STATUS.wp_fail : Fld := ⟨SEC_STATUS, 3, 1⟩
abbrev SEC_STATUS.replay : Fld := ⟨SEC_STATUS, 2, 1⟩
abbrev SEC_STATUS.auth_fail : Fld := ⟨SEC_STATUS, 1, 1⟩
abbrev SEC_STATUS.wr_refused : Fld := ⟨SEC_STATUS, 0, 1⟩
/-- Register SEC_MGMT_CFG (spec/19_boot_host_security.md). -/
abbrev SEC_MGMT_CFG : Nat := 0x40420004
abbrev SEC_MGMT_CFG.en : Fld := ⟨SEC_MGMT_CFG, 31, 1⟩
abbrev SEC_MGMT_CFG.ports : Fld := ⟨SEC_MGMT_CFG, 29, 2⟩
abbrev SEC_MGMT_CFG.port : Fld := ⟨SEC_MGMT_CFG, 0, 16⟩
/-- Register SEC_MGMT_EPOCH (spec/19_boot_host_security.md). -/
abbrev SEC_MGMT_EPOCH : Nat := 0x40420008
abbrev SEC_MGMT_EPOCH.epoch : Fld := ⟨SEC_MGMT_EPOCH, 0, 32⟩
/-- Register SEC_MGMT_CNT (spec/19_boot_host_security.md). -/
abbrev SEC_MGMT_CNT : Nat := 0x4042000C
abbrev SEC_MGMT_CNT.replay : Fld := ⟨SEC_MGMT_CNT, 16, 16⟩
abbrev SEC_MGMT_CNT.auth : Fld := ⟨SEC_MGMT_CNT, 0, 16⟩
/-- Register SEC_WP_CHAL (spec/19_boot_host_security.md). -/
abbrev SEC_WP_CHAL : Nat := 0x40420010
abbrev SEC_WP_CHAL.nonce : Fld := ⟨SEC_WP_CHAL, 0, 32⟩
/-- Register SEC_AKEY (spec/19_boot_host_security.md). -/
abbrev SEC_AKEY (n : Nat) : Nat := 0x40420020 + n * 0x4
abbrev SEC_AKEY.key (n : Nat) : Fld := ⟨SEC_AKEY n, 0, 32⟩
/-- Register SEC_AKEY_CTRL (spec/19_boot_host_security.md). -/
abbrev SEC_AKEY_CTRL : Nat := 0x40420040
abbrev SEC_AKEY_CTRL.commit : Fld := ⟨SEC_AKEY_CTRL, 0, 1⟩
/-- Register SEC_RECOV (spec/19_boot_host_security.md). -/
abbrev SEC_RECOV : Nat := 0x40420050
abbrev SEC_RECOV.state : Fld := ⟨SEC_RECOV, 30, 2⟩
abbrev SEC_RECOV.result : Fld := ⟨SEC_RECOV, 8, 8⟩
abbrev SEC_RECOV.go : Fld := ⟨SEC_RECOV, 2, 1⟩
abbrev SEC_RECOV.kind : Fld := ⟨SEC_RECOV, 1, 1⟩
abbrev SEC_RECOV.slot : Fld := ⟨SEC_RECOV, 0, 1⟩
/-- Register SEC_RECOV_LEN (spec/19_boot_host_security.md). -/
abbrev SEC_RECOV_LEN : Nat := 0x40420054
abbrev SEC_RECOV_LEN.bytes : Fld := ⟨SEC_RECOV_LEN, 0, 32⟩
/-- Register LOG_STATUS (spec/21_faults_and_recovery.md). -/
abbrev LOG_STATUS : Nat := 0x40430000
abbrev LOG_STATUS.flash_fail : Fld := ⟨LOG_STATUS, 1, 1⟩
abbrev LOG_STATUS.lost : Fld := ⟨LOG_STATUS, 0, 1⟩
/-- Register LOG_NEXT (spec/21_faults_and_recovery.md). -/
abbrev LOG_NEXT : Nat := 0x40430004
abbrev LOG_NEXT.seq : Fld := ⟨LOG_NEXT, 0, 32⟩
/-- Register LOG_OLDEST (spec/21_faults_and_recovery.md). -/
abbrev LOG_OLDEST : Nat := 0x40430008
abbrev LOG_OLDEST.seq : Fld := ⟨LOG_OLDEST, 0, 32⟩
/-- Register LOG_LOST (spec/21_faults_and_recovery.md). -/
abbrev LOG_LOST : Nat := 0x4043000C
abbrev LOG_LOST.count : Fld := ⟨LOG_LOST, 0, 32⟩
/-- Register LOG_STAGED (spec/21_faults_and_recovery.md). -/
abbrev LOG_STAGED : Nat := 0x40430010
abbrev LOG_STAGED.count : Fld := ⟨LOG_STAGED, 0, 13⟩
/-- Register FLASHC_STATUS (spec/23_register_index.md). -/
abbrev FLASHC_STATUS : Nat := 0x40440000
abbrev FLASHC_STATUS.op : Fld := ⟨FLASHC_STATUS, 30, 2⟩
abbrev FLASHC_STATUS.susp : Fld := ⟨FLASHC_STATUS, 29, 1⟩
abbrev FLASHC_STATUS.retired : Fld := ⟨FLASHC_STATUS, 2, 1⟩
abbrev FLASHC_STATUS.rewrite : Fld := ⟨FLASHC_STATUS, 1, 1⟩
abbrev FLASHC_STATUS.uncorr : Fld := ⟨FLASHC_STATUS, 0, 1⟩
/-- Register FLASHC_ECC (spec/23_register_index.md). -/
abbrev FLASHC_ECC : Nat := 0x40440004
abbrev FLASHC_ECC.uncorr : Fld := ⟨FLASHC_ECC, 16, 16⟩
abbrev FLASHC_ECC.rewrites : Fld := ⟨FLASHC_ECC, 0, 16⟩
/-- Register FLASHC_BLK (spec/23_register_index.md). -/
abbrev FLASHC_BLK : Nat := 0x40440008
abbrev FLASHC_BLK.free : Fld := ⟨FLASHC_BLK, 16, 16⟩
abbrev FLASHC_BLK.retired : Fld := ⟨FLASHC_BLK, 0, 16⟩
/-- Register FLASHC_SUSP (spec/23_register_index.md). -/
abbrev FLASHC_SUSP : Nat := 0x4044000C
abbrev FLASHC_SUSP.worst : Fld := ⟨FLASHC_SUSP, 16, 16⟩
abbrev FLASHC_SUSP.count : Fld := ⟨FLASHC_SUSP, 0, 16⟩
/-- Register FLASHC_STORE (spec/23_register_index.md). -/
abbrev FLASHC_STORE : Nat := 0x40440010
abbrev FLASHC_STORE.free : Fld := ⟨FLASHC_STORE, 0, 12⟩

/-- Register rows of the block at 0x40000000, part 0. -/
def regTab4000_0 : List RegDef := [
  ⟨"SYS_ID", 0x40000000, 1, 0x0, 1, 0x0, [⟨31, 0, .ro, 0x4C581024⟩]⟩,
  ⟨"SYS_STEP", 0x40000004, 1, 0x0, 1, 0x0, [⟨15, 8, .ro, 0x0⟩, ⟨7, 0, .ro, 0xB0⟩]⟩,
  ⟨"SYS_STATE", 0x40000008, 1, 0x0, 1, 0x0, [⟨15, 15, .ro, 0x0⟩, ⟨14, 14, .ro, 0x0⟩, ⟨13, 12, .ro, 0x0⟩, ⟨10, 8, .ro, 0x7⟩, ⟨6, 4, .ro, 0x0⟩, ⟨2, 0, .ro, 0x1⟩]⟩,
  ⟨"SYS_REMAP", 0x4000000C, 1, 0x0, 1, 0x0, [⟨0, 0, .w1s, 0x0⟩]⟩,
  ⟨"SYS_RST_CAUSE", 0x40000010, 1, 0x0, 1, 0x0, [⟨3, 0, .ro, 0x0⟩]⟩,
  ⟨"SYS_RESET", 0x40000014, 1, 0x0, 1, 0x0, [⟨31, 16, .wo, 0x0⟩, ⟨1, 1, .wo, 0x0⟩, ⟨0, 0, .wo, 0x0⟩]⟩,
  ⟨"SYS_WDOG", 0x40000018, 1, 0x0, 1, 0x0, [⟨31, 16, .ro, 0x0⟩, ⟨15, 0, .wo, 0x0⟩]⟩,
  ⟨"SYS_STATUS", 0x4000001C, 1, 0x0, 1, 0x0, [⟨2, 2, .w1c, 0x0⟩, ⟨1, 1, .w1c, 0x0⟩, ⟨0, 0, .w1c, 0x0⟩]⟩,
  ⟨"SYS_IRQ_STAT", 0x40000020, 1, 0x0, 1, 0x0, [⟨25, 0, .ro, 0x0⟩]⟩,
  ⟨"SYS_IRQ_EN", 0x40000024, 1, 0x0, 1, 0x0, [⟨25, 0, .rw, 0x3FFFFFF⟩]⟩,
  ⟨"SYS_SERIAL_LO", 0x40000028, 1, 0x0, 1, 0x0, [⟨31, 0, .ro, 0x0⟩]⟩,
  ⟨"SYS_SERIAL_HI", 0x4000002C, 1, 0x0, 1, 0x0, [⟨31, 0, .ro, 0x0⟩]⟩]

/-- Every register row of the block at 0x40000000. -/
def regTab4000 : List RegDef := regTab4000_0

/-- Register rows of the block at 0x40010000, part 0. -/
def regTab4001_0 : List RegDef := [
  ⟨"CLK_STATUS", 0x40010000, 1, 0x0, 1, 0x0, [⟨31, 31, .ro, 0x0⟩, ⟨30, 30, .ro, 0x0⟩, ⟨29, 29, .ro, 0x1⟩, ⟨11, 8, .ro, 0x0⟩, ⟨5, 5, .w1c, 0x0⟩, ⟨4, 4, .w1c, 0x0⟩, ⟨3, 3, .w1c, 0x0⟩, ⟨2, 2, .w1c, 0x0⟩, ⟨1, 1, .w1c, 0x0⟩, ⟨0, 0, .w1c, 0x0⟩]⟩,
  ⟨"CLK_FAILCNT", 0x40010004, 1, 0x0, 1, 0x0, [⟨31, 16, .ro, 0x0⟩, ⟨15, 0, .ro, 0x0⟩]⟩,
  ⟨"CLK_QUAL", 0x40010008, 1, 0x0, 1, 0x0, [⟨22, 16, .ro, 0x0⟩, ⟨6, 0, .ro, 0x0⟩]⟩,
  ⟨"CLK_GATE_REQ", 0x40010010, 1, 0x0, 1, 0x0, [⟨9, 0, .rwl, 0x0⟩]⟩,
  ⟨"CLK_GATE_STAT", 0x40010014, 1, 0x0, 1, 0x0, [⟨25, 16, .ro, 0x0⟩, ⟨9, 0, .ro, 0x0⟩]⟩,
  ⟨"CLK_AFTERGLOW", 0x40010018, 1, 0x0, 1, 0x0, [⟨12, 0, .ro, 0x0⟩]⟩]

/-- Every register row of the block at 0x40010000. -/
def regTab4001 : List RegDef := regTab4001_0

/-- Register rows of the block at 0x40020000, part 0. -/
def regTab4002_0 : List RegDef := [
  ⟨"REF_STATUS", 0x40020000, 1, 0x0, 1, 0x0, [⟨31, 29, .ro, 0x0⟩, ⟨28, 26, .ro, 0x0⟩, ⟨25, 24, .ro, 0x0⟩, ⟨23, 23, .ro, 0x0⟩, ⟨6, 6, .w1c, 0x0⟩, ⟨5, 5, .w1c, 0x0⟩, ⟨4, 4, .w1c, 0x0⟩, ⟨3, 3, .w1c, 0x0⟩, ⟨2, 2, .w1c, 0x0⟩, ⟨1, 1, .w1c, 0x0⟩, ⟨0, 0, .w1c, 0x0⟩]⟩,
  ⟨"REF_SEL", 0x40020004, 1, 0x0, 1, 0x0, [⟨2, 0, .rwl, 0x0⟩]⟩,
  ⟨"REF_CFG", 0x40020008, 1, 0x0, 1, 0x0, [⟨31, 31, .rwl, 0x1⟩, ⟨28, 24, .rwl, 0x5⟩, ⟨23, 16, .rwl, 0xA⟩, ⟨7, 0, .rwl, 0x5⟩]⟩,
  ⟨"REF_LOOP", 0x4002000C, 1, 0x0, 1, 0x0, [⟨6, 4, .rwl, 0x4⟩, ⟨2, 0, .rwl, 0x2⟩]⟩,
  ⟨"REF_TOL", 0x40020010, 1, 0x0, 1, 0x0, [⟨23, 16, .rwl, 0x32⟩, ⟨7, 0, .rwl, 0xA⟩]⟩,
  ⟨"REF_RANK", 0x40020014, 1, 0x0, 1, 0x0, [⟨13, 2, .rwl, 0x0⟩]⟩,
  ⟨"REF_XCHK", 0x40020018, 1, 0x0, 1, 0x0, [⟨31, 31, .ro, 0x0⟩, ⟨30, 30, .ro, 0x0⟩, ⟨29, 27, .ro, 0x0⟩, ⟨26, 24, .ro, 0x0⟩, ⟨23, 21, .ro, 0x0⟩, ⟨7, 0, .rwl, 0x5⟩]⟩,
  ⟨"REF_PHASE", 0x40020020, 1, 0x0, 1, 0x0, [⟨31, 0, .ro, 0x0⟩]⟩,
  ⟨"REF_ABS", 0x40020024, 1, 0x0, 1, 0x0, [⟨31, 0, .ro, 0x0⟩]⟩,
  ⟨"REF_FREQ", 0x40020028, 1, 0x0, 1, 0x0, [⟨31, 0, .ro, 0x0⟩]⟩,
  ⟨"REF_HOLD", 0x4002002C, 1, 0x0, 1, 0x0, [⟨31, 0, .ro, 0x0⟩]⟩,
  ⟨"REF_WCLK_OFS", 0x40020030, 1, 0x0, 1, 0x0, [⟨31, 0, .rwl, 0x0⟩]⟩]

/-- Register rows of the block at 0x40020000, part 1. -/
def regTab4002_1 : List RegDef := [
  ⟨"REF_PPS_OFS", 0x40020034, 1, 0x0, 1, 0x0, [⟨31, 0, .rwl, 0x0⟩]⟩,
  ⟨"REF_FRM_OFS", 0x40020038, 1, 0x0, 1, 0x0, [⟨31, 0, .rwl, 0x0⟩]⟩,
  ⟨"REF_MON", 0x40020044, 6, 0x4, 1, 0x0, [⟨31, 31, .rwl, 0x1⟩, ⟨30, 28, .ro, 0x0⟩, ⟨27, 24, .ro, 0x0⟩, ⟨23, 0, .ro, 0x0⟩]⟩]

/-- Every register row of the block at 0x40020000. -/
def regTab4002 : List RegDef := regTab4002_0 ++ regTab4002_1

/-- Register rows of the block at 0x40030000, part 0. -/
def regTab4003_0 : List RegDef := [
  ⟨"PWR_STATUS", 0x40030000, 1, 0x0, 1, 0x0, [⟨31, 30, .ro, 0x0⟩, ⟨29, 26, .ro, 0x0⟩, ⟨25, 22, .ro, 0x0⟩, ⟨6, 6, .w1c, 0x0⟩, ⟨5, 5, .w1c, 0x0⟩, ⟨4, 4, .w1c, 0x0⟩, ⟨3, 3, .w1c, 0x0⟩, ⟨2, 2, .w1c, 0x0⟩, ⟨1, 1, .w1c, 0x0⟩, ⟨0, 0, .w1c, 0x0⟩]⟩,
  ⟨"PWR_CFG", 0x40030004, 1, 0x0, 1, 0x0, [⟨31, 24, .rwl, 0x7D⟩, ⟨23, 16, .rwl, 0x82⟩, ⟨8, 0, .rwl, 0xC3⟩]⟩,
  ⟨"PWR_BUDGET", 0x40030008, 1, 0x0, 1, 0x0, [⟨15, 0, .rwl, 0x0⟩]⟩,
  ⟨"PWR_MEAS0", 0x40030010, 1, 0x0, 1, 0x0, [⟨31, 16, .ro, 0x0⟩, ⟨15, 0, .ro, 0x0⟩]⟩,
  ⟨"PWR_MEAS1", 0x40030014, 1, 0x0, 1, 0x0, [⟨31, 16, .ro, 0x0⟩, ⟨15, 0, .ro, 0x0⟩]⟩,
  ⟨"PWR_TJ_MAX", 0x40030018, 1, 0x0, 1, 0x0, [⟨15, 0, .ro, 0x0⟩]⟩,
  ⟨"PWR_SQUALL", 0x4003001C, 1, 0x0, 1, 0x0, [⟨31, 16, .ro, 0x0⟩, ⟨15, 0, .ro, 0x0⟩]⟩,
  ⟨"PWR_VAUX", 0x40030020, 1, 0x0, 1, 0x0, [⟨16, 16, .ro, 0x0⟩, ⟨15, 0, .ro, 0x0⟩]⟩]

/-- Every register row of the block at 0x40030000. -/
def regTab4003 : List RegDef := regTab4003_0

/-- Register rows of the block at 0x40040000, part 0. -/
def regTab4004_0 : List RegDef := [
  ⟨"MEM_STATUS", 0x40040000, 1, 0x0, 1, 0x0, [⟨20, 16, .ro, 0x0⟩, ⟨5, 5, .w1c, 0x0⟩, ⟨4, 4, .w1c, 0x0⟩, ⟨3, 3, .w1c, 0x0⟩, ⟨2, 2, .w1c, 0x0⟩, ⟨1, 1, .w1c, 0x0⟩, ⟨0, 0, .w1c, 0x0⟩]⟩,
  ⟨"MEM_SP_ECC", 0x40040010, 4, 0x4, 1, 0x0, [⟨31, 16, .ro, 0x0⟩, ⟨15, 0, .ro, 0x0⟩]⟩,
  ⟨"MEM_SRAM_ECC", 0x40040020, 1, 0x0, 1, 0x0, [⟨31, 16, .ro, 0x0⟩, ⟨15, 0, .ro, 0x0⟩]⟩,
  ⟨"MEM_ECC_LAST", 0x40040024, 1, 0x0, 1, 0x0, [⟨31, 31, .ro, 0x0⟩, ⟨2, 0, .ro, 0x0⟩]⟩,
  ⟨"MEM_ECC_ADDR", 0x40040028, 1, 0x0, 1, 0x0, [⟨31, 0, .ro, 0x0⟩]⟩,
  ⟨"MEM_CONF", 0x40040030, 4, 0x4, 1, 0x0, [⟨31, 16, .ro, 0x0⟩, ⟨15, 0, .ro, 0x0⟩]⟩,
  ⟨"MEM_WISP_CFG", 0x40040040, 1, 0x0, 1, 0x0, [⟨5, 0, .rw, 0x3F⟩]⟩,
  ⟨"MEM_WISP_POS", 0x40040044, 6, 0x4, 1, 0x0, [⟨31, 16, .ro, 0x0⟩, ⟨12, 0, .ro, 0x0⟩]⟩,
  ⟨"MEM_WISP_FAIL", 0x40040060, 1, 0x0, 1, 0x0, [⟨31, 31, .ro, 0x0⟩, ⟨18, 16, .ro, 0x0⟩, ⟨12, 0, .ro, 0x0⟩]⟩,
  ⟨"MEM_DUSK", 0x40040070, 1, 0x0, 1, 0x0, [⟨4, 0, .rwl, 0x0⟩]⟩,
  ⟨"MEM_DRAM_ECC", 0x40040080, 1, 0x0, 1, 0x0, [⟨31, 16, .ro, 0x0⟩, ⟨15, 0, .ro, 0x0⟩]⟩,
  ⟨"MEM_DRAM_RT", 0x40040084, 1, 0x0, 1, 0x0, [⟨7, 0, .ro, 0x0⟩]⟩]

/-- Register rows of the block at 0x40040000, part 1. -/
def regTab4004_1 : List RegDef := [
  ⟨"MEM_DLQ_DROP", 0x40040088, 1, 0x0, 1, 0x0, [⟨31, 0, .ro, 0x0⟩]⟩,
  ⟨"MEM_SCRUB", 0x4004008C, 1, 0x0, 1, 0x0, [⟨31, 0, .ro, 0x0⟩]⟩,
  ⟨"MEM_CNT_CLR", 0x40040090, 1, 0x0, 1, 0x0, [⟨3, 3, .wo, 0x0⟩, ⟨2, 2, .wo, 0x0⟩, ⟨1, 1, .wo, 0x0⟩, ⟨0, 0, .wo, 0x0⟩]⟩]

/-- Every register row of the block at 0x40040000. -/
def regTab4004 : List RegDef := regTab4004_0 ++ regTab4004_1

/-- Register rows of the block at 0x40050000, part 0. -/
def regTab4005_0 : List RegDef := [
  ⟨"BUS_STATUS", 0x40050000, 1, 0x0, 1, 0x0, [⟨5, 5, .w1c, 0x0⟩, ⟨4, 4, .w1c, 0x0⟩, ⟨3, 3, .w1c, 0x0⟩, ⟨2, 2, .w1c, 0x0⟩, ⟨1, 1, .w1c, 0x0⟩, ⟨0, 0, .w1c, 0x0⟩]⟩,
  ⟨"BUS_ERR_LAST", 0x40050004, 1, 0x0, 1, 0x0, [⟨31, 31, .ro, 0x0⟩, ⟨30, 30, .ro, 0x0⟩, ⟨29, 28, .ro, 0x0⟩, ⟨23, 20, .ro, 0x0⟩, ⟨19, 16, .ro, 0x0⟩]⟩,
  ⟨"BUS_ERR_ADDR", 0x40050008, 1, 0x0, 1, 0x0, [⟨31, 0, .ro, 0x0⟩]⟩,
  ⟨"BUS_ERRCNT", 0x4005000C, 1, 0x0, 1, 0x0, [⟨31, 16, .ro, 0x0⟩, ⟨15, 0, .ro, 0x0⟩]⟩,
  ⟨"BUS_EVCNT", 0x40050010, 1, 0x0, 1, 0x0, [⟨31, 16, .ro, 0x0⟩, ⟨15, 0, .ro, 0x0⟩]⟩,
  ⟨"BUS_LKCNT", 0x40050014, 1, 0x0, 1, 0x0, [⟨31, 16, .ro, 0x0⟩, ⟨15, 0, .ro, 0x0⟩]⟩,
  ⟨"BUS_CNT_CLR", 0x40050020, 1, 0x0, 1, 0x0, [⟨2, 2, .wo, 0x0⟩, ⟨1, 1, .wo, 0x0⟩, ⟨0, 0, .wo, 0x0⟩]⟩,
  ⟨"BUS_WAIT", 0x40050040, 10, 0x4, 1, 0x0, [⟨31, 16, .ro, 0x0⟩, ⟨15, 0, .ro, 0x0⟩]⟩]

/-- Every register row of the block at 0x40050000. -/
def regTab4005 : List RegDef := regTab4005_0

/-- Register rows of the block at 0x40060000, part 0. -/
def regTab4006_0 : List RegDef := [
  ⟨"CMD_STATUS", 0x40060000, 1, 0x0, 1, 0x0, [⟨4, 4, .w1c, 0x0⟩, ⟨3, 3, .w1c, 0x0⟩, ⟨2, 2, .w1c, 0x0⟩, ⟨1, 1, .w1c, 0x0⟩]⟩,
  ⟨"CMD_EPOCH", 0x40060004, 1, 0x0, 1, 0x0, [⟨15, 0, .ro, 0x0⟩]⟩,
  ⟨"CMD_PEND", 0x40060008, 1, 0x0, 1, 0x0, [⟨26, 16, .ro, 0x400⟩, ⟨10, 0, .ro, 0x0⟩]⟩,
  ⟨"CMD_IRQ", 0x4006000C, 1, 0x0, 1, 0x0, [⟨15, 0, .ro, 0x0⟩]⟩,
  ⟨"CMD_VIOL", 0x40060010, 1, 0x0, 1, 0x0, [⟨31, 31, .ro, 0x0⟩, ⟨27, 24, .ro, 0x0⟩, ⟨19, 16, .ro, 0x0⟩, ⟨15, 0, .ro, 0x0⟩]⟩,
  ⟨"CMD_RING_CFG", 0x40060100, 16, 0x20, 1, 0x0, [⟨31, 31, .rwl, 0x1⟩, ⟨2, 0, .rwl, 0x0⟩]⟩,
  ⟨"CMD_RING_CBASE", 0x40060104, 16, 0x20, 1, 0x0, [⟨31, 0, .rwl, 0x0⟩]⟩,
  ⟨"CMD_RING_PBASE", 0x40060108, 16, 0x20, 1, 0x0, [⟨31, 0, .rwl, 0x0⟩]⟩,
  ⟨"CMD_RING_CTRL", 0x4006010C, 16, 0x20, 1, 0x0, [⟨1, 1, .wo, 0x0⟩, ⟨0, 0, .wo, 0x0⟩]⟩,
  ⟨"CMD_RING_DB", 0x40060110, 16, 0x20, 1, 0x0, [⟨15, 0, .rw, 0x0⟩]⟩,
  ⟨"CMD_RING_CI", 0x40060114, 16, 0x20, 1, 0x0, [⟨31, 16, .ro, 0x0⟩, ⟨15, 0, .ro, 0x0⟩]⟩,
  ⟨"CMD_RING_CDB", 0x40060118, 16, 0x20, 1, 0x0, [⟨15, 0, .rw, 0x0⟩]⟩]

/-- Register rows of the block at 0x40060000, part 1. -/
def regTab4006_1 : List RegDef := [
  ⟨"CMD_RING_STAT", 0x4006011C, 16, 0x20, 1, 0x0, [⟨31, 30, .ro, 0x0⟩, ⟨24, 16, .ro, 0x0⟩, ⟨8, 8, .ro, 0x0⟩, ⟨2, 2, .w1c, 0x0⟩, ⟨1, 1, .w1c, 0x0⟩, ⟨0, 0, .w1c, 0x0⟩]⟩]

/-- Every register row of the block at 0x40060000. -/
def regTab4006 : List RegDef := regTab4006_0 ++ regTab4006_1

/-- Register rows of the block at 0x40070000, part 0. -/
def regTab4007_0 : List RegDef := [
  ⟨"PAIR_STATUS", 0x40070000, 1, 0x0, 1, 0x0, [⟨31, 28, .ro, 0x1⟩, ⟨27, 27, .ro, 0x0⟩, ⟨26, 26, .ro, 0x0⟩, ⟨7, 7, .w1c, 0x0⟩, ⟨6, 6, .w1c, 0x0⟩, ⟨5, 5, .w1c, 0x0⟩, ⟨4, 4, .w1c, 0x0⟩, ⟨3, 3, .w1c, 0x0⟩, ⟨2, 2, .w1c, 0x0⟩, ⟨1, 1, .w1c, 0x0⟩, ⟨0, 0, .w1c, 0x0⟩]⟩,
  ⟨"PAIR_CLAIM", 0x40070004, 1, 0x0, 1, 0x0, [⟨31, 16, .ro, 0x0⟩, ⟨15, 0, .ro, 0x0⟩]⟩,
  ⟨"PAIR_CFG", 0x40070008, 1, 0x0, 1, 0x0, [⟨31, 31, .rwl, 0x1⟩, ⟨30, 30, .rwl, 0x1⟩, ⟨15, 0, .rwl, 0xA⟩]⟩,
  ⟨"PAIR_HOME", 0x4007000C, 1, 0x0, 1, 0x0, [⟨0, 0, .rwl, 0x0⟩]⟩,
  ⟨"PAIR_WEDGE", 0x40070010, 1, 0x0, 1, 0x0, [⟨15, 0, .rwl, 0x1E⟩]⟩,
  ⟨"PAIR_SHARED", 0x40070014, 1, 0x0, 1, 0x0, [⟨23, 0, .rwl, 0x0⟩]⟩,
  ⟨"PAIR_MATCH", 0x40070018, 1, 0x0, 1, 0x0, [⟨31, 0, .ro, 0x0⟩]⟩,
  ⟨"PAIR_MISMATCH", 0x4007001C, 1, 0x0, 1, 0x0, [⟨31, 16, .ro, 0x0⟩, ⟨15, 12, .ro, 0x0⟩, ⟨11, 8, .ro, 0x0⟩]⟩,
  ⟨"PAIR_MISCYC", 0x40070020, 1, 0x0, 1, 0x0, [⟨31, 0, .ro, 0x0⟩]⟩,
  ⟨"PAIR_LINK", 0x40070024, 1, 0x0, 1, 0x0, [⟨31, 30, .ro, 0x0⟩, ⟨27, 24, .ro, 0x0⟩, ⟨15, 0, .ro, 0x0⟩]⟩,
  ⟨"PAIR_LINKCNT", 0x40070028, 1, 0x0, 1, 0x0, [⟨31, 16, .ro, 0x0⟩, ⟨15, 0, .ro, 0x0⟩]⟩,
  ⟨"PAIR_ATTACH", 0x4007002C, 1, 0x0, 1, 0x0, [⟨31, 28, .ro, 0x0⟩, ⟨27, 24, .ro, 0x0⟩, ⟨7, 0, .ro, 0x0⟩]⟩]

/-- Register rows of the block at 0x40070000, part 1. -/
def regTab4007_1 : List RegDef := [
  ⟨"PAIR_MIRROR", 0x40070030, 1, 0x0, 1, 0x0, [⟨10, 0, .ro, 0x0⟩]⟩]

/-- Every register row of the block at 0x40070000. -/
def regTab4007 : List RegDef := regTab4007_0 ++ regTab4007_1

/-- Register rows of the block at 0x40080000, part 0. -/
def regTab4008_0 : List RegDef := [
  ⟨"PTP_CFG", 0x40080000, 1, 0x0, 1, 0x0, [⟨31, 31, .rwl, 0x1⟩, ⟨30, 29, .rwl, 0x0⟩, ⟨28, 28, .rwl, 0x0⟩, ⟨27, 27, .rwl, 0x1⟩, ⟨26, 25, .rwl, 0x3⟩, ⟨24, 24, .rwl, 0x0⟩, ⟨23, 16, .rwl, 0xA⟩, ⟨6, 0, .rwl, 0x0⟩]⟩,
  ⟨"PTP_STATUS", 0x40080004, 1, 0x0, 1, 0x0, [⟨31, 29, .ro, 0x0⟩, ⟨28, 25, .ro, 0x0⟩, ⟨24, 21, .ro, 0x0⟩, ⟨20, 20, .ro, 0x0⟩, ⟨4, 4, .w1c, 0x0⟩, ⟨3, 3, .w1c, 0x0⟩, ⟨2, 2, .w1c, 0x0⟩, ⟨1, 1, .w1c, 0x0⟩, ⟨0, 0, .w1c, 0x0⟩]⟩,
  ⟨"PTP_PRIO", 0x40080008, 1, 0x0, 1, 0x0, [⟨15, 8, .rwl, 0x80⟩, ⟨7, 0, .rwl, 0x80⟩]⟩,
  ⟨"PTP_INTV", 0x4008000C, 1, 0x0, 1, 0x0, [⟨23, 16, .rwl, 0xFD⟩, ⟨15, 8, .rwl, 0x1⟩, ⟨7, 0, .rwl, 0x0⟩]⟩,
  ⟨"PTP_DTIME_LO", 0x40080010, 1, 0x0, 1, 0x0, [⟨31, 0, .ro, 0x0⟩]⟩,
  ⟨"PTP_DTIME_HI", 0x40080014, 1, 0x0, 1, 0x0, [⟨31, 0, .ro, 0x0⟩]⟩,
  ⟨"PTP_OFFSET", 0x40080018, 1, 0x0, 1, 0x0, [⟨31, 0, .ro, 0x0⟩]⟩,
  ⟨"PTP_MPD", 0x4008001C, 1, 0x0, 1, 0x0, [⟨31, 0, .ro, 0x0⟩]⟩,
  ⟨"PTP_RATE", 0x40080020, 1, 0x0, 1, 0x0, [⟨31, 0, .ro, 0x0⟩]⟩,
  ⟨"PTP_THR", 0x40080024, 1, 0x0, 1, 0x0, [⟨19, 0, .rwl, 0x3E8⟩]⟩,
  ⟨"PTP_SERVO", 0x40080028, 1, 0x0, 1, 0x0, [⟨1, 0, .rwl, 0x1⟩]⟩,
  ⟨"PTP_GM_HI", 0x40080030, 1, 0x0, 1, 0x0, [⟨31, 0, .ro, 0x0⟩]⟩]

/-- Register rows of the block at 0x40080000, part 1. -/
def regTab4008_1 : List RegDef := [
  ⟨"PTP_GM_LO", 0x40080034, 1, 0x0, 1, 0x0, [⟨31, 0, .ro, 0x0⟩]⟩,
  ⟨"PTP_UTC", 0x40080038, 1, 0x0, 1, 0x0, [⟨15, 0, .ro, 0x0⟩]⟩,
  ⟨"PTP_XCHK", 0x4008003C, 1, 0x0, 1, 0x0, [⟨31, 0, .ro, 0x0⟩]⟩,
  ⟨"PTP_PHY", 0x40080040, 2, 0x8, 1, 0x0, [⟨31, 16, .ro, 0x138⟩, ⟨15, 0, .ro, 0xB8⟩]⟩,
  ⟨"PTP_ASYM", 0x40080044, 2, 0x8, 1, 0x0, [⟨31, 0, .rwl, 0x0⟩]⟩,
  ⟨"PTP_DIVOFS", 0x40080050, 1, 0x0, 1, 0x0, [⟨31, 0, .ro, 0x0⟩]⟩,
  ⟨"PTP_DIVCNT", 0x40080054, 1, 0x0, 1, 0x0, [⟨15, 0, .ro, 0x0⟩]⟩,
  ⟨"PTP_STEP_LO", 0x40080058, 1, 0x0, 1, 0x0, [⟨31, 0, .ro, 0x0⟩]⟩,
  ⟨"PTP_STEP_HI", 0x4008005C, 1, 0x0, 1, 0x0, [⟨31, 0, .ro, 0x0⟩]⟩,
  ⟨"PTP_CNT", 0x40080060, 1, 0x0, 1, 0x0, [⟨31, 16, .ro, 0x0⟩, ⟨15, 0, .ro, 0x0⟩]⟩]

/-- Every register row of the block at 0x40080000. -/
def regTab4008 : List RegDef := regTab4008_0 ++ regTab4008_1

/-- Register rows of the block at 0x40090000, part 0. -/
def regTab4009_0 : List RegDef := [
  ⟨"NET_CFG", 0x40090000, 2, 0x10000, 1, 0x0, [⟨31, 31, .rwl, 0x1⟩, ⟨30, 29, .rwl, 0x0⟩, ⟨28, 28, .rwl, 0x0⟩, ⟨27, 25, .rwl, 0x5⟩, ⟨23, 18, .rwl, 0x22⟩, ⟨11, 0, .rwl, 0x0⟩]⟩,
  ⟨"NET_STATUS", 0x40090004, 2, 0x10000, 1, 0x0, [⟨31, 30, .ro, 0x0⟩, ⟨3, 3, .w1c, 0x0⟩, ⟨2, 2, .w1c, 0x0⟩, ⟨1, 1, .w1c, 0x0⟩, ⟨0, 0, .w1c, 0x0⟩]⟩,
  ⟨"NET_MAC_HI", 0x40090008, 2, 0x10000, 1, 0x0, [⟨15, 0, .ro, 0x0⟩]⟩,
  ⟨"NET_MAC_LO", 0x4009000C, 2, 0x10000, 1, 0x0, [⟨31, 0, .ro, 0x0⟩]⟩,
  ⟨"NET_IP", 0x40090010, 2, 0x10000, 1, 0x0, [⟨31, 0, .rwl, 0x0⟩]⟩,
  ⟨"NET_MASK", 0x40090014, 2, 0x10000, 1, 0x0, [⟨31, 0, .rwl, 0x0⟩]⟩,
  ⟨"NET_GW", 0x40090018, 2, 0x10000, 1, 0x0, [⟨31, 0, .rwl, 0x0⟩]⟩,
  ⟨"NET_PAIR_IP", 0x4009001C, 2, 0x10000, 1, 0x0, [⟨31, 0, .rwl, 0x0⟩]⟩,
  ⟨"NET_TTL", 0x40090020, 2, 0x10000, 1, 0x0, [⟨7, 0, .rwl, 0x20⟩]⟩,
  ⟨"NET_ADMIT", 0x40090024, 2, 0x10000, 1, 0x0, [⟨19, 0, .ro, 0x0⟩]⟩,
  ⟨"NET_CNT_FCS", 0x40090040, 2, 0x10000, 1, 0x0, [⟨31, 0, .ro, 0x0⟩]⟩,
  ⟨"NET_CNT_OVF", 0x40090044, 2, 0x10000, 1, 0x0, [⟨31, 0, .ro, 0x0⟩]⟩]

/-- Every register row of the block at 0x40090000. -/
def regTab4009 : List RegDef := regTab4009_0

/-- Register rows of the block at 0x400B0000, part 0. -/
def regTab400B_0 : List RegDef := [
  ⟨"STRM_STATUS", 0x400B0000, 1, 0x0, 1, 0x0, [⟨5, 5, .w1c, 0x0⟩, ⟨4, 4, .w1c, 0x0⟩, ⟨3, 3, .w1c, 0x0⟩, ⟨2, 2, .w1c, 0x0⟩, ⟨1, 1, .w1c, 0x0⟩, ⟨0, 0, .w1c, 0x0⟩]⟩,
  ⟨"STRM_FREE", 0x400B0004, 1, 0x0, 1, 0x0, [⟨25, 16, .ro, 0x200⟩, ⟨9, 0, .ro, 0x200⟩]⟩,
  ⟨"STRM_TAG", 0x400B0008, 1, 0x0, 1, 0x0, [⟨3, 0, .rwl, 0x1⟩]⟩,
  ⟨"STRM_TX_CFG", 0x400B1000, 128, 0x20, 1, 0x0, [⟨31, 30, .ro, 0x0⟩, ⟨29, 29, .ro, 0x0⟩, ⟨28, 28, .ro, 0x0⟩, ⟨27, 26, .ro, 0x0⟩, ⟨25, 25, .ro, 0x0⟩, ⟨24, 24, .ro, 0x0⟩, ⟨23, 23, .ro, 0x0⟩, ⟨22, 20, .ro, 0x0⟩, ⟨19, 17, .ro, 0x0⟩, ⟨16, 16, .ro, 0x0⟩, ⟨15, 10, .ro, 0x0⟩, ⟨9, 9, .ro, 0x0⟩, ⟨8, 0, .ro, 0x0⟩]⟩,
  ⟨"STRM_TX_DST", 0x400B1004, 128, 0x20, 1, 0x0, [⟨31, 0, .ro, 0x0⟩]⟩,
  ⟨"STRM_TX_PORT", 0x400B1008, 128, 0x20, 1, 0x0, [⟨31, 16, .ro, 0x0⟩, ⟨15, 0, .ro, 0x0⟩]⟩,
  ⟨"STRM_TX_SSRC", 0x400B100C, 128, 0x20, 1, 0x0, [⟨31, 0, .ro, 0x0⟩]⟩,
  ⟨"STRM_TX_SEQ", 0x400B1010, 128, 0x20, 1, 0x0, [⟨22, 16, .ro, 0x0⟩, ⟨15, 0, .ro, 0x0⟩]⟩,
  ⟨"STRM_TX_MOFS", 0x400B1014, 128, 0x20, 1, 0x0, [⟨31, 0, .ro, 0x0⟩]⟩,
  ⟨"STRM_TX_ID", 0x400B1018, 128, 0x20, 1, 0x0, [⟨15, 0, .ro, 0x0⟩]⟩,
  ⟨"STRM_RX_CFG", 0x400B2000, 128, 0x20, 1, 0x0, [⟨31, 30, .ro, 0x0⟩, ⟨29, 29, .ro, 0x0⟩, ⟨28, 28, .ro, 0x0⟩, ⟨27, 26, .ro, 0x0⟩, ⟨25, 25, .ro, 0x0⟩, ⟨24, 24, .ro, 0x0⟩, ⟨23, 23, .ro, 0x0⟩, ⟨22, 20, .ro, 0x0⟩, ⟨19, 17, .ro, 0x0⟩, ⟨16, 16, .ro, 0x0⟩, ⟨15, 10, .ro, 0x0⟩, ⟨9, 9, .ro, 0x0⟩, ⟨8, 0, .ro, 0x0⟩]⟩,
  ⟨"STRM_RX_OFS", 0x400B2004, 128, 0x20, 1, 0x0, [⟨22, 16, .ro, 0x0⟩, ⟨10, 0, .ro, 0x0⟩]⟩]

/-- Register rows of the block at 0x400B0000, part 1. -/
def regTab400B_1 : List RegDef := [
  ⟨"STRM_RX_MOFS", 0x400B2008, 128, 0x20, 1, 0x0, [⟨31, 0, .ro, 0x0⟩]⟩,
  ⟨"STRM_RX_STAT", 0x400B200C, 128, 0x20, 1, 0x0, [⟨26, 16, .ro, 0x0⟩, ⟨15, 15, .ro, 0x0⟩, ⟨3, 0, .ro, 0x0⟩]⟩,
  ⟨"STRM_RX_CNT0", 0x400B2010, 128, 0x20, 1, 0x0, [⟨31, 16, .ro, 0x0⟩, ⟨15, 0, .ro, 0x0⟩]⟩,
  ⟨"STRM_RX_CNT1", 0x400B2014, 128, 0x20, 1, 0x0, [⟨31, 16, .ro, 0x0⟩, ⟨15, 0, .ro, 0x0⟩]⟩,
  ⟨"STRM_RX_CNT2", 0x400B2018, 128, 0x20, 1, 0x0, [⟨31, 16, .ro, 0x0⟩, ⟨15, 0, .ro, 0x0⟩]⟩,
  ⟨"STRM_RX_ID", 0x400B201C, 128, 0x20, 1, 0x0, [⟨15, 0, .ro, 0x0⟩]⟩,
  ⟨"STRM_LEG_GRP", 0x400B3000, 512, 0x10, 1, 0x0, [⟨31, 0, .ro, 0x0⟩]⟩,
  ⟨"STRM_LEG_SRC", 0x400B3004, 512, 0x10, 1, 0x0, [⟨31, 0, .ro, 0x0⟩]⟩,
  ⟨"STRM_LEG_CFG", 0x400B3008, 512, 0x10, 1, 0x0, [⟨31, 31, .ro, 0x0⟩, ⟨30, 30, .ro, 0x0⟩, ⟨29, 29, .ro, 0x0⟩, ⟨15, 0, .ro, 0x0⟩]⟩,
  ⟨"STRM_LEG_STAT", 0x400B300C, 512, 0x10, 1, 0x0, [⟨31, 16, .ro, 0x0⟩, ⟨15, 0, .ro, 0x0⟩]⟩]

/-- Every register row of the block at 0x400B0000. -/
def regTab400B : List RegDef := regTab400B_0 ++ regTab400B_1

/-- Register rows of the block at 0x40100000, part 0. -/
def regTab4010_0 : List RegDef := [
  ⟨"SP_CFG", 0x40100000, 16, 0x400, 1, 0x0, [⟨31, 31, .rwl, 0x0⟩, ⟨30, 30, .rwl, 0x1⟩, ⟨29, 29, .rwl, 0x0⟩, ⟨28, 28, .rwl, 0x0⟩, ⟨27, 26, .rwl, 0x0⟩, ⟨25, 25, .rwl, 0x0⟩, ⟨24, 24, .rwl, 0x0⟩, ⟨23, 23, .rwl, 0x0⟩, ⟨22, 22, .rwl, 0x0⟩, ⟨21, 20, .rwl, 0x2⟩, ⟨19, 19, .rwl, 0x0⟩, ⟨18, 18, .rwl, 0x0⟩, ⟨17, 16, .rwl, 0x0⟩, ⟨15, 15, .rwl, 0x1⟩, ⟨14, 14, .rwl, 0x1⟩]⟩,
  ⟨"SP_FRAME", 0x40100004, 16, 0x400, 1, 0x0, [⟨20, 16, .rwl, 0x1⟩, ⟨10, 0, .rwl, 0x40⟩]⟩,
  ⟨"SP_DIVN", 0x40100008, 16, 0x400, 1, 0x0, [⟨11, 0, .rwl, 0x40⟩]⟩,
  ⟨"SP_DIVF", 0x4010000C, 16, 0x400, 1, 0x0, [⟨23, 0, .rwl, 0x0⟩]⟩,
  ⟨"SP_TIMING", 0x40100010, 16, 0x400, 1, 0x0, [⟨31, 24, .rwl, 0x10⟩, ⟨23, 16, .rwl, 0x10⟩, ⟨5, 0, .rwl, 0x9⟩]⟩,
  ⟨"SP_TXMASK", 0x40100014, 16, 0x400, 1, 0x0, [⟨31, 0, .rwl, 0x3⟩]⟩,
  ⟨"SP_RXMASK", 0x40100018, 16, 0x400, 1, 0x0, [⟨31, 0, .rwl, 0x3⟩]⟩,
  ⟨"SP_MASK_COMMIT", 0x4010001C, 16, 0x400, 1, 0x0, [⟨0, 0, .wo, 0x0⟩]⟩,
  ⟨"SP_TXMASK_ACT", 0x40100020, 16, 0x400, 1, 0x0, [⟨31, 0, .ro, 0x3⟩]⟩,
  ⟨"SP_RXMASK_ACT", 0x40100024, 16, 0x400, 1, 0x0, [⟨31, 0, .ro, 0x3⟩]⟩,
  ⟨"SP_CTRL", 0x40100028, 16, 0x400, 1, 0x0, [⟨3, 3, .wo, 0x0⟩, ⟨2, 2, .wo, 0x0⟩, ⟨1, 1, .wo, 0x0⟩, ⟨0, 0, .wo, 0x0⟩]⟩,
  ⟨"SP_APPLY", 0x4010002C, 16, 0x400, 1, 0x0, [⟨31, 0, .rw, 0x0⟩]⟩]

/-- Register rows of the block at 0x40100000, part 1. -/
def regTab4010_1 : List RegDef := [
  ⟨"SP_STATUS", 0x40100030, 16, 0x400, 1, 0x0, [⟨31, 29, .ro, 0x0⟩, ⟨28, 28, .ro, 0x0⟩, ⟨8, 8, .ro, 0x0⟩, ⟨7, 7, .w1c, 0x0⟩, ⟨6, 6, .w1c, 0x0⟩, ⟨5, 5, .w1c, 0x0⟩, ⟨4, 4, .w1c, 0x0⟩, ⟨3, 3, .w1c, 0x0⟩, ⟨2, 2, .w1c, 0x0⟩, ⟨1, 1, .w1c, 0x0⟩, ⟨0, 0, .w1c, 0x0⟩]⟩,
  ⟨"SP_SLIPCNT", 0x40100034, 16, 0x400, 1, 0x0, [⟨31, 16, .ro, 0x0⟩, ⟨15, 0, .ro, 0x0⟩]⟩,
  ⟨"SP_GLITCHCNT", 0x40100038, 16, 0x400, 1, 0x0, [⟨31, 16, .ro, 0x0⟩, ⟨15, 0, .ro, 0x0⟩]⟩,
  ⟨"SP_SLACK", 0x4010003C, 16, 0x400, 1, 0x0, [⟨15, 0, .ro, 0x0⟩]⟩,
  ⟨"SP_ZCWAIT", 0x40100040, 16, 0x400, 1, 0x0, [⟨31, 0, .ro, 0x0⟩]⟩,
  ⟨"SP_GRP_FCNT", 0x40107000, 4, 0x8, 1, 0x0, [⟨31, 0, .ro, 0x0⟩]⟩,
  ⟨"SP_GRP_STAT", 0x40107004, 4, 0x8, 1, 0x0, [⟨19, 16, .ro, 0x0⟩, ⟨15, 0, .ro, 0x0⟩]⟩,
  ⟨"SP_GRPSEL0", 0x40107FF0, 1, 0x0, 1, 0x0, [⟨15, 0, .rw, 0x0⟩]⟩]

/-- Every register row of the block at 0x40100000. -/
def regTab4010 : List RegDef := regTab4010_0 ++ regTab4010_1

/-- Register rows of the block at 0x40110000, part 0. -/
def regTab4011_0 : List RegDef := [
  ⟨"DEC_CFG", 0x40110000, 40, 0x100, 1, 0x0, [⟨31, 30, .rwl, 0x0⟩, ⟨29, 29, .rwl, 0x0⟩, ⟨28, 28, .rwl, 0x0⟩, ⟨25, 24, .rwl, 0x0⟩, ⟨23, 22, .rwl, 0x0⟩]⟩,
  ⟨"DEC_STEP", 0x40110004, 40, 0x100, 1, 0x0, [⟨31, 0, .rwl, 0x10000000⟩]⟩,
  ⟨"DEC_FIRGD", 0x40110008, 40, 0x100, 1, 0x0, [⟨15, 0, .rwl, 0x0⟩]⟩,
  ⟨"DEC_STROBE", 0x4011000C, 40, 0x100, 1, 0x0, [⟨31, 30, .rwl, 0x0⟩, ⟨20, 16, .rwl, 0x0⟩, ⟨9, 8, .rwl, 0x0⟩, ⟨7, 0, .rwl, 0x0⟩]⟩,
  ⟨"DEC_CTRL", 0x40110010, 40, 0x100, 1, 0x0, [⟨1, 1, .wo, 0x0⟩, ⟨0, 0, .wo, 0x0⟩]⟩,
  ⟨"DEC_APPLY", 0x40110014, 40, 0x100, 1, 0x0, [⟨31, 0, .rw, 0x0⟩]⟩,
  ⟨"DEC_STATUS", 0x40110018, 40, 0x100, 1, 0x0, [⟨17, 16, .ro, 0x0⟩, ⟨4, 4, .w1c, 0x0⟩, ⟨3, 3, .w1c, 0x0⟩, ⟨2, 2, .w1c, 0x0⟩, ⟨1, 1, .w1c, 0x0⟩, ⟨0, 0, .w1c, 0x0⟩]⟩,
  ⟨"DEC_SAT", 0x4011001C, 40, 0x100, 1, 0x0, [⟨31, 0, .ro, 0x0⟩]⟩,
  ⟨"DEC_FIFO", 0x40110020, 40, 0x100, 1, 0x0, [⟨31, 31, .ro, 0x0⟩, ⟨23, 0, .ro, 0x0⟩]⟩,
  ⟨"DEC_FIFOLVL", 0x40110024, 40, 0x100, 1, 0x0, [⟨8, 0, .ro, 0x0⟩]⟩,
  ⟨"DEC_GD", 0x40110028, 40, 0x100, 1, 0x0, [⟨31, 0, .ro, 0x0⟩]⟩,
  ⟨"DEC_TAP0", 0x40113000, 40, 0x180, 1, 0x0, [⟨31, 0, .rwl, 0x40000000⟩]⟩]

/-- Register rows of the block at 0x40110000, part 1. -/
def regTab4011_1 : List RegDef := [
  ⟨"DEC_TAP1", 0x40113004, 40, 0x180, 95, 0x4, [⟨31, 0, .rwl, 0x0⟩]⟩,
  ⟨"DEC_PDMCLK", 0x40117000, 1, 0x0, 1, 0x0, [⟨7, 4, .rwl, 0x0⟩, ⟨3, 0, .rwl, 0x0⟩]⟩,
  ⟨"DEC_GSTATUS", 0x40117004, 1, 0x0, 1, 0x0, [⟨0, 0, .w1c, 0x0⟩]⟩,
  ⟨"DEC_TMR", 0x40117010, 4, 0x4, 1, 0x0, [⟨31, 31, .rw, 0x0⟩, ⟨30, 30, .rw, 0x0⟩, ⟨29, 25, .rw, 0x0⟩, ⟨24, 22, .rw, 0x0⟩, ⟨15, 0, .rw, 0x0⟩]⟩,
  ⟨"DEC_GRPSEL0", 0x40117FF0, 1, 0x0, 1, 0x0, [⟨31, 0, .rw, 0x0⟩]⟩,
  ⟨"DEC_GRPSEL1", 0x40117FF4, 1, 0x0, 1, 0x0, [⟨7, 0, .rw, 0x0⟩]⟩]

/-- Every register row of the block at 0x40110000. -/
def regTab4011 : List RegDef := regTab4011_0 ++ regTab4011_1

/-- Register rows of the block at 0x40120000, part 0. -/
def regTab4012_0 : List RegDef := [
  ⟨"ASRC_STATUS", 0x40120000, 1, 0x0, 1, 0x0, [⟨21, 12, .ro, 0x200⟩, ⟨10, 4, .ro, 0x40⟩, ⟨2, 2, .w1c, 0x0⟩, ⟨1, 1, .w1c, 0x0⟩, ⟨0, 0, .w1c, 0x0⟩]⟩,
  ⟨"ASRC_TRK_CFG", 0x40121000, 64, 0x10, 1, 0x0, [⟨31, 30, .ro, 0x0⟩, ⟨29, 29, .ro, 0x0⟩, ⟨15, 12, .ro, 0x0⟩, ⟨11, 0, .ro, 0x0⟩]⟩,
  ⟨"ASRC_TRK_STATE", 0x40121004, 64, 0x10, 1, 0x0, [⟨31, 30, .ro, 0x0⟩, ⟨6, 0, .ro, 0x0⟩]⟩,
  ⟨"ASRC_TRK_RATIO", 0x40121008, 64, 0x10, 1, 0x0, [⟨31, 0, .ro, 0x0⟩]⟩,
  ⟨"ASRC_TRK_UNLOCK", 0x4012100C, 64, 0x10, 1, 0x0, [⟨15, 0, .ro, 0x0⟩]⟩,
  ⟨"ASRC_CH", 0x40122000, 512, 0x4, 1, 0x0, [⟨31, 31, .ro, 0x0⟩, ⟨30, 30, .ro, 0x0⟩, ⟨21, 16, .ro, 0x0⟩, ⟨15, 0, .ro, 0x0⟩]⟩]

/-- Every register row of the block at 0x40120000. -/
def regTab4012 : List RegDef := regTab4012_0

/-- Register rows of the block at 0x40130000, part 0. -/
def regTab4013_0 : List RegDef := [
  ⟨"ANA_IN_CFG", 0x40130000, 8, 0x100, 1, 0x0, [⟨31, 31, .rwl, 0x0⟩, ⟨30, 30, .rwl, 0x0⟩, ⟨5, 0, .rwl, 0x0⟩]⟩,
  ⟨"ANA_IN_STAT", 0x40130004, 8, 0x100, 1, 0x0, [⟨31, 30, .ro, 0x3⟩, ⟨21, 16, .ro, 0x0⟩, ⟨11, 0, .ro, 0x0⟩]⟩,
  ⟨"ANA_BIAS_THR", 0x40130008, 8, 0x100, 1, 0x0, [⟨27, 16, .rwl, 0x64⟩, ⟨11, 0, .rwl, 0x708⟩]⟩,
  ⟨"ANA_OUT_CFG", 0x40130010, 8, 0x100, 1, 0x0, [⟨15, 8, .rwl, 0xA⟩, ⟨5, 0, .rwl, 0x9⟩]⟩,
  ⟨"ANA_OUT_STAT", 0x40130014, 8, 0x100, 1, 0x0, [⟨31, 29, .ro, 0x0⟩]⟩,
  ⟨"ANA_STATUS", 0x40130018, 8, 0x100, 1, 0x0, [⟨3, 3, .w1c, 0x0⟩, ⟨2, 2, .w1c, 0x0⟩, ⟨1, 1, .w1c, 0x0⟩, ⟨0, 0, .w1c, 0x0⟩]⟩,
  ⟨"ANA_GRPSEL0", 0x40137FF0, 1, 0x0, 1, 0x0, [⟨7, 0, .rw, 0x0⟩]⟩]

/-- Every register row of the block at 0x40130000. -/
def regTab4013 : List RegDef := regTab4013_0

/-- Register rows of the block at 0x40200000, part 0. -/
def regTab4020_0 : List RegDef := [
  ⟨"XPT_STATUS", 0x40200000, 1, 0x0, 1, 0x0, [⟨21, 16, .ro, 0x0⟩, ⟨4, 4, .w1c, 0x0⟩, ⟨3, 3, .w1c, 0x0⟩, ⟨2, 2, .w1c, 0x0⟩, ⟨1, 1, .w1c, 0x0⟩, ⟨0, 0, .w1c, 0x0⟩]⟩,
  ⟨"XPT_QENT0", 0x40200010, 1, 0x0, 1, 0x0, [⟨31, 0, .rwl, 0x0⟩]⟩,
  ⟨"XPT_QENT1", 0x40200014, 1, 0x0, 1, 0x0, [⟨31, 30, .rwl, 0x0⟩, ⟨29, 28, .rwl, 0x0⟩, ⟨25, 16, .rwl, 0x0⟩, ⟨9, 0, .rwl, 0x0⟩]⟩,
  ⟨"XPT_QPUSH", 0x40200018, 1, 0x0, 1, 0x0, [⟨0, 0, .wo, 0x0⟩]⟩,
  ⟨"XPT_SAT_CNT", 0x40200020, 1, 0x0, 1, 0x0, [⟨31, 0, .ro, 0x0⟩]⟩,
  ⟨"XPT_SAT_LAST", 0x40200024, 1, 0x0, 1, 0x0, [⟨31, 31, .ro, 0x0⟩, ⟨9, 0, .ro, 0x0⟩]⟩,
  ⟨"XPT_ECC_CNT", 0x40200028, 1, 0x0, 1, 0x0, [⟨31, 16, .ro, 0x0⟩, ⟨15, 0, .ro, 0x0⟩]⟩,
  ⟨"XPT_BLK_CNT", 0x4020002C, 1, 0x0, 1, 0x0, [⟨31, 16, .ro, 0x0⟩, ⟨15, 0, .ro, 0x0⟩]⟩,
  ⟨"XPT_CNT_CLR", 0x40200030, 1, 0x0, 1, 0x0, [⟨2, 2, .wo, 0x0⟩, ⟨1, 1, .wo, 0x0⟩, ⟨0, 0, .wo, 0x0⟩]⟩,
  ⟨"XPT_SPARE", 0x40200040, 8, 0x4, 1, 0x0, [⟨31, 31, .ro, 0x0⟩, ⟨30, 30, .ro, 0x0⟩, ⟨6, 0, .ro, 0x0⟩]⟩,
  ⟨"XPT_FENCE", 0x40200060, 4, 0x4, 1, 0x0, [⟨31, 0, .ro, 0x0⟩]⟩,
  ⟨"XPT_CAP_CFG", 0x40200080, 4, 0x10, 1, 0x0, [⟨31, 31, .sc, 0x0⟩, ⟨29, 28, .rw, 0x0⟩, ⟨9, 0, .rw, 0x0⟩]⟩]

/-- Register rows of the block at 0x40200000, part 1. -/
def regTab4020_1 : List RegDef := [
  ⟨"XPT_CAP_START", 0x40200084, 4, 0x10, 1, 0x0, [⟨31, 0, .rw, 0x0⟩]⟩,
  ⟨"XPT_COLSTATE", 0x40201000, 1024, 0x4, 1, 0x0, [⟨31, 31, .ro, 0x0⟩, ⟨30, 30, .ro, 0x0⟩, ⟨29, 29, .ro, 0x0⟩, ⟨28, 28, .ro, 0x0⟩, ⟨27, 27, .ro, 0x0⟩, ⟨10, 0, .ro, 0x0⟩]⟩,
  ⟨"XPT_GMASK", 0x40202000, 64, 0x80, 32, 0x4, [⟨31, 0, .rwl, 0x0⟩]⟩,
  ⟨"XPT_CAPDATA", 0x40204000, 4, 0x800, 512, 0x4, [⟨31, 0, .ro, 0x0⟩]⟩]

/-- Every register row of the block at 0x40200000. -/
def regTab4020 : List RegDef := regTab4020_0 ++ regTab4020_1

/-- Register rows of the block at 0x40210000, part 0. -/
def regTab4021_0 : List RegDef := [
  ⟨"PATCH_STATUS", 0x40210000, 1, 0x0, 1, 0x0, [⟨22, 16, .ro, 0x0⟩, ⟨2, 2, .w1c, 0x0⟩, ⟨1, 1, .w1c, 0x0⟩, ⟨0, 0, .w1c, 0x0⟩]⟩,
  ⟨"PATCH_REQ0", 0x40210010, 1, 0x0, 1, 0x0, [⟨31, 0, .rwl, 0x0⟩]⟩,
  ⟨"PATCH_REQ1", 0x40210014, 1, 0x0, 1, 0x0, [⟨31, 29, .rwl, 0x0⟩, ⟨21, 16, .rwl, 0x0⟩, ⟨10, 0, .rwl, 0x0⟩]⟩,
  ⟨"PATCH_REQ2", 0x40210018, 1, 0x0, 1, 0x0, [⟨15, 0, .rwl, 0x0⟩]⟩,
  ⟨"PATCH_PUSH", 0x4021001C, 1, 0x0, 1, 0x0, [⟨0, 0, .wo, 0x0⟩]⟩,
  ⟨"PATCH_SAT_TOTAL", 0x40210020, 1, 0x0, 1, 0x0, [⟨31, 0, .ro, 0x0⟩]⟩,
  ⟨"PATCH_CNT_CLR", 0x40210024, 1, 0x0, 1, 0x0, [⟨1, 1, .wo, 0x0⟩, ⟨0, 0, .wo, 0x0⟩]⟩,
  ⟨"PATCH_MTR_CFG", 0x40210030, 1, 0x0, 1, 0x0, [⟨3, 0, .rw, 0x4⟩]⟩,
  ⟨"PATCH_MTR_CLR", 0x40210034, 1, 0x0, 1, 0x0, [⟨0, 0, .wo, 0x0⟩]⟩,
  ⟨"PATCH_IN", 0x40211000, 1024, 0x4, 1, 0x0, [⟨31, 30, .ro, 0x0⟩, ⟨29, 29, .ro, 0x0⟩, ⟨15, 0, .ro, 0x0⟩]⟩,
  ⟨"PATCH_OUT", 0x40212000, 1032, 0x4, 1, 0x0, [⟨31, 30, .ro, 0x0⟩, ⟨29, 29, .ro, 0x0⟩, ⟨28, 28, .ro, 0x1⟩, ⟨27, 27, .ro, 0x0⟩, ⟨9, 0, .ro, 0x0⟩]⟩,
  ⟨"PATCH_SATCNT", 0x40213400, 516, 0x4, 1, 0x0, [⟨31, 16, .ro, 0x0⟩, ⟨15, 0, .ro, 0x0⟩]⟩]

/-- Register rows of the block at 0x40210000, part 1. -/
def regTab4021_1 : List RegDef := [
  ⟨"PATCH_MTR_PEAK", 0x40214000, 2048, 0x8, 1, 0x0, [⟨31, 0, .ro, 0x0⟩]⟩,
  ⟨"PATCH_MTR_MS", 0x40214004, 2048, 0x8, 1, 0x0, [⟨31, 0, .ro, 0x0⟩]⟩]

/-- Every register row of the block at 0x40210000. -/
def regTab4021 : List RegDef := regTab4021_0 ++ regTab4021_1

/-- Register rows of the block at 0x40220000, part 0. -/
def regTab4022_0 : List RegDef := [
  ⟨"OVR_CFG", 0x40220000, 64, 0x40, 1, 0x0, [⟨31, 31, .rwl, 0x0⟩, ⟨30, 30, .rwl, 0x0⟩, ⟨29, 27, .rwl, 0x0⟩, ⟨23, 20, .rwl, 0x0⟩, ⟨18, 16, .rwl, 0x0⟩, ⟨5, 0, .rwl, 0x0⟩]⟩,
  ⟨"OVR_SRC", 0x40220004, 64, 0x40, 1, 0x0, [⟨31, 31, .rwl, 0x0⟩, ⟨30, 30, .rwl, 0x0⟩, ⟨29, 29, .rwl, 0x0⟩, ⟨11, 8, .rwl, 0x0⟩, ⟨3, 0, .rwl, 0x0⟩]⟩,
  ⟨"OVR_ACT", 0x40220008, 64, 0x40, 1, 0x0, [⟨31, 31, .rwl, 0x0⟩, ⟨30, 30, .rwl, 0x0⟩, ⟨29, 29, .rwl, 0x0⟩, ⟨28, 24, .rwl, 0x0⟩, ⟨21, 16, .rwl, 0x0⟩, ⟨11, 0, .rwl, 0x0⟩]⟩,
  ⟨"OVR_TAG", 0x4022000C, 64, 0x40, 1, 0x0, [⟨31, 0, .rwl, 0x0⟩]⟩,
  ⟨"OVR_IN_SEL", 0x40220010, 64, 0x40, 6, 0x8, [⟨9, 0, .rwl, 0x0⟩]⟩,
  ⟨"OVR_IN_GAIN", 0x40220014, 64, 0x40, 6, 0x8, [⟨31, 0, .rwl, 0x0⟩]⟩,
  ⟨"OVR_LIVE", 0x40221000, 64, 0x40, 16, 0x4, [⟨31, 0, .ro, 0x0⟩]⟩,
  ⟨"OVR_SMASK", 0x40222000, 64, 0x80, 32, 0x4, [⟨31, 0, .rwl, 0x0⟩]⟩,
  ⟨"OVR_LMASK", 0x40224000, 64, 0x80, 32, 0x4, [⟨31, 0, .ro, 0x0⟩]⟩,
  ⟨"OVR_COLCLASS", 0x40226000, 128, 0x4, 1, 0x0, [⟨30, 28, .rwl, 0x0⟩, ⟨26, 24, .rwl, 0x0⟩, ⟨22, 20, .rwl, 0x0⟩, ⟨18, 16, .rwl, 0x0⟩, ⟨14, 12, .rwl, 0x0⟩, ⟨10, 8, .rwl, 0x0⟩, ⟨6, 4, .rwl, 0x0⟩, ⟨2, 0, .rwl, 0x0⟩]⟩,
  ⟨"OVR_COLOWNER", 0x40226400, 256, 0x4, 1, 0x0, [⟨31, 0, .ro, 0x0⟩]⟩,
  ⟨"OVR_STATUS", 0x40227000, 1, 0x0, 1, 0x0, [⟨10, 10, .ro, 0x0⟩, ⟨9, 9, .w1c, 0x0⟩, ⟨8, 8, .w1c, 0x0⟩, ⟨7, 7, .w1c, 0x0⟩, ⟨6, 6, .w1c, 0x0⟩, ⟨5, 5, .w1c, 0x0⟩, ⟨4, 4, .w1c, 0x0⟩, ⟨3, 3, .w1c, 0x0⟩, ⟨2, 2, .w1c, 0x0⟩, ⟨1, 1, .ro, 0x0⟩, ⟨0, 0, .ro, 0x0⟩]⟩]

/-- Register rows of the block at 0x40220000, part 1. -/
def regTab4022_1 : List RegDef := [
  ⟨"OVR_ARM", 0x40227004, 1, 0x0, 1, 0x0, [⟨31, 16, .ro, 0x0⟩, ⟨15, 0, .wo, 0x0⟩]⟩,
  ⟨"OVR_CRC", 0x40227008, 1, 0x0, 1, 0x0, [⟨31, 0, .rwl, 0x0⟩]⟩,
  ⟨"OVR_COMMIT_APPLY", 0x4022700C, 1, 0x0, 1, 0x0, [⟨31, 0, .rwl, 0x0⟩]⟩,
  ⟨"OVR_COMMIT", 0x40227010, 1, 0x0, 1, 0x0, [⟨15, 0, .wo, 0x0⟩]⟩,
  ⟨"OVR_LIVE_CRC", 0x40227014, 1, 0x0, 1, 0x0, [⟨31, 0, .ro, 0x0⟩]⟩,
  ⟨"OVR_GEN", 0x40227018, 1, 0x0, 1, 0x0, [⟨15, 0, .ro, 0x0⟩]⟩,
  ⟨"OVR_ASSERT", 0x40227020, 2, 0x4, 1, 0x0, [⟨31, 0, .ro, 0x0⟩]⟩,
  ⟨"OVR_SUSP", 0x40227028, 2, 0x4, 1, 0x0, [⟨31, 0, .ro, 0x0⟩]⟩,
  ⟨"OVR_GRPSEL0", 0x40227FF0, 1, 0x0, 1, 0x0, [⟨31, 0, .rw, 0x0⟩]⟩,
  ⟨"OVR_GRPSEL1", 0x40227FF4, 1, 0x0, 1, 0x0, [⟨31, 0, .rw, 0x0⟩]⟩]

/-- Every register row of the block at 0x40220000. -/
def regTab4022 : List RegDef := regTab4022_0 ++ regTab4022_1

/-- Register rows of the block at 0x40300000, part 0. -/
def regTab4030_0 : List RegDef := [
  ⟨"CLU_STATUS", 0x40300000, 4, 0x1000, 1, 0x0, [⟨31, 30, .ro, 0x0⟩, ⟨23, 16, .ro, 0x0⟩, ⟨7, 0, .ro, 0x0⟩]⟩,
  ⟨"CLU_CNT_CLR", 0x40300004, 4, 0x1000, 1, 0x0, [⟨0, 0, .wo, 0x0⟩]⟩,
  ⟨"CLU_CORE_SAT", 0x40300100, 4, 0x1000, 8, 0x10, [⟨31, 0, .ro, 0x0⟩]⟩,
  ⟨"CLU_CORE_FLAG", 0x40300104, 4, 0x1000, 8, 0x10, [⟨1, 1, .w1c, 0x0⟩, ⟨0, 0, .w1c, 0x0⟩]⟩,
  ⟨"CLU_CORE_LOAD", 0x40300108, 4, 0x1000, 8, 0x10, [⟨19, 0, .ro, 0x0⟩]⟩,
  ⟨"CLU_GRPSEL0", 0x40307FF0, 1, 0x0, 1, 0x0, [⟨3, 0, .rw, 0x0⟩]⟩]

/-- Every register row of the block at 0x40300000. -/
def regTab4030 : List RegDef := regTab4030_0

/-- Register rows of the block at 0x40310000, part 0. -/
def regTab4031_0 : List RegDef := [
  ⟨"ENG_CYCLE", 0x40310000, 1, 0x0, 1, 0x0, [⟨31, 0, .ro, 0x0⟩]⟩,
  ⟨"ENG_CFG", 0x40310004, 1, 0x0, 1, 0x0, [⟨8, 8, .ro, 0x0⟩, ⟨7, 0, .ro, 0x10⟩]⟩,
  ⟨"ENG_CT", 0x40310008, 1, 0x0, 1, 0x0, [⟨19, 0, .ro, 0x51615⟩]⟩,
  ⟨"ENG_MARGIN_MIN", 0x4031000C, 1, 0x0, 1, 0x0, [⟨31, 26, .ro, 0x3F⟩, ⟨19, 0, .ro, 0xFFFFF⟩]⟩,
  ⟨"ENG_MARGIN_WARN", 0x40310010, 1, 0x0, 1, 0x0, [⟨19, 0, .rw, 0x411A⟩]⟩,
  ⟨"ENG_OVERRUN_CNT", 0x40310014, 1, 0x0, 1, 0x0, [⟨31, 0, .ro, 0x0⟩]⟩,
  ⟨"ENG_CNT_CLR", 0x40310018, 1, 0x0, 1, 0x0, [⟨0, 0, .wo, 0x0⟩]⟩,
  ⟨"ENG_STATUS", 0x4031001C, 1, 0x0, 1, 0x0, [⟨1, 1, .w1c, 0x0⟩, ⟨0, 0, .w1c, 0x0⟩]⟩]

/-- Every register row of the block at 0x40310000. -/
def regTab4031 : List RegDef := regTab4031_0

/-- Register rows of the block at 0x40400000, part 0. -/
def regTab4040_0 : List RegDef := [
  ⟨"MSG_STATE", 0x40400000, 64, 0x80, 1, 0x0, [⟨31, 30, .ro, 0x0⟩, ⟨29, 27, .ro, 0x0⟩, ⟨26, 26, .ro, 0x0⟩, ⟨25, 25, .ro, 0x0⟩, ⟨15, 12, .ro, 0x0⟩, ⟨11, 0, .ro, 0x0⟩]⟩,
  ⟨"MSG_POS", 0x40400004, 64, 0x80, 1, 0x0, [⟨31, 0, .ro, 0x0⟩]⟩,
  ⟨"MSG_MSG", 0x40400008, 64, 0x80, 1, 0x0, [⟨31, 24, .ro, 0x0⟩, ⟨12, 0, .ro, 0x0⟩]⟩,
  ⟨"MSG_CNT", 0x4040000C, 64, 0x80, 1, 0x0, [⟨31, 16, .ro, 0x0⟩]⟩,
  ⟨"GEN_CFG", 0x40402000, 32, 0x80, 1, 0x0, [⟨31, 31, .rwl, 0x0⟩, ⟨30, 28, .rwl, 0x0⟩, ⟨2, 0, .rwl, 0x0⟩]⟩,
  ⟨"GEN_FREQ", 0x40402004, 32, 0x80, 1, 0x0, [⟨31, 0, .rwl, 0x5555555⟩]⟩,
  ⟨"GEN_LEVEL", 0x40402008, 32, 0x80, 1, 0x0, [⟨31, 0, .rwl, 0x0⟩]⟩,
  ⟨"GEN_SEED", 0x4040200C, 32, 0x80, 1, 0x0, [⟨31, 0, .rwl, 0x1⟩]⟩,
  ⟨"GEN_SEG_FSTART", 0x40402010, 32, 0x80, 8, 0xC, [⟨31, 0, .rwl, 0x0⟩]⟩,
  ⟨"GEN_SEG_FEND", 0x40402014, 32, 0x80, 8, 0xC, [⟨31, 0, .rwl, 0x0⟩]⟩,
  ⟨"GEN_SEG_DUR", 0x40402018, 32, 0x80, 8, 0xC, [⟨31, 31, .rwl, 0x0⟩, ⟨15, 0, .rwl, 0x0⟩]⟩,
  ⟨"GEN_STAT", 0x40402070, 32, 0x80, 1, 0x0, [⟨31, 31, .ro, 0x0⟩, ⟨2, 0, .ro, 0x0⟩]⟩]

/-- Register rows of the block at 0x40400000, part 1. -/
def regTab4040_1 : List RegDef := [
  ⟨"VIS_CFG", 0x40403000, 32, 0x80, 1, 0x0, [⟨31, 31, .rwl, 0x0⟩, ⟨30, 30, .rwl, 0x0⟩, ⟨29, 29, .rwl, 0x0⟩, ⟨28, 28, .rwl, 0x0⟩, ⟨9, 0, .rwl, 0x0⟩]⟩,
  ⟨"VIS_MIC", 0x40403004, 32, 0x80, 1, 0x0, [⟨15, 0, .rwl, 0x0⟩]⟩,
  ⟨"VIS_CAL", 0x40403008, 32, 0x80, 1, 0x0, [⟨15, 0, .rwl, 0x4B0⟩]⟩,
  ⟨"VIS_TARGET", 0x4040300C, 32, 0x80, 1, 0x0, [⟨25, 16, .rwl, 0x1F4⟩, ⟨9, 0, .rwl, 0x1E⟩]⟩,
  ⟨"VIS_AMB", 0x40403010, 32, 0x80, 1, 0x0, [⟨31, 24, .rwl, 0x32⟩, ⟨23, 16, .rwl, 0x5⟩, ⟨7, 0, .rwl, 0x3C⟩]⟩,
  ⟨"VIS_LIM", 0x40403014, 32, 0x80, 1, 0x0, [⟨31, 24, .rwl, 0x64⟩, ⟨23, 16, .rwl, 0x3C⟩, ⟨7, 0, .rwl, 0x1E⟩]⟩,
  ⟨"VIS_INDEX", 0x40403020, 32, 0x80, 1, 0x0, [⟨31, 31, .ro, 0x0⟩, ⟨30, 30, .ro, 0x0⟩, ⟨29, 29, .ro, 0x0⟩, ⟨28, 28, .ro, 0x0⟩, ⟨25, 16, .ro, 0x0⟩, ⟨9, 0, .ro, 0x0⟩]⟩,
  ⟨"VIS_CORR", 0x40403024, 32, 0x80, 1, 0x0, [⟨31, 16, .ro, 0x0⟩, ⟨15, 0, .ro, 0x0⟩]⟩,
  ⟨"VIS_LVL", 0x40403028, 32, 0x80, 1, 0x0, [⟨31, 16, .ro, 0x0⟩, ⟨15, 0, .ro, 0x0⟩]⟩,
  ⟨"VIS_MTI", 0x40403030, 32, 0x80, 7, 0x4, [⟨9, 0, .ro, 0x0⟩]⟩,
  ⟨"MSG_STATUS", 0x40407000, 1, 0x0, 1, 0x0, [⟨22, 16, .ro, 0x40⟩, ⟨5, 5, .w1c, 0x0⟩, ⟨4, 4, .w1c, 0x0⟩, ⟨3, 3, .w1c, 0x0⟩, ⟨2, 2, .w1c, 0x0⟩, ⟨1, 1, .w1c, 0x0⟩, ⟨0, 0, .w1c, 0x0⟩]⟩,
  ⟨"MSG_SCAN", 0x40407004, 1, 0x0, 1, 0x0, [⟨31, 16, .ro, 0x0⟩, ⟨12, 0, .ro, 0x0⟩]⟩]

/-- Register rows of the block at 0x40400000, part 2. -/
def regTab4040_2 : List RegDef := [
  ⟨"MSG_PIN", 0x40407008, 1, 0x0, 1, 0x0, [⟨15, 0, .ro, 0x0⟩]⟩,
  ⟨"MSG_GRPSEL0", 0x40407FF0, 1, 0x0, 1, 0x0, [⟨31, 0, .rw, 0x0⟩]⟩,
  ⟨"MSG_GRPSEL1", 0x40407FF4, 1, 0x0, 1, 0x0, [⟨31, 0, .rw, 0x0⟩]⟩]

/-- Every register row of the block at 0x40400000. -/
def regTab4040 : List RegDef := regTab4040_0 ++ regTab4040_1 ++ regTab4040_2

/-- Register rows of the block at 0x40410000, part 0. -/
def regTab4041_0 : List RegDef := [
  ⟨"SUP_STATUS", 0x40410000, 1, 0x0, 1, 0x0, [⟨6, 6, .w1c, 0x0⟩, ⟨5, 5, .w1c, 0x0⟩, ⟨4, 4, .w1c, 0x0⟩, ⟨3, 3, .w1c, 0x0⟩, ⟨2, 2, .w1c, 0x0⟩, ⟨1, 1, .w1c, 0x0⟩, ⟨0, 0, .w1c, 0x0⟩]⟩,
  ⟨"SUP_CIN_THR0", 0x40410010, 2, 0x8, 1, 0x0, [⟨31, 16, .rwl, 0xC8⟩, ⟨15, 0, .rwl, 0x7D0⟩]⟩,
  ⟨"SUP_CIN_THR1", 0x40410014, 2, 0x8, 1, 0x0, [⟨15, 0, .rwl, 0x2710⟩]⟩,
  ⟨"SUP_CIN_CFG", 0x40410100, 16, 0x8, 1, 0x0, [⟨31, 31, .rwl, 0x0⟩, ⟨30, 30, .rwl, 0x0⟩, ⟨29, 29, .rwl, 0x0⟩, ⟨28, 28, .rwl, 0x0⟩, ⟨7, 0, .rwl, 0x14⟩]⟩,
  ⟨"SUP_CIN_STAT", 0x40410104, 16, 0x8, 1, 0x0, [⟨31, 30, .ro, 0x0⟩, ⟨29, 28, .ro, 0x0⟩, ⟨27, 27, .ro, 0x0⟩, ⟨15, 0, .ro, 0xFFFF⟩]⟩,
  ⟨"SUP_DRV_CFG", 0x40410200, 16, 0x8, 1, 0x0, [⟨31, 31, .rwl, 0x0⟩, ⟨30, 30, .rwl, 0x0⟩, ⟨29, 24, .rwl, 0x0⟩, ⟨23, 23, .rwl, 0x0⟩, ⟨22, 20, .rwl, 0x0⟩, ⟨17, 8, .rwl, 0x14⟩, ⟨7, 0, .rwl, 0x32⟩]⟩,
  ⟨"SUP_DRV_STAT", 0x40410204, 16, 0x8, 1, 0x0, [⟨31, 30, .ro, 0x0⟩, ⟨29, 29, .ro, 0x0⟩, ⟨28, 28, .ro, 0x0⟩, ⟨27, 27, .ro, 0x0⟩, ⟨26, 26, .ro, 0x0⟩, ⟨9, 0, .ro, 0x0⟩]⟩,
  ⟨"SUP_DRV_TOTAL", 0x40410280, 1, 0x0, 1, 0x0, [⟨9, 0, .ro, 0x0⟩]⟩,
  ⟨"SUP_GPIO_FUNC0", 0x40410300, 1, 0x0, 1, 0x0, [⟨31, 0, .rwl, 0x0⟩]⟩,
  ⟨"SUP_GPIO_FUNC1", 0x40410304, 1, 0x0, 1, 0x0, [⟨15, 0, .rwl, 0x0⟩]⟩,
  ⟨"SUP_GPIO_OUT", 0x40410308, 1, 0x0, 1, 0x0, [⟨23, 0, .rwl, 0x0⟩]⟩,
  ⟨"SUP_GPIO_IN", 0x4041030C, 1, 0x0, 1, 0x0, [⟨23, 0, .ro, 0x0⟩]⟩]

/-- Register rows of the block at 0x40410000, part 1. -/
def regTab4041_1 : List RegDef := [
  ⟨"SUP_LS_CFG", 0x40410400, 32, 0x20, 1, 0x0, [⟨31, 31, .rwl, 0x0⟩, ⟨30, 30, .rwl, 0x0⟩, ⟨29, 29, .rwl, 0x0⟩, ⟨28, 23, .rwl, 0x0⟩, ⟨22, 17, .rwl, 0x0⟩, ⟨9, 0, .rwl, 0x0⟩]⟩,
  ⟨"SUP_LS_KZ", 0x40410404, 32, 0x20, 1, 0x0, [⟨31, 0, .rwl, 0x10000⟩]⟩,
  ⟨"SUP_LS_REF", 0x40410408, 32, 0x20, 1, 0x0, [⟨31, 0, .rwl, 0x0⟩]⟩,
  ⟨"SUP_LS_Z", 0x4041040C, 32, 0x20, 1, 0x0, [⟨31, 0, .ro, 0x0⟩]⟩,
  ⟨"SUP_LS_DET", 0x40410410, 32, 0x20, 1, 0x0, [⟨30, 24, .rwl, 0xA⟩, ⟨15, 8, .rwl, 0x19⟩, ⟨7, 0, .rwl, 0x1E⟩]⟩,
  ⟨"SUP_LS_STAT", 0x40410414, 32, 0x20, 1, 0x0, [⟨31, 30, .ro, 0x0⟩, ⟨29, 28, .ro, 0x0⟩, ⟨6, 0, .ro, 0x0⟩]⟩,
  ⟨"SUP_LS_LEARN", 0x40410418, 32, 0x20, 1, 0x0, [⟨0, 0, .sc, 0x0⟩]⟩]

/-- Every register row of the block at 0x40410000. -/
def regTab4041 : List RegDef := regTab4041_0 ++ regTab4041_1

/-- Register rows of the block at 0x40420000, part 0. -/
def regTab4042_0 : List RegDef := [
  ⟨"SEC_STATUS", 0x40420000, 1, 0x0, 1, 0x0, [⟨31, 31, .ro, 0x0⟩, ⟨30, 30, .ro, 0x1⟩, ⟨29, 27, .ro, 0x0⟩, ⟨26, 24, .ro, 0x7⟩, ⟨23, 23, .ro, 0x0⟩, ⟨22, 22, .w1c, 0x0⟩, ⟨21, 21, .ro, 0x0⟩, ⟨4, 4, .ro, 0x0⟩, ⟨3, 3, .w1c, 0x0⟩, ⟨2, 2, .w1c, 0x0⟩, ⟨1, 1, .w1c, 0x0⟩, ⟨0, 0, .w1c, 0x0⟩]⟩,
  ⟨"SEC_MGMT_CFG", 0x40420004, 1, 0x0, 1, 0x0, [⟨31, 31, .rwl, 0x1⟩, ⟨30, 29, .rwl, 0x3⟩, ⟨15, 0, .rwl, 0x2502⟩]⟩,
  ⟨"SEC_MGMT_EPOCH", 0x40420008, 1, 0x0, 1, 0x0, [⟨31, 0, .ro, 0x0⟩]⟩,
  ⟨"SEC_MGMT_CNT", 0x4042000C, 1, 0x0, 1, 0x0, [⟨31, 16, .ro, 0x0⟩, ⟨15, 0, .ro, 0x0⟩]⟩,
  ⟨"SEC_WP_CHAL", 0x40420010, 1, 0x0, 1, 0x0, [⟨31, 0, .ro, 0x0⟩]⟩,
  ⟨"SEC_AKEY", 0x40420020, 8, 0x4, 1, 0x0, [⟨31, 0, .wo, 0x0⟩]⟩,
  ⟨"SEC_AKEY_CTRL", 0x40420040, 1, 0x0, 1, 0x0, [⟨0, 0, .wo, 0x0⟩]⟩,
  ⟨"SEC_RECOV", 0x40420050, 1, 0x0, 1, 0x0, [⟨31, 30, .ro, 0x0⟩, ⟨15, 8, .ro, 0x0⟩, ⟨2, 2, .sc, 0x0⟩, ⟨1, 1, .rw, 0x0⟩, ⟨0, 0, .rw, 0x0⟩]⟩,
  ⟨"SEC_RECOV_LEN", 0x40420054, 1, 0x0, 1, 0x0, [⟨31, 0, .rw, 0x0⟩]⟩]

/-- Every register row of the block at 0x40420000. -/
def regTab4042 : List RegDef := regTab4042_0

/-- Register rows of the block at 0x40430000, part 0. -/
def regTab4043_0 : List RegDef := [
  ⟨"LOG_STATUS", 0x40430000, 1, 0x0, 1, 0x0, [⟨1, 1, .w1c, 0x0⟩, ⟨0, 0, .w1c, 0x0⟩]⟩,
  ⟨"LOG_NEXT", 0x40430004, 1, 0x0, 1, 0x0, [⟨31, 0, .ro, 0x0⟩]⟩,
  ⟨"LOG_OLDEST", 0x40430008, 1, 0x0, 1, 0x0, [⟨31, 0, .ro, 0x0⟩]⟩,
  ⟨"LOG_LOST", 0x4043000C, 1, 0x0, 1, 0x0, [⟨31, 0, .ro, 0x0⟩]⟩,
  ⟨"LOG_STAGED", 0x40430010, 1, 0x0, 1, 0x0, [⟨12, 0, .ro, 0x0⟩]⟩]

/-- Every register row of the block at 0x40430000. -/
def regTab4043 : List RegDef := regTab4043_0

/-- Register rows of the block at 0x40440000, part 0. -/
def regTab4044_0 : List RegDef := [
  ⟨"FLASHC_STATUS", 0x40440000, 1, 0x0, 1, 0x0, [⟨31, 30, .ro, 0x0⟩, ⟨29, 29, .ro, 0x0⟩, ⟨2, 2, .w1c, 0x0⟩, ⟨1, 1, .w1c, 0x0⟩, ⟨0, 0, .w1c, 0x0⟩]⟩,
  ⟨"FLASHC_ECC", 0x40440004, 1, 0x0, 1, 0x0, [⟨31, 16, .ro, 0x0⟩, ⟨15, 0, .ro, 0x0⟩]⟩,
  ⟨"FLASHC_BLK", 0x40440008, 1, 0x0, 1, 0x0, [⟨31, 16, .ro, 0x0⟩, ⟨15, 0, .ro, 0x0⟩]⟩,
  ⟨"FLASHC_SUSP", 0x4044000C, 1, 0x0, 1, 0x0, [⟨31, 16, .ro, 0x0⟩, ⟨15, 0, .ro, 0x0⟩]⟩,
  ⟨"FLASHC_STORE", 0x40440010, 1, 0x0, 1, 0x0, [⟨11, 0, .ro, 0x0⟩]⟩]

/-- Every register row of the block at 0x40440000. -/
def regTab4044 : List RegDef := regTab4044_0

/-- The rows of one 64 KiB block, by the upper half of its base (R506). -/
def regTable (block : Nat) : List RegDef :=
  match block with
  | 0x4000 => regTab4000
  | 0x4001 => regTab4001
  | 0x4002 => regTab4002
  | 0x4003 => regTab4003
  | 0x4004 => regTab4004
  | 0x4005 => regTab4005
  | 0x4006 => regTab4006
  | 0x4007 => regTab4007
  | 0x4008 => regTab4008
  | 0x4009 => regTab4009
  | 0x400A => regTab4009
  | 0x400B => regTab400B
  | 0x4010 => regTab4010
  | 0x4011 => regTab4011
  | 0x4012 => regTab4012
  | 0x4013 => regTab4013
  | 0x4020 => regTab4020
  | 0x4021 => regTab4021
  | 0x4022 => regTab4022
  | 0x4030 => regTab4030
  | 0x4031 => regTab4031
  | 0x4040 => regTab4040
  | 0x4041 => regTab4041
  | 0x4042 => regTab4042
  | 0x4043 => regTab4043
  | 0x4044 => regTab4044
  | _ => []

/-- Whether offset `o` from the base of a row is the start of one of its words. -/
def RegDef.covers (r : RegDef) (a : Nat) : Bool :=
  decide (r.base ≤ a) &&
    (let o := a - r.base
     let i := if r.s1 = 0 then 0 else o / r.s1
     let rest := if r.s1 = 0 then o else o % r.s1
     let j := if r.s2 = 0 then 0 else rest / r.s2
     let last := if r.s2 = 0 then rest else rest % r.s2
     decide (i < r.n1) && decide (j < r.n2) && last == 0)

/-- The register row that holds address `a`, if any (R509: none reads 0 and ignores writes). -/
def findReg (a : Nat) : Option RegDef :=
  (regTable (a / 0x10000)).find? (fun r => r.covers a)

/-- The reset word of a row: its fields at their places. -/
def RegDef.resetNat (r : RegDef) : Nat :=
  r.fields.foldl (fun acc f => acc + f.reset * 2 ^ f.lo) 0

/-- What a register holds right after reset. -/
def resetWord (a : Nat) : BitVec 32 :=
  match findReg a with
  | some r => BitVec.ofNat 32 r.resetNat
  | none => 0

end Sys2Proof.Machine
end

