-- ==== Sys2Proof/Machine/Sparse.lean ====
section
/-! DEFINITION. Sparse maps: sorted association lists in one canonical form.

A sparse map lists (key, value) pairs with strictly rising keys; a key that is not listed holds the value
`d key`, and no listed pair equals what an unlisted key would hold. Registers, coefficients and memory bytes
are all held so, and equal contents are equal data. -/

namespace Sys2Proof.Machine

/-- A sparse map from numbers to `α`. -/
abbrev SMap (α : Type) := List (Nat × α)

/-- The value at a key: the listed one, else the default of that key. -/
def SMap.get {α : Type} (d : Nat → α) : SMap α → Nat → α
  | [], k => d k
  | (j, v) :: r, k => if j = k then v else SMap.get d r k

/-- The listed value at a key, if any. -/
def SMap.find {α : Type} : SMap α → Nat → Option α
  | [], _ => none
  | (j, v) :: r, k => if j = k then some v else SMap.find r k

/-- Put a pair at its place. -/
def SMap.insert {α : Type} (k : Nat) (v : α) : SMap α → SMap α
  | [] => [(k, v)]
  | (j, w) :: r =>
    if k < j then (k, v) :: (j, w) :: r
    else if k = j then (k, v) :: r
    else (j, w) :: SMap.insert k v r

/-- Remove a key. -/
def SMap.erase {α : Type} (k : Nat) : SMap α → SMap α
  | [] => []
  | (j, w) :: r => if j = k then SMap.erase k r else (j, w) :: SMap.erase k r

/-- Store a value; a value equal to the key's default removes the entry. -/
def SMap.set {α : Type} [DecidableEq α] (d : Nat → α) (m : SMap α) (k : Nat) (v : α) : SMap α :=
  if v = d k then SMap.erase k m else SMap.insert k v m

/-- Every key of the map is above `b`, and keys rise. -/
def SMap.above {α : Type} : Nat → SMap α → Bool
  | _, [] => true
  | b, (j, _) :: r => decide (b < j) && SMap.above j r

/-- Keys rise strictly. -/
def SMap.sorted {α : Type} : SMap α → Bool
  | [] => true
  | (j, _) :: r => SMap.above j r

/-- The canonical form. -/
def SMap.wf {α : Type} [DecidableEq α] (d : Nat → α) (m : SMap α) : Bool :=
  SMap.sorted m && m.all (fun p => decide (p.2 ≠ d p.1))

/-- Store a list of values at consecutive keys. -/
def SMap.setList {α : Type} [DecidableEq α] (d : Nat → α) : SMap α → Nat → List α → SMap α
  | m, _, [] => m
  | m, k, v :: vs => SMap.setList d (SMap.set d m k v) (k + 1) vs

end Sys2Proof.Machine
end

