-- ==== Sys2Proof/Machine/State.lean ====
section
/-! DEFINITION. The state of the block as plain data, its faults and refusals, and the state after reset.

Every register word lives in `regs`, keyed by its address; what the registers do not show lives in typed parts.
Where a register is only a view of such a part (R541 q_level, XPT_COLSTATE, ...) the view is computed on reads by
Machine/Views.lean, so nothing is stored twice. -/

namespace Sys2Proof.Machine

/-! ### Commands and completions (17_command_rings.md) -/

/-- Where an outstanding command stands (R403, R405). -/
inductive Phase where
  | waiting   -- accepted, waits for its apply cycle
  | held      -- a held patch request (R62)
  | served    -- forwarded to the lead of a synced pair, which serves it (R377)
  | running   -- runs until it is stopped (a chain, a generator start)
  | fixed     -- committed, its effect runs to a fixed end
  deriving DecidableEq, Repr

/-- An outstanding command: decided and accepted, without its final completion yet. The list of these is kept in
decision order, which is the commit order of R404. -/
structure Outst where
  cmd : Cmd
  apply : Word            -- the apply cycle in force
  phase : Phase
  holds : Bool            -- holds an entry of the pending table (R402)
  left : Nat              -- objects whose end it still waits for
  due : Option Word       -- the tick at which it completes DONE, when that is fixed
  objs : List Nat         -- the single indices of its targets
  aux : List Word         -- words its own rule keeps for the completion
  deriving DecidableEq, Repr

/-- A background job (R407, R422): its command, its step and what it works on. -/
structure Job where
  cmd : Cmd
  deriving DecidableEq, Repr

/-- An abort that takes effect at the next tick (R405). -/
structure AbortReq where
  cmd : Cmd
  target : CmdRef
  tick : Word
  deriving DecidableEq, Repr

/-- Quigil state beside the CMD registers. -/
structure QState where
  fetched : List Cmd              -- fetched and not yet decided, oldest first
  ring0q : List Cmd               -- the firmware queue of ring 0 (R399)
  outst : List Outst
  jobs : List Job
  aborts : List AbortReq          -- decided aborts, waiting for their tick
  abortWaits : List AbortReq      -- aborts that wait for their target's final entry
  abortMarks : List (Nat × Nat × Cmd) -- ring and ci of a submitted target marked ABORTED before its fetch, with the abort
  drains : List CmdRef            -- running commands of draining rings, stopped at the next tick (R409)
  nightWait : List Cmd            -- audio commands that wait for wake, in arrival order (R25)
  waited : List (Nat × Nat)       -- ring and the decisions of other rings its head has waited through (R398)
  r0InCycle : Nat                  -- ring-0 commands decided in this engine cycle (R398)
  lastServed : List (Nat × Nat)   -- class and the ring served last in it
  groups : SMap (List Nat)        -- key: group; member class first, then member indices (R395, R418)
  bulkReply : List Byte           -- the reply bytes last produced
  deriving DecidableEq, Repr

/-! ### Log, faults, bus (21_faults_and_recovery.md, 20_bus_matrix.md) -/

/-- An event-log entry (R490); its CRC is computed when it is laid out. -/
structure LogEntry where
  seq : Word
  code : Nat
  ctx : Nat
  dtime : BitVec 64
  cycle : Word
  p0 : Word
  p1 : Word
  deriving DecidableEq, Repr

/-- The event log: staging in system SRAM and the flash ring (R490, R492). -/
structure LogState where
  staged : List LogEntry
  flash : List LogEntry
  lostNew : Nat          -- dropped since the last LOG_LOST entry
  marginAt : SMap Nat    -- unit: CYCLE + 1 of its last MARGIN_LOW event (R46)
  deriving DecidableEq, Repr

/-- The kinds of targeted self-test (R432, R472). -/
inductive TestKind where
  | lane | core | bank | coef | dramRow | link | portLoop | conv
  deriving DecidableEq, Repr

/-- A queued or running self-test (R471): its resource, the errors that started or joined it, and the command that asked
for it, if one did. -/
structure SelfTest where
  kind : TestKind
  res : Nat
  start : Word
  errors : Nat
  cmd : Option CmdRef
  deriving DecidableEq, Repr

/-- The steps of the recovery ladder (R479). -/
inductive Ladder where
  | retry | funcReinit | warm | cold | pwrCycle
  deriving DecidableEq, Repr

/-- A held-off ladder step (R480). -/
structure HeldStep where
  step : Ladder
  func : Nat
  deriving DecidableEq, Repr

/-- Fault bookkeeping: grade conditions (R476, R542), tests, transients, fences, resets of functions, the ladder. -/
structure FaultState where
  conds : List (Nat × Nat)            -- (cause code of R542, resource) in force
  tests : List SelfTest
  transients : List (TestKind × Nat × Word)  -- kind, resource, CYCLE of a transient mark
  lasting : List (TestKind × Nat × Nat) -- marked lasting-faulty, with the failing word; fenced at the next tick
  fenced : List (TestKind × Nat)      -- fenced resources
  spares : List (Nat × Nat)           -- words and rows on a spare: bank (memory × 16 + bank, or 96 + DRAM bank) and address
  dead : List Nat                     -- addresses of fenced words without a spare
  retested : List (TestKind × Nat)    -- resources whose cluster has had its one FUNC_REINIT (R478)
  corrected : List (Nat × Word)       -- address of a corrected ECC error and its CYCLE (R470)
  inReset : List Nat                  -- functions held in reset (R485), numbered as `Func` of Machine/Fault.lean
  held : List HeldStep
  ladder : List (Nat × Nat × Word)    -- step, function, CYCLE: the ladder history (R479)
  oflow : List (Nat × Word)           -- unit and CYCLE of its overruns (R47)
  reinits : List Word                 -- CYCLE of command-processor re-initialisations (R483)
  cpStopped : Bool                    -- the command processor is held or re-initialising (R24, R482)
  cpSince : Option Word               -- CYCLE at which it stopped
  cpTrap : Bool                       -- the stop came from a trap
  codeCrc : Word                      -- CRC of the Glehal code region recorded at boot (R482)
  kick : Word                         -- CYCLE of the latest valid watchdog kick (R513)
  deriving DecidableEq, Repr

/-- The bus matrix: the responses and the read data of the latest burst (R459), the grants at each target since its latest courtesy grant (R462),
a running lock as 32 × beats used + master (R464), and target timeouts with their CYCLE (R479). -/
structure BusState where
  lastResp : List Nat
  lastData : List Byte
  grants : SMap Nat
  lock : SMap Nat
  timeouts : List (Nat × Word)
  deriving DecidableEq, Repr

/-! ### Patch stages, crosspoint and engine buffers (02, 03) -/

/-- Where a patch entry's ramp stands (R60, R61). -/
inductive PatchPhase where
  | steady | fadeOut | fadeIn | muting | unmuting
  deriving DecidableEq, Repr

/-- Who recorded a sink's mute state, to reverse it later (R539). -/
inductive MuteRec where
  | plane | dip | nightfall | squall
  deriving DecidableEq, Repr

/-- A patch request: register push, command or image record (R62, R541). `op` is coded as PATCH_REQ1.op. -/
structure PatchReq where
  apply : Word
  op : Nat
  ld : Nat
  entry : Nat
  value : Nat
  owner : Option CmdRef
  actor : Option MuteRec         -- the mechanism of R539 that asks, if one does
  deriving DecidableEq, Repr

/-- One patch entry: keys 0–1023 are crosspoint inputs, 1024 + k is sink table index k (R59). -/
structure PatchEnt where
  sel : Nat
  connected : Bool
  muted : Bool
  phase : PatchPhase
  start : Word
  ld : Nat
  next : Option (Option Nat)     -- the new selection of a dip; `some none` is a disconnect
  owner : Option CmdRef
  held : Option PatchReq
  record : Option MuteRec
  deriving DecidableEq, Repr

/-- One crosspoint column beside its gains (R69, R70, R74): bank, ramp, copy; the cycle in which it was shed, the gains it was shed
from, and the cycle in which it returned (R499, R501). -/
structure XptCol where
  bank : Bool
  rampStart : Word
  rampLen : Nat
  copying : Bool
  shed : Option Word
  shedFrom : SMap Word
  back : Option Word
  deriving DecidableEq, Repr

/-- An entry of the swap queue (R72); `op` 0 SWAP 1 COPY, `scope` 0 column 1 group 2 all; `len` is L; the command that needs it. -/
structure XptEntry where
  apply : Word
  op : Nat
  scope : Nat
  target : Nat
  len : Nat
  owner : Option CmdRef
  deriving DecidableEq, Repr

/-- A capture buffer (R83): armed, its start cycle, samples stored, the command that armed it. -/
structure CapState where
  armed : Bool
  start : Word
  count : Nat
  owner : Option CmdRef
  deriving DecidableEq, Repr

/-- Crosspoint state beside its registers. -/
structure XptState where
  cols : SMap XptCol
  queue : List XptEntry
  caps : SMap CapState
  mtrAcc : SMap Nat        -- running sum of squares of each meter point
  mtrWin : Nat             -- the window exponent in force
  mtrStarted : Bool        -- a window is running
  peakClr : Bool           -- a peak clear waits for the next tick
  deriving DecidableEq, Repr

/-- Patch state beside its registers. -/
structure PatchState where
  ents : SMap PatchEnt
  queue : List PatchReq     -- register pushes, at most 64 (R541)
  image : List PatchReq     -- patch records of an image, waiting for their tick (R140)
  deriving DecidableEq, Repr

/-- The stage buffers of the five-stage pipeline (R39, R41, R51) outside the scratchpads, where the strips' input and output areas are. A sample's key is 32 × channel + position; the source
buffer's channel is the source ID, the emit buffer's the sink table index. -/
structure EngState where
  src : SMap Word        -- source buffer of the block captured last
  xptIn : SMap Word      -- crosspoint input buffer
  xptOut : SMap Word     -- crosspoint results
  loop1 : SMap Word      -- loopback store: blocks one, two and three ticks old (R51)
  loop2 : SMap Word
  loop3 : SMap Word
  emit : SMap Word       -- PCM words the sinks present in this cycle
  emitPrev : SMap Word   -- the last word of each sink's block before it, by sink table index
  doneUnits : List Nat   -- units that have signalled completion in this cycle (R45)
  zeroed : List Nat      -- quads that overran: kind × 256 + quad (R47)
  osOut : SMap Word      -- results of the output strips, as this cycle's output patch reads them
  deriving DecidableEq, Repr

/-! ### Alarm override plane (04_alarm_override_plane.md) -/

/-- A trigger's flags and assertion (R89, R93): `sched` holds the latched changes that wait for their tick; `started` is the
player and chain that its assertion started (R99). -/
structure Trig where
  cin : Bool
  ring0 : Bool
  twin : Bool
  asserted : Bool
  since : Word
  suspended : Bool
  wanted : Bool
  sched : List (Word × Bool)
  started : Option (Nat × Nat)
  genOn : Bool
  deriving DecidableEq, Repr

/-- A column under forcing (R95–R97, R100): its holder, or the trigger whose release ramp runs; the ramp; the gains it starts
from; the sinks the plane unmuted. -/
structure OvrCol where
  holder : Option Nat
  releasing : Option Nat
  start : Word
  len : Nat
  fromG : SMap Word
  sinks : List Nat
  deriving DecidableEq, Repr

/-- A stored override table (R108): entry and mask words by offset, the declared classes by word. -/
structure OvrTable where
  words : SMap Word
  classes : SMap Word
  crcOk : Bool
  age : Nat
  deriving DecidableEq, Repr

/-- The override plane beside its registers. -/
structure OvrState where
  trigs : SMap Trig
  cols : SMap OvrCol
  second : SMap Word            -- the secondary live copy, by offset (R106)
  armedAt : Word
  keyFails : List Word          -- CYCLE of key failures (R109)
  commitAt : Option Word        -- the tick of a passed commit (R111)
  commitBy : Option CmdRef
  stored : List OvrTable        -- the stored copies in the configuration partition (R108)
  storeLeft : Nat               -- stored copies still to be written
  deriving DecidableEq, Repr

/-! ### DSP cores (06_dsp_core.md) -/

/-- The registers of a core (R146): V by 4 × register + lane, ACC by 4 × accumulator + lane, windows by number, bindings as
0 for none and 1 + window. -/
structure CoreRegs where
  v : SMap Word
  acc : SMap (BitVec 72)
  p : SMap (BitVec 24)
  m : SMap (BitVec 24)
  wBase : SMap Nat
  wLen : SMap Nat
  bnd : SMap Nat
  lc : SMap Nat
  idx : BitVec 16
  deriving DecidableEq, Repr

/-- A running hardware loop (R167): counter, first and last bundle of the body, whether it drives IDX. -/
structure LoopFrame where
  k : Nat
  first : Nat
  last : Nat
  idx : Bool
  deriving DecidableEq, Repr

/-- A core: its registers, their values at the issue of the present bundle (R149) with the bytes that bundle has overwritten,
the bundle address, the running loops, the dispatch record it runs (kind × 256 + quad), its flags (R172, R173), and the DRAM transfers it
has queued in this engine cycle (R171). -/
structure Core where
  r : CoreRegs
  snap : CoreRegs
  old : SMap Byte
  pc : Nat
  next : Nat
  loops : List LoopFrame
  run : Option Nat
  swapF : Bool
  firstF : Bool
  dlqUsed : Nat
  dlqBytes : Nat
  deriving DecidableEq, Repr

/-- A queued DRAM transfer (R171). -/
structure DlqXfer where
  core : Nat
  pool : Nat
  sp : Nat
  len : Nat
  toPool : Bool
  deriving DecidableEq, Repr

/-- The cores and their transfer queues. -/
structure DspState where
  cores : SMap Core
  dlq : List DlqXfer
  dlqPeak : Nat
  deriving DecidableEq, Repr

/-! ### Engine images (05_engine_images.md) -/

/-- A dispatch record (R119). -/
structure DispRec where
  core : Nat
  outq : Bool
  bypass : Bool
  squall : Bool
  cls : Nat
  quad : Nat
  entry : Nat
  inArea : Nat
  outArea : Nat
  region : Nat
  bound : Nat
  deriving DecidableEq, Repr

/-- A fabric record (R118). -/
structure FabRec where
  phase : Nat
  rail : Nat
  count : Nat
  first : Nat
  deriving DecidableEq, Repr

/-- A state region (R123); `mode` 0 LOCAL, 1 EVERY, 2 ROTATE. -/
structure Region where
  id : Nat
  mode : Nat
  cluster : Nat
  dram : Bool
  base : Nat
  length : Nat
  slice : Nat
  deriving DecidableEq, Repr

/-- A parameter descriptor (R126). -/
structure ParamDesc where
  id : Nat
  woff : Nat
  size : Nat
  kind : Nat
  ramp : Nat
  deriving DecidableEq, Repr

/-- A quad's parameter block (R126). -/
structure ParamBlock where
  outq : Bool
  quad : Nat
  size : Nat
  bankA : Nat
  bankB : Nat
  defaults : List Byte
  descs : List ParamDesc
  deriving DecidableEq, Repr

/-- A block record of BOUND (R132). -/
structure BoundRec where
  start : Nat
  len : Nat
  mult : Nat
  stall : Nat
  acc : Nat
  deriving DecidableEq, Repr

/-- A parsed engine image. -/
structure Image where
  length : Nat
  fi96 : Bool
  b : Nat
  imageId : Word
  version : Word
  minStep : Nat
  keySlot : Nat
  patchApply : Bool
  xptPresent : Bool
  squallNetB : Bool
  squallAout : Nat
  fabs : List FabRec
  recs : List DispRec
  spans : List (Nat × Nat)      -- per core: offset of its code in CODE and bundle count
  code : List Byte
  regions : List Region
  init : List (Nat × List Byte)
  blocks : List ParamBlock
  bounds : List Byte
  patch : List (Nat × Nat × Nat × Nat)   -- op, Ld, entry, value (R140)
  xpt : List (Nat × Nat × Word)          -- column, input, gain
  digest : BitVec 256
  deriving DecidableEq, Repr

/-- The state of an image slot or firmware slot (R143). -/
inductive SlotState where
  | empty | writing | valid | bad
  deriving DecidableEq, Repr

/-- A flash slot's contents. -/
structure FlashSlot where
  state : SlotState
  bytes : SMap Byte
  deriving DecidableEq, Repr

/-- A quad's parameter shadow (R128). -/
inductive Shadow where
  | clean | dirty | pending | syncing
  deriving DecidableEq, Repr

/-- A quad of the running image; its key is kind × 256 + quad. `prog` says that it runs its program. The stamps name the cycle in
which it crossfades between bypass and program or between two programs (R122, R138), in which the first flag is set (R173) and in
which its swap flag is set (R172). In a switch cycle `oldRec` is the record of the old program, `oldBank` its active bank and
`oldDone` says that the old program has run. -/
structure Quad where
  disp : DispRec
  bankB : Bool
  shadow : Shadow
  owner : Option CmdRef
  swapAt : Word
  prog : Bool
  crossAt : Option Word
  firstAt : Option Word
  flipAt : Option Word
  oldRec : Option DispRec
  oldBank : Bool
  oldDone : Bool
  deriving DecidableEq, Repr

/-- Activation modes (R136). -/
inductive ActMode where
  | full | dip | seamless
  deriving DecidableEq, Repr

/-- A pending activation (R136–R139): slot, mode, its Ld, apply tick, switch tick, whether bypass has begun, whether the
load is done, the command. -/
structure Activation where
  slot : Nat
  mode : ActMode
  ld : Nat
  apply : Word
  switch : Word
  begun : Bool
  loaded : Bool
  switched : Bool
  owner : Option CmdRef
  deriving DecidableEq, Repr

/-- Images: slots, the running image, its quads, the pending activation. -/
structure ImgState where
  slots : SMap FlashSlot
  pinned : Nat
  runSlot : Nat
  running : Option Image
  quads : SMap Quad
  act : Option Activation
  oldImage : Option Image       -- the image left at a switch, until its release (R138)
  allBypass : Bool              -- a dip activation runs every quad as bypass (R139)
  imem : SMap Byte              -- instruction memories: core × 65,536 + offset
  dipSinks : List Nat           -- sinks that a dip activation muted (R139)
  fw : SMap FlashSlot           -- firmware slots
  fwRun : Nat
  deriving DecidableEq, Repr

/-! ### Memories and flash (07_memories.md) -/

/-- A Wisp region under test (R182, R183): the region and whether its march was abandoned. -/
structure WispRun where
  region : Nat
  abandoned : Bool
  deriving DecidableEq, Repr

/-- What a flash operation serves. -/
inductive FlashUse where
  | other | ovrCopy | config | log | player (n : Nat)
  deriving DecidableEq, Repr

/-- A flash request (R195): 1 read, 2 program, 3 erase; its service rank; what it serves. -/
structure FlashReq where
  op : Nat
  rank : Nat
  use : FlashUse
  deriving DecidableEq, Repr

/-- Memory state beside the MEM and FLASHC registers: corrected lanes waiting for write-back, poisoned lanes, Wisp redirections by
memory ID, memories leaving Dusk, flash requests with the one in progress first, a suspended operation. -/
structure MemState where
  writeback : List Nat
  poisoned : List Nat
  wisp : SMap WispRun
  duskWant : Nat
  waking : List Nat
  flash : List FlashReq
  suspended : Option FlashReq
  deriving DecidableEq, Repr

/-! ### Power (22_power_thermal_modes.md) -/

/-- A Nightfall entry (R504): its tick N, the steps done (1: N, 2: N + 1, 3: N + 2), its command, and what wake restores: the
Dusk and gate requests and the link lanes. -/
structure NfRun where
  tick : Word
  stage : Nat
  owner : Option CmdRef
  dusk : Nat
  gates : Nat
  lanes : Nat
  deriving DecidableEq, Repr

/-- A wake sequence (R505): 1 the event was accepted, 2 the gates are open; `tick` is W. -/
structure WakeRun where
  stage : Nat
  tick : Word
  deriving DecidableEq, Repr

/-- A change of state of a member of a synced pair that waits for its apply cycle (R31), or the end of the one cycle of RUN (R498):
the operating state's code, the shed level, the cycle. -/
structure Plan where
  st : Nat
  level : Nat
  apply : Word
  deriving DecidableEq, Repr

/-- The governor beside the PWR registers: the last eight samples of the five sensors, newest first (R496), whether Tj is at or
above warn, whether the 145 °C condition holds here and at the partner (R497, R502), a Nightfall entry or wake in progress, whether
VAUX is off for an overload (R494); the input power of the last second, newest first (R498); that PWR_TJ_MAX has been read since the
latest sample; that the system start command has come since READY (R27); a planned change of state. -/
structure PwrState where
  sensors : List (List (BitVec 16))
  warned : Bool
  hot2 : Bool
  nf : Option NfRun
  wake : Option WakeRun
  auxOff : Bool
  phot2 : Bool
  pins : List (BitVec 16)
  tjFresh : Bool
  started : Bool
  plan : Option Plan
  deriving DecidableEq, Repr


/-! ### Boot and security (19_boot_host_security.md) -/

/-- What the configuration partition keeps of a firmware slot (R440): confirmed, start count, trial-failed. -/
structure FwMeta where
  confirmed : Bool
  starts : Nat
  trialFailed : Bool
  deriving DecidableEq, Repr

/-- Security state beside the SEC registers. -/
structure SecState where
  otp : SMap (BitVec 256)       -- OTP key hashes; all-zero is empty (R452)
  keys : SMap (List Byte)       -- verified keys in the protected key store (R439)
  akey : Option (List Byte)     -- the committed alarm key
  mkey : List Byte              -- the management key
  lastSeq : SMap Word           -- last accepted sequence under each key in this epoch: 0 management, 1 alarm
  seen : List Nat               -- keys under which a datagram has been accepted in this epoch
  txSeq : SMap Word             -- own sequence last used under each key (R450)
  wpFails : List Word           -- CYCLE of wrong unlock credentials (R454)
  fwMeta : SMap FwMeta
  mgmt : List CmdRef            -- outstanding management commands (R451)
  deriving DecidableEq, Repr

/-- Boot state. `step` is the last step of R437 reached: 0 OFF, 1 supply, 2 rails, 3 IRC qualified, 4 crystal qualified, 5 PLL
locked, 6 DRAM trained, 7 Glehal started, 8 READY. `pins` the straps as driven; `sampled` that this boot has sampled TWINEN and UNITSEL;
`retries` failed CLOCK-WAIT retries in a row; `cutoff` that
the regulator cut power (R497); `heads` the messages whose pinned head is in DRAM (R441); `fallback` firmware slots that failed in this
boot; `resetReq` the cause of a reset accepted for the next tick (R511); `twpc` that a power cycle by TWPC_IN is to be logged after boot
(R369). -/
structure BootState where
  step : Nat
  porstHigh : Bool
  vsysOk : Bool
  pins : Straps
  sampled : Bool
  retries : Nat
  cutoff : Bool
  heads : List Nat
  fallback : List Nat
  resetReq : Option Nat
  twpc : Bool
  deriving DecidableEq, Repr

/-- The quad-SPI port and the TAP: the err bit, the write buffer with its address (wbusy while it is held), the word a late read has
latched, the bytes and the word the latest transaction returned, whether the TAP holds the pins (EXTEST) or the command processor. -/
structure PortState where
  err : Bool
  wbuf : Option (Word × List Byte)
  latch : Option (Word × Word)
  out : List Byte
  tap : Word
  extest : Bool
  halted : Bool
  deriving DecidableEq, Repr


/-! ### Decimation and rate conversion (08_decimation_and_rate_conversion.md) -/

/-- A decimation channel beside its registers: scheduled starts and stops with their apply cycles, the start or stop in progress
with its tick A, a stop during SETTLING, the FIFO, whether a window (or its skip) runs, the latest output. -/
structure DecChan where
  starts : List (Word × Option CmdRef)
  stops : List (Word × Option CmdRef)
  owner : Option CmdRef
  tickA : Word
  quitting : Bool
  fifo : List Word
  win : Bool
  out : BitVec 24
  deriving DecidableEq, Repr

/-- A ratio tracker beside its registers: the state and ratio that the next tick brings, the cycle of its last entry into or exit
from LOCKED. -/
structure Track where
  next : Option (Nat × Word)
  since : Word
  wasLocked : Bool
  deriving DecidableEq, Repr

/-- Decimation and rate conversion: channels, the settings that the timers run with, trackers. -/
structure DecState where
  chans : SMap DecChan
  tmr : SMap Word
  tracks : SMap Track
  deriving DecidableEq, Repr


/-! ### Serial ports (09_serial_audio_ports.md) -/

/-- A slot's gate (R227, R228): open or closed, and the cycle and position at which it last changed, by a crossing or by a ramp over
that cycle's block. -/
structure Gate where
  isOpen : Bool
  cyc : Word
  pos : Nat
  ramp : Bool
  deriving DecidableEq, Repr

/-- A serial port beside its registers: scheduled starts, stops and mutes (true mutes), the start or stop in progress, whether a
slave's frames are aligned, the data tick D, the tick E of a stop, the end of LEAD-OUT, the gates, the latest mute change, the
state before LOST, a mask commit that waits for its frame boundary. -/
structure SpPort where
  starts : List (Word × Option CmdRef)
  stops : List (Word × Option CmdRef)
  mutes : List (Word × Bool × Option CmdRef)
  owner : Option CmdRef
  muteOwner : Option CmdRef
  aligned : Bool
  dataTick : Option Word
  rampIn : Option Word
  stopAt : Option Word
  leadEnd : Option Word
  gates : SMap Gate
  muteAt : Option Word
  prev : Nat
  masks : Option (Word × Word)
  maskOwner : Option CmdRef
  deriving DecidableEq, Repr


/-! ### Analog and field interfaces (10_analog_and_field_io.md) -/

/-- An analog input's gain walk (R241): whether a step has fallen due, and the command that waits for the target. -/
structure GainWalk where
  due : Bool
  owner : Option CmdRef
  deriving DecidableEq, Repr

/-- An analog output's gate and the moment it closed (R244). -/
structure Aout where
  gate : Gate
  closeCyc : Word
  closePos : Nat
  deriving DecidableEq, Repr

/-- A driver beside its registers (R249–R251): retry and latch, shed for the total, trips, its last current while on, consecutive
samples with and without each fault's condition. -/
structure Drv where
  retry : Bool
  latched : Bool
  shedTotal : Bool
  trips : List Word
  last : Nat
  wireBad : Nat
  wireGood : Nat
  offBad : Nat
  offGood : Nat
  deriving DecidableEq, Repr

/-- A line monitor beside its registers (R253, R254): the present condition (0 good, 1 open, 2 short, 3 no pilot), whether there is
one, learning: estimates taken, their sum, whether one had no pilot, the command. -/
structure LineMon where
  cond : Nat
  count : Nat
  learn : Option Nat
  learnSum : Nat
  learnBad : Bool
  owner : Option CmdRef
  deriving DecidableEq, Repr

/-- Analog and field state beside the ANA and SUP registers: gain walks, analog outputs, consecutive equal samples of each contact
input, drivers, monitors, GPIO functions and levels in force. -/
structure FieldState where
  walks : SMap GainWalk
  aouts : SMap Aout
  cinRun : SMap Nat
  drvs : SMap Drv
  mons : SMap LineMon
  gpioFunc : BitVec 48
  gpioOut : BitVec 24
  deriving DecidableEq, Repr



/-! ### Messages, generators and the estimator (11_messages_generators_visibility.md) -/

/-- A message of the store (R257): its directory entry, whether a write is open, the CRC the host announced, its data by byte offset. -/
structure MsgEntry where
  valid : Bool
  alarm : Bool
  rate96 : Bool
  bad : Bool
  writing : Bool
  fallback : Nat
  length : Nat
  offset : Word
  crc : Word
  data : SMap Byte
  deriving DecidableEq, Repr

/-- A chain step (R261). -/
structure ChainStep where
  kind : Nat
  rep : Nat
  arg : Nat
  gap : Nat
  deriving DecidableEq, Repr

/-- What a running chain delivers: the start of a step, samples of a play, the gap after a play, a silence, nothing more. -/
inductive PlaySeg where
  | enter | play | gap | silence | overs
  deriving DecidableEq, Repr

/-- A running chain (R265, R266): who started it, the cycle whose block holds its first sample, its place among all starts, whether
that sample has fallen due, and where it stands (R262). `plays` is 0 in a step without end; `jumps` counts each GOTO's jumps. -/
structure PlayRun where
  chain : Nat
  cls : Nat
  trig : Option Nat
  owner : Option CmdRef
  firstAt : Word
  ord : Nat
  begun : Bool
  step : Nat
  seg : PlaySeg
  left : Nat
  plays : Nat
  msg : Nat
  pos : Nat
  jumps : SMap Nat
  deriving DecidableEq, Repr

/-- A player: the chain it runs, the chain that ramps out (ENDING), whether the present block underran, the samples of the present
block delivered so far. -/
structure Player where
  run : Option PlayRun
  ending : Option PlayRun
  starved : Bool
  part : List Word
  deriving DecidableEq, Repr

/-- A generator (R272–R276): running, the level at the end of the last block and of this one, frequency word, phase, LFSR, pink
rows, samples so far, pattern segment and position in it, whether the pattern is in its first pass, the present block so far. -/
structure Gen where
  on : Bool
  fromG : Word
  level : Word
  freq : Word
  phase : Word
  lfsr : Word
  rows : SMap Word
  n : Nat
  seg : Nat
  pos : Nat
  looped : Bool
  part : List Word
  deriving DecidableEq, Repr

/-- An estimator zone's corrections in units of 0.01 dB (R281). -/
structure VisZone where
  gVis : Nat
  gAmb : Nat
  tilt : Int
  deriving DecidableEq, Repr

/-- Message store, players, generators, zones; `starts` counts starts. -/
structure MsgState where
  dir : SMap MsgEntry
  chains : SMap (List ChainStep)
  players : SMap Player
  gens : SMap Gen
  zones : SMap VisZone
  starts : Nat
  deriving DecidableEq, Repr


/-! ### Clocks and references (14_clocks_and_references.md) -/

/-- A reference monitor beside REF_MONk (R341, R342): qualifying measurements so far; consecutive measurements beyond soft, within
soft, beyond hard; the media clock's mean at the first of those beyond hard. -/
structure Mon where
  good : Nat
  softOut : Nat
  softIn : Nat
  hardOut : Nat
  held : Word
  deriving DecidableEq, Repr

/-- The reference unit beside its registers: monitors; consecutive disagreements of each other reference with the selected one
(R343); the media-clock state and the selection that the next tick brings (R337, R344); whether it has locked since boot (R336);
the mean to hold; the offset PPS_OUT runs with; whether a pulse has been sent; pulses sent. -/
structure RefState where
  mons : SMap Mon
  dis : SMap Nat
  mcNext : Option Nat
  ever : Bool
  mean : Word
  ppsOfs : Word
  ppsSeen : Bool
  ppsCount : Nat
  deriving DecidableEq, Repr


/-! ### Streams and network frames (12_network_streams.md) -/

/-- A frame that the block put on a port: stream packets whole, other protocols by what they say. -/
inductive NetFrame where
  | stream (port s : Nat) (bytes : List Byte)
  | igmp (port : Nat) (v2 leave : Bool) (group src : Word)
  | arp (port : Nat) (ip : Word)
  | sap (port s : Nat) (delete : Bool)
  | ptp (port kind seq : Nat)
  | beacon (port : Nat) (bytes : List Byte)
  | mgmt (dst : Word) (bytes : List Byte)
  deriving DecidableEq, Repr

/-- A stream beside its registers: scheduled starts and stops; the commands of the start and the stop in progress; the ticks of the
start, the stop and the latest resynchronisation; suspensions (1 NETA, 2 NETB, 4 the device's state); for transmit the frames not yet
sent, each with its engine cycle and timestamp, the next timestamp, and whether a last packet is left; for receive the block that ramps in, the
placed samples by timestamp modulo 16,384, the sequence numbers accepted last, the heard units' claims, whether a packet has come. -/
structure Strm where
  starts : List (Word × Option CmdRef)
  stops : List (Word × Option CmdRef)
  owner : Option CmdRef
  stopOwner : Option CmdRef
  startAt : Option Word
  stopAt : Option Word
  resync : Option Word
  susp : Nat
  buf : List (Word × Word × List Word)
  ts : Word
  tail : Bool
  rampIn : Option Word
  ring : SMap (Word × List Word)
  seqs : List (BitVec 16)
  units : SMap (BitVec 16)
  got : Bool
  deriving DecidableEq, Repr

/-- A cached SAP announcement (R307). -/
structure SapEntry where
  origin : Word
  text : List Byte
  deriving DecidableEq, Repr

/-- Network state: streams (transmit s, receive 128 + s); stream words that the next tick shows; the frames sent by the latest
command; reports to repeat (port, leave, group, source); the ports whose querier runs IGMPv2; the SAP cache; transmit streams to
resume after a downgrade, last suspended first. -/
structure NetState where
  strms : SMap Strm
  shadow : SMap Word
  sent : List NetFrame
  repeats : List (Nat × Bool × Word × Word)
  v2 : List Nat
  sap : List SapEntry
  downs : List (Nat × Nat)
  back : List Nat
  deriving DecidableEq, Repr

/-! ### Network time (13_network_time.md) -/

/-- The best master a port hears: grandmaster identity and its data set as R312 compares it (smaller is better), steps removed last. -/
structure PtpMaster where
  gm : BitVec 64
  rank : List Nat
  deriving DecidableEq, Repr

/-- A PTP port: the master it hears, a two-step Sync that waits for its Follow_Up (sequence, receive stamp, correction), a
Delay_Req sent (sequence, stamp), the latest master-to-slave time, its mean path delay, sequence numbers of Sync, Announce and
Delay_Req. -/
structure PtpPort where
  best : Option PtpMaster
  sync : Option (Nat × Int × Int)
  dreq : Option (Nat × Int)
  tms : Option Int
  mpd : Int
  seqs : SMap Nat
  deriving DecidableEq, Repr

/-- The time unit beside its registers: DTIME and its fraction in units of 1 / 65,536,000,000 ns; the latest measurements, newest
first; consecutive ones beyond and within the threshold; the divergence flag; a scheduled step: tick, amount, whether it is a re-step,
its command; a re-step command that completes at a tick, with its step; the offset, path delay and rate that the next tick shows; the
PASSIVE port's latest offset; the latest step and its tick. -/
structure PtpState where
  dtime : BitVec 64
  dfrac : Nat
  meas : List Int
  overs : Nat
  under : Nat
  diverged : Bool
  step : Option (Word × Int × Bool × Option CmdRef)
  done : Option (Word × Int × CmdRef)
  ports : SMap PtpPort
  show3 : Option (Word × Word × Word)
  passive : Option Int
  lastStep : Int
  stepTick : Option Word
  deriving DecidableEq, Repr


/-! ### The twin pair (15_twin_claims_and_outputs.md, 16_twin_lockstep.md) -/

/-- A frame of the Ceiling bus as this unit sends it (R354), its CRC computed when it is laid out. -/
structure BusFrame where
  claim : BitVec 16
  stat : BitVec 4
  trig : BitVec 8
  deriving DecidableEq, Repr

/-- A running attach (R381): as the source or the receiver; the cut-over tick and the source's operating state once they are named. -/
structure Attach where
  source : Bool
  cut : Option Word
  st : Nat
  deriving DecidableEq, Repr

/-- A mismatch under decision (R379): its cycle, the own verdict once sent and the partner's once received, each as (a self-test
failed, an error was detected). -/
structure Mismatch where
  d : Word
  mine : Option (Bool × Bool)
  theirs : Option (Bool × Bool)
  deriving DecidableEq, Repr

/-- Pair state beside the PAIR registers. Paths: 0 Ceiling bus, 1 mirror link, 2 beacon.
`claims` holds the latest claim of each live path, newest first; `role` a handover tick and whether the unit becomes the winner (R352);
`provisional` of R366; `rel` the release bit that the next frame sends; `free` that the shared digital pins may be driven without a
probe (R365), `taken` the outputs taken after one (R361, R363, R366); `withheld` the home bit of R385; `yielding` and `demoted` show
grade 0 in the claim (R431, R380), `reinit` grade 1 until a function can be re-initialised (R481); `pstate`, `pgrade`, `pcycle` the partner's attach state, grade and cycle as last heard, `opened`
that its CYCLE_OPEN came in this cycle, `closed` the INPUT blocks its CYCLE_CLOSE counted, `mdtime` its DTIME (R322).
`frames` the Ceiling bus frames by line, `lostArb` lines that lost arbitration, `abandoned` frames abandoned (R355); `asked` the
twin requests queued so far, `twinOut` changes not yet sent (R357); `link` the records to send in CMD; `pulses` the cycles of TWPC_OUT pulses, each with whether it was automatic.
`mirrorIn` the lead's words of the block being captured, by source ID × 32 + position, for the positions in `mirrorPos`; `mirrorBias`
the lead's bias states; `snap` memory as the latest tick left it (R376); `psigs`, `devDiff`, `stateDiff`, `drvDiff` what the partner's
frames of this cycle showed; `words` PAIR words that the next tick shows. -/
structure PairState where
  linesLost : List Nat
  busLost : Bool
  claims : List (Nat × BitVec 16)
  silent : Bool
  beaconLost : Bool
  beaconSeq : Option (BitVec 16)
  beaconOut : Nat
  beaconDrops : Nat
  conflict : Bool
  role : Option (Word × Bool)
  provisional : Bool
  rel : Bool
  free : Bool
  taken : List SharedOut
  withheld : Bool
  yieldBy : Option CmdRef
  yielding : Bool
  demoted : Bool
  reinit : Option Nat
  pstate : Nat
  pgrade : Nat
  pcycle : Word
  opened : Bool
  closed : Option Nat
  mdtime : BitVec 64
  frames : SMap BusFrame
  lostArb : List Nat
  abandoned : Nat
  asked : List Nat
  twinOut : List (Nat × Bool)
  link : List LinkRec
  hold : Bool
  pulses : List (Word × Bool)
  railOff : Bool
  attach : Option Attach
  attachCmd : Option CmdRef
  fails : List Word
  demotions : List Word
  takeCycle : Bool
  mis : Option Mismatch
  psigs : Option (List (BitVec 64))
  mirrorIn : SMap Word
  mirrorPos : List Nat
  mirrorBias : List Nat
  snap : SMap Byte
  devDiff : Bool
  stateDiff : Option Nat
  drvDiff : Bool
  lostAt : Option Word
  syncedAt : Word
  words : SMap Word
  deriving DecidableEq, Repr

/-- Why a step stops with a fault. -/
inductive Fault where
  /-- Raised by a meaning whose operand is no operand of the command (WellFormed.lean refuses it): a burst of no beat or
  more than sixteen. Safe: the hardware has no such command. -/
  | illFormed
  deriving DecidableEq, Repr

/-- Why a command has no meaning. -/
inductive Refusal where
  /-- The command has no meaning in this model yet. Raised by Dispatch.lean alone. Safe. -/
  | notModelled (mnemonic : String)
  deriving DecidableEq, Repr

/-- The machine. -/
structure State where
  pending : List Instr          -- the commands that wait, first in, first out
  regs : SMap Word              -- every register word, by address
  mem : SMap Byte               -- boot ROM, system SRAM, scratchpads, DRAM, by matrix address
  coef : SMap Word              -- coefficient memory: (address − 0x3000_0000) / 4 (R69)
  free : Nat                    -- the model's own: how many free values have been drawn
  xpt : XptState
  patch : PatchState
  eng : EngState
  ovr : OvrState
  dsp : DspState
  img : ImgState
  ms : MemState
  lastRead : Word               -- data of the latest read of a register that has its own row
  q : QState
  log : LogState
  flt : FaultState
  bus : BusState
  pwr : PwrState
  sec : SecState
  boot : BootState
  spi : PortState
  dec : DecState
  sp : SMap SpPort
  field : FieldState
  msg : MsgState
  ref : RefState
  net : NetState
  ptp : PtpState
  pair : PairState
  deriving DecidableEq, Repr

/-- The machine right after reset: step 1 of R437, the supply just risen with PORST_N high. Every register word is at its reset value
(`resetWord`), every queue empty, memory unlisted; the straps are not sampled yet. -/
def State.reset : State :=
  { pending := []
    regs := []
    mem := []
    coef := []
    free := 0
    xpt := ⟨[], [], [], [], 0, false, false⟩
    patch := ⟨[], [], []⟩
    eng := ⟨[], [], [], [], [], [], [], [], [], [], []⟩
    ovr := ⟨[], [], [], 0, [], none, none, [], 0⟩
    dsp := ⟨[], [], 0⟩
    img := ⟨[], 0, 0, none, [], none, none, false, [], [], [], 0⟩
    ms := ⟨[], [], [], 0, [], [], none⟩
    lastRead := 0
    q := { fetched := [], ring0q := [], outst := [], jobs := [], aborts := [], abortWaits := [], abortMarks := []
           drains := [], nightWait := [], waited := [], r0InCycle := 0, lastServed := [], groups := [], bulkReply := [] }
    log := ⟨[], [], 0, []⟩
    flt := { conds := [], tests := [], transients := [], lasting := [], fenced := [], spares := [], dead := []
             retested := [], corrected := [], inReset := [], held := [], ladder := [], oflow := [], reinits := []
             cpStopped := false, cpSince := none, cpTrap := false, codeCrc := 0, kick := 0 }
    bus := ⟨[], [], [], [], []⟩
    pwr := ⟨[], false, false, none, none, false, false, [], true, false, none⟩
    sec := ⟨[], [], none, [], [], [], [], [], [], []⟩
    boot := { step := 1, porstHigh := true, vsysOk := true, pins := ⟨0, false, false, 0⟩, sampled := false, retries := 0, cutoff := false, heads := [], fallback := [], resetReq := none, twpc := false }
    spi := ⟨false, none, none, [], 0, false, false⟩
    dec := ⟨[], [], []⟩
    sp := []
    field := ⟨[], [], [], [], [], 0, 0⟩
    msg := ⟨[], [], [], [], [], 0⟩
    ref := ⟨[], [], none, false, 0, 0, false, 0⟩
    net := ⟨[], [], [], [], [], [], [], []⟩
    ptp := ⟨0, 0, [], 0, 0, false, none, none, [], none, none, 0, none⟩
    pair := { linesLost := [], busLost := false, claims := [], silent := false, beaconLost := false, beaconSeq := none
              beaconOut := 0, beaconDrops := 0, conflict := false, role := none, provisional := false, rel := false
              free := false, taken := [], withheld := false, yieldBy := none, yielding := false, demoted := false
              reinit := none, pstate := 0, pgrade := 0, pcycle := 0, opened := false, closed := none, mdtime := 0
              frames := [], lostArb := [], abandoned := 0, asked := [], twinOut := [], link := [], hold := false
              pulses := [], railOff := false, attach := none, attachCmd := none, fails := [], demotions := []
              takeCycle := false, mis := none, psigs := none, mirrorIn := [], mirrorPos := [], mirrorBias := []
              snap := [], devDiff := false, stateDiff := none, drvDiff := false, lostAt := none, syncedAt := 0
              words := [] } }

end Sys2Proof.Machine
end

