-- ==== Sys2Proof/Machine/Ops.lean ====
section
/-! DEFINITION. The named operations over registers and memory that every meaning uses: reading and writing a register or
a field, status flags, memory bytes and words, time, the event log, the fault grade and its conditions. -/

namespace Sys2Proof.Machine

/-- What a meaning answers. -/
abbrev Res : Type := Host.Outcome State Fault Refusal

/-! ### Registers -/

/-- The stored word of a register. -/
def State.reg (s : State) (a : Nat) : Word := SMap.get resetWord s.regs a

/-- Store a whole register word. -/
def State.setReg (s : State) (a : Nat) (v : Word) : State :=
  { s with regs := SMap.set resetWord s.regs a v }

/-- A field of a word. -/
def getFld (f : Fld) (w : Word) : Nat := (w.extractLsb' f.lo f.width).toNat

/-- A word with one field replaced; the field takes the low bits of the number. -/
def putFld (f : Fld) (w : Word) (v : Nat) : Word :=
  BitVec.ofNat 32 (w.toNat - getFld f w * 2 ^ f.lo + (v % 2 ^ f.width) * 2 ^ f.lo)

/-- Read a field. -/
def State.rd (s : State) (f : Fld) : Nat := getFld f (s.reg f.addr)

/-- Write a field; the rest of its register stays. -/
def State.wr (s : State) (f : Fld) (v : Nat) : State := s.setReg f.addr (putFld f (s.reg f.addr) v)

/-- Whether a one-bit field is set. -/
def State.isSet (s : State) (f : Fld) : Bool := s.rd f != 0

/-- Write a field from a Boolean. -/
def State.wrB (s : State) (f : Fld) (b : Bool) : State := s.wr f (b2n b)

/-- Set a status bit. -/
def State.set1 (s : State) (f : Fld) : State := s.wr f 1

/-- Add to a counter field that stops at its greatest value. -/
def State.bump (s : State) (f : Fld) (k : Nat) : State :=
  s.wr f (bumpTo (2 ^ f.width - 1) (s.rd f) k)

/-- Add to a counter field that wraps. -/
def State.wrapInc (s : State) (f : Fld) (k : Nat) : State := s.wr f (s.rd f + k)

/-- Write a list of words at consecutive register addresses. -/
def State.setRegs (s : State) (a : Nat) : List Word → State
  | [] => s
  | w :: ws => State.setRegs (s.setReg a w) (a + 4) ws

/-- Do something for each number below `n`, in ascending order. -/
def upTo (n : Nat) (f : Nat → State → State) (s : State) : State :=
  (List.range n).foldl (fun acc i => f i acc) s

/-- Do something for each element of a list, in order. -/
def forAll {α : Type} (l : List α) (f : α → State → State) (s : State) : State :=
  l.foldl (fun acc x => f x acc) s

/-! ### Memory -/

/-- What a byte of memory that nothing has written reads as. DESIGN CHOICE: zero (notes/assumptions/3.md). -/
def memDefault : Nat → Byte := fun _ => 0

/-- What a coefficient, a sample or any other sparse word that nothing has written reads as. -/
def zeroWord : Nat → Word := fun _ => 0

/-- Read one byte. -/
def State.byte (s : State) (a : Nat) : Byte := SMap.get memDefault s.mem a

/-- Whether an address lies in a word or DRAM row that is fenced without a spare: it reads 0 whatever is written (R474). -/
def deadAt (dead : List Nat) (a : Nat) : Bool :=
  dead.any (fun w => if 0x80000000 ≤ a then w / 8192 = a / 8192 else w / 4 = a / 4)

/-- Store consecutive bytes, but where a word is fenced. -/
def putBytes (dead : List Nat) : SMap Byte → Nat → List Byte → SMap Byte
  | m, _, [] => m
  | m, a, b :: bs => putBytes dead (if deadAt dead a then m else SMap.set memDefault m a b) (a + 1) bs

/-- Write consecutive bytes. -/
def State.setBytes (s : State) (a : Nat) (bs : List Byte) : State :=
  { s with mem := putBytes s.flt.dead s.mem a bs }

/-- Write one byte. -/
def State.setByte (s : State) (a : Nat) (v : Byte) : State := s.setBytes a [v]

/-- Read consecutive bytes. -/
def State.bytes (s : State) (a n : Nat) : List Byte := (List.range n).map (fun i => s.byte (a + i))

/-- Read a little-endian word of memory (R1). -/
def State.memWord (s : State) (a : Nat) : Word := BitVec.ofNat 32 (leNat (s.bytes a 4))

/-- Write a little-endian word of memory. -/
def State.setMemWord (s : State) (a : Nat) (w : Word) : State := s.setBytes a (bytesOfWord w)

/-- Write consecutive words of memory. -/
def State.setMemWords (s : State) (a : Nat) (ws : List Word) : State := s.setBytes a (bytesOfWords ws)

/-- Index of a sample: 32 × channel + position. -/
def smp (ch p : Nat) : Nat := ch * 32 + p

/-- Draw a free value: the next opaque number, and the counter moves on. -/
def State.drawFree (s : State) : Word × State :=
  (Config.freeValue s.free, { s with free := s.free + 1 })

/-! ### Engine time -/

/-- The CYCLE counter (R36): ENG_CYCLE holds it. -/
def State.cycle (s : State) : Word := s.reg ENG_CYCLE

/-- Samples per engine cycle, B (R32). -/
def State.blk (s : State) : Nat := s.rd ENG_CFG.b

/-- The internal rate Fi in hertz (R32). -/
def State.fi (s : State) : Nat := if s.isSet ENG_CFG.fi then 96000 else 48000

/-- Engine cycles in a number of milliseconds, rounded down. -/
def State.cyclesOfMs (s : State) (ms : Nat) : Nat := ms * s.fi / (1000 * s.blk)

/-- The operating states, coded as R417. -/
inductive OpState where
  | off | boot | clockWait | ready | run | squall | nightfall | faultHold
  deriving DecidableEq, Repr

/-- The code of an operating state (R417). -/
def OpState.code : OpState → Nat
  | .off => 0 | .boot => 1 | .clockWait => 2 | .ready => 3
  | .run => 4 | .squall => 5 | .nightfall => 6 | .faultHold => 7

/-- The operating state of a code. -/
def OpState.ofCode : Nat → OpState
  | 0 => .off | 1 => .boot | 2 => .clockWait | 3 => .ready
  | 4 => .run | 5 => .squall | 6 => .nightfall | _ => .faultHold

/-- The operating state (R25); SYS_STATE.state holds its code. -/
def State.op (s : State) : OpState := OpState.ofCode (s.rd SYS_STATE.state)

/-- Whether engine cycles run in the present state (R25). -/
def State.engineRuns (s : State) : Bool :=
  s.op = .ready || s.op = .run || s.op = .squall || s.op = .nightfall

/-- Whether the override plane is armed (R25). -/
def State.planeArmed (s : State) : Bool := s.engineRuns

/-! ### Event log (R490–R492) -/

/-- The most entries that staging holds (R492). -/
def stagingSize : Nat := 4096

/-- Append an entry to staging, with its sequence number. -/
def State.stageEntry (s : State) (code : Nat) (p0 p1 : Word) : State :=
  let e : LogEntry :=
    { seq := s.reg LOG_NEXT
      code := code
      ctx := s.rd SYS_STATE.state + 8 * s.rd SYS_STATE.grade + 64 * s.rd SYS_STATE.unit
      dtime := s.ptp.dtime
      cycle := s.cycle
      p0 := p0
      p1 := p1 }
  let s1 := { s with log := { s.log with staged := s.log.staged ++ [e] } }
  (s1.setReg LOG_NEXT (s.reg LOG_NEXT + 1)).wr LOG_STAGED.count (s.rd LOG_STAGED.count + 1)

/-- Log one event (R490–R492): when staging is full it is dropped and counted; at the first free slot a LOG_LOST entry
with the count goes ahead of it. -/
def State.event (s : State) (code : Nat) (p0 p1 : Word) : State :=
  if s.rd LOG_STAGED.count ≥ stagingSize then
    let s1 := { s with log := { s.log with lostNew := s.log.lostNew + 1 } }
    (s1.bump LOG_LOST.count 1).set1 LOG_STATUS.lost
  else if s.log.lostNew > 0 then
    let s1 := s.stageEntry 0x4302 0 (BitVec.ofNat 32 s.log.lostNew)
    let s2 := { s1 with log := { s1.log with lostNew := 0 } }
    if s2.rd LOG_STAGED.count ≥ stagingSize then
      let s3 := { s2 with log := { s2.log with lostNew := 1 } }
      (s3.bump LOG_LOST.count 1).set1 LOG_STATUS.lost
    else s2.stageEntry code p0 p1
  else s.stageEntry code p0 p1

/-- The event of a fault for which the spec names no code: a free value (R491 gives none). -/
def State.eventFree (s : State) (p0 p1 : Nat) : State :=
  let (v, s1) := s.drawFree
  s1.event (v.toNat % 65536) (BitVec.ofNat 32 p0) (BitVec.ofNat 32 p1)

/-- Set a status bit that also logs an event (R491): block ID × 256 + 0x80 + bit, p0 the instance, p1 the detail. -/
def State.flagEvent (s : State) (f : Fld) (inst detail : Nat) : State :=
  (s.set1 f).event ((f.addr / 0x10000 % 256) * 256 + 0x80 + f.lo) (BitVec.ofNat 32 inst) (BitVec.ofNat 32 detail)

/-! ### Fault grade (R475–R477, R542) -/

/-- The grade that a condition gives (R476), by its cause code of R542. -/
def gradeOfCause (c : Nat) : Nat :=
  if c = 0 then 7
  else if c ≤ 5 then 6
  else if c ≤ 11 then 5
  else if c ≤ 14 then 3
  else if c = 15 then 1
  else 0

/-- The fault grade that a set of conditions gives: the lowest. -/
def gradeOf (conds : List (Nat × Nat)) : Nat := conds.foldl (fun g c => min g (gradeOfCause c.1)) 7

/-- The lowest cause code among the conditions that give a grade (R542). -/
def causeOf (conds : List (Nat × Nat)) (g : Nat) : Nat :=
  (conds.filter (fun c => gradeOfCause c.1 == g)).foldl (fun m c => if m = 0 then c.1 else min m c.1) 0

/-- Bring the grade in line with the conditions in force, logging a change (R477). -/
def State.regrade (s : State) : State :=
  let g := gradeOf s.flt.conds
  let old := s.rd SYS_STATE.grade
  if g = old then s
  else (s.wr SYS_STATE.grade g).event 0x0003 (BitVec.ofNat 32 old) (BitVec.ofNat 32 (causeOf s.flt.conds g))

/-- A condition comes into force: a lower grade applies at once. -/
def State.raiseCond (s : State) (cause res : Nat) : State :=
  if (cause, res) ∈ s.flt.conds then s
  else
    let s1 := { s with flt := { s.flt with conds := (cause, res) :: s.flt.conds } }
    if gradeOf s1.flt.conds < s1.rd SYS_STATE.grade then s1.regrade else s1

/-- A condition clears: the grade rises at the next tick (R476). -/
def State.clearCond (s : State) (cause res : Nat) : State :=
  { s with flt := { s.flt with conds := s.flt.conds.filter (fun c => c != (cause, res)) } }

/-- The tester's queue limit (R471). -/
def testerQueue : Nat := 16

/-- The code of a test kind (R432). -/
def TestKind.code : TestKind → Nat
  | .lane => 0 | .core => 1 | .bank => 2 | .coef => 3 | .dramRow => 4 | .link => 5 | .portLoop => 6 | .conv => 7

/-- The tester of a test (R471): one per cluster for CORE and BANK, one for system SRAM, one each otherwise. Resources of
BANK tests are numbered memory × 8192 + region, of CORE tests cluster × 8 + core. -/
def testerOf (k : TestKind) (res : Nat) : Nat :=
  match k with
  | .core => 16 + res / 8
  | .bank => 32 + res / 8192
  | k => k.code

/-- A transient of a resource (R473), and whether it is the third within 10 s. -/
def State.addTransient (s : State) (k : TestKind) (res : Nat) : State × Bool :=
  let near := s.flt.transients.filter (fun x => since s.cycle x.2.2 < s.cyclesOfMs 10000)
  let s1 := { s with flt := { s.flt with transients := (k, res, s.cycle) :: near } }
  (s1, (near.filter (fun x => x.1 = k && x.2.1 = res)).length ≥ 2)

/-- Mark a resource lasting-faulty, with the failing word: it is fenced at the next tick (R474). -/
def State.markLasting (s : State) (k : TestKind) (res word : Nat) : State :=
  { s with flt := { s.flt with lasting := s.flt.lasting ++ [(k, res, word)] } }

/-- Start a targeted self-test for an error (R470, R471): it joins a queued or running test of the resource; a full tester
queue counts a transient without a test and logs SELFTEST with result 3. -/
def State.startTest (s : State) (k : TestKind) (res : Nat) : State :=
  if s.flt.tests.any (fun t => t.kind = k && t.res = res) then
    { s with flt := { s.flt with tests := s.flt.tests.map (fun t =>
        if t.kind = k && t.res = res then { t with errors := t.errors + 1 } else t) } }
  else if (s.flt.tests.filter (fun t => testerOf t.kind t.res = testerOf k res)).length ≥ testerQueue then
    let s1 := s.event 0x0007 (BitVec.ofNat 32 (k.code * 65536 + res)) 3
    let (s2, third) := s1.addTransient k res
    if third then s2.markLasting k res (res * 1024) else s2
  else
    { s with flt := { s.flt with tests := s.flt.tests ++ [⟨k, res, s.cycle, 1, none⟩] } }

/-- The present operating state changes, with a STATE event (R491). -/
def State.goto (s : State) (t : OpState) : State :=
  if s.op = t then s
  else (s.wr SYS_STATE.state t.code).event 0x0002 (BitVec.ofNat 32 s.op.code) (BitVec.ofNat 32 t.code)

/-- Whether the device is a member of a synced pair (R31, R78): PAIR_STATUS.synced_pair shows it. -/
def State.synced (s : State) : Bool := s.isSet PAIR_STATUS.synced_pair

/-- Whether the unit is strapped as a pair member (R347). -/
def State.twin (s : State) : Bool := s.isSet SYS_STATE.twin

end Sys2Proof.Machine
end

