-- ==== Sys2Proof/Machine/Quigil.lean ====
section
/-! DEFINITION. The Quigil command machinery (17_command_rings.md): status codes, rings, completion entries, the order of
checks of R540, apply cycles, the pending table, and the final completion of outstanding commands. -/

namespace Sys2Proof.Machine

/-! ### Status codes (R406) -/

def stDone : Nat := 0x00
def stAccepted : Nat := 0x01
def stBusy : Nat := 0x10
def stCapacity : Nat := 0x11
def stPreempted : Nat := 0x12
def stShed : Nat := 0x13
def stNotPending : Nat := 0x20
def stCancelled : Nat := 0x21
def stAborted : Nat := 0x22
def stUnavailable : Nat := 0x30
def stLinkDown : Nat := 0x31
def stBadOpcode : Nat := 0x40
def stBadTarget : Nat := 0x41
def stBadParam : Nat := 0x42
def stBadLength : Nat := 0x43
def stBadSequence : Nat := 0x44
def stNotPermitted : Nat := 0x50
def stAuthFail : Nat := 0x51
def stLocked : Nat := 0x52
def stTimeout : Nat := 0x60
def stFault : Nat := 0x70

/-! ### The command as data -/

/-- The flags of R391. -/
def Cmd.strict (c : Cmd) : Bool := c.flags.getLsbD 0
def Cmd.quiet (c : Cmd) : Bool := c.flags.getLsbD 1
def Cmd.force (c : Cmd) : Bool := c.flags.getLsbD 2
def Cmd.fence (c : Cmd) : Bool := c.flags.getLsbD 3
def Cmd.xreply (c : Cmd) : Bool := c.flags.getLsbD 4

/-- Parameter word k (R411); zero beyond the last. -/
def Cmd.p (c : Cmd) (k : Nat) : Word := c.params.getD k 0

/-- Header word index of parameter word k (R411, R412): 4 + k, or 6 + k with xreply. -/
def Cmd.pIdx (c : Cmd) (k : Nat) : Nat := if c.xreply then 6 + k else 4 + k

/-- Whether the lead of a synced pair has sent the command with its apply cycle (R377). -/
def Cmd.follows (c : Cmd) : Bool :=
  match c.origin with
  | .lead _ => true
  | _ => false

/-- The name of a command. -/
def Cmd.ref (c : Cmd) : CmdRef := ⟨c.ring.val, c.tag.toNat, c.origin⟩

/-- A command read from the words of its slots (R390, R391, R397). -/
def Cmd.ofWords (ring : Fin 16) (slot : BitVec 16) (ws : List Word) : Cmd :=
  let w (i : Nat) : Word := ws.getD i 0
  let fl := (w 0).extractLsb' 16 8
  let x := fl.getLsbD 4
  let len := (w 0).extractLsb' 24 8
  { ring := ring
    op := fieldOf (w 0) 15 0
    len := len
    flags := fl
    tag := (w 1).extractLsb' 0 16
    resv := (w 1).extractLsb' 16 16
    scope := (w 2).extractLsb' 30 2
    cls := (w 2).extractLsb' 24 6
    index := (w 2).extractLsb' 0 24
    apply := w 3
    xaddr := if x then w 4 else 0
    xlen := if x then w 5 else 0
    params := (ws.take len.toNat).drop (if x then 6 else 4)
    slot := slot
    origin := .ring }

/-! ### Rings -/

/-- Slots of a ring, S (R387): size codes 0–4 are 16–256. -/
def State.ringSize (s : State) (n : Nat) : Nat := 16 * 2 ^ (s.rd (CMD_RING_CFG.size n))

def State.ringOff (s : State) (n : Nat) : Bool := s.rd (CMD_RING_STAT.state n) == 0
def State.ringRun (s : State) (n : Nat) : Bool := s.rd (CMD_RING_STAT.state n) == 1
def State.ringDraining (s : State) (n : Nat) : Bool := s.rd (CMD_RING_STAT.state n) == 2

/-- Completion entries written and not yet read: cpi − cci modulo 2^16 (R388). -/
def State.unread (s : State) (n : Nat) : Nat :=
  (s.rd (CMD_RING_CI.cpi n) + 65536 - s.rd (CMD_RING_CDB.cci n)) % 65536

/-- Free completion entries (R389). -/
def State.freeEntries (s : State) (n : Nat) : Nat := 2 * s.ringSize n - s.unread n

/-- Outstanding commands of a ring (R389). -/
def State.outstanding (s : State) (n : Nat) : Nat := s.rd (CMD_RING_STAT.outstanding n)

/-- The rings from 1 that belong to each class (R400): 0 LS, 1 AC, 2 OP, 3 MT. -/
def ringClass (n : Nat) : Nat := if n = 0 then 0 else if n ≤ 3 then 1 else if n ≤ 11 then 2 else 3

/-- CMD_IRQ as it reads: the rings with irq_en set and unread entries. -/
def State.cmdIrq (s : State) : Nat :=
  (List.range 16).foldl (fun acc n =>
    if s.isSet (CMD_RING_CFG.irq_en n) && s.unread n != 0 then acc + 2 ^ n else acc) 0

/-- Whether HIRQ_N is asserted: any bit of CMD_IRQ, or any W1C bit of CMD_STATUS. -/
def State.hirq (s : State) : Bool := s.cmdIrq != 0 || fieldOf (s.reg CMD_STATUS) 4 1 != 0

/-! ### Completion entries (R396, R397) -/

/-- The eight words of a completion entry. -/
def entryWords (s : State) (c : Cmd) (status detail replyLen : Nat) (apply : Word) (inl : List Word) : List Word :=
  let n := c.ring.val
  let cpi := s.rd (CMD_RING_CI.cpi n)
  let phase := if cpi / (2 * s.ringSize n) % 2 = 0 then 1 else 0
  [ BitVec.ofNat 32 (phase * 2 ^ 31 + n * 2 ^ 24 + status % 256 * 2 ^ 16 + c.tag.toNat),
    BitVec.ofNat 32 (c.slot.toNat * 2 ^ 16 + c.op % 65536),
    apply,
    BitVec.ofNat 32 (detail % 65536 * 2 ^ 16 + replyLen % 65536),
    inl.getD 0 0, inl.getD 1 0, inl.getD 2 0, inl.getD 3 0 ]

/-- The address of completion entry cpi of a ring. -/
def State.entryAddr (s : State) (n : Nat) : Nat :=
  s.rd (CMD_RING_PBASE.addr n) + 32 * (s.rd (CMD_RING_CI.cpi n) % (2 * s.ringSize n))

/-- Write one completion entry, with the reply in the reply buffer first (R396, R397). -/
def State.writeEntry (s : State) (c : Cmd) (status detail : Nat) (apply : Word) (reply : List Byte) : State :=
  let n := c.ring.val
  let s1 := if c.xreply && !reply.isEmpty then s.setBytes c.xaddr.toNat (reply.take c.xlen.toNat) else s
  let s2 := s1.setMemWords (s.entryAddr n)
    (entryWords s c status detail reply.length apply (wordsOfBytes (reply.take 16)))
  s2.wrapInc (CMD_RING_CI.cpi n) 1

/-- The tag of a datagram or beacon: HMAC-SHA-256 truncated to its first 16 bytes (R448). -/
def authTag (key body : List Byte) : List Byte := (hmacSha256 key body).take 16

/-- The key that signs under a key number: 0 management, 1 alarm. -/
def State.chanKey (s : State) (alarm : Bool) : List Byte := if alarm then s.sec.akey.getD [] else s.sec.mkey

/-- Send a datagram of the management channel to a source (R448, R450): kind 1 a completion, 2 an epoch notice. -/
def State.sendMgmt (s : State) (dst : Word) (alarm : Bool) (kind ring : Nat) (payload : List Byte) : State :=
  let k := b2n alarm
  let n := SMap.get (fun _ => (0 : Word)) s.sec.txSeq k + 1
  let head := leBytes 4 0x474D584C ++ leBytes 1 1 ++ leBytes 1 kind ++ leBytes 1 ring ++ leBytes 1 k
    ++ bytesOfWord n ++ bytesOfWord (s.reg SEC_MGMT_EPOCH) ++ payload
  { s with
    sec := { s.sec with txSeq := SMap.set (fun _ => 0) s.sec.txSeq k n }
    net := { s.net with sent := s.net.sent ++ [.mgmt dst (head ++ authTag (s.chanKey alarm) head)] } }

/-- The completion entry of a management command travels in a datagram (R451). It occupies no slot and no ring: the spec gives its
phase bit and slot index no value, so they are a free value. -/
def State.mgmtEntry (s : State) (src : Word) (alarm : Bool) (c : Cmd) (status detail : Nat) (apply : Word) (reply : List Byte) : State :=
  let (v, s1) := s.drawFree
  let s2 := if c.xreply && !reply.isEmpty then s1.setBytes c.xaddr.toNat (reply.take c.xlen.toNat) else s1
  let inl := wordsOfBytes (reply.take 16)
  s2.sendMgmt src alarm 1 c.ring.val (bytesOfWords
    [ BitVec.ofNat 32 (v.toNat / 2 ^ 31 * 2 ^ 31 + c.ring.val * 2 ^ 24 + status % 256 * 2 ^ 16 + c.tag.toNat),
      BitVec.ofNat 32 (v.toNat % 65536 * 2 ^ 16 + c.op % 65536),
      apply,
      BitVec.ofNat 32 (detail % 65536 * 2 ^ 16 + reply.length % 65536),
      inl.getD 0 0, inl.getD 1 0, inl.getD 2 0, inl.getD 3 0 ])

/-- Tell the partner about one of its commands (R377). -/
def State.tellPartner (s : State) (c : Cmd) (o : Origin) (status detail : Nat) (apply : Word) (reply : List Byte) : State :=
  { s with pair := { s.pair with
      link := s.pair.link ++ [.done ⟨c.ring.val, c.tag.toNat, o⟩ (BitVec.ofNat 8 status) (BitVec.ofNat 16 detail) apply reply] } }

/-- One completion, interim or final, the way the command came. -/
def State.answer (s : State) (c : Cmd) (status detail : Nat) (apply : Word) (reply : List Byte) : State :=
  match c.origin with
  | .ring => s.writeEntry c status detail apply reply
  | .mgmt src alarm => s.mgmtEntry src alarm c status detail apply reply
  | .partner o | .lead o => s.tellPartner c o status detail apply reply

/-- The final completion of a command that has no entry in the outstanding list. -/
def State.complete (s : State) (c : Cmd) (status detail : Nat) (apply : Word) (reply : List Byte) : State :=
  let s1 := s.answer c status detail apply reply
  match c.origin with
  | .ring => s1.wr (CMD_RING_STAT.outstanding c.ring.val) (s1.outstanding c.ring.val - 1)
  | .mgmt _ _ => { s1 with sec := { s1.sec with mgmt := s1.sec.mgmt.erase c.ref } }
  | .partner _ | .lead _ => s1

/-- The interim ACCEPTED, unless the quiet flag suppresses it (R403). -/
def State.interim (s : State) (c : Cmd) (apply : Word) (reply : List Byte) : State :=
  if c.quiet then s else s.answer c stAccepted 0 apply reply

/-! ### Outstanding commands -/

/-- Entries of the pending table in use (R402). -/
def State.pendUsed (s : State) : Nat := (s.q.outst.filter (fun o => o.holds)).length

/-- Bring CMD_PEND.free and its peak in line with the table. -/
def State.pendSync (s : State) : State :=
  let u := s.pendUsed
  let s1 := s.wr CMD_PEND.free (1024 - u)
  if s.rd CMD_PEND.peak < u then s1.wr CMD_PEND.peak u else s1

/-- The outstanding command of a name. -/
def State.findOut (s : State) (r : CmdRef) : Option Outst := s.q.outst.find? (fun o => o.cmd.ref = r)

/-- Replace the outstanding list. -/
def State.setOut (s : State) (l : List Outst) : State := { s with q := { s.q with outst := l } }

/-- Change one outstanding command. -/
def State.mapOut (s : State) (r : CmdRef) (f : Outst → Outst) : State :=
  s.setOut (s.q.outst.map (fun o => if o.cmd.ref = r then f o else o))

/-- Aborts that wait for a target's final entry complete NOT_PENDING after it (R405). -/
def State.releaseAborts (s : State) (r : CmdRef) : State :=
  let (mine, rest) := s.q.abortWaits.partition (fun a => a.target = r)
  let s1 := { s with q := { s.q with abortWaits := rest } }
  forAll mine (fun a st => st.complete a.cmd stNotPending 0 st.cycle []) s1

/-- The final completion of an outstanding command; it leaves the list and frees its table entry. -/
def State.finish (s : State) (r : CmdRef) (status detail : Nat) (reply : List Byte) : State :=
  match s.findOut r with
  | none => s
  | some o =>
    let s1 := s.setOut (s.q.outst.filter (fun x => x.cmd.ref != r))
    ((s1.complete o.cmd status detail o.apply reply).pendSync).releaseAborts r

/-- One of the objects a command waits for has reached its end; at the last the command completes DONE. -/
def State.ownerDone (s : State) (r : Option CmdRef) : State :=
  match r with
  | none => s
  | some r =>
    match s.findOut r with
    | none => s
    | some o => if o.left ≤ 1 then s.finish r stDone 0 [] else s.mapOut r (fun o => { o with left := o.left - 1 })

/-- The command that carried a replaced request completes CANCELLED (R62). -/
def State.ownerCancel (s : State) (r : Option CmdRef) : State :=
  match r with
  | none => s
  | some r => s.finish r stCancelled 0 []

/-- The command's request is held: interim ACCEPTED (R62). -/
def State.ownerHeld (s : State) (r : Option CmdRef) : State :=
  match r with
  | none => s
  | some r =>
    match s.findOut r with
    | none => s
    | some o => (s.interim o.cmd o.apply []).mapOut r (fun o => { o with phase := .held })

/-! ### The opcode table's fixed columns (R411–R415) -/

/-- One opcode's fixed columns: code, class (and an optional second class), whether group and broadcast scope are
accepted, the range of the length field without xreply, the range of rings, whether it is timed. -/
structure OpSpec where
  op : Nat
  cls : Nat
  cls2 : Nat
  grp : Bool
  bcast : Bool
  lo : Nat
  hi : Nat
  rlo : Nat
  rhi : Nat
  timed : Bool
  deriving DecidableEq, Repr

/-- What a decision answers. -/
inductive Verdict where
  | refuse (status detail : Nat) (obj : Option Nat)          -- nothing changes; obj: the lowest failing object (R394)
  | reply (status detail : Nat) (bytes : List Byte) (s : State) -- completes at once
  | timed (left : Nat) (aux : List Word) (s : State)           -- waits for its apply cycle
  | timedAt (a : Word) (s : State)                              -- waits for an apply cycle that its own rule gives (R138)
  | job (s : State)                                           -- ACCEPTED, runs as a background job
  | silent (s : State)                                        -- its completion is arranged by its own rule

/-- Number of objects of a class with contiguous indices (R393). -/
def classSize (k : Nat) : Nat :=
  match k with
  | 0x02 => 1024 | 0x03 => 1024 | 0x04 => 1024 | 0x05 => 1048576
  | 0x06 => 16 | 0x08 => 64 | 0x09 => 32 | 0x0A => 40 | 0x0B => 512 | 0x0C => 8
  | 0x0D => 16 | 0x0E => 16 | 0x0F => 64 | 0x10 => 64
  | 0x01 => 1 | 0x11 => 1 | 0x12 => 1 | 0x13 => 1 | 0x14 => 1 | 0x15 => 1
  | _ => 0

/-- Whether an index names an object of a class with single scope (R393). -/
def classHas (k i : Nat) : Bool :=
  if k = 0x07 then i < 512 && i % 256 < 128 else i < classSize k

/-- Whether a class accepts group scope (R393). -/
def classGroups (k : Nat) : Bool := 2 ≤ k && k ≤ 0x0F && k != 5

/-- Every object of a class, ascending. -/
def classAll (k : Nat) : List Nat :=
  if k = 0x07 then List.range 128 ++ (List.range 128).map (· + 256) else List.range (classSize k)

/-- Member class of a group and its members (R395, R418); an undefined group has class 0 and no member. -/
def State.groupOf (s : State) (g : Nat) : Nat × List Nat :=
  match SMap.get (fun _ => ([] : List Nat)) s.q.groups g with
  | [] => (0, [])
  | k :: ms => (k, ms)

/-- The targets of a command (R392, R393); `none` is BAD_TARGET. `any` permits index 0xFF of class 0x08 (R268). -/
def targetsOf (sp : OpSpec) (c : Cmd) (s : State) : Option (List Nat) :=
  let k := c.cls.toNat
  let i := c.index.toNat
  if k ≠ sp.cls ∧ k ≠ sp.cls2 then none
  else if c.scope = 0 then
    if classHas k i then some [i]
    else if k = 0x08 ∧ i = 0xFF ∧ sp.op = 0x0702 then some [0xFF]
    else none
  else if c.scope = 1 then
    if sp.grp ∧ classGroups k ∧ i < 64 ∧ (s.groupOf i).1 = k ∧ (s.groupOf i).2 ≠ [] then some (s.groupOf i).2 else none
  else if c.scope = 2 then
    if sp.bcast ∧ i = 0 then some (classAll k) else none
  else none

/-- The earliest apply cycle of a decision made now (R401). -/
def State.earliest (s : State) : Word := s.cycle + (if s.synced then 3 else 2)

/-- The apply cycle in force, or the status and detail of R401. -/
def applyOf (c : Cmd) (s : State) : Except (Nat × Nat) Word :=
  let e := s.earliest
  if c.apply = 0 then .ok e
  else if later32 c.apply (e - 1) then
    if later32 c.apply (s.cycle + 0x1000000) then .error (stBadParam, 3) else .ok c.apply
  else if later32 c.apply (s.cycle + 0x1000000) then .error (stBadParam, 3)
  else if c.strict then .error (stTimeout, 0)
  else .ok e

/-- The reply buffer's rule (R397): 16-byte aligned, inside the host-shared area, 16–65,536 bytes in multiples of 16. -/
def replyBufOk (c : Cmd) : Bool :=
  let a := c.xaddr.toNat
  let l := c.xlen.toNat
  !c.xreply || (a % 16 = 0 && l % 16 = 0 && 16 ≤ l && l ≤ 65536 && 0x10100000 ≤ a && a + l ≤ 0x10200000)

/-- Whether two commands come from one sender. -/
def Origin.same : Origin → Origin → Bool
  | .ring, .ring => true
  | .mgmt x _, .mgmt y _ => x = y
  | .partner x, .partner y => x.same y
  | .lead x, .lead y => x.same y
  | _, _ => false

/-- Whether a command came in a datagram. -/
def Origin.isMgmt : Origin → Bool
  | .ring => false
  | .mgmt _ _ => true
  | .partner x => x.isMgmt
  | .lead x => x.isMgmt

/-- Whether two commands carry one name: a ring's commands by their tag (R404), management commands of one source by theirs (R451). -/
def sameName (a b : Cmd) : Bool :=
  a.origin.same b.origin && a.tag = b.tag && (a.origin.isMgmt || a.ring = b.ring)

/-- Whether an outstanding command carries the name of a command that is being decided. -/
def State.tagTaken (s : State) (c : Cmd) : Bool :=
  s.q.outst.any (fun o => sameName o.cmd c) || s.q.aborts.any (fun a => sameName a.cmd c)
    || s.q.abortWaits.any (fun a => sameName a.cmd c) || s.q.abortMarks.any (fun a => sameName a.2.2 c)

/-- Checks 1 to 9 of R540 for a defined opcode: the targets and the apply cycle, or status and detail. -/
def preCheck (sp : OpSpec) (c : Cmd) (s : State) : Except (Nat × Nat) (List Nat × Word) :=
  let x := if c.xreply then 2 else 0
  if c.len.toNat < 4 ∨ 64 < c.len.toNat then .error (stBadLength, 0)
  else if c.flags.toNat ≥ 32 then .error (stBadParam, 0)
  else if c.resv ≠ 0 then .error (stBadParam, 1)
  else if c.ring.val < sp.rlo ∨ sp.rhi < c.ring.val then .error (stNotPermitted, 0)
  else if c.len.toNat < sp.lo + x ∨ sp.hi + x < c.len.toNat then .error (stBadLength, 0)
  else if s.tagTaken c then .error (stBadSequence, 1)
  else
    match targetsOf sp c s with
    | none => .error (stBadTarget, 0)
    | some ts =>
      if !replyBufOk c then .error (stBadParam, 4)
      else if sp.timed then
        match applyOf c s with
        | .error e => .error e
        | .ok a => .ok (ts, a)
      else .ok (ts, s.cycle)

/-- Whether a further entry of the pending table is free for a ring (R402): 64 are kept for rings 0–3. -/
def State.pendFree (s : State) (ring : Nat) : Bool :=
  s.pendUsed < 1024 &&
    (ring ≤ 3 || (s.q.outst.filter (fun o => o.holds && 3 < o.cmd.ring.val)).length < 960)

/-- Accept a timed command: it waits for its apply cycle, with a table entry when that is later than E (R402). -/
def State.accept (s : State) (c : Cmd) (a : Word) (left : Nat) (objs : List Nat) (aux : List Word) : State :=
  (s.setOut (s.q.outst ++ [⟨c, a, .waiting, a != s.earliest, left, none, objs, aux⟩])).pendSync

/-- A refused command completes at once; a failing object of a group or broadcast is reply word 0 (R394). -/
def State.refuse (s : State) (c : Cmd) (status detail : Nat) (obj : Option Nat) : State :=
  let reply := match obj with
    | some o => if c.scope = 0 then [] else leBytes 4 o
    | none => []
  s.complete c status detail s.cycle reply

/-- The first object of an ascending list that fails a check. -/
def firstFail (f : Nat → Option (Nat × Nat)) : List Nat → Option (Nat × Nat × Nat)
  | [] => none
  | o :: os => match f o with
    | some (st, d) => some (st, d, o)
    | none => firstFail f os

/-- A command fault of R408: it sets CMD_STATUS.viol and is logged with the ring and the index. R408 numbers no code for it: a free
value. -/
def State.cmdFault (s : State) (c : Cmd) : State :=
  let (v, s1) := s.drawFree
  (s1.set1 CMD_STATUS.viol).event 0x0601 (BitVec.ofNat 32 (c.ring.val * 256 + v.toNat % 256)) (c.slot.setWidth 32)

/-- Whether a failed check of R540 is one of R408's command faults. -/
def violates (sp : OpSpec) (c : Cmd) (st d : Nat) : Bool :=
  let ranged := c.len.toNat < 4 || 64 < c.len.toNat
  ranged || (st = stBadParam && d ≤ 1 && (c.flags.toNat ≥ 32 || c.resv ≠ 0))
    || (st = stNotPermitted && (c.ring.val < sp.rlo || sp.rhi < c.ring.val)) || (st = stBadSequence && d = 1)

/-- Decide one fetched command (R398, R540) with the decision function of its opcode. -/
def State.decideWith (s : State) (sp : OpSpec) (fn : Cmd → List Nat → Word → State → Verdict) (c : Cmd) : State :=
  match preCheck sp c s with
  | .error (st, d) => (if violates sp c st d then s.cmdFault c else s).complete c st d s.cycle []
  | .ok (ts, a) =>
    match fn c ts a s with
    | .refuse st d o => s.refuse c st d o
    | .reply st d b s1 => s1.complete c st d s1.cycle b
    | .silent s1 => s1
    | .job s1 =>
      if s1.q.jobs.length ≥ 8 then s.complete c stBusy 8 s.cycle []
      else
        let s2 := s1.setOut (s1.q.outst ++ [⟨c, s.cycle, .fixed, false, 1, none, ts, []⟩])
        let s3 := { s2 with q := { s2.q with jobs := s2.q.jobs ++ [({ cmd := c } : Job)] } }
        s3.interim c s.cycle []
    | .timed left aux s1 =>
      if a != s.earliest && !s.pendFree c.ring.val then
        (s.flagEvent CMD_STATUS.pend_full 0 0).complete c stCapacity 1 s.cycle []
      else s1.accept c a left ts aux
    | .timedAt b s1 =>
      if b != s.earliest && !s.pendFree c.ring.val then
        (s.flagEvent CMD_STATUS.pend_full 0 0).complete c stCapacity 1 s.cycle []
      else s1.accept c b 1 ts []

/-- A command taken from the sender is fetched now: its ring counts it outstanding (R389). -/
def State.countFetch (s : State) (c : Cmd) : State :=
  s.wr (CMD_RING_STAT.outstanding c.ring.val) (s.outstanding c.ring.val + 1)

end Sys2Proof.Machine
end

