-- ==== Sys2Proof/Machine/Patch.lean ====
section
/-! DEFINITION. The patch stages (03_patch_and_crosspoint.md): dip-crossfades, mutes, held requests, the request queue,
and the gain that an entry applies to each sample. -/

namespace Sys2Proof.Machine

/-- The key of a sink table index (R59). -/
def sinkKey (k : Nat) : Nat := 1024 + k

/-- Patch entries after reset and at every image activation (R63): inputs select silence; sinks are disconnected and
muted. -/
def patchDefault (k : Nat) : PatchEnt :=
  if k < 1024 then ⟨0, true, false, .steady, 0, 0, none, none, none, none⟩
  else ⟨0, false, true, .steady, 0, 0, none, none, none, none⟩

def State.ent (s : State) (k : Nat) : PatchEnt := SMap.get patchDefault s.patch.ents k

def State.setEnt (s : State) (k : Nat) (e : PatchEnt) : State :=
  { s with patch := { s.patch with ents := SMap.set patchDefault s.patch.ents k e } }

/-- An entry is busy from its apply cycle until the end of its last ramp (R62). -/
def PatchEnt.busy (e : PatchEnt) : Bool := e.phase != .steady

/-- Whether a source ID is valid (R12, R13). -/
def validSource (v : Nat) : Bool :=
  let k := v / 4096
  let i := v % 4096
  match k with
  | 0 => i = 0
  | 1 => i < 512 | 2 => i < 512 | 3 => i < 8 | 4 => i < 40 | 5 => i < 64 | 6 => i < 32 | 7 => i < 1024
  | _ => false

/-- Whether a patch request's fields are valid: op 0–4, an entry in range, a valid source or output (PATCH_REQ1,
PATCH_REQ2). -/
def validReq (op entry value : Nat) : Bool :=
  if op = 0 then entry < 1024 && validSource value
  else if op = 1 then entry < 1032 && value < 1024
  else op ≤ 4 && entry < 1032

/-- The patch entry that a request names. -/
def PatchReq.key (r : PatchReq) : Nat := if r.op = 0 then r.entry else sinkKey r.entry

/-- Whether a request is a selection (R62): input select, output select or disconnect. -/
def PatchReq.isSelect (r : PatchReq) : Bool := r.op = 0 || r.op = 1 || r.op = 4

/-- Start a request on an entry that is not busy, in apply cycle `a` (R60, R61). The Boolean says that it makes no ramp,
so its command completes at once. -/
def startReq (e : PatchEnt) (r : PatchReq) (a : Word) : PatchEnt × Bool :=
  let ramp (ph : PatchPhase) (e : PatchEnt) : PatchEnt :=
    { e with phase := ph, start := a, ld := r.ld, owner := r.owner }
  if r.op = 2 then
    if e.muted then (e, true) else (ramp .muting { e with muted := true, record := r.actor }, false)
  else if r.op = 3 then
    if e.muted then (ramp .unmuting { e with muted := false, record := r.actor }, false) else (e, true)
  else if r.op = 4 then
    if !e.connected then (e, true)
    else if e.muted then ({ e with connected := false, sel := 0 }, true)
    else (ramp .fadeOut { e with next := some none }, false)
  else if e.connected && e.sel = r.value then (e, true)
  else if e.muted then ({ e with connected := true, sel := r.value }, true)
  else if !e.connected then (ramp .fadeIn { e with connected := true, sel := r.value }, false)
  else (ramp .fadeOut { e with next := some (some r.value) }, false)

/-- Commit a patch request in apply cycle `a` (R60–R62). -/
def State.commitPatch (s : State) (r : PatchReq) (a : Word) : State :=
  let k := r.key
  let e := s.ent k
  if e.busy then
    if e.phase = .fadeOut && r.isSelect then
      let nxt := if r.op = 4 then some none else some (some r.value)
      (s.setEnt k { e with next := nxt, owner := r.owner }).ownerCancel e.owner
    else
      let s1 := s.setEnt k { e with held := some r }
      let s2 := match e.held with
        | some h => s1.ownerCancel h.owner
        | none => s1
      s2.ownerHeld r.owner
  else
    let (e1, now) := startReq e r a
    let s1 := s.setEnt k e1
    if now then s1.ownerDone r.owner else s1

/-- The end of an entry's last ramp (R62): steady again, the command's object is done, and a held request commits at the
first engine cycle in which the entry is free. -/
def State.patchSteady (s : State) (k : Nat) (a : Word) : State :=
  let e := s.ent k
  let s1 := (s.setEnt k { e with phase := .steady, next := none, owner := none, held := none }).ownerDone e.owner
  match e.held with
  | some h => s1.commitPatch h a
  | none => s1

/-- Whether the ramp of an entry has applied its last sample by the end of the present engine cycle. -/
def State.patchRampOver (s : State) (k : Nat) : Bool :=
  let e := s.ent k
  e.busy && since (s.cycle + 1) e.start ≥ e.ld

/-- The fade-out half of a dip ends (R60): the multiplexer switches; a disconnect ends there. -/
def State.patchFadeOutEnd (s : State) (k : Nat) : State :=
  let e := s.ent k
  match e.next with
  | some (some v) =>
    s.setEnt k { e with sel := v, connected := true, next := none, phase := .fadeIn, start := s.cycle + 1 }
  | _ => (s.setEnt k { e with sel := 0, connected := false }).patchSteady k (s.cycle + 1)

/-- The gain an entry applies at position `p` of engine cycle `j` (R60, R61): a ramp of R54 over Nd = Ld × B samples. -/
def entryGain (e : PatchEnt) (j : Word) (b p : Nat) : Word :=
  let n := e.ld * b
  let i := since j e.start * b + p + 1
  match e.phase with
  | .steady => if e.muted || !e.connected then 0 else unity
  | .fadeOut => rampGain unity 0 n i
  | .fadeIn => rampGain 0 unity n i
  | .muting => rampGain unity 0 n i
  | .unmuting => rampGain 0 unity n i

/-- A sample through an entry (R60): unity passes it unchanged, since scale by unity is exact (R53). -/
def entrySample (e : PatchEnt) (j : Word) (b p : Nat) (x : Word) : Word :=
  if !e.connected && e.phase = .steady then 0 else scale x (entryGain e j b p)

/-- Whether a sink is muted, or muting. -/
def State.sinkMuted (s : State) (k : Nat) : Bool := (s.ent (sinkKey k)).muted

/-- A mechanism of R539 asks for a mute or unmute of a sink at apply cycle `a`, over one engine cycle. -/
def State.autoMute (s : State) (k : Nat) (mute : Bool) (who : MuteRec) (a : Word) (ld : Nat) : State :=
  s.commitPatch ⟨a, if mute then 2 else 3, ld, k, 0, none, some who⟩ a

/-- Reverse the changes that a record holds (R539): only sinks that no other actor has changed since. -/
def State.reverseRecord (s : State) (who : MuteRec) (mute : Bool) (ks : List Nat) (a : Word) (ld : Nat) : State :=
  forAll ks (fun k st =>
    if (st.ent (sinkKey k)).record = some who then
      let st1 := st.autoMute k mute who a ld
      st1.setEnt (sinkKey k) { st1.ent (sinkKey k) with record := none }
    else st) s

/-- The requests of a list that are due at a tick: apply cycle not later than CYCLE. -/
def duePatch (cyc : Word) (l : List PatchReq) : List PatchReq := l.filter (fun r => !later32 r.apply cyc)

/-- Whether an image record may commit: its cycle has come, and for an unmute the system start command too (R140, R27). -/
def State.imageDue (s : State) (r : PatchReq) : Bool := !later32 r.apply s.cycle && (r.op ≠ 3 || s.pwr.started)

/-- The register pushes and image records due at a tick commit in queue order (R541); commands went before. -/
def State.commitPatchQueues (s : State) : State :=
  let img := s.patch.image.filter (fun r => s.imageDue r)
  let reg := duePatch s.cycle s.patch.queue
  let s1 := { s with patch := { s.patch with
    image := s.patch.image.filter (fun r => !s.imageDue r)
    queue := s.patch.queue.filter (fun r => later32 r.apply s.cycle) } }
  forAll (img ++ reg) (fun r st => st.commitPatch r st.cycle) s1

/-- The request that the staged registers describe (PATCH_REQ0–2). -/
def State.stagedPatch (s : State) : PatchReq :=
  ⟨s.reg PATCH_REQ0, s.rd PATCH_REQ1.op, s.rd PATCH_REQ1.ld + 1, s.rd PATCH_REQ1.entry, s.rd PATCH_REQ2.value, none, none⟩

/-- PATCH_OUT and PATCH_IN as they read. -/
def PatchPhase.code : PatchPhase → Nat
  | .steady => 0 | .fadeOut => 1 | .fadeIn => 2 | .muting => 1 | .unmuting => 2

def patchInWord (e : PatchEnt) : Word :=
  BitVec.ofNat 32 (e.phase.code * 2 ^ 30 + b2n e.held.isSome * 2 ^ 29 + e.sel)

def patchOutWord (e : PatchEnt) : Word :=
  BitVec.ofNat 32 (e.phase.code * 2 ^ 30 + b2n e.held.isSome * 2 ^ 29 + b2n e.muted * 2 ^ 28
    + b2n e.connected * 2 ^ 27 + e.sel)

end Sys2Proof.Machine
end

