-- ==== Sys2Proof/Machine/Xpt.lean ====
section
/-! DEFINITION. The crosspoint (03_patch_and_crosspoint.md): coefficient banks, swaps with ramps, copies, the swap queue,
the column sum, spare lanes, meters and capture buffers. -/

namespace Sys2Proof.Machine

/-- A column after reset: bank A, no ramp, no copy. -/
def colDefault : Nat → XptCol := fun _ => ⟨false, 0, 0, false, none, [], none⟩

def State.col (s : State) (m : Nat) : XptCol := SMap.get colDefault s.xpt.cols m

def State.setCol (s : State) (m : Nat) (c : XptCol) : State :=
  { s with xpt := { s.xpt with cols := SMap.set colDefault s.xpt.cols m c } }

/-- Index of a gain in the coefficient memory: bank × 2^20 + m × 1024 + n (R69). -/
def coefIdx (bank : Bool) (m n : Nat) : Nat := b2n bank * 1048576 + m * 1024 + n

/-- A stored gain. -/
def State.gain (s : State) (bank : Bool) (m n : Nat) : Word := SMap.get zeroWord s.coef (coefIdx bank m n)

/-- Store a gain; a word fenced without a spare keeps 0 (R474). -/
def State.setGain (s : State) (bank : Bool) (m n : Nat) (g : Word) : State :=
  if deadAt s.flt.dead (0x30000000 + 4 * coefIdx bank m n) then s
  else { s with coef := SMap.set zeroWord s.coef (coefIdx bank m n) g }

/-- A column is ramping in cycles A to A + L − 1 (R70). -/
def XptCol.ramping (c : XptCol) (cyc : Word) : Bool := c.rampLen != 0 && since cyc c.rampStart < c.rampLen

/-- Engine cycles of ramp remaining (XPT_COLSTATE.left). -/
def XptCol.left (c : XptCol) (cyc : Word) : Nat :=
  if c.ramping cyc then c.rampLen - since cyc c.rampStart else 0

/-- Columns of a group's mask: XPT_GMASK as stored (R71). -/
def State.gmaskCols (s : State) (g : Nat) : List Nat :=
  (List.range 1024).filter (fun m => (s.reg (XPT_GMASK g (m / 32))).getLsbD (m % 32))

/-- The columns an entry names (R71). -/
def State.entryCols (s : State) (e : XptEntry) : List Nat :=
  if e.scope = 0 then [e.target] else if e.scope = 1 then s.gmaskCols e.target else List.range 1024

/-- A swap of one column in apply cycle `a` (R70): the active-bank bit inverts and the ramp begins. -/
def State.swapCol (s : State) (m : Nat) (len : Nat) (a : Word) : State :=
  let c := s.col m
  s.setCol m { c with bank := !c.bank, rampStart := a, rampLen := len }

/-- The gains of a column as listed in one bank. -/
def State.bankOf (s : State) (bank : Bool) (m : Nat) : List (Nat × Word) :=
  s.coef.filter (fun p => coefIdx bank m 0 ≤ p.1 && p.1 < coefIdx bank m 0 + 1024)

/-- A COPY of one column finishes (R74): its active bank's gains stand in its shadow bank. -/
def State.copyCol (s : State) (m : Nat) : State :=
  let c := s.col m
  let act := s.bankOf c.bank m
  let old := s.bankOf (!c.bank) m
  let s1 := forAll old (fun p st => { st with coef := SMap.set zeroWord st.coef p.1 0 }) s
  let s2 := forAll act (fun p st =>
    st.setGain (!c.bank) m (p.1 - coefIdx c.bank m 0) p.2) s1
  s2.setCol m { c with copying := false }

/-- A push onto the swap queue (R72); a full queue discards it. -/
def State.pushXpt (s : State) (e : XptEntry) : State :=
  if s.xpt.queue.length ≥ 32 then s.set1 XPT_STATUS.q_full
  else { s with xpt := { s.xpt with queue := s.xpt.queue ++ [e] } }

/-- Whether a shadow-port write of a node may be accepted (R75): the column is neither ramping nor copying and the bank is
its shadow bank. -/
def State.shadowOpen (s : State) (bank : Bool) (m : Nat) : Bool :=
  let c := s.col m
  !c.ramping s.cycle && !c.copying && bank != c.bank

/-- Record a refused shadow-port write (R75). -/
def State.blockedWrite (s : State) : State := (s.bump XPT_BLK_CNT.wr_blocked 1).set1 XPT_STATUS.wr_blocked

/-- The crosspoint's input sample x[n][p]. -/
def State.xin (s : State) (n p : Nat) : Word := SMap.get zeroWord s.eng.xptIn (smp n p)

/-- The exact column sum of R64 with a node-gain function: Q25.55, in ascending n. -/
def colSum (x : Nat → Word) (g : Nat → Word) : Int :=
  (List.range 1024).foldl (fun acc n => acc + sval (x n) * sval (g n)) 0

/-- The reduced output of a sum and whether it saturated (R53 steps 2 and 3, R66). -/
def reduceSum (acc : Int) : Word × Bool :=
  let r := roundConv acc 28
  (wordOf (satTo 32 r), outOf 32 r)

/-- The lane that computes a column (R68). -/
def laneOf (m : Nat) : Nat := m / 8

/-- Whether a lane is fenced (XPT_FENCEn). -/
def State.laneFenced (s : State) (l : Nat) : Bool := (s.reg (XPT_FENCE (l / 32))).getLsbD (l % 32)

/-- The spare that stands in for a lane, if one does. -/
def State.spareOf (s : State) (l : Nat) : Option Nat :=
  (List.range 8).find? (fun i => s.isSet (XPT_SPARE.valid i) && s.rd (XPT_SPARE.lane i) = l)

/-- A spare that is free, lowest first. -/
def State.freeSpare (s : State) : Option Nat := (List.range 8).find? (fun i => !s.isSet (XPT_SPARE.valid i))

/-- A column of a fenced lane without a spare delivers zeros (R81); XPT_COLSTATE.no_lane. -/
def State.noLane (s : State) (m : Nat) : Bool := s.laneFenced (laneOf m) && (s.spareOf (laneOf m)).isNone

/-- Count one saturated writeback of a column (R66). -/
def State.countXptSat (s : State) (m : Nat) : State :=
  ((s.bump XPT_SAT_CNT.count 1).wr XPT_SAT_LAST.valid 1).wr XPT_SAT_LAST.column m

/-- XPT_COLSTATE as it reads; `forced` comes from the override plane. -/
def State.colStateWord (s : State) (m : Nat) (forced : Bool) : Word :=
  let c := s.col m
  BitVec.ofNat 32 (b2n c.bank * 2 ^ 31 + b2n (c.ramping s.cycle) * 2 ^ 30 + b2n c.copying * 2 ^ 29
    + b2n forced * 2 ^ 28 + b2n (s.noLane m) * 2 ^ 27 + c.left s.cycle)

/-! ### Meters and capture (R82, R83) -/

/-- The magnitude of a sample as an unsigned Q5.27 number (R82). -/
def magOf (x : Word) : Nat := (sval x).natAbs

/-- The window exponent a register value means (PATCH_MTR_CFG.win). -/
def winOf (v : Nat) : Nat := min v 12

/-- The mean square latched at the end of a window (R82): the sum of Q10.54 squares over B × 2^w samples, 23 fraction bits
kept, saturated at 32 bits. -/
def meanSquare (sum b w : Nat) : Nat := min (sum / (b * 2 ^ w) / 2 ^ 31) 0xFFFFFFFF

/-- The address of position p of a channel's strip in the scratchpad of its quad's core (R117, R119): the input area, or the
output area; a quad that runs as bypass has its input as its output (R120, R121). -/
def quadAddr (d : DispRec) (outArea : Bool) (ch p : Nat) : Nat :=
  0x20000000 + d.core / 8 * 0x1000000 + (if outArea then d.outArea else d.inArea) * 16 + p * 16 + ch % 4 * 4

/-- The quad record of a strip: kind 0 input, 1 output. -/
def State.quadOf (s : State) (outq : Bool) (ch : Nat) : Option Quad := SMap.find s.img.quads (b2n outq * 256 + ch / 4)

/-- The sample in a strip's input area. -/
def State.stripIn (s : State) (outq : Bool) (ch p : Nat) : Word :=
  match s.quadOf outq ch with
  | some q => s.memWord (quadAddr q.disp false ch p)
  | none => 0

/-- The sample a strip delivers: its output area, or its input area while it runs as bypass. -/
def State.stripOut (s : State) (outq : Bool) (ch p : Nat) : Word :=
  match s.quadOf outq ch with
  | some q => s.memWord (quadAddr q.disp (q.prog || q.crossAt = some s.cycle) ch p)
  | none => 0

/-- The result of output strip m at position p, as the output patch of this cycle reads it. -/
def State.osSample (s : State) (m p : Nat) : Word := SMap.get zeroWord s.eng.osOut (smp m p)

/-- The sample of meter point i at position p: XI n after the input patch, or OS m before the output patch. -/
def State.meterSample (s : State) (i p : Nat) : Word :=
  if i < 1024 then s.stripIn false i p else s.osSample (i - 1024) p

/-- The meter points of strips that the running image places. -/
def State.activePoints (s : State) : List Nat :=
  s.img.quads.flatMap (fun k => (List.range 4).map (fun l =>
    if k.1 < 256 then 4 * k.1 + l else 1024 + 4 * (k.1 - 256) + l))

/-- Meter one point over the block of this cycle: peak and running sum of squares. -/
def State.meterPoint (s : State) (i : Nat) : State :=
  let xs := (List.range s.blk).map (fun p => magOf (s.meterSample i p))
  let pk := xs.foldl max (s.rd (PATCH_MTR_PEAK.peak i))
  let sq := xs.foldl (fun acc x => acc + x * x) (SMap.get (fun _ => 0) s.xpt.mtrAcc i)
  let s1 := s.wr (PATCH_MTR_PEAK.peak i) pk
  { s1 with xpt := { s1.xpt with mtrAcc := SMap.set (fun _ => 0) s1.xpt.mtrAcc i sq } }

/-- A mean-square window ends (R82): each point latches its result and its sum starts again. -/
def State.latchMeters (s : State) : State :=
  let w := s.xpt.mtrWin
  let s1 := upTo 2048 (fun i st =>
    let v := meanSquare (SMap.get (fun _ => 0) s.xpt.mtrAcc i) s.blk w
    if st.rd (PATCH_MTR_MS.ms i) = v then st else st.wr (PATCH_MTR_MS.ms i) v) s
  { s1 with xpt := { s1.xpt with mtrAcc := [] } }

/-- A capture buffer's state: disarmed after reset. -/
def capDefault : Nat → CapState := fun _ => ⟨false, 0, 0, none⟩

def State.cap (s : State) (n : Nat) : CapState := SMap.get capDefault s.xpt.caps n

def State.setCap (s : State) (n : Nat) (c : CapState) : State :=
  { s with xpt := { s.xpt with caps := SMap.set capDefault s.xpt.caps n c } }

/-- Arm a capture buffer (R83): a start cycle that is not later than CYCLE starts at the next tick. -/
def State.armCapture (s : State) (n : Nat) (start : Word) (owner : Option CmdRef) : State :=
  let st := if later32 start s.cycle then start else s.cycle + 1
  (s.setCap n ⟨true, st, 0, owner⟩).wr (XPT_CAP_CFG.arm n) 1

/-- The sample of a capture point: 0 XI, 1 XO, 2 OS output; the reserved code 3 records zeros. -/
def State.capSample (s : State) (point index p : Nat) : Word :=
  if point = 0 then s.stripIn false index p
  else if point = 1 then SMap.get zeroWord s.eng.xptOut (smp index p)
  else if point = 2 then s.osSample index p
  else 0

/-- A capture ends (R83): the buffer disarms and its command completes DONE. -/
def State.captureDone (s : State) (n : Nat) : State :=
  let c := s.cap n
  ((s.setCap n { c with armed := false, owner := none }).wr (XPT_CAP_CFG.arm n) 0).ownerDone c.owner

/-- Record this cycle's block in a buffer that has started and is not full. -/
def State.captureBlock (s : State) (n : Nat) : State :=
  let c := s.cap n
  if !c.armed || later32 c.start s.cycle || c.count ≥ 512 then s
  else
    let k := min s.blk (512 - c.count)
    let s1 := upTo k (fun p st =>
      st.setReg (XPT_CAPDATA n (c.count + p))
        (s.capSample (s.rd (XPT_CAP_CFG.point n)) (s.rd (XPT_CAP_CFG.index n)) p)) s
    s1.setCap n { c with count := c.count + k }

end Sys2Proof.Machine
end

