-- ==== Sys2Proof/Machine/Ovr.lean ====
section
/-! DEFINITION. The alarm override plane (04_alarm_override_plane.md): the live table, trigger flags and their ticks, the
holder of each column, forcing and release ramps, the gain a node has under forcing, the checks of a commit. The plane's
actions on players and generators are in Machine/Plane.lean. -/

namespace Sys2Proof.Machine

def trigDefault : Nat → Trig := fun _ => ⟨false, false, false, false, 0, false, false, [], none, false⟩

def State.trig (s : State) (t : Nat) : Trig := SMap.get trigDefault s.ovr.trigs t

def State.setTrig (s : State) (t : Nat) (x : Trig) : State :=
  { s with ovr := { s.ovr with trigs := SMap.set trigDefault s.ovr.trigs t x } }

def ocolDefault : Nat → OvrCol := fun _ => ⟨none, none, 0, 0, [], []⟩

def State.ocol (s : State) (m : Nat) : OvrCol := SMap.get ocolDefault s.ovr.cols m

def State.setOcol (s : State) (m : Nat) (c : OvrCol) : State :=
  { s with ovr := { s.ovr with cols := SMap.set ocolDefault s.ovr.cols m c } }

/-- The plane holds the column: forcing or releasing (XPT_COLSTATE.forced, R97). -/
def OvrCol.forced (c : OvrCol) : Bool := c.holder.isSome || c.releasing.isSome

/-! ### The live table -/

/-- Word k of live entry t (layout of OVRn_CFG on). -/
def State.live (s : State) (t k : Nat) : Word := s.reg (OVR_LIVE t k)

def State.tEnable (s : State) (t : Nat) : Bool := bitOf (s.live t 0) 31
def State.tLatch (s : State) (t : Nat) : Bool := bitOf (s.live t 0) 30
def State.tClass (s : State) (t : Nat) : Nat := fieldOf (s.live t 0) 29 27
def State.tLen (s : State) (t : Nat) : Nat := fieldOf (s.live t 0) 23 20 + 1
def State.tNin (s : State) (t : Nat) : Nat := fieldOf (s.live t 0) 18 16
def State.tGroup (s : State) (t : Nat) : Nat := fieldOf (s.live t 0) 5 0
def State.tCinEn (s : State) (t : Nat) : Bool := bitOf (s.live t 1) 31
def State.tRing0En (s : State) (t : Nat) : Bool := bitOf (s.live t 1) 30
def State.tTwinEn (s : State) (t : Nat) : Bool := bitOf (s.live t 1) 29
def State.tCinStates (s : State) (t : Nat) : Nat := fieldOf (s.live t 1) 11 8
def State.tCin (s : State) (t : Nat) : Nat := fieldOf (s.live t 1) 3 0
def State.tPlayEn (s : State) (t : Nat) : Bool := bitOf (s.live t 2) 31
def State.tGenEn (s : State) (t : Nat) : Bool := bitOf (s.live t 2) 30
def State.tRelStop (s : State) (t : Nat) : Bool := bitOf (s.live t 2) 29
def State.tGen (s : State) (t : Nat) : Nat := fieldOf (s.live t 2) 28 24
def State.tPlayer (s : State) (t : Nat) : Nat := fieldOf (s.live t 2) 21 16
def State.tChain (s : State) (t : Nat) : Nat := fieldOf (s.live t 2) 11 0
def State.tXi (s : State) (t k : Nat) : Nat := fieldOf (s.live t (4 + 2 * k)) 9 0
def State.tGain (s : State) (t k : Nat) : Word := s.live t (5 + 2 * k)

/-- Whether live mask g covers column m. -/
def State.lmask (s : State) (g m : Nat) : Bool := (s.reg (OVR_LMASK g (m / 32))).getLsbD (m % 32)

/-- Whether trigger t covers column m (R87). -/
def State.covers (s : State) (t m : Nat) : Bool := s.lmask (s.tGroup t) m

/-- The target gain of trigger t at node (XI n, XO m) of a column it holds (R87). -/
def State.trigGain (s : State) (t n : Nat) : Word :=
  ((List.range (s.tNin t)).find? (fun k => s.tXi t k = n)).elim 0 (fun k => s.tGain t k)

/-! ### Gains under forcing (R96, R97) -/

/-- The target of a forced column's node: the holder's gain, or the active bank's while it releases. -/
def State.forceTarget (s : State) (m n : Nat) : Word :=
  match (s.ocol m).holder with
  | some t => s.trigGain t n
  | none => if (s.col m).shed.isSome then 0 else s.gain (s.col m).bank m n

/-- The banked gain of a node at position p of engine cycle j (R70). -/
def State.swapGain (s : State) (j : Word) (m n p : Nat) : Word :=
  let c := s.col m
  if c.ramping j then
    rampGain (s.gain (!c.bank) m n) (s.gain c.bank m n) (c.rampLen * s.blk) (since j c.rampStart * s.blk + p + 1)
  else s.gain c.bank m n

/-- The gain of a node that no trigger forces: a shed column ramps to 0 and stays there; a column that returns ramps from 0 to its
banked gains over B samples (R499, R501). -/
def State.bankGain (s : State) (j : Word) (m n p : Nat) : Word :=
  let c := s.col m
  match c.shed with
  | some a => if j = a then rampGain (SMap.get zeroWord c.shedFrom n) 0 s.blk (p + 1) else 0
  | none => if c.back = some j then rampGain 0 (s.swapGain j m n p) s.blk (p + 1) else s.swapGain j m n p

/-- The gain applied at node (n, m), position p of engine cycle j: forcing goes ahead of both banks. -/
def State.gainAt (s : State) (j : Word) (m n p : Nat) : Word :=
  let o := s.ocol m
  if o.forced then
    if since j o.start < o.len then
      rampGain (SMap.get zeroWord o.fromG n) (s.forceTarget m n) (o.len * s.blk) (since j o.start * s.blk + p + 1)
    else s.forceTarget m n
  else s.bankGain j m n p

/-- The inputs whose gain in a column may differ from zero: listed in a bank, in the ramp's start, or named by the holder. -/
def State.liveInputs (s : State) (m : Nat) : List Nat :=
  let o := s.ocol m
  let banks := (s.bankOf false m).map (fun p => p.1 - coefIdx false m 0)
    ++ (s.bankOf true m).map (fun p => p.1 - coefIdx true m 0)
  let forced := o.fromG.map (fun p => p.1) ++ (match o.holder with
    | some t => (List.range (s.tNin t)).map (fun k => s.tXi t k)
    | none => [])
  (banks ++ forced ++ (s.col m).shedFrom.map (fun p => p.1)).eraseDups

/-- The gains a column applies at the last sample of engine cycle j (R96). -/
def State.snapGains (s : State) (j : Word) (m : Nat) : SMap Word :=
  (s.liveInputs m).foldl (fun acc n => SMap.set zeroWord acc n (s.gainAt j m n (s.blk - 1))) []

/-! ### The swap queue at a tick (R72, R73, R97) -/

/-- A SWAP of one column at the present cycle: a banked column ramps; a held one only inverts its bit; during a release ramp
the bit inverts and the release ramp restarts over the SWAP's L (R70, R97). -/
def State.swapColumn (s : State) (m len : Nat) : State :=
  let o := s.ocol m
  let c := s.col m
  if o.holder.isSome then s.setCol m { c with bank := !c.bank }
  else if o.releasing.isSome then
    (s.setOcol m { o with
        start := s.cycle
        len := len
        fromG := if o.start = s.cycle then o.fromG else s.snapGains (s.cycle - 1) m }).setCol m
      { c with bank := !c.bank }
  else s.swapCol m len s.cycle

/-- Commit one entry at the present cycle: a column that is ramping, or that a COPY named earlier at this tick, is skipped
(R73). -/
def State.commitEntry (s : State) (e : XptEntry) : State :=
  forAll (s.entryCols e) (fun m st =>
    let c := st.col m
    if c.ramping st.cycle || c.copying then ((st.bump XPT_BLK_CNT.skip 1).set1 XPT_STATUS.skip)
    else if e.op = 0 then st.swapColumn m e.len
    else st.setCol m { c with copying := true }) s

/-- The command of a committed entry: a SWAP completes DONE at tick A + L, a COPY at A + 1 (R421). -/
def State.entryOwner (s : State) (e : XptEntry) : State :=
  match e.owner with
  | none => s
  | some r => (s.mapOut r (fun o => { o with
      phase := .fixed, holds := false, due := some (s.cycle + BitVec.ofNat 32 (if e.op = 0 then e.len else 1)) })).pendSync

/-- The swap queue at a tick (R72): every entry whose apply cycle has come, in queue order. -/
def State.commitXptQueue (s : State) : State :=
  let due := s.xpt.queue.filter (fun e => !later32 e.apply s.cycle)
  let rest := s.xpt.queue.filter (fun e => later32 e.apply s.cycle)
  forAll due (fun e st => (st.commitEntry e).entryOwner e) { s with xpt := { s.xpt with queue := rest } }

/-! ### Flags and ticks (R89–R93) -/

/-- Whether any flag of a trigger is set. -/
def Trig.anyFlag (x : Trig) : Bool := x.cin || x.ring0 || x.twin

/-- The tick at which a change latched now takes effect (R93). -/
def State.assertTick (s : State) : Word := s.cycle + (if s.synced then 2 else 1)

/-- New flags of a trigger: a change of its wish is scheduled for a tick. -/
def State.latchFor (s : State) (t : Nat) (x : Trig) (a : Word) : State :=
  let want := x.anyFlag && s.tEnable t && !x.suspended
  if want = x.wanted then s.setTrig t x
  else if x.sched.any (fun e => e.1 = a) then s.setTrig t { x with wanted := want, sched := x.sched.filter (fun e => e.1 != a) }
  else s.setTrig t { x with wanted := want, sched := x.sched ++ [(a, want)] }

/-- Latch new flags of a trigger now. -/
def State.latch (s : State) (t : Nat) (x : Trig) : State := s.latchFor t x s.assertTick

/-- Whether a trigger has a change of the given direction waiting for the next tick. -/
def State.trigDue (s : State) (t : Nat) (want : Bool) : Bool :=
  match (s.trig t).sched with
  | (a, w) :: _ => w = want && !later32 a (s.cycle + 1)
  | [] => false

/-- The cin flag that contact input n in debounced state st gives trigger t (R89, R90): follow mode copies, latch mode only
sets. States are coded 0 open, 1 normal, 2 active, 3 short, as the bits of cin_states. -/
def State.cinFlag (s : State) (t st : Nat) (old : Bool) : Bool :=
  let now := (s.tCinStates t / 2 ^ st) % 2 = 1
  if s.tLatch t then old || now else now

/-- The debounced state of a contact input reaches every trigger that uses it (R90). -/
def State.cinToTriggers (s : State) (n st : Nat) : State :=
  upTo 64 (fun t s1 =>
    if s1.tEnable t && s1.tCinEn t && s1.tCin t = n then
      let x := s1.trig t
      s1.latch t { x with cin := s1.cinFlag t st x.cin }
    else s1) s

/-- The partner's request for trigger t (R92). -/
def State.twinRequest (s : State) (t : Nat) (on : Bool) : State :=
  if s.tEnable t && s.tTwinEn t then
    let x := s.trig t
    s.latch t { x with twin := if s.tLatch t then x.twin || on else on }
  else s

/-- The flags after a ring-0 release (R89). -/
def State.ring0Release (s : State) (t : Nat) : Trig :=
  let x := s.trig t
  if s.tLatch t then { x with cin := false, ring0 := false, twin := false } else { x with ring0 := false }

/-- The reply word of OVR_ASSERT, OVR_RELEASE and OVR_READ. -/
def State.trigWord (s : State) (t : Nat) : Word :=
  let x := s.trig t
  BitVec.ofNat 32 (b2n x.asserted + 2 * b2n x.suspended + 4 * b2n x.cin + 8 * b2n x.ring0 + 16 * b2n x.twin)

/-! ### Resolution (R95, R96) -/

/-- The better of two triggers for a column (R95): higher class, then earlier assertion tick, then lower number. -/
def State.better (s : State) (a b : Nat) : Bool :=
  s.tClass a > s.tClass b ||
    (s.tClass a = s.tClass b &&
      (later32 (s.trig b).since (s.trig a).since || ((s.trig b).since = (s.trig a).since && a < b)))

/-- The asserted triggers, ascending. -/
def State.assertedList (s : State) : List Nat := (List.range 64).filter (fun t => (s.trig t).asserted)

/-- The holder of a column among the asserted triggers that cover it. -/
def State.chooseHolder (s : State) (m : Nat) : Option Nat :=
  (s.assertedList.filter (fun t => s.covers t m)).foldl (fun best t =>
    match best with
    | none => some t
    | some b => if s.better t b then some t else some b) none

/-- The sinks that are muted and select an output strip, by sink table index. -/
def State.mutedSinksOf (s : State) (m : Nat) : List Nat :=
  (s.patch.ents.filter (fun p => 1024 ≤ p.1 && p.2.connected && p.2.muted && p.2.sel = m)).map (fun p => p.1 - 1024)

/-- Every sink that selects an output strip. -/
def State.sinksOf (s : State) (m : Nat) : List Nat :=
  (s.patch.ents.filter (fun p => 1024 ≤ p.1 && p.2.connected && p.2.sel = m)).map (fun p => p.1 - 1024)

/-- The gains a ramp that starts at tick `a` leaves from: those of the last sample before it; a second change at that tick keeps the
first one's start. -/
def State.rampFrom (s : State) (a : Word) (m : Nat) : SMap Word :=
  let o := s.ocol m
  if o.forced && o.start = a then o.fromG else s.snapGains (a - 1) m

/-- Resolve one column for the cycle `a` that follows (R95, R96, R100): a change of holder starts a ramp from the gains of
the last sample; a column first held unmutes its sinks. -/
def State.resolveCol (s : State) (a : Word) (m : Nat) : State :=
  let o := s.ocol m
  match s.chooseHolder m, o.holder with
  | some t, h =>
    if h = some t then s
    else
      let first := !o.forced
      let ks := if first then s.mutedSinksOf m else []
      let c := s.col m
      let s1 := s.setOcol m ⟨some t, none, a, s.tLen t, s.rampFrom a m, o.sinks ++ ks⟩
      let s2 := s1.setCol m { c with rampLen := 0 }
      forAll ks (fun k st => st.autoMute k false .plane a (s.tLen t)) s2
  | none, some t => s.setOcol m { o with holder := none, releasing := some t, start := a, len := s.tLen t, fromG := s.rampFrom a m }
  | none, none => s

/-- The columns that an asserted trigger covers or that the plane holds. -/
def State.planeCols (s : State) : List Nat :=
  let ts := s.assertedList
  (List.range 1024).filter (fun m => (s.ocol m).holder.isSome || ts.any (fun t => s.covers t m))

/-- The plane chooses the holder of every column (R95). -/
def State.resolve (s : State) (a : Word) : State :=
  if s.assertedList.isEmpty && s.ovr.cols.isEmpty then s
  else forAll s.planeCols (fun m st => st.resolveCol a m) s

/-- Whether a forcing ramp has applied its last sample by the end of this cycle. -/
def State.forceRampOver (s : State) (m : Nat) : Bool :=
  let o := s.ocol m
  o.holder.isSome && o.len != 0 && since (s.cycle + 1) o.start ≥ o.len

def State.releaseRampOver (s : State) (m : Nat) : Bool :=
  let o := s.ocol m
  o.releasing.isSome && since (s.cycle + 1) o.start ≥ o.len

/-- A forcing ramp ends: the column stays on the holder's gains. -/
def State.forceRampEnd (s : State) (m : Nat) : State :=
  s.setOcol m { s.ocol m with len := 0, fromG := [] }

/-- A release ramp ends (R97, R100): the column is no longer forced, and the sinks the plane unmuted are muted again, except
those that have left its record (R539). -/
def State.releaseRampEnd (s : State) (m : Nat) : State :=
  let o := s.ocol m
  (s.setOcol m ⟨none, none, 0, 0, [], []⟩).reverseRecord .plane true o.sinks (s.cycle + 1) (max o.len 1)

/-! ### Active classes (R85) and protections (R101) -/

/-- Whether a trigger of one of the classes holds a column, release ramps included (R85). -/
def State.planeActive (s : State) (lo : Nat) : Bool :=
  s.ovr.cols.any (fun p => (match p.2.holder with | some t => s.tClass t ≥ lo | none => false)
    || (match p.2.releasing with | some t => s.tClass t ≥ lo | none => false))

/-- The columns that triggers of class 5–7 hold, each with its holder. -/
def State.alarmCols (s : State) : List (Nat × Nat) :=
  s.ovr.cols.filterMap (fun p => match p.2.holder with
    | some t => if s.tClass t ≥ 5 then some (p.1, t) else none
    | none => none)

/-- Whether R101 refuses a patch request. -/
def State.patchProtected (s : State) (op entry : Nat) : Bool :=
  if op = 0 then
    s.alarmCols.any (fun c => (List.range (s.tNin c.2)).any (fun k => s.tXi c.2 k = entry))
  else if op = 3 then false
  else
    let e := s.ent (sinkKey entry)
    e.connected && s.alarmCols.any (fun c => c.1 = e.sel)

/-! ### Arming and committing (R88, R109–R111) -/

/-- The staging entry words of trigger t, k = 0–15. -/
def ovrStageAddr (t k : Nat) : Nat := 0x40220000 + 0x40 * t + 4 * k

/-- Staging entry words that hold a reserved bit, by word number: the bits that must be zero. -/
def ovrReserved (k : Nat) : Nat :=
  if k = 0 then 0x0708FFC0
  else if k = 1 then 0x1FFFF0F0
  else if k = 2 then 0x00C0F000
  else if k = 3 then 0
  else if k % 2 = 0 then 0xFFFFFC00
  else 0

/-- Whether a staging entry breaks R88. -/
def State.badEntry (s : State) (t : Nat) : Bool :=
  let w (k : Nat) : Word := s.reg (ovrStageAddr t k)
  let nin := fieldOf (w 0) 18 16
  let xs := (List.range nin).map (fun k => fieldOf (w (4 + 2 * k)) 9 0)
  bitOf (w 0) 31 &&
    (nin = 0 || nin = 7
      || xs.eraseDups.length != xs.length
      || (bitOf (w 1) 31 && fieldOf (w 1) 11 8 = 0)
      || (List.range 32).all (fun i => s.reg (OVR_SMASK (fieldOf (w 0) 5 0) i) = 0)
      || (List.range 16).any (fun k => (w k).toNat &&& ovrReserved k != 0))

/-- The lowest enabled staging entry that breaks R88. -/
def State.firstBadEntry (s : State) : Option Nat := (List.range 64).find? (fun t => s.badEntry t)

/-- The bytes the CRC of R110 covers: entries then masks, from two base addresses. -/
def State.tableBytes (s : State) (entries masks : Nat) : List Byte :=
  bytesOfWords ((List.range 1024).map (fun i => s.reg (entries + 4 * i)))
    ++ bytesOfWords ((List.range 2048).map (fun i => s.reg (masks + 4 * i)))

/-- The CRC of the staging table (R110). -/
def State.stagingCrc (s : State) : Word := crc32 (s.tableBytes 0x40220000 0x40222000)

/-- The CRC of the live table. -/
def State.liveCrc (s : State) : Word := crc32 (s.tableBytes 0x40221000 0x40224000)

/-- The outcome of the checks of R110 in their order. -/
inductive CommitCheck where
  | pass | badResp | busy | entry (t : Nat) | crc
  deriving DecidableEq, Repr

def State.commitCheck (s : State) (resp : BitVec 16) (crc : Word) : CommitCheck :=
  if resp ≠ BitVec.ofNat 16 (s.rd OVR_ARM.chal) ^^^ 0x5A5A then .badResp
  else if s.assertedList.any (fun t => s.tClass t ≥ 5) then .busy
  else
    match s.firstBadEntry with
    | some t => .entry t
    | none => if s.stagingCrc = crc then .pass else .crc

/-- The plane disarms. -/
def State.disarm (s : State) : State := (s.wr OVR_STATUS.armed 0).wr OVR_ARM.chal 0

/-- A key failure (R109): logged; the third within 10 s blocks arming. -/
def State.keyFail (s : State) : State :=
  let recent := s.cycle :: s.ovr.keyFails.filter (fun c => since s.cycle c ≤ s.cyclesOfMs 10000)
  let s1 := (s.flagEvent OVR_STATUS.key_fail 0 0)
  if recent.length ≥ 3 then
    { (s1.wr OVR_STATUS.key_lockout 1) with ovr := { s1.ovr with keyFails := [] } }
  else { s1 with ovr := { s1.ovr with keyFails := recent } }

/-- Arm the plane (R109): a new challenge, a free value of 16 bits. -/
def State.arm (s : State) : State :=
  let (v, s1) := s.drawFree
  let s2 := (s1.wr OVR_STATUS.armed 1).wr OVR_ARM.chal (v.toNat % 65536)
  { s2 with ovr := { s2.ovr with armedAt := s2.cycle } }

/-- A failed commit check: its status bit, the event, and disarming (R110). -/
def State.commitFail (s : State) (c : CommitCheck) : State :=
  match c with
  | .pass => s
  | .badResp => s.keyFail.disarm
  | .busy => (s.flagEvent OVR_STATUS.refused_busy 0 0).disarm
  | .entry t => (s.flagEvent OVR_STATUS.bad_entry 0 t).disarm
  | .crc => (s.flagEvent OVR_STATUS.crc_fail 0 0).disarm

/-- A commit that passes waits for its tick (R111). -/
def State.commitPend (s : State) (a : Word) (owner : Option CmdRef) : State :=
  { (s.wr OVR_STATUS.commit_pend 1) with ovr := { s.ovr with commitAt := some a, commitBy := owner } }

/-- The staging table becomes the live table in both copies (R111). -/
def State.copyTable (s : State) : State :=
  let s1 := upTo 1024 (fun i st =>
    if st.reg (0x40221000 + 4 * i) = st.reg (0x40220000 + 4 * i) then st
    else st.setReg (0x40221000 + 4 * i) (st.reg (0x40220000 + 4 * i))) s
  let s2 := upTo 2048 (fun i st =>
    if st.reg (0x40224000 + 4 * i) = st.reg (0x40222000 + 4 * i) then st
    else st.setReg (0x40224000 + 4 * i) (st.reg (0x40222000 + 4 * i))) s1
  let words := (s2.regs.filter (fun p => (0x40221000 ≤ p.1 && p.1 < 0x40222000) || (0x40224000 ≤ p.1 && p.1 < 0x40226000))).map
    (fun p => (p.1 - 0x40220000, p.2))
  (({ s2 with ovr := { s2.ovr with second := words } }).setReg OVR_LIVE_CRC s2.liveCrc)

/-- OVR_COLOWNER of one column: [7] held, [6] releasing, [5:0] holder. -/
def State.colOwnerByte (s : State) (m : Nat) : Nat :=
  let o := s.ocol m
  match o.holder, o.releasing with
  | some t, _ => 0x80 + t
  | none, some t => 0x40 + t
  | none, none => 0

/-- A column's declared class (R86). -/
def State.declClass (s : State) (m : Nat) : Nat :=
  fieldOf (s.reg (OVR_COLCLASS (m / 8))) (4 * (m % 8) + 2) (4 * (m % 8))

end Sys2Proof.Machine
end

