-- ==== Sys2Proof/Machine/Image.lean ====
section
/-! DEFINITION. Engine images (05_engine_images.md): the container and its sections, the loader's reading of strip programs (R150),
the admission checks of R131, what a seamless activation needs (R137, R138), and loading. -/

namespace Sys2Proof.Machine

/-! ### Reading a container -/

/-- A container as a function from offset to byte. -/
abbrev Bytes := Nat → Byte

def u8 (b : Bytes) (o : Nat) : Nat := (b o).toNat
def u16 (b : Bytes) (o : Nat) : Nat := u8 b o + 256 * u8 b (o + 1)
def u32 (b : Bytes) (o : Nat) : Nat := u16 b o + 65536 * u16 b (o + 2)
def u64 (b : Bytes) (o : Nat) : Nat := u32 b o + 4294967296 * u32 b (o + 4)

def sliceOf (b : Bytes) (o n : Nat) : List Byte := (List.range n).map (fun i => b (o + i))

/-- A section of a container (R115). -/
structure Sect where
  type : Nat
  flags : Nat
  off : Nat
  len : Nat
  crc : Nat
  deriving DecidableEq, Repr

def sectAt (b : Bytes) (i : Nat) : Sect :=
  let o := 0x80 + 16 * i
  ⟨u16 b o, u16 b (o + 2), u32 b (o + 4), u32 b (o + 8), u32 b (o + 12)⟩

def sections (b : Bytes) : List Sect := (List.range (u16 b 0x0C)).map (sectAt b)

def sectionOf (b : Bytes) (t : Nat) : Option Sect := (sections b).find? (fun x => x.type = t)

/-- A section's bytes; an absent section is empty. -/
def sectBytes (b : Bytes) (t : Nat) : Bytes × Nat :=
  match sectionOf b t with
  | some x => (fun i => b (x.off + i), x.len)
  | none => (fun _ => 0, 0)

/-- Section types (R115). -/
def tSched : Nat := 1
def tCode : Nat := 2
def tState : Nat := 3
def tInit : Nat := 4
def tParam : Nat := 5
def tPatch : Nat := 6
def tXpt : Nat := 7
def tBound : Nat := 8
def tSig : Nat := 0xFF

/-- Whether no two of a list of ranges (start, end) overlap. -/
def disjointRanges : List (Nat × Nat) → Bool
  | [] => true
  | (a, e) :: r => r.all (fun x => e ≤ x.1 || x.2 ≤ a || a = e || x.1 = x.2) && disjointRanges r

/-- The container rules of R113 to R115 on header and section table. -/
def containerOk (b : Bytes) : Bool :=
  let n := u16 b 0x0C
  let len := u32 b 8
  let ss := sections b
  let types := ss.map (fun x => x.type)
  u32 b 0 = 0x4D49584C && u16 b 4 = 1 && len % 16 = 0 && len ≤ 0x2000000 && 6 ≤ n && n ≤ 9
    && u8 b 0x0E ≤ 1 && (u8 b 0x0F = 8 || u8 b 0x0F = 16 || u8 b 0x0F = 32) && u8 b 0x19 ≤ 2
    && u16 b 0x1A < 4 && u16 b 0x1C % 256 < 2 && (List.range 98).all (fun i => b (0x1E + i) = 0)
    && ss.all (fun x => x.flags = 0 && x.off % 16 = 0 && 0x80 + 16 * n ≤ x.off && x.off + x.len ≤ len)
    && disjointRanges (ss.map (fun x => (x.off, x.off + x.len)))
    && types.all (fun t => (1 ≤ t && t ≤ 8) || t = tSig) && types.eraseDups.length = types.length
    && [tSched, tCode, tState, tParam, tBound, tSig].all (fun t => types.contains t)
    && (types.contains tXpt == (u16 b 0x1A / 2 % 2 = 1))
    && (match sectionOf b tSig with | some x => x.len = 64 && x.off + 64 = len | none => false)
    && ss.all (fun x => (crc32 (sliceOf b x.off x.len)).toNat = x.crc)

/-- Fabric records (R118), from the SCHED section. -/
def parseFab (sc : Bytes) : List FabRec :=
  (List.range (u16 sc 0)).map (fun i =>
    let v := u64 sc (16 + 8 * i)
    ⟨v / 2 ^ 61, v / 2 ^ 57 % 16, v / 2 ^ 48 % 512, v / 2 ^ 39 % 512⟩)

def fabFieldsOk (sc : Bytes) (len : Nat) : Bool :=
  16 + 8 * u16 sc 0 + 256 ≤ len &&
    (List.range (u16 sc 0)).all (fun i =>
      let v := u64 sc (16 + 8 * i)
      1 ≤ v / 2 ^ 61 && v / 2 ^ 61 ≤ 5 && 1 ≤ v / 2 ^ 48 % 512 && v / 2 ^ 48 % 512 ≤ 258 && v % 2 ^ 39 = 0)

/-- A dispatch record (R119). -/
def parseRec (sc : Bytes) (core o : Nat) : DispRec :=
  let w := u32 sc o
  { core := core, outq := w / 2 ^ 30 = 1, bypass := w / 2 ^ 29 % 2 = 1, squall := w / 2 ^ 28 % 2 = 1,
    cls := w / 2 ^ 25 % 8, quad := w / 2 ^ 17 % 256, entry := w % 2 ^ 13,
    inArea := u32 sc (o + 4) % 2 ^ 17, outArea := u32 sc (o + 8) % 2 ^ 17,
    region := u32 sc (o + 12) / 65536, bound := u32 sc (o + 12) % 65536 }

/-- The list header of a core: offset and record count (R117). -/
def listHead (sc : Bytes) (c : Nat) : Nat × Nat :=
  let o := 16 + 8 * u16 sc 0 + 8 * c
  (u32 sc o, u16 sc (o + 4))

def parseRecs (sc : Bytes) : List DispRec :=
  (List.range 32).flatMap (fun c =>
    let (o, n) := listHead sc c
    (List.range n).map (fun i => parseRec sc c (o + 16 * i)))

def recFieldsOk (sc : Bytes) (len : Nat) : Bool :=
  (List.range 32).all (fun c =>
    let (o, n) := listHead sc c
    o + 16 * n ≤ len && (List.range n).all (fun i => u32 sc (o + 16 * i) / 2 ^ 30 < 2))

/-- State regions (R123). -/
def parseRegions (st : Bytes) (len : Nat) : List Region :=
  (List.range (len / 16)).map (fun i =>
    let w := u32 st (16 * i)
    ⟨w / 65536, w / 2 ^ 14 % 4, w / 2 ^ 12 % 4, w / 2 ^ 11 % 2 = 1, u32 st (16 * i + 4), u32 st (16 * i + 8),
      u32 st (16 * i + 12) % 65536⟩)

def regionFieldsOk (rs : List Region) : Bool :=
  (rs.map (fun r => r.id)).eraseDups.length = rs.length &&
    rs.all (fun r => r.mode ≠ 3 && r.length % 16 = 0 && r.base % 16 = 0
      && (!r.dram || r.mode = 0) && (r.dram || (r.base < 0x1FC000 && r.length ≤ 0x100000))
      && (r.mode ≠ 2 || 1 ≤ r.slice))

/-- INIT records (R125), read one after the other; `fuel` bounds their number. -/
def parseInit (b : Bytes) (len : Nat) : Nat → Nat → Option (List (Nat × List Byte))
  | 0, o => if o = len then some [] else none
  | fuel + 1, o =>
    if o = len then some []
    else if o + 8 ≤ len && o + 8 + u32 b (o + 4) ≤ len then
      (parseInit b len fuel (o + 8 + u32 b (o + 4))).map (fun r => (u16 b o, sliceOf b (o + 8) (u32 b (o + 4))) :: r)
    else none

/-- Parameter descriptors (R126). They follow the block descriptors; DEDUCED: they end where the first default block begins
(notes/assumptions/20.md). Which quad owns each is open (Config.paramOwner). -/
def parseDescs (b : Bytes) (nblk stop : Nat) : List ParamDesc :=
  (List.range ((stop - 16 * nblk) / 8)).map (fun i =>
    let o := 16 * nblk + 8 * i
    ⟨u16 b o, u16 b (o + 2), u8 b (o + 4), u8 b (o + 5), u16 b (o + 6)⟩)

/-- Where the parameter descriptors end. -/
def descStop (b : Bytes) (len nblk : Nat) : Nat :=
  (List.range nblk).foldl (fun m i => min m (u32 b (16 * i + 12))) len

def parseBlocks (b : Bytes) (len nblk : Nat) : List ParamBlock :=
  let all := sliceOf b 0 len
  let ds := parseDescs b nblk (descStop b len nblk)
  (List.range nblk).map (fun i =>
    let o := 16 * i
    let key := u8 b o * 256 + u8 b (o + 1)
    { outq := u8 b o = 1, quad := u8 b (o + 1), size := u16 b (o + 2), bankA := u32 b (o + 4), bankB := u32 b (o + 8),
      defaults := sliceOf b (u32 b (o + 12)) (u16 b (o + 2)),
      descs := (ds.zipIdx.filter (fun d => Config.paramOwner all d.2 = key)).map (fun d => d.1) })

def paramFieldsOk (b : Bytes) (len nblk : Nat) (recs : List DispRec) : Bool :=
  let bs := parseBlocks b len nblk
  16 * nblk ≤ len
    && (List.range nblk).all (fun i => u8 b (16 * i) ≤ 1 && u16 b (16 * i + 2) % 16 = 0 && u16 b (16 * i + 2) ≤ 4096
        && 16 * nblk ≤ u32 b (16 * i + 12) && u32 b (16 * i + 12) + u16 b (16 * i + 2) ≤ len)
    && (recs.filter (fun d => !d.bypass)).all (fun d =>
        (bs.filter (fun p => p.outq = d.outq && p.quad = d.quad)).length = 1)
    && bs.all (fun p => (p.descs.map (fun d => d.id)).eraseDups.length = p.descs.length
        && p.descs.all (fun d => d.kind ≤ 2 && d.woff + d.size ≤ p.size / 16
          && (d.kind ≠ 1 || (1 ≤ d.ramp && d.ramp ≤ 32768))))

/-- PATCH records (R140): op, Ld, entry, value. -/
def parsePatch (b : Bytes) (len : Nat) : List (Nat × Nat × Nat × Nat) :=
  (List.range (len / 8)).map (fun i => (u8 b (8 * i), u8 b (8 * i + 1) + 1, u16 b (8 * i + 2), u16 b (8 * i + 4)))

/-- XPT records (R140): column, input, gain. -/
def parseXpt (b : Bytes) (len : Nat) : List (Nat × Nat × Word) :=
  (List.range (len / 8)).map (fun i => (u16 b (8 * i), u16 b (8 * i + 2), BitVec.ofNat 32 (u32 b (8 * i + 4))))

/-- Check 1 of R131: the container and every field in range; the image it holds. -/
def parseImage (b : Bytes) : Option Image :=
  let (sc, scl) := sectBytes b tSched
  let (cd, cdl) := sectBytes b tCode
  let (st, stl) := sectBytes b tState
  let (ini, inil) := sectBytes b tInit
  let (pa, pal) := sectBytes b tParam
  let (pt, ptl) := sectBytes b tPatch
  let (xp, xpl) := sectBytes b tXpt
  let (bd, bdl) := sectBytes b tBound
  if containerOk b && fabFieldsOk sc scl && recFieldsOk sc scl && 256 ≤ cdl
      && (List.range 32).all (fun c => u32 cd (8 * c) % 8 = 0 && u32 cd (8 * c) + 8 * u32 cd (8 * c + 4) ≤ cdl)
      && stl % 16 = 0 && ptl % 8 = 0 && xpl % 8 = 0 && bdl % 16 = 0 then
    let recs := parseRecs sc
    let rs := parseRegions st stl
    let nblk := (recs.filter (fun d => !d.bypass)).length
    match parseInit ini inil inil 0 with
    | some init =>
      if regionFieldsOk rs && paramFieldsOk pa pal nblk recs
          && init.all (fun x => rs.any (fun r => r.id = x.1 && x.2.length ≤ r.length))
          && (parsePatch pt ptl).all (fun r => validReq r.1 r.2.2.1 r.2.2.2 && r.2.1 ≤ 64)
          && (parseXpt xp xpl).all (fun r => r.1 < 1024 && r.2.1 < 1024) then
        some { length := u32 b 8, fi96 := u8 b 0x0E = 1, b := u8 b 0x0F, imageId := BitVec.ofNat 32 (u32 b 0x10),
               version := BitVec.ofNat 32 (u32 b 0x14), minStep := u8 b 0x18, keySlot := u8 b 0x19,
               patchApply := u16 b 0x1A % 2 = 1, xptPresent := u16 b 0x1A / 2 % 2 = 1,
               squallNetB := u16 b 0x1C % 2 = 1, squallAout := u16 b 0x1C / 256,
               fabs := parseFab sc, recs := recs,
               spans := (List.range 32).map (fun c => (u32 cd (8 * c), u32 cd (8 * c + 4))),
               code := sliceOf cd 0 cdl, regions := rs, init := init, blocks := parseBlocks pa pal nblk,
               bounds := sliceOf bd 0 bdl, patch := parsePatch pt ptl, xpt := parseXpt xp xpl,
               digest := sha256 (sliceOf b 0 (u32 b 8)) }
      else none
    | none => none
  else none

/-! ### Reading strip programs (R148, R150, R155–R170) -/

/-- What the loader needs of a bundle's control slot. -/
inductive Ctl where
  | plain
  | loop (k len : Nat)
  | count (k n : Nat)
  | branch (off : Nat)
  | fin
  deriving DecidableEq, Repr

/-- An X slot obeys R155 to R158. -/
def xSlotOk (x : Nat) : Bool :=
  let op := x / 2 ^ 17
  let d := x / 2 ^ 12 % 32
  let a := x / 2 ^ 7 % 32
  let b := x / 2 ^ 2 % 32
  let m := x % 4
  if op = 0 then x = 0
  else if op ≤ 4 || (7 ≤ op && op ≤ 0x0E) then m = 0
  else if op ≤ 6 then b = 0 && m = 0
  else if op ≤ 0x12 then m = 0
  else if op = 0x13 then b = 0
  else if op = 0x14 then a = 0 && b = 0 && m = 0
  else if op ≤ 0x17 then b = 0 && m = 0
  else if op ≤ 0x19 then b = 0 && m = 0 && a % 2 = 0
  else if op ≤ 0x1C then b = 0 && m = 0 && d % 2 = 0
  else if op = 0x20 then true
  else if 0x28 ≤ op && op ≤ 0x2A then d < 8 && m = 0
  else if op = 0x2B then d < 8 && m < 2 && m * 32 + b ≤ 40
  else if op = 0x2C then d < 8 && b = 0 && m = 0
  else if op = 0x2D || op = 0x2E then d < 8 && a < 8 && b = 0 && m = 0
  else if op = 0x2F then d < 8 && a = 0 && b = 0 && m = 0
  else if op = 0x30 then m = 0
  else if op = 0x31 then m = 0 && x / 4 % 2 = 0 && x / 8 % 64 ≤ 40
  else false

/-- A memory slot obeys R159 and R160. -/
def memSlotOk (y : Nat) : Bool :=
  let op := y / 2 ^ 15
  let v := y / 2 ^ 10 % 32
  let mode := y / 16 % 4
  let modeOk := mode = 1 || mode = 3 || y % 16 = 0
  if op = 0 then y = 0
  else if op ≤ 5 then modeOk
  else if op = 6 then (mode = 1 || mode = 2) && v = 0 && modeOk
  else if op ≤ 8 then v < 16 && modeOk
  else false

/-- A control slot of R166, without its bit 19. -/
def ctlOf (z : Nat) : Option Ctl :=
  let op := z / 2 ^ 14 % 32
  let a := z % 2 ^ 14
  if op = 0 then (if a = 0 then some .plain else none)
  else if op = 1 then (if a % 2048 = 0 then none else some (.loop (a / 2 ^ 12) (a % 2048)))
  else if op = 2 then some (.count (a / 2 ^ 12) (if a % 4096 = 0 then 4096 else a % 4096))
  else if op = 3 then some (.count (a / 2 ^ 12) (if a % 256 = 0 then 256 else a % 256))
  else if op = 4 then (if a / 2 ^ 11 = 7 || a % 2048 = 0 then none else some (.branch (a % 2048)))
  else if op = 5 || op = 6 then some .plain
  else if op = 7 then (if a % 64 = 0 then some .plain else none)
  else if op = 8 then (if a % 16 = 0 then some .plain else none)
  else if op = 9 then
    (if a % 128 = 0 && (a / 128 % 8 = 0 || 4 ≤ a / 128 % 8) then some .plain else none)
  else if op = 0x0A then some .plain
  else if op = 0x0B then (if a % 512 = 0 then some .plain else none)
  else if op = 0x1F then (if a = 0 then some .fin else none)
  else none

/-- One bundle (R148): every slot defined, and its control operation. -/
def decodeBundle (w : Nat) : Option Ctl :=
  let y := w / 2 ^ 20 % 2 ^ 20
  let z := w % 2 ^ 20
  if xSlotOk (w / 2 ^ 40) && y < 2 ^ 19 && memSlotOk y then
    if z < 2 ^ 19 then (if memSlotOk z then some .plain else none) else ctlOf z
  else none

/-- The bundles from an entry up to the first END; none where one breaks R150 or no END comes. -/
def scanProg (f : Nat → Option Ctl) : Nat → Nat → Option (List Ctl)
  | 0, _ => none
  | n + 1, i =>
    match f i with
    | none => none
    | some .fin => some [.fin]
    | some c => (scanProg f n (i + 1)).map (fun r => c :: r)

/-- The bundle at an index of a core's code. -/
def Image.bundle (im : Image) (core i : Nat) : Nat :=
  let o := (im.spans.getD core (0, 0)).1 + 8 * i
  leNat ((im.code.drop o).take 8)

/-- A core's bundle count. -/
def Image.bundles (im : Image) (core : Nat) : Nat := (im.spans.getD core (0, 0)).2

/-- The program of a dispatch record. -/
def Image.prog (im : Image) (d : DispRec) : Option (List Ctl) :=
  scanProg (fun i => decodeBundle (im.bundle d.core i)) (im.bundles d.core - d.entry) d.entry

/-- The loops of a program: index of the LOOP, its counter, its body length. -/
def progLoops (cs : List Ctl) : List (Nat × Nat × Nat) :=
  cs.zipIdx.filterMap (fun x => match x.1 with
    | .loop k len => some (x.2, k, len)
    | _ => none)

/-- Whether a bundle lies in a loop's body. -/
def inBody (l : Nat × Nat × Nat) (i : Nat) : Bool := l.1 < i && i ≤ l.1 + l.2.2

/-- The innermost loop body that holds a bundle. -/
def innermost (cs : List Ctl) (i : Nat) : Option Nat :=
  ((progLoops cs).filter (fun l => inBody l i)).foldl (fun m l => match m with
    | none => some l.1
    | some k => some (max k l.1)) none

/-- The loop rules of R167 and the branch rules of R169. -/
def progOk (cs : List Ctl) : Bool :=
  let ls := progLoops cs
  let last := cs.length - 1
  ls.all (fun l =>
      (match l.1 with
        | 0 => false
        | i + 1 => (match cs.getD i .plain with | .count k _ => k = l.2.1 | _ => false))
      && l.1 + l.2.2 < last
      && (match cs.getD (l.1 + l.2.2) .plain with | .plain => true | .count _ _ => true | _ => false)
      && (ls.filter (fun o => inBody o l.1)).all (fun o => l.1 + l.2.2 ≤ o.1 + o.2.2 && o.2.1 ≠ l.2.1)
      && (ls.filter (fun o => inBody o l.1)).length < 4)
    && cs.zipIdx.all (fun x => match x.1 with
      | .branch off => x.2 + off ≤ last && innermost cs x.2 = innermost cs (x.2 + off)
      | _ => true)

/-- The encoded count of a loop (R168). -/
def loopCount (cs : List Ctl) (l : Nat × Nat × Nat) : Nat :=
  match cs.getD (l.1 - 1) .plain with
  | .count _ n => n
  | _ => 1

/-- The repeat count that the code encodes for a block of bundles [a, e). -/
def repeatCount (cs : List Ctl) (a e : Nat) : Nat :=
  ((progLoops cs).filter (fun l => inBody l a && inBody l (e - 1))).foldl (fun m l => m * loopCount cs l) 1

/-! ### Bounds and core load (R132) -/

/-- The block records of a bound index. -/
def Image.boundList (im : Image) (i : Nat) : List BoundRec :=
  let (first, n) := Config.boundSplit im.bounds i
  let rd : Bytes := fun k => im.bounds.getD k 0
  (List.range n).map (fun j =>
    let o := 16 * (first + j)
    ⟨u16 rd o, u16 rd (o + 2), u32 rd (o + 4), u32 rd (o + 8), u32 rd (o + 12)⟩)

/-- K of a record (R132): cycles of its blocks. -/
def Image.kOf (im : Image) (d : DispRec) : Nat :=
  (im.boundList d.bound).foldl (fun n r => n + r.mult * (r.len + r.stall)) 0

/-- A of a record (R132): its scratchpad accesses. -/
def Image.aOf (im : Image) (d : DispRec) : Nat := (im.boundList d.bound).foldl (fun n r => n + r.mult * r.acc) 0

/-- The bound of a record fits its program. -/
def Image.boundOk (im : Image) (d : DispRec) : Bool :=
  match im.prog d with
  | none => false
  | some cs =>
    let rs := im.boundList d.bound
    rs.all (fun r => 0 < r.len && d.entry ≤ r.start && r.start + r.len ≤ d.entry + cs.length
        && repeatCount cs (r.start - d.entry) (r.start - d.entry + r.len) ≤ r.mult)
      && disjointRanges (rs.map (fun r => (r.start, r.start + r.len)))
      && rs.foldl (fun n r => n + r.len) 0 = cs.length

/-- C_T: CORE clock cycles of one engine cycle, to the nearest integer (R34). -/
def coreCycles (b fi : Nat) : Nat := (2 * 1000000000 * b + fi) / (2 * fi)

def Image.fi (im : Image) : Nat := if im.fi96 then 96000 else 48000

/-- The load of a core over the records that `p` keeps. -/
def Image.load (im : Image) (p : DispRec → Bool) (c : Nat) : Nat :=
  (im.recs.filter (fun d => d.core = c && !d.bypass && p d)).foldl
    (fun n d => n + im.kOf d + 21 * im.aOf d + 2 * im.b + 28) 0

/-! ### The admission checks (R131) -/

/-- A failed check: its status, its number, and what failed: 0 core, 1 quad (kind × 256 + quad), 2 region. -/
structure AdmFail where
  status : Nat
  check : Nat
  what : Nat
  idx : Nat
  deriving DecidableEq, Repr

def DispRec.key (d : DispRec) : Nat := b2n d.outq * 256 + d.quad

/-- The sink quads that exist at an internal rate (R118). -/
def sinkQuad (fi96 : Bool) (q : Nat) : Bool :=
  if !fi96 then q < 258
  else q < 64 || (128 ≤ q && q < 256 && q % 8 < 4) || q = 256 || q = 257

/-- How many fabric records of a phase carry a quad. -/
def Image.carriers (im : Image) (ph q : Nat) : Nat :=
  (im.fabs.filter (fun f => f.phase = ph && f.first ≤ q && q < f.first + f.count)).length

/-- The first quad that the fabric plan or the dispatch lists cover wrongly (R118–R120). -/
def Image.coverFail (im : Image) : Option Nat :=
  ((List.range 516).find? (fun q => im.carriers 1 q ≠ b2n (q < 258 && sinkQuad im.fi96 q))).orElse (fun _ =>
    ((List.range 512).find? (fun q =>
      ([2, 3, 4, 5].any (fun ph => im.carriers ph q ≠ b2n (q < 256)))
        || (im.recs.filter (fun d => d.key = q)).length ≠ 1)).orElse (fun _ =>
      (im.recs.find? (fun d => d.bypass && d.inArea ≠ d.outArea)).map DispRec.key))

/-- The areas and banks a record occupies in its cluster's scratchpad: start, end. -/
def Image.quadSpans (im : Image) (d : DispRec) : List (Nat × Nat) :=
  let a (x : Nat) := (x * 16, x * 16 + 16 * im.b)
  if d.bypass then [a d.inArea]
  else [a d.inArea, a d.outArea] ++ ((im.blocks.filter (fun p => p.outq = d.outq && p.quad = d.quad)).flatMap
    (fun p => [(p.bankA, p.bankA + p.size), (p.bankB, p.bankB + p.size)]))

/-- The scratchpad regions of a cluster. -/
def Image.regionSpans (im : Image) (cl : Nat) : List (Nat × Nat) :=
  (im.regions.filter (fun r => !r.dram && r.cluster = cl)).map (fun r => (r.base, r.base + r.length))

def Image.clusterSpans (im : Image) (cl : Nat) : List (Nat × Nat) :=
  im.regionSpans cl ++ (im.recs.filter (fun d => d.core / 8 = cl)).flatMap im.quadSpans

/-- Size of the delay pool (R189). -/
def poolSize : Nat := 0x18000000

/-- Check 4: placement, with the loader's reading of every program (R150). -/
def Image.placementFail (im : Image) : Option AdmFail :=
  match im.coverFail with
  | some q => some ⟨stBadParam, 4, 1, q⟩
  | none =>
    match (List.range 32).find? (fun c => im.bundles c > 8192) with
    | some c => some ⟨stBadParam, 4, 0, c⟩
    | none =>
      match im.recs.find? (fun d => !d.bypass &&
          (d.entry ≥ im.bundles d.core || !(match im.prog d with | some cs => progOk cs | none => false)
            || !im.regions.any (fun r => r.id = d.region && (r.dram || r.cluster = d.core / 8))
            || (im.quadSpans d).any (fun s => s.1 % 16 ≠ 0 || s.2 > 0x1FC000))) with
      | some d => some ⟨stBadParam, 4, 1, d.key⟩
      | none =>
        match im.regions.find? (fun r => if r.dram then r.base + r.length > poolSize else r.base + r.length > 0x1FC000) with
        | some r => some ⟨stBadParam, 4, 2, r.id⟩
        | none =>
          match (List.range 4).find? (fun cl => !disjointRanges (im.clusterSpans cl)) with
          | some cl => some ⟨stBadParam, 4, 0, 8 * cl⟩
          | none =>
            if disjointRanges ((im.regions.filter (fun r => r.dram)).map (fun r => (r.base, r.base + r.length))) then none
            else some ⟨stBadParam, 4, 2, 0⟩

/-- Check 5: core load (R132). -/
def Image.loadFail (im : Image) : Option AdmFail :=
  match im.recs.find? (fun d => !d.bypass && !im.boundOk d) with
  | some d => some ⟨stCapacity, 5, 1, d.key⟩
  | none =>
    ((List.range 32).find? (fun c => im.load (fun _ => true) c > 85 * coreCycles im.b im.fi / 100)).map
      (fun c => ⟨stCapacity, 5, 0, c⟩)

/-- Q(ph, r) of R133: the quads a rail carries in a phase. -/
def Image.railLoad (im : Image) (ph r : Nat) : Nat :=
  (im.fabs.filter (fun f => f.phase = ph && f.rail = r)).foldl (fun n f => n + f.count) 0

def Image.phaseMax (im : Image) (ph : Nat) : Nat := (List.range 16).foldl (fun m r => max m (im.railLoad ph r)) 0

/-- Check 6: the fabric window (R133). -/
def Image.fabricOk (im : Image) : Bool :=
  [1, 2, 3, 4, 5].foldl (fun n ph => n + im.phaseMax ph) 0 ≤ 96 && im.phaseMax 1 ≤ 17

/-- M of R134. -/
def Image.stateBudget (im : Image) : Nat :=
  im.regions.foldl (fun n r => n + (if r.mode = 1 then r.length else if r.mode = 2 then 16 * r.slice else 0)) 0

/-- Check 7: the state budget (R134). -/
def Image.budgetOk (im : Image) : Bool := im.stateBudget ≤ (if im.fi96 then 24576 else 49152) * im.b

/-- Check 8's power rule (R135), in milliwatts times C_T. -/
def Image.squallPowerOk (im : Image) : Bool :=
  let ct := coreCycles im.b im.fi
  let ncl := ((List.range 4).filter (fun cl => im.recs.any (fun d => d.squall && d.core / 8 = cl))).length
  let loads := (List.range 32).foldl (fun n c => n + im.load (fun d => d.squall) c) 0
  let aout := ((List.range 8).filter (fun i => im.squallAout / 2 ^ i % 2 = 1)).length
  (2100 + 120 * ncl + (if im.fi96 then 1100 else 550) + 350 * b2n im.squallNetB + 30 * aout) * ct + 50 * loads ≤ 4000 * ct

/-- Check 9: parameter blocks of each cluster total at most 256 KiB. -/
def Image.paramOk (im : Image) : Bool :=
  (List.range 4).all (fun cl =>
    (im.recs.filter (fun d => d.core / 8 = cl && !d.bypass)).foldl (fun n d =>
      n + ((im.blocks.find? (fun p => p.outq = d.outq && p.quad = d.quad)).map (fun p => p.size)).getD 0) 0 ≤ 262144)

/-- Checks 3 to 9 of R131. -/
def Image.laterChecks (im : Image) (step : Nat) : Option AdmFail :=
  if step < im.minStep then some ⟨stBadParam, 3, 0, 0⟩
  else
    match im.placementFail with
    | some f => some f
    | none =>
      match im.loadFail with
      | some f => some f
      | none =>
        if !im.fabricOk then some ⟨stCapacity, 6, 0, 0⟩
        else if !im.budgetOk then some ⟨stCapacity, 7, 0, 0⟩
        else
          match im.recs.find? (fun d => d.outq && d.cls ≥ 5 && !d.squall) with
          | some d => some ⟨stBadParam, 8, 1, d.key⟩
          | none =>
            if !im.squallPowerOk then some ⟨stCapacity, 8, 0, 0⟩
            else if !im.paramOk then some ⟨stCapacity, 9, 0, 0⟩
            else none

/-- Whether OTP slot k can verify a signature: neither empty nor revoked (R116, R452). -/
def State.keyUsable (s : State) (k : Nat) : Bool :=
  (s.rd SEC_STATUS.revoked) / 2 ^ k % 2 = 0 && SMap.get (fun _ => (0 : BitVec 256)) s.sec.otp k ≠ 0

/-- Check 2: the signature (R116), with a key of the protected key store (R439). -/
def State.signatureOk (s : State) (b : Bytes) (keySlot sigOff : Nat) : Bool :=
  s.keyUsable keySlot && (match SMap.find s.sec.keys keySlot with
    | some key => ecdsaOk key (sha256 (sliceOf b 0 sigOff)) (sliceOf b sigOff 64)
    | none => false)

/-- The admission checks in their order, on the bytes of a slot. -/
def State.admission (s : State) (b : Bytes) : Except AdmFail Image :=
  match parseImage b with
  | none => .error ⟨stBadParam, 1, 0, 0⟩
  | some im =>
    if !s.signatureOk b im.keySlot (im.length - 64) then .error ⟨stAuthFail, 2, 0, 0⟩
    else
      match im.laterChecks (s.rd SYS_STEP.step) with
      | some f => .error f
      | none => .ok im

/-! ### Slots (R143) -/

def slotDefault : Nat → FlashSlot := fun _ => ⟨.empty, []⟩

def State.imgSlot (s : State) (k : Nat) : FlashSlot := SMap.get slotDefault s.img.slots k

def State.setImgSlot (s : State) (k : Nat) (x : FlashSlot) : State :=
  { s with img := { s.img with slots := SMap.set slotDefault s.img.slots k x } }

/-- Erased flash reads 0xFF. -/
def flashErased : Nat → Byte := fun _ => 0xFF

def FlashSlot.at (x : FlashSlot) : Bytes := fun o => SMap.get flashErased x.bytes o

/-- Check a slot, and mark it VALID or BAD. -/
def State.checkSlot (s : State) (k : Nat) : State × Except AdmFail Image :=
  let x := s.imgSlot k
  let r := s.admission x.at
  match r with
  | .ok im => (s.setImgSlot k { x with state := .valid }, .ok im)
  | .error f => (s.setImgSlot k { x with state := .bad }, .error f)

/-! ### Seamless activation (R137, R138) -/

/-- The code bytes of a record's program. -/
def Image.codeOf (im : Image) (d : DispRec) : List Nat :=
  match im.prog d with
  | some cs => (List.range cs.length).map (fun i => im.bundle d.core (d.entry + i))
  | none => []

/-- A region of the new image that the running one carries over. -/
def carried (old : Image) (r : Region) : Bool :=
  old.regions.any (fun o => o.id = r.id && o.mode = r.mode && o.cluster = r.cluster && o.dram = r.dram
    && o.base = r.base && o.length = r.length)

/-- Whether a quad of the new image is unchanged. -/
def unchangedQuad (old new : Image) (d : DispRec) : Bool :=
  match old.recs.find? (fun o => o.key = d.key) with
  | none => false
  | some o =>
    o.core = d.core && o.bypass = d.bypass &&
      (d.bypass ||
        (old.codeOf o = new.codeOf d && old.boundList o.bound = new.boundList d.bound && o.region = d.region
          && (old.blocks.filter (fun p => p.outq = d.outq && p.quad = d.quad)).map (fun p => p.descs)
              = (new.blocks.filter (fun p => p.outq = d.outq && p.quad = d.quad)).map (fun p => p.descs)))

/-- What of a new image's cluster is not carried: regions, and the areas and banks that are not those of an unchanged quad
in place. -/
def freshSpans (old new : Image) (cl : Nat) : List (Nat × Nat) :=
  ((new.regions.filter (fun r => !r.dram && r.cluster = cl && !carried old r)).map (fun r => (r.base, r.base + r.length)))
    ++ (new.recs.filter (fun d => d.core / 8 = cl)).flatMap (fun d =>
      let had := match old.recs.find? (fun o => o.key = d.key) with
        | some o => if unchangedQuad old new d then old.quadSpans o else []
        | none => []
      (new.quadSpans d).filter (fun x => !had.contains x))

/-- The conditions of R138. -/
def seamlessOk (old new : Image) : Bool :=
  (List.range 32).all (fun c =>
      old.bundles c + new.bundles c ≤ 8192
      && new.load (fun _ => true) c
          + (old.recs.filter (fun o => o.core = c && !o.bypass
              && !(new.recs.any (fun d => d.key = o.key && unchangedQuad old new d)))).foldl
            (fun n o => n + old.kOf o + 21 * old.aOf o) 0
          ≤ coreCycles new.b new.fi - 2000 - 192 * new.b)
    && (List.range 4).all (fun cl =>
      (freshSpans old new cl).all (fun x => (old.clusterSpans cl).all (fun y => x.2 ≤ y.1 || y.2 ≤ x.1)))

/-- D of R138: engine cycles of staging, ceil(0.150 × Fi / B). -/
def stagingCycles (im : Image) : Nat := (150 * im.fi + 1000 * im.b - 1) / (1000 * im.b)

/-! ### Which quads run their program (R121, R499, R504) -/

/-- Whether a shed level sheds a class (R499). -/
def shedClass (level c : Nat) : Bool := (level = 1 && c ≤ 2) || (level ≥ 2 && c ≤ 4)

/-- The shed level in force (PWR_STATUS.level). -/
def State.level (s : State) : Nat := s.rd PWR_STATUS.level

/-- Whether NIGHTFALL has reduced the engine to its survival subset (R504 steps 2 on). -/
def State.nightBypass (s : State) : Bool :=
  match s.pwr.nf with
  | some n => n.stage ≥ 2
  | none => false

/-- Whether a dispatch record runs its program in the present state. -/
def State.wantProg (s : State) (d : DispRec) : Bool :=
  !d.bypass && !s.img.allBypass && (s.level = 0 || (d.squall && !shedClass s.level d.cls))
    && (!s.nightBypass || (d.squall && d.core / 8 = 0))

/-- Whether a quad runs as bypass only because of SQUALL (R127). -/
def State.squallBypassed (s : State) (d : DispRec) : Bool :=
  !d.bypass && s.level ≠ 0 && !(d.squall && !shedClass s.level d.cls)

/-! ### Loading (R125, R128) -/

/-- The matrix address of a region. -/
def Region.addr (r : Region) : Nat :=
  if r.dram then 0x80000000 + r.base else 0x20000000 + r.cluster * 0x1000000 + r.base

/-- A region takes its INIT data, or zeros (R125). -/
def State.initRegion (s : State) (im : Image) (r : Region) : State :=
  let data := ((im.init.find? (fun x => x.1 = r.id)).map (fun x => x.2)).getD []
  s.setBytes r.addr (data ++ List.replicate (r.length - data.length) 0)

/-- The state region of a record is reset (R47 step 3, R121). -/
def State.initQuadRegion (s : State) (d : DispRec) : State :=
  match s.img.running with
  | some im => match im.regions.find? (fun r => r.id = d.region) with
    | some r => s.initRegion im r
    | none => s
  | none => s

/-- Both banks of a quad take the defaults (R128). -/
def State.loadBanks (s : State) (im : Image) (d : DispRec) : State :=
  forAll (im.blocks.filter (fun p => p.outq = d.outq && p.quad = d.quad)) (fun p st =>
    (st.setBytes (0x20000000 + d.core / 8 * 0x1000000 + p.bankA) p.defaults).setBytes
      (0x20000000 + d.core / 8 * 0x1000000 + p.bankB) p.defaults) s

/-- A quad as it stands right after a load. -/
def freshQuad (d : DispRec) (prog : Bool) (first : Word) : Quad :=
  ⟨d, false, .clean, none, 0, prog, none, some first, none, none, false, false⟩

def State.setQuad (s : State) (k : Nat) (q : Quad) : State :=
  { s with img := { s.img with quads := SMap.insert k q s.img.quads } }

/-- The code of an image goes into the cores' instruction memories. -/
def State.loadCode (s : State) (im : Image) : State :=
  { s with img := { s.img with imem := (List.range 32).foldl (fun m c =>
      let (o, n) := im.spans.getD c (0, 0)
      SMap.setList memDefault m (c * 65536) ((im.code.drop o).take (8 * n))) [] } }

/-- Load an image afresh (boot, full restart): code, regions, banks, quads, engine configuration; the patch goes to R63 and the
gains to the XPT section (R140). -/
def State.loadImage (s : State) (slot : Nat) (im : Image) : State :=
  let s1 := { s with img := { s.img with
    running := some im, runSlot := slot, quads := [], act := none, dipSinks := [], oldImage := none, allBypass := false } }
  let s2 := s1.loadCode im
  let s3 := forAll im.regions (fun r st => st.initRegion im r) s2
  let s4 := forAll im.recs (fun d st => (st.loadBanks im d).setQuad d.key (freshQuad d (st.wantProg d) (st.cycle + 1))) s3
  let s5 := { s4 with
    patch := ⟨[], [], []⟩
    xpt := { s4.xpt with cols := [], queue := [] }
    coef := im.xpt.foldl (fun (m : SMap Word) (r : Nat × Nat × Word) =>
      SMap.set zeroWord (SMap.set zeroWord m (coefIdx false r.1 r.2.1) r.2.2) (coefIdx true r.1 r.2.1) r.2.2) []
    eng := ⟨[], [], [], [], [], [], [], [], [], [], []⟩ }
  let s6 := ((s5.wr ENG_CFG.b im.b).wrB ENG_CFG.fi im.fi96).wr ENG_CT.ct (coreCycles im.b im.fi)
  s6.setReg ENG_MARGIN_WARN (BitVec.ofNat 32 (coreCycles im.b im.fi / 20))

/-- The PATCH records of an image wait for their tick; unmute records wait for the system start command while the device is in
READY (R140, R27). -/
def State.queuePatch (s : State) (im : Image) (a : Word) : State :=
  if im.patchApply then
    let rs := im.patch.map (fun r => (⟨a, r.1, r.2.1, r.2.2.1, r.2.2.2, none, none⟩ : PatchReq))
    { s with patch := { s.patch with image := s.patch.image ++ rs } }
  else s

/-- The image checks' reply word (R423). -/
def AdmFail.word (f : AdmFail) (partner : Bool) : Nat := f.idx % 65536 + f.what * 65536 + b2n partner * 2 ^ 20

/-- The IMG_STATUS reply (R423). -/
def SlotState.code : SlotState → Nat
  | .empty => 0 | .writing => 1 | .valid => 2 | .bad => 3

end Sys2Proof.Machine
end

