-- ==== Sys2Proof/Machine/Flags.lean ====
section
/-! DEFINITION. The DSP cores' helper arithmetic and the flags it sets (R154): sat32 with the saturation counter, wrap72 with
the sticky accumulator-overflow flag, PROG_FAULT, and the CLU status words that show them. -/

namespace Sys2Proof.Machine

/-- sat32 of R154. -/
def sat32 (x : Int) : Int := satTo 32 x

/-- wrap72 of R154: modulo 2^72, read as signed. -/
def wrap72 (x : Int) : Int := (BitVec.ofInt 72 x).toInt

/-- Whether an exact result differs from its wrap72 result. -/
def ovf72 (x : Int) : Bool := wrap72 x != x

/-- Count the lanes that sat32 clamps (R154). -/
def State.countSat (s : State) (core lanes : Nat) : State :=
  if lanes = 0 then s else s.bump (CLU_CORE_SAT.count (core / 8) (core % 8)) lanes

/-- Set the sticky accumulator-overflow flag (R154). -/
def State.flagOvf (s : State) (core : Nat) (yes : Bool) : State :=
  if yes then s.set1 (CLU_CORE_FLAG.acc_ovf (core / 8) (core % 8)) else s

/-- A PROG_FAULT (R161, R171): the flag and the event, with the core and the bundle address. -/
def State.progFault (s : State) (core pc : Nat) : State :=
  (s.set1 (CLU_CORE_FLAG.prog_fault (core / 8) (core % 8))).event 0x3001 (BitVec.ofNat 32 core) (BitVec.ofNat 32 pc)

/-- CLUn_STATUS.flagged as it reads: bit k for a core with a flag set. -/
def State.cluFlagged (s : State) (n : Nat) : Nat :=
  (List.range 8).foldl (fun acc k => if s.reg (CLU_CORE_FLAG n k) = 0 then acc else acc + 2 ^ k) 0

end Sys2Proof.Machine
end

