-- ==== Sys2Proof/Machine/Mem.lean ====
section
/-! DEFINITION. Memories (07_memories.md): ECC records, write-back and poisoned lanes, Wisp, Dusk, DRAM and the flash controller's
service, and the meanings of the MEM and FLASHC rows. -/

namespace Sys2Proof.Machine

/-! ### ECC (R179–R181, R193) -/

/-- The address MEM_ECC_ADDR records: scratchpad-local, or in the address map. -/
def eccAddr (m a : Nat) : Nat := if m < 4 then a % 0x1000000 else a

/-- The BANK test resource of a word: memory × 8192 + its 1 KiB region. -/
def bankRes (m a : Nat) : Nat := m * 8192 + a % 0x200000 / 1024

/-- Record an uncorrectable SRAM lane (R179): status, count, last error, ECC_UE, BANK test. `m` is the memory ID, 0–4. -/
def State.eccUe (s : State) (m a : Nat) : State :=
  let cnt : Fld := if m < 4 then MEM_SP_ECC.uncorrected m else MEM_SRAM_ECC.uncorrected
  let s1 := ((s.set1 MEM_STATUS.ecc_ue).bump cnt 1).setReg MEM_ECC_LAST (BitVec.ofNat 32 (2 ^ 31 + m))
  ((s1.setReg MEM_ECC_ADDR (BitVec.ofNat 32 (eccAddr m a))).event 0x0401 (BitVec.ofNat 32 m)
    (BitVec.ofNat 32 (eccAddr m a))).startTest .bank (bankRes m a)

/-- Record a corrected SRAM lane (R179, R470): status, count, a write-back to come; a word that corrects again within 10 s
starts a BANK test. -/
def State.eccCe (s : State) (m a : Nat) : State :=
  let cnt : Fld := if m < 4 then MEM_SP_ECC.corrected m else MEM_SRAM_ECC.corrected
  let s1 := (s.set1 MEM_STATUS.ecc_ce).bump cnt 1
  let again := s.flt.corrected.any (fun x => x.1 = a && since s.cycle x.2 ≤ s.cyclesOfMs 10000)
  let s2 := { s1 with
    ms := { s1.ms with writeback := if a ∈ s1.ms.writeback then s1.ms.writeback else s1.ms.writeback ++ [a] }
    flt := { s1.flt with corrected := (a, s.cycle) :: s1.flt.corrected.filter (fun x => x.1 != a) } }
  if again then s2.startTest .bank (bankRes m a) else s2

/-- A DRAM double-bit error at a 16-byte unit (R193): status, count, address, ECC_UE with memory ID 6, DRAMROW test of its row. -/
def State.dramUe (s : State) (a : Nat) : State :=
  let s1 := ((s.set1 MEM_STATUS.dram_ue).bump MEM_DRAM_ECC.uncorrected 1).setReg MEM_ECC_LAST (BitVec.ofNat 32 (2 ^ 31 + 6))
  ((s1.setReg MEM_ECC_ADDR (BitVec.ofNat 32 a)).event 0x0401 6 (BitVec.ofNat 32 a)).startTest .dramRow ((a - 0x80000000) / 8192)

/-- A write that covers a whole lane clears its error (R181): no write-back, no poison. -/
def State.laneWritten (s : State) (a : Nat) : State :=
  { s with ms := { s.ms with
    writeback := s.ms.writeback.filter (· != a), poisoned := s.ms.poisoned.filter (· != a) } }

/-- The write-back of a corrected lane is done (R179): the stored data is the corrected data. -/
def execEccWriteback (addr : Word) (s : State) : Host.Outcome State Fault Refusal :=
  .next { s with ms := { s.ms with writeback := s.ms.writeback.filter (· != addr.toNat) } }

/-! ### Wisp (R182–R184) -/

/-- Regions of a memory that Wisp tests. -/
def wispRegions (m : Nat) : Nat := if m = 5 then 8192 else 2048

/-- Whether a memory is in Dusk: scratchpads 0–3 by bits 16–19, the coefficient memory by bit 20 of MEM_STATUS. -/
def State.inDusk (s : State) (m : Nat) : Bool :=
  (m < 4 && (s.rd MEM_STATUS.dusk) / 2 ^ m % 2 = 1) || (m = 5 && (s.rd MEM_STATUS.dusk) / 16 % 2 = 1)

/-- Whether a self-test claims the guard of a memory (R183): a BANK test of it, or a COEF test of the coefficient memory. -/
def State.guardClaimed (s : State) (m : Nat) : Bool :=
  s.flt.tests.any (fun t => (t.kind = .bank && t.res / 8192 = m) || (t.kind = .coef && m = 5))

/-- The march read of a region mismatches (R184). -/
def State.wispFail (s : State) (m region : Nat) : State :=
  let s1 := (s.set1 MEM_STATUS.wisp_fail).setReg MEM_WISP_FAIL (BitVec.ofNat 32 (2 ^ 31 + m * 65536 + region))
  (s1.event 0x0402 (BitVec.ofNat 32 m) (BitVec.ofNat 32 region)).startTest (if m = 5 then .coef else .bank)
    (if m = 5 then region else m * 8192 + region)

/-- In the guard Wisp starts the next region of each memory it is enabled on (R182, R183); `fails` names the memories whose march
mismatches. -/
def State.wispGuard (s : State) (fails : List (Fin 6)) : State :=
  upTo 6 (fun m st =>
    if (st.rd MEM_WISP_CFG.enable) / 2 ^ m % 2 = 1 && !st.inDusk m && !st.guardClaimed m
        && (SMap.find st.ms.wisp m).isNone then
      let region := st.rd (MEM_WISP_POS.region m)
      let s1 := { st with ms := { st.ms with wisp := SMap.insert m ⟨region, false⟩ st.ms.wisp } }
      if fails.any (fun f => f.val = m) then s1.wispFail m region else s1
    else st) s

def execWispAbandon (m : Fin 6) (s : State) : Host.Outcome State Fault Refusal :=
  match SMap.find s.ms.wisp m.val with
  | some w => .next { s with ms := { s.ms with wisp := SMap.insert m.val { w with abandoned := true } s.ms.wisp } }
  | none => .next s

/-- The restore ends (R182 step 4, R183): redirection ends, and the pointer advances unless the march was abandoned. -/
def execWispRestoreDone (m : Fin 6) (s : State) : Host.Outcome State Fault Refusal :=
  match SMap.find s.ms.wisp m.val with
  | some w =>
    let s1 := { s with ms := { s.ms with wisp := SMap.erase m.val s.ms.wisp } }
    if w.abandoned then .next s1
    else
      let n := s.rd (MEM_WISP_POS.region m.val) + 1
      if n ≥ wispRegions m.val then
        .next ((s1.wr (MEM_WISP_POS.region m.val) 0).wrapInc (MEM_WISP_POS.passes m.val) 1)
      else .next (s1.wr (MEM_WISP_POS.region m.val) n)
  | none => .next s

/-! ### Dusk (R185–R187) -/

/-- Whether cluster n runs a non-bypass record of the running image (R186). -/
def State.clusterUsed (s : State) (n : Nat) : Bool :=
  s.img.quads.any (fun q => q.2.disp.core / 8 = n && !q.2.disp.bypass)

/-- Whether a Dusk request may stand (R186): a scratchpad needs its cluster free of programs, the coefficient memory NIGHTFALL. -/
def State.duskOk (s : State) (req : Nat) : Bool :=
  (List.range 4).all (fun n => req / 2 ^ n % 2 = 0 || (s.rd MEM_DUSK.req) / 2 ^ n % 2 = 1 || !s.clusterUsed n)
    && (req / 16 % 2 = 0 || (s.rd MEM_DUSK.req) / 16 % 2 = 1 || s.op = .nightfall)

/-- Request Dusk entry or exit (R186): refused with dusk_refused, else at the next tick. -/
def State.duskRequest (s : State) (req : Nat) : State :=
  if s.duskOk req then
    { (s.wr MEM_DUSK.req req) with ms := { s.ms with duskWant := req } }
  else s.set1 MEM_STATUS.dusk_refused

/-- At a tick memories enter Dusk, or begin to leave it (R185). -/
def State.duskTick (s : State) : State :=
  upTo 5 (fun n st =>
    let want := st.ms.duskWant / 2 ^ n % 2 = 1
    let now := (st.rd MEM_STATUS.dusk) / 2 ^ n % 2 = 1
    if want && !now then st.wr ⟨MEM_STATUS, 16 + n, 1⟩ 1
    else if !want && now && !(n ∈ st.ms.waking) then
      { st with ms := { st.ms with waking := st.ms.waking ++ [n] } }
    else st) s

/-- 50 µs after the exit tick the memory serves accesses (R185). -/
def execDuskExitReady (m : Fin 5) (s : State) : Host.Outcome State Fault Refusal :=
  if m.val ∈ s.ms.waking then
    let s1 := s.wr ⟨MEM_STATUS, 16 + m.val, 1⟩ 0
    .next { s1 with ms := { s1.ms with waking := s1.ms.waking.filter (· != m.val) } }
  else .next s

/-! ### Counters and read-cleared words -/

def execMemCntClrDlq (s : State) : Host.Outcome State Fault Refusal := .next (s.setReg MEM_DLQ_DROP 0)

def execMemCntClrConf (s : State) : Host.Outcome State Fault Refusal := .next (upTo 4 (fun n st => st.setReg (MEM_CONF n) 0) s)

def execMemCntClrDram (s : State) : Host.Outcome State Fault Refusal := .next (s.setReg MEM_DRAM_ECC 0)

def execMemCntClrSram (s : State) : Host.Outcome State Fault Refusal :=
  .next ((upTo 4 (fun n st => st.setReg (MEM_SP_ECC n) 0) (s.setReg MEM_SRAM_ECC 0)).wr MEM_ECC_LAST.valid 0)

def execMemDramRtRead (s : State) : Host.Outcome State Fault Refusal :=
  .next ({ s with lastRead := s.reg MEM_DRAM_RT }.setReg MEM_DRAM_RT 0)

/-- The patrol scrub completes a pass (R193). -/
def execScrubPass (s : State) : Host.Outcome State Fault Refusal := .next (s.wrapInc MEM_SCRUB.passes 1)

/-! ### Flash service (R194, R195) -/

/-- Put a request into the service order of R195; a class 5–7 player read that meets a program or erase suspends it. -/
def State.flashEnqueue (s : State) (r : FlashReq) : State :=
  match s.ms.flash with
  | [] => { (s.wr FLASHC_STATUS.op r.op) with ms := { s.ms with flash := [r] } }
  | cur :: rest =>
    if r.rank = 1 && r.op = 1 && cur.op ≥ 2 && s.ms.suspended.isNone then
      let s1 := { s with ms := { s.ms with flash := r :: rest, suspended := some cur } }
      ((s1.wr FLASHC_STATUS.op 1).wr FLASHC_STATUS.susp 1).bump FLASHC_SUSP.count 1
    else
      let ahead := rest.takeWhile (fun x => x.rank ≤ r.rank)
      let behind := rest.dropWhile (fun x => x.rank ≤ r.rank)
      { s with ms := { s.ms with flash := cur :: (ahead ++ [r] ++ behind) } }

/-- One of the two stored override tables is written (R108): the older copy is replaced by the live table. -/
def State.storeOvrCopy (s : State) : State :=
  let words := (s.regs.filter (fun p => (0x40221000 ≤ p.1 && p.1 < 0x40222000) || (0x40224000 ≤ p.1 && p.1 < 0x40226000))).map
    (fun p => (p.1 - 0x40220000, p.2))
  let classes := (s.regs.filter (fun p => 0x40226000 ≤ p.1 && p.1 < 0x40226200)).map (fun p => (p.1 - 0x40220000, p.2))
  let t : OvrTable := ⟨words, classes, true, s.rd OVR_GEN.count⟩
  let keep := match s.ovr.stored with
    | a :: b :: _ => if later16 (BitVec.ofNat 16 a.age) (BitVec.ofNat 16 b.age) then [a] else [b]
    | l => l
  { s with ovr := { s.ovr with stored := keep ++ [t], storeLeft := s.ovr.storeLeft - 1 } }

/-- The operation in progress completes (R194, R195): its page statistics, what it served, then the suspended operation resumes or
the next request starts. -/
def execFlashOperationDone (corrections : Nat) (uncorr blockFail : Bool) (s : State) : Host.Outcome State Fault Refusal :=
  match s.ms.flash with
  | [] => .next s
  | cur :: rest =>
    let s1 := if uncorr then (s.flagEvent FLASHC_STATUS.uncorr 0 0).bump FLASHC_ECC.uncorr 1 else s
    let s2 := if cur.op = 1 && !uncorr && corrections > 24 then (s1.flagEvent FLASHC_STATUS.rewrite 0 0).bump FLASHC_ECC.rewrites 1 else s1
    let s3 := if cur.op ≥ 2 && blockFail then
        let t := ((s2.flagEvent FLASHC_STATUS.retired 0 0).bump FLASHC_BLK.retired 1).wr FLASHC_BLK.free (s2.rd FLASHC_BLK.free - 1)
        if cur.use = .log then t.set1 LOG_STATUS.flash_fail else t
      else s2
    let s4 := if cur.use = .ovrCopy && !blockFail then s3.storeOvrCopy else s3
    let (q, sus) := match s.ms.suspended with
      | some o => if rest.any (fun x => x.rank = 1 && x.op = 1) then (rest, some o) else (o :: rest, none)
      | none => (rest, none)
    let s5 := { s4 with ms := { s4.ms with flash := q, suspended := sus } }
    let s6 := s5.wr FLASHC_STATUS.op (match q with | x :: _ => x.op | [] => 0)
    .next (s6.wrB FLASHC_STATUS.susp sus.isSome)

def execFlashcSuspRead (s : State) : Host.Outcome State Fault Refusal :=
  .next ({ s with lastRead := s.reg FLASHC_SUSP }.wr FLASHC_SUSP.worst 0)

end Sys2Proof.Machine
end

