-- ==== Sys2Proof/Machine/Operands.lean ====
section
/-! DEFINITION. The operand forms of the DSP cores: reading registers as they stood at the bundle's issue and writing them as
they land (R149), the address modes and circular windows (R160), scratchpad accesses with the reserved range (R161). -/

namespace Sys2Proof.Machine

/-- Registers at the first dispatch: all zero, windows empty, nothing bound. -/
def regsZero : CoreRegs := ⟨[], [], [], [], [], [], [], [], 0⟩

def coreDefault : Nat → Core := fun _ => ⟨regsZero, regsZero, [], 0, 0, [], none, false, false, 0, 0⟩

def zero72 : Nat → BitVec 72 := fun _ => 0
def zero24 : Nat → BitVec 24 := fun _ => 0
def zeroNat : Nat → Nat := fun _ => 0

def State.core (s : State) (c : Nat) : Core := SMap.get coreDefault s.dsp.cores c

def State.setCore (s : State) (c : Nat) (x : Core) : State :=
  { s with dsp := { s.dsp with cores := SMap.set coreDefault s.dsp.cores c x } }

/-- A slot issues: the first slot of a bundle fixes the register values its bundle reads and moves to its bundle (R149). -/
def State.issue (s : State) (sl : Slot) : State :=
  if sl.head then
    let x := s.core sl.core.val
    s.setCore sl.core.val { x with snap := x.r, old := [], pc := x.next, next := x.next + 1 }
  else s

/-- Lane l of Vn as its bundle reads it. -/
def State.v (s : State) (sl : Slot) (n l : Nat) : Word := SMap.get zeroWord (s.core sl.core.val).snap.v (4 * n + l)

/-- Lane l of an accumulator as its bundle reads it, as an integer. -/
def State.acc (s : State) (sl : Slot) (n l : Nat) : Int :=
  (SMap.get zero72 (s.core sl.core.val).snap.acc (4 * n + l)).toInt

/-- Pointer Pn as its bundle reads it. -/
def State.ptr (s : State) (sl : Slot) (n : Nat) : Nat := (SMap.get zero24 (s.core sl.core.val).snap.p n).toNat

/-- Offset Mn as its bundle reads it. -/
def State.ofs (s : State) (sl : Slot) (n : Nat) : Int := (SMap.get zero24 (s.core sl.core.val).snap.m n).toInt

/-- Change the registers as they stand now. -/
def State.mapRegs (s : State) (c : Nat) (f : CoreRegs → CoreRegs) : State :=
  let x := s.core c
  s.setCore c { x with r := f x.r }

/-- Write lane l of Vn. -/
def State.setV (s : State) (sl : Slot) (n l : Nat) (w : Word) : State :=
  s.mapRegs sl.core.val (fun r => { r with v := SMap.set zeroWord r.v (4 * n + l) w })

/-- Write the four lanes of Vn. -/
def State.setLanes (s : State) (sl : Slot) (n : Nat) (f : Nat → Word) : State :=
  upTo 4 (fun l st => st.setV sl n l (f l)) s

/-- Write lane l of an accumulator from an integer, modulo 2^72. -/
def State.setAcc (s : State) (sl : Slot) (n l : Nat) (x : Int) : State :=
  s.mapRegs sl.core.val (fun r => { r with acc := SMap.set zero72 r.acc (4 * n + l) (BitVec.ofInt 72 x) })

/-- Write Pn. -/
def State.setP (s : State) (sl : Slot) (n : Nat) (x : Nat) : State :=
  s.mapRegs sl.core.val (fun r => { r with p := SMap.set zero24 r.p n (BitVec.ofNat 24 x) })

/-- Write Mn. -/
def State.setM (s : State) (sl : Slot) (n : Nat) (x : Int) : State :=
  s.mapRegs sl.core.val (fun r => { r with m := SMap.set zero24 r.m n (BitVec.ofInt 24 x) })

/-- adv of R160: step a pointer by an offset, with the one correction of a circular window. -/
def advance (x : Nat) (delta : Int) (window : Option (Nat × Nat)) : Nat :=
  let t : Int := (x : Int) + delta
  let u : Int := match window with
    | none => t
    | some (base, len) =>
      if len = 0 then t
      else if t ≥ (base : Int) + len then t - len
      else if t < (base : Int) then t + len
      else t
  bitsOf 24 u

/-- The window a pointer is bound to, as its bundle reads it. -/
def State.windowOf (s : State) (sl : Slot) (p : Nat) : Option (Nat × Nat) :=
  let r := (s.core sl.core.val).snap
  match SMap.get zeroNat r.bnd p with
  | 0 => none
  | k + 1 => some (SMap.get zeroNat r.wBase k, SMap.get zeroNat r.wLen k)

/-- The address of a memory operand (R160). -/
def State.opAddr (s : State) (sl : Slot) (a : MemAcc) : Nat :=
  if a.mode = 3 then advance (s.ptr sl a.p.val) (s.ofs sl a.m.val) (s.windowOf sl a.p.val) else s.ptr sl a.p.val

/-- The post-modification of a memory operand (R160). -/
def State.postMod (s : State) (sl : Slot) (a : MemAcc) : State :=
  if a.mode = 1 then
    s.setP sl a.p.val (advance (s.ptr sl a.p.val) (s.ofs sl a.m.val) (s.windowOf sl a.p.val))
  else if a.mode = 2 then s.setP sl a.p.val (advance (s.ptr sl a.p.val) 16 (s.windowOf sl a.p.val))
  else s

/-- The first address of a scratchpad that a core may not use (R161). -/
def spLimit : Nat := 0x1FC000

/-- The matrix address of a scratchpad byte of a core's cluster. -/
def spAddr (core a : Nat) : Nat := 0x20000000 + core / 8 * 0x1000000 + a

/-- What arbitration did to an access (R163, R176): MEM_CONFn counts losses and courtesy grants of the cluster. -/
def State.conflict (s : State) (core : Nat) (a : MemAcc) : State :=
  let s1 := if a.lost = 0 then s else s.bump (MEM_CONF.lost (core / 8)) a.lost
  if a.courtesy then s1.bump (MEM_CONF.courtesy (core / 8)) 1 else s1

/-- A byte of the cluster's scratchpad as a load of this bundle sees it: the contents from before the bundle's own store (R149). -/
def State.spByte (s : State) (core a : Nat) : Byte :=
  match SMap.find (s.core core).old (spAddr core a) with
  | some b => b
  | none => s.byte (spAddr core a)

/-- A word of the cluster's scratchpad as a load sees it. -/
def State.spWord (s : State) (core a : Nat) : Word :=
  BitVec.ofNat 32 (leNat ((List.range 4).map (fun i => s.spByte core (a + i))))

/-- Store a word to the cluster's scratchpad, keeping what the bundle overwrites. -/
def State.spStore (s : State) (core a : Nat) (w : Word) : State :=
  let x := s.core core
  let keep := (List.range 4).foldl (fun (o : SMap Byte) i =>
    match SMap.find o (spAddr core (a + i)) with
    | some _ => o
    | none => SMap.insert (spAddr core (a + i)) (s.byte (spAddr core (a + i))) o) x.old
  ((s.setCore core { x with old := keep }).setMemWord (spAddr core a) w).laneWritten (spAddr core a)

end Sys2Proof.Machine
end

