-- ==== Sys2Proof/Machine/Dsp.lean ====
section
/-! DEFINITION. The meanings of the DSP core operations (06_dsp_core.md): dispatch, the X slot, the memory slots, the control
slot, END and the DRAM transfers. A slot operation runs on a core that has a dispatch record; on an idle core there is no program
and nothing happens (notes/assumptions/12.md). -/

namespace Sys2Proof.Machine

/-- Run a slot operation on a core that holds a dispatch record (R147). -/
def State.slot (s : State) (sl : Slot) (f : State → State) : State :=
  if (s.core sl.core.val).run.isSome then f (s.issue sl) else s

/-- A lane operation that sat32 clamps: each lane's exact result, clamped and counted (R154). -/
def State.satLanes (s : State) (sl : Slot) (d : Nat) (f : Nat → Int) : State :=
  let n := ((List.range 4).filter (fun l => outOf 32 (f l))).length
  (s.setLanes sl d (fun l => wordOf (sat32 (f l)))).countSat sl.core.val n

/-! ### Dispatch (R147) -/

/-- The address of a parameter bank that an image gives a quad. -/
def bankAddrIn (im : Option Image) (outq : Bool) (quad : Nat) (useB : Bool) : Nat :=
  match im with
  | some im =>
    match im.blocks.find? (fun b => b.outq = outq && b.quad = quad) with
    | some b => if useB then b.bankB else b.bankA
    | none => 0
  | none => 0

/-- The state region of a dispatch record in an image. -/
def regionIn (im : Option Image) (d : DispRec) : Option Region :=
  match im with
  | some im => im.regions.find? (fun r => r.id = d.region)
  | none => none

/-- The registers at the first bundle of a dispatch record of an image: its input area is `inArea`, `useB` names its active bank,
`w` is V31 lane 3. -/
def State.dispatchRegs (s : State) (im : Option Image) (d : DispRec) (inArea : Nat) (useB : Bool) (w : Nat) : CoreRegs :=
  let rg := regionIn im d
  let base := (rg.map (fun r => r.base)).getD 0
  let inSp := (rg.map (fun r => !r.dram)).getD false
  let p (m : SMap (BitVec 24)) (k v : Nat) := SMap.set zero24 m k (BitVec.ofNat 24 v)
  let v (m : SMap Word) (k v : Nat) := SMap.set zeroWord m (4 * 31 + k) (BitVec.ofNat 32 v)
  { regsZero with
    p := p (p (p (p (p [] 0 (inArea * 16)) 1 (d.outArea * 16)) 2 (bankAddrIn im d.outq d.quad useB))
      3 (bankAddrIn im d.outq d.quad !useB)) 4 (if inSp then base else 0)
    v := v (v (v (v [] 0 base) 1 ((rg.map (fun r => r.length)).getD 0)) 2 s.cycle.toNat) 3 w }

/-- Whether a quad crossfades in this cycle. -/
def State.crossing (s : State) (q : Quad) : Bool := q.crossAt = some s.cycle

/-- Start a record on its core. -/
def State.startRecord (s : State) (key : Nat) (im : Option Image) (d : DispRec) (inArea : Nat) (useB swapF firstF : Bool) : State :=
  let r := s.dispatchRegs im d inArea useB (b2n swapF + 2 * b2n firstF + 8 * b2n d.outq + 16 * d.quad)
  let x := s.core d.core
  let s1 := s.setCore d.core
    { r := r, snap := r, old := [], pc := d.entry, next := d.entry, loops := [], run := some key, swapF := swapF, firstF := firstF,
      dlqUsed := x.dlqUsed, dlqBytes := x.dlqBytes }
  s1.wr ⟨CLU_STATUS (d.core / 8), 16 + d.core % 8, 1⟩ 1

/-- A core starts a non-bypass dispatch record (R147, R173). At a switch the old program of a changed quad runs first, on the new
input area (R138, notes/assumptions/21.md). A record that the running image does not place on the core, or that runs as bypass in
this cycle, is not started. -/
def execDispatchRecord (core : Fin 32) (outq : Bool) (quad : Fin 256) (s : State) : Res :=
  let key := b2n outq * 256 + quad.val
  match SMap.find s.img.quads key with
  | some q =>
    if (s.core core.val).run.isSome || !s.engineRuns then .next s
    else
      match q.oldRec, s.crossing q && !q.oldDone with
      | some o, true =>
        if o.core = core.val then .next (s.startRecord key s.img.oldImage o q.disp.inArea q.oldBank false false) else .next s
      | _, _ =>
        if q.disp.core = core.val && (q.prog || s.crossing q) then
          .next (s.startRecord key s.img.running q.disp q.disp.inArea q.bankB (q.flipAt = some s.cycle) (q.firstAt = some s.cycle))
        else .next s
  | none => .next s

/-! ### The X slot (R155–R158) -/

def execSlotNop (sl : Slot) (s : State) : Res := .next (s.slot sl (fun s => s))

def execVadd (sl : Slot) (d a b : Fin 32) (s : State) : Res :=
  .next (s.slot sl (fun s => s.satLanes sl d.val (fun l => sval (s.v sl a.val l) + sval (s.v sl b.val l))))

def execVaddm (sl : Slot) (d a b : Fin 32) (s : State) : Res :=
  .next (s.slot sl (fun s => s.setLanes sl d.val (fun l => s.v sl a.val l + s.v sl b.val l)))

def execVsub (sl : Slot) (d a b : Fin 32) (s : State) : Res :=
  .next (s.slot sl (fun s => s.satLanes sl d.val (fun l => sval (s.v sl a.val l) - sval (s.v sl b.val l))))

def execVsubm (sl : Slot) (d a b : Fin 32) (s : State) : Res :=
  .next (s.slot sl (fun s => s.setLanes sl d.val (fun l => s.v sl a.val l - s.v sl b.val l)))

def execVneg (sl : Slot) (d a : Fin 32) (s : State) : Res :=
  .next (s.slot sl (fun s => s.satLanes sl d.val (fun l => -sval (s.v sl a.val l))))

def execVabs (sl : Slot) (d a : Fin 32) (s : State) : Res :=
  .next (s.slot sl (fun s => s.satLanes sl d.val (fun l => ((sval (s.v sl a.val l)).natAbs : Int))))

def execVmin (sl : Slot) (d a b : Fin 32) (s : State) : Res :=
  .next (s.slot sl (fun s => s.setLanes sl d.val (fun l =>
    if sval (s.v sl a.val l) ≤ sval (s.v sl b.val l) then s.v sl a.val l else s.v sl b.val l)))

def execVmax (sl : Slot) (d a b : Fin 32) (s : State) : Res :=
  .next (s.slot sl (fun s => s.setLanes sl d.val (fun l =>
    if sval (s.v sl a.val l) ≥ sval (s.v sl b.val l) then s.v sl a.val l else s.v sl b.val l)))

def execVand (sl : Slot) (d a b : Fin 32) (s : State) : Res :=
  .next (s.slot sl (fun s => s.setLanes sl d.val (fun l => s.v sl a.val l &&& s.v sl b.val l)))

def execVor (sl : Slot) (d a b : Fin 32) (s : State) : Res :=
  .next (s.slot sl (fun s => s.setLanes sl d.val (fun l => s.v sl a.val l ||| s.v sl b.val l)))

def execVxor (sl : Slot) (d a b : Fin 32) (s : State) : Res :=
  .next (s.slot sl (fun s => s.setLanes sl d.val (fun l => s.v sl a.val l ^^^ s.v sl b.val l)))

def execVpick (sl : Slot) (d a b : Fin 32) (s : State) : Res :=
  .next (s.slot sl (fun s => s.setLanes sl d.val (fun l =>
    if bitOf (s.v sl d.val l) 31 then s.v sl a.val l else s.v sl b.val l)))

def execVcgt (sl : Slot) (d a b : Fin 32) (s : State) : Res :=
  .next (s.slot sl (fun s => s.setLanes sl d.val (fun l =>
    if sval (s.v sl a.val l) > sval (s.v sl b.val l) then 0xFFFFFFFF else 0)))

def execVceq (sl : Slot) (d a b : Fin 32) (s : State) : Res :=
  .next (s.slot sl (fun s => s.setLanes sl d.val (fun l =>
    if s.v sl a.val l = s.v sl b.val l then 0xFFFFFFFF else 0)))

def execVshl (sl : Slot) (d a n : Fin 32) (s : State) : Res :=
  .next (s.slot sl (fun s => s.satLanes sl d.val (fun l => sval (s.v sl a.val l) * ((2 ^ n.val : Nat) : Int))))

def execVsra (sl : Slot) (d a n : Fin 32) (s : State) : Res :=
  .next (s.slot sl (fun s => s.setLanes sl d.val (fun l => wordOf (sval (s.v sl a.val l) / ((2 ^ n.val : Nat) : Int)))))

def execVsrar (sl : Slot) (d a n : Fin 32) (s : State) : Res :=
  .next (s.slot sl (fun s => s.setLanes sl d.val (fun l => wordOf (roundConv (sval (s.v sl a.val l)) n.val))))

def execVsrl (sl : Slot) (d a n : Fin 32) (s : State) : Res :=
  .next (s.slot sl (fun s => s.setLanes sl d.val (fun l => s.v sl a.val l >>> n.val)))

def execVspl (sl : Slot) (d a : Fin 32) (lane : Fin 4) (s : State) : Res :=
  .next (s.slot sl (fun s => s.setLanes sl d.val (fun _ => s.v sl a.val lane.val)))

def execVidx (sl : Slot) (d : Fin 32) (s : State) : Res :=
  .next (s.slot sl (fun s => s.setLanes sl d.val (fun _ =>
    BitVec.ofNat 32 (s.core sl.core.val).snap.idx.toNat)))

def execVhsum (sl : Slot) (d a : Fin 32) (s : State) : Res :=
  .next (s.slot sl (fun s =>
    let t := sval (s.v sl a.val 0) + sval (s.v sl a.val 1) + sval (s.v sl a.val 2) + sval (s.v sl a.val 3)
    s.satLanes sl d.val (fun l => if l = 0 then t else 0)))

/-- The lowest lane that holds the best value of Va (R158); `lt x y` says that y is better than x. -/
def State.bestLane (s : State) (sl : Slot) (a : Nat) (lt : Int → Int → Bool) : Nat :=
  [1, 2, 3].foldl (fun b l => if lt (sval (s.v sl a b)) (sval (s.v sl a l)) then l else b) 0

def intLt (x y : Int) : Bool := decide (x < y)
def intGt (x y : Int) : Bool := decide (y < x)

/-- Horizontal search: value and lane. -/
def State.hSearch (s : State) (sl : Slot) (d a : Nat) (lt : Int → Int → Bool) : State :=
  let b := s.bestLane sl a lt
  s.setLanes sl d (fun l => if l = 0 then s.v sl a b else if l = 1 then BitVec.ofNat 32 b else 0)

/-- Horizontal search with an index from the paired register. -/
def State.hSearchI (s : State) (sl : Slot) (d a : Nat) (lt : Int → Int → Bool) : State :=
  let b := s.bestLane sl a lt
  s.setLanes sl d (fun l =>
    if l = 0 then s.v sl a b else if l = 1 then s.v sl (a + 1) b else if l = 2 then BitVec.ofNat 32 b else 0)

def execVhmax (sl : Slot) (d a : Fin 32) (s : State) : Res := .next (s.slot sl (fun s => s.hSearch sl d.val a.val intLt))
def execVhmin (sl : Slot) (d a : Fin 32) (s : State) : Res := .next (s.slot sl (fun s => s.hSearch sl d.val a.val intGt))

/-- Va must be even (R158); an odd one is no operation of the core, and the loader never admits it (R150). -/
def execVhmaxi (sl : Slot) (d a : Fin 32) (s : State) : Res :=
  if a.val % 2 = 0 then .next (s.slot sl (fun s => s.hSearchI sl d.val a.val intLt)) else .fault .illFormed

def execVhmini (sl : Slot) (d a : Fin 32) (s : State) : Res :=
  if a.val % 2 = 0 then .next (s.slot sl (fun s => s.hSearchI sl d.val a.val intGt)) else .fault .illFormed

/-- Running search of R158 over the pair Vd, V(d + 1), with a candidate per lane. -/
def State.running (s : State) (sl : Slot) (d : Nat) (cand : Nat → Word) (lt : Int → Int → Bool) : State :=
  upTo 4 (fun l st =>
    if lt (sval (s.v sl d l)) (sval (cand l)) then
      (st.setV sl d l (cand l)).setV sl (d + 1) l (BitVec.ofNat 32 (s.core sl.core.val).snap.idx.toNat)
    else st) s

def execVsmax (sl : Slot) (d a : Fin 32) (s : State) : Res :=
  if d.val % 2 = 0 then .next (s.slot sl (fun s => s.running sl d.val (fun l => s.v sl a.val l) intLt)) else .fault .illFormed

def execVsmin (sl : Slot) (d a : Fin 32) (s : State) : Res :=
  if d.val % 2 = 0 then .next (s.slot sl (fun s => s.running sl d.val (fun l => s.v sl a.val l) intGt)) else .fault .illFormed

def execVsmaxa (sl : Slot) (d a : Fin 32) (s : State) : Res :=
  if d.val % 2 = 0 then
    .next (s.slot sl (fun s =>
      let mag (l : Nat) : Int := ((sval (s.v sl a.val l)).natAbs : Int)
      let n := ((List.range 4).filter (fun l => outOf 32 (mag l))).length
      (s.running sl d.val (fun l => wordOf (sat32 (mag l))) intLt).countSat sl.core.val n))
  else .fault .illFormed

/-- The shift of VMUL: 27, 28, 31 or 32 bits (R155). -/
def vmulShift (k : Nat) : Nat := if k = 0 then 27 else if k = 1 then 28 else if k = 2 then 31 else 32

def execVmul (sl : Slot) (d a b : Fin 32) (k : Fin 4) (s : State) : Res :=
  .next (s.slot sl (fun s => s.satLanes sl d.val (fun l =>
    roundConv (sval (s.v sl a.val l) * sval (s.v sl b.val l)) (vmulShift k.val))))

/-- Set an accumulator's lanes from exact integers, with wrap72 and the overflow flag. -/
def State.wrapLanes (s : State) (sl : Slot) (d : Nat) (f : Nat → Int) : State :=
  (upTo 4 (fun l st => st.setAcc sl d l (f l)) s).flagOvf sl.core.val ((List.range 4).any (fun l => ovf72 (f l)))

def execMac (sl : Slot) (d : Fin 8) (a b : Fin 32) (s : State) : Res :=
  .next (s.slot sl (fun s => s.wrapLanes sl d.val (fun l =>
    s.acc sl d.val l + sval (s.v sl a.val l) * sval (s.v sl b.val l))))

def execMsu (sl : Slot) (d : Fin 8) (a b : Fin 32) (s : State) : Res :=
  .next (s.slot sl (fun s => s.wrapLanes sl d.val (fun l =>
    s.acc sl d.val l - sval (s.v sl a.val l) * sval (s.v sl b.val l))))

def execMul (sl : Slot) (d : Fin 8) (a b : Fin 32) (s : State) : Res :=
  .next (s.slot sl (fun s => upTo 4 (fun l st => st.setAcc sl d.val l (sval (s.v sl a.val l) * sval (s.v sl b.val l))) s))

def execAset (sl : Slot) (d : Fin 8) (a : Fin 32) (n : Fin 41) (s : State) : Res :=
  .next (s.slot sl (fun s => s.wrapLanes sl d.val (fun l => sval (s.v sl a.val l) * ((2 ^ n.val : Nat) : Int))))

def execAlo (sl : Slot) (d : Fin 8) (a : Fin 32) (s : State) : Res :=
  .next (s.slot sl (fun s => upTo 4 (fun l st =>
    st.setAcc sl d.val l (s.acc sl d.val l / 4294967296 * 4294967296 + ((s.v sl a.val l).toNat : Int))) s))

def execAmov (sl : Slot) (d a : Fin 8) (s : State) : Res :=
  .next (s.slot sl (fun s => upTo 4 (fun l st => st.setAcc sl d.val l (s.acc sl a.val l)) s))

def execAadd (sl : Slot) (d a : Fin 8) (s : State) : Res :=
  .next (s.slot sl (fun s => s.wrapLanes sl d.val (fun l => s.acc sl d.val l + s.acc sl a.val l)))

def execAclr (sl : Slot) (d : Fin 8) (s : State) : Res :=
  .next (s.slot sl (fun s => upTo 4 (fun l st => st.setAcc sl d.val l 0) s))

def execExt (sl : Slot) (d : Fin 32) (a : Fin 8) (sh : Fin 64) (r : Bool) (s : State) : Res :=
  .next (s.slot sl (fun s => s.satLanes sl d.val (fun l =>
    if r then s.acc sl a.val l / ((2 ^ sh.val : Nat) : Int) else roundConv (s.acc sl a.val l) sh.val)))

def execExtl (sl : Slot) (d : Fin 32) (a : Fin 8) (sh : Fin 41) (s : State) : Res :=
  .next (s.slot sl (fun s => s.setLanes sl d.val (fun l => wordOf (s.acc sl a.val l / ((2 ^ sh.val : Nat) : Int)))))

/-! ### The memory slots (R159–R162) -/

/-- Align an address down to a power of two. -/
def alignTo (k a : Nat) : Nat := a / k * k

/-- A load's access: PROG_FAULT and zeros in the reserved range (R161), else the words read; the post-modification follows. -/
def State.loadAt (s : State) (sl : Slot) (a : MemAcc) (align : Nat) (f : State → Nat → State) (zeros : State → State) : State :=
  let addr := alignTo align (s.opAddr sl a)
  let c := sl.core.val
  let s1 := s.conflict c a
  let s2 := if addr ≥ spLimit then (zeros s1).progFault c (s1.core c).pc else f s1 addr
  s2.postMod sl a

/-- A store's or an atomic's access: nothing changes and PROG_FAULT in the reserved range (R161). -/
def State.storeAt (s : State) (sl : Slot) (a : MemAcc) (f : State → Nat → State) (zeros : State → State) : State :=
  s.loadAt sl a 16 f zeros

def execVld (sl : Slot) (v : Fin 32) (a : MemAcc) (ue ce : BitVec 4) (s : State) : Res :=
  .next (s.slot sl (fun s => s.loadAt sl a 16
    (fun st addr =>
      let st1 := st.setLanes sl v.val (fun l =>
        if ue.getLsbD l then 0 else st.spWord sl.core.val (addr + 4 * l))
      upTo 4 (fun l st2 =>
        if ue.getLsbD l then st2.eccUe (sl.core.val / 8) (spAddr sl.core.val (addr + 4 * l))
        else if ce.getLsbD l then st2.eccCe (sl.core.val / 8) (spAddr sl.core.val (addr + 4 * l))
        else st2) st1)
    (fun st => st.setLanes sl v.val (fun _ => 0))))

def execVst (sl : Slot) (v : Fin 32) (a : MemAcc) (s : State) : Res :=
  .next (s.slot sl (fun s => s.storeAt sl a
    (fun st addr => upTo 4 (fun l st1 => st1.spStore sl.core.val (addr + 4 * l) (s.v sl v.val l)) st)
    (fun st => st)))

def execVldb (sl : Slot) (v : Fin 32) (a : MemAcc) (s : State) : Res :=
  .next (s.slot sl (fun s => s.loadAt sl a 4
    (fun st addr => st.setLanes sl v.val (fun _ => st.spWord sl.core.val addr))
    (fun st => st.setLanes sl v.val (fun _ => 0))))

/-- An atomic on the 16 bytes at an address (R162): the memory takes `g old v`, the register the old value. -/
def State.atomic (s : State) (sl : Slot) (v : Nat) (addr : Nat) (g : Word → Word → Word) : State :=
  let c := sl.core.val
  upTo 4 (fun l st =>
    let old := s.memWord (spAddr c (addr + 4 * l))
    (st.spStore c (addr + 4 * l) (g old (s.v sl v l))).setV sl v l old) s

def execAtadd (sl : Slot) (v : Fin 32) (a : MemAcc) (s : State) : Res :=
  .next (s.slot sl (fun s => s.storeAt sl a
    (fun st addr => st.atomic sl v.val addr (fun old x => old + x))
    (fun st => st.setLanes sl v.val (fun _ => 0))))

def execAtswp (sl : Slot) (v : Fin 32) (a : MemAcc) (s : State) : Res :=
  .next (s.slot sl (fun s => s.storeAt sl a
    (fun st addr => st.atomic sl v.val addr (fun _ x => x))
    (fun st => st.setLanes sl v.val (fun _ => 0))))

def execPmod (sl : Slot) (a : MemAcc) (s : State) : Res :=
  .next (s.slot sl (fun s => s.postMod sl a))

def execPld (sl : Slot) (n : Fin 16) (a : MemAcc) (s : State) : Res :=
  .next (s.slot sl (fun s => s.loadAt sl a 4
    (fun st addr => st.setP sl n.val (st.spWord sl.core.val addr).toNat)
    (fun st => st.setP sl n.val 0)))

def execMld (sl : Slot) (n : Fin 16) (a : MemAcc) (s : State) : Res :=
  .next (s.slot sl (fun s => s.loadAt sl a 4
    (fun st addr => st.setM sl n.val (signedOf 24 (st.spWord sl.core.val addr).toNat))
    (fun st => st.setM sl n.val 0)))

/-! ### Control operations (R166–R171) -/

def execCnop (sl : Slot) (s : State) : Res := .next (s.slot sl (fun s => s))

/-- Start a hardware block repeat over the next len bundles (R167). -/
def execLoopOp (sl : Slot) (k : Fin 4) (idx : Bool) (len : Fin 2048) (s : State) : Res :=
  if len.val = 0 then .fault .illFormed
  else
    .next (s.slot sl (fun s =>
      let c := sl.core.val
      let x := s.core c
      let s1 := s.setCore c { x with loops := ⟨k.val, x.pc + 1, x.pc + len.val, idx⟩ :: x.loops }
      if idx then s1.mapRegs c (fun r => { r with idx := 0 }) else s1))

/-- The last bundle of the innermost loop's body ends a pass (R167): IDX advances; the loop repeats while passes remain, else it
falls through and the enclosing loop is next. -/
def execLoopPassEnd (core : Fin 32) (k : Fin 4) (s : State) : Res :=
  let x := s.core core.val
  match x.loops with
  | f :: rest =>
    if f.k = k.val ∧ x.run.isSome ∧ x.pc = f.last then
      let n := SMap.get zeroNat x.r.lc k.val
      let r1 : CoreRegs := { x.r with lc := SMap.set zeroNat x.r.lc k.val (n - 1) }
      let r2 : CoreRegs := if f.idx then { r1 with idx := r1.idx + 1 } else r1
      if n - 1 = 0 then .next (s.setCore core.val { x with r := r2, loops := rest })
      else .next (s.setCore core.val { x with r := r2, next := f.first })
    else .next s
  | [] => .next s

/-- Loop counter k takes a count; the 13 bits hold 1–4,096. -/
def State.setLc (s : State) (c k n : Nat) : State :=
  s.mapRegs c (fun r => { r with lc := SMap.set zeroNat r.lc k n })

def execSetlc (sl : Slot) (k : Fin 4) (n : BitVec 12) (s : State) : Res :=
  .next (s.slot sl (fun s => s.setLc sl.core.val k.val (if n.toNat = 0 then 4096 else n.toNat)))

def execSetlcr (sl : Slot) (k : Fin 4) (p : Fin 16) (mx : BitVec 8) (s : State) : Res :=
  .next (s.slot sl (fun s =>
    let top := if mx.toNat = 0 then 256 else mx.toNat
    s.setLc sl.core.val k.val (min (max (s.ptr sl p.val % 4096) 1) top)))

/-- Whether a branch condition holds (R169). -/
def State.branchCond (s : State) (sl : Slot) (c : Nat) : Bool :=
  let x := s.core sl.core.val
  let any := (List.range 4).any (fun l => s.v sl 0 l != 0)
  match c with
  | 0 => true | 1 => x.swapF | 2 => !x.swapF | 3 => x.firstF | 4 => !x.firstF | 5 => any | 6 => !any | _ => false

/-- A taken branch makes the current bundle + off the next one (R169). Condition 0b111 is reserved, off runs from 1. -/
def execBrf (sl : Slot) (c : Fin 8) (off : Fin 2048) (s : State) : Res :=
  if c.val = 7 ∨ off.val = 0 then .fault .illFormed
  else
    .next (s.slot sl (fun s =>
      if s.branchCond sl c.val then
        let x := s.core sl.core.val
        s.setCore sl.core.val { x with next := x.pc + off.val }
      else s))

def execPaddi (sl : Slot) (p : Fin 16) (imm : BitVec 10) (s : State) : Res :=
  .next (s.slot sl (fun s => s.setP sl p.val (advance (s.ptr sl p.val) (16 * imm.toInt) (s.windowOf sl p.val))))

def execSetm (sl : Slot) (m : Fin 16) (imm : BitVec 9) (x16 : Bool) (s : State) : Res :=
  .next (s.slot sl (fun s => s.setM sl m.val (imm.toInt * (if x16 then 16 else 4))))

def execPmov (sl : Slot) (d a : Fin 16) (s : State) : Res :=
  .next (s.slot sl (fun s => s.setP sl d.val (s.ptr sl a.val)))

def execSetw (sl : Slot) (k : Fin 4) (p m : Fin 16) (s : State) : Res :=
  .next (s.slot sl (fun s => s.mapRegs sl.core.val (fun r =>
    { r with
      wBase := SMap.set zeroNat r.wBase k.val (alignTo 16 (s.ptr sl p.val))
      wLen := SMap.set zeroNat r.wLen k.val (bitsOf 24 (s.ofs sl m.val) / 16 % 262144 * 16) })))

def execBindOp (sl : Slot) (p : Fin 16) (w : Option (Fin 4)) (s : State) : Res :=
  .next (s.slot sl (fun s => s.mapRegs sl.core.val (fun r =>
    { r with bnd := SMap.set zeroNat r.bnd p.val (match w with | some k => k.val + 1 | none => 0) })))

def execSetidx (sl : Slot) (imm : BitVec 14) (s : State) : Res :=
  .next (s.slot sl (fun s => s.mapRegs sl.core.val (fun r => { r with idx := BitVec.ofNat 16 imm.toNat })))

/-- Whether a pool range lies wholly inside one DRAM region of the running image (R171). -/
def State.poolOk (s : State) (off len : Nat) : Bool :=
  match s.img.running with
  | some im => im.regions.any (fun r => r.dram && r.base ≤ off && off + len ≤ r.base + r.length)
  | none => false

/-- The matrix address of the delay pool in DRAM (R189). -/
def poolBase : Nat := 0x80000000

/-- Queue a DRAM transfer (R171, R192): a 65th, one outside its region, or one that reaches the reserved range is dropped and
logged. A field that is not a multiple of 16 makes no transfer of R171 either and is dropped the same way. -/
def execDlq (sl : Slot) (v : Fin 32) (s : State) : Res :=
  .next (s.slot sl (fun s =>
    let c := sl.core.val
    let x := s.core c
    let pool := (s.v sl v.val 0).toNat
    let sp := (s.v sl v.val 1).toNat
    let len := (s.v sl v.val 2).toNat
    let dir := (s.v sl v.val 3).toNat
    let overs := x.dlqBytes + len > 1024 * s.blk
    let s1 := s.setCore c { x with dlqUsed := x.dlqUsed + 1, dlqBytes := if overs then x.dlqBytes else x.dlqBytes + len }
    if x.dlqUsed ≥ 64 || overs || !s.poolOk pool len || sp + len > spLimit || pool % 16 != 0 || sp % 16 != 0
        || len % 16 != 0 || len < 16 || 4096 < len || 1 < dir then
      ((s1.progFault c x.pc).flagEvent MEM_STATUS.dlq_drop 0 c).bump MEM_DLQ_DROP.count 1
    else { s1 with dsp := { s1.dsp with dlq := s1.dsp.dlq ++ [⟨c, pool, sp, len, dir = 1⟩] } }))

/-- Carry out one transfer. -/
def State.runXfer (s : State) (x : DlqXfer) : State :=
  if x.toPool then s.setBytes (poolBase + x.pool) (s.bytes (spAddr x.core x.sp) x.len)
  else s.setBytes (spAddr x.core x.sp) (s.bytes (poolBase + x.pool) x.len)

/-- The oldest queued transfer of a core completes (R171, R191). -/
def execDlqTransferDone (core : Fin 32) (s : State) : Res :=
  match s.dsp.dlq.find? (fun x => x.core = core.val) with
  | some x => .next ({ s with dsp := { s.dsp with dlq := s.dsp.dlq.erase x } }.runXfer x)
  | none => .next s

/-- The crossfade of R122 over a block: from one area to another, the result in a third. Each area is a dispatch record and
whether its output area is meant. -/
def State.crossAreas (s : State) (x y dst : DispRec × Bool) : State :=
  let b := s.blk
  upTo (4 * b) (fun i st =>
    let p := i / 4
    let l := i % 4
    let yx := st.memWord (quadAddr x.1 x.2 l p)
    let yy := st.memWord (quadAddr y.1 y.2 l p)
    let gIn := rampGain 0 unity b (p + 1)
    let gOut := unity - gIn
    st.setMemWord (quadAddr dst.1 dst.2 l p) (wordOf (satTo 32 (sval (scale yx gOut) + sval (scale yy gIn))))) s

/-- The crossfade of a quad in its cycle of change: from bypass to program, from program to bypass (R122), or from its old to its
new program at a switch (R138). -/
def State.crossQuad (s : State) (q : Quad) : State :=
  let d := q.disp
  match q.oldRec with
  | some o => if q.prog then s.crossAreas (o, true) (d, true) (d, true) else s.crossAreas (o, true) (d, false) (d, true)
  | none => if q.prog then s.crossAreas (d, false) (d, true) (d, true) else s.crossAreas (d, true) (d, false) (d, true)

/-- What the end of a record does for its quad: in a switch cycle the old program hands over to the new one; the last program of a
crossfade forms it. -/
def State.recordEnd (s : State) (key : Nat) : State :=
  match SMap.find s.img.quads key with
  | some q =>
    if !s.crossing q then s
    else if q.oldRec.isSome && !q.oldDone then
      let s1 := s.setQuad key { q with oldDone := true }
      if q.prog then s1 else s1.crossQuad q
    else s.crossQuad q
  | none => s

/-- END completes the dispatch record (R170): the core is free for its next record; a quad that changes between bypass and program
in this cycle has its crossfade formed. -/
def execEndOp (sl : Slot) (s : State) : Res :=
  .next (s.slot sl (fun s =>
    let c := sl.core.val
    match (s.core c).run with
    | none => s
    | some k =>
      let s1 := s.recordEnd k
      let s2 := s1.setCore c { (s1.core c) with run := none, loops := [] }
      s2.wr ⟨CLU_STATUS (c / 8), 16 + c % 8, 1⟩ 0))

end Sys2Proof.Machine
end

