-- ==== Sys2Proof/Machine/Lock.lean ====
section
/-! DEFINITION. What stands between a write and a register: masters and their IDs (R456), locks in a synced pair and refused writes
(R11), closed clock gates (R332), and a pending start's place in time. -/

namespace Sys2Proof.Machine

/-- Master IDs (R456). -/
def Master.id : Master → Nat
  | .cp => 0 | .hb => 1 | .ndma => 2 | .mdma => 3 | .fdma => 4 | .cdma n => 5 + n.val | .xld => 9

/-- Whether the fields that are locked in a synced pair are locked toward a master (R11, R31): the host bridge alone. -/
def State.pairLocked (s : State) (m : Master) : Bool := s.synced && m = .hb

/-- A write-protect event (R11). -/
def State.wpEvent (s : State) (m : Master) (addr : Nat) : State :=
  s.event 0x0006 (BitVec.ofNat 32 addr) (BitVec.ofNat 32 m.id)

/-- A refused write (R11): its flag and the write-protect event. -/
def State.refuseWrite (s : State) (flag : Fld) (m : Master) : State := (s.set1 flag).wpEvent m flag.addr

/-- The gate bit of the block that holds a register address (CLK_GATE_REQ): 0–3 clusters, 4 DEC, 5 ASRC, 6 SP, 7 NETB, 8 VIS.
CLUn_STATUS, which shows the gate, stays readable. -/
def gateBit (addr : Nat) : Option Nat :=
  let b := addr / 0x10000
  if b = 0x4030 then (if addr % 0x1000 = 0 then none else some (addr / 0x1000 % 4))
  else if b = 0x4011 then some 4 else if b = 0x4012 then some 5 else if b = 0x4010 then some 6
  else if b = 0x400A then some 7 else if addr / 0x1000 = 0x40403 then some 8 else none

/-- Whether a gate is closed or closing (R332, R467). -/
def State.gateShut (s : State) (k : Nat) : Bool :=
  (s.rd CLK_GATE_STAT.closed) / 2 ^ k % 2 = 1 || (s.rd CLK_GATE_STAT.pend) / 2 ^ k % 2 = 1

/-- Whether a register's block answers UNAVAILABLE because it is gated. -/
def State.gated (s : State) (addr : Nat) : Bool :=
  match gateBit addr with
  | some k => s.gateShut k
  | none => false

/-- An access to a gated block completes UNAVAILABLE (R466, R467). -/
def State.unavail (s : State) : State := (s.bump BUS_EVCNT.unavail 1).flagEvent BUS_STATUS.unavail 0 0

/-- The attach state code (R370). -/
def State.astate (s : State) : Nat := s.rd PAIR_STATUS.astate

/-- Whether the unit drives the shared outputs that one unit drives (R362, R370): a solo unit, or the LEAD. -/
def State.leads (s : State) : Bool := !s.twin || s.astate = 4

/-- Whether the unit is the home unit (R384, PAIR_HOME): SYS_STATE.unit is 1 on unit B. -/
def State.isHome (s : State) : Bool := s.rd PAIR_HOME.home_b = s.rd SYS_STATE.unit

/-- Whether the unit drives a shared digital pin or MBIAS (R362, R363, R365, R366): a solo unit drives every output; the LEAD drives
what it may without a probe and what it has taken; a STANDBY drives a pin it has taken. -/
def State.drivesPin (s : State) (o : SharedOut) : Bool :=
  !s.twin || (s.astate = 4 && (s.pair.free || o ∈ s.pair.taken)) || (s.astate = 5 && o ∈ s.pair.taken)

/-- Whether the unit drives an analog output (R245, R366): the STANDBY too; a provisional winner after the probe. -/
def State.drivesAnalog (s : State) (n : Fin 8) : Bool :=
  !s.twin || (s.astate = 4 && (!s.pair.provisional || SharedOut.aout n ∈ s.pair.taken)) || s.astate = 5

/-- The apply cycle of a register action: 0, or one not later than CYCLE, takes effect at the next tick. -/
def State.actionCycle (s : State) (a : Word) : Word := if a = 0 || !later32 a s.cycle then s.cycle + 1 else a

end Sys2Proof.Machine
end

