-- ==== Sys2Proof/Machine/Gen.lean ====
section
/-! DEFINITION. The generators (R272–R276): sine table, LFSR, patterns, gates and levels. -/

namespace Sys2Proof.Machine

/-! ### The sine table (R273) -/

/-- π times 2^100, rounded down. -/
def piScaled : Nat := 0x3243F6A8885A308D313198A2E0

/-- Terms of the sine series in units of 2^−100: term t, angle squared q, index i, n terms left. -/
def sineSeries (q : Int) : Nat → Nat → Int → Int
  | 0, _, _ => 0
  | n + 1, i, t => t + sineSeries q n (i + 1) (-(t * q / 2 ^ 100) / ((2 * i + 2) * (2 * i + 3)))

/-- 2^27 × sin(2πk / 4,096) rounded to the nearest integer, for k up to 1,024. -/
def sineQuarter (k : Nat) : Int :=
  let x : Int := (piScaled * k / 2048 : Nat)
  (sineSeries (x * x / 2 ^ 100) 24 0 x + 2 ^ 72) / 2 ^ 73

/-- t[k] of R273. -/
def sineTable (k : Nat) : Int :=
  let j := k % 4096
  let r := j % 2048
  let v := if r ≤ 1024 then sineQuarter r else sineQuarter (2048 - r)
  if j < 2048 then v else -v

/-- The sine sample of a phase (R273). -/
def sineSample (phase : Word) : Word :=
  let i := fieldOf phase 31 20
  let f := fieldOf phase 19 4
  wordOf (sineTable i + ((sineTable (i + 1) - sineTable i) * f) / 2 ^ 16)

/-! ### Noise (R274) -/

/-- One draw of the LFSR. -/
def lfsrDraw (r : Word) : Word := if r.getLsbD 0 then (r >>> 1) ^^^ 0x80200003 else r >>> 1

/-- Trailing zero bits of a number below 2^16; 15 of zero. -/
def trailingZeros (n : Nat) : Nat := ((List.range 15).find? (fun k => n / 2 ^ k % 2 = 1)).getD 15

/-! ### Patterns (R275) -/

/-- Edge ramp samples, Ne = 0.005 × Fi. -/
def State.edge (s : State) : Nat := s.fi / 200

/-- Segments of a pattern. -/
def State.genSegs (s : State) (g : Nat) : Nat := if s.rd (GEN_CFG.type g) = 4 then 6 else s.rd (GEN_CFG.nseg g) + 1

/-- Samples of a segment, or of an ISO 8201 phase. -/
def State.segLen (s : State) (g k : Nat) : Nat :=
  if s.rd (GEN_CFG.type g) = 4 then (if k = 5 then 3 * s.fi / 2 else s.fi / 2)
  else max 1 (s.rd (GEN_SEG_DUR.dur g k)) * s.fi / 1000

/-- Whether a segment's tone is on. -/
def State.segOn (s : State) (g k : Nat) : Bool :=
  if s.rd (GEN_CFG.type g) = 4 then k % 2 = 0 else s.isSet (GEN_SEG_DUR.on g k)

/-- The gate at position i of segment k. -/
def State.segGate (s : State) (g k i : Nat) (looped : Bool) : Word :=
  let iso := s.rd (GEN_CFG.type g) = 4
  let n := s.segLen g k
  let ne := s.edge
  let segs := s.genSegs g
  if !s.segOn g k then 0
  else
    let rises := iso || (k = 0 && !looped) || !s.segOn g ((k + segs - 1) % segs)
    let falls := iso || !s.segOn g ((k + 1) % segs)
    let up := if rises && i < ne then rampGain 0 unity ne (i + 1) else unity
    let down := if falls && n ≤ i + ne then rampGain unity 0 ne (i + ne - n + 1) else unity
    if up.toNat ≤ down.toNat then up else down

/-- The frequency word at position i of segment k: it sweeps from fstart by (fend − fstart) / N a sample. -/
def State.segWord (s : State) (g k i : Nat) : Word :=
  let a := s.reg (GEN_SEG_FSTART g k)
  let b := s.reg (GEN_SEG_FEND g k)
  a + wordOf ((sval (b - a)).tdiv (s.segLen g k) * i)

/-! ### Samples -/

def genDefault : Nat → Gen := fun _ => ⟨false, 0, 0, 0, 0, 0, [], 0, 0, 0, false, []⟩

def State.gen (s : State) (g : Nat) : Gen := SMap.get genDefault s.msg.gens g

def State.setGen (s : State) (g : Nat) (x : Gen) : State :=
  { s with msg := { s.msg with gens := SMap.set genDefault s.msg.gens g x } }

/-- The pilot's frequency word (R272). -/
def State.pilotWord (s : State) : Word := if s.fi = 96000 then 0x50000000 else 0x6AAAAAAB

/-- One sample before the level, and the generator after it. -/
def State.genSample (s : State) (g : Nat) (x : Gen) : Word × Gen :=
  let ty := s.rd (GEN_CFG.type g)
  let tone (w : Word) : Gen := { x with phase := x.phase + w, n := x.n + 1 }
  if ty = 1 then
    let r := lfsrDraw x.lfsr
    (BitVec.sshiftRight r 4, { x with lfsr := r, n := x.n + 1 })
  else if ty = 2 then
    let n := x.n + 1
    let r1 := lfsrDraw x.lfsr
    let rows := SMap.set zeroWord x.rows (trailingZeros (n % 65536)) (BitVec.sshiftRight r1 8)
    let r2 := lfsrDraw r1
    ((List.range 16).foldl (fun a k => a + SMap.get zeroWord rows k) (BitVec.sshiftRight r2 8),
      { x with lfsr := r2, rows := rows, n := n })
  else if ty = 3 then (sineSample x.phase, tone s.pilotWord)
  else if ty ≥ 4 then
    let w := if ty = 4 then x.freq else s.segWord g x.seg x.pos
    (scale (sineSample x.phase) (s.segGate g x.seg x.pos x.looped), { tone w with pos := x.pos + 1 })
  else (sineSample x.phase, tone x.freq)

/-- A used-up segment gives way to the next (R275). -/
def State.genTurn (s : State) (g : Nat) (x : Gen) : Gen :=
  if s.rd (GEN_CFG.type g) ≥ 4 && x.pos ≥ s.segLen g x.seg then
    let k := (x.seg + 1) % s.genSegs g
    { x with seg := k, pos := 0, looped := x.looped || k = 0 }
  else x

/-- The next n samples of a block, scaled by the level and its ramp (R276). -/
def State.genRun (s : State) (g : Nat) : Nat → Gen → Gen
  | 0, x => x
  | n + 1, x =>
    let (w, y) := s.genSample g x
    let i := x.part.length + 1
    let lv := if x.fromG = x.level then x.level else rampGain x.fromG x.level s.blk i
    s.genRun g n (s.genTurn g { y with part := x.part ++ [scale w lv] })

/-- Whether a generator delivers samples in this block. -/
def Gen.sounds (x : Gen) : Bool := x.on || x.fromG != x.level

/-- Its registers show a generator (GENg_STAT). -/
def State.genSync (s : State) (g : Nat) : State :=
  let x := s.gen g
  (s.wrB (GEN_STAT.running g) x.sounds).wr (GEN_STAT.seg g) x.seg

/-- A generator's block of the cycle that ends. -/
def State.genBlock (s : State) (g : Nat) : State × List Word :=
  let x := s.gen g
  if x.sounds then
    let y := s.genRun g (s.blk - x.part.length) x
    (s.setGen g { y with part := [] }, y.part)
  else (s, List.replicate s.blk 0)

/-- The GEN_CTRL start that runs a generator loses it: with its last generator the command ends ABORTED (R405, R406). -/
def State.genEnds (s : State) (g : Nat) : State :=
  match s.q.outst.find? (fun o => o.phase = .running && o.cmd.op = 0x0705 && o.objs.contains g) with
  | none => s
  | some o =>
    if o.objs = [g] then s.finish o.cmd.ref stAborted 0 []
    else s.mapOut o.cmd.ref (fun x => { x with objs := x.objs.filter (fun k => k != g) })

/-- A generator at a tick (R276): it starts, stops, or takes a new level or frequency word. -/
def State.genTickOne (s : State) (g : Nat) : State :=
  let x := s.gen g
  let en := s.isSet (GEN_CFG.en g)
  let level := s.reg (GEN_LEVEL g)
  let freq := s.reg (GEN_FREQ g)
  if en && !x.on then
    let seed := s.reg (GEN_SEED g)
    (s.setGen g ⟨true, 0, level, freq, 0, if seed = 0 then 1 else seed, [], 0, 0, 0, false, []⟩).genSync g
  else if en then (s.setGen g { x with fromG := x.level, level := level, freq := freq }).genSync g
  else if x.on then ((s.setGen g { x with on := false, fromG := x.level, level := 0 }).genSync g).genEnds g
  else (s.setGen g (genDefault g)).genSync g

/-- Every generator at a tick. -/
def State.genTick (s : State) : State :=
  upTo 32 (fun g st => if st.isSet (GEN_CFG.en g) || st.gen g != genDefault g then st.genTickOne g else st) s

/-- A generator register word as a write leaves it (R272): type values 6 and 7 leave the field unchanged. -/
def State.genCfgWord (s : State) (g : Nat) (v : Word) : Word :=
  let old := s.reg (GEN_CFG g)
  let v1 := v &&& 0xF0000007
  if getFld (GEN_CFG.type g) v ≥ 6 then putFld (GEN_CFG.type g) v1 (getFld (GEN_CFG.type g) old) else v1

/-- A write of GENg_CFG (R276): type and nseg are locked while en is set; in a synced pair every field is, toward the host bridge.
The unlocked field takes its value; the Boolean says that a locked field would have changed. -/
def State.genCfgPut (s : State) (m : Master) (g : Nat) (v : Word) : State × Bool :=
  let old := s.reg (GEN_CFG g)
  let new := s.genCfgWord g v
  if s.pairLocked m then
    if new = old then (s, false) else (s.set1 MSG_STATUS.wr_refused, true)
  else if s.isSet (GEN_CFG.en g) && new &&& 0x70000007 != old &&& 0x70000007 then
    ((s.setReg (GEN_CFG g) ((old &&& 0x70000007) ||| (new &&& 0x80000000))).set1 MSG_STATUS.wr_refused, true)
  else (s.setReg (GEN_CFG g) new, false)

def State.genCfgWrite (s : State) (m : Master) (g : Nat) (v : Word) : State :=
  let (s1, refused) := s.genCfgPut m g v
  if refused then s1.wpEvent m (GEN_CFG g) else s1

def execGenEnableWrite (master : Master) (g : Fin 32) (value : Word) (s : State) : Res :=
  .next (s.genCfgWrite master g.val value)

/-- R275: a segment or phase ends within the block of the cycle that runs; the next begins. -/
def execGenSegmentEnd (g : Fin 32) (s : State) : Res :=
  let x := s.gen g.val
  let left := s.segLen g.val x.seg - x.pos
  if x.on && s.rd (GEN_CFG.type g.val) ≥ 4 && left ≤ s.blk - x.part.length then
    .next ((s.setGen g.val (s.genRun g.val left x)).genSync g.val)
  else .next s

end Sys2Proof.Machine
end

