-- ==== Sys2Proof/Machine/Ring.lean ====
section
/-! DEFINITION. The rings in memory (17_command_rings.md, R387–R391, R408): doorbells, completion reads, enable, fetch. -/

namespace Sys2Proof.Machine

/-! ### Protocol faults (R408) -/

/-- A doorbell or cci write that is ignored: the index keeps its value; code 1–4. -/
def State.ringFault (s : State) (n code value : Nat) : State :=
  let w := 2 ^ 31 + n * 2 ^ 24 + code * 2 ^ 16 + value % 65536
  (((s.set1 (CMD_RING_STAT.db_err n)).set1 CMD_STATUS.viol).setReg CMD_VIOL (BitVec.ofNat 32 w)).event 0x0601
    (BitVec.ofNat 32 (n * 256 + code)) (BitVec.ofNat 32 value)

/-- R388: the doorbell. A backward index is code 2, one that gives pi − ci > S code 1. -/
def execCmdDoorbell (n : Fin 16) (pi : BitVec 16) (s : State) : Res :=
  let old : BitVec 16 := BitVec.ofNat 16 (s.rd (CMD_RING_DB.pi n.val))
  let ci : BitVec 16 := BitVec.ofNat 16 (s.rd (CMD_RING_CI.ci n.val))
  .next (
    if !s.ringRun n.val then s.ringFault n.val 4 pi.toNat
    else if later16 old pi then s.ringFault n.val 2 pi.toNat
    else if (pi - ci).toNat > s.ringSize n.val then s.ringFault n.val 1 pi.toNat
    else s.wr (CMD_RING_DB.pi n.val) pi.toNat)

/-- R388: the host has read completion entries. -/
def execCmdCdbWrite (n : Fin 16) (cci : BitVec 16) (s : State) : Res :=
  let old : BitVec 16 := BitVec.ofNat 16 (s.rd (CMD_RING_CDB.cci n.val))
  let cpi : BitVec 16 := BitVec.ofNat 16 (s.rd (CMD_RING_CI.cpi n.val))
  .next (
    if !s.ringRun n.val then s.ringFault n.val 4 cci.toNat
    else if later16 old cci || later16 cci cpi then s.ringFault n.val 3 cci.toNat
    else s.wr (CMD_RING_CDB.cci n.val) cci.toNat)

/-! ### Enable (R387) -/

/-- The byte ranges of a ring pair: command ring and completion ring, each as start and end. -/
def State.ringSpans (s : State) (n : Nat) : List (Nat × Nat) :=
  let c := s.rd (CMD_RING_CBASE.addr n)
  let p := s.rd (CMD_RING_PBASE.addr n)
  [(c, c + 64 * s.ringSize n), (p, p + 64 * s.ringSize n)]

/-- Whether two byte ranges share a byte. -/
def spansMeet (a b : Nat × Nat) : Bool := a.1 < b.2 && b.1 < a.2

/-- Whether a ring's configuration may be enabled. -/
def State.ringConfigOk (s : State) (n : Nat) : Bool :=
  let mine := s.ringSpans n
  let others := ((List.range 16).filter (fun k => k != n && !s.ringOff k)).flatMap s.ringSpans
  s.rd (CMD_RING_CFG.size n) ≤ 4
    && mine.all (fun r => r.1 % 1024 = 0 && 0x10100000 ≤ r.1 && r.2 ≤ 0x10200000)
    && !(spansMeet (mine.getD 0 (0, 0)) (mine.getD 1 (0, 0)))
    && mine.all (fun r => others.all (fun o => !spansMeet r o))

/-- Enable an OFF ring: its indices are 0. An enable of a ring that is not OFF has no effect. -/
def State.ringEnable (s : State) (n : Nat) : State :=
  if !s.ringOff n then s
  else if !s.ringConfigOk n then ((s.set1 (CMD_RING_STAT.cfg_bad n)).flagEvent CMD_STATUS.viol n 0)
  else
    let s1 := (s.setReg (CMD_RING_CI n) 0).wr (CMD_RING_DB.pi n) 0
    ((s1.wr (CMD_RING_CDB.cci n) 0).wr (CMD_RING_STAT.cq_stall n) 0).wr (CMD_RING_STAT.state n) 1

def execCmdRingEnable (n : Fin 16) (s : State) : Res := .next (s.ringEnable n.val)

/-- R409 step 3: with the last final completion written, the ring enters OFF. -/
def State.drainDone (s : State) (n : Nat) : State :=
  if s.ringDraining n && s.outstanding n = 0 then
    let s1 := (s.wr (CMD_RING_STAT.state n) 0).wr (CMD_RING_STAT.cq_stall n) 0
    { s1 with q := { s1.q with waited := s1.q.waited.filter (fun p => p.1 != n) } }
  else s

def execRingDrainDone (n : Fin 16) (s : State) : Res := .next (s.drainDone n.val)

/-! ### Fetch (R389–R391) -/

/-- Slots that a length field occupies; one for a length outside 4–64 (R408). -/
def slotsOf (len : Nat) : Nat := if len < 4 || 64 < len then 1 else (len + 15) / 16

/-- The 16 words of the slot that index i names. -/
def State.slotWords (s : State) (n i : Nat) : List Word :=
  let a := s.rd (CMD_RING_CBASE.addr n) + 64 * (i % s.ringSize n)
  (List.range 16).map (fun k => s.memWord (a + 4 * k))

/-- Slots submitted and not yet consumed. -/
def State.submitted (s : State) (n : Nat) : Nat :=
  (s.rd (CMD_RING_DB.pi n) + 65536 - s.rd (CMD_RING_CI.ci n)) % 65536

/-- The command that starts at index i, with its slots. -/
def State.cmdAt (s : State) (n i : Nat) : Cmd × Nat :=
  let head := s.slotWords n i
  let k := slotsOf (fieldOf (head.getD 0 0) 31 24)
  let ws := head ++ (List.range (k - 1)).flatMap (fun j => s.slotWords n (i + 1 + j))
  (Cmd.ofWords (Fin.ofNat 16 n) (BitVec.ofNat 16 i) ws, k)

/-- The command at the head of a running ring, once all of its slots are submitted. -/
def State.headCmd (s : State) (n : Nat) : Option (Cmd × Nat) :=
  if !s.ringRun n || s.submitted n = 0 then none
  else
    let x := s.cmdAt n (s.rd (CMD_RING_CI.ci n))
    if x.2 ≤ s.submitted n then some x else none

/-- Whether the completion ring has room for a further outstanding command (R389). -/
def State.hasRoom (s : State) (n : Nat) : Bool := 2 * (s.outstanding n + 1) ≤ s.freeEntries n

/-- Whether the head may be fetched: with room, and behind a fence only once nothing of the ring is outstanding. -/
def State.mayFetch (s : State) (n : Nat) : Bool :=
  match s.headCmd n with
  | some (c, _) => s.hasRoom n && (!c.fence || s.outstanding n = 0)
  | none => false

/-- Consume the head's slots. -/
def State.consume (s : State) (n k : Nat) : State := s.wrapInc (CMD_RING_CI.ci n) k

/-- Fetch the head of a ring: the command to decide, or none where an ABORT had marked it (R405). -/
def State.fetchHead (s : State) (n : Nat) : Option Cmd × State :=
  match s.headCmd n with
  | none => (none, s)
  | some (c, k) =>
    if !s.hasRoom n then (none, s.wr (CMD_RING_STAT.cq_stall n) 1)
    else if c.fence && s.outstanding n ≠ 0 then (none, s.wr (CMD_RING_STAT.cq_stall n) 0)
    else
      let s1 := ((s.wr (CMD_RING_STAT.cq_stall n) 0).consume n k).countFetch c
      match s1.q.abortMarks.find? (fun m => m.1 = n && m.2.1 = c.slot.toNat) with
      | some (_, _, ab) =>
        let s2 := { s1 with q := { s1.q with abortMarks := s1.q.abortMarks.filter (fun m => !(m.1 = n && m.2.1 = c.slot.toNat)) } }
        (none, (s2.complete c stAborted 0 s2.cycle []).complete ab stDone 0 s2.cycle [])
      | none => (some c, s1)

/-- Whether the command processor is stopped, or a debugger halts it. -/
def State.cpDown (s : State) : Bool := s.flt.cpStopped || s.spi.halted

/-- R389: the firmware fetches the head of a ring from 1. -/
def execCommandFetch (n : Fin 16) (s : State) : Res :=
  .next (
    if n.val = 0 || s.cpDown || !s.engineRuns || s.q.fetched.any (fun c => c.ring = n) then s
    else match s.fetchHead n.val with
      | (some c, s1) => { s1 with q := { s1.q with fetched := s1.q.fetched ++ [c] } }
      | (none, s1) => s1)

end Sys2Proof.Machine
end

