-- ==== Sys2Proof/Machine/Act.lean ====
section
/-! DEFINITION. Image activation (R33, R136–R142), parameter blocks and their swaps (R126–R128), quads between bypass and program
(R121, R122). -/

namespace Sys2Proof.Machine

/-! ### Quads between bypass and program -/

/-- Bring one quad in line with the state for cycle `a`: a change crossfades in that cycle; on a return to its program its region
is reset where `reset` says so (R121), and the first flag is set. -/
def State.requadOne (s : State) (a : Word) (reset : Bool) (key : Nat) (q : Quad) : State :=
  let want := s.wantProg q.disp
  if want = q.prog then s
  else if want && reset then
    (s.initQuadRegion q.disp).setQuad key { q with prog := true, crossAt := some a, firstAt := some a }
  else s.setQuad key { q with prog := want, crossAt := some a }

/-- Bring every quad in line with the state for cycle `a`. -/
def State.requad (s : State) (a : Word) (reset : Bool) : State :=
  forAll s.img.quads (fun p st => st.requadOne a reset p.1 p.2) s

/-- At a tick stamps of earlier cycles lapse. -/
def State.quadTick (s : State) : State :=
  let keep (x : Option Word) : Option Word := if x = some s.cycle then x else none
  { s with img := { s.img with quads := s.img.quads.map (fun p =>
      let q := p.2
      (p.1, { q with crossAt := keep q.crossAt, firstAt := keep q.firstAt, flipAt := keep q.flipAt,
                     oldRec := if q.crossAt = some s.cycle then q.oldRec else none })) } }

/-! ### Parameters (R126–R128, R423) -/

/-- The quad key of a strip: class 0x02 input, 0x03 output strips. -/
def stripKey (cls strip : Nat) : Nat := (if cls = 3 then 256 else 0) + strip / 4

/-- Whether the running image gives a strip's quad no parameter blocks (R120, R127). -/
def State.bypassStrip (s : State) (cls strip : Nat) : Bool :=
  match SMap.find s.img.quads (stripKey cls strip) with
  | some q => q.disp.bypass
  | none => true

/-- Whether a strip's quad runs as bypass only because of SQUALL. -/
def State.shedStrip (s : State) (cls strip : Nat) : Bool :=
  match SMap.find s.img.quads (stripKey cls strip) with
  | some q => s.squallBypassed q.disp
  | none => false

def State.shadowOf (s : State) (cls strip : Nat) : Shadow :=
  match SMap.find s.img.quads (stripKey cls strip) with
  | some q => q.shadow
  | none => .clean

def Shadow.code : Shadow → Nat
  | .clean => 0 | .dirty => 1 | .pending => 2 | .syncing => 3

/-- The parameter of a strip with a given id. -/
def State.paramOf (s : State) (cls strip id : Nat) : Option ParamDesc :=
  match s.img.running with
  | some im =>
    match im.blocks.find? (fun b => b2n b.outq * 256 + b.quad = stripKey cls strip) with
    | some b => b.descs.find? (fun d => d.id = id)
    | none => none
  | none => none

/-- The address of word w of a strip's lane in one of its quad's banks. -/
def State.paramAddr (s : State) (cls strip w : Nat) (shadow : Bool) : Nat :=
  match SMap.find s.img.quads (stripKey cls strip) with
  | some q => spAddr q.disp.core (bankAddrIn s.img.running q.disp.outq q.disp.quad (q.bankB != shadow)) + 16 * w + 4 * (strip % 4)
  | none => 0

/-- Change the quad of a strip. -/
def State.mapQuad (s : State) (key : Nat) (f : Quad → Quad) : State :=
  match SMap.find s.img.quads key with
  | some q => s.setQuad key (f q)
  | none => s

/-- The values of a PARAM_WRITE land in the shadow bank of a strip's lane; the shadow becomes DIRTY. -/
def State.paramWrite (s : State) (cls strip w : Nat) (vals : List Word) : State :=
  let s1 := forAll vals.zipIdx (fun x st => st.setMemWord (st.paramAddr cls strip (w + x.2) true) x.1) s
  s1.mapQuad (stripKey cls strip) (fun q => { q with shadow := .dirty })

/-- A swap is accepted on a strip's quad: PENDING. -/
def State.paramPend (s : State) (cls strip : Nat) (a : Word) (r : CmdRef) : State :=
  s.mapQuad (stripKey cls strip) (fun q => { q with shadow := .pending, swapAt := a, owner := some r })

/-- The parameter swaps due at the present tick flip the bank pointer of every named quad (R127, R37); the copy of the new active
bank into the shadow begins (R128). -/
def State.paramTick (s : State) : State :=
  { s with img := { s.img with quads := s.img.quads.map (fun p =>
      let q := p.2
      if q.shadow = .pending && !later32 q.swapAt s.cycle then
        (p.1, { q with shadow := .syncing, bankB := !q.bankB, flipAt := some s.cycle, swapAt := s.cycle })
      else p) } }

/-- The SYNCING copy of a quad ends (R128): the shadow bank equals the active one, the quad is CLEAN, and its swap command has one
quad less to wait for. -/
def State.paramSyncDone (s : State) (key : Nat) : State :=
  match SMap.find s.img.quads key, s.img.running with
  | some q, some im =>
    if q.shadow ≠ .syncing then s
    else
      let size := ((im.blocks.find? (fun b => b.outq = q.disp.outq && b.quad = q.disp.quad)).map (fun b => b.size)).getD 0
      let act := spAddr q.disp.core (bankAddrIn (some im) q.disp.outq q.disp.quad q.bankB)
      let sh := spAddr q.disp.core (bankAddrIn (some im) q.disp.outq q.disp.quad !q.bankB)
      ((s.setBytes sh (s.bytes act size)).setQuad key { q with shadow := .clean, owner := none }).ownerDone q.owner
  | _, _ => s

/-- The SYNCING copy of a quad ends. It starts only after the deadline of the swap cycle (R172) and is done before the tick of
A + 2, so an end reported in a cycle in which the quad is not SYNCING changes nothing. -/
def execParamSyncDone (outq : Bool) (quad : Fin 256) (s : State) : Res :=
  .next (s.paramSyncDone (b2n outq * 256 + quad.val))

/-- Copies that have not been reported done by the tick before A + 2 are done (R128): called before the tick of cycle `a`. -/
def State.syncDue (s : State) (a : Word) : State :=
  forAll (s.img.quads.filter (fun p => p.2.shadow = .syncing && since a p.2.swapAt ≥ 2)) (fun p st => st.paramSyncDone p.1) s

/-! ### Activation -/

/-- Put the pending activation back changed. -/
def State.setAct (s : State) (x : Option Activation) : State := { s with img := { s.img with act := x } }

/-- The image in a slot, as the loader reads it. -/
def State.slotImage (s : State) (k : Nat) : Option Image := parseImage (s.imgSlot k).at

/-- Every connected, unmuted sink starts muting over Ld, recorded for one mechanism of R539; answers the sinks. -/
def State.liveSinks (s : State) : List Nat :=
  (s.patch.ents.filter (fun p => 1024 ≤ p.1 && p.2.connected && !p.2.muted)).map (fun p => p.1 - 1024)

/-- Step 1 of a dip activation at its tick A (R139). -/
def State.dipStart (s : State) (x : Activation) : State :=
  let ks := s.liveSinks
  let s1 := forAll ks (fun k st => st.autoMute k true .dip s.cycle x.ld) s
  { s1 with img := { s1.img with dipSinks := ks, act := some { x with begun := true } } }

/-- Step 2 (R139), for the cycle `a`: every quad runs as bypass, and the loader writes the regions that are not carried and the
banks of changed quads (R137). -/
def State.dipBypass (s : State) (x : Activation) (a : Word) : State :=
  let s1 := ({ s with img := { s.img with allBypass := true, act := some { x with loaded := true } } }).requad a false
  match s.img.running, s.slotImage x.slot with
  | some old, some new =>
    let s2 := forAll (new.regions.filter (fun r => !carried old r)) (fun r st => st.initRegion new r) s1
    forAll (new.recs.filter (fun d => !d.bypass && !unchangedQuad old new d)) (fun d st => st.loadBanks new d) s2
  | _, _ => s1

/-- Pending parameter writes and swaps on the quads of a list complete CANCELLED (R137). -/
def State.cancelParams (s : State) (keys : List Nat) : State :=
  let hit := s.q.outst.filter (fun o =>
    (o.cmd.op = 0x0300 || o.cmd.op = 0x0301) && o.objs.any (fun t => keys.contains (stripKey o.cmd.cls.toNat t)))
  forAll hit (fun o st => st.finish o.cmd.ref stCancelled 0 []) s

/-- The quads of the new image at the switch into cycle `a`: an unchanged quad keeps its banks and shadow; a changed one starts
fresh, and in a seamless switch crossfades from its old program (R137, R138). -/
def switchQuads (s : State) (old new : Image) (a : Word) (seamless : Bool) : SMap Quad :=
  new.recs.foldl (fun m d =>
    let was := SMap.find s.img.quads d.key
    let want := s.wantProg d
    let q := match was with
      | some w =>
        if unchangedQuad old new d then
          { w with disp := d, prog := want, crossAt := if want = w.prog then w.crossAt else some a }
        else
          { freshQuad d want a with
            crossAt := if want || w.prog then some a else none
            oldRec := if seamless && w.prog then some w.disp else none
            oldBank := w.bankB }
      | none => freshQuad d want a
    SMap.insert d.key q m) []

/-- The switch into cycle `a` (R138, R139 step 3): the new plan and lists take effect. -/
def State.imgSwitch (s : State) (x : Activation) (a : Word) : State :=
  match s.img.running, s.slotImage x.slot with
  | some old, some new =>
    let seamless := x.mode = .seamless
    let changed := new.recs.filter (fun d => !unchangedQuad old new d)
    let s0 := s.cancelParams (changed.map DispRec.key)
    let s1 := if seamless then
        forAll (changed.filter (fun d => !d.bypass)) (fun d st => st.loadBanks new d)
          (forAll (new.regions.filter (fun r => !carried old r)) (fun r st => st.initRegion new r) s0)
      else s0
    let s2 := { s1 with img := { s1.img with allBypass := false } }
    let qs := switchQuads s2 old new a seamless
    let s3 := ({ s2 with img := { s2.img with
      running := some new, oldImage := some old, runSlot := x.slot, quads := qs,
      act := some { x with switched := true } } }).loadCode new
    let s4 := (s3.queuePatch new a).setReg ENG_MARGIN_WARN (BitVec.ofNat 32 (coreCycles new.b new.fi / 20))
    if seamless then s4
    else { (s4.reverseRecord .dip false s.img.dipSinks a x.ld) with img := { s4.img with dipSinks := [] } }
  | _, _ => s

/-- A dip load that is not finished by S leaves every quad in bypass, logs the fault and completes FAULT (R139). -/
def State.loadFailed (s : State) (x : Activation) (a : Word) : State :=
  let s1 := (s.eventFree x.slot 0).reverseRecord .dip false s.img.dipSinks a x.ld
  let s2 := { s1 with img := { s1.img with act := none, dipSinks := [] } }
  match x.owner with
  | some r => s2.finish r stFault 0 []
  | none => s2

/-- The activation completes: DONE at S + 1, or at S + Ld for a dip; the old code and regions are released. -/
def State.actComplete (s : State) (x : Activation) : State :=
  ({ s with img := { s.img with act := none, oldImage := none } }).ownerDone x.owner

/-- Whether step 2 of a dip is due in the cycle `a`. -/
def Activation.bypassDue (x : Activation) (a : Word) : Bool :=
  x.mode = .dip && x.begun && !x.loaded && since a x.apply ≥ x.ld

/-- Whether the switch is due in the cycle `a`. -/
def Activation.switchDue (x : Activation) (a : Word) : Bool :=
  x.mode ≠ .full && !x.switched && !later32 x.switch a && (x.mode = .seamless || x.begun)

/-- Whether the completion is due in the cycle `a`. -/
def Activation.completeDue (x : Activation) (a : Word) : Bool :=
  x.switched && since a x.switch ≥ (if x.mode = .dip then x.ld else 1)

/-- At A + Ld of a dip activation. When it is not due, nothing happens. -/
def execImgDipBypass (s : State) : Res :=
  match s.img.act with
  | some x => if x.bypassDue (s.cycle + 1) then .next (s.dipBypass x (s.cycle + 1)) else .next s
  | none => .next s

/-- At the switch tick S; `loaded` says whether a dip's load was finished by then. -/
def execImgSwitchTick (loaded : Bool) (s : State) : Res :=
  match s.img.act with
  | some x =>
    if x.switchDue (s.cycle + 1) then
      if x.mode = .dip && !loaded then .next (s.loadFailed x (s.cycle + 1)) else .next (s.imgSwitch x (s.cycle + 1))
    else .next s
  | none => .next s

def execImgActivateComplete (s : State) : Res :=
  match s.img.act with
  | some x => if x.completeDue (s.cycle + 1) then .next (s.actComplete x) else .next s
  | none => .next s

/-- Everything of an activation that is due in the cycle `a` and has not been taken yet: run before the tick of `a`. -/
def State.actDue (s : State) (a : Word) : State :=
  let s1 := match s.img.act with
    | some x => if x.bypassDue a then s.dipBypass x a else s
    | none => s
  let s2 := match s1.img.act with
    | some x => if x.switchDue a then s1.imgSwitch x a else s1
    | none => s1
  match s2.img.act with
  | some x => if x.completeDue a && x.switch ≠ a then s2.actComplete x else s2
  | none => s2

/-- A dip activation begins at its tick A. -/
def State.actTick (s : State) : State :=
  match s.img.act with
  | some x => if x.mode = .dip && !x.begun && !later32 x.apply s.cycle then s.dipStart x else s
  | none => s

end Sys2Proof.Machine
end

