-- ==== Sys2Proof/Machine/Dec.lean ====
section
/-! DEFINITION. Decimation channels (08_decimation_and_rate_conversion.md, R196–R211): start and stop with their ticks, capture
under the channel's state, single-cycle-settling windows, strobes, the FIFO. -/

namespace Sys2Proof.Machine

def decDefault : Nat → DecChan := fun _ => ⟨[], [], none, 0, false, [], false, 0⟩

def State.dch (s : State) (n : Nat) : DecChan := SMap.get decDefault s.dec.chans n

def State.setDch (s : State) (n : Nat) (c : DecChan) : State :=
  { s with dec := { s.dec with chans := SMap.set decDefault s.dec.chans n c } }

/-- Channel states (R208). -/
def decStopped : Nat := 0
def decSettling : Nat := 1
def decRunning : Nat := 2
def decStopping : Nat := 3

def State.decState (s : State) (n : Nat) : Nat := s.rd (DEC_STATUS.state n)

def State.setDecState (s : State) (n st : Nat) : State := s.wr (DEC_STATUS.state n) st

/-- R of a channel (DECn_CFG.ratio). -/
def State.decR (s : State) (n : Nat) : Nat := 8 * 2 ^ s.rd (DEC_CFG.ratio n)

/-- N of a channel (DECn_CFG.order). -/
def State.decN (s : State) (n : Nat) : Nat := 3 + s.rd (DEC_CFG.order n)

/-- The PDM clock of a channel below 32 (R196). -/
def pdmClock (n : Nat) : Nat := n / 2 / 4

/-- The modulator rate in hertz (R197). -/
def State.decFmod (s : State) (n : Nat) : Nat :=
  if n ≥ 32 then 6144000
  else (if (s.rd DEC_PDMCLK.r128) / 2 ^ pdmClock n % 2 = 1 then 128 else 64) * s.fi

def State.decScs (s : State) (n : Nat) : Bool := s.rd (DEC_CFG.mode n) = 1

/-- A source channel: its output rate equals Fi exactly (R201). -/
def State.decSource (s : State) (n : Nat) : Bool :=
  s.rd (DEC_CFG.mode n) = 0 && s.decFmod n * 2 ^ 28 = s.rd (DEC_STEP.step n) * s.fi * (4 * s.decR n)

/-- S of R208: engine cycles of settling. -/
def State.decSettle (s : State) : Nat := (64 + s.blk - 1) / s.blk

/-- The total group delay of a normal chain in output samples (R202). -/
def State.decDelay (s : State) (n : Nat) : Nat := if s.rd (DEC_CFG.phase n) = 0 then 18 else 6

/-- DECn_GD of a configuration: its total in nanoseconds at f_out = f_h / step (R204). -/
def State.decGdNs (s : State) (n : Nat) : Nat :=
  if s.decScs n then 0
  else (openDiv ((s.decDelay n * 1000000000 * s.rd (DEC_STEP.step n) * (4 * s.decR n) : Nat) : Int) (s.decFmod n * 2 ^ 28)).toNat

/-- Why a start is refused (R199, R203, R209, R240): BAD_SEQUENCE for a disabled clock, BAD_PARAM for a configuration that cannot
run. -/
def State.decRefusal (s : State) (n : Nat) : Option Nat :=
  let step := s.rd (DEC_STEP.step n)
  let mode := s.rd (DEC_CFG.mode n)
  let budget := if s.rd (DEC_CFG.phase n) = 0 then 6 else 2
  if n < 32 && (s.rd DEC_PDMCLK.en) / 2 ^ pdmClock n % 2 = 0 then some stBadSequence
  else if mode ≥ 2 || s.rd (DEC_CFG.order n) = 3 then some stBadParam
  else if mode = 0 && (step < 0x10000000 || 0x40000000 < step) then some stBadParam
  else if mode = 0 && s.rd (DEC_FIRGD.gd n) * 2 ^ 28 > budget * step * 256 then some stBadParam
  else if n ≥ 32 && !(mode = 0 && step = 0x10000000 && s.decR n = (if s.isSet ENG_CFG.fi then 16 else 32)) then some stBadParam
  else none

/-- A refused start sets cfg_bad where the status is BAD_PARAM. -/
def State.decBad (s : State) (n st : Nat) : State := if st = stBadParam then s.set1 (DEC_STATUS.cfg_bad n) else s

/-- Schedule a start. -/
def State.decPutStart (s : State) (n : Nat) (a : Word) (o : Option CmdRef) : State :=
  let c := s.dch n
  s.setDch n { c with starts := c.starts ++ [(a, o)] }

/-- Schedule a stop. -/
def State.decPutStop (s : State) (n : Nat) (a : Word) (o : Option CmdRef) : State :=
  let c := s.dch n
  s.setDch n { c with stops := c.stops ++ [(a, o)] }

/-- DECn_CTRL.start: schedules a start at DECn_APPLY. A configuration that cannot run refuses it; a locked or gated block changes
nothing. -/
def execDecStart (m : Master) (n : Fin 40) (s : State) : Host.Outcome State Fault Refusal :=
  if s.gated (DEC_CTRL n.val) then .next s.unavail
  else if s.pairLocked m then .next (s.refuseWrite (DEC_STATUS.wr_refused n.val) m)
  else
    match s.decRefusal n.val with
    | some st =>
      if s.decState n.val = decStopped then .next (s.decBad n.val st)
      else .next (s.decPutStart n.val (s.actionCycle (s.reg (DEC_APPLY n.val))) none)
    | none => .next (s.decPutStart n.val (s.actionCycle (s.reg (DEC_APPLY n.val))) none)

/-- DECn_CTRL.stop: schedules a stop at DECn_APPLY. -/
def execDecStop (m : Master) (n : Fin 40) (s : State) : Host.Outcome State Fault Refusal :=
  if s.gated (DEC_CTRL n.val) then .next s.unavail
  else if s.pairLocked m then .next (s.refuseWrite (DEC_STATUS.wr_refused n.val) m)
  else .next (s.decPutStop n.val (s.actionCycle (s.reg (DEC_APPLY n.val))) none)

/-- A start commits at the present tick (R208, R209). -/
def State.decStart (s : State) (n : Nat) (o : Option CmdRef) : State :=
  if s.decState n ≠ decStopped then s.ownerDone o
  else
    match s.decRefusal n with
    | some st =>
      let s1 := s.decBad n st
      match o with
      | some r => s1.finish r st (if st = stBadParam then 2 else 0) []
      | none => s1
    | none =>
      let s1 := (s.setDecState n decSettling).setReg (DEC_SAT n) 0
      let s2 := s1.setReg (DEC_GD n) (BitVec.ofNat 32 (s.decGdNs n))
      s2.setDch n { s2.dch n with owner := o, tickA := s.cycle, quitting := false, win := false, out := 0 }

/-- A stop commits at the present tick. -/
def State.decStop (s : State) (n : Nat) (o : Option CmdRef) : State :=
  let c := s.dch n
  let st := s.decState n
  if st = decRunning then (s.setDecState n decStopping).setDch n { c with owner := o, tickA := s.cycle }
  else if st = decSettling && !c.quitting then
    (s.setDch n { c with owner := o, tickA := s.cycle, quitting := true }).ownerCancel c.owner
  else s.ownerDone o

/-- The scheduled actions of one channel at a tick: at one tick the stop wins (R209). -/
def State.decTickOne (s : State) (n : Nat) : State :=
  let c := s.dch n
  let due (l : List (Word × Option CmdRef)) := l.filter (fun x => !later32 x.1 s.cycle)
  let rest (l : List (Word × Option CmdRef)) := l.filter (fun x => later32 x.1 s.cycle)
  let s1 := s.setDch n { c with starts := rest c.starts, stops := rest c.stops }
  if (due c.stops).isEmpty then forAll (due c.starts) (fun x st => st.decStart n x.2) s1
  else
    let s2 := forAll (due c.starts) (fun x st => st.ownerCancel x.2) s1
    forAll (due c.stops) (fun x st => st.decStop n x.2) s2

/-- Every channel's scheduled actions at a tick, after the configuration due there. -/
def State.decTick (s : State) : State := forAll s.dec.chans (fun p st => st.decTickOne p.1) s

/-- Whether settling ends with the tick of cycle `a`. -/
def State.decSettleDue (s : State) (n : Nat) (a : Word) : Bool :=
  s.decState n = decSettling && !(s.dch n).quitting && since a (s.dch n).tickA ≥ s.decSettle + 1

/-- Whether a stop ends with the tick of cycle `a`. -/
def State.decStopDue (s : State) (n : Nat) (a : Word) : Bool :=
  (s.decState n = decStopping || (s.dch n).quitting) && since a (s.dch n).tickA ≥ 1

/-- RUNNING: the start completes DONE. -/
def State.decSettled (s : State) (n : Nat) : State :=
  let c := s.dch n
  ((s.setDecState n decRunning).setDch n { c with owner := none }).ownerDone c.owner

/-- STOPPED: the stages are clear, the stop completes DONE and every other command pending on the channel CANCELLED (R208, R209). -/
def State.decHalt (s : State) (n : Nat) : State :=
  let c := s.dch n
  let s1 := ((s.setDecState n 0).setReg (DEC_GD n) 0).setDch n
    { c with owner := none, quitting := false, win := false, starts := [], stops := [], out := 0 }
  let s2 := s1.ownerDone c.owner
  let s3 := forAll (c.starts ++ c.stops) (fun x st => st.ownerCancel x.2) s2
  let hit := s3.q.outst.filter (fun o => o.phase = .waiting && o.cmd.cls = 0x0A && o.objs.contains n)
  forAll hit (fun o st => st.finish o.cmd.ref stCancelled 0 []) s3

def execDecSettleEnd (n : Fin 40) (s : State) : Host.Outcome State Fault Refusal :=
  if s.decSettleDue n.val (s.cycle + 1) then .next (s.decSettled n.val) else .next s

def execDecStopEnd (n : Fin 40) (s : State) : Host.Outcome State Fault Refusal :=
  if s.decStopDue n.val (s.cycle + 1) then .next (s.decHalt n.val) else .next s

/-- Channel state changes that are due with the tick of cycle `a` and have not been taken. -/
def State.decDue (s : State) (a : Word) : State :=
  upTo 40 (fun n st =>
    let s1 := if st.decSettleDue n a then st.decSettled n else st
    if s1.decStopDue n a then s1.decHalt n else s1) s

/-! ### Outputs -/

/-- A word enters a channel's FIFO (R211): a full FIFO discards it. -/
def State.decFifoPush (s : State) (n : Nat) (pcm : BitVec 24) : State :=
  let st := s.decState n
  if !s.isSet (DEC_CFG.fifo_en n) || st = decStopped then s
  else
    let c := s.dch n
    if c.fifo.length ≥ 256 then s.set1 (DEC_STATUS.fifo_ovf n)
    else
      let w : Word := BitVec.ofNat 32 (b2n (st ≥ 2) * 2 ^ 31 + pcm.toNat)
      s.setDch n { c with fifo := c.fifo ++ [w] }

/-- A chain output: saturation count and FIFO (R198, R211). -/
def State.decOutput (s : State) (n : Nat) (pcm : BitVec 24) (sat : Bool) : State :=
  if s.decState n = decStopped then s
  else
    let s1 := if sat then (s.bump (DEC_SAT.count n) 1).set1 (DEC_STATUS.sat n) else s
    let s2 := s1.decFifoPush n pcm
    s2.setDch n { s2.dch n with out := pcm }

/-- The gain under which a source channel's block captured in cycle `j` enters the source buffer (R208): at position p. -/
def State.decGain (s : State) (n : Nat) (j : Word) (p : Nat) : Word :=
  let b := s.blk
  let k := since j (s.dch n).tickA
  if s.decState n = decRunning then unity
  else if s.decState n = decSettling && !(s.dch n).quitting then (if k ≥ s.decSettle then rampGain 0 unity b (p + 1) else 0)
  else if s.decState n = decStopping then rampGain unity 0 b (p + 1)
  else 0

/-- The source-buffer word of a channel's sample (R56, R201): zero unless it is a source channel. -/
def State.decWord (s : State) (n p : Nat) (pcm : BitVec 24) : Word :=
  if s.decSource n then scale (fromPcm24 pcm.toNat) (s.decGain n s.cycle p) else 0

/-! ### Single-cycle-settling windows (R205–R207) -/

/-- One more factor of (1 + z⁻¹ + … + z^−(R−1)): the coefficients of the product. -/
def boxTimes (r : Nat) (h : List Nat) : List Nat :=
  (List.range (h.length + r - 1)).map (fun k =>
    ((List.range r).foldl (fun n i => if i ≤ k then n + h.getD (k - i) 0 else n) 0))

/-- The coefficients h of R205. -/
def boxCoeffs (r : Nat) : Nat → List Nat
  | 0 => [1]
  | n + 1 => boxTimes r (boxCoeffs r n)

/-- The exact weighted sum of a window's bits (R205): bit values +1 and −1, the latest bit meets h[0]. -/
def windowSum (h : List Nat) (bits : List Bool) : Int :=
  (h.zip bits.reverse).foldl (fun acc x => if x.2 then acc + x.1 else acc - x.1) 0

/-- The output of a window and whether it saturated: the sum times 2^(23 − N log2 R), rounded convergently where that is a right
shift (R198), saturated to 24 bits. -/
def windowOut (n lg : Nat) (sum : Int) : Int × Bool :=
  let v := if n * lg ≤ 23 then sum * ((2 ^ (23 - n * lg) : Nat) : Int) else roundConv sum (n * lg - 23)
  (satTo 24 v, outOf 24 v)

/-- A window of W = N × R bits completes and yields one sample. With fewer bits than W there is no window, and nothing happens. -/
def execDecWindowEnd (n : Fin 40) (bits : List Bool) (s : State) : Host.Outcome State Fault Refusal :=
  let r := s.decR n.val
  let o := s.decN n.val
  if !s.decScs n.val || s.decState n.val = decStopped || bits.length < o * r then .next s
  else
    let (y, sat) := windowOut o (3 + s.rd (DEC_CFG.ratio n.val)) (windowSum (boxCoeffs r o) (bits.drop (bits.length - o * r)))
    let s1 := s.decOutput n.val (BitVec.ofInt 24 y) sat
    .next (s1.setDch n.val { s1.dch n.val with win := false })

/-- A channel-switch strobe reaches a channel (R206): it aborts a running window or skip, and a new one starts. -/
def State.decStrobe (s : State) (n : Nat) : State :=
  if !s.decScs n || s.decState n = decStopped || s.rd (DEC_STROBE.src n) = 0 then s
  else
    let c := s.dch n
    let s1 := if c.win then s.set1 (DEC_STATUS.abort n) else s
    s1.setDch n { c with win := true }

/-- A strobe of the source that DECn_STROBE selects. -/
def execDecStrobe (n : Fin 40) (s : State) : Host.Outcome State Fault Refusal := .next (s.decStrobe n.val)

/-- The setting a timer runs with: that of its enabling, or of its latest strobe. -/
def State.tmrWord (s : State) (t : Nat) : Word := SMap.get zeroWord s.dec.tmr t

def State.setTmr (s : State) (t : Nat) (w : Word) : State :=
  { s with dec := { s.dec with tmr := SMap.set zeroWord s.dec.tmr t w } }

/-- At a tick an enabled timer starts (R207). -/
def State.tmrTick (s : State) : State :=
  upTo 4 (fun t st => if st.isSet (DEC_TMR.en t) && !bitOf (st.tmrWord t) 31 then st.setTmr t (st.reg (DEC_TMR t)) else st) s

/-- A timer counts out its period (R207): it strobes every channel that selects it, and takes a change of its setting. The pulse on
its GPIO is as short as one modulator bit and leaves no state. -/
def execDecTimerStrobe (t : Fin 4) (s : State) : Host.Outcome State Fault Refusal :=
  if bitOf (s.tmrWord t.val) 31 then
    let s1 := upTo 40 (fun n st =>
      if st.rd (DEC_STROBE.src n) = 2 && st.rd (DEC_STROBE.timer n) = t.val then st.decStrobe n else st) s
    .next (s1.setTmr t.val (s1.reg (DEC_TMR t.val)))
  else .next s

/-- DECn_FIFO as it reads. -/
def State.decFifoWord (s : State) (n : Nat) : Word := (s.dch n).fifo.headD 0

/-- A read of DECn_FIFO removes the oldest word; of an empty FIFO it returns 0 (R211). -/
def execDecFifoRead (n : Fin 40) (s : State) : Host.Outcome State Fault Refusal :=
  if s.gated (DEC_FIFO n.val) then .next { s.unavail with lastRead := 0 }
  else
    let c := s.dch n.val
    .next { s.setDch n.val { c with fifo := c.fifo.tail } with lastRead := s.decFifoWord n.val }

/-! ### Configuration locks (R210) -/

/-- Whether a DEC_PDMCLK change touches the clock of a channel that is not STOPPED. -/
def State.pdmBusy (s : State) (new : Word) : Bool :=
  (List.range 32).any (fun n =>
    s.decState n ≠ decStopped &&
      (bitOf new (pdmClock n) != bitOf (s.reg DEC_PDMCLK) (pdmClock n)
        || bitOf new (4 + pdmClock n) != bitOf (s.reg DEC_PDMCLK) (4 + pdmClock n)))

end Sys2Proof.Machine
end

