-- ==== Sys2Proof/Machine/Asrc.lean ====
section
/-! DEFINITION. Rate converters (R212–R215): claims of trackers and channels, tracker states and their ticks, ramps. -/

namespace Sys2Proof.Machine

def trackDefault : Nat → Track := fun _ => ⟨none, 0, false⟩

def State.track (s : State) (t : Nat) : Track := SMap.get trackDefault s.dec.tracks t

def State.setTrack (s : State) (t : Nat) (x : Track) : State :=
  { s with dec := { s.dec with tracks := SMap.set trackDefault s.dec.tracks t x } }

/-- Tracker states (R214). -/
def trkIdle : Nat := 0
def trkAcquire : Nat := 1
def trkLocked : Nat := 2
def trkRange : Nat := 3

def State.trkState (s : State) (t : Nat) : Nat := s.rd (ASRC_TRK_STATE.state t)

/-- A claimed tracker. -/
def State.trkClaimed (s : State) (t : Nat) : Bool := s.rd (ASRC_TRK_CFG.dir t) ≠ 0

/-- The tracker of an owner: kind 1 stream, 2 serial port; direction 1 input, 2 output. -/
def State.trackerOf (s : State) (dir kind index : Nat) : Option Nat :=
  (List.range 64).find? (fun t =>
    s.rd (ASRC_TRK_CFG.dir t) = dir && s.rd (ASRC_TRK_CFG.kind t) = kind && s.rd (ASRC_TRK_CFG.index t) = index)

/-- The converter channels of a tracker. -/
def State.chansOf (s : State) (t : Nat) : List Nat :=
  (List.range 512).filter (fun c => s.isSet (ASRC_CH.used c) && s.rd (ASRC_CH.tracker c) = t)

/-- Claim one tracker and one channel for each ID (R212, R18, R19): the lowest free numbers. A short pool claims nothing and sets
exhausted. -/
def State.asrcClaim (s : State) (dir kind index phase : Nat) (ids : List Nat) : State × Bool :=
  let trk := (List.range 64).find? (fun t => !s.trkClaimed t)
  let free := (List.range 512).filter (fun c => !s.isSet (ASRC_CH.used c))
  match trk with
  | none => (s.flagEvent ASRC_STATUS.exhausted 0 0, false)
  | some t =>
    if free.length < ids.length then (s.flagEvent ASRC_STATUS.exhausted 0 0, false)
    else
      let s1 := s.setReg (ASRC_TRK_CFG t) (BitVec.ofNat 32 (dir * 2 ^ 30 + phase % 2 * 2 ^ 29 + kind * 2 ^ 12 + index))
      let s2 := ((s1.setReg (ASRC_TRK_STATE t) (BitVec.ofNat 32 ids.length)).setReg (ASRC_TRK_RATIO t) 0).setReg (ASRC_TRK_UNLOCK t) 0
      let s3 := forAll (free.zip ids) (fun x st =>
        st.setReg (ASRC_CH x.1) (BitVec.ofNat 32 (2 ^ 31 + t * 2 ^ 16 + x.2))) s2
      let s4 := s3.setTrack t ⟨none, s.cycle, false⟩
      ((s4.wr ASRC_STATUS.ch_free (s.rd ASRC_STATUS.ch_free - ids.length)).wr ASRC_STATUS.trk_free (s.rd ASRC_STATUS.trk_free - 1), true)

/-- Add converter channels for further IDs to a claimed tracker (R235). -/
def State.asrcJoin (s : State) (t : Nat) (ids : List Nat) : State × Bool :=
  let free := (List.range 512).filter (fun c => !s.isSet (ASRC_CH.used c))
  if free.length < ids.length then (s.flagEvent ASRC_STATUS.exhausted 0 0, false)
  else
    let on := s.trkState t = trkLocked
    let s1 := forAll (free.zip ids) (fun x st =>
      st.setReg (ASRC_CH x.1) (BitVec.ofNat 32 (2 ^ 31 + b2n on * 2 ^ 30 + t * 2 ^ 16 + x.2))) s
    let s2 := s1.wr (ASRC_TRK_STATE.nch t) (s.rd (ASRC_TRK_STATE.nch t) + ids.length)
    (s2.wr ASRC_STATUS.ch_free (s.rd ASRC_STATUS.ch_free - ids.length), true)

/-- Release the channels of a tracker that serve given IDs, and the tracker with its last channel (R212). -/
def State.asrcRelease (s : State) (t : Nat) (ids : List Nat) : State :=
  let cs := (s.chansOf t).filter (fun c => ids.contains (s.rd (ASRC_CH.id c)))
  let s1 := forAll cs (fun c st => st.setReg (ASRC_CH c) 0) s
  let s2 := s1.wr ASRC_STATUS.ch_free (s.rd ASRC_STATUS.ch_free + cs.length)
  let left := s.rd (ASRC_TRK_STATE.nch t) - cs.length
  if left ≠ 0 then s2.wr (ASRC_TRK_STATE.nch t) left
  else
    let s3 := ((s2.setReg (ASRC_TRK_CFG t) 0).setReg (ASRC_TRK_STATE t) 0).setReg (ASRC_TRK_RATIO t) 0
    ((s3.setReg (ASRC_TRK_UNLOCK t) 0).setTrack t ⟨none, 0, false⟩).wr ASRC_STATUS.trk_free (s.rd ASRC_STATUS.trk_free + 1)

/-- A claimed tracker in one of some states moves at the next tick. -/
def State.trkMove (s : State) (t : Nat) (fro : List Nat) (dst : Nat) (ratio : Word) : State :=
  if s.trkClaimed t && fro.contains (s.trkState t) then s.setTrack t { s.track t with next := some (dst, ratio) } else s

def execTrackerEdgesSeen (t : Fin 64) (ratio : Word) (s : State) : Host.Outcome State Fault Refusal :=
  .next (s.trkMove t.val [trkIdle] trkAcquire ratio)

def execTrackerLock (t : Fin 64) (ratio : Word) (s : State) : Host.Outcome State Fault Refusal :=
  .next (s.trkMove t.val [trkAcquire] trkLocked ratio)

/-- No edge for 1 ms: LOCKED returns to ACQUIRE, RANGE to IDLE. -/
def execTrackerEdgeLoss (t : Fin 64) (s : State) : Host.Outcome State Fault Refusal :=
  let r := s.reg (ASRC_TRK_RATIO t.val)
  .next ((s.trkMove t.val [trkLocked] trkAcquire r).trkMove t.val [trkRange] trkIdle r)

def execTrackerRatioJump (t : Fin 64) (ratio : Word) (s : State) : Host.Outcome State Fault Refusal :=
  .next (s.trkMove t.val [trkLocked] trkAcquire ratio)

def execTrackerRange (t : Fin 64) (ratio : Word) (s : State) : Host.Outcome State Fault Refusal :=
  .next (s.trkMove t.val [trkAcquire, trkLocked] trkRange ratio)

def execTrackerRangeExit (t : Fin 64) (ratio : Word) (s : State) : Host.Outcome State Fault Refusal :=
  .next (s.trkMove t.val [trkRange] trkAcquire ratio)

/-- A tracker's change takes effect at the tick: an exit from LOCKED sets unlock and counts, an entry into RANGE sets range. -/
def State.trkTickOne (s : State) (t : Nat) (x : Track) : State :=
  match x.next with
  | none => s
  | some (dst, ratio) =>
    let was := s.trkState t
    let s1 := (s.wr (ASRC_TRK_STATE.state t) dst).setReg (ASRC_TRK_RATIO t) ratio
    let s2 := forAll (s.chansOf t) (fun c st => st.wrB (ASRC_CH.active c) (dst = trkLocked)) s1
    let s3 := if was = trkLocked then (s2.flagEvent ASRC_STATUS.unlock t 0).bump (ASRC_TRK_UNLOCK.count t) 1 else s2
    let s4 := if dst = trkRange then s3.flagEvent ASRC_STATUS.range t 0 else s3
    let moved := was = trkLocked || dst = trkLocked
    s4.setTrack t ⟨none, if moved then s.cycle else x.since, if moved then was = trkLocked else x.wasLocked⟩

def State.trkTick (s : State) : State := forAll s.dec.tracks (fun p st => st.trkTickOne p.1 p.2) s

/-- The gain of a converter channel in cycle `j` at position p (R214): a ramp in the cycle in which its tracker enters or leaves
LOCKED. -/
def State.trkGain (s : State) (t : Nat) (j : Word) (p : Nat) : Word :=
  let x := s.track t
  let here := x.since = j
  if s.trkState t = trkLocked then (if here then rampGain 0 unity s.blk (p + 1) else unity)
  else if here && x.wasLocked then rampGain unity 0 s.blk (p + 1)
  else 0

end Sys2Proof.Machine
end

