-- ==== Sys2Proof/Machine/Sp.lean ====
section
/-! DEFINITION. Serial audio ports (09_serial_audio_ports.md): configuration checks, start, stop and mute with their ticks, slot
gates, masks, frame events, alignment groups, and what a slot sends and captures. -/

namespace Sys2Proof.Machine

def spDefault : Nat → SpPort := fun _ =>
  ⟨[], [], [], none, none, false, none, none, none, none, [], none, 0, none, none⟩

def State.port (s : State) (n : Nat) : SpPort := SMap.get spDefault s.sp n

def State.setPort (s : State) (n : Nat) (p : SpPort) : State := { s with sp := SMap.set spDefault s.sp n p }

/-- Port states (R224). -/
def spStopped : Nat := 0
def spClocking : Nat := 1
def spOpening : Nat := 2
def spRunning : Nat := 3
def spClosing : Nat := 4
def spLeadOut : Nat := 5
def spLost : Nat := 6

def State.spState (s : State) (n : Nat) : Nat := s.rd (SP_STATUS.state n)
def State.setSpState (s : State) (n st : Nat) : State := s.wr (SP_STATUS.state n) st

def State.spSlots (s : State) (n : Nat) : Nat := s.rd (SP_FRAME.slots n) + 1
def State.spPriv (s : State) (n : Nat) : Bool := s.isSet (SP_CFG.priv n)
def State.spMaster (s : State) (n : Nat) : Bool := s.isSet (SP_CFG.master n)
def State.spSync (s : State) (n : Nat) : Bool := s.isSet (SP_CFG.sync n)

/-- A nonzero field's value; 0 acts as 1. -/
def atLeastOne (v : Nat) : Nat := max v 1

/-- Engine cycles of lead-in and lead-out (R224, R225). -/
def State.spPre (s : State) (n : Nat) : Nat := (atLeastOne (s.rd (SP_TIMING.pre n)) + s.blk - 1) / s.blk
def State.spPost (s : State) (n : Nat) : Nat := (atLeastOne (s.rd (SP_TIMING.post n)) + s.blk - 1) / s.blk

/-! ### Alignment groups (R235) -/

/-- The active members of the alignment group of a port. -/
def State.spMembers (s : State) (g : Nat) : List Nat :=
  (List.range 16).filter (fun k => s.isSet (SP_CFG.grp_en k) && s.rd (SP_CFG.grp k) = g && s.spState k ≠ spStopped)

/-- The leader of a group: its lowest active member. -/
def State.spLeader (s : State) (g : Nat) : Option Nat := (s.spMembers g).head?

/-- The leader of a port's group, if it is in one that runs. -/
def State.spLeadOf (s : State) (n : Nat) : Option Nat := if s.isSet (SP_CFG.grp_en n) then s.spLeader (s.rd (SP_CFG.grp n)) else none

/-- SP_GRPg_STAT as it reads. -/
def State.spGroupWord (s : State) (g : Nat) : Word :=
  let ms := s.spMembers g
  BitVec.ofNat 32 ((s.spLeader g).getD 0 * 2 ^ 16 + ms.foldl (fun a k => a + 2 ^ k) 0)

/-! ### Configuration checks (R223, R235) -/

/-- f_in of a master's divider (R220). -/
def State.spFin (s : State) (n : Nat) : Nat := if s.isSet (SP_CFG.clk_src n) then 500000000 else 4096 * s.fi

/-- Whether a master's clock and frame rates lie in range (R221, R223). -/
def State.spRateOk (s : State) (n : Nat) : Bool :=
  let bits := s.rd (SP_FRAME.bits n)
  let fin := s.spFin n * 2 ^ 24
  let d := s.rd (SP_DIVN.n n) * 2 ^ 24 + s.rd (SP_DIVF.f n)
  if s.spSync n then
    !s.isSet (SP_CFG.clk_src n) && [32, 64, 128, 256, 512, 1024].contains bits && (bits ≤ 512 || !s.isSet ENG_CFG.fi)
  else 2 ≤ s.rd (SP_DIVN.n n) && fin ≤ 49152000 * d && 8000 * bits * d ≤ fin && fin ≤ 192000 * bits * d

/-- Whether R223 and R235 allow a start. -/
def State.spConfigOk (s : State) (n : Nat) : Bool :=
  let fmt := s.rd (SP_CFG.fmt n)
  let wc := s.rd (SP_CFG.width n)
  let width := 16 + 8 * wc
  let bits := s.rd (SP_FRAME.bits n)
  let slots := s.spSlots n
  fmt ≠ 3 && wc ≠ 3 && 32 ≤ bits && bits ≤ 1024
    && (if fmt = 2 then s.rd (SP_CFG.delay n) + slots * width ≤ bits
        else slots = 2 && bits % 2 = 0 && width ≤ bits / 2)
    && (!s.spMaster n || s.spRateOk n)
    && !(s.isSet ENG_CFG.fi && s.spSync n && 16 < slots)
    && (s.isSet (SP_CFG.tx_en n) || s.isSet (SP_CFG.rx_en n))
    && (match s.spLeadOf n with
      | some l => s.rd (SP_CFG.master l) = s.rd (SP_CFG.master n) && s.rd (SP_CFG.sync l) = s.rd (SP_CFG.sync n)
          && s.rd (SP_CFG.fmt l) = fmt && s.rd (SP_FRAME.bits l) = bits
          && s.rd (SP_CFG.clk_src l) = s.rd (SP_CFG.clk_src n)
      | none => true)

/-- The converter IDs an asynchronous port claims (R223): one for each slot in each enabled direction. -/
def State.spIds (s : State) (n : Nat) : List Nat :=
  let ids := (List.range (s.spSlots n)).map (fun k => 0x2000 + 32 * n + k)
  (if s.isSet (SP_CFG.rx_en n) then ids else []) ++ (if s.isSet (SP_CFG.tx_en n) then ids else [])

/-- The tracker under which a port's channels run: of its own claim or its group's. -/
def State.spTracker (s : State) (n : Nat) : Option Nat :=
  (List.range 512).findSome? (fun c =>
    if s.isSet (ASRC_CH.used c) && s.rd (ASRC_CH.id c) / 32 = (0x2000 + 32 * n) / 32
        && s.rd (ASRC_TRK_CFG.kind (s.rd (ASRC_CH.tracker c))) = 2
    then some (s.rd (ASRC_CH.tracker c)) else none)

/-- Claim what an asynchronous port needs (R212, R235). A tracker that serves both directions shows direction input
(notes/assumptions/24.md). -/
def State.spClaim (s : State) (n : Nat) : State × Bool :=
  if s.spSync n then (s, true)
  else
    match (s.spLeadOf n).bind (fun l => s.spTracker l) with
    | some t => s.asrcJoin t (s.spIds n)
    | none => s.asrcClaim (if s.isSet (SP_CFG.rx_en n) then 1 else 2) 2 n 0 (s.spIds n)

def State.spRelease (s : State) (n : Nat) : State :=
  match s.spTracker n with
  | some t => s.asrcRelease t ((List.range 32).map (fun k => 0x2000 + 32 * n + k))
  | none => s

/-! ### Gates (R227–R229) -/

def gateDefault : Nat → Gate := fun _ => ⟨false, 0, 0, false⟩

def SpPort.gate (p : SpPort) (slot : Nat) : Gate := SMap.get gateDefault p.gates slot

/-- The output slots of a privileged port that gate: transmitted, unmasked, within the frame. -/
def State.spGated (s : State) (n : Nat) : List Nat :=
  if s.spPriv n && s.isSet (SP_CFG.tx_en n) then
    (List.range (s.spSlots n)).filter (fun k => (s.reg (SP_TXMASK_ACT n)).getLsbD k)
  else []

/-- Whether a privileged port's gates shall be open: in OPENING and RUNNING, unless the port is muted. -/
def State.spWantOpen (s : State) (n : Nat) : Bool :=
  (s.spState n = spOpening || s.spState n = spRunning) && !s.isSet (SP_STATUS.muted n)

/-- SPn_ZCWAIT: the slots whose gate still has to change. -/
def State.spWait (s : State) (n : Nat) : List Nat :=
  let st := s.spState n
  if st = spOpening || st = spRunning || st = spClosing then
    (s.spGated n).filter (fun k => ((s.port n).gate k).isOpen != s.spWantOpen n)
  else []

def State.spZcWord (s : State) (n : Nat) : Word := BitVec.ofNat 32 ((s.spWait n).foldl (fun a k => a + 2 ^ k) 0)

/-- Whether every gate has reached its target, ramps included, by the tick of the present cycle. -/
def State.spGatesDone (s : State) (n : Nat) : Bool :=
  (s.spWait n).isEmpty &&
    (s.spGated n).all (fun k => !(((s.port n).gate k).ramp && ((s.port n).gate k).cyc = s.cycle))

/-- Sink table index of a slot (R59, R216). -/
def spSink (n slot : Nat) : Nat := 512 + 32 * n + slot

/-- The slot's 24-bit word at a position of this cycle's emitted block. -/
def State.emitWord (s : State) (k p : Nat) : Word := SMap.get zeroWord s.eng.emit (smp k p)

/-- Whether the word at a position is a crossing (R227): zero, or of another sign than the word before it. -/
def State.crossingAt (s : State) (k p : Nat) : Bool :=
  let w := s.emitWord k p
  let b := if p = 0 then SMap.get zeroWord s.eng.emitPrev k else s.emitWord k (p - 1)
  w = 0 || bitOf w 31 != bitOf b 31

/-- A gated slot finds a crossing and opens or closes at that position. A position that is no crossing of the emitted block, or a slot
that does not wait, changes nothing. -/
def execSpSlotCrossing (n : Fin 16) (slot pos : Fin 32) (s : State) : Host.Outcome State Fault Refusal :=
  let p := s.port n.val
  if (s.spWait n.val).contains slot.val && pos.val < s.blk && s.crossingAt (spSink n.val slot.val) pos.val then
    .next (s.setPort n.val { p with gates := SMap.set gateDefault p.gates slot.val ⟨s.spWantOpen n.val, s.cycle, pos.val, false⟩ })
  else .next s

/-- No crossing in time (R228): the slot opens or closes by a ramp on the next emitted block. -/
def execSpZcTimeout (n : Fin 16) (slot : Fin 32) (s : State) : Host.Outcome State Fault Refusal :=
  let p := s.port n.val
  if (s.spWait n.val).contains slot.val then
    let s1 := s.setPort n.val
      { p with gates := SMap.set gateDefault p.gates slot.val ⟨s.spWantOpen n.val, s.cycle + 1, 0, true⟩ }
    .next (s1.flagEvent (SP_STATUS.zc_timeout n.val) n.val slot.val)
  else .next s

/-! ### Actions at ticks (R224–R226, R229) -/

/-- Why a start is refused before it changes anything. -/
def State.spRefusal (s : State) (n : Nat) : Option Nat :=
  let st := s.spState n
  if st = spStopped then (if s.spConfigOk n then none else some stBadParam)
  else if st = spClosing || st = spLeadOut then some stBusy
  else none

def State.spFinish (s : State) (o : Option CmdRef) (status detail : Nat) : State :=
  match o with
  | some r => s.finish r status detail []
  | none => s

/-- A start commits at the present tick A. -/
def State.spStart (s : State) (n : Nat) (o : Option CmdRef) : State :=
  match s.spRefusal n with
  | some st => s.spFinish o st (if st = stBadParam then 2 else 0)
  | none =>
    if s.spState n ≠ spStopped then s.ownerDone o
    else
      match s.spClaim n with
      | (s1, false) => s1.spFinish o stCapacity 4
      | (s1, true) =>
        let s2 := ((s1.setSpState n spClocking).setReg (SP_SLIPCNT n) 0).setReg (SP_GLITCHCNT n) 0
        s2.setPort n { s2.port n with
          owner := o, aligned := s.spMaster n, rampIn := none, stopAt := none, leadEnd := none, gates := [],
          dataTick := if s.spMaster n then some (s.cycle + BitVec.ofNat 32 (s.spPre n)) else none }

/-- A stop commits at the present tick E. -/
def State.spStop (s : State) (n : Nat) (o : Option CmdRef) : State :=
  let p := s.port n
  let st := s.spState n
  if st = spStopped || st = spClosing || st = spLeadOut then s.ownerDone o
  else if st = spClocking || st = spLost then
    let s1 := (s.setSpState n spLeadOut).setPort n
      { p with owner := o, leadEnd := some (s.cycle + BitVec.ofNat 32 (s.spPost n)), stopAt := some s.cycle }
    s1.ownerCancel p.owner
  else if s.spPriv n then
    let s1 := (s.setSpState n spClosing).setPort n { p with owner := o, stopAt := some s.cycle }
    s1.ownerCancel p.owner
  else
    let s1 := s.setPort n
      { p with owner := o, stopAt := some s.cycle, leadEnd := some (s.cycle + 1 + BitVec.ofNat 32 (s.spPost n)) }
    s1.ownerCancel p.owner

/-- A mute or unmute commits at the present tick (R229). A mute of an ordinary port is done with its ramp; of a privileged one when
its gates are. -/
def State.spMute (s : State) (n : Nat) (mute : Bool) (o : Option CmdRef) : State :=
  if s.isSet (SP_STATUS.muted n) = mute then s.ownerDone o
  else
    let p := s.port n
    let s1 := (s.wrB (SP_STATUS.muted n) mute).setPort n { p with muteAt := some s.cycle, muteOwner := o }
    s1.ownerCancel p.muteOwner

/-- The scheduled actions of one port at a tick: at one tick the stop wins (R226), and a mute wins over an unmute. -/
def State.spActions (s : State) (n : Nat) : State :=
  let p := s.port n
  let due (l : List (Word × Option CmdRef)) := l.filter (fun x => !later32 x.1 s.cycle)
  let rest (l : List (Word × Option CmdRef)) := l.filter (fun x => later32 x.1 s.cycle)
  let dm := p.mutes.filter (fun x => !later32 x.1 s.cycle)
  let s1 := s.setPort n { p with starts := rest p.starts, stops := rest p.stops, mutes := p.mutes.filter (fun x => later32 x.1 s.cycle) }
  let s2 := if (due p.stops).isEmpty then forAll (due p.starts) (fun x st => st.spStart n x.2) s1
    else forAll (due p.stops) (fun x st => st.spStop n x.2) (forAll (due p.starts) (fun x st => st.ownerCancel x.2) s1)
  if dm.any (fun x => x.2.1) then
    forAll (dm.filter (fun x => x.2.1)) (fun x st => st.spMute n true x.2.2)
      (forAll (dm.filter (fun x => !x.2.1)) (fun x st => st.ownerCancel x.2.2) s2)
  else forAll dm (fun x st => st.spMute n false x.2.2) s2

/-- State changes of one port at a tick that no action asks for: the end of opening and closing, the start of LEAD-OUT after an
ordinary ramp, the completions of start and mute. -/
def State.spProgress (s : State) (n : Nat) : State :=
  let p := s.port n
  let st := s.spState n
  let s1 :=
    if st = spOpening && p.dataTick ≠ some s.cycle && s.spGatesDone n then
      ((s.setSpState n spRunning).setPort n { p with owner := none }).ownerDone p.owner
    else if st = spClosing && p.stopAt ≠ some s.cycle && s.spGatesDone n then
      (s.setSpState n spLeadOut).setPort n { p with leadEnd := some (s.cycle + BitVec.ofNat 32 (s.spPost n)) }
    else if st = spRunning && p.stopAt.isSome && p.stopAt ≠ some s.cycle && !s.spPriv n then s.setSpState n spLeadOut
    else if st = spRunning && p.stopAt.isNone && p.dataTick ≠ some s.cycle && p.owner.isSome then
      (s.setPort n { p with owner := none }).ownerDone p.owner
    else s
  let q := s1.port n
  if q.muteOwner.isSome && q.muteAt ≠ some s.cycle && s1.spGatesDone n then
    (s1.setPort n { q with muteOwner := none }).ownerDone q.muteOwner
  else s1

/-- A frame counter of a group advances with the leader's frames (R235): B for each engine cycle when frames run at Fi, a free value
otherwise. -/
def State.spFrames (s : State) : State :=
  upTo 4 (fun g st =>
    match st.spLeader g with
    | none => st
    | some l =>
      if st.spSync l then st.wrapInc (SP_GRP_FCNT.count g) st.blk
      else
        let (v, st1) := st.drawFree
        st1.wrapInc (SP_GRP_FCNT.count g) v.toNat) s

/-- The ports at a tick. -/
def State.spTick (s : State) : State :=
  (upTo 16 (fun n st => (st.spActions n).spProgress n) s).spFrames

/-- Schedule an action of SPn_CTRL. -/
def State.spCtrl (s : State) (m : Master) (n : Nat) (f : Word → SpPort → SpPort) : State :=
  if s.gated (SP_CTRL n) then s.unavail
  else if s.pairLocked m then s.refuseWrite (SP_STATUS.wr_refused n) m
  else s.setPort n (f (s.actionCycle (s.reg (SP_APPLY n))) (s.port n))

def execSpStart (m : Master) (n : Fin 16) (s : State) : Host.Outcome State Fault Refusal :=
  .next (s.spCtrl m n.val (fun a p => { p with starts := p.starts ++ [(a, none)] }))

def execSpStop (m : Master) (n : Fin 16) (s : State) : Host.Outcome State Fault Refusal :=
  .next (s.spCtrl m n.val (fun a p => { p with stops := p.stops ++ [(a, none)] }))

def execSpMute (m : Master) (n : Fin 16) (s : State) : Host.Outcome State Fault Refusal :=
  .next (s.spCtrl m n.val (fun a p => { p with mutes := p.mutes ++ [(a, true, none)] }))

def execSpUnmute (m : Master) (n : Fin 16) (s : State) : Host.Outcome State Fault Refusal :=
  .next (s.spCtrl m n.val (fun a p => { p with mutes := p.mutes ++ [(a, false, none)] }))

/-! ### Data tick, lead-out, alignment -/

/-- Whether the data tick is due with the tick of cycle `a`. -/
def State.spDataDue (s : State) (n : Nat) (a : Word) : Bool :=
  s.spState n = spClocking && (match (s.port n).dataTick with | some d => !later32 d a | none => false)

/-- The data tick D (R224 step 3): blocks of cycle `a` ramp in; RUNNING, or OPENING on a privileged port. -/
def State.spData (s : State) (n : Nat) (a : Word) : State :=
  let p := s.port n
  (s.setSpState n (if s.spPriv n then spOpening else spRunning)).setPort n { p with dataTick := some a, rampIn := some a }

def execSpDataTick (n : Fin 16) (s : State) : Host.Outcome State Fault Refusal :=
  if s.spDataDue n.val (s.cycle + 1) then .next (s.spData n.val (s.cycle + 1)) else .next s

def State.spLeadDue (s : State) (n : Nat) (a : Word) : Bool :=
  s.spState n = spLeadOut && (match (s.port n).leadEnd with | some d => !later32 d a | none => false)

/-- LEAD-OUT ends (R225 step 3, R226): STOPPED, the stop completes DONE, claims are released, every other command pending on the
port completes CANCELLED; a register mask commit that waited takes effect (R230). -/
def State.spHalt (s : State) (n : Nat) : State :=
  let p := s.port n
  let s0 := match p.masks, p.maskOwner with
    | some (tx, rx), none => (s.setReg (SP_TXMASK_ACT n) tx).setReg (SP_RXMASK_ACT n) rx
    | _, _ => s
  let s1 := (((s0.setSpState n spStopped).wr (SP_STATUS.commit_pend n) 0).setPort n { spDefault 0 with muteAt := none }).ownerDone p.owner
  let s2 := forAll (p.starts ++ p.stops) (fun x st => st.ownerCancel x.2) (s1.spRelease n)
  let s3 := forAll p.mutes (fun x st => st.ownerCancel x.2.2) ((s2.ownerCancel p.muteOwner).ownerCancel p.maskOwner)
  let hit := s3.q.outst.filter (fun o => o.phase = .waiting && o.cmd.cls = 0x06 && o.objs.contains n)
  forAll hit (fun o st => st.finish o.cmd.ref stCancelled 0 []) s3

def execSpLeadOutEnd (n : Fin 16) (s : State) : Host.Outcome State Fault Refusal :=
  if s.spLeadDue n.val (s.cycle + 1) then .next (s.spHalt n.val) else .next s

/-- Data ticks and lead-outs that end with the tick of cycle `a`. -/
def State.spDue (s : State) (a : Word) : State :=
  upTo 16 (fun n st =>
    let s1 := if st.spDataDue n a then st.spData n a else st
    if s1.spLeadDue n a then s1.spHalt n else s1) s

/-- A slave aligns its frames (R224 step 1, R233 step 2): the lead-in count starts at the next tick. -/
def execSpFrameAligned (n : Fin 16) (slack : BitVec 16) (s : State) : Host.Outcome State Fault Refusal :=
  let p := s.port n.val
  if s.spMaster n.val || s.spState n.val = spStopped || p.aligned then .next s
  else
    let d := if s.spState n.val = spClocking && p.dataTick.isNone then
      some (s.cycle + 1 + BitVec.ofNat 32 (s.spPre n.val)) else p.dataTick
    .next ((s.setPort n.val { p with aligned := true, dataTick := d }).wr (SP_SLACK.offset n.val) slack.toNat)

/-! ### Masks (R230) -/

/-- Both masks commit: at once on a STOPPED port, else at the next frame boundary; a later commit replaces a waiting one. -/
def State.spMaskCommit (s : State) (n : Nat) (tx rx : Word) (o : Option CmdRef) : State :=
  let p := s.port n
  if s.spState n = spStopped then ((s.setReg (SP_TXMASK_ACT n) tx).setReg (SP_RXMASK_ACT n) rx).ownerDone o
  else
    let s1 := (s.wr (SP_STATUS.commit_pend n) 1).setPort n { p with masks := some (tx, rx), maskOwner := o }
    s1.ownerCancel p.maskOwner

def execSpMaskCommit (m : Master) (n : Fin 16) (s : State) : Host.Outcome State Fault Refusal :=
  if s.gated (SP_CTRL n.val) then .next s.unavail
  else if s.pairLocked m then .next (s.refuseWrite (SP_STATUS.wr_refused n.val) m)
  else .next (s.spMaskCommit n.val (s.reg (SP_TXMASK n.val)) (s.reg (SP_RXMASK n.val)) none)

/-- The first frame boundary after a commit; a LOST port has none until it realigns. -/
def execSpMaskTakeEffect (n : Fin 16) (s : State) : Host.Outcome State Fault Refusal :=
  let p := s.port n.val
  match p.masks with
  | some (tx, rx) =>
    if s.spState n.val = spLost then .next s
    else
      let s1 := ((s.setReg (SP_TXMASK_ACT n.val) tx).setReg (SP_RXMASK_ACT n.val) rx).wr (SP_STATUS.commit_pend n.val) 0
      .next ((s1.setPort n.val { p with masks := none, maskOwner := none }).ownerDone p.maskOwner)
  | none => .next s

/-! ### Frame events (R231–R236) -/

/-- A port that has clocks: every state but STOPPED. -/
def State.spActive (s : State) (n : Nat) : Bool := s.spState n ≠ spStopped

/-- A frame inserted or dropped in one direction. -/
def State.spInsert (s : State) (n : Nat) (tx : Bool) : State :=
  (s.flagEvent (if tx then SP_STATUS.tx_ins n else SP_STATUS.rx_ins n) n 0).bump (SP_SLIPCNT.inserted n) 1

def State.spDrop (s : State) (n : Nat) (tx : Bool) : State :=
  (s.flagEvent (if tx then SP_STATUS.tx_drop n else SP_STATUS.rx_drop n) n 0).bump (SP_SLIPCNT.dropped n) 1

def execSpUnderrun (n : Fin 16) (tx : Bool) (s : State) : Host.Outcome State Fault Refusal :=
  if s.spActive n.val then .next (s.spInsert n.val tx) else .next s

def execSpOverrun (n : Fin 16) (tx : Bool) (s : State) : Host.Outcome State Fault Refusal :=
  if s.spActive n.val then .next (s.spDrop n.val tx) else .next s

/-- One port's part of a slip (R232). -/
def State.spSlipOne (s : State) (n : Nat) (fast : Bool) : State :=
  if fast then ((s.spDrop n false).spInsert n true).wr (SP_SLACK.offset n) 256
  else ((s.spInsert n false).spDrop n true).wr (SP_SLACK.offset n) (65536 - 256)

/-- A synchronous slave slips (R232); in a group the leader decides for every active member (R236). -/
def execSpSlip (n : Fin 16) (fast : Bool) (s : State) : Host.Outcome State Fault Refusal :=
  if !s.spActive n.val || s.spMaster n.val || !s.spSync n.val then .next s
  else
    match s.spLeadOf n.val with
    | none => .next (s.spSlipOne n.val fast)
    | some l =>
      if l = n.val then .next (forAll (s.spMembers (s.rd (SP_CFG.grp n.val))) (fun k st => st.spSlipOne k fast) s)
      else .next s

/-- A misplaced FS edge or a BCLK stop on a slave (R233). -/
def execSpGlitch (n : Fin 16) (s : State) : Host.Outcome State Fault Refusal :=
  if !s.spActive n.val || s.spMaster n.val then .next s
  else
    let s1 := ((s.flagEvent (SP_STATUS.glitch n.val) n.val 0).bump (SP_GLITCHCNT.glitches n.val) 1).setPort n.val
      { s.port n.val with aligned := false }
    .next ((s1.spInsert n.val true).spInsert n.val false)

/-- No valid frame pair within 4 frame periods (R234). -/
def execSpLost (n : Fin 16) (s : State) : Host.Outcome State Fault Refusal :=
  let st := s.spState n.val
  if st = spStopped || st = spLost || s.spMaster n.val then .next s
  else
    let s1 := ((s.flagEvent (SP_STATUS.lost n.val) n.val 0).bump (SP_GLITCHCNT.lost n.val) 1).setSpState n.val spLost
    .next (s1.setPort n.val { s1.port n.val with prev := st, aligned := false })

/-- Two valid frames return (R234): the state before LOST, the next block under a ramp. -/
def execSpRealign (n : Fin 16) (s : State) : Host.Outcome State Fault Refusal :=
  if s.spState n.val ≠ spLost then .next s
  else
    let p := s.port n.val
    let d := if p.prev = spClocking && p.dataTick.isNone then some (s.cycle + 1 + BitVec.ofNat 32 (s.spPre n.val)) else p.dataTick
    .next ((s.setSpState n.val p.prev).setPort n.val { p with aligned := true, rampIn := some (s.cycle + 1), dataTick := d })

/-! ### Samples -/

/-- The gain of a port's blocks in cycle `j` at position p (R224 step 3, R225 step 1). -/
def State.spGain (s : State) (n : Nat) (j : Word) (p : Nat) : Word :=
  let q := s.port n
  let st := s.spState n
  if st = spOpening || st = spRunning || st = spClosing then
    match q.stopAt with
    | some e => if e = j then rampGain unity 0 s.blk (p + 1) else 0
    | none => if q.rampIn = some j then rampGain 0 unity s.blk (p + 1) else unity
  else 0

/-- The gain of the converter channel that serves a port, unity on a direct path. -/
def State.spConv (s : State) (n : Nat) (j : Word) (p : Nat) : Word :=
  if s.spSync n then unity
  else match s.spTracker n with
    | some t => s.trkGain t j p
    | none => 0

/-- A slot's captured word (R218, R224, R230) in cycle `j`. -/
def State.spCapture (s : State) (n slot : Nat) (j : Word) (p : Nat) (pcm : BitVec 24) : Word :=
  if s.isSet (SP_CFG.rx_en n) && slot < s.spSlots n && (s.reg (SP_RXMASK_ACT n)).getLsbD slot then
    let w := if s.rd (SP_CFG.width n) = 0 then pcm.toNat / 256 * 256 else pcm.toNat
    scale (scale (fromPcm24 w) (s.spGain n j p)) (s.spConv n j p)
  else 0

/-- The gain of an ordinary port's emitted block in cycle `j`, port mute included (R229); a privileged port gates instead. -/
def State.spEmitGain (s : State) (n : Nat) (j : Word) (p : Nat) : Word :=
  if s.spPriv n then unity
  else
    let q := s.port n
    let m := s.isSet (SP_STATUS.muted n)
    let g := if q.muteAt = some j then (if m then rampGain unity 0 s.blk (p + 1) else rampGain 0 unity s.blk (p + 1))
      else if m then 0 else unity
    scale (s.spGain n j p) g

/-- The 24-bit word that SPn_DO sends in a slot at a position of this cycle's block (R218, R224, R227, R230); none where the bits are
padding or the pin is at high impedance. -/
def State.spPin (s : State) (n slot p : Nat) : Option Word :=
  let st := s.spState n
  if st = spStopped || st = spLost || (TestKind.portLoop, n) ∈ s.flt.fenced || (16 + n) ∈ s.flt.inReset || !s.drivesPin (.dout (Fin.ofNat 16 n)) || !s.isSet (SP_CFG.tx_en n) ||
       !(s.reg (SP_TXMASK_ACT n)).getLsbD slot || slot ≥ s.spSlots n then none
  else if st = spClocking || st = spLeadOut then some 0
  else
    let w := s.emitWord (spSink n slot) p
    if !s.spPriv n then some w
    else
      let g := (s.port n).gate slot
      if g.cyc ≠ s.cycle then some (if g.isOpen then w else 0)
      else if g.ramp then
        some (scale w (if g.isOpen then rampGain 0 unity s.blk (p + 1) else rampGain unity 0 s.blk (p + 1)))
      else some (if (g.pos ≤ p) = g.isOpen then w else 0)

end Sys2Proof.Machine
end

