-- ==== Sys2Proof/Machine/Ref.lean ====
section
/-! DEFINITION. References and the media clock (R334–R346): monitors, tolerances, votes, selection, holdover, locking, PPS_OUT. -/

namespace Sys2Proof.Machine

/-! ### Codes (REF_STATUS.mc, REF_MONk.state) -/

def mcFree : Nat := 0
def mcAcquire : Nat := 1
def mcLocked : Nat := 2
def mcHoldover : Nat := 3
def monAbsent : Nat := 0
def monQualifying : Nat := 1
def monValid : Nat := 2
def monDrift : Nat := 3
def monOutlier : Nat := 4

def State.mc (s : State) : Nat := s.rd REF_STATUS.mc
def State.refInUse (s : State) : Nat := s.rd REF_STATUS.ref
def State.monState (s : State) (k : Nat) : Nat := s.rd (REF_MON.state k)
def State.monPpb (s : State) (k : Nat) : Int := signedOf 24 (s.rd (REF_MON.ppb k))

def refMonDefault : Nat → Mon := fun _ => ⟨0, 0, 0, 0, 0⟩

def State.refMon (s : State) (k : Nat) : Mon := SMap.get refMonDefault s.ref.mons k

def State.setRefMon (s : State) (k : Nat) (x : Mon) : State :=
  { s with ref := { s.ref with mons := SMap.set refMonDefault s.ref.mons k x } }

/-- Tolerances in ppb. -/
def State.hardPpb (s : State) : Int := s.rd REF_TOL.hard * 1000
def State.softPpb (s : State) : Int := s.rd REF_TOL.soft * 1000

/-- Whether the media clock follows PTP: PTP is the reference in use and the clock has left FREE-RUN (R289). -/
def State.followsPtp (s : State) : Bool := s.refInUse = 1 && (s.mc = mcAcquire || s.mc = mcLocked)

/-! ### The media-clock state (R336, R337, R344) -/

/-- Whether the unit's ticks follow the lead's (R336): ATTACHING, SYNCED and STANDBY. -/
def State.followsTwin (s : State) : Bool := s.twin && (s.astate = 2 || s.astate = 3 || s.astate = 5)

/-- The reference that the unit's role and pins name (R335, R336): TWIN while standby or attaching. -/
def State.wantedRef (s : State) : Nat :=
  if s.followsTwin then 6
  else if s.rd REF_STATUS.pins = 7 then min 6 (s.rd REF_SEL.sel) else s.rd REF_STATUS.pins

/-- A state change of the media clock waits for the next tick. -/
def State.mcGo (s : State) (st : Nat) : State := { s with ref := { s.ref with mcNext := some st } }

/-- The state in which a newly selected reference starts (R336, R338, R344). -/
def State.startMc (s : State) (k : Nat) : Nat :=
  if k = 0 then mcFree
  else if k = 6 && !s.followsTwin then (if s.ref.ever then mcHoldover else mcFree)
  else if s.monState k = monValid then mcAcquire else mcHoldover

/-- The holdover frequency: a mean clamped to ±hard (R340). -/
def State.holdWord (s : State) (mean : Word) : Word := wordOf (max (-s.hardPpb) (min s.hardPpb (sval mean)))

/-- Phase reduced to (−P / 2, P / 2] (R338); P in ns is 1 / Fi for references 2, 4 and 5, else B / Fi. -/
def State.reducePhase (s : State) (k : Nat) (ph : Int) : Int :=
  let n : Int := if k = 2 || k = 4 || k = 5 then 1000000000 else 1000000000 * s.blk
  let f : Int := s.fi
  let r := (ph * f) % n
  (if 2 * r > n then r - n else r) / f

/-- The media clock enters a state at a tick. -/
def State.mcEnter (s : State) (st : Nat) (phase : Word) : State :=
  let s0 := { s with ref := { s.ref with mcNext := none } }
  if st = s.mc then s0
  else
    let s1 := s0.wr REF_STATUS.mc st
    if st = mcHoldover then
      ((s1.setReg REF_HOLD (s.holdWord s.ref.mean)).set1 REF_STATUS.holdover).event 0x0203 (BitVec.ofNat 32 s.refInUse) (s.reg REF_XCHK)
    else if st = mcLocked then
      let θ := s.reducePhase s.refInUse (sval phase)
      let s2 := (s1.setReg REF_ABS (wordOf θ)).wrB REF_STATUS.pull_busy (s.isSet REF_CFG.pull_en && θ != 0)
      { s2 with ref := { s2.ref with ever := true } }.flagEvent REF_STATUS.locked s.refInUse 0
    else s1

/-- The reference unit at a tick: a change of selection, then a waiting state change. -/
def State.refTick (s : State) : State :=
  let k := s.wantedRef
  let s1 := if k ≠ s.refInUse then (s.wr REF_STATUS.ref k).mcEnter (s.startMc k) 0 else s
  match s1.ref.mcNext with
  | some st => s1.mcEnter st (s1.reg REF_PHASE)
  | none => s1

/-- R338: at the tick at which the media clock locks, the measured phase is absorbed. -/
def execRefLock (phase : Word) (s : State) : Host.Outcome State Fault Refusal :=
  .next (if s.ref.mcNext = some mcLocked then (s.setReg REF_PHASE phase).mcEnter mcLocked phase else s)

/-- R338: the pull-in has brought REF_ABS to 0. -/
def execRefPullDone (s : State) : Host.Outcome State Fault Refusal :=
  .next (if s.isSet REF_STATUS.pull_busy then (s.setReg REF_ABS 0).wr REF_STATUS.pull_busy 0 else s)

/-! ### Monitors (R341, R342) -/

/-- A monitor changes state; its count starts again. The selected reference's becoming VALID starts ACQUIRE, and its leaving VALID
HOLDOVER, at the next tick. -/
def State.monGo (s : State) (k st : Nat) (mean : Word) : State :=
  let was := s.monState k
  let s1 := ((s.wr (REF_MON.state k) st).wr (REF_MON.count k) 0).setRefMon k { s.refMon k with good := 0, hardOut := 0 }
  if k ≠ s.refInUse || st = was then s1
  else if st = monValid then s1.mcGo mcAcquire
  else if was = monValid && (s.mc = mcAcquire || s.mc = mcLocked) then
    { s1 with ref := { s1.ref with mean := mean } }.mcGo mcHoldover
  else s1

/-- Whether a reference is present (R335): of PTP, a port's frame clock and TWIN the block knows (of TWIN by the link's word as the next
tick shows it); the others the sender reports. -/
def State.refPresent (s : State) (k : Nat) (seen : Bool) : Bool :=
  if k = 1 then s.rd PTP_STATUS.servo = 2
  else if k = 4 || k = 5 then
    let n := if k = 4 then 0 else 8
    s.spSync n && !s.spMaster n && s.spState n ≠ spStopped && s.spState n ≠ spLost
  else if k = 6 then getFld PAIR_LINK.state ((SMap.find s.pair.words PAIR_LINK).getD (s.reg PAIR_LINK)) = 2
  else seen

/-- A reference becomes present or absent. -/
def State.refPresence (s : State) (k : Nat) (seen : Bool) : State :=
  if !s.isSet (REF_MON.en k) then s
  else if s.refPresent k seen then
    (if s.monState k = monAbsent then s.monGo k monQualifying 0 else s)
  else if s.monState k = monAbsent then s
  else s.monGo k monAbsent (s.reg REF_FREQ)

def execRefPresenceChange (k : Fin 7) (present : Bool) (s : State) : Host.Outcome State Fault Refusal :=
  if k.val = 0 then .fault .illFormed else .next (s.refPresence k.val present)

def execRefOutlierClear (k : Fin 7) (s : State) : Host.Outcome State Fault Refusal :=
  if k.val = 0 then .fault .illFormed
  else .next (if s.monState k.val = monOutlier then s.monGo k.val monQualifying 0 else s)

/-- The tolerances on one measurement (R342). -/
def State.tolerances (s : State) (k : Nat) (ppb : Int) (mean : Word) : State :=
  let m := s.refMon k
  let out := ppb.natAbs > s.softPpb.natAbs
  let far := ppb.natAbs > s.hardPpb.natAbs
  let m1 : Mon := { m with
    softOut := if out then min 3 (m.softOut + 1) else 0
    softIn := if out then 0 else min 3 (m.softIn + 1)
    hardOut := if far then min 3 (m.hardOut + 1) else 0
    held := if far && m.hardOut = 0 then mean else m.held }
  let s1 := s.setRefMon k m1
  let s2 :=
    if m1.softOut = 3 && m.softOut = 2 then (s1.set1 REF_STATUS.soft).event 0x0201 (BitVec.ofNat 32 k) (s.reg REF_XCHK)
    else if m1.softIn = 3 && m.softIn = 2 then s1.wr REF_STATUS.soft 0 else s1
  if m1.hardOut = 3 && s.monState k = monValid then (s2.flagEvent REF_STATUS.hard k 0).monGo k monDrift m1.held else s2

/-- The monitor's own count on one measurement (R341). -/
def State.qualify (s : State) (k : Nat) (ppb : Int) : State :=
  let near := ppb.natAbs + 5000 ≤ s.hardPpb.natAbs
  let m := s.refMon k
  if s.monState k = monQualifying then
    if !near then (s.setRefMon k { m with good := 0 }).wr (REF_MON.count k) 0
    else if m.good + 1 ≥ max 1 (s.rd REF_CFG.qual) then s.monGo k monValid 0
    else (s.setRefMon k { m with good := m.good + 1 }).wr (REF_MON.count k) (min 15 (m.good + 1))
  else if s.monState k = monDrift && near then s.monGo k monQualifying 0
  else s

/-! ### Votes (R343) -/

/-- Rank of a reference. -/
def State.rankOf (s : State) (k : Nat) : Nat := fieldOf (s.reg REF_RANK) (2 * k + 1) (2 * k)

/-- The vote between the selected reference a and another one b. -/
def State.vote (s : State) (a b : Nat) : State :=
  let judge := ((List.range 7).find? (fun k =>
    k ≠ 0 && k ≠ a && k ≠ b && s.monState k = monValid && s.rankOf k = s.rankOf a)).getD 0
  let f : Int := if judge = 0 then 0 else s.monPpb judge
  let da := (s.monPpb a - f).natAbs
  let db := (s.monPpb b - f).natAbs
  let apart := (if da ≤ db then db - da else da - db)
  let tol := s.rd REF_XCHK.tol
  let undecided := 2 * apart < tol * 1000
  let out := if db ≤ da then a else b
  let other := if out = a then b else a
  let w := BitVec.ofNat 32 (2 ^ 31 + b2n undecided * 2 ^ 30 + out * 2 ^ 27 + other * 2 ^ 24 + judge * 2 ^ 21 + tol)
  let s1 := ((s.setReg REF_XCHK w).set1 REF_STATUS.xchk).event 0x0202 (BitVec.ofNat 32 out) w
  if undecided then s1 else s1.monGo out monOutlier s.ref.mean

/-- The comparison of the selected reference with another one. -/
def State.compareRefs (s : State) (a b : Nat) : State :=
  let apart := (s.monPpb a - s.monPpb b).natAbs > s.rd REF_XCHK.tol * 1000
  let n := if apart then SMap.get (fun _ => 0) s.ref.dis b + 1 else 0
  let s1 := { s with ref := { s.ref with dis := SMap.set (fun _ => 0) s.ref.dis b (n % 3) } }
  if n ≥ 3 then s1.vote a b else s1

/-- R341–R343: one measurement of a monitor. -/
def State.measure (s : State) (k : Nat) (m : RefMeas) : State :=
  let ppb := signedOf 24 m.ppb.toNat
  let s1 := s.wr (REF_MON.ppb k) m.ppb.toNat
  let s2 := (s1.tolerances k ppb m.mean).qualify k ppb
  if k ≠ s.refInUse then s2
  else
    let s3 := { (s2.setReg REF_FREQ m.freq).setReg REF_PHASE m.phase with ref := { s2.ref with mean := m.mean } }
    let s4 := if s3.mc = mcAcquire && s3.monState k = monValid && (sval m.df).natAbs < 100 then s3.mcGo mcLocked else s3
    if s4.monState k ≠ monValid then s4
    else forAll ((List.range 7).filter (fun j => j ≠ 0 && j ≠ k && s4.monState j = monValid && s4.rankOf j = s4.rankOf k))
      (fun j st => if st.monState k = monValid then st.compareRefs k j else st) s4

def execRefMeasurement (k : Fin 7) (m : RefMeas) (s : State) : Host.Outcome State Fault Refusal :=
  if k.val = 0 then .fault .illFormed
  else .next (if s.isSet (REF_MON.en k.val) && s.monState k.val ≠ monAbsent then s.measure k.val m else s)

/-! ### Selection and pins (R335, R344) -/

/-- A write of REF_SEL: only under pins 111, for references 0–6, and not from the host bridge in a synced pair. -/
def execRefSelWrite (master : Master) (sel : Fin 8) (s : State) : Host.Outcome State Fault Refusal :=
  .next (if sel.val = s.rd REF_SEL.sel then s
    else if s.rd REF_STATUS.pins ≠ 7 || sel.val = 7 || s.pairLocked master then
      (s.set1 REF_STATUS.wr_refused).wpEvent master REF_SEL
    else s.wr REF_SEL.sel sel.val)

/-- The pins change after they were sampled. -/
def execRefselChange (pins : Fin 8) (s : State) : Host.Outcome State Fault Refusal :=
  let s1 := { s with boot := { s.boot with pins := { s.boot.pins with refsel := pins } } }
  .next (if pins.val = s.rd REF_STATUS.pins then s1 else s1.flagEvent REF_STATUS.pin_chg 0 pins.val)

/-! ### PPS_OUT (R345) -/

/-- A second mark plus offset: a pulse starts with the offset then in force; one less than 0.5 s after the previous is omitted. -/
def execPpsOutPulse (elapsed : Word) (s : State) : Host.Outcome State Fault Refusal :=
  .next (if s.ref.ppsSeen && elapsed.toNat < 500000000 then s
    else { s with ref := { s.ref with ppsSeen := true, ppsOfs := s.reg REF_PPS_OFS, ppsCount := s.ref.ppsCount + 1 } })

end Sys2Proof.Machine
end

