-- ==== Sys2Proof/Machine/Net.lean ====
section
/-! DEFINITION. AES67 streams (R285–R309): ports, admission, transmit, receive, legs, membership and discovery.

Stream words change only at ticks: what a packet changes between ticks waits in `shadow` until the next one. -/

namespace Sys2Proof.Machine

/-! ### Stream words -/

/-- Word and fields of a stream's configuration; `tx` is transmit. -/
def stCfg (tx : Bool) (s : Nat) : Nat := if tx then STRM_TX_CFG s else STRM_RX_CFG s
def stState (tx : Bool) (s : Nat) : Fld := ⟨stCfg tx s, 30, 2⟩
def stSusp (tx : Bool) (s : Nat) : Fld := ⟨stCfg tx s, 29, 1⟩
def stMode (tx : Bool) (s : Nat) : Fld := ⟨stCfg tx s, 28, 1⟩
def stPorts (s : Nat) : Fld := ⟨stCfg true s, 26, 2⟩
def stTag (s : Nat) : Fld := ⟨stCfg true s, 25, 1⟩
def stL16 (tx : Bool) (s : Nat) : Fld := ⟨stCfg tx s, 24, 1⟩
def stR96 (tx : Bool) (s : Nat) : Fld := ⟨stCfg tx s, 23, 1⟩
def stPtime (tx : Bool) (s : Nat) : Fld := ⟨stCfg tx s, 20, 3⟩
def stClass (tx : Bool) (s : Nat) : Fld := ⟨stCfg tx s, 17, 3⟩
def stAsync (tx : Bool) (s : Nat) : Fld := ⟨stCfg tx s, 16, 1⟩
def stNch (tx : Bool) (s : Nat) : Fld := ⟨stCfg tx s, 10, 6⟩
def stSap (s : Nat) : Fld := ⟨stCfg true s, 9, 1⟩
def stCh0 (tx : Bool) (s : Nat) : Fld := ⟨stCfg tx s, 0, 9⟩

def stOff : Nat := 0
def stWaiting : Nat := 1
def stRunning : Nat := 2
def stStopping : Nat := 3

def State.strmState (s : State) (tx : Bool) (k : Nat) : Nat := s.rd (stState tx k)
def State.chans (s : State) (tx : Bool) (k : Nat) : Nat := s.rd (stNch tx k) + 1
def State.rate (s : State) (tx : Bool) (k : Nat) : Nat := if s.isSet (stR96 tx k) then 96000 else 48000
def State.sampleBytes (s : State) (tx : Bool) (k : Nat) : Nat := if s.isSet (stL16 tx k) then 2 else 3

/-- Samples of a packet for each channel (R287); 0 for a reserved packet time. -/
def State.pktLen (s : State) (tx : Bool) (k : Nat) : Nat :=
  (match s.rd (stPtime tx k) with
    | 0 => 6 | 1 => 12 | 2 => 16 | 3 => 48 | 4 => 192 | _ => 0) * (if s.isSet (stR96 tx k) then 2 else 1)

/-- The most channels of a stream (R287). -/
def maxChans (bytes n : Nat) : Nat := if n = 0 then 0 else min 64 (1444 / (bytes * n))

def strmDefault : Nat → Strm := fun _ =>
  ⟨[], [], none, none, none, none, none, 0, [], 0, false, none, [], [], [], false⟩

def strmKey (tx : Bool) (k : Nat) : Nat := if tx then k else 128 + k

def State.strm (s : State) (tx : Bool) (k : Nat) : Strm := SMap.get strmDefault s.net.strms (strmKey tx k)

def State.setStrm (s : State) (tx : Bool) (k : Nat) (x : Strm) : State :=
  { s with net := { s.net with strms := SMap.set strmDefault s.net.strms (strmKey tx k) x } }

/-- A stream word as it will stand at the next tick, and a change of it. -/
def State.shReg (s : State) (a : Nat) : Word := (SMap.find s.net.shadow a).getD (s.reg a)
def State.shRd (s : State) (f : Fld) : Nat := getFld f (s.shReg f.addr)
def State.shWr (s : State) (f : Fld) (v : Nat) : State :=
  { s with net := { s.net with shadow := SMap.insert f.addr (putFld f (s.shReg f.addr) v) s.net.shadow } }
def State.shBump (s : State) (f : Fld) : State := s.shWr f (min (2 ^ f.width - 1) (s.shRd f + 1))

/-- The frames of one command. -/
def State.send (s : State) (l : List NetFrame) : State := { s with net := { s.net with sent := l } }

/-! ### Ports (R285, R309) -/

/-- Whether NETB has stopped for SQUALL (R309). -/
def State.netbStopped (s : State) : Bool :=
  s.level ≥ 1 && !(match s.img.running with | some im => im.squallNetB | none => false)

/-- Whether a port carries traffic. -/
def State.portOn (s : State) (p : Nat) : Bool :=
  s.isSet ⟨NET_CFG p, 31, 1⟩ && s.rd (NET_STATUS.link p) ≠ 0 && (4 + p) ∉ s.flt.inReset && !(p = 1 && (s.netbStopped || s.gateShut 7))

/-! ### Admission (R291) -/

/-- kb/s of a transmit stream on a port, rounded up. -/
def State.txKbps (s : State) (k p : Nat) : Nat :=
  let n := s.pktLen true k
  let v := if s.isSet ⟨NET_CFG p, 28, 1⟩ then 4 else 0
  let e := if s.isSet (stTag k) then 16 else 0
  let f := 58 + v + e + s.chans true k * n * s.sampleBytes true k
  let w := max f (64 + v) + 20
  if n = 0 then 0 else (w * 8 * s.rate true k + n * 1000 - 1) / (n * 1000)

def State.portLimit (s : State) (p : Nat) : Nat := if s.rd (NET_STATUS.link p) = 1 then 90000 else 900000

/-- Whether a transmit stream sends on a port. -/
def State.onPort (s : State) (k p : Nat) : Bool := (s.rd (stPorts k)) / 2 ^ p % 2 = 1

/-- Add or take back a stream's share of each of its ports. -/
def State.admitOn (s : State) (k p : Nat) (add : Bool) : State :=
  if s.onPort k p then
    let v := (s.reg (NET_ADMIT p)).toNat
    s.setReg (NET_ADMIT p) (BitVec.ofNat 32 (if add then v + s.txKbps k p else v - s.txKbps k p))
  else s

/-- Whether a start fits on every port of the stream. -/
def State.admits (s : State) (k : Nat) : Bool :=
  (List.range 2).all (fun p => !s.onPort k p || (s.reg (NET_ADMIT p)).toNat + s.txKbps k p ≤ s.portLimit p)

/-! ### Claims (R289, R212) -/

/-- Whether a stream is asynchronous (R289). -/
def State.needsAsync (s : State) (tx : Bool) (k : Nat) : Bool := !(s.rate tx k = s.fi && s.followsPtp)

def State.strmIds (s : State) (tx : Bool) (k : Nat) : List Nat :=
  (List.range (s.chans tx k)).map (fun c => 0x1000 + s.rd (stCh0 tx k) + c)

/-- Claim tracker and converters if the stream is asynchronous; false when a pool is short. -/
def State.strmClaim (s : State) (tx : Bool) (k : Nat) : State × Bool :=
  if s.needsAsync tx k then
    match s.asrcClaim (if tx then 2 else 1) 1 k 0 (s.strmIds tx k) with
    | (s1, ok) => (if ok then s1.wr (stAsync tx k) 1 else s1, ok)
  else (s.wr (stAsync tx k) 0, true)

def State.strmRelease (s : State) (tx : Bool) (k : Nat) : State :=
  let s1 := match s.trackerOf (if tx then 2 else 1) 1 k with
    | some t => s.asrcRelease t (s.strmIds tx k)
    | none => s
  s1.wr (stAsync tx k) 0

/-! ### Start checks (R290) -/

/-- Whether the stream's channels overlap those of another stream that is not OFF. -/
def State.chansClash (s : State) (tx : Bool) (k : Nat) : Bool :=
  let a := s.rd (stCh0 tx k)
  let n := s.chans tx k
  (List.range 128).any (fun j =>
    j ≠ k && s.strmState tx j ≠ stOff && s.rd (stCh0 tx j) < a + n && a < s.rd (stCh0 tx j) + s.chans tx j)

/-- The enabled legs of a receive stream, and every leg membership of a port (R306). -/
def State.legsOf (s : State) (k : Nat) : List Nat :=
  (List.range 4).map (fun i => 4 * k + i) |>.filter (fun l => (s.reg (STRM_LEG_CFG l)).getLsbD 31)

def State.legPort (s : State) (l : Nat) : Nat := fieldOf (s.reg (STRM_LEG_CFG l)) 30 30

/-- Whether the stream is set up (its words have been written by a set-up command). -/
def State.strmBad (s : State) (tx : Bool) (k : Nat) : Bool :=
  let n := s.pktLen tx k
  let r := s.rate tx k
  let top := if s.fi = 96000 then 256 else 512
  let ofs := fieldOf (s.reg (STRM_RX_OFS k)) 10 0
  let id := fieldOf (s.reg STRM_TAG) 3 0
  n = 0 || s.chans tx k > maxChans (s.sampleBytes tx k) n || s.rd (stCh0 tx k) + s.chans tx k > top || s.chansClash tx k
    || (if tx then s.rd (stPorts k) = 0
        else (s.legsOf k).isEmpty || ofs * 4000 < r || ofs * 50 > r || (s.isSet (stMode false k) && (id = 0 || id = 15)))

/-- The status of a refused start, with its detail. -/
def State.strmRefusal (s : State) (tx : Bool) (k : Nat) : Option (Nat × Nat) :=
  if s.strmBad tx k then some (stBadParam, 2)
  else if tx && !s.admits k then some (stCapacity, 5)
  else none

/-! ### Transmit (R293–R295) -/

/-- Timestamp of an emit point at a DTIME (R293), without the stream's offset. -/
def mediaTimeAt (dtime : BitVec 64) (rate : Nat) : Word := BitVec.ofNat 32 (dtime.toNat * rate / 1000000000)

def State.mediaTime (s : State) (rate : Nat) : Word :=
  mediaTimeAt (if s.twin && (s.astate = 3 || s.astate = 5) then s.pair.mdtime else s.ptp.dtime) rate

/-- DTIME without a step taken at the present tick: the block of a step tick is still placed by the old time (R321). -/
def State.oldDtime (s : State) : BitVec 64 :=
  if s.ptp.stepTick = some s.cycle then s.ptp.dtime - BitVec.ofInt 64 s.ptp.lastStep else s.ptp.dtime

/-- A transmit stream's block emitted from the present tick on begins with a ramp (R294). -/
def State.txOpen (s : State) (k : Nat) : State :=
  let x := s.strm true k
  let n := max 1 (s.pktLen true k)
  let t := s.mediaTime (s.rate true k) + s.reg (STRM_TX_MOFS k)
  let pad := t.toNat % n
  let zeros := (List.range pad).map (fun i =>
    (s.cycle, t - BitVec.ofNat 32 (pad - i), List.replicate (s.chans true k) (0 : Word)))
  (s.wr (stState true k) stRunning).setStrm true k
    { x with startAt := some s.cycle, stopAt := none, buf := x.buf ++ zeros, ts := t, tail := false }

/-- A stop of a stream begins at the present tick (R295, R296). -/
def State.strmHalt (s : State) (tx : Bool) (k : Nat) : State :=
  (s.wr (stState tx k) stStopping).setStrm tx k { s.strm tx k with stopAt := some s.cycle }

/-! ### Receive (R296) -/

/-- Membership reports of a stream's legs (R306): each goes out now and again a second later. -/
def State.membership (s : State) (k : Nat) (leave : Bool) : State :=
  let l := (s.legsOf k).map (fun g => (s.legPort g, leave, s.reg (STRM_LEG_GRP g), s.reg (STRM_LEG_SRC g)))
  let s1 := { s with net := { s.net with repeats := s.net.repeats ++ l } }
  { s1 with net := { s1.net with sent := s1.net.sent ++ l.map (fun e => .igmp e.1 (s.net.v2.contains e.1) e.2.1 e.2.2.1 e.2.2.2) } }

/-- Receive begins at the present tick. -/
def State.rxOpen (s : State) (k : Nat) : State :=
  let x := s.strm false k
  (s.wr (stState false k) stWaiting).setStrm false k
    { x with startAt := some s.cycle, stopAt := none, rampIn := none, ring := [], seqs := [], units := [], got := false }

/-! ### Starts, stops, suspensions -/

def State.strmFinish (s : State) (o : Option CmdRef) (status detail : Nat) : State :=
  match o with
  | some r => s.finish r status detail []
  | none => s

/-- Free channel counts (STRM_FREE). -/
def State.freeChans (s : State) (tx : Bool) (k : Nat) (take : Bool) : State :=
  let f : Fld := if tx then ⟨STRM_FREE, 0, 10⟩ else ⟨STRM_FREE, 16, 10⟩
  s.wr f (if take then s.rd f - s.chans tx k else s.rd f + s.chans tx k)

/-- Clear the counters of a receive stream and its legs at a start. -/
def State.rxClear (s : State) (k : Nat) : State :=
  let s1 := ((s.setReg (STRM_RX_CNT0 k) 0).setReg (STRM_RX_CNT1 k) 0).setReg (STRM_RX_CNT2 k) 0
  forAll (s.legsOf k) (fun l st => st.setReg (STRM_LEG_STAT l) 0) (s1.setReg (STRM_RX_STAT k) 0)

/-- A start commits at the present tick A: refusals, claims, admission, then the opening of the stream. -/
def State.strmStart (s : State) (tx : Bool) (k : Nat) (o : Option CmdRef) : State :=
  let st := s.strmState tx k
  if s.isSet (stSusp tx k) || shedClass s.level (s.rd (stClass tx k)) then s.strmFinish o stShed 0
  else if st = stWaiting || st = stRunning then s.ownerDone o
  else if st = stStopping then s.strmFinish o stBusy 0
  else match s.strmRefusal tx k with
    | some (e, d) => (if e = stCapacity then s.flagEvent STRM_STATUS.refused k 0 else s).strmFinish o e d
    | none =>
      match s.strmClaim tx k with
      | (s1, false) => s1.strmFinish o stCapacity 4
      | (s1, true) =>
        let s2 := (s1.freeChans tx k true).setStrm tx k { s1.strm tx k with owner := o }
        if tx then (((s2.admitOn k 0 true).admitOn k 1 true).txOpen k)
        else ((s2.rxClear k).rxOpen k).membership k false

/-- A stop commits at the present tick E. -/
def State.strmStop (s : State) (tx : Bool) (k : Nat) (o : Option CmdRef) : State :=
  let st := s.strmState tx k
  let x := s.strm tx k
  if s.isSet (stSusp tx k) then s.strmFinish o stShed 0
  else if st = stOff || st = stStopping then s.ownerDone o
  else
    let s1 := (s.setStrm tx k { x with owner := none, stopOwner := o }).ownerCancel x.owner
    s1.strmHalt tx k

/-- The stream reaches OFF: claims, channels and admission are released, the stop completes, other pending commands are cancelled
(R295, R296, R226). -/
def State.strmOff (s : State) (tx : Bool) (k : Nat) : State :=
  let x := s.strm tx k
  let s1 := ((s.wr (stState tx k) stOff).strmRelease tx k).freeChans tx k false
  let gone : List NetFrame := if tx && s.isSet (stSap k) && x.susp = 0 then
      ((List.range 2).filter (fun p => s.onPort k p && s.portOn p)).map (fun p => .sap p k true)
    else []
  let s1 := { s1 with net := { s1.net with sent := s1.net.sent ++ gone } }
  let s2 := if tx then (s1.admitOn k 0 false).admitOn k 1 false
    else if x.susp = 0 then s1.membership k true else s1
  let s3 := s2.setStrm tx k { strmDefault 0 with susp := x.susp }
  let s4 := s3.ownerDone x.stopOwner
  let s5 := forAll (x.starts ++ x.stops) (fun c st => st.ownerCancel c.2) s4
  let hit := s5.q.outst.filter (fun c => c.phase = .waiting && c.cmd.cls = 0x07 && c.objs.contains (if tx then k else 256 + k))
  forAll hit (fun c st => st.finish c.cmd.ref stCancelled 0 []) s5

/-- Suspend a stream for the device's state (R309). -/
def State.strmSuspend (s : State) (tx : Bool) (k : Nat) : State :=
  let x := s.strm tx k
  if s.strmState tx k = stOff || x.susp / 4 % 2 = 1 then s
  else
    let s1 := ((s.wr (stSusp tx k) 1).setStrm tx k { x with susp := x.susp + 4 }).flagEvent STRM_STATUS.shed k (b2n tx)
    if s.strmState tx k = stStopping then s1 else s1.strmHalt tx k

/-- Resume what the device's state suspended: under R294 or R296, with its claims. -/
def State.strmResume (s : State) (tx : Bool) (k : Nat) : State :=
  let x := s.strm tx k
  if x.susp / 4 % 2 = 0 then s
  else
    let s1 := (s.wrB (stSusp tx k) (x.susp % 4 != 0)).setStrm tx k { x with susp := x.susp % 4 }
    if s.strmState tx k ≠ stOff then s1
    else match s1.strmClaim tx k with
      | (s2, false) => s2
      | (s2, true) =>
        let s3 := s2.freeChans tx k true
        if tx then ((s3.admitOn k 0 true).admitOn k 1 true).txOpen k else s3.rxOpen k

/-- Streams that the device's state suspends (R309): by level, or all in NIGHTFALL. -/
def State.strmShed (s : State) (level : Nat) (all : Bool) : State :=
  upTo 128 (fun k st =>
    let one (tx : Bool) (u : State) : State :=
      if all || shedClass level (u.rd (stClass tx k)) then u.strmSuspend tx k else u.strmResume tx k
    one false (one true st)) s

/-! ### One stream at a tick -/

/-- The scheduled starts and stops of a stream: at one tick the stop wins (R226). -/
def State.strmActions (s : State) (tx : Bool) (k : Nat) : State :=
  let x := s.strm tx k
  let due (l : List (Word × Option CmdRef)) := l.filter (fun e => !later32 e.1 s.cycle)
  let rest (l : List (Word × Option CmdRef)) := l.filter (fun e => later32 e.1 s.cycle)
  let s1 := s.setStrm tx k { x with starts := rest x.starts, stops := rest x.stops }
  if (due x.stops).isEmpty then forAll (due x.starts) (fun e st => st.strmStart tx k e.2) s1
  else forAll (due x.stops) (fun e st => st.strmStop tx k e.2) (forAll (due x.starts) (fun e st => st.ownerCancel e.2) s1)

/-- A stream that becomes asynchronous or synchronous while it runs is stopped and started at the tick of the change (R289). -/
def State.strmFollow (s : State) (tx : Bool) (k : Nat) : State :=
  let st := s.strmState tx k
  if (st = stRunning || st = stWaiting) && s.needsAsync tx k != s.isSet (stAsync tx k) then
    match (s.strmRelease tx k).strmClaim tx k with
    | (s1, true) => s1.setStrm tx k { s1.strm tx k with resync := some s.cycle }
    | (s1, false) => s1.strmHalt tx k
  else s

/-- What follows a start, a resynchronisation and a stop at later ticks. -/
def State.strmProgress (s : State) (tx : Bool) (k : Nat) : State :=
  let x := s.strm tx k
  let st := s.strmState tx k
  let s1 := if x.owner.isSome && x.startAt ≠ some s.cycle && st ≠ stStopping then
      (s.setStrm tx k { x with owner := none }).ownerDone x.owner
    else s
  let y := s1.strm tx k
  let s2 := match y.resync with
    | some a =>
      if a = s.cycle then s1
      else
        let u := s1.setStrm tx k { y with resync := none }
        if tx then u.txOpen k
        else (u.wr (stState false k) stWaiting).setStrm false k { u.strm false k with ring := [], rampIn := none, got := false }
    | none => s1
  if !tx && st = stStopping && x.stopAt ≠ some s.cycle then s2.strmOff false k else s2

/-- Every stream at a tick, and the words that packets have changed since the last one. -/
def State.netTick (s : State) : State :=
  let s1 := forAll s.net.shadow (fun p st => st.setReg p.1 p.2) s
  let s2 := { s1 with net := { s1.net with shadow := [] } }
  forAll (s2.net.strms.map (fun p => p.1)) (fun i st =>
    let tx := i < 128
    let k := i % 128
    ((st.strmActions tx k).strmFollow tx k).strmProgress tx k) s2

/-! ### Emitting (R293–R295) -/

/-- The gain of a running transmit stream at position p of the present cycle. -/
def State.txGain (s : State) (k p : Nat) : Word :=
  let x := s.strm true k
  if x.stopAt = some s.cycle || x.resync = some s.cycle then rampGain unity 0 s.blk (p + 1)
  else if x.startAt = some s.cycle then rampGain 0 unity s.blk (p + 1)
  else unity

/-- The block just emitted joins a synchronous stream's frames; after a stop the last packet is filled with zeros. -/
def State.txCollect (s : State) (k : Nat) : State :=
  let x := s.strm true k
  let st := s.strmState true k
  let c0 := s.rd (stCh0 true k)
  let n := max 1 (s.pktLen true k)
  if s.isSet (stAsync true k) then
    (if st = stStopping && x.stopAt = some s.cycle then s.setStrm true k { x with tail := true } else s)
  else if st = stRunning || (st = stStopping && x.stopAt = some s.cycle) then
    let frames := (List.range s.blk).map (fun p =>
      (s.cycle, x.ts + BitVec.ofNat 32 p, (List.range (s.chans true k)).map (fun c =>
        scale (SMap.get zeroWord s.eng.emit (smp (c0 + c) p)) (s.txGain k p))))
    let all := x.buf ++ frames
    let fill := if st = stStopping || x.resync = some s.cycle then (n - all.length % n) % n else 0
    let pads := (List.range fill).map (fun i =>
      (s.cycle, x.ts + BitVec.ofNat 32 (s.blk + i), List.replicate (s.chans true k) (0 : Word)))
    s.setStrm true k { x with buf := all ++ pads, ts := x.ts + BitVec.ofNat 32 s.blk, tail := st = stStopping }
  else s

/-- Whether the unit sends a stream's packets (R304, R305, R366). -/
def State.sends (s : State) (k : Nat) : Bool :=
  if s.isSet (stMode true k) then s.leads && (!s.pair.provisional || s.isHome || s.pair.beaconLost)
  else (s.leads || s.astate = 5)

/-- A PCM word in network byte order. -/
def netSample (bytes : Nat) (w : Word) : List Byte := beBytes bytes (w.toNat % 2 ^ (8 * bytes))

/-- The bytes of a packet (R287, R293, R299): RTP header, tag, payload. -/
def State.rtpBytes (s : State) (k : Nat) (ts cyc : Word) (frames : List (List Word)) : List Byte :=
  let seqw := s.reg (STRM_TX_SEQ k)
  let tag := s.isSet (stTag k) && fieldOf (s.reg STRM_TAG) 3 0 ≠ 0 && fieldOf (s.reg STRM_TAG) 3 0 ≠ 15
  let head := beBytes 1 (if tag then 0x90 else 0x80) ++ beBytes 1 (fieldOf seqw 22 16) ++ beBytes 2 (fieldOf seqw 15 0)
    ++ beBytes 4 ts.toNat ++ beBytes 4 (s.reg (STRM_TX_SSRC k)).toNat
  let ext := beBytes 2 0xBEDE ++ beBytes 2 3 ++ beBytes 1 (fieldOf (s.reg STRM_TAG) 3 0 * 16 + 7)
    ++ beBytes 2 (fieldOf (s.reg (STRM_TX_ID k)) 15 0) ++ beBytes 2 (s.rd PAIR_CLAIM.own) ++ beBytes 4 cyc.toNat ++ beBytes 3 0
  head ++ (if tag then ext else []) ++ frames.flatMap (fun f => f.flatMap (netSample (s.sampleBytes true k)))

/-- Draw the samples of an asynchronous packet: the converters' output is a free value. -/
def State.freeFrames (s : State) (chans : Nat) : Nat → State × List (List Word)
  | 0 => (s, [])
  | n + 1 =>
    let (ws, s1) := (List.range chans).foldl (fun (acc : List Word × State) _ =>
      let (w, t) := acc.2.drawFree
      (acc.1 ++ [w], t)) (([] : List Word), s)
    let (s2, rest) := s1.freeFrames chans n
    (s2, ws :: rest)

/-- A packet leaves (R293, R294): the next sequence number and timestamp; each copy on the ports that carry it. -/
def execStreamPacketTransmit (k : Fin 128) (s : State) : Host.Outcome State Fault Refusal :=
  let k := k.val
  let x := s.strm true k
  let st := s.strmState true k
  let n := s.pktLen true k
  let async := s.isSet (stAsync true k)
  if n = 0 || !(st = stRunning || st = stStopping) then .next s
  else if !async && x.buf.length < n then .next s
  else if async && st = stStopping && !x.tail then .next s
  else
    let (s1, frames) := if async then s.freeFrames (s.chans true k) n else (s, (x.buf.take n).map (fun f => f.2.2))
    let head := x.buf.headD (s.cycle, x.ts, [])
    let bytes := s1.rtpBytes k head.2.1 head.1 frames
    let ports := (List.range 2).filter (fun p => s.onPort k p && s.portOn p && x.susp / 2 ^ p % 2 = 0)
    let s2 := s1.setStrm true k 
      { x with buf := x.buf.drop n, ts := if async then x.ts + BitVec.ofNat 32 n else x.ts, tail := x.tail && !async }
    let s3 := s2.wr ⟨STRM_TX_SEQ k, 0, 16⟩ (fieldOf (s.reg (STRM_TX_SEQ k)) 15 0 + 1)
    .next (if s.sends k then s3.send (ports.map (fun p => .stream p k bytes)) else s3.send [])

/-- R295: the last packet has left, and the stream reaches OFF at the next tick. -/
def State.txStopDue (s : State) (k : Nat) (a : Word) : Bool :=
  s.strmState true k = stStopping && (s.strm true k).buf.isEmpty && !((s.isSet (stAsync true k)) && (s.strm true k).tail)
    && (match (s.strm true k).stopAt with | some e => e ≠ a | none => true)

def execStreamTxStopEnd (k : Fin 128) (s : State) : Host.Outcome State Fault Refusal :=
  .next (if s.txStopDue k.val (s.cycle + 1) then s.strmOff true k.val else s)

/-- The transmit streams in use that send L16. -/
def State.l16Streams (s : State) : List Nat :=
  (List.range 128).filter (fun k => s.strmState true k ≠ stOff && s.isSet (stL16 true k))

/-- Whether one of some transmit streams carries a network channel (R57). -/
def State.carries (s : State) (ks : List Nat) (ch : Nat) : Bool :=
  ks.any (fun k => s.rd (stCh0 true k) ≤ ch && ch < s.rd (stCh0 true k) + s.chans true k)

/-! ### Receiving (R296–R302, R308) -/

/-- The leg that a packet matches: enabled, on its port, group and UDP port, of a stream that receives. -/
def State.legOf (s : State) (p : StreamPkt) : Option Nat :=
  (List.range 512).find? (fun l =>
    let c := s.reg (STRM_LEG_CFG l)
    c.getLsbD 31 && fieldOf c 30 30 = b2n p.netb && fieldOf c 15 0 = p.udp.toNat && s.reg (STRM_LEG_GRP l) = p.dst
      && (s.strmState false (l / 4) = stWaiting || s.strmState false (l / 4) = stRunning))

/-- The tag of a packet (R299): none, or a faulty one, or stream ID, claim. -/
def State.pktTag (s : State) (p : StreamPkt) : Option (Option (Nat × BitVec 16)) :=
  let id := fieldOf (s.reg STRM_TAG) 3 0
  if p.twoByte || id = 0 || id = 15 then some none
  else match p.ext.find? (fun e => e.1.toNat = id) with
    | none => some none
    | some e => if e.2.length = 8 then some (some (beNat (e.2.take 2), BitVec.ofNat 16 (beNat ((e.2.drop 2).take 2)))) else none

/-- Counters of a receive stream. -/
def cntLate (k : Nat) : Fld := ⟨STRM_RX_CNT0 k, 16, 16⟩
def cntEarly (k : Nat) : Fld := ⟨STRM_RX_CNT0 k, 0, 16⟩
def cntMissing (k : Nat) : Fld := ⟨STRM_RX_CNT1 k, 16, 16⟩
def cntDup (k : Nat) : Fld := ⟨STRM_RX_CNT1 k, 0, 16⟩
def cntBad (k : Nat) : Fld := ⟨STRM_RX_CNT2 k, 16, 16⟩
def cntRejected (k : Nat) : Fld := ⟨STRM_RX_CNT2 k, 0, 16⟩

def State.badPkt (s : State) : State := s.set1 STRM_STATUS.bad_pkt

/-- The winner of R302 among the heard units: the highest claim. -/
def winnerOf (units : SMap (BitVec 16)) : Option (Nat × BitVec 16) :=
  units.foldl (fun b u => match b with
    | some w => if w.2.toNat < u.2.toNat then some u else some w
    | none => some u) none

/-- RX_STAT shows the winner and the legs that are up. -/
def State.rxStat (s : State) (k : Nat) : State :=
  let s1 := match winnerOf (s.strm false k).units with
    | some w => (s.shWr ⟨STRM_RX_STAT k, 16, 11⟩ w.1).shWr ⟨STRM_RX_STAT k, 15, 1⟩ (b2n (w.2.getLsbD 12))
    | none => (s.shWr ⟨STRM_RX_STAT k, 16, 11⟩ 0).shWr ⟨STRM_RX_STAT k, 15, 1⟩ 0
  s1.shWr ⟨STRM_RX_STAT k, 0, 4⟩ ((List.range 4).foldl (fun a i =>
    a + (if (s1.shReg (STRM_LEG_CFG (4 * k + i))).getLsbD 29 then 2 ^ i else 0)) 0)

/-- Place the samples of an accepted packet (R297). -/
def State.placePkt (s : State) (k : Nat) (p : StreamPkt) : State :=
  let n := s.pktLen false k
  let b := s.sampleBytes false k
  let c := s.chans false k
  let smpl (i ch : Nat) : Word :=
    let v := beNat ((p.payload.drop ((i * c + ch) * b)).take b)
    if b = 2 then fromPcm16 v else fromPcm24 v
  let x := s.strm false k
  let ring := (List.range n).foldl (fun r i =>
    let t := p.ts + BitVec.ofNat 32 i
    SMap.insert (t.toNat % 16384) (t, (List.range c).map (fun ch => smpl i ch)) r) x.ring
  s.setStrm false k { x with ring := if s.isSet (stAsync false k) then [] else ring, seqs := (p.seq :: x.seqs).take 1024, got := true }

/-- A packet that passed R308 and the merge rules: late, early, duplicate, or accepted (R298, R300). -/
def State.mergePkt (s : State) (k l : Nat) (p : StreamPkt) : State :=
  let slack := sval p.slack
  let last := slack + ((s.pktLen false k - 1 : Nat) * 1000000 / s.rate false k : Nat)
  if !s.isSet (stAsync false k) && slack < 20 then (s.set1 STRM_STATUS.late).shBump (cntLate k)
  else if !s.isSet (stAsync false k) && last > 100000 then (s.set1 STRM_STATUS.late).shBump (cntEarly k)
  else if (s.strm false k).seqs.contains p.seq then (s.badPkt).shBump (cntDup k)
  else (s.placePkt k p).shBump ⟨STRM_LEG_STAT l, 0, 16⟩

/-- R302: whether a packet takes part, and the units heard after it. -/
def State.claimPkt (s : State) (k : Nat) (tag : Option (Nat × BitVec 16)) : State × Bool :=
  match tag with
  | none => (s, false)
  | some (sid, claim) =>
    if sid ≠ fieldOf (s.reg (STRM_RX_ID k)) 15 0 then (s, false)
    else
      let x := s.strm false k
      let u := claim.toNat % 2048
      let units := SMap.insert u claim x.units
      let s1 := s.setStrm false k { x with units := units }
      (s1, match winnerOf units with
        | some w => w.1 = u || (claim.getLsbD 12 && w.2.getLsbD 12)
        | none => true)

/-- R300: a stream packet arrives. -/
def State.rxPacket (s : State) (p : StreamPkt) : State :=
  let port := b2n p.netb
  if !s.portOn port then s
  else if !p.fcsOk then ((s.bump ⟨NET_CNT_FCS port, 0, 32⟩ 1).set1 (NET_STATUS.fcs port)).badPkt
  else if !p.buffer then (s.bump ⟨NET_CNT_OVF port, 0, 32⟩ 1).badPkt
  else match s.legOf p with
    | none => (s.bump ⟨NET_CNT_OVF port, 0, 32⟩ 1).badPkt
    | some l =>
      let k := l / 4
      let bad (st : State) : State := st.badPkt.shBump (cntBad k)
      if !p.ipOk then bad s
      else if s.reg (STRM_LEG_SRC l) ≠ 0 && s.reg (STRM_LEG_SRC l) ≠ p.src then s
      else if !p.udpOk || p.version.val ≠ 2 || p.pt.toNat ≠ fieldOf (s.reg (STRM_RX_OFS k)) 22 16
          || p.payload.length ≠ s.chans false k * s.pktLen false k * s.sampleBytes false k then bad s
      else match s.pktTag p with
        | none => bad s
        | some tag =>
          let s1 := (s.shWr ⟨STRM_LEG_CFG l, 29, 1⟩ 1)
          let s2 := match tag with
            | some t => s1.shWr ⟨STRM_LEG_STAT l, 16, 16⟩ t.2.toNat
            | none => s1
          if s.isSet (stMode false k) then
            match s2.claimPkt k tag with
            | (s3, true) => (s3.mergePkt k l p).rxStat k
            | (s3, false) => (s3.badPkt.shBump (cntRejected k)).rxStat k
          else (s2.mergePkt k l p).rxStat k

def execStreamPacketReceived (p : StreamPkt) (s : State) : Host.Outcome State Fault Refusal := .next (s.rxPacket p)

/-- R296: 100 ms without an accepted packet. -/
def execStreamRxTimeout (k : Fin 128) (s : State) : Host.Outcome State Fault Refusal :=
  .next (if s.strmState false k.val = stRunning then
    (s.shWr (stState false k.val) stWaiting).setStrm false k.val { s.strm false k.val with got := false, rampIn := none }
  else s)

/-- R302: a unit stops being heard. -/
def execStreamUnitUnheard (k : Fin 128) (u : BitVec 11) (s : State) : Host.Outcome State Fault Refusal :=
  let x := s.strm false k.val
  .next ((s.setStrm false k.val { x with units := SMap.erase u.toNat x.units }).rxStat k.val)

/-- R300: a leg goes down. -/
def execLegDown (l : Fin 512) (s : State) : Host.Outcome State Fault Refusal :=
  .next (if (s.shReg (STRM_LEG_CFG l.val)).getLsbD 29 then
    ((s.shWr ⟨STRM_LEG_CFG l.val, 29, 1⟩ 0).flagEvent STRM_STATUS.leg_down l.val 0).rxStat (l.val / 4)
  else s)

/-- The block that a receive stream captured in the cycle that ends (R296–R298), as (source index, position, word), and the stream
after it. Samples with no accepted packet are zeros; each packet time of them counts as missing. -/
def State.rxBlock (s : State) (k : Nat) : State × List (Nat × Nat × Word) :=
  let x := s.strm false k
  let st := s.strmState false k
  let n := s.pktLen false k
  let c0 := s.rd (stCh0 false k)
  let base := mediaTimeAt s.oldDtime (s.rate false k) + s.reg (STRM_RX_MOFS k) - BitVec.ofNat 32 (fieldOf (s.reg (STRM_RX_OFS k)) 10 0 + n)
  let at' (p : Nat) : Option (List Word) :=
    let t := base + BitVec.ofNat 32 p
    match SMap.find x.ring (t.toNat % 16384) with
    | some (u, ws) => if u = t then some ws else none
    | none => none
  let live := st = stRunning || st = stWaiting || (st = stStopping && x.stopAt = some s.cycle)
  if !live || s.isSet (stAsync false k) then (s, [])
  else
    let found := (List.range s.blk).any (fun p => (at' p).isSome)
    let opens := st = stWaiting && found
    let gain (p : Nat) : Word :=
      if x.stopAt = some s.cycle || x.resync = some s.cycle then rampGain unity 0 s.blk (p + 1)
      else if opens then rampGain 0 unity s.blk (p + 1) else unity
    let words := if st = stWaiting && !found then [] else
      (List.range s.blk).flatMap (fun p => match at' p with
        | some ws => (List.range (s.chans false k)).map (fun c => (c0 + c, p, scale (ws.getD c 0) (gain p)))
        | none => [])
    let gone := (List.range s.blk).filter (fun p => (at' p).isNone && (base + BitVec.ofNat 32 p).toNat % max 1 n = 0)
    let ring := x.ring.filter (fun e => later32 e.2.1 (base + BitVec.ofNat 32 (s.blk - 1)))
    let s1 := s.setStrm false k { x with ring := ring, rampIn := if opens then some s.cycle else x.rampIn }
    let s2 := if opens then s1.shWr (stState false k) stRunning else s1
    let s3 := if st = stRunning && !gone.isEmpty then
        (upTo gone.length (fun _ u => u.shBump (cntMissing k)) s2).set1 STRM_STATUS.missing
      else s2
    (s3, words)

/-- An asynchronous receive stream's gain on what its converters deliver, and its opening. -/
def State.rxAsyncGain (s : State) (k p : Nat) : Word :=
  let x := s.strm false k
  let st := s.strmState false k
  if x.stopAt = some s.cycle || x.resync = some s.cycle then rampGain unity 0 s.blk (p + 1)
  else if st = stWaiting then (if x.got then rampGain 0 unity s.blk (p + 1) else 0)
  else if st = stRunning then unity else 0

/-- An asynchronous stream in WAITING whose converters have been fed enters RUNNING. -/
def State.rxAsyncOpen (s : State) (k : Nat) : State :=
  if s.isSet (stAsync false k) && s.strmState false k = stWaiting && (s.strm false k).got then s.shWr (stState false k) stRunning else s

/-- The receive streams in use. -/
def State.rxInUse (s : State) : List Nat := (List.range 128).filter (fun k => s.strmState false k ≠ stOff)

/-- The one of some receive streams that delivers a network source, if any. -/
def State.rxOf (s : State) (ks : List Nat) (ch : Nat) : Option Nat :=
  ks.find? (fun k => s.rd (stCh0 false k) ≤ ch && ch < s.rd (stCh0 false k) + s.chans false k)

/-! ### Links (R292) -/

/-- The transmit streams on a port in the order in which a downgrade suspends them: ascending class, then the highest number. -/
def State.downOrder (s : State) (p : Nat) : List Nat :=
  (List.range 8).flatMap (fun c => (List.range 128).reverse.filter (fun k =>
    s.strmState true k ≠ stOff && s.onPort k p && (s.strm true k).susp / 2 ^ p % 2 = 0 && s.rd (stClass true k) = c))

/-- Suspend one stream's copy on a port; a stream left without a port stops under R295. -/
def State.portSuspend (s : State) (k p : Nat) : State :=
  let x := s.strm true k
  let s1 := ((s.wr (stSusp true k) 1).setStrm true k { x with susp := x.susp + 2 ^ p }).admitOn k p false
  let s2 := (s1.flagEvent (NET_STATUS.shed p) k 0).flagEvent STRM_STATUS.shed k 1
  let s3 := { s2 with net := { s2.net with downs := (k, p) :: s2.net.downs } }
  let alone := s.onPort k (1 - p) = false || x.susp / 2 ^ (1 - p) % 2 = 1
  if alone && s.strmState true k = stRunning then s3.strmHalt true k else s3

/-- Suspend until the sum of a port fits its limit. -/
def State.portFit (s : State) (p : Nat) : List Nat → State
  | [] => s
  | k :: ks => if (s.reg (NET_ADMIT p)).toNat ≤ 90000 then s else (s.portSuspend k p).portFit p ks

/-- Resume what a downgrade of a port suspended, in the reverse order (R292). -/
def State.portResume (s : State) (p : Nat) : State :=
  let mine := s.net.downs.filter (fun e => e.2 = p)
  let s0 := { s with net := { s.net with downs := s.net.downs.filter (fun e => e.2 != p), back := s.net.back.filter (fun q => q != p) } }
  forAll mine (fun e st =>
    let x := st.strm true e.1
    let susp := x.susp - 2 ^ p
    let st1 := ((st.wrB (stSusp true e.1) (susp != 0)).setStrm true e.1 { x with susp := susp })
    if st.strmState true e.1 = stOff && susp = 0 then
      match st1.strmClaim true e.1 with
      | (st2, true) => ((st2.freeChans true e.1 true).admitOn e.1 0 true).admitOn e.1 1 true |>.txOpen e.1
      | (st2, false) => st2
    else st1.admitOn e.1 p true) s0

/-- The PHY latencies of a speed (R314). -/
def State.phyWords (s : State) (p link : Nat) : State :=
  if link = 1 then (s.wr (PTP_PHY.ingress p) 1216).wr (PTP_PHY.egress p) 560
  else if link = 2 then (s.wr (PTP_PHY.ingress p) 312).wr (PTP_PHY.egress p) 184 else s

/-- A port's link changes: 0 down, 1 100BASE-TX, 2 1000BASE-T. -/
def State.linkChange (s : State) (p link : Nat) : State :=
  let old := s.rd (NET_STATUS.link p)
  if old = link then s
  else
    let s1 := ((s.wr (NET_STATUS.link p) link).flagEvent (NET_STATUS.link_chg p) p link).phyWords p link
    let s2 := if old = 0 then (s1.setReg (NET_CNT_FCS p) 0).setReg (NET_CNT_OVF p) 0 else s1
    if link = 1 then s2.portFit p (s2.downOrder p)
    else if link = 2 then { s2 with net := { s2.net with back := p :: s2.net.back } } else s2

def execLinkSpeedChange (netb : Bool) (link : Fin 3) (s : State) : Host.Outcome State Fault Refusal :=
  .next (s.linkChange (b2n netb) link.val)

/-- Streams to resume at this tick after a return to 1000BASE-T. -/
def State.linkTick (s : State) : State := forAll s.net.back (fun p st => st.portResume p) s

/-! ### Membership and discovery (R305–R307) -/

/-- The memberships of a port. -/
def State.members (s : State) (p : Nat) : List (Word × Word) :=
  (List.range 512).filterMap (fun l =>
    if (s.reg (STRM_LEG_CFG l)).getLsbD 31 && s.legPort l = p
        && (s.strmState false (l / 4) ≠ stOff || (s.strm false (l / 4)).susp ≠ 0) then
      some (s.reg (STRM_LEG_GRP l), s.reg (STRM_LEG_SRC l)) else none)

def execIgmpQueryReceived (netb v2 : Bool) (s : State) : Host.Outcome State Fault Refusal :=
  let p := b2n netb
  let ports := (s.net.v2.filter (fun q => q != p)) ++ (if v2 then [p] else [])
  let s1 := { s with net := { s.net with v2 := ports } }
  .next (s1.send (if s.portOn p then (s.members p).map (fun m => .igmp p v2 false m.1 m.2) else []))

/-- R306: the reports of a join or leave go out a second time. -/
def execIgmpReportRepeat (s : State) : Host.Outcome State Fault Refusal :=
  let s1 := s.send ((s.net.repeats.filter (fun e => s.portOn e.1)).map (fun e => .igmp e.1 (s.net.v2.contains e.1) e.2.1 e.2.2.1 e.2.2.2))
  .next { s1 with net := { s1.net with repeats := [] } }

/-- R305: an ARP request for the unit's own address, or for the pair address while it is the winner. -/
def execArpRequestReceived (netb : Bool) (ip : Word) (s : State) : Host.Outcome State Fault Refusal :=
  let p := b2n netb
  let own := s.reg (NET_IP p) = ip && ip ≠ 0
  let pair := s.reg (NET_PAIR_IP p) = ip && ip ≠ 0 && s.leads
  .next (s.send (if s.portOn p && (own || pair) then [.arp p ip] else []))

/-- R307: the announcement of a stream with sap set; announcements pause while the command processor is stopped. -/
def execSapAnnounce (k : Fin 128) (s : State) : Host.Outcome State Fault Refusal :=
  let go := s.isSet (stSap k.val) && s.strmState true k.val ≠ stOff && !s.flt.cpStopped
  .next (s.send (if go then ((List.range 2).filter (fun p => s.onPort k.val p && s.portOn p)).map (fun p => .sap p k.val false) else []))

/-- R307: a received announcement is cached, replaces the one of its origin and text, or is deleted. -/
def execSapAnnounceReceived (origin : Word) (text : List Byte) (delete : Bool) (s : State) : Host.Outcome State Fault Refusal :=
  if s.flt.cpStopped then .next s
  else
    let keep := s.net.sap.filter (fun e => !(e.origin = origin && e.text = text))
    let l := if delete then keep else if keep.length < 256 then keep ++ [⟨origin, text⟩] else keep
    .next { s with net := { s.net with sap := l } }

def execSapEntryAgeOut (i : Fin 256) (s : State) : Host.Outcome State Fault Refusal :=
  .next { s with net := { s.net with sap := s.net.sap.eraseIdx i.val } }

end Sys2Proof.Machine
end

