-- ==== Sys2Proof/Machine/Clk.lean ====
section
/-! DEFINITION. Clock gating (R332, R333) and the check of Afterglow (R331). -/

namespace Sys2Proof.Machine

/-- Whether the block behind gate bit k is in use (R333). -/
def State.gateInUse (s : State) (k : Nat) : Bool :=
  if k < 4 then s.clusterUsed k
  else if k = 4 then (List.range 40).any (fun n => s.decState n ≠ decStopped)
  else if k = 5 then (List.range 512).any (fun c => s.isSet (ASRC_CH.used c))
  else if k = 6 then (List.range 16).any (fun n => s.spState n ≠ spStopped)
  else if k = 7 then
    (List.range 128).any (fun i => s.strmState true i ≠ stOff && s.onPort i 1)
      || (List.range 512).any (fun l => (s.reg (STRM_LEG_CFG l)).getLsbD 31 && s.legPort l = 1 && s.strmState false (l / 4) ≠ stOff)
      || (s.isSet PTP_CFG.en && s.rd PTP_CFG.ports / 2 = 1)
  else if k = 8 then (List.range 32).any (fun z => s.isSet (VIS_CFG.en z))
  else false

/-- Set or clear bit k of a gate field. -/
def State.gateSet (s : State) (f : Fld) (k : Nat) (on : Bool) : State :=
  let v := s.rd f
  s.wr f (if v / 2 ^ k % 2 = 1 then (if on then v else v - 2 ^ k) else (if on then v + 2 ^ k else v))

/-- The gate of bit k opens. -/
def State.gateOpen (s : State) (k : Nat) : State :=
  ((s.gateSet CLK_GATE_REQ.req k false).gateSet CLK_GATE_STAT.pend k false).gateSet CLK_GATE_STAT.closed k false

/-- The gate of bit k closes. -/
def State.gateClose (s : State) (k : Nat) : State :=
  ((s.gateSet CLK_GATE_REQ.req k true).gateSet CLK_GATE_STAT.pend k false).gateSet CLK_GATE_STAT.closed k true

/-- The masters and targets of gated blocks: a cluster's DMA; its locked sequence ends (R332). -/
def State.gateBursts (s : State) (k : Nat) : State :=
  if k < 4 then { s with bus := { s.bus with lock := s.bus.lock.filter (fun l => l.2 % 32 != 5 + k) } } else s

/-- R332, R333: a write of CLK_GATE_REQ. A request for a block in use is refused; clearing a bit opens its gate. -/
def execClkGateReqWrite (master : Master) (req : BitVec 10) (s : State) : Host.Outcome State Fault Refusal :=
  .next (if s.pairLocked master then
      (if req.toNat = s.rd CLK_GATE_REQ.req then s else s.refuseWrite CLK_STATUS.wr_refused master)
    else upTo 10 (fun k st =>
      let was := st.rd CLK_GATE_REQ.req / 2 ^ k % 2 = 1
      let want := req.getLsbD k
      if want && !was then
        (if st.gateInUse k then st.flagEvent CLK_STATUS.gate_refused k 0
         else (st.gateSet CLK_GATE_REQ.req k true).gateSet CLK_GATE_STAT.pend k true)
      else if !want && was then st.gateOpen k else st) s)

def State.gatePending (s : State) (k : Nat) : Bool := s.rd CLK_GATE_STAT.pend / 2 ^ k % 2 = 1

def execGateQuiescent (k : Fin 10) (s : State) : Host.Outcome State Fault Refusal :=
  .next (if s.gatePending k.val then s.gateClose k.val else s)

def execGateQuiesceTimeout (k : Fin 10) (s : State) : Host.Outcome State Fault Refusal :=
  .next (if s.gatePending k.val then ((s.gateBursts k.val).gateClose k.val).flagEvent CLK_STATUS.gate_forced k.val 0 else s)

/-- R331: Afterglow is out of range. -/
def execAfterglowOutOfRange (khz : BitVec 13) (s : State) : Host.Outcome State Fault Refusal :=
  .next (((s.wr CLK_AFTERGLOW.khz khz.toNat).flagEvent CLK_STATUS.ag_fail 0 khz.toNat).raiseCond 10 0)

def execAfterglowBackInRange (khz : BitVec 13) (s : State) : Host.Outcome State Fault Refusal :=
  .next ((s.wr CLK_AFTERGLOW.khz khz.toNat).clearCond 10 0)

end Sys2Proof.Machine
end

