-- ==== Sys2Proof/Machine/Msg.lean ====
section
/-! DEFINITION. The message store, chains and players (R257–R271) and the background scan (R260). -/

namespace Sys2Proof.Machine

/-! ### The store -/

def msgDefault : Nat → MsgEntry := fun _ => ⟨false, false, false, false, false, 0xFFFF, 0, 0, 0, []⟩

def State.msgEntry (s : State) (m : Nat) : MsgEntry := SMap.get msgDefault s.msg.dir m

def State.setMsg (s : State) (m : Nat) (x : MsgEntry) : State :=
  { s with msg := { s.msg with dir := SMap.set msgDefault s.msg.dir m x } }

def State.chainOf (s : State) (c : Nat) : List ChainStep := SMap.get (fun _ => ([] : List ChainStep)) s.msg.chains c

/-- Step i of a chain; beyond the stored steps it is END (R261). -/
def State.chainStep (s : State) (c i : Nat) : ChainStep := (s.chainOf c).getD i ⟨0, 0, 0, 0⟩

/-- Whether a message can be played. -/
def State.msgPlayable (s : State) (m : Nat) : Bool :=
  m < 8192 && (s.msgEntry m).valid && !(s.msgEntry m).bad && !(s.msgEntry m).writing

/-- The message that a MESSAGE step plays: the named one, else its fallback (R264); the fallback's own fallback is never followed. -/
def State.msgToPlay (s : State) (m : Nat) : Option Nat :=
  if s.msgPlayable m then some m
  else if s.msgPlayable (s.msgEntry m).fallback then some (s.msgEntry m).fallback
  else none

/-- Bytes of a message's pinned head (R259). -/
def MsgEntry.headBytes (x : MsgEntry) : Nat := if x.alarm then 3 * min x.length (if x.rate96 then 192000 else 96000) else 0

/-- Bytes that all pinned heads take; MSG_PIN.kib shows them in KiB (the rounding is open, notes/assumptions/74.md). -/
def State.pinnedBytes (s : State) : Nat := s.msg.dir.foldl (fun n p => n + p.2.headBytes) 0

def State.pinSync (s : State) : State := s.wr MSG_PIN.kib (openDiv (s.pinnedBytes : Int) 1024).toNat

/-- Bytes of all alarm messages (R260) and of all messages. -/
def State.alarmBytes (s : State) : Nat := s.msg.dir.foldl (fun n p => n + (if p.2.alarm then 3 * p.2.length else 0)) 0
def State.storeBytes (s : State) : Nat := s.msg.dir.foldl (fun n p => n + 3 * p.2.length) 0

/-- The conditions of R542 that a BAD alarm message gives (R260): 11 with a valid fallback, 14 without. -/
def State.msgConds (s : State) (m : Nat) : State :=
  let x := s.msgEntry m
  let s1 := (s.clearCond 11 m).clearCond 14 m
  if x.bad && x.alarm then
    (if s.msgPlayable x.fallback then s1.raiseCond 11 m else s1.raiseCond 14 m)
  else s1

/-- After a change of one message: its own conditions and those of every alarm message that falls back to it. -/
def State.msgChanged (s : State) (m : Nat) : State :=
  let dep := (s.msg.dir.filter (fun p => p.2.fallback = m && p.1 != m)).map (fun p => p.1)
  (forAll dep (fun k st => st.msgConds k) (s.msgConds m)).pinSync

/-! ### Chain checks (R262, R263) -/

/-- The steps of a chain up to its first END. -/
def State.liveSteps (s : State) (c : Nat) : List (Nat × ChainStep) :=
  ((List.range 16).map (fun i => (i, s.chainStep c i))).takeWhile (fun p => p.2.kind != 0)

/-- Whether a start of the chain passes R262 and R263. -/
def State.chainOk (s : State) (c : Nat) : Bool :=
  !(s.liveSteps c).isEmpty && (s.liveSteps c).all (fun p =>
    if p.2.kind = 1 then (s.msgToPlay p.2.arg).isSome && !((s.msgEntry p.2.arg).rate96 && s.fi = 48000)
    else if p.2.kind = 3 then p.2.arg < p.1
    else true)

/-- Samples of a period given in ms (R262). -/
def State.msSamples (s : State) (ms : Nat) : Nat := ms * s.fi / 1000

/-- Whether a 48 kHz message passes the 2× interpolator (R262). -/
def State.doubled (s : State) (m : Nat) : Bool := !(s.msgEntry m).rate96 && s.fi = 96000

/-- Samples of a play. -/
def State.playLen (s : State) (m : Nat) : Nat := (s.msgEntry m).length * (if s.doubled m then 2 else 1)

/-- Whether the first sample of a chain comes at once (R266): a pinned head counts once it is loaded (R441). -/
def State.startsAtOnce (s : State) (c : Nat) : Bool :=
  let st := s.chainStep c 0
  st.kind = 2 || (st.kind = 1 && match s.msgToPlay st.arg with
    | some m => (s.msgEntry m).alarm && m ∈ s.boot.heads
    | none => false)

/-! ### Players -/

def playerDefault : Nat → Player := fun _ => ⟨none, none, false, []⟩

def State.player (s : State) (p : Nat) : Player := SMap.get playerDefault s.msg.players p

def State.setPlayer (s : State) (p : Nat) (x : Player) : State :=
  { s with msg := { s.msg with players := SMap.set playerDefault s.msg.players p x } }

/-- The state code of a player (R265). -/
def Player.code (x : Player) : Nat :=
  if x.ending.isSome then 3 else match x.run with
    | none => 0
    | some r => if r.begun then 2 else 1

/-- Bring a player's registers and the count of IDLE players in line with it. -/
def State.playSync (s : State) (p : Nat) : State :=
  let x := s.player p
  let r := match x.run with
    | some r => some r
    | none => x.ending
  let s1 := (s.wr (MSG_STATE.state p) x.code)
  let s2 := match r with
    | some r =>
      let a := ((((s1.wr (MSG_STATE.class p) r.cls).wrB (MSG_STATE.trig p) r.trig.isSome).wr (MSG_STATE.step p) r.step).wr
        (MSG_STATE.chain p) r.chain)
      ((a.wr (MSG_POS.sample p) r.pos).wr (MSG_MSG.rep p) r.plays).wr (MSG_MSG.msg p) r.msg
    | none =>
      let a := ((((s1.wr (MSG_STATE.class p) 0).wr (MSG_STATE.trig p) 0).wr (MSG_STATE.step p) 0).wr (MSG_STATE.chain p) 0)
      ((a.wr (MSG_POS.sample p) 0).wr (MSG_MSG.rep p) 0).wr (MSG_MSG.msg p) 0
  s2.wr MSG_STATUS.free (64 - (s2.msg.players.filter (fun q => q.2.code != 0)).length)

/-- Stop a player at tick A (R265, R270): a playing chain ramps out, one in WAIT ends without audio; its start gets its final status. -/
def State.playStop (s : State) (p status : Nat) : State :=
  let x := s.player p
  match x.run with
  | none => s
  | some r =>
    let s1 := s.setPlayer p { x with run := none, ending := if r.begun then some r else x.ending, starved := false }
    let s2 := match r.owner with
      | some o => s1.finish o status 0 []
      | none => s1
    s2.playSync p

/-- The decision of R268 for a start at class `cls`: the player and the class preempted on it, or a status and detail. -/
def State.playPick (s : State) (who : Option Nat) (cls : Nat) : Except (Nat × Nat) (Nat × Option Nat) :=
  let runOf (p : Nat) : Option PlayRun := (s.player p).run
  if shedClass s.level cls then .error (stShed, 0)
  else match who with
    | some p => match runOf p with
      | none => .ok (p, none)
      | some r => if r.cls < cls then .ok (p, some r.cls) else .error (stBusy, 0)
    | none =>
      match (List.range 64).find? (fun p => (runOf p).isNone) with
      | some p => .ok (p, none)
      | none =>
        let best := (List.range 64).foldl (fun (b : Option (Nat × PlayRun)) p =>
          match runOf p, b with
          | some r, none => if r.cls < cls then some (p, r) else none
          | some r, some (q, t) =>
            if r.cls < t.cls || (r.cls = t.cls && r.ord ≥ t.ord) then some (p, r) else some (q, t)
          | none, b => b) none
        match best with
        | some (p, r) => .ok (p, some r.cls)
        | none => .error (stCapacity, 3)

/-- A start commits on a player at tick A (R265, R266, R268): a running chain is preempted. -/
def State.playBegin (s : State) (p chain cls : Nat) (trig : Option Nat) (owner : Option CmdRef) (a : Word) : State :=
  let s0 := if (s.player p).run.isSome then (s.playStop p stPreempted).flagEvent MSG_STATUS.preempted p 0 else s
  let late := if s0.startsAtOnce chain then 1 else (s.fi / 50 + s.blk - 1) / s.blk
  let r : PlayRun := ⟨chain, cls, trig, owner, a + BitVec.ofNat 32 late, s.msg.starts, false, 0, .enter, 0, 0, 0, 0, []⟩
  let x := s0.player p
  let s1 := s0.setPlayer p { x with run := some r, starved := false }
  let s2 := { s1 with msg := { s1.msg with starts := s1.msg.starts + 1 } }
  ((s2.wr (MSG_CNT.underrun p) 0).wr (MSG_STATE.step_bad p) 0).playSync p

/-- A start was refused or shed. -/
def State.playRefused (s : State) (p : Nat) : State := s.flagEvent MSG_STATUS.refused p 0

/-- One sample of a message: 24-bit little-endian PCM (R257); the interpolator's output (R262) is a free value. -/
def State.msgSample (s : State) (m pos : Nat) : State × Word :=
  if s.doubled m then
    let (w, s1) := s.drawFree
    (s1, wordOf (signedOf 24 (w.toNat % 2 ^ 24) * 16))
  else
    let d := (s.msgEntry m).data
    let b (i : Nat) : Nat := (SMap.get flashErased d (3 * pos + i)).toNat
    (s, fromPcm24 (b 0 + 256 * b 1 + 65536 * b 2))

/-- One advance of a chain whose present segment is used up (R261, R262, R264). -/
def State.playAdvance (s : State) (p : Nat) (r : PlayRun) : State × PlayRun :=
  let st := s.chainStep r.chain r.step
  let next : PlayRun := { r with step := r.step + 1, seg := .enter, left := 0 }
  let again : PlayRun := { r with seg := .play, left := s.playLen r.msg, pos := 0 }
  match r.seg with
  | .overs => (s, r)
  | .play => (s, { r with seg := .gap, left := s.msSamples st.gap })
  | .gap =>
    if st.rep = 0 then (s, again)
    else if r.plays ≤ 1 then (s, next)
    else (s, { again with plays := r.plays - 1 })
  | .silence => (s, next)
  | .enter =>
    if r.step ≥ 16 then (s, { r with seg := .overs })
    else if st.kind = 1 then
      match s.msgToPlay st.arg with
      | some m => (s, { r with seg := .play, msg := m, left := s.playLen m, pos := 0, plays := st.rep })
      | none =>
        ((s.set1 (MSG_STATE.step_bad p)).event 0x4001 (BitVec.ofNat 32 p) (BitVec.ofNat 32 (r.step * 65536 + st.arg)), next)
    else if st.kind = 2 then (s, { r with seg := .silence, left := s.msSamples st.arg })
    else if st.kind = 3 then
      let done := SMap.get (fun _ => 0) r.jumps r.step
      if st.rep = 0 || done < st.rep then
        (s, { r with step := st.arg, seg := .enter, left := 0, jumps := SMap.set (fun _ => 0) r.jumps r.step (done + 1) })
      else (s, next)
    else (s, { r with seg := .overs })

/-- Advance until a segment has samples or the chain is over; a chain that only jumps yields none after 64 advances
(notes/assumptions/4.md). -/
def State.playSettle (s : State) (p : Nat) : Nat → PlayRun → State × PlayRun
  | 0, r => (s, r)
  | f + 1, r =>
    if r.left > 0 || r.seg = .overs then (s, r)
    else
      let (s1, r1) := s.playAdvance p r
      s1.playSettle p f r1

/-- The next n samples of a chain. -/
def State.playGen (s : State) (p : Nat) : Nat → PlayRun → List Word → State × PlayRun × List Word
  | 0, r, acc => (s, r, acc)
  | n + 1, r, acc =>
    let (s1, r1) := s.playSettle p 64 r
    if r1.left = 0 then s1.playGen p n r1 (acc ++ [0])
    else
      let r2 := { r1 with left := r1.left - 1, pos := if r1.seg = .play then r1.pos + 1 else r1.pos }
      if r1.seg = .play then
        let (s2, w) := s1.msgSample r1.msg r1.pos
        s2.playGen p n r2 (acc ++ [w])
      else s1.playGen p n r2 (acc ++ [0])

/-- Whether a player's chain delivers samples in the present block. -/
def PlayRun.live (r : PlayRun) (j : Word) : Bool := r.begun && !later32 r.firstAt j

/-- A chain that is over leaves its player IDLE and its start completes DONE (R270). -/
def State.playOver (s : State) (p : Nat) : State :=
  let x := s.player p
  match x.run with
  | none => s
  | some r =>
    if r.seg = .overs then
      let s1 := s.setPlayer p { x with run := none }
      let s2 := match r.owner with
        | some o => s1.finish o stDone 0 []
        | none => s1
      s2.playSync p
    else s

/-- A player's block of the cycle that ends (R262, R265, R267): the player delivers the samples of its chain, ramped out in ENDING, and
leaves ENDING. -/
def State.playBlock (s : State) (p : Nat) : State × List Word :=
  let x := s.player p
  let j := s.cycle
  let want := s.blk - x.part.length
  match x.ending, x.run with
  | some r, _ =>
    let (s1, _, ws) := s.playGen p s.blk r []
    let out := (List.range s.blk).map (fun i => scale (ws.getD i 0) (rampGain unity 0 s.blk (i + 1)))
    ((s1.setPlayer p { x with ending := none, part := [], starved := false }).playSync p, out)
  | none, some r =>
    if x.starved then ((s.setPlayer p { x with part := [], starved := false }), List.replicate s.blk 0)
    else if r.live j then
      let (s1, r1, ws) := s.playGen p want r x.part
      let (s2, r2) := s1.playSettle p 64 r1
      let s3 := s2.setPlayer p { x with run := some r2, part := [], starved := false }
      ((s3.playSync p).playOver p, ws)
    else (s.setPlayer p { x with part := [], starved := false }, List.replicate s.blk 0)
  | none, none => (s.setPlayer p { x with part := [], starved := false }, x.part ++ List.replicate want 0)

/-- Whether the first sample of a WAIT player falls in the block of cycle `a`. -/
def State.playFirstDue (s : State) (p : Nat) (a : Word) : Bool :=
  match (s.player p).run with
  | some r => !r.begun && !later32 r.firstAt a
  | none => false

/-- A WAIT player enters PLAYING. -/
def State.playFirst (s : State) (p : Nat) : State :=
  let x := s.player p
  match x.run with
  | some r =>
    let (s1, r1) := s.playSettle p 64 { r with begun := true }
    ((s1.setPlayer p { x with run := some r1 }).playSync p).playOver p
  | none => s

def execPlayerFirstSample (p : Fin 64) (s : State) : Res :=
  .next (if s.playFirstDue p.val (s.cycle + 1) then s.playFirst p.val else s)

/-- A play, silence or gap ends within the block of the cycle that runs: its last samples are delivered and the chain moves on. -/
def execChainStepAdvance (p : Fin 64) (s : State) : Res :=
  let x := s.player p.val
  match x.run with
  | none => .next s
  | some r =>
    if r.live s.cycle && !x.starved && x.ending.isNone && r.left ≤ s.blk - x.part.length then
      let (s1, r1, ws) := s.playGen p.val r.left r x.part
      let (s2, r2) := s1.playAdvance p.val r1
      .next ((s2.setPlayer p.val { x with run := some r2, part := ws }).playOver p.val)
    else .next s

/-- R267: the block's samples are not in DRAM: zeros, the position is held. -/
def execPlayerUnderrun (p : Fin 64) (s : State) : Res :=
  let x := s.player p.val
  match x.run with
  | none => .next s
  | some r =>
    if r.live s.cycle && !x.starved && x.part.isEmpty then
      .next (((s.setPlayer p.val { x with starved := true }).bump (MSG_CNT.underrun p.val) 1).flagEvent MSG_STATUS.underrun p.val 0)
    else .next s

/-- First samples that fall due at tick `a`. -/
def State.playDue (s : State) (a : Word) : State :=
  forAll (s.msg.players.map (fun q => q.1)) (fun p st => if st.playFirstDue p a then st.playFirst p else st) s

/-- Stop every running player whose class is shed at a level (R270, R499). -/
def State.playShed (s : State) (level : Nat) : State :=
  forAll (s.msg.players.map (fun q => q.1)) (fun p st =>
    match (st.player p).run with
    | some r => if shedClass level r.cls then st.playStop p stShed else st
    | none => st) s

/-- The start that a trigger makes at its assertion tick A (R98). -/
def State.playTrig (s : State) (t player chain cls : Nat) (a : Word) : State :=
  let refused (st : State) : State := (st.flagEvent OVR_STATUS.act_refused t player).playRefused player
  if !s.chainOk chain then refused s
  else match s.playPick (some player) cls with
    | .ok _ => s.playBegin player chain cls (some t) none a
    | .error _ => refused s

/-- The stop that a trigger makes at its release (R99): only where its own start still runs. -/
def State.playTrigStop (s : State) (t player : Nat) : State :=
  match (s.player player).run with
  | some r => if r.trig = some t then s.playStop player stAborted else s
  | none => s

/-! ### Writes and the scan -/

/-- Whether a message is being played or named by a chain that a running player executes (R258). -/
def State.msgInUse (s : State) (m : Nat) : Bool :=
  s.msg.players.any (fun q => match q.2.run with
    | some r => r.msg = m && r.seg = .play || (s.liveSteps r.chain).any (fun p => p.2.kind = 1 && p.2.arg = m)
    | none => false)

/-- Whether a running player executes a chain. -/
def State.chainInUse (s : State) (c : Nat) : Bool :=
  s.msg.players.any (fun q => match q.2.run with
    | some r => r.chain = c
    | none => false)

/-- R260: the scan has verified one item; a failing head is reloaded, a failing copy rewritten, failing data makes the message BAD. -/
def execScanVerify (item : ScanItem) (ok : Bool) (s : State) : Res :=
  match item with
  | .head m =>
    let s1 := s.wr MSG_SCAN.msg m.val
    .next (if ok then s1 else s1.eventFree m.val 0)
  | .table chains copy => .next (if ok then s else s.eventFree (b2n chains) copy.val)
  | .data m =>
    let s1 := s.wr MSG_SCAN.msg m.val
    let x := s1.msgEntry m.val
    if ok || !x.valid || x.bad then .next s1
    else .next (((s1.setMsg m.val { x with bad := true }).flagEvent MSG_STATUS.msg_bad m.val 0).msgChanged m.val)

/-- R260: the round ends and the next begins with its alarm phase. -/
def execScanPhaseEnd (s : State) : Res := .next (s.wrapInc MSG_SCAN.rounds 1)

end Sys2Proof.Machine
end

