-- ==== Sys2Proof/Machine/Plane.lean ====
section
/-! DEFINITION. What the override plane does at its ticks and when it is armed and committed (R91–R112). Triggers, ramps and
commits fall due at the next tick; each row takes effect for that tick, once it is due. -/

namespace Sys2Proof.Machine

/-! ### Assertion and release (R93, R94, R96, R98, R99) -/

/-- The columns a trigger's group covers. -/
def State.groupCols (s : State) (t : Nat) : List Nat := (List.range 1024).filter (fun m => s.covers t m)

/-- Commit the PLAY_STOP commands due at tick `a`: at one tick stops commit before starts (R265). -/
def State.commitStops (s : State) (a : Word) : State :=
  forAll (s.q.outst.filter (fun o => o.cmd.op = 0x0703 && o.phase = .waiting && !later32 o.apply a)) (fun o st =>
    (forAll o.objs (fun p x => x.playStop p stAborted) st).finish o.cmd.ref stDone 0 []) s

/-- A trigger asserts at tick `a`. -/
def State.trigAssert (s : State) (t : Nat) (a : Word) : State :=
  let x := s.trig t
  let s1 := (s.setTrig t { x with asserted := true, since := a, sched := x.sched.drop 1 }).commitStops a
  let s2 := if s1.tPlayEn t then s1.playTrig t (s1.tPlayer t) (s1.tChain t) (s1.tClass t) a else s1
  let s3 := if s2.tGenEn t then
      (s2.wr (GEN_CFG.en (s2.tGen t)) 1).setTrig t { s2.trig t with genOn := true }
    else s2
  forAll (s3.groupCols t) (fun m st => st.resolveCol a m) s3

/-- A trigger lets its columns go at tick `a`. -/
def State.trigLetGo (s : State) (t : Nat) (a : Word) : State :=
  let x := s.trig t
  let s1 := s.setTrig t { x with asserted := false }
  forAll (s1.groupCols t) (fun m st => st.resolveCol a m) s1

/-- A trigger releases at tick `a`, with its action (R99). -/
def State.trigRelease (s : State) (t : Nat) (a : Word) : State :=
  let x := s.trig t
  let s1 := s.setTrig t { x with sched := x.sched.drop 1, genOn := false }
  let s2 := if s1.tRelStop t && s1.tPlayEn t then s1.playTrigStop t (s1.tPlayer t) else s1
  let s3 := if s2.tRelStop t && s2.tGenEn t && x.genOn then s2.wr (GEN_CFG.en (s2.tGen t)) 0 else s2
  s3.trigLetGo t a

def execTriggerAssertion (t : Fin 64) (s : State) : Res :=
  .next (if s.trigDue t.val true then s.trigAssert t.val (s.cycle + 1) else s)

def execTriggerRelease (t : Fin 64) (s : State) : Res :=
  .next (if s.trigDue t.val false then s.trigRelease t.val (s.cycle + 1) else s)

/-- Every change of the plane due at the next tick: releases first, since they stop players, then assertions in the order of R95. -/
def State.planeDue (s : State) : State :=
  let a := s.cycle + 1
  let s1 := upTo 64 (fun t st => if st.trigDue t false then st.trigRelease t a else st) s
  let due := (List.range 64).filter (fun t => s1.trigDue t true)
  let byClass := (List.range 8).reverse.flatMap (fun c => due.filter (fun t => s1.tClass t = c))
  forAll byClass (fun t st => st.trigAssert t a) s1

/-! ### Suspension (R102) -/

/-- At tick `a` the triggers of shed classes are suspended, and those no longer shed assert again at the tick after. -/
def State.suspendSync (s : State) (a : Word) (level : Nat) : State :=
  upTo 64 (fun t st =>
    let x := st.trig t
    let shed := shedClass level (st.tClass t)
    if shed && !x.suspended then
      (st.setTrig t { x with suspended := true, wanted := false, sched := [] }).trigLetGo t a
    else if !shed && x.suspended then
      let want := x.anyFlag && st.tEnable t
      st.setTrig t { x with suspended := false, wanted := want, sched := if want then [(a + 1, true)] else [] }
    else st) s

/-! ### Ends of ramps (R97, R100) -/

def execOvrForceRampEnd (m : Fin 1024) (s : State) : Res :=
  .next (if s.forceRampOver m.val then s.forceRampEnd m.val else s)

def execOvrReleaseRampEnd (m : Fin 1024) (s : State) : Res :=
  .next (if s.releaseRampOver m.val then s.releaseRampEnd m.val else s)

/-- Every ramp of the plane that has applied its last sample. -/
def State.planeRamps (s : State) : State :=
  forAll (s.ovr.cols.map (fun p => p.1)) (fun m st =>
    if st.forceRampOver m then st.forceRampEnd m
    else if st.releaseRampOver m then st.releaseRampEnd m else st) s

/-! ### Checks of the live table (R106, R107) -/

/-- The resource number of the plane's table memory in a BANK test (notes/assumptions/13.md). -/
def ovrBank : Nat := 6 * 8192

/-- The check of both copies: which of them fails is the sender's to say. -/
def execOvrCrcCheck (bad1 bad2 : Bool) (s : State) : Res :=
  .next (if bad1 && bad2 then (s.flagEvent OVR_STATUS.both_bad 0 0).raiseCond 13 0
  else if bad1 || bad2 then (s.flagEvent OVR_STATUS.repaired 0 (b2n bad2)).startTest .bank ovrBank
  else s)

/-! ### Arming (R109, R112) -/

/-- A key reaches the plane: its outcome is armed, or a key failure, or nothing while arming is blocked. -/
def State.armKey (s : State) (key : BitVec 16) : State :=
  if s.isSet OVR_STATUS.key_lockout then s
  else if key = 0xA1A5 then (if s.isSet OVR_STATUS.commit_pend then s else s.arm)
  else s.keyFail

/-- A write of OVR_ARM. In a synced pair it is locked toward the host bridge. -/
def execOvrArmWrite (master : Master) (key : BitVec 16) (s : State) : Res :=
  .next (if s.pairLocked master then s.wpEvent master OVR_ARM else s.armKey key)

def execOvrArmExpiry (s : State) : Res :=
  .next (if s.isSet OVR_STATUS.armed && !s.isSet OVR_STATUS.commit_pend then (s.flagEvent OVR_STATUS.expired 0 0).disarm else s)

def execOvrKeyLockoutEnd (s : State) : Res := .next (s.wr OVR_STATUS.key_lockout 0)

/-! ### Committing (R110, R111) -/

/-- A write of OVR_COMMIT (R110): not checked while a commit waits, which is logged; without an arm it changes nothing. -/
def execOvrCommitWrite (master : Master) (resp : BitVec 16) (s : State) : Res :=
  .next (if s.pairLocked master then s.wpEvent master OVR_COMMIT
  else if s.isSet OVR_STATUS.commit_pend then s.wpEvent master OVR_COMMIT
  else if !s.isSet OVR_STATUS.armed then s
  else match s.commitCheck resp (s.reg OVR_CRC) with
    | .pass => s.commitPend (s.actionCycle (s.reg OVR_COMMIT_APPLY)) none
    | c => s.commitFail c)

/-- The cin flags against the new table (R111). -/
def State.cinReload (s : State) (a : Word) : State :=
  upTo 64 (fun t st =>
    let x := st.trig t
    let cin := if !st.tCinEn t || !st.tEnable t then (if st.tCinEn t then x.cin else false)
      else st.cinFlag t (st.rd (SUP_CIN_STAT.state (st.tCin t))) x.cin
    let y := { x with cin := cin }
    let want := y.anyFlag && st.tEnable t && !x.suspended
    if y = x && want = x.wanted then st
    else if !st.tEnable t then st.setTrig t { y with asserted := false, wanted := false, sched := [] }
    else if want = x.wanted then st.setTrig t y
    else st.setTrig t { y with wanted := want, sched := x.sched ++ [(a + (if st.synced then 2 else 1), want)] }) s

/-- Whether the target gains of a column differ between two states. -/
def targetsDiffer (s t : State) (m : Nat) : Bool :=
  (s.liveInputs m ++ t.liveInputs m).any (fun n => s.forceTarget m n != t.forceTarget m n)

/-- A passed commit takes effect at tick `a` (R111): the table, OVR_GEN, the flags, the columns; the plane disarms; the table goes to
flash (R108); a bad pair of copies is good again (R107). -/
def State.takeCommit (s : State) (a : Word) : State :=
  let held := s.planeCols
  let s1 := s.copyTable
  let s2 := (((s1.wrapInc OVR_GEN.count 1).disarm).wr OVR_STATUS.commit_pend 0).clearCond 13 0
  let s3 := { s2 with ovr := { s2.ovr with commitAt := none, commitBy := none, storeLeft := 2 } }
  let s4 := (s3.flashEnqueue ⟨2, 4, .ovrCopy⟩).flashEnqueue ⟨2, 4, .ovrCopy⟩
  let s5 := s4.cinReload a
  let s6 := forAll held (fun m st =>
    let st1 := st.resolveCol a m
    let o := st1.ocol m
    if (s.ocol m).holder.isSome && (s.ocol m).holder = o.holder && targetsDiffer s st1 m then
      let len := match o.holder with
        | some t => st1.tLen t
        | none => o.len
      st1.setOcol m { o with start := a, len := len, fromG := s.rampFrom a m }
    else st1) s5
  let s7 := s6.resolve a
  match s.ovr.commitBy with
  | some r => s7.finish r stDone 0 (bytesOfWords [s7.reg OVR_GEN, s7.reg OVR_LIVE_CRC])
  | none => s7

/-- Whether a passed commit is due at tick `a`. -/
def State.commitDue (s : State) (a : Word) : Bool :=
  match s.ovr.commitAt with
  | some x => !later32 x a
  | none => false

def execOvrCommitTakeEffect (s : State) : Res :=
  .next (if s.commitDue (s.cycle + 1) then s.takeCommit (s.cycle + 1) else s)

end Sys2Proof.Machine
end

