-- ==== Sys2Proof/Machine/Pair.lean ====
section
/-! DEFINITION. The twin pair: claims, the Ceiling bus, the beacon, handover and shared outputs (15_twin_claims_and_outputs.md,
R347–R369). PAIR words change only at ticks: what an event shows is held in `words` until the next tick.

Rows whose moment is a tick (PARTNER_SILENCE, HANDOVER_TICK) take effect for the next tick, once they are due. -/

namespace Sys2Proof.Machine

/-! ### PAIR words -/

/-- A PAIR word as the next tick shows it. -/
def State.pairReg (s : State) (a : Nat) : Word := (SMap.find s.pair.words a).getD (s.reg a)

/-- A field of it. -/
def State.pairRd (s : State) (f : Fld) : Nat := getFld f (s.pairReg f.addr)

/-- Change a field; the next tick shows it. -/
def State.pairWr (s : State) (f : Fld) (v : Nat) : State :=
  { s with pair := { s.pair with words := SMap.insert f.addr (putFld f (s.pairReg f.addr) v) s.pair.words } }

/-- Count in a PAIR counter that stops at its greatest value. -/
def State.pairBump (s : State) (f : Fld) : State := s.pairWr f (min (2 ^ f.width - 1) (s.pairRd f + 1))

/-- The status bits that wait for the next tick, kept under the address of PAIR_STATUS. -/
def State.pairFlags (s : State) : Word := (SMap.find s.pair.words PAIR_STATUS).getD 0

/-- Set a status bit; the next tick shows it. -/
def State.pairFlag (s : State) (f : Fld) : State :=
  { s with pair := { s.pair with words := SMap.insert PAIR_STATUS (putFld f s.pairFlags 1) s.pair.words } }

/-- At a tick the words show (status bits are added). -/
def State.pairFlush (s : State) : State :=
  let s1 := forAll s.pair.words (fun p st =>
    st.setReg p.1 (if p.1 = PAIR_STATUS then st.reg PAIR_STATUS ||| p.2 else p.2)) s
  { s1 with pair := { s1.pair with words := [] } }

/-- An event whose parameters R491 does not spell out where `none` stands: a free value. -/
def State.eventP (s : State) (code : Nat) (p0 p1 : Option Nat) : State :=
  let (w0, s1) := match p0 with | some v => (BitVec.ofNat 32 v, s) | none => s.drawFree
  let (w1, s2) := match p1 with | some v => (BitVec.ofNat 32 v, s1) | none => s1.drawFree
  s2.event code w0 w1

/-- A status bit without an event of its own name: the next tick shows it, the event is logged now (R491). -/
def State.pairEvent (s : State) (f : Fld) (detail : Nat) : State :=
  (s.pairFlag f).event (0x0780 + f.lo) 0 (BitVec.ofNat 32 detail)

/-- Set the attach state (R370); SYS_STATE shows it too. -/
def State.setAstate (s : State) (a : Nat) : State := (s.wr PAIR_STATUS.astate a).wr SYS_STATE.attach a

/-- Whether the unit is in lockstep (R370). -/
def State.inLockstep (s : State) : Bool := s.twin && (s.astate = 3 || s.astate = 5)

/-- Whether the mirror link is up (R372). -/
def State.linkUp (s : State) : Bool := s.pairRd PAIR_LINK.state = 2

/-! ### The claim (R349–R352) -/

/-- The claim as formed at a tick (R349). -/
def State.formClaim (s : State) : BitVec 16 :=
  let g0 := s.rd SYS_STATE.grade
  let g := if s.pair.yielding || s.pair.demoted then 0 else if s.pair.reinit.isSome then min g0 1 else g0
  let syn := s.astate = 4 || s.astate = 5
  let home := s.isHome && !s.pair.withheld
  BitVec.ofNat 16 (g * 0x2000 + b2n syn * 0x1000 + b2n home * 0x800 + b2n (s.rd SYS_STATE.unit = 0) * 0x400
    + (s.reg SYS_SERIAL_LO).toNat % 1024)

/-- The own claim of this engine cycle. -/
def State.ownClaim (s : State) : BitVec 16 := BitVec.ofNat 16 (s.rd PAIR_CLAIM.own)

/-- The partner's current claim (R351): the latest one received on a path whose heartbeat is not lost. -/
def State.partnerClaim (s : State) : Option (BitVec 16) := s.pair.claims.head?.map (·.2)

/-- The grade that a claim shows. -/
def claimGrade (c : BitVec 16) : Nat := c.toNat / 0x2000

/-- Whether the unit is the winner (R350). -/
def State.isWinner (s : State) : Bool :=
  claimGrade s.ownClaim != 0 && (match s.partnerClaim with
    | none => true
    | some c => decide (c.toNat < s.ownClaim.toNat))

/-- When the order of the claims no longer fits the role, the roles change at the second tick from now (R352). -/
def State.orderCheck (s : State) : State :=
  if !s.twin then s
  else
    let w := s.isWinner
    let leads := s.astate = 4
    let role := if w = decide leads then none
      else match s.pair.role with
        | some (h, w1) => if w1 = w then some (h, w1) else some (s.cycle + 2, w)
        | none => some (s.cycle + 2, w)
    { s with pair := { s.pair with role := role } }

/-- A claim arrives on a live path. -/
def State.hearClaim (s : State) (path : Nat) (c : BitVec 16) : State :=
  ({ s with pair := { s.pair with claims := (path, c) :: s.pair.claims.filter (fun p => p.1 != path) } }).orderCheck

/-- A path's heartbeat is lost: its claim is no longer current. -/
def State.dropPath (s : State) (path : Nat) : State :=
  ({ s with pair := { s.pair with claims := s.pair.claims.filter (fun p => p.1 != path) } }).orderCheck

/-- A frame or beacon with the unit's own unit bit (R351). -/
def State.strapConflict (s : State) : State :=
  if s.pair.conflict then s
  else ({ s with pair := { s.pair with conflict := true } }).eventP 0x0708 none none

/-- Whether a claim carries the own unit bit. -/
def State.ownUnit (s : State) (c : BitVec 16) : Bool := (c.getLsbD 10) = decide (s.rd SYS_STATE.unit = 0)

/-! ### Attach states that a role change or a failure brings (R371) -/

/-- Commands that wait for their apply cycle complete CANCELLED. -/
def State.cancelPending (s : State) : State :=
  forAll (s.q.outst.filter (fun o => o.phase = .waiting)) (fun o st => st.finish o.cmd.ref stCancelled 0 []) s

/-- Engine cycles in a number of seconds. -/
def State.cyclesOfS (s : State) (n : Nat) : Nat := n * s.fi / s.blk

/-- The cycles of a list that lie within the last `n` seconds. -/
def State.recent (s : State) (n : Nat) (l : List Word) : List Word := l.filter (fun c => since s.cycle c < s.cyclesOfS n)

/-- The unit leaves lockstep for DETACHED-WARM (R375). -/
def State.leaveLockstep (s : State) : State :=
  { s.setAstate 6 with pair := { s.pair with taken := [], mis := none } }

/-- An attempt to attach fails (R382): the unit goes to DETACHED and begins again at step 2; the third failure within 60 s ends it. -/
def State.attachFail (s : State) : State :=
  let fails := s.recent 60 (s.cycle :: s.pair.fails)
  let s1 := { s.setAstate 1 with pair := { s.pair with fails := fails, takeCycle := false } }
  let s2 := s1.pairWr PAIR_ATTACH.attempts fails.length
  if fails.length ≥ 3 then
    let s3 := { s2 with pair := { s2.pair with attach := none, attachCmd := none } }
    let s4 := s3.pairEvent PAIR_STATUS.attach_fail 0
    match s.pair.attachCmd with
    | some r => s4.finish r stFault 0 []
    | none => s4
  else { s2 with pair := { s2.pair with attach := some ⟨false, none, 0⟩ } }

/-- The unit becomes the winner (R322, R362, R365, R366, R383): from lockstep its time continues the mirrored DTIME. -/
def State.takeLead (s : State) : State :=
  let alone := s.partnerClaim.isNone
  let was := s.astate
  let keep := if was = 5 then s.pair.taken ++ (List.range 8).map (fun n => SharedOut.aout (Fin.ofNat 8 n)) else s.pair.taken
  let s1 := s.setAstate 4
  let locked := was = 3 || was = 5
  let s2 := { s1 with
    ptp := { s1.ptp with dtime := if locked then s.pair.mdtime else s1.ptp.dtime }
    pair := { s1.pair with
      role := none
      provisional := alone
      free := !alone && was = 5
      taken := keep
      withheld := false
      attach := none } }
  let arps : List NetFrame := (List.range 2).filterMap (fun p =>
    if s2.portOn p && s2.reg (NET_PAIR_IP p) ≠ 0 then some (.arp p (s2.reg (NET_PAIR_IP p))) else none)
  let s3 := { s2 with net := { s2.net with sent := s2.net.sent ++ arps } }
  (s3.pairFlag PAIR_STATUS.lead_chg).eventP 0x0702 none (some s3.ownClaim.toNat)

/-- The unit stops being the winner at tick `a` (R371, R380, R385, R431). -/
def State.giveLead (s : State) (a : Word) : State :=
  let locked := s.pair.pstate = 3 || s.pair.pstate = 5
  let next := if s.pair.demoted then 1 else if locked then (if s.isHome then 3 else 5) else 6
  let s1 := s.setAstate next
  let s2 := { s1 with
    pair := { s1.pair with
      role := none
      provisional := false
      free := false
      taken := []
      withheld := s.isHome
      yielding := false
      demoted := false
      yieldBy := none
      lostAt := some a
      syncedAt := if next = 3 then a else s1.pair.syncedAt } }
  let s3 := (s2.pairFlag PAIR_STATUS.lead_chg).eventP 0x0702 none (some s2.ownClaim.toNat)
  match s.pair.yieldBy with
  | some r => s3.finish r stDone 0 []
  | none => s3

/-- The role change that is due at tick `a` (R352). -/
def State.roleDue (s : State) (a : Word) : State :=
  match s.pair.role with
  | some (h, w) =>
    if later32 h a then s
    else if w then s.takeLead
    else if s.astate = 4 then s.giveLead a
    else { s with pair := { s.pair with role := none } }
  | none => s

def execHandoverTick (s : State) : Res := .next (if s.twin then s.roleDue (s.cycle + 1) else s)

/-! ### The Ceiling bus (R353–R357) -/

/-- CRC-8 of a string of bits, first bit first. -/
def crc8Bits (bits : List Bool) : Byte :=
  BitVec.ofNat 8 (bits.foldl (fun c b =>
    let top := (c / 128 + b2n b) % 2
    (c * 2 % 256) ^^^ (if top = 1 then 7 else 0)) 0)

/-- The bits of a vector, most significant first. -/
def msbBits {n : Nat} (v : BitVec n) : List Bool := (List.range n).map (fun i => v.getLsbD (n - 1 - i))

/-- The CRC of a frame (R354). -/
def frameCrc (claim : BitVec 16) (stat : BitVec 4) (trig : BitVec 8) : Byte :=
  crc8Bits (msbBits claim ++ msbBits stat ++ msbBits trig)

/-- The claim-bus role of the attach state (R370). -/
def busRole (astate : Nat) : Nat :=
  match astate with
  | 2 => 3 | 3 => 2 | 4 => 1 | 5 => 2 | _ => 0

/-- The attach state that a frame's role and synced bit show; DETACHED stands for every detached state. -/
def stateOfBus (stat : BitVec 4) (claim : BitVec 16) : Nat :=
  match stat.toNat / 2 % 4 with
  | 1 => 4
  | 2 => if claim.getLsbD 12 then 5 else 3
  | 3 => 2
  | _ => 1

/-- A unit's own request for a trigger (R377): its cin and ring0 flags. -/
def State.ownRequest (s : State) (t : Nat) : Bool := let x := s.trig t; x.cin || x.ring0

/-- Queue the changes of the own requests, oldest first (R357). -/
def State.queueTwin (s : State) : State :=
  upTo 64 (fun t st =>
    let on := st.ownRequest t
    if on = decide (t ∈ st.pair.asked) then st
    else { st with
      pair := { st.pair with
        asked := if on then t :: st.pair.asked else st.pair.asked.filter (· != t)
        twinOut := st.pair.twinOut ++ [(t, on)] } }) s

/-- The TRIG field of this tick's frame and the changes that remain (R357). -/
def State.trigField (s : State) : BitVec 8 × List (Nat × Bool) :=
  match s.pair.twinOut with
  | (t, on) :: rest => (BitVec.ofNat 8 (128 + b2n on * 64 + t), rest)
  | [] =>
    let t := s.cycle.toNat % 64
    (BitVec.ofNat 8 (b2n (s.ownRequest t) * 64 + t), [])

/-- At each tick a frame starts on both lines; one that has not ended is abandoned (R355). Synced requests travel in CMD (R92). -/
def State.busTick (s : State) : State :=
  let s0 := s.queueTwin
  let left := s0.pair.abandoned + s0.pair.lostArb.length
  let stat := BitVec.ofNat 4 (b2n s0.pair.rel * 8 + busRole s0.astate * 2)
  let recs := if s0.synced then s0.pair.twinOut.map (fun p => LinkRec.twin (Fin.ofNat 64 p.1) p.2) else []
  let s1 := if s0.synced then { s0 with pair := { s0.pair with twinOut := [], link := s0.pair.link ++ recs } } else s0
  let (trig, rest) := s1.trigField
  let f : BusFrame := ⟨s1.ownClaim, stat, trig⟩
  { s1 with
    pair := { s1.pair with
      frames := [(0, f), (1, f)]
      lostArb := []
      abandoned := left
      twinOut := rest
      rel := s1.astate ≠ 4 && s1.pair.taken.isEmpty } }

/-- A frame arrives (R354–R357). A higher claim of the partner wins the arbitration of this cycle's frame. -/
def execCeilingFrameReceived (f : CeilFrame) (s : State) : Res :=
  .next (
    if !s.twin || f.eof || frameCrc f.claim f.stat f.trig ≠ f.crc then s
    else if s.ownUnit f.claim then s.strapConflict
    else
      let lost := f.claim.toNat > s.ownClaim.toNat && f.line.val ∉ s.pair.lostArb
      let s1 := { s with
        pair := { s.pair with
          conflict := false
          lostArb := if lost then f.line.val :: s.pair.lostArb else s.pair.lostArb
          free := s.pair.free || (s.astate = 4 && f.stat.getLsbD 3)
          pstate := if s.linkUp then s.pair.pstate else stateOfBus f.stat f.claim } }
      let s2 := if s1.pair.busLost then s1 else s1.hearClaim 0 f.claim
      s2.twinRequest (f.trig.toNat % 64) (f.trig.getLsbD 6))

/-- R355: the unit sends its frame again on a line where it lost arbitration. -/
def execCeilingFrameRetry (line : Fin 2) (s : State) : Res :=
  .next (if s.twin && line.val ∈ s.pair.lostArb then
      { s with pair := { s.pair with lostArb := s.pair.lostArb.filter (· != line.val) } }
    else s)

/-- Whether the silence of R359 begins: the bus lost and the link not up. -/
def State.silentNow (s : State) : Bool := s.twin && s.pair.busLost && !s.linkUp && !s.pair.silent

/-- R359, R360, R366: the partner is silent at tick `a`; its claim stops being current, and the winner's tick follows. -/
def State.silence (s : State) (a : Word) : State :=
  let s1 := { s with pair := { s.pair with silent := true, claims := [], pstate := 0 } }
  let s2 := if s.pair.beaconLost then s1.eventP 0x0707 (some 0) (some 0) else s1.eventP 0x0706 (some 0) (some 0)
  let s3 := s2.orderCheck
  match s3.pair.role with
  | some (_, true) => { s3 with pair := { s3.pair with role := some (a + 1, true) } }
  | _ => s3

def execPartnerSilence (s : State) : Res := .next (if s.silentNow then s.silence (s.cycle + 1) else s)

/-- R356, R359: a line's heartbeat is lost; with both, the bus is lost. -/
def execPairLineLost (line : Fin 2) (s : State) : Res :=
  .next (
    if !s.twin || line.val ∈ s.pair.linesLost then s
    else
      let s1 := { s with pair := { s.pair with linesLost := line.val :: s.pair.linesLost } }
      let s2 := (s1.eventP 0x0704 (some line.val) (some 0)).raiseCond 4 line.val
      if s2.pair.linesLost.length < 2 then s2
      else
        let s3 := { s2 with pair := { s2.pair with busLost := true } }
        ((s3.eventP 0x0705 (some 0) (some 0)).raiseCond 8 0).dropPath 0)

/-- A path returns: the silence ends and beacon claims no longer count (R351, R360). -/
def State.pathBack (s : State) : State := ({ s with pair := { s.pair with silent := false } }).dropPath 2

/-- R356: a line recovers. -/
def execPairLineRecover (line : Fin 2) (s : State) : Res :=
  .next (
    if !s.twin || line.val ∉ s.pair.linesLost then s
    else
      let s1 := ({ s with pair := { s.pair with linesLost := s.pair.linesLost.filter (· != line.val) } }).clearCond 4 line.val
      if s1.pair.busLost then
        (({ s1 with pair := { s1.pair with busLost := false } }).clearCond 8 0).pathBack
      else s1)

/-! ### The beacon (R358, R360) -/

/-- Bytes 0x00–0x17 of a beacon. -/
def State.beaconBody (s : State) (seq : Nat) : List Byte :=
  leBytes 4 0x4250584C ++ leBytes 1 1
    ++ leBytes 1 (b2n (s.rd SYS_STATE.unit = 0) + 2 * b2n s.pair.silent)
    ++ leBytes 2 seq ++ leBytes 2 s.ownClaim.toNat ++ leBytes 2 s.astate
    ++ leBytes 4 s.cycle.toNat ++ leBytes 8 s.ptp.dtime.toNat

/-- The tag of a beacon: the first 16 bytes of the HMAC (R358). -/
def State.beaconTag (s : State) (body : List Byte) : List Byte :=
  authTag s.sec.mkey body

def execBeaconSend (netb : Bool) (s : State) : Res :=
  let p := b2n netb
  .next (
    if !s.twin || !s.portOn p then s
    else
      let body := s.beaconBody s.pair.beaconOut
      let s1 := s.send [.beacon p (body ++ s.beaconTag body)]
      { s1 with pair := { s1.pair with beaconOut := (s.pair.beaconOut + 1) % 65536 } })

/-- `gap`: no beacon came for 1 s before this one (R358). -/
def execBeaconReceived (_netb : Bool) (bytes : List Byte) (gap : Bool) (s : State) : Res :=
  let body := bytes.take 24
  let seq : BitVec 16 := BitVec.ofNat 16 (leNat ((bytes.drop 6).take 2))
  let fresh := gap || (match s.pair.beaconSeq with
    | some q => later16 seq q
    | none => true)
  let good := bytes.length = 40 && leNat (bytes.take 4) = 0x4250584C && leNat ((bytes.drop 4).take 1) = 1
    && bytes.drop 24 = s.beaconTag body && fresh
  let claim : BitVec 16 := BitVec.ofNat 16 (leNat ((bytes.drop 8).take 2))
  .next (
    if !s.twin then s
    else if !good then { s with pair := { s.pair with beaconDrops := s.pair.beaconDrops + 1 } }
    else
      let s1 := { s with pair := { s.pair with beaconSeq := some seq, beaconLost := false } }
      if s1.ownUnit claim then s1.strapConflict
      else if s1.pair.silent then
        ({ s1 with pair := { s1.pair with pstate := leNat ((bytes.drop 10).take 2) % 8 } }).hearClaim 2 claim
      else s1)

/-- R358, R359, R360: 35 ms without an accepted beacon. -/
def execBeaconHeartbeatLost (s : State) : Res :=
  .next (
    if !s.twin || s.pair.beaconLost then s
    else
      let s1 := ({ s with pair := { s.pair with beaconLost := true } }).dropPath 2
      if s1.pair.silent then s1.eventP 0x0707 (some 0) (some 0) else s1)

/-! ### Shared outputs (R361–R366) -/

/-- R361, R365, R366: a probe answers; an output that shows no driver is taken by the winner. An analog probe between the limits
(`none`) is repeated. -/
def execDriveSenseProbe (out : SharedOut) (driver : Option Bool) (s : State) : Res :=
  .next (if s.twin && s.astate = 4 && driver = some false && out ∉ s.pair.taken then
      { s with pair := { s.pair with taken := out :: s.pair.taken } }
    else s)

/-- The number of a shared output in an event is not given: a free value. R363: a synced standby takes a pin. -/
def execDriveTaken (out : SharedOut) (s : State) : Res :=
  .next (if s.synced && s.astate = 5 && out ∉ s.pair.taken then
      ({ s with pair := { s.pair with taken := out :: s.pair.taken } }).eventP 0x0709 none (some 0)
    else s)

/-- R364 on the driving unit; on a synced standby the same four frames are a DRIVE mismatch (R363, R378). -/
def execDriveConflict (out : SharedOut) (s : State) : Res :=
  .next (
    if !s.twin then s
    else if s.drivesPin out then (s.eventP 0x070A none (some 0)).raiseCond 9 0
    else if s.synced && s.astate = 5 then { s with pair := { s.pair with drvDiff := true } }
    else s)

/-! ### Power-cycling the twin (R368, R369) -/

/-- Whether the unit may pulse TWPC_OUT at a host's command: it is the winner and its grade is at least 3. -/
def State.mayPulse (s : State) : Bool := s.twin && s.isWinner && s.rd SYS_STATE.grade ≥ 3

/-- The pulses of the last `n` seconds. -/
def State.pulsesIn (s : State) (n : Nat) : List (Word × Bool) := s.pair.pulses.filter (fun p => since s.cycle p.1 < s.cyclesOfS n)

/-- TWPC_OUT is driven low for 50 ms. -/
def State.pulse (s : State) (auto : Bool) : State :=
  ({ s with pair := { s.pair with pulses := (s.cycle, auto) :: s.pulsesIn 3600 } }).eventP 0x070B none (some 50)

/-- An automatic pulse after the wedge time: at most 3 in an hour, none within 60 s of the previous one. -/
def execTwpcAutoPulse (s : State) : Res :=
  let wedged := s.pair.silent || (match s.partnerClaim with
    | some c => decide (claimGrade c = 1)
    | none => false)
  .next (if s.mayPulse && wedged && ((s.pulsesIn 3600).filter (fun p => p.2)).length < 3 && (s.pulsesIn 60).isEmpty then s.pulse true
    else s)

/-- R369: the hold signal lapses. -/
def execTwpcHoldLapse (s : State) : Res := .next { s with pair := { s.pair with hold := false } }

/-! ### The tick -/

/-- Hold is refreshed at every tick (R369). -/
def State.holdNow (s : State) : Bool := s.isWinner && s.partnerClaim.isSome

/-- At a tick the claim is formed and the words of R349–R351, R370 show; the order is checked and the frames start. -/
def State.claimTick (s : State) : State :=
  let s1 := (s.wr PAIR_CLAIM.own s.formClaim.toNat).wr PAIR_CLAIM.partner (match s.partnerClaim with
    | some c => c.toNat
    | none => 0)
  let both := (s1.astate = 4 && s1.pair.pstate = 5) || (s1.astate = 5 && s1.pair.pstate = 4)
  let s2 := (s1.wrB PAIR_STATUS.partner s1.partnerClaim.isSome).wrB PAIR_STATUS.synced_pair both
  let s3 := s2.orderCheck.busTick
  { s3 with pair := { s3.pair with hold := s3.holdNow } }

end Sys2Proof.Machine
end

