-- ==== Sys2Proof/Machine/Link.lean ====
section
/-! DEFINITION. The mirror link, lockstep, comparison, decision and attach (16_twin_lockstep.md, R370–R386).

Attach states change only at ticks: a row whose moment is a tick takes effect for the next tick, once it is due. -/

namespace Sys2Proof.Machine

/-! ### The link (R372, R373) -/

/-- Lanes that carry traffic and are not fenced (R474). -/
def State.goodLanes (s : State) (lanes : BitVec 4) : List Nat :=
  (List.range 4).filter (fun n => lanes.getLsbD n && (TestKind.link, n) ∉ s.flt.fenced)

/-- The lanes the link needs: 3, or lane 0 alone in NIGHTFALL. -/
def State.lanesNeeded (s : State) : Nat := if s.op = .nightfall then 1 else 3

/-- The lanes lock: a down link enters training. -/
def execSundogLanesLock (lanes : BitVec 4) (latency : BitVec 16) (s : State) : Res :=
  let good := s.goodLanes lanes
  .next (if !s.twin || s.pairRd PAIR_LINK.state ≠ 0 || good.length < s.lanesNeeded then s
    else ((s.pairWr PAIR_LINK.state 1).pairWr PAIR_LINK.lanes (good.foldl (fun n i => n + 2 ^ i) 0)).pairWr
      PAIR_LINK.latency latency.toNat)

/-- The link is up: the partner can be heard again, and the TWIN reference is present. -/
def execSundogLinkUp (s : State) : Res :=
  .next (if !s.twin || s.pairRd PAIR_LINK.state ≠ 1 then s
    else
      let s1 := (s.pairWr PAIR_LINK.state 2).refPresence 6 true
      if s1.pair.silent then s1.pathBack else s1)

/-- The link goes down: the mirror path's claim is lost, the lanes are tested, the next tick ends lockstep. -/
def State.linkFalls (s : State) : State :=
  let s1 := ((s.pairWr PAIR_LINK.state 0).pairWr PAIR_LINK.lanes 0).pairFlag PAIR_STATUS.link_down
  let s2 := s1.eventP 0x0703 (some 0) (some 0)
  let s3 := (forAll (s2.goodLanes 15) (fun n st => st.startTest .link n) s2).refPresence 6 false
  s3.dropPath 1

def execLinkDown (s : State) : Res := .next (if !s.twin || s.pairRd PAIR_LINK.state = 0 then s else s.linkFalls)

/-- A negative acknowledgement resends a block. -/
def execSundogAck (ok : Bool) (s : State) : Res := .next (if ok || !s.twin then s else s.pairBump PAIR_LINKCNT.resent)

/-! ### The mirror list (R374, R375) -/

/-- Channels a listed source counts for: a decimation channel whose output rate is not Fi counts as ceil(f_out / Fi). -/
def State.mirrorCount (s : State) (v : Nat) : Nat :=
  let n := v % 4096
  if v / 4096 = 4 && n < 40 then
    let num := s.decFmod n * 2 ^ 28
    let den := s.rd (DEC_STEP.step n) * s.fi * (4 * s.decR n)
    if den = 0 then 1 else max 1 ((num + den - 1) / den)
  else 1

/-- The mirror list: patched sources, microphones, every player, the decimation channels that monitors read, ascending. -/
def State.mirrorList (s : State) : List Nat :=
  let patched := (List.range 1024).filterMap (fun k =>
    let e := s.ent k
    if e.connected && e.sel ≠ 0 && e.sel / 4096 ≠ 7 then some e.sel else none)
  let mics := (List.range 32).filterMap (fun z => if s.isSet (VIS_CFG.en z) then some (s.rd (VIS_MIC.source z)) else none)
  let mons := (List.range 32).flatMap (fun m =>
    if s.isSet (SUP_LS_CFG.en m) then [0x4000 + s.rd (SUP_LS_CFG.vch m), 0x4000 + s.rd (SUP_LS_CFG.ich m)] else [])
  let all := patched ++ mics ++ (List.range 64).map (0x5000 + ·) ++ mons
  (List.range 32768).filter (fun v => decide (v ≠ 0) && decide (v ∈ all))

/-- Channels of the mirror list (PAIR_MIRROR). -/
def State.mirrorChannels (s : State) : Nat := s.mirrorList.foldl (fun n v => n + s.mirrorCount v) 0

/-- The words of a position record, by source: a source's first word. -/
def State.mirrorWords (s : State) : List Nat → List Word → List (Nat × Word)
  | [], _ => []
  | v :: vs, ws => (v, ws.headD 0) :: s.mirrorWords vs (ws.drop (s.mirrorCount v))

/-- A position record of the lead arrives at a unit in lockstep. -/
def execInput (cyc : Word) (pos : Fin 32) (words : List Word) (bias : Option (List (Fin 4))) (s : State) : Res :=
  .next (
    if !s.inLockstep || !s.linkUp || cyc ≠ s.cycle then s
    else
      let recs := s.mirrorWords s.mirrorList words
      { s with
        pair := { s.pair with
          mirrorIn := recs.foldl (fun m r => SMap.set zeroWord m (smp r.1 pos.val) r.2) s.pair.mirrorIn
          mirrorPos := pos.val :: s.pair.mirrorPos
          mirrorBias := match bias with
            | some l => l.map (·.val)
            | none => s.pair.mirrorBias } })

/-- The first position record that is missing; B when the block is whole. -/
def State.firstMissing (s : State) : Nat :=
  ((List.range s.blk).find? (fun p => decide (p ∉ s.pair.mirrorPos))).getD s.blk

/-- The word of a captured source at a position: the lead's up to the first missing record, its own from then on (R375). -/
def State.mirrored (s : State) (listed : List Nat) (v p : Nat) (own : Word) : Word :=
  if s.inLockstep && v ∈ listed && p < s.firstMissing then SMap.get zeroWord s.pair.mirrorIn (smp v p) else own

/-- The block counts of the partner's cycle. -/
def execCycleClose (cyc : Word) (inputs : Fin 33) (s : State) : Res :=
  .next (if !s.twin || !s.linkUp || cyc ≠ s.pair.pcycle then s
    else { s with pair := { s.pair with closed := some inputs.val } })

/-! ### What the partner says (R373, R376, R378) -/

/-- Whether the units compare: one of them leads and the other is in lockstep. -/
def State.compares (s : State) : Bool :=
  s.twin && s.linkUp && (s.inLockstep || (s.astate = 4 && (s.pair.pstate = 3 || s.pair.pstate = 5)))

/-- The partner's cycle opens: its claim, state, grade, verdict and time. -/
def execCycleOpen (f : CycleOpen) (s : State) : Res :=
  .next (
    if !s.twin || s.pairRd PAIR_LINK.state = 0 then s
    else if s.ownUnit f.claim then s.strapConflict
    else
      let s1 := { s with
        pair := { s.pair with
          opened := true
          conflict := false
          pcycle := f.cyc
          pstate := f.astate.val
          pgrade := f.grade.val
          mdtime := if s.inLockstep then f.dtime else s.pair.mdtime
          devDiff := s.pair.devDiff || (f.differs && s.compares)
          mis := match s.pair.mis, f.verdict with
            | some m, some v => some { m with theirs := some v }
            | m, _ => m } }
      if s1.linkUp then s1.hearClaim 1 f.claim else s1)

/-- A region snapshot of the lead is compared with the own copy, memory as the tick left it. -/
def execStateFrame (region : BitVec 16) (offset : Word) (bytes : List Byte) (s : State) : Res :=
  .next (
    if !s.inLockstep || !s.linkUp then s
    else
      match s.img.running.bind (fun im => im.regions.find? (fun r => r.id = region.toNat)) with
      | none => { s with pair := { s.pair with stateDiff := some region.toNat } }
      | some r =>
        let at0 := r.addr + offset.toNat
        let own := (List.range bytes.length).map (fun i => SMap.get memDefault s.pair.snap (at0 + i))
        if own = bytes then s else { s with pair := { s.pair with stateDiff := some region.toNat } })

/-- The partner's 16 signatures. -/
def execSig (sigs : List (BitVec 64)) (s : State) : Res :=
  if sigs.length ≠ 16 then .fault .illFormed
  else .next (if s.compares then { s with pair := { s.pair with psigs := some sigs } } else s)

/-- The words that signature g covers, in order (R378). -/
def State.sigWords (s : State) (g : Nat) : List Word :=
  (List.range s.blk).flatMap (fun p => (List.range 64).map (fun m => s.osSample (64 * g + m) p))

/-- The own signature g of the block emitted at this tick. -/
def State.signature (s : State) (g : Nat) : BitVec 64 := crc64 (bytesOfWords (s.sigWords g))

/-! ### Mismatch and decision (R379, R380) -/

/-- The self-tests of a mismatch (R379 step 2): the groups' lanes, one region of each lane's coefficients, the cores of the groups' quads;
the region's first kilobyte; the port. -/
def State.misTests (s : State) (kind : Nat) (groups region : Nat) : State :=
  let gs := (List.range 16).filter (fun g => groups / 2 ^ g % 2 = 1)
  let s1 := forAll (gs.flatMap (fun g => (List.range 8).map (fun i => 8 * g + i))) (fun l st =>
    (st.startTest .lane l).startTest .coef (b2n (st.col (8 * l)).bank * 4096 + 32 * l)) s
  let cores := s1.img.quads.filterMap (fun q =>
    if 256 ≤ q.1 && (q.1 - 256) / 16 ∈ gs then some q.2.disp.core else none)
  let s2 := forAll ((List.range 32).filter (fun c => decide (c ∈ cores))) (fun c st => st.startTest .core c) s1
  if kind = 2 then
    match s2.img.running.bind (fun im => im.regions.find? (fun r => r.id = region)) with
    | some r => if r.dram then s2.startTest .dramRow (r.base / 8192) else s2.startTest .bank (bankRes r.cluster r.addr)
    | none => s2
  else if kind = 4 then s2.startTest .portLoop 0
  else s2

/-- A comparison differs in cycle `d` (R379): kind 1 SIG, 2 STATE, 3 DEVICE, 4 DRIVE. Before promotion it fails the attach (R382). -/
def State.mismatch (s : State) (kind groups region : Nat) : State :=
  let d := s.cycle
  let s1 := (((s.set1 PAIR_STATUS.mismatch).wr PAIR_MISMATCH.groups groups).wr PAIR_MISMATCH.kind kind).setReg PAIR_MISCYC d
  let s2 := (s1.setReg PAIR_MATCH 0).eventP 0x0701 (some kind) (some (if kind = 2 then region else groups))
  if s2.astate = 3 then s2.attachFail
  else if s2.astate = 4 && s2.pair.pstate = 3 then s2
  else
    let s3 := s2.wr PAIR_MISMATCH.decision 1
    match s3.pair.mis with
    | some _ => s3
    | none => ({ s3 with pair := { s3.pair with mis := some ⟨d, none, none⟩ } }).misTests kind groups region

/-- The own verdict on a mismatch of cycle `d`: a self-test of it failed; an overrun, an uncorrectable ECC error, a lane error or a
PROG_FAULT was logged in d − 5 to d. -/
def State.verdict (s : State) (d : Word) : Bool × Bool :=
  let l := s.log.staged ++ s.log.flash
  (l.any (fun e => e.code = 7 && e.p1 = 1 && since e.cycle d ≤ 9),
   l.any (fun e => (e.code = 0x3101 || e.code = 0x0401 || e.code = 0x2001 || e.code = 0x3001) && since d e.cycle ≤ 5))

/-- At d + 9 the verdict record is sent. -/
def State.verdictDue (s : State) (a : Word) : State :=
  match s.pair.mis with
  | some m => if m.mine.isNone && since a m.d ≥ 9 then
      { s with pair := { s.pair with mis := some { m with mine := some (s.verdict m.d) } } }
    else s
  | none => s

/-- Whether the lead demotes, and whether the rules decided it (R380), from the records of the lead and the standby. -/
def decide380 (lead standby : Bool × Bool) : Bool × Bool :=
  if lead.1 != standby.1 then (lead.1, true)
  else if lead.1 then (false, false)
  else if lead.2 != standby.2 then (lead.2, true)
  else (false, false)

/-- The unit demotes (R380). -/
def State.demote (s : State) : State :=
  let ds := s.recent 60 (s.cycle :: s.pair.demotions)
  let s1 := { s with pair := { s.pair with demotions := ds } }
  let s2 := if ds.length ≥ 3 then s1.pairEvent PAIR_STATUS.unstable 0 else s1
  if s2.astate = 4 then { s2 with pair := { s2.pair with demoted := true } }
  else { s2.setAstate 1 with pair := { s2.pair with taken := [] } }

/-- At d + 10 both units apply the rules. A record that did not arrive counts as clean. -/
def State.decisionDue (s : State) (a : Word) : State :=
  match s.pair.mis with
  | some m => if since a m.d < 10 then s
    else
      let mine := m.mine.getD (s.verdict m.d)
      let theirs := m.theirs.getD (false, false)
      let iLead := s.astate = 4
      let (leadOut, ruled) := if iLead then decide380 mine theirs else decide380 theirs mine
      let s1 := s.wr PAIR_MISMATCH.decision (if !ruled then 4 else if leadOut then 3 else 2)
      let s2 := { s1 with pair := { s1.pair with mis := none } }
      if leadOut = decide iLead then s2.demote else s2
  | none => s

def execPairVerdict (s : State) : Res := .next (s.verdictDue (s.cycle + 1))

def execPairDecision (s : State) : Res := .next (s.decisionDue (s.cycle + 1))

/-! ### Attach (R381, R382) -/

/-- The version of the running firmware: word 0x0C of its container (R438). -/
def State.fwVersion (s : State) : Word :=
  BitVec.ofNat 32 (u32 ((SMap.get slotDefault s.img.fw s.img.fwRun).at) 0x0C)

/-- The check of R382 that refuses the attach. -/
def State.attachCheck (s : State) (p : PeerInfo) : Option Nat :=
  let source := s.astate = 4
  let digest := (s.img.running.map (·.digest)).getD 0
  if digest ≠ p.digest then some 1
  else if !p.tablesSame then some 2
  else if s.reg OVR_LIVE_CRC ≠ p.liveCrc then some 3
  else if s.rd PAIR_HOME.home_b ≠ b2n p.homeB then some 4
  else if s.fwVersion ≠ p.version then some 5
  else if s.pair.conflict then some 6
  else if (if source then s.rd SYS_STATE.grade else p.grade.val) = 0 then some 7
  else none

/-- Whether a LEAD and a detached partner stand at an up link. -/
def State.attachReady (s : State) : Bool :=
  s.twin && s.linkUp && s.pair.attach.isNone
    && ((s.astate = 4 && (s.pair.pstate = 1 || s.pair.pstate = 6)) || ((s.astate = 1 || s.astate = 6) && s.pair.pstate = 4))

/-- Whether an attach may start without a command. -/
def State.autoAttach (s : State) : Bool :=
  s.isSet PAIR_CFG.auto_attach && !s.isSet PAIR_STATUS.unstable && !s.isSet PAIR_STATUS.attach_fail

def execAttachStart (peer : PeerInfo) (s : State) : Res :=
  .next (
    if !s.attachReady || !(s.autoAttach || s.pair.attachCmd.isSome) then s
    else match s.attachCheck peer with
      | some k =>
        let s1 := (s.pairWr PAIR_ATTACH.reason k).pairFlag PAIR_STATUS.attach_refused
        let s2 := s1.eventP 0x070E (some k) (some 0)
        (match s2.pair.attachCmd with
          | some r => { s2 with pair := { s2.pair with attachCmd := none } }.finish r stBadSequence k (leBytes 4 k)
          | none => s2)
      | none =>
        let s1 := (s.pairWr PAIR_ATTACH.attempts ((s.recent 60 s.pair.fails).length + 1)).pairWr PAIR_ATTACH.progress 0
        { s1 with pair := { s1.pair with attach := some ⟨decide (s.astate = 4), none, 0⟩ } })

/-- The bytes of a bulk item or tee record. A tee record that lands after the cut-over fails the attempt. -/
def execBulk (item : BulkItem) (s : State) : Res :=
  .next (
    if !s.twin || !s.linkUp then s
    else if s.astate = 3 then s.attachFail
    else if s.astate ≠ 2 then s
    else match item with
      | .mem a bytes => s.setBytes a.toNat bytes
      | .coef bank m n g => s.setGain bank m.val n.val g
      | .reg a v => s.setReg a.toNat v)

/-- The copy is complete: the source names the cut-over tick, at least 8 cycles ahead, and its operating state. -/
def execBulkCopyComplete (cut : Word) (st : Fin 8) (s : State) : Res :=
  .next (match s.pair.attach with
    | some x => if x.cut.isSome || (x.source && since cut s.cycle < 8) || later32 s.cycle cut then s
      else
        let s1 := s.pairWr PAIR_ATTACH.progress 100
        { s1 with pair := { s1.pair with attach := some ⟨x.source, some cut, st.val⟩ } }
    | none => s)

/-- Step 2 of R381 at the next tick: the receiver enters ATTACHING. -/
def State.attachEnter (s : State) : State :=
  match s.pair.attach with
  | some x => if !x.source && x.cut.isNone && (s.astate = 1 || s.astate = 6) then
      let s1 := s.cancelPending.setAstate 2
      { s1 with pair := { s1.pair with takeCycle := true } }
    else s
  | none => s

/-- At C the receiver enters SYNCED with the source's operating state. -/
def State.cutover (s : State) (a : Word) : State :=
  match s.pair.attach with
  | some ⟨source, some c, st⟩ => if later32 c a then s
    else
      let s1 := { s with pair := { s.pair with attach := none, attachCmd := none } }
      let s2 := if source then s1
        else
          let s3 := (s1.setAstate 3).goto (OpState.ofCode st)
          ({ s3 with pair := { s3.pair with syncedAt := a, mirrorIn := [], mirrorPos := [], psigs := none } }).setReg PAIR_MATCH 0
      (match s.pair.attachCmd with
        | some r => s2.finish r stDone 0 (leBytes 4 0)
        | none => s2)
  | _ => s

def execCutoverTick (s : State) : Res := .next (s.cutover (s.cycle + 1))

/-! ### Promotion (R384–R386) -/

/-- PAIR_CFG.holdoff in force. -/
def State.holdoff (s : State) : Nat := max 1 (min 600 (s.rd PAIR_CFG.holdoff))

/-- A unit that is not home is promoted after 16 matching cycles. -/
def State.promoteStandby (s : State) : State :=
  if s.twin && s.astate = 3 && !s.isHome && (s.reg PAIR_MATCH).toNat ≥ 16 then s.setAstate 5 else s

/-- The home unit is promoted, with its home bit. -/
def State.promoteHome (s : State) : State :=
  { s.setAstate 5 with pair := { s.pair with withheld := false } }

/-- Whether the reclaim of R386 is due at tick `a`. -/
def State.reclaimDue (s : State) (a : Word) : Bool :=
  s.twin && s.astate = 3 && s.isHome && s.isSet PAIR_CFG.reclaim_en && (s.reg PAIR_MATCH).toNat ≥ 1000
    && since a (s.pair.lostAt.getD s.pair.syncedAt) ≥ s.cyclesOfS s.holdoff

def execStandbyPromotion (s : State) : Res := .next s.promoteStandby

def execReclaimPromotion (s : State) : Res := .next (if s.reclaimDue (s.cycle + 1) then s.promoteHome else s)

/-! ### The tick -/

/-- The end of lockstep: a record is missing (R375), or the link is not up (R371). -/
def State.lockstepEnds (s : State) : State :=
  if s.inLockstep && s.linkUp && s.firstMissing < s.blk then
    ((s.pairEvent PAIR_STATUS.missed s.firstMissing).pairBump PAIR_LINKCNT.missed).leaveLockstep
  else if s.inLockstep && !s.linkUp then s.leaveLockstep
  else s

/-- An attach ends with the link. -/
def State.attachEnds (s : State) : State :=
  if s.pair.attach.isSome && !s.linkUp then
    let s1 := { s with pair := { s.pair with attach := none, attachCmd := none, takeCycle := false } }
    let s2 := if s1.astate = 2 then s1.setAstate 1 else s1
    match s.pair.attachCmd with
    | some r => s2.finish r stLinkDown 0 []
    | none => s2
  else s

/-- What falls due at tick `a` before CYCLE rises: silence, roles, the end of lockstep, the attach and the decision. -/
def State.pairDue (s : State) (a : Word) : State :=
  if !s.twin then s
  else
    let s1 := if s.silentNow then s.silence a else s
    let s2 := ((s1.roleDue a).lockstepEnds).attachEnds
    (((s2.attachEnter).cutover a).verdictDue a).decisionDue a

/-- Compare the partner's frames of the cycle that has ended with the own copies (R376, R378). -/
def State.compareFrames (s : State) : State :=
  let p := s.pair
  match p.psigs with
  | none => s.bump PAIR_LINKCNT.missed 1
  | some sigs =>
    let groups := (List.range 16).foldl (fun n g => if sigs.getD g 0 = s.signature g then n else n + 2 ^ g) 0
    if groups ≠ 0 then s.mismatch 1 groups 0
    else match p.stateDiff with
      | some r => s.mismatch 2 0 r
      | none => if p.devDiff then s.mismatch 3 0 0
        else if p.drvDiff then s.mismatch 4 0 0
        else s.bump PAIR_MATCH.count 1

/-- At a tick, once the block to emit stands: the comparison, the promotions, the claim, and the frames of the new cycle. -/
def State.pairTick (s : State) : State :=
  if !s.twin then s
  else
    let s0 := s.pairFlush
    let s1 := if s0.compares then s0.compareFrames else s0
    let s2 := s1.promoteStandby
    let s3 := if s2.reclaimDue s2.cycle then s2.promoteHome else s2
    let s4 := if s3.compares && (!s3.pair.opened || s3.pair.closed.isNone) then
        (s3.bump PAIR_LINKCNT.missed 1).flagEvent PAIR_STATUS.missed 0 0
      else s3
    let s5 := if s4.astate = 4 || s4.inLockstep then s4.wr PAIR_MIRROR.channels s4.mirrorChannels else s4
    let s6 := { s5 with
      pair := { s5.pair with
        opened := false
        closed := none
        psigs := none
        devDiff := false
        stateDiff := none
        drvDiff := false
        mirrorIn := []
        mirrorPos := []
        snap := if s5.inLockstep then s5.mem else [] } }
    s6.claimTick

end Sys2Proof.Machine
end

