-- ==== Sys2Proof/Machine/Ptp.lean ====
section
/-! DEFINITION. Network time (R310–R322): the two PTP ports, the best master, the servo, divergence and steps of DTIME. -/

namespace Sys2Proof.Machine

/-! ### Ports (R312) -/

def portDisabled : Nat := 3
def portListening : Nat := 4
def portMaster : Nat := 6
def portPassive : Nat := 7
def portUncal : Nat := 8
def portSlave : Nat := 9

def ptpPortF (p : Nat) : Fld := if p = 0 then PTP_STATUS.port0 else PTP_STATUS.port1

def State.ptpState (s : State) (p : Nat) : Nat := s.rd (ptpPortF p)

def ptpPortDefault : Nat → PtpPort := fun _ => ⟨none, none, none, none, 0, []⟩

def State.ptpPort (s : State) (p : Nat) : PtpPort := SMap.get ptpPortDefault s.ptp.ports p

def State.setPtpPort (s : State) (p : Nat) (x : PtpPort) : State :=
  { s with ptp := { s.ptp with ports := SMap.set ptpPortDefault s.ptp.ports p x } }

/-- Whether a PTP port takes part. -/
def State.ptpOn (s : State) (p : Nat) : Bool := s.isSet PTP_CFG.en && s.rd PTP_CFG.ports / 2 ^ p % 2 = 1

/-- The slave port, if one is in UNCALIBRATED or SLAVE. -/
def State.slavePort (s : State) : Option Nat :=
  (List.range 2).find? (fun p => s.ptpState p = portUncal || s.ptpState p = portSlave)

/-! ### The servo (R316) -/

def svFree : Nat := 0
def svAcquiring : Nat := 1
def svLocked : Nat := 2
def svHoldover : Nat := 3
def svDiverged : Nat := 4

def State.servo (s : State) : Nat := s.rd PTP_STATUS.servo

/-- The servo changes state; the PTP reference is present while it is LOCKED (R335). -/
def State.servoGo (s : State) (v : Nat) : State := (s.wr PTP_STATUS.servo v).refPresence 1 false

/-- A value saturated to a signed word. -/
def sat31 (x : Int) : Word := wordOf (max (-2147483647) (min 2147483647 x))

/-- No usable measurement any more (R316). -/
def State.servoLost (s : State) : State :=
  if s.servo = svAcquiring then s.servoGo svFree
  else if s.servo = svLocked || s.servo = svDiverged then s.servoGo svHoldover
  else s

/-- Entry to DIVERGED (R318). -/
def State.diverge (s : State) (off : Int) : State :=
  let w := BitVec.ofInt 64 off
  let s1 := ((s.set1 PTP_STATUS.diverged).bump PTP_DIVCNT.count 1).setReg PTP_DIVOFS (sat31 off)
  let s2 := s1.event 0x0801 (w.extractLsb' 0 32) (w.extractLsb' 32 32)
  ({ s2 with ptp := { s2.ptp with diverged := true } }).servoGo svDiverged

/-- The spread and the mean of measurements (R317, R320); the rounding of the mean is open (notes/assumptions/74.md). -/
def spanOf (l : List Int) : Nat := match l with
  | [] => 0
  | x :: r => (r.foldl max x - r.foldl min x).natAbs
def meanOf (l : List Int) : Int := if l.isEmpty then 0 else openDiv (l.foldl (· + ·) 0) l.length

/-- A schedule of a step. -/
def State.planStep (s : State) (a : Word) (amount : Int) (re : Bool) (o : Option CmdRef) : State :=
  { s with ptp := { s.ptp with step := some (a, amount, re, o) } }

/-- A rate that the loop may answer (R317): a free value within ±200 ppm. -/
def State.freeRate (s : State) : State × Word :=
  let (w, s1) := s.drawFree
  (s1, wordOf ((w.toNat % 26214401 : Nat) - 13107200 : Int))

/-- One offset measurement of the slave port (R316, R317). -/
def State.servoMeasure (s : State) (off mpd : Int) : State :=
  let thr := s.rd PTP_THR.us * 1000
  let far := off.natAbs > thr
  let overs := if far then min 4 (s.ptp.overs + 1) else 0
  let under := if far then 0 else min 4 (s.ptp.under + 1)
  let meas := (off :: s.ptp.meas).take 16
  let s1 := { s with ptp := { s.ptp with overs := overs, under := under, meas := meas } }
  let s2 :=
    if s.servo = svAcquiring then
      (if meas.length = 16 && spanOf meas ≤ 10000 && s.ptp.step.isNone then s1.planStep (s.cycle + 1) (-(meanOf meas)) false none else s1)
    else if s.servo = svLocked then (if overs = 4 then s1.diverge off else s1)
    else if s.servo = svHoldover then
      (if overs = 4 then s1.diverge off
       else if !far then ({ s1 with ptp := { s1.ptp with diverged := false } }).servoGo svLocked else s1)
    else if s.servo = svDiverged then
      (if under = 4 then ({ s1 with ptp := { s1.ptp with diverged := false } }).servoGo svLocked else s1)
    else s1
  let (s3, rate) := if s2.servo = svLocked then s2.freeRate else (s2, s2.reg PTP_RATE)
  { s3 with ptp := { s3.ptp with show3 := some (sat31 off, sat31 mpd, rate) } }

/-! ### The best master (R312, R313) -/

/-- Lexicographic order of data sets: smaller is better (notes/assumptions/27.md). -/
def rankLess : List Nat → List Nat → Bool
  | a :: x, b :: y => a < b || (a = b && rankLess x y)
  | _, _ => false

/-- The unit's own data set (R310). -/
def State.ownRank (s : State) : List Nat :=
  [s.rd PTP_PRIO.priority1, 248, 0xFE, 0xFFFF, s.rd PTP_PRIO.priority2,
    (s.reg (NET_MAC_HI 0)).toNat * 2 ^ 32 + (s.reg (NET_MAC_LO 0)).toNat]

/-- The port whose master is best; between equals the lower port. -/
def State.bestPort (s : State) : Option (Nat × PtpMaster) :=
  let m (p : Nat) : Option PtpMaster := if s.ptpOn p then (s.ptpPort p).best else none
  match m 0, m 1 with
  | some a, some b => if rankLess b.rank a.rank then some (1, b) else some (0, a)
  | some a, none => some (0, a)
  | none, some b => some (1, b)
  | none, none => none

/-- The grandmaster registers. -/
def State.setGm (s : State) (gm : BitVec 64) : State :=
  if s.reg PTP_GM_HI ++ s.reg PTP_GM_LO = gm then s
  else ((s.setReg PTP_GM_HI (gm.extractLsb' 32 32)).setReg PTP_GM_LO (gm.extractLsb' 0 32)).flagEvent PTP_STATUS.gm_chg 0 0

/-- A port becomes the slave port. -/
def State.becomeSlave (s : State) (p st : Nat) : State :=
  let s1 := if s.rd PTP_STATUS.slave_port ≠ p && s.servo ≠ svFree then s.flagEvent PTP_STATUS.port_sw p 0 else s
  let s2 := (s1.wr (ptpPortF p) st).wr PTP_STATUS.slave_port p
  if s2.servo = svFree then s2.servoGo svAcquiring else s2

/-- The state decision over both ports. -/
def State.bmca (s : State) : State :=
  let idle (p : Nat) : Nat := if !s.ptpOn p then portDisabled else if s.isSet PTP_CFG.slave_only then portListening else portMaster
  match s.bestPort with
  | none => (if s.slavePort.isSome then s.servoLost else s).wr (ptpPortF 0) (idle 0) |>.wr (ptpPortF 1) (idle 1)
  | some (p, m) =>
    if !s.isSet PTP_CFG.slave_only && rankLess s.ownRank m.rank then
      (if s.slavePort.isSome then s.servoLost else s).wr (ptpPortF 0) (idle 0) |>.wr (ptpPortF 1) (idle 1)
    else
      let q := 1 - p
      let other := match (s.ptpPort q).best with
        | some n => if s.ptpOn q && n.gm = m.gm then portPassive else idle q
        | none => idle q
      let s1 := (s.setGm m.gm).wr (ptpPortF q) other
      if s1.ptpState p = portUncal || s1.ptpState p = portSlave then s1 else s1.becomeSlave p portUncal

/-- Both port state machines restart (PTP_CFG); the servo keeps its state. -/
def State.ptpRestart (s : State) : State :=
  let st (p : Nat) : Nat := if s.ptpOn p then portListening else portDisabled
  let s1 := (s.setPtpPort 0 (ptpPortDefault 0)).setPtpPort 1 (ptpPortDefault 1)
  (s1.wr (ptpPortF 0) (st 0)).wr (ptpPortF 1) (st 1)

/-! ### Messages -/

/-- An offset measured on a port (R312–R316): the slave port's drives the servo, the PASSIVE port's is compared. -/
def State.ptpMeasured (s : State) (p : Nat) (tms : Int) : State :=
  let x := s.ptpPort p
  let s1 := s.setPtpPort p { x with tms := some tms, sync := none }
  let off := tms - x.mpd - sval (s.reg (PTP_ASYM p))
  let st := s1.ptpState p
  if st = portPassive && s1.slavePort.isSome then
    { s1 with ptp := { s1.ptp with passive := some off } }.setReg PTP_XCHK (sat31 (off - (s1.ptp.meas.headD off)))
  else if st = portPassive then (s1.becomeSlave p portSlave).servoMeasure off x.mpd
  else if st = portUncal || st = portSlave then (s1.wr (ptpPortF p) portSlave).servoMeasure off x.mpd
  else s1

/-- R310–R316: a PTP message of the clock's domain. -/
def State.ptpMessage (s : State) (p : Nat) (m : PtpMsg) : State :=
  let x := s.ptpPort p
  let ingress := (s.rd (PTP_PHY.ingress p) : Int)
  match m with
  | .broken => s.bump PTP_CNT.bad 1
  | .announce gm p1 c a v p2 steps utc =>
    let n : PtpMaster := ⟨gm, [p1.toNat, c.toNat, a.toNat, v.toNat, p2.toNat, gm.toNat, steps.toNat]⟩
    let take := match x.best with
      | none => true
      | some b => b.gm = gm || rankLess n.rank b.rank
    if take then
      let s1 := (s.setPtpPort p { x with best := some n }).bmca
      if s1.slavePort = some p then s1.setReg PTP_UTC (BitVec.ofNat 32 utc.toNat) else s1
    else s
  | .sync seq two t1 corr rx =>
    let s1 := s.bump PTP_CNT.sync 1
    let t2 := rx.toInt + ingress
    if two then s1.setPtpPort p { x with sync := some (seq.toNat, t2, corr.toInt) }
    else s1.ptpMeasured p (t2 - t1.toInt - corr.toInt)
  | .followUp seq t1 corr =>
    match x.sync with
    | some (q, t2, c) => if q = seq.toNat then s.ptpMeasured p (t2 - t1.toInt - c - corr.toInt) else s
    | none => s
  | .delayReq seq _ =>
    if s.ptpState p = portMaster then s.send [.ptp p 4 seq.toNat] else s
  | .delayResp seq t4 corr =>
    match x.dreq, x.tms with
    | some (q, t3), some tms =>
      if q = seq.toNat then s.setPtpPort p { x with mpd := openDiv (tms + (t4.toInt - t3 - corr.toInt)) 2, dreq := none } else s
    | _, _ => s

/-- A PTP message arrives: other domains are ignored; while the command processor is stopped only counts move (R316). -/
def execPtpMessageReceived (port : Fin 2) (domain : BitVec 8) (m : PtpMsg) (s : State) : Host.Outcome State Fault Refusal :=
  if !s.ptpOn port.val || !s.portOn port.val || domain.toNat ≠ s.rd PTP_CFG.domain then .next s
  else if s.flt.cpStopped then
    .next (match m with
      | .broken => s.bump PTP_CNT.bad 1
      | .sync .. => s.bump PTP_CNT.sync 1
      | _ => s)
  else .next (s.ptpMessage port.val m)

/-- The clock sends a message at its interval: Sync and Announce as MASTER, Delay_Req on the slave and the PASSIVE port. -/
def execPtpMessageSend (port : Fin 2) (k : PtpSend) (stamp : BitVec 64) (s : State) : Host.Outcome State Fault Refusal :=
  let p := port.val
  let x := s.ptpPort p
  let kind := match k with | .sync => 0 | .announce => 2 | .delayReq => 3
  let q := SMap.get (fun _ => 0) x.seqs kind
  let st := s.ptpState p
  let may := s.ptpOn p && s.portOn p && !s.flt.cpStopped && (match k with
    | .delayReq => st = portUncal || st = portSlave || st = portPassive
    | _ => st = portMaster)
  if !may then .next (s.send [])
  else
    let y := { x with seqs := SMap.set (fun _ => 0) x.seqs kind ((q + 1) % 65536) }
    let y1 := match k with
      | .delayReq => { y with dreq := some (q, stamp.toInt - (s.rd (PTP_PHY.egress p) : Int)) }
      | _ => y
    let follow : List NetFrame := match k with
      | .sync => if s.isSet PTP_CFG.one_step then [] else [.ptp p 1 q]
      | _ => []
    .next ((s.setPtpPort p y1).send (.ptp p kind q :: follow))

/-- R313: a port misses its announce receipt timeout. -/
def execAnnounceTimeout (port : Fin 2) (s : State) : Host.Outcome State Fault Refusal :=
  let p := port.val
  let x := s.ptpPort p
  let lost := s.slavePort = some p
  let same := match x.best, (s.ptpPort (1 - p)).best with
    | some a, some b => s.ptpOn (1 - p) && a.gm = b.gm
    | _, _ => false
  let s1 := s.setPtpPort p { x with best := none, sync := none, tms := none }
  if lost && same then .next (s1.wr (ptpPortF p) portListening)
  else if lost then .next ((s1.wr (ptpPortF p) portListening).servoLost.bmca)
  else .next s1.bmca

/-! ### Steps of DTIME (R317–R321) -/

/-- DTIME steps at tick `a`: the servo is LOCKED, the step is latched and logged, running streams go through R321. -/
def State.stepTime (s : State) (a : Word) (amount : Int) (o : Option CmdRef) : State :=
  let w := BitVec.ofInt 64 amount
  let s1 := { s with ptp := { s.ptp with
    dtime := s.ptp.dtime + w
    step := none
    meas := []
    overs := 0
    under := 0
    diverged := false
    lastStep := amount
    stepTick := some a
    done := match o with
      | some r => some (a + 1, amount, r)
      | none => s.ptp.done } }
  let s2 := ((s1.set1 PTP_STATUS.stepped).setReg PTP_STEP_LO (w.extractLsb' 0 32)).event 0x0802 (w.extractLsb' 0 32) (w.extractLsb' 32 32)
  let s3 := s2.servoGo svLocked
  forAll (s3.net.strms.map (fun p => p.1)) (fun i st =>
    let tx := i < 128
    let k := i % 128
    if st.strmState tx k = stRunning then st.setStrm tx k { st.strm tx k with resync := some a } else st) s3

/-- Whether a planned step is due at tick `a`. -/
def State.stepDue (s : State) (a : Word) : Bool :=
  match s.ptp.step with
  | some (t, _) => !later32 t a
  | none => false

/-- The planned step, at tick `a`. -/
def State.stepTick (s : State) (a : Word) : State :=
  match s.ptp.step with
  | some (t, amount, _, o) => if later32 t a then s else s.stepTime a amount o
  | none => s

def execServoStep (s : State) : Host.Outcome State Fault Refusal := .next (s.stepTick (s.cycle + 1))

/-- Whether a class 5–7 path is active (R85). -/
def State.alarmPath (s : State) : Bool :=
  s.planeActive 5 || s.msg.players.any (fun q => match q.2.run with
    | some r => r.cls ≥ 5
    | none => false)

/-- Whether the last four measurements allow a re-step (R319, R320). -/
def State.stable4 (s : State) : Bool := s.ptp.meas.length ≥ 4 && spanOf (s.ptp.meas.take 4) ≤ 10000

/-- R319: the servo has been DIVERGED for hold seconds: it re-steps at the next tick. -/
def execAutoRestep (s : State) : Host.Outcome State Fault Refusal :=
  .next (if s.isSet PTP_CFG.auto_restep && s.servo = svDiverged && s.stable4 && !s.alarmPath then
    s.planStep (s.cycle + 1) (-(meanOf (s.ptp.meas.take 4))) true none else s)

/-- DTIME advances by a number of crystal nanoseconds at the applied rate (R315). -/
def State.advanceTime (s : State) (ns : Word) : State :=
  let unit : Nat := 65536000000
  let rate : Int := if s.servo = svFree || s.servo = svAcquiring then 0 else sval (s.reg PTP_RATE)
  let total : Nat := (((unit : Int) + rate) * (ns.toNat : Int)).toNat + s.ptp.dfrac
  let d := s.ptp.dtime + BitVec.ofNat 64 (total / unit)
  { s with ptp := { s.ptp with dtime := d, dfrac := total % unit } }.setReg PTP_DTIME_LO (d.extractLsb' 0 32)

/-- The time unit at a tick: words to show, and a re-step command that completes (R320). -/
def State.ptpTick (s : State) : State :=
  let s1 := match s.ptp.show3 with
    | some (o, m, r) =>
      { ((s.setReg PTP_OFFSET o).setReg PTP_MPD m).setReg PTP_RATE r with ptp := { s.ptp with show3 := none } }
    | none => s
  match s1.ptp.done with
  | some (t, amount, r) =>
    if later32 t s1.cycle then s1
    else { s1 with ptp := { s1.ptp with done := none } }.finish r stDone 0 (leBytes 8 (BitVec.ofInt 64 amount).toNat)
  | none => s1

/-- R315: a read of PTP_DTIME_LO latches the high word. -/
def execPtpDtimeLoRead (s : State) : Host.Outcome State Fault Refusal :=
  .next { s.setReg PTP_DTIME_HI (s.ptp.dtime.extractLsb' 32 32) with lastRead := s.reg PTP_DTIME_LO }

/-- R320: a read of PTP_STEP_LO latches the high word. -/
def execPtpStepLoRead (s : State) : Host.Outcome State Fault Refusal :=
  .next { s.setReg PTP_STEP_HI ((BitVec.ofInt 64 s.ptp.lastStep).extractLsb' 32 32) with lastRead := s.reg PTP_STEP_LO }

end Sys2Proof.Machine
end

