-- ==== Sys2Proof/Machine/Reset.lean ====
section
/-! DEFINITION. What a reset, a power cycle and OFF leave (R26, R410, R437, R492, R512), and the flush of the event log.

Flash and OTP contents always stay: image and firmware slots, messages and chains, the stored override tables, the log, keys, the ladder
history. Counters that clear only at power-on stay over every other reset. Memory stays over a warm reset alone. -/

namespace Sys2Proof.Machine

/-! ### The log (R490, R492) -/

/-- Entries the flash ring holds. -/
def logRing : Nat := 65536

/-- The latest entries, as many as the ring holds. -/
def logKept (l : List LogEntry) : List LogEntry := l.drop (l.length - logRing)

/-- The oldest entry that the flash ring holds. -/
def State.setOldest (s : State) : List LogEntry → State
  | e :: _ => s.setReg LOG_OLDEST e.seq
  | [] => s

/-- Staged entries are written to flash; the oldest are overwritten when the ring is full. -/
def State.flushLog (s : State) : State :=
  let kept := logKept (s.log.flash ++ s.log.staged)
  let s1 := { s with log := { s.log with flash := kept, staged := [] } }
  (s1.wr LOG_STAGED.count 0).setOldest kept

def execLogFlush (s : State) : Res := .next s.flushLog

/-- The bytes of an entry (R490). -/
def LogEntry.bytes (e : LogEntry) : List Byte :=
  let body := leBytes 4 e.seq.toNat ++ leBytes 2 e.code ++ leBytes 1 e.ctx ++ leBytes 1 (e.code / 256)
    ++ leBytes 8 e.dtime.toNat ++ leBytes 4 e.cycle.toNat ++ leBytes 4 e.p0.toNat ++ leBytes 4 e.p1.toNat
  body ++ bytesOfWord (crc32 body)

/-! ### Resets -/

/-- Words that live in flash or OTP. -/
def flashWords : List Nat :=
  [LOG_OLDEST, SEC_MGMT_EPOCH, SYS_SERIAL_LO, SYS_SERIAL_HI, NET_MAC_HI 0, NET_MAC_LO 0, NET_MAC_HI 1, NET_MAC_LO 1]

/-- Words that clear only at power-on. -/
def poweredWords : List Nat := [CMD_EPOCH, CLK_FAILCNT, LOG_LOST, PWR_SQUALL]

/-- Copy words from an older state. -/
def State.keepWords (s old : State) (l : List Nat) : State := forAll l (fun a st => st.setReg a (old.reg a)) s

/-- The state that a boot starts from. `powerOn`: counters clear; `warm`: memory stays. Entries still staged are lost (R492). -/
def State.bootState (s : State) (powerOn warm : Bool) : State :=
  let z := State.reset
  let lost := s.log.staged.length
  let s1 := { z with
    pending := s.pending
    free := s.free
    mem := if warm then s.mem else []
    img := { z.img with slots := s.img.slots, pinned := s.img.pinned, fw := s.img.fw, fwRun := s.img.fwRun }
    msg := { z.msg with dir := s.msg.dir, chains := s.msg.chains }
    ovr := { z.ovr with stored := s.ovr.stored }
    log := { z.log with flash := s.log.flash, lostNew := s.log.lostNew + lost }
    flt := { z.flt with ladder := s.flt.ladder }
    sec := { z.sec with otp := s.sec.otp, akey := s.sec.akey, mkey := s.sec.mkey, fwMeta := s.sec.fwMeta }
    boot := { z.boot with step := s.boot.step, porstHigh := s.boot.porstHigh, vsysOk := s.boot.vsysOk, pins := s.boot.pins
                          sampled := s.boot.sampled, cutoff := s.boot.cutoff, retries := s.boot.retries }
    pair := { z.pair with railOff := s.pair.railOff, pulses := [] } }
  let s2 := s1.keepWords s (if powerOn then flashWords else flashWords ++ poweredWords)
  let s3 := s2.setReg LOG_NEXT (s.reg LOG_NEXT - BitVec.ofNat 32 lost)
  let s4 := s3.bump LOG_LOST.count lost
  let s5 := if lost = 0 then s4 else s4.set1 LOG_STATUS.lost
  let s6 := if powerOn then s5 else s5.wr CLK_STATUS.cause (s.rd CLK_STATUS.cause)
  let s7 := (s6.wr SEC_STATUS.revoked (s.rd SEC_STATUS.revoked)).wr SEC_STATUS.jtag_locked (s.rd SEC_STATUS.jtag_locked)
  let s8 := (s7.wrB SEC_STATUS.akey_set s.sec.akey.isSome).wr MSG_PIN.kib (s.rd MSG_PIN.kib)
  (s8.wr SYS_STATE.unit (s.rd SYS_STATE.unit)).wr SYS_STATE.twin (s.rd SYS_STATE.twin)

/-- A reset to BOOT with its cause (R512). The rails stay: boot goes on after step 2 of R437. The ring epoch ends (R410). -/
def State.toBoot (s : State) (cause : Nat) (powerOn warm : Bool) (step : Nat) : State :=
  let s1 := (s.bootState powerOn warm).wr SYS_RST_CAUSE.cause cause
  let s2 := { s1 with boot := { s1.boot with step := step } }
  let s3 := if powerOn then s2 else s2.wr PWR_VAUX.on (s.rd PWR_VAUX.on)
  if 2 ≤ cause && cause ≤ 6 then s3.wrapInc CMD_EPOCH.resets 1 else s3

/-- A warm or cold reset of the ladder or the host; the log is flushed first (R492). -/
def State.deviceReset (s : State) (cause : Nat) : State :=
  let warm := cause = 2 || cause = 4
  s.flushLog.toBoot cause false warm 2

/-- A power cycle (R369, ladder step 5): the rails are off until the 200 ms end; VAUX stays on; what was staged is lost. -/
def State.railsOff (s : State) : State :=
  let s1 := (s.bootState false false).wr PWR_VAUX.on (s.rd PWR_VAUX.on)
  { s1 with
    boot := { s1.boot with step := 1 }
    pair := { s1.pair with railOff := true } }

/-- OFF (R26): nothing runs, nothing is held but flash and OTP. -/
def State.toOff (s : State) (powerLost : Bool) : State :=
  let s1 := (s.bootState powerLost false).wr SYS_STATE.state 0
  { s1 with boot := { s1.boot with step := 0, sampled := false } }

end Sys2Proof.Machine
end

