-- ==== Sys2Proof/Machine/Fault.lean ====
section
/-! DEFINITION. Self-tests, fencing, the recovery ladder, functions held in reset and the watchdog (21_faults_and_recovery.md,
R470–R485).

Functions are numbered by the model (notes/assumptions/139.md): 0–3 clusters, 4 NETA, 5 NETB, 6 flash controller, 7 command
processor, 16–31 serial ports, 32–71 decimation channels, 128–191 trackers. -/

namespace Sys2Proof.Machine

/-! ### The class of a resource (R475) -/

/-- The highest number of a list. -/
def maxOf (l : List Nat) : Nat := l.foldl max 0

/-- The class of a column: its declared class and the triggers that name it. -/
def State.colClass (s : State) (m : Nat) : Nat :=
  max (s.declClass m) (maxOf ((List.range 64).map (fun t => if s.tEnable t && s.covers t m then s.tClass t else 0)))

/-- The class of a resource of a test kind. -/
def State.resClass (s : State) (k : TestKind) (res word : Nat) : Nat :=
  match k with
  | .lane => maxOf ((List.range 8).map (fun i => s.colClass (8 * res + i)))
  | .core => maxOf (s.img.quads.map (fun q => if q.2.disp.core = res then q.2.disp.cls else 0))
  | .coef => s.colClass (word % 0x400000 / 4096)
  | .bank | .dramRow =>
    match s.img.running with
    | none => 0
    | some im => maxOf (im.recs.map (fun d =>
        match im.regions.find? (fun r => r.id = d.region) with
        | some r => if r.addr ≤ word && word < r.addr + r.length then d.cls else 0
        | none => 0))
  | .portLoop => maxOf ((List.range 32).map (fun k =>
      let e := s.ent (sinkKey (512 + 32 * (res % 16) + k))
      if e.connected then s.colClass e.sel else 0))
  | .link | .conv => 0

/-- The cause code of a fence without a spare (R476). -/
def State.fenceCause (s : State) (k : TestKind) (res word : Nat) : Nat := if s.resClass k res word ≥ 5 then 12 else 6

/-- A resource's number among the conditions. -/
def condKey (k : TestKind) (res : Nat) : Nat := k.code * 65536 + res

/-! ### Functions (R478, R481, R485) -/

/-- Whether a function is held in reset. -/
def State.held (s : State) (f : Nat) : Bool := f ∈ s.flt.inReset

/-- Whether a function's output enters the mirror list, the regions or the signatures (R481). -/
def audible (f : Nat) : Bool := f ≠ 6 && f ≠ 7

/-- Clear the cores of a cluster. -/
def State.clearCores (s : State) (n : Nat) : State :=
  { s with dsp := { s.dsp with
      cores := s.dsp.cores.filter (fun c => c.1 / 8 != n)
      dlq := s.dsp.dlq.filter (fun x => x.core / 8 != n) } }

/-- The function is held in reset; LADDER is logged with step 2. -/
def State.hold (s : State) (f : Nat) : State :=
  let s1 := s.event 0x0004 2 (BitVec.ofNat 32 f)
  let s2 := { s1 with
    flt := { s1.flt with
      inReset := if f ∈ s1.flt.inReset then s1.flt.inReset else f :: s1.flt.inReset
      ladder := (2, f, s1.cycle) :: s1.flt.ladder } }
  if f < 4 then (s2.wr (CLU_STATUS.state f) 1).clearCores f
  else if f = 6 then { s2 with ms := { s2.ms with flash := [], suspended := none } }
  else s2

/-- Whether a step that resets the device is held off (R480). -/
def State.holdsOff (s : State) : Bool := (!s.twin || s.isWinner) && s.alarmPath

/-- Take a reset step of the ladder: 3 warm, 4 cold, 5 PWR_CYCLE. -/
def State.takeStep (s : State) (step f : Nat) : State :=
  let s1 := s.event 0x0004 (BitVec.ofNat 32 step) (BitVec.ofNat 32 f)
  let s2 := { s1 with flt := { s1.flt with ladder := (step, f, s1.cycle) :: s1.flt.ladder } }
  if step = 3 then s2.deviceReset 4
  else if step = 4 then s2.deviceReset 5
  else s2.railsOff

/-- An automatic reset step: held off while a class 5–7 path is active, with grade 1 and LADDER_HELD logged once (R480). -/
def State.autoStep (s : State) (step : Nat) (f : Nat) : State :=
  if s.holdsOff then
    let h : HeldStep := ⟨if step = 3 then .warm else if step = 4 then .cold else .pwrCycle, f⟩
    if h ∈ s.flt.held then s
    else
      let s1 := { s with flt := { s.flt with held := s.flt.held ++ [h] } }
      (s1.event 0x0005 (BitVec.ofNat 32 step) (BitVec.ofNat 32 f)).raiseCond 15 0
  else s.takeStep step f

/-- FUNC_REINIT of a function (R479, R481): in lockstep the unit leaves it first; a LEAD whose partner shows grade 3 or more hands the
lead over first. The third of the same function within 10 min escalates. -/
def State.funcReinit (s : State) (f : Nat) : State :=
  let partner := match s.partnerClaim with
    | some c => claimGrade c
    | none => 0
  if audible f && s.compares && s.astate = 4 && partner ≥ 3 then { s with pair := { s.pair with reinit := some f } }
  else
    let s1 := if audible f && s.inLockstep then
        { s.setAstate 1 with pair := { s.pair with taken := [], mis := none } }
      else s
    let again := (s1.flt.ladder.filter (fun x => x.1 = 2 && x.2.1 = f && since s1.cycle x.2.2 < s1.cyclesOfS 600)).length
    let s2 := s1.hold f
    if again ≥ 2 then s2.autoStep 3 f else s2

/-- A LEAD that handed the lead over re-initialises its function (R481). -/
def State.reinitTick (s : State) : State :=
  match s.pair.reinit with
  | some f => if s.astate = 4 then s
    else ({ s.setAstate 1 with pair := { s.pair with reinit := none, taken := [] } }).funcReinit f
  | none => s

/-- A function restarts with its configuration restored (R485). A cluster takes its regions and parameter banks again; a serial port
runs its lead-in; a decimation channel settles. -/
def State.funcRestart (s : State) (f : Nat) : State :=
  if !s.held f then s
  else
    let s1 := { s with flt := { s.flt with inReset := s.flt.inReset.filter (· != f) } }
    if f < 4 then
      let s2 := s1.wr (CLU_STATUS.state f) 0
      match s2.img.running with
      | none => s2
      | some im =>
        let s3 := forAll (im.regions.filter (fun r => !r.dram && r.cluster = f)) (fun r st => st.initRegion im r) s2
        let mine := im.recs.filter (fun d => d.core / 8 = f)
        forAll mine (fun d st => (st.loadBanks im d).setQuad d.key (freshQuad d (st.wantProg d) (st.cycle + 1))) s3
    else if 16 ≤ f && f < 32 then
      let n := f - 16
      if s1.spState n = spStopped then s1
      else
        let o := (s1.port n).owner
        ((s1.spHalt n).setPort n { (s1.spHalt n).port n with starts := [(s1.cycle + 1, o)] })
    else if 32 ≤ f && f < 72 then
      let n := f - 32
      if s1.decState n = decStopped then s1 else s1.decStart n (s1.dch n).owner
    else if 128 ≤ f then
      let t := f - 128
      if s1.trkClaimed t then s1.trkMove t [trkLocked, trkRange, trkAcquire] trkAcquire 0 else s1
    else s1

def execFuncRestart (func : BitVec 8) (s : State) : Res :=
  .next (if func.toNat = 7 then s else s.funcRestart func.toNat)

/-! ### Spare lanes (R79–R81, R474) -/

/-- The lanes under a queued or running LANE test. -/
def State.laneTested (s : State) (l : Nat) : Bool := s.flt.tests.any (fun t => t.kind = .lane && t.res = l)

/-- Give a spare to a lane. -/
def State.takeSpare (s : State) (i l : Nat) (fenced : Bool) : State :=
  ((s.wr (XPT_SPARE.valid i) 1).wr (XPT_SPARE.lane i) l).wrB (XPT_SPARE.fenced i) fenced

/-- A lane shows an error (R79, R81): a free spare stands in; without one its columns deliver zeros, and the grade falls. -/
def State.laneStandIn (s : State) (l : Nat) : State :=
  if (s.spareOf l).isSome then s
  else match s.freeSpare with
    | some i => s.takeSpare i l false
    | none => s.raiseCond (s.fenceCause .lane l 0) (condKey .lane l)

/-- At a tick spares of lanes that have passed their test become free, free spares take the lowest-numbered fenced lanes that have
none, and the conditions follow. -/
def State.spareTick (s : State) : State :=
  let s1 := upTo 8 (fun i st =>
    let l := st.rd (XPT_SPARE.lane i)
    if st.isSet (XPT_SPARE.valid i) && !st.laneFenced l && !st.laneTested l then st.setReg (XPT_SPARE i) 0 else st) s
  let s2 := forAll ((List.range 128).filter (fun l => s1.laneFenced l && (s1.spareOf l).isNone)) (fun l st =>
    match st.freeSpare with
    | some i => (((st.takeSpare i l true).clearCond 6 (condKey .lane l)).clearCond 12 (condKey .lane l)).raiseCond 1 l
    | none => st) s1
  forAll (s2.flt.conds.filter (fun c => (c.1 = 6 || c.1 = 12) && c.2 < 128)) (fun c st =>
    if !st.laneFenced c.2 && !st.laneTested c.2 then st.clearCond c.1 c.2 else st) s2

/-! ### Fencing (R474) -/

/-- Spare words of a bank and spare rows of a DRAM bank. -/
def sparesOf (bank : Nat) : Nat := if bank < 96 then 16 else 64

/-- The bank of a word: memory × 16 + addr[7:4]; a DRAM row's bank is the implementation's. -/
def spareBank (k : TestKind) (mem word : Nat) : Nat :=
  match k with
  | .dramRow => 96 + Config.dramBank (word / 8192)
  | _ => mem * 16 + word / 16 % 16

/-- Remap a word or row to a spare, or let it read 0 (R184, R474). Contents are copied. -/
def State.fenceWord (s : State) (k : TestKind) (mem res word : Nat) : State :=
  let bank := spareBank k mem word
  let used := (s.flt.spares.filter (fun x => x.1 = bank)).length
  if used < sparesOf bank then
    let s1 := { s with flt := { s.flt with spares := (bank, word) :: s.flt.spares } }
    let s2 := s1.event 0x0403 (BitVec.ofNat 32 mem) (BitVec.ofNat 32 (eccAddr mem word))
    if bank < 96 && sparesOf bank - (used + 1) ≤ 4 then s2.raiseCond 5 bank else s2
  else
    let s1 := match k with
      | .coef => { s with coef := SMap.set zeroWord s.coef ((word - 0x30000000) / 4) 0 }
      | .dramRow => s.setBytes (word / 8192 * 8192) (List.replicate 8192 0)
      | _ => s.setBytes word [0, 0, 0, 0]
    let s2 := { s1 with flt := { s1.flt with dead := word :: s1.flt.dead } }
    let s3 := s2.raiseCond (s2.fenceCause k res word) (condKey k res)
    if k = .bank && mem < 4 && (k, res) ∉ s3.flt.retested then
      let s4 := { s3 with flt := { s3.flt with retested := (k, res) :: s3.flt.retested } }
      (s4.funcReinit mem).startTest k res
    else s3

/-- Fence a lasting-faulty resource. -/
def State.fenceOne (s : State) (k : TestKind) (res word : Nat) : State :=
  let listed := { s with flt := { s.flt with fenced := if (k, res) ∈ s.flt.fenced then s.flt.fenced else (k, res) :: s.flt.fenced } }
  match k with
  | .lane =>
    if s.laneFenced res then s
    else
      let r := XPT_FENCE (res / 32)
      let s1 := s.setReg r (s.reg r ||| place (res % 32) 1)
      let spare := match s1.spareOf res with
        | some i => some i
        | none => s1.freeSpare
      (match spare with
        | some i =>
          let s2 := ((s1.takeSpare i res true).eventP 0x2002 (some res) (some i)).raiseCond 1 res
          (s2.clearCond 6 (condKey .lane res)).clearCond 12 (condKey .lane res)
        | none => (s1.eventP 0x2002 (some res) none).raiseCond (s1.fenceCause .lane res 0) (condKey .lane res))
  | .bank => s.fenceWord .bank (res / 8192) res word
  | .coef => s.fenceWord .coef 5 res word
  | .dramRow => s.fenceWord .dramRow 6 res word
  | .core =>
    let s1 := listed.raiseCond (s.fenceCause .core res 0) (condKey .core res)
    if (k, res) ∈ s1.flt.retested then s1
    else
      let s2 := { s1 with flt := { s1.flt with retested := (k, res) :: s1.flt.retested } }
      (s2.funcReinit (res / 8)).startTest .core res
  | .link =>
    let s1 := listed.raiseCond 2 res
    let left := s1.goodLanes (BitVec.ofNat 4 (s1.pairRd PAIR_LINK.lanes))
    let s2 := s1.pairWr PAIR_LINK.lanes (left.foldl (fun n i => n + 2 ^ i) 0)
    if s2.twin && s2.pairRd PAIR_LINK.state ≠ 0 && left.length < s2.lanesNeeded then s2.linkFalls else s2
  | .portLoop => listed.raiseCond (s.fenceCause .portLoop res 0) (condKey .portLoop res)
  | .conv => if res < 512 then listed.raiseCond 3 res else listed.raiseCond (s.fenceCause .conv res 0) (condKey .conv res)

/-- Fence every resource marked lasting-faulty. -/
def State.fenceAll (s : State) : State :=
  let l := s.flt.lasting
  forAll l (fun x st => st.fenceOne x.1 x.2.1 x.2.2) { s with flt := { s.flt with lasting := [] } }

def execFence (s : State) : Res := .next s.fenceAll

/-! ### The end of a self-test (R472, R473) -/

/-- The kind of a code. -/
def kindOf (k : Nat) : TestKind :=
  match k with
  | 0 => .lane | 1 => .core | 2 => .bank | 3 => .coef | 4 => .dramRow | 5 => .link | 6 => .portLoop | _ => .conv

/-- The errors of a passing test are transients; the third within 10 s marks the resource lasting-faulty. -/
def State.addTransients (s : State) (k : TestKind) (res : Nat) : Nat → State × Bool
  | 0 => (s, false)
  | n + 1 =>
    let (s1, third) := s.addTransient k res
    let (s2, more) := s1.addTransients k res n
    (s2, third || more)

/-- A test ends. `word` is the failing word of a memory test. -/
def execSelftestDone (kind : Fin 8) (res : BitVec 18) (pass : Bool) (word : Word) (s : State) : Res :=
  let k := kindOf kind.val
  .next (match s.flt.tests.find? (fun t => t.kind = k && t.res = res.toNat) with
    | none => s
    | some t =>
      let s1 := { s with flt := { s.flt with tests := s.flt.tests.filter (fun x => !(x.kind = k && x.res = res.toNat)) } }
      let (s2, third) := if pass then s1.addTransients k res.toNat t.errors else (s1, false)
      let code := if !pass then 1 else if third then 2 else 0
      let s3 := s2.event 0x0007 (BitVec.ofNat 32 (kind.val * 65536 + res.toNat)) (BitVec.ofNat 32 code)
      let s4 := if !pass || third then s3.markLasting k res.toNat word.toNat else s3
      match t.cmd with
      | some r => s4.finish r stDone 0 (leBytes 4 (b2n pass + 2 * b2n (!pass || third)))
      | none => s4)

/-! ### The ladder (R479, R480) -/

/-- An escalation: 0 retry, 1 FUNC_REINIT, 2 warm reset, 3 cold reset, 4 PWR_CYCLE, 5 the end of the ladder. -/
def execLadderStep (step : Fin 6) (func : BitVec 8) (s : State) : Res :=
  let f := func.toNat
  .next (match step.val with
    | 0 => s.event 0x0004 1 (BitVec.ofNat 32 f)
    | 1 => s.funcReinit f
    | 2 => s.autoStep 3 f
    | 3 => s.autoStep 4 f
    | 4 => s.autoStep 5 f
    | _ => s.raiseCond 17 0)

/-- The held step is taken once nothing holds it off. -/
def State.releaseHeld (s : State) : State :=
  match s.flt.held with
  | [] => s
  | h :: _ => if s.holdsOff then s
    else
      let s1 := ({ s with flt := { s.flt with held := [] } }).clearCond 15 0
      s1.takeStep (match h.step with | .warm => 3 | .cold => 4 | _ => 5) h.func

def execLadderHeldRelease (s : State) : Res := .next s.releaseHeld

/-! ### The command processor (R22, R24, R482, R483) -/

/-- The matrix completes a reset master's burst (R465). -/
def State.abandon (s : State) (m : Master) (target : Nat) (addr : Word) : State :=
  let s1 := ((s.set1 BUS_STATUS.abandon).bump BUS_LKCNT.abandon 1).event 0x0502 (BitVec.ofNat 32 m.id) (BitVec.ofNat 32 target)
  let s2 := s1.event 0x0502 (BitVec.ofNat 32 m.id) addr
  { s2 with bus := { s2.bus with lock := s2.bus.lock.filter (fun l => l.2 % 32 != m.id) } }

/-- The command processor stops: grade at most 5, a PTP reference loses its servo, a FUNC_REINIT of it is logged. -/
def State.cpStop (s : State) (trap : Bool) : State :=
  if s.flt.cpStopped then s
  else
    let s1 := { s with flt := { s.flt with cpStopped := true, cpSince := some s.cycle, cpTrap := trap } }
    (s1.raiseCond 7 0).servoLost.event 0x0004 2 7

def execCpWatchdogExpiry (s : State) : Res := .next (s.cpStop false)

def execCpTrap (s : State) : Res := .next (s.cpStop true)

/-- Bytes of the running firmware's CODE. -/
def State.fwCode (s : State) : List Byte :=
  let b := (SMap.get slotDefault s.img.fw s.img.fwRun).at
  (List.range (u32 b 0xE0)).map (fun i => b (0xF0 + i))

/-- CRC of the code region in system SRAM. -/
def State.codeCrcNow (s : State) : Word := crc32 (s.bytes 0x10000000 s.fwCode.length)

/-- Glehal restarts: CODE is reloaded if its CRC differs, background jobs complete FAULT, ring service resumes, the grade is restored;
the third re-initialisation within 10 min escalates. -/
def State.cpRestart (s : State) : State :=
  if !s.flt.cpStopped then s
  else
    let s1 := if s.codeCrcNow = s.flt.codeCrc then s else s.setBytes 0x10000000 s.fwCode
    let s2 := { s1 with
      flt := { s1.flt with
        cpStopped := false, cpSince := none, kick := s1.cycle
        reinits := s1.cycle :: s1.flt.reinits.filter (fun c => since s1.cycle c < s1.cyclesOfS 600) } }
    let jobs := s2.q.jobs
    let s3 := { s2 with q := { s2.q with jobs := [] } }
    let s4 := forAll jobs (fun j st => st.finish j.cmd.ref stFault 0 []) s3
    let s5 := ((s4.clearCond 7 0).set1 CMD_STATUS.wd)
    let s6 := s5.eventP 0x0602 (some (b2n s.flt.cpTrap)) none
    if s6.flt.reinits.length ≥ 3 then s6.autoStep 3 7 else s6

def execCpRestart (s : State) : Res := .next s.cpRestart

end Sys2Proof.Machine
end

