-- ==== Sys2Proof/Machine/Ana.lean ====
section
/-! DEFINITION. Analog inputs and outputs (10_analog_and_field_io.md, R239–R245): gain walks, capsule supervision, output gating. -/

namespace Sys2Proof.Machine

/-! ### Gain walks (R241) -/

def walkDefault : Nat → GainWalk := fun _ => ⟨false, none⟩

def State.walk (s : State) (n : Nat) : GainWalk := SMap.get walkDefault s.field.walks n

def State.setWalk (s : State) (n : Nat) (w : GainWalk) : State :=
  { s with field := { s.field with walks := SMap.set walkDefault s.field.walks n w } }

/-- The target of the walk: 61–63 act as 60. -/
def State.gainTarget (s : State) (n : Nat) : Nat := min 60 (s.rd (ANA_IN_CFG.gain n))

/-- A new target gain; the command that waited for an earlier one completes CANCELLED. -/
def State.gainWrite (s : State) (n g : Nat) (o : Option CmdRef) : State :=
  let w := s.walk n
  let s1 := (s.wr (ANA_IN_CFG.gain n) g).setWalk n { w with owner := o }
  let s2 := s1.ownerCancel w.owner
  if s2.rd (ANA_IN_STAT.gain_now n) = s2.gainTarget n then (s2.setWalk n { s2.walk n with owner := none }).ownerDone o else s2

/-- A write of ANAn_IN_CFG.gain; in a synced pair it is locked toward the host bridge. -/
def execAnaGainWrite (m : Master) (n : Fin 8) (gain : BitVec 6) (s : State) : Host.Outcome State Fault Refusal :=
  if s.pairLocked m && s.rd (ANA_IN_CFG.gain n.val) ≠ gain.toNat then .next (s.refuseWrite (ANA_STATUS.wr_refused n.val) m)
  else .next (s.gainWrite n.val gain.toNat none)

/-- At a tick a step falls due where the gain in force is not the target. -/
def State.gainTick (s : State) : State :=
  upTo 8 (fun n st =>
    let w := st.walk n
    if !w.due && st.rd (ANA_IN_STAT.gain_now n) ≠ st.gainTarget n then st.setWalk n { w with due := true } else st) s

/-- A step of 1 dB lands. -/
def State.gainStep (s : State) (n : Nat) : State :=
  let w := s.walk n
  if !w.due then s
  else
    let now := s.rd (ANA_IN_STAT.gain_now n)
    let tgt := s.gainTarget n
    let next := if now < tgt then now + 1 else if tgt < now then now - 1 else now
    let s1 := (s.wr (ANA_IN_STAT.gain_now n) next).setWalk n { w with due := false }
    if next = tgt then (s1.setWalk n ⟨false, none⟩).ownerDone w.owner else s1

/-- A due step lands at the input's zero crossing. -/
def execGainStep (n : Fin 8) (s : State) : Host.Outcome State Fault Refusal := .next (s.gainStep n.val)

/-- No crossing within 2 ms: the step lands and gain_to is set. -/
def execGainStepTimeout (n : Fin 8) (s : State) : Host.Outcome State Fault Refusal :=
  if (s.walk n.val).due then .next ((s.flagEvent (ANA_STATUS.gain_to n.val) n.val 0).gainStep n.val) else .next s

/-! ### Capsule supervision (R242) -/

/-- The capsule state of a mean bias current: 0 normal, 1 open, 2 short. -/
def State.biasClass (s : State) (n ua : Nat) : Nat :=
  if ua < s.rd (ANA_BIAS_THR.open_ua n) then 1 else if s.rd (ANA_BIAS_THR.short_ua n) < ua then 2 else 0

/-- ANAn_IN_STAT.bias_state as it reads: off with bias_en clear. -/
def State.biasState (s : State) (n : Nat) : Nat := if s.isSet (ANA_IN_CFG.bias_en n) then s.rd (ANA_IN_STAT.bias_state n) else 3

/-- A capsule state has persisted for 1 s and takes effect. -/
def execBiasStateChange (n : Fin 8) (ua : BitVec 12) (s : State) : Host.Outcome State Fault Refusal :=
  let k := n.val
  if !s.isSet (ANA_IN_CFG.bias_en k) || !s.isSet (ANA_IN_CFG.bsup_en k) then .next s
  else
    let c := s.biasClass k ua.toNat
    let s1 := s.wr (ANA_IN_STAT.bias_ua k) ua.toNat
    if c = s.rd (ANA_IN_STAT.bias_state k) then .next s1
    else
      let s2 := s1.wr (ANA_IN_STAT.bias_state k) c
      if c = 0 then .next s2 else .next (s2.flagEvent (ANA_STATUS.bias_fault k) k c)

/-! ### Output gating (R244, R245) -/

def aoutDefault : Nat → Aout := fun _ => ⟨⟨false, 0, 0, false⟩, 0, 0⟩

def State.aout (s : State) (n : Nat) : Aout := SMap.get aoutDefault s.field.aouts n

def State.setAout (s : State) (n : Nat) (x : Aout) : State :=
  { s with field := { s.field with aouts := SMap.set aoutDefault s.field.aouts n x } }

/-- Output states (R244). -/
def aoHighz : Nat := 0
def aoSettle : Nat := 1
def aoOpening : Nat := 2
def aoRunning : Nat := 3
def aoClosing : Nat := 4
def aoHold : Nat := 5
def aoReleased : Nat := 6

def State.aoState (s : State) (n : Nat) : Nat := s.rd (ANA_OUT_STAT.state n)
def State.setAoState (s : State) (n st : Nat) : State := s.wr (ANA_OUT_STAT.state n) st

/-- Sink table index of an analog output. -/
def aoSink (n : Nat) : Nat := 1024 + n

/-- Whether an output's sink asks for drive: connected and not muted. -/
def State.aoWanted (s : State) (n : Nat) : Bool :=
  let e := s.ent (sinkKey (aoSink n))
  e.connected && !e.muted

/-- The gate closes at a position: HOLD begins. -/
def State.aoClose (s : State) (n pos : Nat) (g : Gate) : State :=
  (s.setAoState n aoHold).setAout n ⟨g, s.cycle, pos⟩

/-- One output at a tick. -/
def State.aoTickOne (s : State) (n : Nat) : State :=
  let st := s.aoState n
  let x := s.aout n
  let want := s.aoWanted n
  if !s.drivesAnalog (Fin.ofNat 8 n) || !s.engineRuns then (if s.engineRuns then s.setAoState n aoReleased else s.setAoState n aoHighz)
  else if st = aoReleased then
    if !want then s.setAoState n aoHighz
    else if s.twin && s.astate = 5 then
      (s.setAoState n aoRunning).setAout n { x with gate := ⟨true, s.cycle, 0, false⟩ }
    else (s.setAoState n aoSettle).setAout n { x with gate := ⟨false, s.cycle, 0, false⟩ }
  else if st = aoHighz then (if want then s.setAoState n aoSettle else s)
  else if st = aoSettle then (if want then s.setAoState n aoOpening else s.aoClose n 0 x.gate)
  else if st = aoOpening then
    if !want then (if x.gate.isOpen then s.setAoState n aoClosing else s.aoClose n 0 x.gate)
    else if x.gate.isOpen then s.setAoState n aoRunning else s
  else if st = aoRunning then (if want then s else s.setAoState n aoClosing)
  else if st = aoClosing then
    if want then s.setAoState n aoOpening
    else if x.gate.isOpen || x.gate.cyc = s.cycle then s else s.aoClose n 0 x.gate
  else (if want then s.setAoState n aoOpening else s)

def State.aoTick (s : State) : State := upTo 8 (fun n st => st.aoTickOne n) s

/-- Whether the output's gate waits for a crossing. -/
def State.aoWaits (s : State) (n : Nat) : Bool :=
  (s.aoState n = aoOpening && !(s.aout n).gate.isOpen) || (s.aoState n = aoClosing && (s.aout n).gate.isOpen)

/-- A crossing of the emitted block opens or closes the gate. A position that is no crossing, or an output that does not wait, changes
nothing. -/
def execAoutGateCrossing (n : Fin 8) (pos : Fin 32) (s : State) : Host.Outcome State Fault Refusal :=
  let k := n.val
  if s.aoWaits k && pos.val < s.blk && s.crossingAt (aoSink k) pos.val then
    let opening := s.aoState k = aoOpening
    let g : Gate := ⟨opening, s.cycle, pos.val, false⟩
    if opening then .next ((s.setAoState k aoRunning).setAout k { s.aout k with gate := g })
    else .next (s.aoClose k pos.val g)
  else .next s

/-- No crossing within zc_to + 1 ms: the gate opens or closes by a ramp on the next block. -/
def execAoutZcTimeout (n : Fin 8) (s : State) : Host.Outcome State Fault Refusal :=
  let k := n.val
  if s.aoWaits k then
    .next ((s.setAout k { s.aout k with gate := ⟨s.aoState k = aoOpening, s.cycle + 1, 0, true⟩ }).flagEvent
      (ANA_STATUS.zc_timeout k) k 0)
  else .next s

/-- Whether HOLD has lasted hold ms at the tick of cycle `a`. -/
def State.aoHoldDue (s : State) (n : Nat) (a : Word) : Bool :=
  let x := s.aout n
  s.aoState n = aoHold &&
    (atLeastOne (s.rd (ANA_OUT_CFG.hold n))) * s.fi + 1000 * x.closePos ≤ since a x.closeCyc * s.blk * 1000

def execAoutHoldEnd (n : Fin 8) (s : State) : Host.Outcome State Fault Refusal :=
  if s.aoHoldDue n.val (s.cycle + 1) then .next (s.setAoState n.val aoHighz) else .next s

def State.aoDue (s : State) (a : Word) : State :=
  upTo 8 (fun n st => if st.aoHoldDue n a then st.setAoState n aoHighz else st) s

/-- The word an analog output sends at a position of this cycle's block; none where it is at high impedance. -/
def State.aoPin (s : State) (n p : Nat) : Option Word :=
  let st := s.aoState n
  if st = aoHighz || st = aoReleased then none
  else if st = aoSettle then some 0
  else
    let w := s.emitWord (aoSink n) p
    let g := (s.aout n).gate
    if g.cyc ≠ s.cycle then some (if g.isOpen then w else 0)
    else if g.ramp then some (scale w (if g.isOpen then rampGain 0 unity s.blk (p + 1) else rampGain unity 0 s.blk (p + 1)))
    else some (if (g.pos ≤ p) = g.isOpen then w else 0)

end Sys2Proof.Machine
end

