-- ==== Sys2Proof/Machine/Sup.lean ====
section
/-! DEFINITION. Field interfaces (10_analog_and_field_io.md, R246–R256): contact inputs, drivers, GPIO, line surveillance. -/

namespace Sys2Proof.Machine

/-! ### Contact inputs (R246–R248) -/

/-- Whether a threshold set is valid: sa < an < no. -/
def State.thrValid (s : State) (t : Nat) : Bool :=
  s.rd (SUP_CIN_THR0.sa t) < s.rd (SUP_CIN_THR0.an t) && s.rd (SUP_CIN_THR0.an t) < s.rd (SUP_CIN_THR1.no t)

/-- The code of a sampled resistance (R247): 0 open, 1 normal, 2 active, 3 short. -/
def State.cinCode (s : State) (n r : Nat) (isForeign : Bool) : Nat :=
  let t := s.rd (SUP_CIN_CFG.thr_set n)
  if isForeign || s.rd (SUP_CIN_THR1.no t) ≤ r then 0
  else if s.rd (SUP_CIN_THR0.an t) ≤ r then 1
  else if s.rd (SUP_CIN_THR0.sa t) ≤ r then 2
  else 3

def State.cinRun (s : State) (n : Nat) : Nat := SMap.get (fun _ => 0) s.field.cinRun n

def State.setCinRun (s : State) (n k : Nat) : State :=
  { s with field := { s.field with cinRun := SMap.set (fun _ => 0) s.field.cinRun n k } }

/-- deb of an input: below 8 acts as 8. -/
def State.cinDeb (s : State) (n : Nat) : Nat := max 8 (s.rd (SUP_CIN_CFG.deb n))

/-- Engine cycles that 8 ms take, rounded up (R505 step 2). -/
def State.wakeCycles (s : State) : Nat := (8 * s.fi + 1000 * s.blk - 1) / (1000 * s.blk)

/-- A wake event of R26 begins the wake sequence of R505. In a synced pair the lead names tick W for both units, and the standby asks
it to (R31). -/
def State.wake (s : State) : State :=
  if s.op = .nightfall && s.pwr.wake.isNone then
    let w0 := s.cycle + BitVec.ofNat 32 (max 1 s.wakeCycles)
    let w := if s.synced && later32 s.earliest w0 then s.earliest else w0
    let say := if s.synced then { s with pair := { s.pair with link := s.pair.link ++ [.go 4 0 w] } } else s
    if s.synced && s.astate ≠ 4 then say
    else { say with pwr := { say.pwr with wake := some ⟨1, w⟩ } }
  else s

/-- A new debounced state: its bits, the triggers that read it, faults, wake. -/
def State.cinDebounced (s : State) (n code : Nat) (mayFault : Bool) : State :=
  let s1 := (s.wr (SUP_CIN_STAT.state n) code).set1 SUP_STATUS.cin_change
  let s2 := if mayFault && s.isSet (SUP_CIN_CFG.sup_en n) && (code = 0 || code = 3) then s1.flagEvent SUP_STATUS.cin_fault n code else s1
  let s3 := if s.planeArmed then s2.cinToTriggers n code else s2
  if s.isSet (SUP_CIN_CFG.wake_en n) then s3.wake else s3

/-- Whether a sampled state has been seen in deb consecutive samples and differs from the debounced one. -/
def State.cinDue (s : State) (n : Nat) : Bool :=
  s.isSet (SUP_CIN_CFG.en n) && s.thrValid (s.rd (SUP_CIN_CFG.thr_set n)) && s.cinDeb n ≤ s.cinRun n
    && s.rd (SUP_CIN_STAT.raw n) ≠ s.rd (SUP_CIN_STAT.state n)

/-- The debounced state changes to the sampled one where that is due. -/
def State.cinSettle (s : State) (n : Nat) : State := if s.cinDue n then s.cinDebounced n (s.rd (SUP_CIN_STAT.raw n)) true else s

/-- A state seen in deb consecutive samples becomes the debounced state. -/
def execCinDebounceComplete (n : Fin 16) (s : State) : Host.Outcome State Fault Refusal := .next (s.cinSettle n.val)

/-- A 1 kHz sample (R246). A change that an earlier sample made due is taken first. A disabled input reads open, and its debounced
state becomes open at once. With an invalid threshold set the debounced state holds and cfg_bad is set. -/
def execCinSample (n : Fin 16) (ohms : BitVec 16) (isForeign : Bool) (s : State) : Host.Outcome State Fault Refusal :=
  let k := n.val
  let s0 := s.cinSettle k
  if !s0.isSet (SUP_CIN_CFG.en k) then
    let s1 := (((s0.wr (SUP_CIN_STAT.raw k) 0).wr (SUP_CIN_STAT.ohms k) 65535).wr (SUP_CIN_STAT.foreign k) 0).setCinRun k 0
    if s0.rd (SUP_CIN_STAT.state k) = 0 then .next s1 else .next (s1.cinDebounced k 0 false)
  else
    let code := s0.cinCode k ohms.toNat isForeign
    let run := if code = s0.rd (SUP_CIN_STAT.raw k) then min 256 (s0.cinRun k + 1) else 1
    let s1 := (((s0.wr (SUP_CIN_STAT.raw k) code).wr (SUP_CIN_STAT.ohms k) ohms.toNat).wrB (SUP_CIN_STAT.foreign k) isForeign).setCinRun k run
    if s1.thrValid (s1.rd (SUP_CIN_CFG.thr_set k)) then .next s1 else .next (s1.flagEvent SUP_STATUS.cfg_bad 0 (s1.rd (SUP_CIN_CFG.thr_set k)))

/-- Debounced changes that no row has taken yet. -/
def State.cinDueAll (s : State) : State := upTo 16 (fun n st => st.cinSettle n) s

/-! ### Drivers (R249–R251) -/

def drvDefault : Nat → Drv := fun _ => ⟨false, false, false, [], 0, 0, 0, 0, 0⟩

def State.drv (s : State) (n : Nat) : Drv := SMap.get drvDefault s.field.drvs n

def State.setDrv (s : State) (n : Nat) (d : Drv) : State :=
  { s with field := { s.field with drvs := SMap.set drvDefault s.field.drvs n d } }

/-- Whether a driver's link to a trigger holds it on. -/
def State.drvLinked (s : State) (n : Nat) : Bool :=
  s.isSet (SUP_DRV_CFG.trig_en n) &&
    (let x := s.trig (s.rd (SUP_DRV_CFG.trig n)); x.asserted && !x.suspended)

/-- Whether a driver is asked to conduct. -/
def State.drvWant (s : State) (n : Nat) : Bool := s.isSet (SUP_DRV_CFG.on n) || s.drvLinked n

/-- A driver's class: the larger of its field and the class of the trigger that holds it on. -/
def State.drvClass (s : State) (n : Nat) : Nat :=
  if s.drvLinked n then max (s.rd (SUP_DRV_CFG.class n)) (s.tClass (s.rd (SUP_DRV_CFG.trig n))) else s.rd (SUP_DRV_CFG.class n)

/-- Whether SQUALL sheds a driver (R249, R499). -/
def State.drvSqualled (s : State) (n : Nat) : Bool :=
  let l := s.rd PWR_STATUS.level
  let c := s.drvClass n
  (l = 1 && c ≤ 2) || (l ≥ 2 && c ≤ 4)

def State.drvShed (s : State) (n : Nat) : Bool := s.drvWant n && ((s.drv n).shedTotal || s.drvSqualled n)

/-- Whether the pin conducts: in READY, RUN, SQUALL and NIGHTFALL (R256), on the unit that conducts (R362). -/
def State.drvConducts (s : State) (n : Nat) : Bool :=
  s.drvWant n && !s.drvShed n && !(s.drv n).retry && !(s.drv n).latched && s.engineRuns &&
    (s.leads || s.pair.lostAt = some s.cycle)

/-- SUP_DRVn_STAT.state. -/
def State.drvCode (s : State) (n : Nat) : Nat :=
  if (s.drv n).latched then 3 else if (s.drv n).retry then 2 else b2n (s.drvWant n && !s.drvShed n)

/-- deb of a driver. -/
def State.drvDeb (s : State) (n : Nat) : Nat := max 8 (s.rd (SUP_DRV_CFG.deb n))

/-- A latch ends when the host has written on = 0 and the link to its trigger has released. -/
def State.drvUnlatch (s : State) (n : Nat) : State :=
  if (s.drv n).latched && !s.drvWant n then s.setDrv n { s.drv n with latched := false, trips := [] } else s

/-- Total current of the conducting drivers in 0.1 mA, by their measured currents. -/
def State.drvTotal (s : State) : Nat :=
  (List.range 16).foldl (fun t n => if s.drvConducts n then t + s.rd (SUP_DRV_STAT.current n) else t) 0

/-- The order of shedding (R251): lowest class first, within a class the highest number first. -/
def State.shedOrder (s : State) : List Nat :=
  (List.range 8).flatMap (fun c => (List.range 16).reverse.filter (fun n => s.drvClass n = c))

/-- One driver's fault counters over a sample (R250): a check runs only while the driver is in the state it needs, so a sample in the
other state ends a run of consecutive ones. -/
def drvCount (s : State) (n cur : Nat) (low : Bool) : Drv :=
  let d := s.drv n
  let on := s.drvConducts n
  let d1 := if !on then { d with wireBad := 0, wireGood := 0 }
    else if cur < s.rd (SUP_DRV_CFG.brk n) then { d with wireBad := min 256 (d.wireBad + 1), wireGood := 0 }
    else { d with wireGood := min 256 (d.wireGood + 1), wireBad := 0 }
  let d2 := if on || !s.leads || !s.isSet (SUP_DRV_CFG.offchk_en n) then { d1 with offBad := 0, offGood := 0 }
    else if low then { d1 with offBad := min 256 (d1.offBad + 1), offGood := 0 }
    else { d1 with offGood := min 256 (d1.offGood + 1), offBad := 0 }
  if on then { d2 with last := cur } else d2

/-- A declared or cleared fault of one driver, where deb samples say so (R250). -/
def State.drvFaults (s : State) (n : Nat) : State :=
  let d := s.drv n
  let deb := s.drvDeb n
  let s1 :=
    if !s.isSet (SUP_DRV_STAT.wire_break n) && deb ≤ d.wireBad then
      (s.wr (SUP_DRV_STAT.wire_break n) 1).flagEvent SUP_STATUS.drv_fault n 0
    else if s.isSet (SUP_DRV_STAT.wire_break n) && deb ≤ d.wireGood then s.wr (SUP_DRV_STAT.wire_break n) 0
    else s
  if !s1.isSet (SUP_DRV_STAT.off_break n) && deb ≤ d.offBad then
    (s1.wr (SUP_DRV_STAT.off_break n) 1).flagEvent SUP_STATUS.drv_fault n 1
  else if s1.isSet (SUP_DRV_STAT.off_break n) && deb ≤ d.offGood then s1.wr (SUP_DRV_STAT.off_break n) 0
  else s1

/-- A condition has persisted for deb samples: the fault is declared or cleared. -/
def execDrvFaultDebounce (n : Fin 16) (s : State) : Host.Outcome State Fault Refusal := .next (s.drvFaults n.val)

/-- The status words of the drivers (they change only at samples). -/
def State.drvSync (s : State) : State :=
  upTo 16 (fun n st =>
    ((st.wr (SUP_DRV_STAT.state n) (st.drvCode n)).wrB (SUP_DRV_STAT.driven n) (st.drvConducts n)).wrB
      (SUP_DRV_STAT.shed n) (st.drvShed n)) s

/-- Shed drivers return where they fit (R251): the reverse of the shed order, each with its own last current. -/
def State.drvReturn (s : State) : State :=
  forAll s.shedOrder.reverse (fun n st =>
    if (st.drv n).shedTotal && st.drvTotal + (st.drv n).last ≤ 5000 then
      (st.setDrv n { st.drv n with shedTotal := false }).wr (SUP_DRV_STAT.current n) (st.drv n).last
    else st) s

/-- A 1 kHz sample of every driver: its current in 0.1 mA, and whether its pin is below 2.0 V. Changes that an earlier sample made due
are taken first. -/
def execDrvSample (currents : List (BitVec 10)) (low : BitVec 16) (s : State) : Host.Outcome State Fault Refusal :=
  let s0 := upTo 16 (fun n st => (st.drvFaults n).drvUnlatch n) s
  let cur (n : Nat) : Nat := (currents.getD n 0).toNat
  let s1 := upTo 16 (fun n st => (st.setDrv n (drvCount st n (cur n) (low.getLsbD n))).wr (SUP_DRV_STAT.current n) (cur n)) s0
  let s2 := s1.drvReturn
  .next ((s2.wr SUP_DRV_TOTAL.ma (s1.drvTotal / 10)).drvSync)

/-- Above 75 mA the driver turns off (R251): it retries after 100 ms; the third trip within 10 s latches it. -/
def execDrvOvercurrent (n : Fin 16) (s : State) : Host.Outcome State Fault Refusal :=
  let k := n.val
  if !s.drvConducts k then .next s
  else
    let d := s.drv k
    let ts := s.cycle :: d.trips.filter (fun c => since s.cycle c ≤ s.cyclesOfMs 10000)
    let s1 := s.flagEvent SUP_STATUS.drv_oc k 0
    if ts.length ≥ 3 then .next (s1.setDrv k { d with latched := true, retry := false, trips := [] })
    else .next (s1.setDrv k { d with retry := true, trips := ts })

/-- 100 ms after a trip the driver retries. -/
def execDrvRetry (n : Fin 16) (s : State) : Host.Outcome State Fault Refusal :=
  .next (s.setDrv n.val { s.drv n.val with retry := false })

/-- The total has been above 500 mA for 1 ms (R251): drivers are shed in order until it is within. -/
def execDrvTotalOverload (s : State) : Host.Outcome State Fault Refusal :=
  .next (forAll s.shedOrder (fun n st =>
    if 5000 < st.drvTotal && st.drvConducts n then
      (st.setDrv n { st.drv n with shedTotal := true }).flagEvent SUP_STATUS.drv_shed n (st.drvClass n)
    else st) s)

/-! ### GPIO (R252) -/

/-- The function of a GPIO in force. -/
def State.gpioFn (s : State) (n : Nat) : Nat := (s.field.gpioFunc.toNat / 4 ^ n) % 4

/-- A change of function or level takes effect at the tick. -/
def State.gpioTick (s : State) : State :=
  { s with field := { s.field with
    gpioFunc := BitVec.ofNat 48 ((s.reg SUP_GPIO_FUNC1).toNat % 65536 * 2 ^ 32 + (s.reg SUP_GPIO_FUNC0).toNat)
    gpioOut := BitVec.ofNat 24 (s.rd SUP_GPIO_OUT.out) } }

/-- Whether the unit drives a GPIO's pin (R256, R362). -/
def State.gpioDrives (s : State) (n : Nat) : Bool :=
  s.engineRuns && (s.drivesPin (.gpio (Fin.ofNat 24 n)) || (s.rd PAIR_SHARED.gpio) / 2 ^ n % 2 = 0)

/-- The level a GPIO drives; none at high impedance. Between strobe pulses a strobe output is low. -/
def State.gpioLevel (s : State) (n : Nat) : Option Bool :=
  let f := s.gpioFn n
  let o := s.field.gpioOut.getLsbD n
  if !s.gpioDrives n then none
  else if f = 1 then some o
  else if f = 2 then some false
  else if f = 3 then (if o then none else some false)
  else none

/-- SUP_GPIO_IN as it reads: the driven level of a driven pad; of any other pad a free value, since an external circuit sets it. -/
def State.gpioIn (s : State) : Word :=
  BitVec.ofNat 32 ((List.range 24).foldl (fun a n =>
    let b := match s.gpioLevel n with
      | some v => v
      | none => (Config.freeValue s.free).getLsbD n
    a + b2n b * 2 ^ n) 0)

/-! ### Line surveillance (R253, R254) -/

def monDefault : Nat → LineMon := fun _ => ⟨0, 0, none, 0, false, none⟩

def State.mon (s : State) (m : Nat) : LineMon := SMap.get monDefault s.field.mons m

def State.setMon (s : State) (m : Nat) (x : LineMon) : State :=
  { s with field := { s.field with mons := SMap.set monDefault s.field.mons m x } }

/-- Whether a monitor runs: enabled, and in NIGHTFALL with nf_en. -/
def State.monRuns (s : State) (m : Nat) : Bool :=
  s.isSet (SUP_LS_CFG.en m) && s.engineRuns && (s.op ≠ .nightfall || s.isSet (SUP_LS_CFG.nf_en m))

/-- |Z| in 0.01 Ω from the magnitudes of Cv and Ci (full scale is 2^24): kz × |Cv| / |Ci|. No value where |Ci| is zero or
the result exceeds 32 bits. -/
def zOf (kz cv ci : Nat) : Option Nat :=
  if ci = 0 then none
  else
    let z := (openDiv ((100 * kz * cv : Nat) : Int) (65536 * ci)).toNat
    if z < 2 ^ 32 then some z else none

/-- The condition of an estimate (R254): 0 good, 1 open, 2 short, 3 no pilot. -/
def State.lsCond (s : State) (m : Nat) (z : Option Nat) : Nat :=
  match z with
  | none => 3
  | some z =>
    let ref := s.rd (SUP_LS_REF.ref m)
    if ref * (100 + s.rd (SUP_LS_DET.open_pct m)) < z * 100 then 1
    else if z * 100 < ref * (100 - s.rd (SUP_LS_DET.short_pct m)) then 2
    else 0

/-- det_s: consecutive estimates; 0 acts as 1. -/
def State.lsDet (s : State) (m : Nat) : Nat := atLeastOne (s.rd (SUP_LS_DET.det_s m))

/-- A fault is declared, or cleared, where det_s consecutive estimates say so. -/
def State.lsDecide (s : State) (m : Nat) : State :=
  let x := s.mon m
  if x.learn.isSome || x.count < s.lsDet m then s
  else if x.cond = 0 then
    if s.rd (SUP_LS_STAT.state m) = 3 || s.rd (SUP_LS_STAT.state m) = 0 then (s.wr (SUP_LS_STAT.state m) 2).wr (SUP_LS_STAT.fault m) 0 else s
  else if s.rd (SUP_LS_STAT.state m) = 3 && s.rd (SUP_LS_STAT.fault m) = x.cond then s
  else ((s.wr (SUP_LS_STAT.state m) 3).wr (SUP_LS_STAT.fault m) x.cond).flagEvent SUP_STATUS.ls_fault m x.cond

def execLsFaultDeclared (m : Fin 32) (s : State) : Host.Outcome State Fault Refusal := .next (s.lsDecide m.val)

/-- A learn begins: the next 10 estimates are averaged. -/
def State.learnStart (s : State) (m : Nat) (o : Option CmdRef) : State :=
  let x := s.mon m
  let s1 := (s.wr (SUP_LS_STAT.state m) 1).setMon m { x with learn := some 0, learnSum := 0, learnBad := false, owner := o }
  (s1.wr (SUP_LS_LEARN.learn m) 1).ownerCancel x.owner

/-- SUP_LSm.learn: while a learn runs, a write of 1 has no effect (R10). It works even while ref is locked. -/
def execLsLearnStart (_ : Master) (m : Fin 32) (s : State) : Host.Outcome State Fault Refusal :=
  if (s.mon m.val).learn.isSome then .next s else .next (s.learnStart m.val none)

/-- The 10th estimate of a learn writes ref: the mean; a free value where an estimate had no value. -/
def State.learnEnd (s : State) (m : Nat) : State :=
  let x := s.mon m
  if x.learn ≠ some 10 then s
  else
    let (v, s1) := if x.learnBad then s.drawFree else (BitVec.ofInt 32 (openDiv (x.learnSum : Int) 10), s)
    let s2 := ((s1.setReg (SUP_LS_REF m) v).wr (SUP_LS_STAT.state m) 2).wr (SUP_LS_LEARN.learn m) 0
    let s3 := s2.setMon m { x with learn := none, learnSum := 0, learnBad := false, owner := none, count := 0 }
    match x.owner with
    | some r => s3.finish r stDone 0 (bytesOfWord v)
    | none => s3

def execLsLearnDone (m : Fin 32) (s : State) : Host.Outcome State Fault Refusal := .next (s.learnEnd m.val)

/-- The estimate of one second from the pilot correlations |Cv| and |Ci|, full scale 2^24. Below 2^−10 of full scale there is no pilot.
Where |Z| has no stated value it is a free value. -/
def execLsEstimate (m : Fin 32) (cv ci : BitVec 25) (s : State) : Host.Outcome State Fault Refusal :=
  let k := m.val
  let s0 := (s.lsDecide k).learnEnd k
  if !s0.monRuns k then .next s0
  else
    let noPilot := cv.toNat < 2 ^ 14
    let z := zOf (s0.rd (SUP_LS_KZ.kz k)) cv.toNat ci.toNat
    let (zv, s1) : Option Nat × State :=
      if noPilot then (none, s0)
      else match z with
        | some v => (some v, s0)
        | none => (some (s0.drawFree).1.toNat, (s0.drawFree).2)
    let s2 := s1.setReg (SUP_LS_Z k) (match zv with | some v => BitVec.ofNat 32 v | none => 0xFFFFFFFF)
    let x := s2.mon k
    match x.learn with
    | some i =>
      .next (s2.setMon k { x with
        learn := some (min 10 (i + 1)), learnSum := x.learnSum + zv.getD 0, learnBad := x.learnBad || zv.isNone })
    | none =>
      let c := s2.lsCond k zv
      let n := if c = x.cond then min 127 (x.count + 1) else 1
      let s3 := (s2.setMon k { x with cond := c, count := n }).wr (SUP_LS_STAT.count k) n
      .next (if s3.rd (SUP_LS_STAT.state k) = 0 then s3.wr (SUP_LS_STAT.state k) 2 else s3)

end Sys2Proof.Machine
end

