-- ==== Sys2Proof/Machine/Vis.lean ====
section
/-! DEFINITION. The Visibility estimator's rules (R281–R284) on the measurements of R277–R280. -/

namespace Sys2Proof.Machine

def zoneDefault : Nat → VisZone := fun _ => ⟨0, 0, 0⟩

def State.zone (s : State) (z : Nat) : VisZone := SMap.get zoneDefault s.msg.zones z

def State.setZone (s : State) (z : Nat) (x : VisZone) : State :=
  { s with msg := { s.msg with zones := SMap.set zoneDefault s.msg.zones z x } }

/-- Whether zone z updates at tick `a` (R281). -/
def State.visDue (s : State) (z : Nat) (a : Word) : Bool :=
  (a - BitVec.ofNat 32 z).toNat % (s.fi / s.blk) = 0

/-- Whether a microphone source is stopped, or its analog input's bias is open or short (R283). -/
def State.micStopped (s : State) (id : Nat) : Bool :=
  let i := id % 4096
  match id / 4096 with
  | 1 => (s.rxOf s.rxInUse i).isNone
  | 2 => s.spState (i / 32) = spStopped
  | 3 =>
    let b := if s.twin && (s.astate = 3 || s.astate = 5) then s.pair.mirrorBias.getD i 0 else s.biasState i
    b = 1 || b = 2
  | 4 => s.decState i = decStopped
  | _ => true

/-- round(2^28 × 10^(g / 2,000)) for g in 0.01 dB (R282): the greatest r with (2r − 1)^2,000 at most 2^58,000 × 10^g. -/
def dbGain (g : Nat) : Nat :=
  let target := 2 ^ 58000 * 10 ^ g
  (List.range 31).foldl (fun r i =>
    let c := r + 2 ^ (30 - i)
    if (2 * c - 1) ^ 2000 ≤ target then c else r) 0

/-- Move a value toward zero by at most d. -/
def towardZero (x : Int) (d : Nat) : Int := if x ≥ 0 then max 0 (x - d) else min 0 (x + d)

/-- Take d from the total of two gains, from the first one first (R281 rule 4). -/
def lowerTotal (a b d : Nat) : Nat × Nat := (a - d, b - (d - a))

/-- A signed number of 0.01 dB shown in 0.1 dB; the rounding is open (notes/assumptions/74.md). -/
def tenths (x : Int) : Nat := bitsOf 16 (openDiv x 10)

/-- Rules 1 to 4 of R281 with a valid index I (in 0.001). -/
def State.visRules (s : State) (z : Nat) (e : VisEst) (i : Nat) (valid : Bool) : VisZone :=
  let x := s.zone z
  let t := s.rd (VIS_TARGET.target z)
  let h := s.rd (VIS_TARGET.hyst z)
  let low := valid && i < t
  let high := valid && i > t + h
  let liftMax := 10 * min 120 (s.rd (VIS_LIM.lift_max z))
  let tiltMax : Int := (10 * min 60 (s.rd (VIS_LIM.tilt_max z)) : Nat)
  let ambMax := 10 * min 120 (s.rd (VIS_AMB.amb_max z))
  let g1 := if s.isSet (VIS_CFG.lift_en z) then
      min liftMax (if low then x.gVis + 50 else if high then x.gVis - 50 else x.gVis)
    else x.gVis
  let m (k : Nat) : Int := ((e.mtis.getD k 0).val : Int)
  let d3 : Int := (m 4 + m 5 + m 6) - (m 0 + m 1 + m 2)
  let t1 : Int := if low then (if d3 < -150 then x.tilt + 25 else if d3 > 150 then x.tilt - 25 else x.tilt)
    else if high then towardZero x.tilt 25 else x.tilt
  let want : Int := max 0 (min (ambMax : Int) ((s.rd (VIS_AMB.slope z) : Int) * (signedOf 16 e.amb.toNat - 10 * (s.rd (VIS_AMB.amb_ref z) : Int))))
  let a1 := if s.isSet (VIS_CFG.amb_en z) then
      (if want.toNat > x.gAmb then min want.toNat (x.gAmb + 100) else max want.toNat (x.gAmb - 100))
    else x.gAmb
  let loud := signedOf 16 e.prog.toNat ≥ 10 * (s.rd (VIS_LIM.ceiling z) : Int)
  let (g2, a2) := if loud then lowerTotal (min g1 x.gVis) (min a1 x.gAmb) 100 else (g1, a1)
  ⟨g2, a2, max (-tiltMax) (min tiltMax t1)⟩

/-- The state region of the output quad of a strip, where it lies in a scratchpad and the quad runs its program. -/
def State.visRegion (s : State) (os : Nat) : Option Nat :=
  match SMap.find s.img.quads (256 + os / 4), s.img.running with
  | some q, some im =>
    if q.disp.bypass then none
    else (im.regions.find? (fun r => r.id = q.disp.region && !r.dram)).map (fun r => r.addr)
  | _, _ => none

/-- The two words of R282 in the lane of the strip. -/
def State.visWrite (s : State) (os g : Nat) (tilt : Int) : State :=
  match s.visRegion os with
  | some a => (s.setMemWord (a + 4 * (os % 4)) (BitVec.ofNat 32 (dbGain g))).setMemWord (a + 16 + 4 * (os % 4)) (wordOf tilt)
  | none => s

/-- Whether a class 5–7 trigger holds a column (R283). -/
def State.alarmHolds (s : State) (m : Nat) : Bool :=
  match SMap.find s.ovr.cols m with
  | some c => (match c.holder with
    | some t => fieldOf (s.reg (OVR_LIVE t 0)) 29 27 ≥ 5
    | none => false)
  | none => false

/-- The index register and the fault after a measurement (R278, R279, R283). -/
def State.visShow (s : State) (z : Nat) (e : VisEst) (micFault : Bool) : State :=
  let s1 := if e.quiet || micFault then s
    else
      let a := ((s.wr (VIS_INDEX.index z) e.index.val).wr (VIS_INDEX.delay z) e.delay.val).wr (VIS_INDEX.valid z) 1
      upTo 7 (fun k st => st.wr (VIS_MTI.mti z k) (e.mtis.getD k 0).val) a
  let s2 := if micFault then s1.wr (VIS_INDEX.valid z) 0 else s1
  let s3 := (s2.wrB (VIS_INDEX.quiet z) e.quiet).wrB (VIS_INDEX.outside z) (decide (signedOf 16 e.prog.toNat < signedOf 16 e.amb.toNat))
  let s4 := (s3.wr (VIS_LVL.prog z) e.prog.toNat).wr (VIS_LVL.amb z) e.amb.toNat
  let was := s.isSet (VIS_INDEX.mic_fault z)
  let s5 := s4.wrB (VIS_INDEX.mic_fault z) micFault
  if micFault && !was then s5.flagEvent MSG_STATUS.vis_fault z 0 else s5

/-- One update of an enabled zone. -/
def State.visUpdate (s : State) (z : Nat) (e : VisEst) : State :=
  let os := s.rd (VIS_CFG.os z)
  let x := s.zone z
  let micFault := e.silent || s.micStopped (s.rd (VIS_MIC.source z))
  let s1 := s.visShow z e micFault
  let y := if s.isSet (VIS_CFG.freeze_ls z) && s.alarmHolds os then x
    else if micFault then
      let (g, a) := lowerTotal x.gVis x.gAmb 100
      ⟨g, a, towardZero x.tilt 50⟩
    else s1.visRules z e (s1.rd (VIS_INDEX.index z)) (s1.isSet (VIS_INDEX.valid z))
  let g := min 1200 (y.gVis + y.gAmb)
  let s2 := ((s1.setZone z y).wr (VIS_CORR.gain z) (tenths g)).wr (VIS_CORR.tilt z) (tenths y.tilt)
  if s.isSet (VIS_CFG.lift_en z) || s.isSet (VIS_CFG.amb_en z) then s2.visWrite os g y.tilt else s2

/-- Whether SQUALL sheds the column of a zone's output strip: the zone holds its corrections (R499). -/
def State.visShed (s : State) (z : Nat) : Bool :=
  let m := s.rd (VIS_CFG.os z)
  (s.col m).shed.isSome && !(s.ocol m).forced

/-- R281: the zone's update, for the tick at which it falls. -/
def execVisUpdate (z : Fin 32) (e : VisEst) (s : State) : Host.Outcome State Fault Refusal :=
  .next (if s.isSet (VIS_CFG.en z.val) && !s.gateShut 8 && !s.visShed z.val && s.visDue z.val (s.cycle + 1) then s.visUpdate z.val e else s)

end Sys2Proof.Machine
end

