-- ==== Sys2Proof/Machine/Pwr.lean ====
section
/-! DEFINITION. Supply, temperature, SQUALL and NIGHTFALL (22_power_thermal_modes.md, R493–R505; R25–R31). -/

namespace Sys2Proof.Machine

/-! ### Conditions of SQUALL (R497, R498, R502) -/

/-- Own conditions: 0 thermal, 1 supply, 2 budget, 3 command. -/
def State.setSquallCond (s : State) (k : Nat) (on : Bool) : State := s.wrB ⟨PWR_STATUS, 26 + k, 1⟩ on

/-- The conditions that count: in a synced pair, those of both units. -/
def State.squallConds (s : State) : Nat := s.rd PWR_STATUS.cond + (if s.synced then s.rd PWR_STATUS.pcond else 0)

/-- The level that SQUALL has now: 2 while the 145 °C condition holds. -/
def State.wantLevel (s : State) : Nat := if s.pwr.hot2 || (s.synced && s.pwr.phot2) then 2 else 1

/-! ### What a shed level does (R499, R501) -/

/-- A ramp of a column under release starts again toward its new target. -/
def State.rerelease (s : State) (a : Word) (m : Nat) (c : XptCol) : State :=
  let o := s.ocol m
  let s1 := s.setCol m c
  if o.releasing.isSome && o.start ≠ a then s1.setOcol m { o with start := a, len := 1, fromG := s.rampFrom a m } else s1

/-- One column at tick `a`: an unforced column ramps to 0 or back; a forced one follows its holder and its banked gains change
silently. -/
def State.shedColumn (s : State) (a : Word) (level m : Nat) : State :=
  let c := s.col m
  let want := shedClass level (s.declClass m)
  let forced := (s.ocol m).forced
  if want && c.shed.isNone then
    if forced then s.rerelease a m { c with shed := some (a - 1), shedFrom := [], back := none }
    else s.setCol m { c with shed := some a, shedFrom := s.snapGains (a - 1) m, back := none }
  else if !want && c.shed.isSome then
    if forced then s.rerelease a m { c with shed := none, shedFrom := [], back := none }
    else s.setCol m { c with shed := none, shedFrom := [], back := some a }
  else s

/-- At a tick the stamps of earlier cycles lapse. -/
def State.shedTick (s : State) : State :=
  forAll s.xpt.cols (fun p st =>
    let c := p.2
    let d := { c with
      shedFrom := if c.shed = some s.cycle then c.shedFrom else []
      back := if c.back = some s.cycle then c.back else none }
    if d = c then st else st.setCol p.1 d) s

/-- The analog outputs that the running image does not enable in SQUALL (R114). -/
def State.squallSilent (s : State) : List Nat :=
  let on := match s.img.running with
    | some im => im.squallAout
    | none => 0
  ((List.range 8).filter (fun n => on / 2 ^ n % 2 = 0)).map aoSink

/-- The shed level changes at tick `a`. -/
def State.setLevel (s : State) (a : Word) (level : Nat) : State :=
  let was := s.level
  let s1 := ((s.wr PWR_STATUS.level level).suspendSync a level)
  let s2 := upTo 1024 (fun m st => st.shedColumn a level m) s1
  let s3 := (((s2.requad a true).playShed level).strmShed level false).drvSync
  if was = 0 && level ≠ 0 then
    forAll s3.squallSilent (fun k st =>
      if (st.ent (sinkKey k)).connected && !st.sinkMuted k then st.autoMute k true .squall a 1 else st) s3
  else if was ≠ 0 && level = 0 then s3.reverseRecord .squall false ((List.range 8).map aoSink) a 1
  else s3

/-- SQUALL is entered at tick `a` with its level. -/
def State.squallEnter (s : State) (a : Word) (level : Nat) : State :=
  let n := s.pwr.pins.length
  let mean := if n = 0 then s.rd PWR_MEAS1.pin else (openDiv ((s.pwr.pins.foldl (fun t x => t + x.toNat) 0 : Nat) : Int) n).toNat
  let s1 := ((s.goto .squall).flagEvent PWR_STATUS.entry 0 level).bump PWR_SQUALL.entries 1
  let s2 := s1.wr PWR_SQUALL.p_entry mean
  if s2.level = level then s2 else s2.setLevel a level

/-- SQUALL is left for RUN or READY at tick `a`. -/
def State.squallLeave (s : State) (a : Word) (dst : OpState) : State :=
  ((s.goto dst).flagEvent PWR_STATUS.exit 0 0).setLevel a 0

/-- RUN is entered at tick `a` (R498): a condition that holds sheds at once, and SQUALL begins at the next tick. -/
def State.enterRun (s : State) (a : Word) : State :=
  let s0 := s.goto .run
  if s.squallConds = 0 then s0
  else
    let s1 := s0.setLevel a s0.wantLevel
    { s1 with pwr := { s1.pwr with plan := some ⟨OpState.squall.code, s1.wantLevel, a + 1⟩ } }

/-- RUN is entered from READY: what is not muted fades in. -/
def State.runFromReady (s : State) (a : Word) : State :=
  let s1 := s.enterRun a
  forAll s1.patch.ents (fun p st =>
    if 1024 ≤ p.1 && p.2.connected && !p.2.muted && p.2.phase = .steady then
      st.setEnt p.1 { p.2 with phase := .unmuting, start := a, ld := 1 }
    else st) s1

/-- A change of state that has been planned. -/
def State.takePlan (s : State) (p : Plan) : State :=
  let s1 := { s with pwr := { s.pwr with plan := none } }
  if p.st = OpState.squall.code then
    (if s1.op = .run then s1.squallEnter s1.cycle p.level
     else if s1.op = .squall && s1.level ≠ p.level then s1.setLevel s1.cycle p.level else s1)
  else if p.st = OpState.run.code && s1.op = .squall then s1.squallLeave s1.cycle .run
  else s1

/-- What the conditions ask for now: the state and its level. -/
def State.squallWish (s : State) : Option (OpState × Nat) :=
  if s.op = .run && s.squallConds ≠ 0 then some (.squall, s.wantLevel)
  else if s.op = .squall && s.squallConds = 0 then some (.run, 0)
  else if s.op = .squall && s.level ≠ s.wantLevel then some (.squall, s.wantLevel)
  else none

/-- The governor at a tick (R498, R502): a unit that is not in a synced pair acts alone; the lead forwards the change with its apply
cycle; the standby reports its conditions. -/
def State.squallTick (s : State) : State :=
  let s0 := if s.synced then
      { s with pair := { s.pair with
          link := s.pair.link ++ [.power (BitVec.ofNat 4 (s.rd PWR_STATUS.cond)) s.pwr.hot2] } }
    else s
  match s0.pwr.plan with
  | some p => if later32 p.apply s0.cycle then s0 else s0.takePlan p
  | none =>
    match s0.squallWish with
    | none => s0
    | some (st, lv) =>
      if !s0.synced then s0.takePlan ⟨st.code, lv, s0.cycle⟩
      else if s0.astate = 4 then
        { s0 with
          pwr := { s0.pwr with plan := some ⟨st.code, lv, s0.earliest⟩ }
          pair := { s0.pair with link := s0.pair.link ++ [.go (Fin.ofNat 8 st.code) (Fin.ofNat 3 lv) s0.earliest] } }
      else s0

/-! ### System start and stop (R26–R28) -/

/-- The system start command at its tick. -/
def State.systemStart (s : State) : State :=
  let s1 := { s with pwr := { s.pwr with started := true } }
  if s1.op = .ready then s1.runFromReady s1.cycle else s1

/-- The system stop command at its tick: every sink that is not muted is muted over B samples, and waits for the next start as the
unmute records of an image do. -/
def State.systemStop (s : State) : State :=
  let a := s.cycle
  let s1 := if s.op = .squall then s.squallLeave a .ready else s.goto .ready
  let live := s1.patch.ents.filter (fun p => 1024 ≤ p.1 && p.2.connected && !p.2.muted)
  let s2 := forAll live (fun p st =>
    let k := p.1 - 1024
    let st1 := st.commitPatch ⟨a, 2, 1, k, 0, none, none⟩ a
    if p.2.record = some .plane then st1
    else { st1 with patch := { st1.patch with image := st1.patch.image ++ [⟨a, 3, 1, k, 0, none, none⟩] } }) s1
  { s2 with pwr := { s2.pwr with started := false, plan := none } }

/-- A trigger that asserts at this tick takes READY to RUN and wakes NIGHTFALL (R26, R27, R29). -/
def State.trigState (s : State) : State :=
  if s.assertedList.any (fun t => (s.trig t).since = s.cycle) then
    (if s.op = .ready then s.runFromReady s.cycle else if s.op = .nightfall then s.wake else s)
  else s

/-! ### NIGHTFALL (R503–R505) -/

/-- Sinks that select an output strip named by a monitor with nf_en stay (R504). -/
def State.nfKept (s : State) (os : Nat) : Bool :=
  (List.range 32).any (fun m => s.isSet (SUP_LS_CFG.en m) && s.isSet (SUP_LS_CFG.nf_en m) && s.rd (SUP_LS_CFG.os m) = os)

/-- Step 1, at tick N. -/
def State.nightfall (s : State) (owner : Option CmdRef) : State :=
  let a := s.cycle
  let s1 := s.goto .nightfall
  let s2 := s1.strmShed s1.level true
  let s3 := forAll (s2.msg.players.map (fun q => q.1)) (fun p st =>
    if (st.player p).run.isSome then st.playStop p stShed else st) s2
  let live := s3.patch.ents.filter (fun p => 1024 ≤ p.1 && p.2.connected && !p.2.muted && !s3.nfKept p.2.sel)
  let s4 := forAll live (fun p st => st.autoMute (p.1 - 1024) true .nightfall a 1) s3
  { s4 with pwr := { s4.pwr with nf := some ⟨a, 1, owner, 0, 0, 0⟩, plan := none } }

/-- Step 2, for tick `a`. -/
def State.nightBypassStep (s : State) (a : Word) (n : NfRun) : State :=
  ({ s with pwr := { s.pwr with nf := some { n with stage := 2 } } }).requad a false

/-- The gates that NIGHTFALL closes: clusters 1–3, NETB, VIS and the debug UART. -/
def nightGates : List Nat := [1, 2, 3, 7, 8, 9]

/-- Step 3, for tick `a`. -/
def State.nightDuskStep (s : State) (n : NfRun) : State :=
  let was := s.rd MEM_DUSK.req
  let req := was % 2 + 30
  let s1 := { s with pwr := { s.pwr with
    nf := some { n with stage := 3, owner := none, dusk := was, gates := s.rd CLK_GATE_REQ.req, lanes := s.pairRd PAIR_LINK.lanes } } }
  let s2 := s1.wr MEM_DUSK.req req
  let s3 := ({ s2 with ms := { s2.ms with duskWant := req } }).duskTick
  let s4 := forAll nightGates (fun k st => st.gateClose k) s3
  let s5 := if s4.twin && s4.pairRd PAIR_LINK.state ≠ 0 then s4.pairWr PAIR_LINK.lanes 1 else s4
  let s6 := if s5.rd (NET_STATUS.link 0) = 2 then s5.linkChange 0 1 else s5
  match n.owner with
  | some r => s6.finish r stDone 0 []
  | none => s6

/-- The next step of an entry where it is due at tick `a`. -/
def State.nightDue (s : State) (a : Word) : State :=
  match s.pwr.nf with
  | none => s
  | some n =>
    if n.stage = 1 && !later32 (n.tick + 1) a then s.nightBypassStep a n
    else if n.stage = 2 && !later32 (n.tick + 2) a then s.nightDuskStep n
    else s

def execNightfallBypass (s : State) : Res :=
  .next (match s.pwr.nf with
    | some n => if n.stage = 1 then s.nightDue (s.cycle + 1) else s
    | none => s)

def execNightfallDusk (s : State) : Res :=
  .next (match s.pwr.nf with
    | some n => if n.stage = 2 then s.nightDue (s.cycle + 1) else s
    | none => s)

/-- Tick W (R505 step 2): gates open, Dusk ends, the link lanes restart. -/
def State.wakeGates (s : State) (w : Word) : State :=
  let s1 := { s with pwr := { s.pwr with wake := some ⟨2, w⟩ } }
  match s.pwr.nf with
  | some n =>
    if n.stage < 3 then s1
    else
      let s2 := forAll (nightGates.filter (fun k => n.gates / 2 ^ k % 2 = 0)) (fun k st => st.gateOpen k) s1
      let s3 := s2.wr MEM_DUSK.req n.dusk
      let s4 := { s3 with ms := { s3.ms with duskWant := n.dusk } }
      if s4.twin && s4.pairRd PAIR_LINK.state ≠ 0 then s4.pairWr PAIR_LINK.lanes n.lanes else s4
  | none => s1

/-- Tick W + 1 (R505 step 4): RUN; quads, sinks and streams return, and the commands that waited for wake are decided next (R25). -/
def State.wakeRun (s : State) (a : Word) : State :=
  let s1 := { s with
    pwr := { s.pwr with nf := none, wake := none }
    q := { s.q with fetched := s.q.nightWait ++ s.q.fetched, nightWait := [] } }
  let s2 := (s1.enterRun a).requad a true
  let ks := (s2.patch.ents.filter (fun p => 1024 ≤ p.1)).map (fun p => p.1 - 1024)
  let s3 := (s2.reverseRecord .nightfall false ks a 1).strmShed s2.level false
  forAll (s3.q.outst.filter (fun o => o.cmd.op = 0x0003 && o.phase = .fixed)) (fun o st => st.finish o.cmd.ref stDone 0 []) s3

/-- The next step of a wake sequence where it is due at tick `a`. -/
def State.wakeDue (s : State) (a : Word) : State :=
  match s.pwr.wake with
  | none => s
  | some w =>
    if w.stage = 1 && !later32 w.tick a then s.wakeGates a
    else if w.stage = 2 && later32 a w.tick then s.wakeRun a
    else s

def execWakeEvent (s : State) : Res := .next s.wake

def execWakeGatesOpen (s : State) : Res :=
  .next (match s.pwr.wake with
    | some w => if w.stage = 1 then s.wakeGates (s.cycle + 1) else s
    | none => s)

def execWakeRun (s : State) : Res :=
  .next (match s.pwr.wake with
    | some w => if w.stage = 2 && later32 (s.cycle + 1) w.tick then s.wakeRun (s.cycle + 1) else s
    | none => s)

/-! ### Measurements and thresholds (R493, R496–R498) -/

/-- Whether the block is powered. -/
def State.powered (s : State) : Bool := s.op ≠ .off

/-- The mean of a sensor's last samples in 0.1 °C. -/
def sensorMean (l : List (BitVec 16)) : Int :=
  if l.isEmpty then 0 else openDiv (l.foldl (fun (t : Int) x => t + x.toInt) 0) l.length

/-- Tj: the highest of the means. -/
def tjOf (l : List (List (BitVec 16))) : Int :=
  match l.map sensorMean with
  | [] => 0
  | x :: xs => xs.foldl max x

/-- Tj in 0.1 °C as PWR_MEAS1 reports it. -/
def State.tj (s : State) : Int := signedOf 16 (s.rd PWR_MEAS1.tj)

/-- The warning and exit temperatures in 0.1 °C: a field outside its range acts as the nearer limit. -/
def State.warnTj (s : State) : Int := 10 * (max 85 (min 125 (s.rd PWR_CFG.warn)) : Nat)
def State.exitTj (s : State) : Int := 10 * (max 100 (min 130 (s.rd PWR_CFG.exit_tj)) : Nat)

/-- A sample of the five sensors (R496, R497). -/
def execThermalSample (t0 t1 t2 t3 t4 : BitVec 16) (s : State) : Res :=
  .next (if !s.powered then s
  else
    let old (k : Nat) := s.pwr.sensors.getD k []
    let rows := [(t0 :: old 0).take 8, (t1 :: old 1).take 8, (t2 :: old 2).take 8, (t3 :: old 3).take 8, (t4 :: old 4).take 8]
    let t := tjOf rows
    let s1 := (s.wr PWR_MEAS1.tj (bitsOf 16 t))
    let peak := if s.pwr.tjFresh then t else max t (signedOf 16 (s.rd PWR_TJ_MAX.tj))
    let s2 := s1.wr PWR_TJ_MAX.tj (bitsOf 16 peak)
    let warned := if t ≥ s.warnTj then true else if t < s.warnTj - 50 then false else s.pwr.warned
    let s3 := { s2 with pwr := { s2.pwr with
      sensors := rows
      tjFresh := false
      warned := warned
      hot2 := s2.pwr.hot2 || decide (t ≥ 1450) } }
    let s4 := if warned && !s.pwr.warned then s3.flagEvent PWR_STATUS.warn 0 (bitsOf 16 t) else s3
    if t ≥ 1350 then s4.setSquallCond 0 true else s4)

/-- Tj has stayed below the exit temperature for 10 s. -/
def execThermalExitTimer (hot2 : Bool) (s : State) : Res :=
  .next (if hot2 then (if s.tj < 1400 then { s with pwr := { s.pwr with hot2 := false } } else s)
  else if s.tj < s.exitTj then s.setSquallCond 0 false else s)

/-- VSYS has stayed below squall_v for 1 s. -/
def execSupplyLowTimer (s : State) : Res :=
  .next (if s.powered && s.rd PWR_CFG.squall_v ≠ 0 && s.rd PWR_MEAS0.vsys < 100 * s.rd PWR_CFG.squall_v then
    s.setSquallCond 1 true else s)

/-- VSYS has stayed at squall_v + 1.0 V for 60 s. -/
def execSupplyClearTimer (s : State) : Res :=
  .next (if s.rd PWR_MEAS0.vsys ≥ 100 * s.rd PWR_CFG.squall_v + 1000 then s.setSquallCond 1 false else s)

/-- Input power has exceeded the budget for 100 ms. -/
def execBudgetExceeded (s : State) : Res :=
  .next (if s.powered && s.rd PWR_BUDGET.budget ≠ 0 && s.rd PWR_MEAS1.pin > s.rd PWR_BUDGET.budget then s.setSquallCond 2 true else s)

/-- A write of PWR_BUDGET clears the budget condition at 0 or at 110 % of p_entry (R498). -/
def State.budgetWritten (s : State) : State :=
  let b := s.rd PWR_BUDGET.budget
  if b = 0 || 100 * b ≥ 110 * s.rd PWR_SQUALL.p_entry then s.setSquallCond 2 false else s

/-- A supply sample (R493): a flag is set, and its event logged, where it was clear. -/
def execVsysSample (mv ma p10 : BitVec 16) (s : State) : Res :=
  .next (if !s.powered then s
  else
    let s1 := (((s.wr PWR_MEAS0.vsys mv.toNat).wr PWR_MEAS0.isys ma.toNat).wr PWR_MEAS1.pin p10.toNat)
    let s2 := { s1 with pwr := { s1.pwr with pins := (p10 :: s1.pwr.pins).take 1000 } }
    let s3 := if mv.toNat < 9000 && !s2.isSet PWR_STATUS.vsys_low then s2.flagEvent PWR_STATUS.vsys_low 0 mv.toNat else s2
    if mv.toNat > 36500 && !s3.isSet PWR_STATUS.vsys_high then s3.flagEvent PWR_STATUS.vsys_high 0 mv.toNat else s3)

/-- A VAUX load above 650 mA (R494). -/
def execVauxOvercurrent (s : State) : Res :=
  .next (if !s.isSet PWR_VAUX.on then s
  else
    let s1 := (s.wr PWR_VAUX.on 0).flagEvent PWR_STATUS.vaux_oc 0 0
    { s1 with pwr := { s1.pwr with auxOff := true } })

/-- A retry of VAUX after an overload; `ok` that the load stays within 650 mA. -/
def execVauxRetry (ok : Bool) (ma : BitVec 16) (s : State) : Res :=
  .next (if !s.pwr.auxOff || !ok then s
  else
    let s1 := (s.wr PWR_VAUX.on 1).wr PWR_VAUX.ma ma.toNat
    { s1 with pwr := { s1.pwr with auxOff := false } })

/-- A read of PWR_TJ_MAX resets it: the next sample starts it again. -/
def execPwrTjMaxRead (s : State) : Res :=
  .next { (s.setReg PWR_TJ_MAX 0) with lastRead := s.reg PWR_TJ_MAX, pwr := { s.pwr with tjFresh := true } }

/-! ### FAULT-HOLD (R26, R30) -/

/-- A grade of 0 takes the device to FAULT-HOLD: the engine stops, the plane is inactive. -/
def State.faultHold (s : State) : State :=
  if s.engineRuns && s.rd SYS_STATE.grade = 0 && s.flt.conds.any (fun c => gradeOfCause c.1 = 0) then s.goto .faultHold else s

end Sys2Proof.Machine
end

