-- ==== Sys2Proof/Machine/Boot.lean ====
section
/-! DEFINITION. Power transitions, clock start-up, boot and recovery boot (R26, R323–R329, R437–R442, R369, R497). Each row of the
boot timeline takes effect in the step of R437 or R326 that it belongs to, and changes nothing in another. -/

namespace Sys2Proof.Machine

/-! ### Supply, PORST_N and the regulator -/

/-- Change the boot state. -/
def State.mapBoot (s : State) (f : BootState → BootState) : State := { s with boot := f s.boot }

/-- Sample the straps (R335, R347, R437): TWINEN and UNITSEL once per PORST_N release, the others at every boot. -/
def State.sampleStraps (s : State) : State :=
  let p := s.boot.pins
  let s1 := if s.boot.sampled then s
    else (s.wrB SYS_STATE.twin p.twinen).wrB SYS_STATE.unit p.unitsel
  ((s1.wr SYS_STATE.bootsel p.bootsel.val).wr REF_STATUS.pins p.refsel.val).mapBoot (fun b => { b with sampled := true })

/-- VSYS rises with PORST_N high: step 1 of R437. -/
def execPowerOn (p : Straps) (s : State) : Res :=
  .next (if s.boot.vsysOk then s
  else
    let s1 := s.mapBoot (fun b => { b with vsysOk := true, porstHigh := true, pins := p, cutoff := false, sampled := false })
    s1.toBoot 0 true false 1)

def execVsysFall (s : State) : Res :=
  .next ((s.toOff true).mapBoot (fun b => { b with vsysOk := false, cutoff := false }))

def execPorstNLow (s : State) : Res :=
  .next ((s.toOff false).mapBoot (fun b => { b with porstHigh := false }))

/-- PORST_N rises: with VSYS present and the regulator on the internal reset releases, and clock start-up begins (R326, R347). -/
def execPorstNRelease (p : Straps) (s : State) : Res :=
  .next (if s.boot.porstHigh then s
  else
    let s1 := s.mapBoot (fun b => { b with porstHigh := true, pins := p })
    if s1.boot.vsysOk && !s1.boot.cutoff && s1.op = .off then ((s1.toBoot 1 false false 2).wr PWR_VAUX.on 1).sampleStraps else s1)

def execRegulatorCutoff (s : State) : Res :=
  .next (if s.op = .off then s else (s.toOff false).mapBoot (fun b => { b with cutoff := true }))

def execRegulatorRestart (p : Straps) (s : State) : Res :=
  .next (if s.boot.cutoff then
    (s.mapBoot (fun b => { b with cutoff := false, pins := p, vsysOk := true, porstHigh := true })).toBoot 7 false false 1
  else s)

/-- Whether the device is in BOOT with a given step reached. -/
def State.booting (s : State) (step : Nat) : Bool := s.op = .boot && s.boot.step = step

def State.bootStep (s : State) (step : Nat) : State := s.mapBoot (fun b => { b with step := step })

/-! ### TWPC_IN (R369) -/

/-- A low level on TWPC_IN: below 1 ms it is ignored, below 20 ms it is logged, from 20 ms the rails go off, unless the hold signal
stops them. -/
def execTwpcInPulse (ms : BitVec 16) (s : State) : Res :=
  .next (if !s.twin || s.op = .off || ms.toNat < 1 then s
  else if ms.toNat < 20 then s.event 0x070C 0 (ms.setWidth 32)
  else if s.pair.hold then s
  else s.railsOff.mapBoot (fun b => { b with twpc := true }))

/-- The 200 ms of rail-off end: a boot as after a cold reset. -/
def execTwpcRailOffEnd (s : State) : Res :=
  .next (if !s.pair.railOff then s
  else
    let s1 := { s with pair := { s.pair with railOff := false } }
    ((s1.toBoot 6 false false 1).mapBoot (fun b => { b with twpc := s.boot.twpc })).wr PWR_VAUX.on (s.rd PWR_VAUX.on))

/-! ### Clocks (R323–R329) -/

/-- A failure found by the supervisor: the pins go to the safe state and the device waits in CLOCK-WAIT (R328). What is staged in the
log is lost (R492). -/
def State.clockTrip (s : State) (cause : Nat) : State :=
  let s1 := (s.wr CLK_STATUS.cause cause).bump CLK_FAILCNT.trips 1
  let s2 := (s1.set1 CLK_STATUS.sup_trip).wr CLK_STATUS.irc_run 1
  let s3 := if cause ≤ 3 then (s2.wr CLK_STATUS.xtal_ok 0).wr CLK_STATUS.pll_lock 0 else if cause = 4 then s2.wr CLK_STATUS.pll_lock 0 else s2
  let lost := s3.log.staged.length
  let s4 := { s3 with log := { s3.log with staged := [], lostNew := s3.log.lostNew + lost } }
  let s5 := ((s4.wr LOG_STAGED.count 0).setReg LOG_NEXT (s4.reg LOG_NEXT - BitVec.ofNat 32 lost)).bump LOG_LOST.count lost
  let s6 := if lost = 0 then s5 else s5.set1 LOG_STATUS.lost
  let s7 := s6.event 0x0101 (BitVec.ofNat 32 cause) s6.cycle
  if s7.op = .faultHold then s7 else s7.goto .clockWait

def execRailsInRegulation (s : State) : Res :=
  .next (if s.booting 1 && !s.pair.railOff then (s.bootStep 2).wrB PWR_VAUX.on (!s.pwr.auxOff) else s)

def execIrcQualified (s : State) : Res :=
  .next (if s.booting 2 then ((s.bootStep 3).wr CLK_QUAL.irc 64).sampleStraps else s)

def execCrystalQualified (s : State) : Res :=
  .next (if s.booting 3 then ((s.bootStep 4).wr CLK_QUAL.xtal 64).wr CLK_STATUS.xtal_ok 1 else s)

def execCrystalQualTimeout (s : State) : Res :=
  .next (if s.booting 2 || s.booting 3 then s.clockTrip 2 else s)

def execRootPllLock (s : State) : Res :=
  .next (if s.booting 4 then (s.bootStep 5).wr CLK_STATUS.pll_lock 1 else s)

def execPllLockTimeout (s : State) : Res := .next (if s.booting 4 then s.clockTrip 4 else s)

/-- Whether the PLL runs the logic. -/
def State.pllRuns (s : State) : Bool := s.isSet CLK_STATUS.pll_lock && (s.op = .boot || s.engineRuns || s.op = .faultHold)

/-- 10 ms after the lock the IRC stops. -/
def execIrcStop (s : State) : Res := .next (if s.pllRuns then s.wr CLK_STATUS.irc_run 0 else s)

/-- The check of each second: two consecutive failing windows are a crystal-frequency failure (R325). -/
def execIrcPeriodicCheck (ok : Bool) (s : State) : Res :=
  .next (if s.pllRuns && !s.isSet CLK_STATUS.irc_run && !ok then s.clockTrip 2 else s)

/-- A failure of R327. During a retry it makes the retry one that failed (R330). -/
def execClockSupervisorTrip (cause : BitVec 4) (s : State) : Res :=
  if cause.toNat = 0 || cause.toNat > 6 then .fault .illFormed
  else .next (if s.op = .off then s
  else if s.op = .clockWait then
    let s1 := ((s.wr CLK_STATUS.cause cause.toNat).bump CLK_FAILCNT.trips 1).set1 CLK_STATUS.sup_trip
    (s1.bump CLK_FAILCNT.retries 1).mapBoot (fun b => { b with retries := b.retries + 1 })
  else s.clockTrip cause.toNat)

/-- A retry: where it qualifies every source, BOOT resumes at crystal qualification; the cause of the boot and the ring epoch count
stay (R329). -/
def execClockWaitRetry (ok : Bool) (s : State) : Res :=
  .next (if s.op ≠ .clockWait then s
  else if ok then
    let s1 := (s.bootState false false).wr SYS_RST_CAUSE.cause (s.rd SYS_RST_CAUSE.cause)
    let s2 := ((s1.wr REF_STATUS.pins (s.rd REF_STATUS.pins)).wr SYS_STATE.bootsel (s.rd SYS_STATE.bootsel)).wr CLK_QUAL.irc 64
    (s2.wr PWR_VAUX.on (s.rd PWR_VAUX.on)).mapBoot (fun b => { b with step := 3, retries := 0 })
  else
    ((s.bump CLK_FAILCNT.retries 1).flagEvent CLK_STATUS.retry_fail 0 0).mapBoot (fun b => { b with retries := b.retries + 1 }))

/-! ### DRAM and firmware (R437, R439, R440) -/

def execDramTrained (ok : Bool) (s : State) : Res :=
  .next (if !s.booting 5 then s else if ok then s.bootStep 6 else s.goto .faultHold)

/-- A firmware container's key of slot k. -/
def fwKey (b : Bytes) (k : Nat) : List Byte := sliceOf b (0x20 + 64 * k) 64

/-- Whether a container's key of slot k is verified (R439). -/
def State.fwKeyOk (s : State) (b : Bytes) (k : Nat) : Bool :=
  s.keyUsable k && sha256 (fwKey b k) = SMap.get (fun _ => 0) s.sec.otp k

/-- The verified keys of a container. -/
def State.fwKeys (s : State) (b : Bytes) : SMap (List Byte) :=
  ((List.range 3).filter (fun k => s.fwKeyOk b k)).map (fun k => (k, fwKey b k))

/-- Whether a container's magic, version of the format and lengths are right. -/
def fwShape (b : Bytes) (window : Nat) : Bool :=
  let len := u32 b 0x08
  u32 b 0 = 0x5746584C && u16 b 4 = 1 && len % 16 = 0 && len ≤ window && u32 b 0xE0 ≤ 786432
    && 0xF0 + u32 b 0xE0 + u32 b 0xE4 + 64 = len

/-- Why a container fails: its form is 1, its key or signature 2. -/
def State.fwFail (s : State) (b : Bytes) : Option Nat :=
  let k := u8 b 0x10
  let sig := u32 b 0x08 - 64
  if !fwShape b 0x1000000 then some 1
  else if k < 3 && s.fwKeyOk b k
      && ecdsaOk (fwKey b k) (sha256 (sliceOf b 0 sig)) (sliceOf b sig 64) then none
  else some 2

def State.fwAt (s : State) (k : Nat) : Bytes := (SMap.get slotDefault s.img.fw k).at

def fwMetaDefault : Nat → FwMeta := fun _ => ⟨false, 0, false⟩

def State.fwMeta (s : State) (k : Nat) : FwMeta := SMap.get fwMetaDefault s.sec.fwMeta k

def State.setFwMeta (s : State) (k : Nat) (x : FwMeta) : State :=
  { s with sec := { s.sec with fwMeta := SMap.set fwMetaDefault s.sec.fwMeta k x } }

/-- The order in which the ROM tries the slots: the larger version first, a trial-failed slot last. -/
def State.fwOrder (s : State) : List Nat :=
  let v0 := u32 (s.fwAt 0) 0x0C
  let v1 := u32 (s.fwAt 1) 0x0C
  let t0 := (s.fwMeta 0).trialFailed
  let t1 := (s.fwMeta 1).trialFailed
  if t0 && !t1 then [1, 0] else if t1 && !t0 then [0, 1] else if v0 < v1 then [1, 0] else [0, 1]

/-- Recovery boot (R442): the ROM listens. -/
def State.recovery (s : State) : State := s.wr SEC_RECOV.state 1

/-- Start the firmware of a slot: CODE to system SRAM, DATA to DRAM, remap, the watchdog runs; the start of an unconfirmed slot is
counted, and the second without confirmation makes it trial-failed. -/
def State.fwStart (s : State) (k : Nat) : State :=
  let b := s.fwAt k
  let code := sliceOf b 0xF0 (u32 b 0xE0)
  let data := sliceOf b (0xF0 + u32 b 0xE0) (u32 b 0xE4)
  let x := s.fwMeta k
  let s1 := if x.confirmed then s
    else s.setFwMeta k { x with starts := x.starts + 1, trialFailed := x.trialFailed || decide (x.starts + 1 ≥ 2) }
  let s2 := { s1 with
    sec := { s1.sec with keys := s1.fwKeys b }
    img := { s1.img with fwRun := k }
    flt := { s1.flt with codeCrc := crc32 code, kick := s1.cycle } }
  let s3 := (s2.setBytes 0x10000000 code).setBytes 0xB6000000 data
  ((s3.wr SYS_REMAP.remap 1).wr SEC_STATUS.fw_slot k).bootStep 7

/-- Try the slots in order. -/
def State.fwTry (s : State) : List Nat → State
  | [] => s.recovery
  | k :: ks =>
    match s.fwFail (s.fwAt k) with
    | none =>
      if s.rd SYS_STATE.bootsel = 2 && !s.isSet SEC_STATUS.jtag_locked then { s with spi := { s.spi with halted := true } }
      else s.fwStart k
    | some c =>
      let s1 := ((s.event 0x4201 (BitVec.ofNat 32 k) (BitVec.ofNat 32 c)).set1 SEC_STATUS.fw_fallback).mapBoot
        (fun b => { b with fallback := b.fallback ++ [k] })
      s1.fwTry ks

/-- The ROM selects, verifies and loads firmware. -/
def execFirmwareLoad (s : State) : Res :=
  .next (if !s.booting 6 || s.rd SEC_RECOV.state ≠ 0 then s
  else if s.rd SYS_STATE.bootsel = 1 then s.recovery
  else s.fwTry s.fwOrder)

/-! ### The engine image and READY (R108, R140, R145, R437 steps 8 and 9) -/

/-- The stored override tables: the newer one whose CRC passes, else none (R108). -/
def State.storedTable (s : State) : Option OvrTable :=
  (s.ovr.stored.filter (fun t => t.crcOk)).foldl (fun best t =>
    match best with
    | none => some t
    | some b => if later16 (BitVec.ofNat 16 t.age) (BitVec.ofNat 16 b.age) then some t else some b) none

/-- The live table as a boot loads it. -/
def State.loadTable (s : State) : State :=
  let s1 := match s.storedTable with
    | some t =>
      let a := forAll t.words (fun p st => st.setReg (0x40220000 + p.1) p.2) s
      let b := forAll t.classes (fun p st => st.setReg p.1 p.2) a
      { (b.wr OVR_GEN.count t.age) with ovr := { b.ovr with second := t.words } }
    | none => if s.ovr.stored.isEmpty then s else (s.flagEvent OVR_STATUS.both_bad 0 0).raiseCond 13 0
  s1.setReg OVR_LIVE_CRC s1.liveCrc

/-- Load an engine image slot, marking it. -/
def State.bootSlot (s : State) (k : Nat) : State × Bool :=
  match s.checkSlot k with
  | (s1, .ok im) => (((s1.loadImage k im).queuePatch im 0), true)
  | (s1, .error _) => (s1, false)

/-- What READY brings: the channel's new epoch, the log entries of the boot, the role of a pair member, the confirmation of the
firmware, the conditions of stored messages; the first tick is cycle 0. -/
def State.ready (s : State) : State :=
  let s0 := s.setReg ENG_CYCLE 0
  let s1 := (s0.goto .ready).bootStep 8
  let s2 := s1.event 0x0001 (BitVec.ofNat 32 (s1.rd SYS_RST_CAUSE.cause)) (s1.reg CMD_EPOCH)
  let s3 := if s2.boot.twpc then (s2.event 0x070D 0 0).mapBoot (fun b => { b with twpc := false }) else s2
  let s4 := (s3.setReg SEC_MGMT_EPOCH (s3.reg SEC_MGMT_EPOCH + 1)).setFwMeta s3.img.fwRun
    ⟨true, 0, (s3.fwMeta s3.img.fwRun).trialFailed⟩
  let (nonce, s5) := s4.drawFree
  let s6 := (s5.setReg SEC_WP_CHAL nonce).ptpRestart
  let s7 := if s6.twin then s6.setAstate 1 else s6
  let s8 := forAll (s7.msg.dir.map (fun p => p.1)) (fun m st => st.msgConds m) s7
  s8.setReg ENG_CYCLE 0xFFFFFFFF

/-- The pinned slot, else the other one if it is VALID, else FAULT-HOLD. -/
def execBootImageLoad (s : State) : Res :=
  .next (if !s.booting 7 then s
  else
    let s0 := s.loadTable
    let k := s0.img.pinned
    match s0.bootSlot k with
    | (s1, true) => s1.ready
    | (s1, false) =>
      let s2 := s1.event 0x3103 (s1.rd SYS_STATE.unit) (BitVec.ofNat 32 k)
      if (s2.imgSlot (1 - k)).state = .valid then
        match s2.bootSlot (1 - k) with
        | (s3, true) => s3.ready
        | (s3, false) => s3.goto .faultHold
      else s2.goto .faultHold)

/-- A pinned message head is in DRAM (R441). -/
def execHeadLoadDone (m : Fin 8192) (s : State) : Res :=
  .next (if s.engineRuns && (s.msgEntry m.val).valid && (s.msgEntry m.val).alarm && m.val ∉ s.boot.heads then
    s.mapBoot (fun b => { b with heads := b.heads ++ [m.val] }) else s)

/-! ### Recovery boot (R442) -/

/-- Size of the recovery window. -/
def recovWindow : Nat := 0x2000000

/-- A write of SEC_RECOV: kind and slot, and with go the check of the container. -/
def State.recovGo (s : State) (v : Word) : State :=
  let was := s.rd SEC_RECOV.state
  let s1 := (s.wrB SEC_RECOV.kind (v.getLsbD 1)).wrB SEC_RECOV.slot (v.getLsbD 0)
  if !v.getLsbD 2 then s1
  else if was = 2 then (s.wr SEC_RECOV.state 1).wr SEC_RECOV.result stBadParam
  else if was = 0 then s1
  else if (s.reg SEC_RECOV_LEN).toNat > recovWindow then (s1.wr SEC_RECOV.state 1).wr SEC_RECOV.result stBadParam
  else s1.wr SEC_RECOV.state 2

def execSecRecovGo (v : Word) (s : State) : Res := .next (s.recovGo v)

/-- The container in the recovery window. -/
def State.recovBytes (s : State) : Bytes := fun o => s.byte (0xAE000000 + o)

/-- The keys that check an engine image in recovery: those of the firmware slot that verifies first. -/
def State.recovKeys (s : State) : SMap (List Byte) :=
  match s.fwOrder.find? (fun k => s.fwFail (s.fwAt k) = none) with
  | some k => s.fwKeys (s.fwAt k)
  | none => []

/-- The result status of a recovery check. -/
def State.recovResult (s : State) : Nat :=
  let b := s.recovBytes
  let len := (s.reg SEC_RECOV_LEN).toNat
  if s.isSet SEC_RECOV.kind then
    match parseImage b with
    | none => stBadParam
    | some im =>
      let s1 := { s with sec := { s.sec with keys := s.recovKeys } }
      if im.length ≠ len then stBadParam
      else if !s1.signatureOk b im.keySlot (im.length - 64) then stAuthFail
      else if (im.laterChecks (s.rd SYS_STEP.step)).any (fun f => f.check = 3) then stBadParam
      else stDone
  else match s.fwFail b with
    | some 1 => stBadParam
    | some _ => stAuthFail
    | none => if u32 b 0x08 = len then stDone else stBadParam

/-- The container goes to its flash slot. -/
def State.recovProgram (s : State) : State :=
  let k := s.rd SEC_RECOV.slot
  let n := (s.reg SEC_RECOV_LEN).toNat
  let bytes : SMap Byte := SMap.setList flashErased [] 0 (s.bytes 0xAE000000 n)
  if s.isSet SEC_RECOV.kind then s.setImgSlot k ⟨.valid, bytes⟩
  else
    let s1 := { s with img := { s.img with fw := SMap.set slotDefault s.img.fw k ⟨.valid, bytes⟩ } }
    s1.setFwMeta k ⟨false, 0, false⟩

/-- The check ends: after DONE for firmware, boot resumes at step 6 of R437; else the ROM listens again. -/
def execRecoveryCheckDone (s : State) : Res :=
  .next (if s.rd SEC_RECOV.state ≠ 2 then s
  else
    let r := s.recovResult
    let s1 := s.wr SEC_RECOV.result r
    if r ≠ stDone then s1.wr SEC_RECOV.state 1
    else
      let s2 := s1.recovProgram
      if s2.isSet SEC_RECOV.kind then s2.wr SEC_RECOV.state 1
      else
        let s3 := s2.wr SEC_RECOV.state 0
        s3.fwTry s3.fwOrder)

end Sys2Proof.Machine
end

