-- ==== Sys2Proof/Machine/Sec.lean ====
section
/-! DEFINITION. The security unit: alarm key, write protection, the checks of management datagrams (R448–R455). -/

namespace Sys2Proof.Machine

/-! ### The alarm key (R451) -/

/-- The staged key words. -/
def State.stagedKey (s : State) : List Byte := bytesOfWords ((List.range 8).map (fun n => s.reg (SEC_AKEY n)))

/-- Forget what a key has accepted in this epoch. -/
def State.zeroReplay (s : State) (k : Nat) : State :=
  { s with sec := { s.sec with lastSeq := SMap.erase k s.sec.lastSeq, seen := s.sec.seen.filter (fun x => x != k) } }

/-- SEC_AKEY_CTRL.commit. -/
def execSecAkeyCommit (s : State) : Res :=
  let s1 := { s with sec := { s.sec with akey := some s.stagedKey } }
  .next ((s1.zeroReplay 1).wr SEC_STATUS.akey_set 1)

/-! ### Write protection (R453, R454) -/

/-- The credential that a challenge asks for. -/
def State.wpCredential (s : State) : List Byte :=
  authTag (s.sec.akey.getD []) ([0x4C, 0x58, 0x57, 0x50] ++ bytesOfWord (s.reg SEC_WP_CHAL))

/-- A WP_SET at its apply cycle: its status. -/
def State.wpSet (s : State) (on : Bool) (cred : List Byte) : State × Nat :=
  if s.isSet SEC_STATUS.wp_lockout then (s, stLocked)
  else if on then (s.wr SEC_STATUS.wp_on 1, stDone)
  else
    let ok := s.sec.akey.isSome && cred = s.wpCredential
    let (nonce, s0) := s.drawFree
    let s1 := s0.setReg SEC_WP_CHAL nonce
    if ok then (s1.wr SEC_STATUS.wp_on 0, stDone)
    else
      let fails := s1.cycle :: s1.sec.wpFails.filter (fun c => since s1.cycle c < s1.cyclesOfS 60)
      let s2 := { (s1.flagEvent SEC_STATUS.wp_fail 0 0) with sec := { s1.sec with wpFails := fails } }
      (if fails.length ≥ 3 then s2.wr SEC_STATUS.wp_lockout 1 else s2, stAuthFail)

def execWpLockoutEnd (s : State) : Res :=
  let s1 := s.wr SEC_STATUS.wp_lockout 0
  .next { s1 with sec := { s1.sec with wpFails := [] } }

/-! ### Management datagrams (R448–R451) -/

/-- A dropped datagram. -/
def State.dropAuth (s : State) : State := s.bump SEC_MGMT_CNT.auth 1
def State.dropReplay (s : State) : State := s.bump SEC_MGMT_CNT.replay 1

/-- Whether the channel is open on a port. -/
def State.mgmtOpen (s : State) (netb : Bool) : Bool :=
  s.engineRuns && s.isSet SEC_MGMT_CFG.en && s.rd SEC_MGMT_CFG.ports / 2 ^ (b2n netb) % 2 = 1 && s.portOn (b2n netb)

/-- A word of a datagram. -/
def wordIn (bytes : List Byte) (o : Nat) : Word := BitVec.ofNat 32 (leNat ((bytes.drop o).take 4))
def byteIn (bytes : List Byte) (o : Nat) : Nat := (bytes.getD o 0).toNat

/-- The hardware checks of R449, in their order: the command that passes them, as a command of its ring. -/
def State.mgmtCheck (s : State) (src : Word) (bytes : List Byte) : State × Option Cmd :=
  let n := bytes.length - 32
  let ring := byteIn bytes 6
  let key := byteIn bytes 7
  let body := bytes.take (0x10 + n)
  let words := wordsOfBytes (body.drop 0x10)
  let c := { Cmd.ofWords (Fin.ofNat 16 ring) 0 words with origin := .mgmt src (key = 1) }
  if bytes.length < 36 || wordIn bytes 0 ≠ 0x474D584C || byteIn bytes 4 ≠ 1 || byteIn bytes 5 ≠ 0 || ring > 15
      || n ≠ 4 * c.len.toNat then (s.dropAuth, none)
  else if key > 1 || (ring ≤ 3 && key = 0) || (key = 1 && s.sec.akey.isNone) then (s.dropAuth, none)
  else if bytes.drop (0x10 + n) ≠ authTag (s.chanKey (key = 1)) body then (s.dropAuth.flagEvent SEC_STATUS.auth_fail key ring, none)
  else if wordIn bytes 12 ≠ s.reg SEC_MGMT_EPOCH then
    (s.dropReplay.sendMgmt src (key = 1) 2 ring (bytesOfWord (s.reg SEC_MGMT_EPOCH)), none)
  else
    let seq := wordIn bytes 8
    if key ∈ s.sec.seen && !later32 seq (SMap.get (fun _ => 0) s.sec.lastSeq key) then
      (s.dropReplay.flagEvent SEC_STATUS.replay key ring, none)
    else
      let s1 := { s with sec := { s.sec with
        lastSeq := SMap.set (fun _ => 0) s.sec.lastSeq key seq
        seen := if key ∈ s.sec.seen then s.sec.seen else key :: s.sec.seen } }
      (s1, some c)

end Sys2Proof.Machine
end

