-- ==== Sys2Proof/Machine/Abort.lean ====
section
/-! DEFINITION. Taking back what has not committed, stopping what runs until it is stopped, aborts and draining rings (R405, R409). -/

namespace Sys2Proof.Machine

/-- A commit of the override tables that waits for its tick is dropped, and its arm is spent (R436). -/
def State.dropCommit (s : State) (r : CmdRef) : State :=
  if s.ovr.commitBy = some r then
    let s1 := (s.wr OVR_STATUS.commit_pend 0).disarm
    { s1 with ovr := { s1.ovr with commitAt := none, commitBy := none } }
  else s

/-- What a decision of a command has reserved is free again: a held patch request, an entry of the swap queue, a pending parameter
swap, a pending activation, a waiting commit of the override tables. -/
def State.undo (s : State) (r : CmdRef) : State :=
  let mine (x : Option CmdRef) : Bool := x = some r
  let s1 := s.dropCommit r
  { s1 with
    patch := { s1.patch with ents := s1.patch.ents.map (fun p =>
      (p.1, { p.2 with held := p.2.held.filter (fun h => !mine h.owner) })) }
    xpt := { s1.xpt with queue := s1.xpt.queue.filter (fun e => !mine e.owner) }
    img := { s1.img with
      act := s1.img.act.filter (fun x => !(mine x.owner && !x.begun && !x.switched))
      quads := s1.img.quads.map (fun p =>
        if p.2.shadow = .pending && mine p.2.owner then (p.1, { p.2 with shadow := .dirty, owner := none }) else p) } }

/-- A command that has not committed gets its final status; nothing of it commits. -/
def State.withdraw (s : State) (r : CmdRef) (status : Nat) : State := (s.undo r).finish r status 0 []

/-- A command that runs until it is stopped: its chain or its generators stop under their own rule (R270, R276). -/
def State.stopRunning (s : State) (r : CmdRef) (status : Nat) : State :=
  match (List.range 64).find? (fun p => match (s.player p).run with
      | some x => x.owner = some r
      | none => false) with
  | some p => s.playStop p status
  | none =>
    match s.findOut r with
    | none => s
    | some o => (forAll o.objs (fun g st => st.wr (GEN_CFG.en g) 0) s).finish r status 0 []

/-- Whether a command is an ABORT. -/
def Cmd.isAbort (c : Cmd) : Bool := c.op = 2

/-- The submitted commands of a ring that are not fetched yet, in ring order, as index and command; at most `k`. -/
def State.unfetched (s : State) (n : Nat) : Nat → Nat → List Cmd
  | 0, _ => []
  | k + 1, done =>
    if done ≥ s.submitted n then []
    else
      let x := s.cmdAt n ((s.rd (CMD_RING_CI.ci n) + done) % 65536)
      if done + x.2 > s.submitted n then [] else x.1 :: s.unfetched n k (done + x.2)

/-- The first submitted command of a ring with a tag that no abort has marked. -/
def State.findSubmitted (s : State) (n tag : Nat) : Option Cmd :=
  if !s.ringRun n then none
  else (s.unfetched n 256 0).find? (fun c => c.tag.toNat = tag && !s.q.abortMarks.any (fun m => m.1 = n && m.2.1 = c.slot.toNat))

/-- The fetched command of a name that waits for its decision, if there is one. -/
def State.findFetched (s : State) (r : CmdRef) : Option Cmd :=
  (s.q.fetched ++ s.q.ring0q ++ s.q.nightWait).find? (fun c => c.ref = r)

/-- Take a command that waits for its decision out of the queues. -/
def State.dropFetched (s : State) (r : CmdRef) : State :=
  let mine (c : Cmd) : Bool := c.ref = r
  if s.q.fetched.any mine then { s with q := { s.q with fetched := s.q.fetched.eraseP mine } }
  else if s.q.ring0q.any mine then { s with q := { s.q with ring0q := s.q.ring0q.eraseP mine } }
  else { s with q := { s.q with nightWait := s.q.nightWait.eraseP mine } }

/-- One abort at its tick T (R405). -/
def State.takeAbort (s : State) (a : AbortReq) : State :=
  let done (st : State) : State := st.complete a.cmd stDone 0 st.cycle []
  match s.findOut a.target with
  | some o =>
    if o.phase = .waiting || o.phase = .held then done (s.withdraw a.target stAborted)
    else if o.phase = .running then done (s.stopRunning a.target stAborted)
    else { s with q := { s.q with abortWaits := s.q.abortWaits ++ [a] } }
  | none =>
    match s.findFetched a.target with
    | some c => done ((s.dropFetched a.target).complete c stAborted 0 s.cycle [])
    | none =>
      match a.target.origin, s.findSubmitted a.target.ring a.target.tag with
      | .ring, some c =>
        if c.isAbort then s.complete a.cmd stNotPending 0 s.cycle []
        else { s with q := { s.q with abortMarks := s.q.abortMarks ++ [(a.target.ring, c.slot.toNat, a.cmd)] } }
      | _, _ => s.complete a.cmd stNotPending 0 s.cycle []

/-- The aborts that take effect at the present tick, in decision order, after its commits. -/
def State.abortTick (s : State) : State :=
  let due := s.q.aborts.filter (fun a => !later32 a.tick s.cycle)
  let s1 := { s with q := { s.q with aborts := s.q.aborts.filter (fun a => later32 a.tick s.cycle) } }
  forAll due (fun a st => st.takeAbort a) s1

/-- Running commands of draining rings stop at the next tick and complete CANCELLED (R409). -/
def State.drainTick (s : State) : State :=
  let l := s.q.drains
  let s1 := { s with q := { s.q with drains := [] } }
  upTo 16 (fun n st => st.drainDone n) (forAll l (fun r st => st.stopRunning r stCancelled) s1)

/-- A running ring begins to drain. Slots not yet fetched are discarded, and an abort that had marked one of them finds nothing. -/
def State.ringDisable (s : State) (n : Nat) : State :=
  if !s.ringRun n then s
  else
    let mine (c : Cmd) : Bool := c.ring.val = n && c.origin = .ring
    let s1 := s.wr (CMD_RING_STAT.state n) 2
    let waiting := s1.q.outst.filter (fun o => mine o.cmd && (o.phase = .waiting || o.phase = .held || o.phase = .served))
    let running := s1.q.outst.filter (fun o => mine o.cmd && o.phase = .running)
    let undecided := (s1.q.fetched ++ s1.q.ring0q ++ s1.q.nightWait).filter mine
    let s2 := forAll waiting (fun o st => st.withdraw o.cmd.ref stCancelled) s1
    let s3 := forAll undecided (fun c st => (st.dropFetched c.ref).complete c stCancelled 0 st.cycle []) s2
    let marks := s3.q.abortMarks.filter (fun m => m.1 = n)
    let aborts := s3.q.aborts.filter (fun a => mine a.cmd)
    let s4 := { s3 with q := { s3.q with
      drains := s3.q.drains ++ running.map (fun o => o.cmd.ref)
      abortMarks := s3.q.abortMarks.filter (fun m => m.1 != n)
      aborts := s3.q.aborts.filter (fun a => !mine a.cmd) } }
    let s5 := forAll marks (fun m st => st.complete m.2.2 stNotPending 0 st.cycle []) s4
    let s6 := forAll aborts (fun a st => st.complete a.cmd stCancelled 0 st.cycle []) s5
    s6.drainDone n

def execCmdRingDisable (n : Fin 16) (s : State) : Res := .next (s.ringDisable n.val)

end Sys2Proof.Machine
end

