-- ==== Sys2Proof/Machine/Route.lean ====
section
/-! DEFINITION. The rows of the patch stages and the crosspoint: ramp ends, copies, meters, captures, queue pushes and counters
(03_patch_and_crosspoint.md). -/

namespace Sys2Proof.Machine

/-! ### Ends of ramps, copies, windows and captures -/

/-- Whether the bank ramp of a column has applied its last sample by the end of the present engine cycle. -/
def State.colRampOver (s : State) (m : Nat) : Bool :=
  let c := s.col m
  c.rampLen != 0 && since (s.cycle + 1) c.rampStart ≥ c.rampLen

/-- R70 step 4: the ramp is over; the column uses the new bank's gains unchanged. -/
def State.colRampEnd (s : State) (m : Nat) : State :=
  if s.colRampOver m then s.setCol m { s.col m with rampStart := 0, rampLen := 0 } else s

def execXptRampEnd (m : Fin 1024) (s : State) : Res := .next (s.colRampEnd m.val)

/-- R74: a column's COPY has moved its gains. -/
def execXptCopyDone (m : Fin 1024) (s : State) : Res :=
  .next (if (s.col m.val).copying then s.copyCol m.val else s)

/-- Every ramp and copy that ends with the present engine cycle. -/
def State.xptDue (s : State) : State :=
  forAll s.xpt.cols (fun p st => (if p.2.copying then st.copyCol p.1 else st).colRampEnd p.1) s

/-- The window exponent that PATCH_MTR_CFG.win means. -/
def State.mtrExp (s : State) : Nat := winOf (s.rd PATCH_MTR_CFG.win)

/-- Whether a cycle is divisible by 2^w. -/
def alignedTo (c : Word) (w : Nat) : Bool := c.toNat % 2 ^ w = 0

/-- R82: a mean-square window ends with the present engine cycle. -/
def State.meterDue (s : State) : State :=
  if s.xpt.mtrStarted && alignedTo (s.cycle + 1) s.xpt.mtrWin then
    let s1 := s.latchMeters
    { s1 with xpt := { s1.xpt with mtrStarted := false } }
  else s

def execMeterWindowEnd (s : State) : Res := .next s.meterDue

/-- At a tick a window starts where none runs and CYCLE is aligned; a peak clear takes effect. -/
def State.meterTick (s : State) : State :=
  let s1 := if s.xpt.peakClr then
    { (upTo 2048 (fun i st => if st.rd (PATCH_MTR_PEAK.peak i) = 0 then st else st.wr (PATCH_MTR_PEAK.peak i) 0) s) with
      xpt := { s.xpt with peakClr := false } } else s
  if !s1.xpt.mtrStarted && alignedTo s1.cycle s1.mtrExp then
    { s1 with xpt := { s1.xpt with mtrStarted := true, mtrWin := s1.mtrExp, mtrAcc := [] } }
  else s1

/-- A change of win (R82): the running window is given up; the next starts at the next aligned cycle. -/
def State.mtrCfg (s : State) (win : Nat) : State :=
  if s.rd PATCH_MTR_CFG.win = win then s
  else
    let s1 := s.wr PATCH_MTR_CFG.win win
    { s1 with xpt := { s1.xpt with mtrStarted := false, mtrAcc := [] } }

def execPatchMtrCfgWrite (win : BitVec 4) (s : State) : Res := .next (s.mtrCfg win.toNat)

/-- PATCH_MTR_CLR.peak: every peak clears at the next tick. -/
def State.mtrClr (s : State) : State := { s with xpt := { s.xpt with peakClr := true } }

def execPatchMtrClr (s : State) : Res := .next s.mtrClr

/-- R83: a capture that holds 512 samples ends. -/
def State.captureEnd (s : State) (n : Nat) : State :=
  if (s.cap n).armed && (s.cap n).count ≥ 512 then s.captureDone n else s

def execCaptureDone (n : Fin 4) (s : State) : Res := .next (s.captureEnd n.val)

/-- R60: the fade-out half of a dip ends. -/
def State.fadeOutEnd (s : State) (k : Nat) : State :=
  if (s.ent k).phase = .fadeOut && s.patchRampOver k then s.patchFadeOutEnd k else s

def execPatchFadeOutEnd (k : Fin 2056) (s : State) : Res := .next (s.fadeOutEnd k.val)

/-- R62: an entry's last ramp ends. -/
def State.fadeEnd (s : State) (k : Nat) : State :=
  if (s.ent k).phase ≠ .fadeOut && s.patchRampOver k then s.patchSteady k (s.cycle + 1) else s

def execPatchFadeEnd (k : Fin 2056) (s : State) : Res := .next (s.fadeEnd k.val)

/-- Every patch ramp that ends with the present engine cycle. -/
def State.patchDue (s : State) : State :=
  forAll s.patch.ents (fun p st => if (st.ent p.1).phase = .fadeOut then st.fadeOutEnd p.1 else st.fadeEnd p.1) s

/-! ### Queue pushes (R72, R541) -/

/-- The entry that XPT_QENT0 and XPT_QENT1 stage. -/
def State.stagedXpt (s : State) : XptEntry :=
  ⟨s.reg XPT_QENT0, s.rd XPT_QENT1.op, s.rd XPT_QENT1.scope, s.rd XPT_QENT1.target, s.rd XPT_QENT1.ramp + 1, none⟩

/-- Whether an entry's op, scope and target are valid. -/
def XptEntry.ok (e : XptEntry) : Bool := e.op ≤ 1 && e.scope ≤ 2 && (e.scope ≠ 1 || e.target < 64)

/-- A push of the staged entry. -/
def State.xptPush (s : State) : State :=
  if s.stagedXpt.ok then s.pushXpt s.stagedXpt else s.set1 XPT_STATUS.bad_entry

/-- A write of XPT_QPUSH.push; in a synced pair it is locked toward the host bridge (R78). -/
def execXptQpush (master : Master) (s : State) : Res :=
  .next (if s.pairLocked master then s.wpEvent master XPT_QPUSH else s.xptPush)

/-- The most register pushes that wait (R541). -/
def patchQueueSize : Nat := 64

/-- A push of the staged patch request: discarded when invalid (R13), protected (R101) or when the queue is full. -/
def State.patchPush (s : State) : State :=
  let r := s.stagedPatch
  if !validReq r.op r.entry r.value || s.patchProtected r.op r.entry then s.set1 PATCH_STATUS.bad_req
  else if s.patch.queue.length ≥ patchQueueSize then s.set1 PATCH_STATUS.q_full
  else { s with patch := { s.patch with queue := s.patch.queue ++ [r] } }

/-- A write of PATCH_PUSH.push; in a synced pair it is locked toward the host bridge (R78). -/
def execPatchPush (master : Master) (s : State) : Res :=
  .next (if s.pairLocked master then s.wpEvent master PATCH_PUSH else s.patchPush)

/-! ### Capture arm and counters -/

/-- XPT_CAPn_CFG.arm: no effect on a buffer that is armed (R10). -/
def State.capArm (s : State) (n : Nat) : State :=
  if (s.cap n).armed then s else s.armCapture n (s.reg (XPT_CAP_START n)) none

def execXptCapArm (n : Fin 4) (s : State) : Res := .next (s.capArm n.val)

def State.xptClrSat (s : State) : State := (s.setReg XPT_SAT_CNT 0).setReg XPT_SAT_LAST 0
def State.xptClrEcc (s : State) : State := s.setReg XPT_ECC_CNT 0
def State.xptClrBlk (s : State) : State := s.setReg XPT_BLK_CNT 0

def execXptCntClrSat (s : State) : Res := .next s.xptClrSat
def execXptCntClrEcc (s : State) : Res := .next s.xptClrEcc
def execXptCntClrBlk (s : State) : Res := .next s.xptClrBlk

/-- PATCH_CNT_CLR.sinks: every sink saturation counter. -/
def State.patchClrSinks (s : State) : State := upTo 516 (fun i st => st.setReg (PATCH_SATCNT i) 0) s
def State.patchClrTotal (s : State) : State := s.setReg PATCH_SAT_TOTAL 0

def execPatchCntClrSinks (s : State) : Res := .next s.patchClrSinks
def execPatchCntClrTotal (s : State) : Res := .next s.patchClrTotal

end Sys2Proof.Machine
end

