-- ==== Sys2Proof/Machine/RegAccess.lean ====
section
/-! DEFINITION. Reading and writing a register by its address: access types (R8), locks (R11), the actions that a write performs,
the words that a read computes, alias windows (R507, R508), and the SYS, ENG, CLU, MEM, BUS and CMD rows of the register index. -/

namespace Sys2Proof.Machine

/-! ### SYS, ENG, CLU, BUS, CMD and MEM rows -/

/-- A write of SYS_RESET (R511). -/
def State.sysReset (s : State) (v : Word) : State :=
  if fieldOf v 31 16 ≠ 0xA55A then s.flagEvent SYS_STATUS.wr_refused 0 0
  else if !bitOf v 1 && s.alarmPath then s.flagEvent SYS_STATUS.rst_refused 0 0
  else s.mapBoot (fun b => { b with resetReq := some (if bitOf v 0 then 3 else 2) })

def execSysResetWrite (v : Word) (s : State) : Res := .next (s.sysReset v)

/-- A write of SYS_WDOG (R513). -/
def State.wdogKick (s : State) (m : Master) (v : Nat) : State :=
  if v = 0x6B1C && m = .cp then { s with flt := { s.flt with kick := s.cycle } } else s.flagEvent SYS_STATUS.kick_bad m.id v

def execSysWdogKick (master : Master) (v : BitVec 16) (s : State) : Res := .next (s.wdogKick master v.toNat)

/-- A write of SYS_REMAP (R469): setting remap maps system SRAM at address 0; nothing but a reset clears it. -/
def State.sysRemap (s : State) (v : Word) : State := if bitOf v 0 then s.wr SYS_REMAP.remap 1 else s

def execSysRemapWrite (v : Word) (s : State) : Res := .next (s.sysRemap v)

/-- A write of MEM_DUSK.req (R186); in a synced pair it is locked toward the host bridge. -/
def State.memDusk (s : State) (m : Master) (req : Nat) : State × Bool :=
  if s.pairLocked m then (s, req != s.rd MEM_DUSK.req) else (s.duskRequest req, false)

def execMemDuskWrite (master : Master) (req : BitVec 5) (s : State) : Res :=
  .next (let (s1, refused) := s.memDusk master req.toNat
    if refused then s1.wpEvent master MEM_DUSK else s1)

def State.engClrOverrun (s : State) : State := s.setReg ENG_OVERRUN_CNT 0
def execEngCntClrOverrun (s : State) : Res := .next s.engClrOverrun

/-- A read that takes the word of a register and leaves another (R514, R515, R463, R402). -/
def State.takeReg (s : State) (a : Nat) (leave : Word) : State := { s.setReg a leave with lastRead := s.reg a }

def execEngMarginMinRead (s : State) : Res := .next (s.takeReg ENG_MARGIN_MIN (resetWord ENG_MARGIN_MIN))

def State.cluClrSat (s : State) (n : Nat) : State := upTo 8 (fun k st => st.setReg (CLU_CORE_SAT n k) 0) s
def execCluCntClrSat (n : Fin 4) (s : State) : Res := .next (s.cluClrSat n.val)

def execCluLoadRead (n : Fin 4) (k : Fin 8) (s : State) : Res :=
  .next (if s.gated (CLU_CORE_LOAD n.val k.val) then { s.unavail with lastRead := 0 } else s.takeReg (CLU_CORE_LOAD n.val k.val) 0)

def State.busClrLk (s : State) : State := s.setReg BUS_LKCNT 0
def State.busClrEv (s : State) : State := s.setReg BUS_EVCNT 0
def State.busClrErr (s : State) : State := (s.setReg BUS_ERRCNT 0).wr BUS_ERR_LAST.valid 0

def execBusCntClrLk (s : State) : Res := .next s.busClrLk
def execBusCntClrEv (s : State) : Res := .next s.busClrEv
def execBusCntClrErr (s : State) : Res := .next s.busClrErr

def execBusWaitRead (t : Fin 10) (s : State) : Res :=
  .next (s.takeReg (BUS_WAIT t.val) (putFld (BUS_WAIT.max t.val) (s.reg (BUS_WAIT t.val)) 0))

def execCmdPendRead (s : State) : Res := .next (s.takeReg CMD_PEND (putFld CMD_PEND.peak (s.reg CMD_PEND) 0))

/-! ### Locks (R11) -/

/-- Registers of which every field is locked toward the host bridge in a synced pair (R78, R112, R238 and the block chapters). -/
def pairLockAll (addr : Nat) : Bool :=
  let o := addr % 0x10000
  match addr / 0x10000 with
  | 0x4001 | 0x4002 | 0x4009 | 0x400A | 0x400B | 0x4010 | 0x4011 | 0x4013 | 0x4041 => true
  | 0x4004 => o = 0x70
  | 0x4020 => o = 0x18 || (0x2000 ≤ o && o < 0x4000)
  | 0x4021 => o = 0x1C
  | 0x4022 => o < 0x1000 || (0x2000 ≤ o && o < 0x4000) || (0x6000 ≤ o && o < 0x6200) || o = 0x7004 || o = 0x7010
  | 0x4040 => 0x2000 ≤ o && o < 0x4000
  | _ => false

/-- Blocks of which the RWL fields are locked toward the host bridge in a synced pair. -/
def pairLockRwl (addr : Nat) : Bool :=
  match addr / 0x10000 with
  | 0x4003 | 0x4007 | 0x4008 => true
  | _ => false

/-- Registers whose RWL fields write protection locks toward the host bridge (R453). -/
def wpLocks (addr : Nat) : Bool :=
  addr / 0x10000 = 0x4041 || addr / 0x10000 = 0x4007 || addr = SEC_MGMT_CFG

/-- The range of a PTP interval in the running profile (R311), by the low bit of its field. -/
def ptpRange (profile lo : Nat) : Int × Int :=
  match profile, lo with
  | 0, 16 => (-4, 1) | 0, 8 => (0, 4) | 0, _ => (-3, 5)
  | 1, 16 => (-7, -1) | 1, 8 => (-3, 1) | 1, _ => (-7, 5)
  | _, 16 => (-1, 1) | _, 8 => (0, 4) | _, _ => (0, 5)

/-- Whether a word is out of a register's stated range (R311, R345, REF_TOL), by the low bit of the field. -/
def State.outOfRange (s : State) (addr : Nat) (v : Word) (lo : Nat) : Bool :=
  if addr = REF_TOL then getFld REF_TOL.soft v ≥ getFld REF_TOL.hard v
  else if addr = REF_WCLK_OFS || addr = REF_FRM_OFS then (sval v).natAbs > 1000000000 / (2 * s.fi)
  else if addr = REF_PPS_OFS then (sval v).natAbs > 500000000
  else if addr = PTP_CFG then lo = 29 && getFld PTP_CFG.profile v = 3
  else if addr = PTP_INTV then
    let x := signedOf 8 (fieldOf v (lo + 7) lo)
    let r := ptpRange (s.rd PTP_CFG.profile) lo
    x < r.1 || r.2 < x
  else false

/-- Whether a block's own condition locks a register (R109, R210, R237, R276, CMD_RINGn). -/
def State.blockLocked (s : State) (addr : Nat) (v : Word) : Bool :=
  let o := addr % 0x10000
  match addr / 0x10000 with
  | 0x4006 =>
    let r := (o - 0x100) % 0x20
    0x100 ≤ o && (r = 0 || r = 4 || r = 8) && !s.ringOff ((o - 0x100) / 0x20)
  | 0x4010 => o < 0x4000 && o % 0x400 < 0x14 && s.spState (o / 0x400) ≠ spStopped
  | 0x4011 =>
    if o < 0x2800 then o % 0x100 < 0x10 && s.decState (o / 0x100) ≠ decStopped
    else if 0x3000 ≤ o && o < 0x6C00 then s.decState ((o - 0x3000) / 0x180) ≠ decStopped
    else o = 0x7000 && s.pdmBusy v
  | 0x4022 => (o < 0x1000 || (0x2000 ≤ o && o < 0x4000)) && s.isSet OVR_STATUS.armed
  | 0x4040 => 0x2000 ≤ o && o < 0x3000 && 0xC ≤ o % 0x80 && s.isSet (GEN_CFG.en ((o - 0x2000) / 0x80))
  | _ => false

/-- Whether a field that a write would change is locked (R11). -/
def State.fieldLocked (s : State) (m : Master) (addr : Nat) (v : Word) (f : FieldDef) : Bool :=
  (s.pairLocked m && (pairLockAll addr || (pairLockRwl addr && f.acc = .rwl)))
    || (m = .hb && s.isSet SEC_STATUS.wp_on && wpLocks addr && f.acc = .rwl)
    || s.blockLocked addr v || s.outOfRange addr v f.lo

/-- The refusal flag of a register's block, where it has one. -/
def refusalFlag (addr : Nat) : Option Fld :=
  let o := addr % 0x10000
  match addr / 0x10000 with
  | 0x4000 => some SYS_STATUS.wr_refused
  | 0x4001 => some CLK_STATUS.wr_refused
  | 0x4002 => some REF_STATUS.wr_refused
  | 0x4003 => some PWR_STATUS.wr_refused
  | 0x4006 => if 0x100 ≤ o then some (CMD_RING_STAT.wr_refused ((o - 0x100) / 0x20)) else none
  | 0x4007 => some PAIR_STATUS.wr_refused
  | 0x4008 => some PTP_STATUS.wr_refused
  | 0x4009 => some (NET_STATUS.wr_refused 0)
  | 0x400A => some (NET_STATUS.wr_refused 1)
  | 0x4010 => if o < 0x4000 then some (SP_STATUS.wr_refused (o / 0x400)) else none
  | 0x4011 =>
    if o < 0x2800 then some (DEC_STATUS.wr_refused (o / 0x100))
    else if 0x3000 ≤ o && o < 0x6C00 then some (DEC_STATUS.wr_refused ((o - 0x3000) / 0x180))
    else some DEC_GSTATUS.wr_refused
  | 0x4013 => if o < 0x800 then some (ANA_STATUS.wr_refused (o / 0x100)) else none
  | 0x4040 => some MSG_STATUS.wr_refused
  | 0x4042 => some SEC_STATUS.wr_refused
  | _ => none

/-- Record a refusal in the block's flag. -/
def State.flagRefusal (s : State) (addr : Nat) : State :=
  match refusalFlag addr with
  | some f => s.set1 f
  | none => s

/-! ### Writing (R8) -/

/-- Store a word field by field under the access types; the Boolean says that a locked field would have changed. -/
def State.storeFields (s : State) (m : Master) (addr : Nat) (v : Word) (fs : List FieldDef) : State × Bool :=
  fs.foldl (fun (acc : State × Bool) f =>
    let fl : Fld := ⟨addr, f.lo, f.hi + 1 - f.lo⟩
    let old := s.rd fl
    let new := getFld fl v
    match f.acc with
    | .ro | .wo | .sc => acc
    | .w1c => (acc.1.wr fl (old - (old &&& new)), acc.2)
    | .w1s => (acc.1.wr fl (old ||| new), acc.2)
    | .rw | .rwl =>
      if new = old then acc
      else if s.fieldLocked m addr v f then (acc.1, true)
      else (acc.1.wr fl new, acc.2)) (s, false)

/-- Whether a word carries a 1 for an action field. -/
def acts (v : Word) (fs : List FieldDef) : Bool :=
  fs.any (fun f => (f.acc = .wo || f.acc = .sc) && getFld ⟨0, f.lo, f.hi + 1 - f.lo⟩ v != 0)

/-- What a row answers as a state. -/
def resState (s : State) (r : Res) : State :=
  match r with
  | .next t => t
  | _ => s

/-- Do one thing for a set bit. -/
def State.onBit (s : State) (v : Word) (i : Nat) (f : State → State) : State := if bitOf v i then f s else s

/-- A change of PTP_CFG (R311): a new profile loads its intervals and domain; both port state machines restart. -/
def State.ptpConfigured (s old : State) : State :=
  if s.reg PTP_CFG = old.reg PTP_CFG then s
  else
    let p := s.rd PTP_CFG.profile
    let s1 :=
      if p = old.rd PTP_CFG.profile then s
      else
        let (d, w) := if p = 0 then (0, 0xFD0100) else if p = 1 then (127, 0xFDFEFD) else (0, 0x000100)
        (s.wr PTP_CFG.domain d).setReg PTP_INTV (BitVec.ofNat 32 w)
    s1.ptpRestart

/-- DECn_CTRL: writing 1 to both fields is a stop. -/
def State.decCtrl (s : State) (m : Master) (n : Nat) (v : Word) : State :=
  let k : Fin 40 := Fin.ofNat 40 n
  if bitOf v 1 then resState s (execDecStop m k s) else if bitOf v 0 then resState s (execDecStart m k s) else s

/-- SPn_CTRL: stop before start, mute before unmute. -/
def State.spCtrlWrite (s : State) (m : Master) (n : Nat) (v : Word) : State :=
  let k : Fin 16 := Fin.ofNat 16 n
  let s1 := if bitOf v 1 then resState s (execSpStop m k s) else if bitOf v 0 then resState s (execSpStart m k s) else s
  if bitOf v 2 then resState s1 (execSpMute m k s1) else if bitOf v 3 then resState s1 (execSpUnmute m k s1) else s1

/-- What a write does beside storing its fields, at addresses of blocks without aliases. -/
def State.globalAction (s old : State) (m : Master) (addr : Nat) (v : Word) : State :=
  if addr = SYS_RESET then s.sysReset v
  else if addr = SYS_WDOG then s.wdogKick m (fieldOf v 15 0)
  else if addr = PWR_BUDGET then (if s.reg addr = old.reg addr then s else s.budgetWritten)
  else if addr = MEM_CNT_CLR then
    let s1 := (s.onBit v 3 (fun st => resState st (execMemCntClrDlq st))).onBit v 2 (fun st => resState st (execMemCntClrConf st))
    (s1.onBit v 1 (fun st => resState st (execMemCntClrDram st))).onBit v 0 (fun st => resState st (execMemCntClrSram st))
  else if addr = BUS_CNT_CLR then
    ((s.onBit v 2 State.busClrLk).onBit v 1 State.busClrEv).onBit v 0 State.busClrErr
  else if addr = PTP_CFG then s.ptpConfigured old
  else if addr = XPT_QPUSH then s.onBit v 0 State.xptPush
  else if addr = XPT_CNT_CLR then
    ((s.onBit v 2 State.xptClrBlk).onBit v 1 State.xptClrEcc).onBit v 0 State.xptClrSat
  else if 0x40200080 ≤ addr && addr < 0x402000C0 && addr % 16 = 0 then s.onBit v 31 (fun st => st.capArm ((addr - 0x40200080) / 16))
  else if addr = PATCH_PUSH then s.onBit v 0 State.patchPush
  else if addr = PATCH_CNT_CLR then (s.onBit v 1 State.patchClrSinks).onBit v 0 State.patchClrTotal
  else if addr = PATCH_MTR_CLR then s.onBit v 0 State.mtrClr
  else if addr = ENG_CNT_CLR then s.onBit v 0 State.engClrOverrun
  else if addr = SEC_AKEY_CTRL then s.onBit v 0 (fun st => resState st (execSecAkeyCommit st))
  else s

/-- What a write does beside storing its fields, in the ring records and the arrays of the other blocks. -/
def State.arrayAction (s : State) (m : Master) (addr : Nat) (v : Word) : State :=
  let o := addr % 0x10000
  match addr / 0x10000 with
  | 0x4006 =>
    if 0x100 ≤ o && (o - 0x100) % 0x20 = 0xC then
      let n := (o - 0x100) / 0x20
      if bitOf v 1 then s.ringDisable n else if bitOf v 0 then s.ringEnable n else s
    else s
  | 0x4010 =>
    if o < 0x4000 && o % 0x400 = 0x1C then
      s.onBit v 0 (fun st => resState st (execSpMaskCommit m (Fin.ofNat 16 (o / 0x400)) st))
    else if o < 0x4000 && o % 0x400 = 0x28 then s.spCtrlWrite m (o / 0x400) v
    else s
  | 0x4011 => if o < 0x2800 && o % 0x100 = 0x10 then s.decCtrl m (o / 0x100) v else s
  | 0x4030 => if o < 0x4000 && o % 0x1000 = 4 then s.onBit v 0 (fun st => st.cluClrSat (o / 0x1000)) else s
  | 0x4041 =>
    if 0x200 ≤ o && o < 0x280 && o % 8 = 0 then (if bitOf v 31 then s else s.drvUnlatch ((o - 0x200) / 8))
    else s
  | _ => s

/-- Registers that their own rule writes whole: the new state, and whether a locked field would have changed; `none` for the rest. -/
def State.ownWrite (s : State) (m : Master) (addr : Nat) (v : Word) : Option (State × Bool) :=
  let o := addr % 0x10000
  if s.pairLocked m && (addr = OVR_ARM || addr = OVR_COMMIT) then some (s, true)
  else if s.pairLocked m && addr = CLK_GATE_REQ && fieldOf v 9 0 ≠ s.rd CLK_GATE_REQ.req then some (s.flagRefusal addr, true)
  else if addr = REF_SEL && fieldOf v 2 0 ≠ s.rd REF_SEL.sel && (s.pairLocked m || s.rd REF_STATUS.pins ≠ 7 || fieldOf v 2 0 = 7) then
    some (s.flagRefusal addr, true)
  else if addr = CLK_GATE_REQ then some (resState s (execClkGateReqWrite m (v.setWidth 10) s), false)
  else if addr = REF_SEL then some (resState s (execRefSelWrite m (Fin.ofNat 8 (fieldOf v 2 0)) s), false)
  else if addr = OVR_ARM then some (resState s (execOvrArmWrite m (v.setWidth 16) s), false)
  else if addr = OVR_COMMIT then some (resState s (execOvrCommitWrite m (v.setWidth 16) s), false)
  else if addr = MEM_DUSK then some (s.memDusk m (fieldOf v 4 0))
  else if addr = PATCH_MTR_CFG then some (s.mtrCfg (fieldOf v 3 0), false)
  else if addr / 0x10000 = 0x4006 && 0x100 ≤ o && (o - 0x100) % 0x20 = 0x10 then
    some (resState s (execCmdDoorbell (Fin.ofNat 16 ((o - 0x100) / 0x20)) (v.setWidth 16) s), false)
  else if addr / 0x10000 = 0x4006 && 0x100 ≤ o && (o - 0x100) % 0x20 = 0x18 then
    some (resState s (execCmdCdbWrite (Fin.ofNat 16 ((o - 0x100) / 0x20)) (v.setWidth 16) s), false)
  else if addr / 0x10000 = 0x4040 && 0x2000 ≤ o && o < 0x3000 && o % 0x80 = 0 then some (s.genCfgPut m ((o - 0x2000) / 0x80) v)
  else if addr / 0x10000 = 0x4041 && 0x418 ≤ o && o < 0x800 && o % 0x20 = 0x18 then
    some (s.onBit v 0 (fun st => resState st (execLsLearnStart m (Fin.ofNat 32 ((o - 0x400) / 0x20)) st)), false)
  else if addr / 0x10000 = 0x4042 && m ≠ .hb then some (s, false)
  else if 0x40420020 ≤ addr && addr < 0x40420040 then some (s.setReg addr v, false)
  else if addr = SEC_RECOV then some (s.recovGo v, false)
  else none

/-- A write of ANAn_IN_CFG: gain starts a walk. -/
def State.anaInWrite (s : State) (m : Master) (addr : Nat) (v : Word) (fs : List FieldDef) : State × Bool :=
  let n := addr % 0x10000 / 0x100
  let (s1, bad) := s.storeFields m addr v (fs.filter (fun f => f.lo ≠ 0))
  let g := fieldOf v 5 0
  if g = s.rd (ANA_IN_CFG.gain n) then (s1, bad)
  else if s.pairLocked m then (s1, true)
  else (s1.gainWrite n g none, bad)

/-- A write of one register word (R8, R11), without the write-protect event: whether a locked field would have changed. -/
def State.regPut (s : State) (m : Master) (addr : Nat) (v : Word) : State × Bool :=
  match findReg addr with
  | none => (s, false)
  | some r =>
    match s.ownWrite m addr v with
    | some x => x
    | none =>
      if s.pairLocked m && pairLockAll addr && acts v r.fields then (s.flagRefusal addr, true)
      else
        let (s1, bad) := if addr / 0x10000 = 0x4013 && addr % 0x10000 < 0x800 && addr % 0x100 = 0 then s.anaInWrite m addr v r.fields
          else s.storeFields m addr v r.fields
        let s2 := (s1.globalAction s m addr v).arrayAction m addr v
        (if bad then s2.flagRefusal addr else s2, bad)

/-- A write of one register word, with its write-protect event (R11); the Boolean says that it was refused. -/
def State.regWrite (s : State) (m : Master) (addr : Nat) (v : Word) : State × Bool :=
  let (s1, refused) := s.regPut m addr v
  (if refused then s1.wpEvent m addr else s1, refused)

/-! ### Alias windows (R507, R508) -/

/-- The aliased range that an offset of instance 0 lies in: number of instances and stride. -/
def aliasRange (block off : Nat) : Option (Nat × Nat) :=
  match block with
  | 0x4010 => if off < 0x400 then some (16, 0x400) else none
  | 0x4011 => if off < 0x100 then some (40, 0x100) else none
  | 0x4013 => if off < 0x100 then some (8, 0x100) else none
  | 0x4022 => if off < 0x40 then some (64, 0x40) else none
  | 0x4030 => if off < 0x1000 then some (4, 0x1000) else none
  | 0x4040 => if (0x2000 ≤ off && off < 0x2080) || (0x3000 ≤ off && off < 0x3080) then some (32, 0x80) else none
  | _ => none

/-- Whether GRPSEL selects instance i of a range. -/
def State.grpSelects (s : State) (block off i : Nat) : Bool :=
  let second := (block = 0x4040 && 0x3000 ≤ off) || (block ≠ 0x4040 && 32 ≤ i)
  (s.reg (block * 0x10000 + 0x7FF0 + (if second then 4 else 0))).getLsbD (i % 32)

/-- The per-instance writes of an alias write, ascending; one write-protect event for all (R508). -/
def State.aliasPut (s : State) (m : Master) (addr : Nat) (v : Word) (group : Bool) : State × Bool :=
  let block := addr / 0x10000
  let off := addr % 0x4000
  match aliasRange block off with
  | none => (s, false)
  | some (n, stride) =>
    let (s1, bad) := (List.range n).foldl (fun (acc : State × Bool) i =>
      if group && !s.grpSelects block off i then acc
      else
        let (t, b) := acc.1.regPut m (block * 0x10000 + off + i * stride) v
        (t, acc.2 || b)) (s, false)
    (if bad then s1.wpEvent m addr else s1, bad)

/-- A write of a word anywhere in an assigned register block, alias windows first; whether it was refused. -/
def State.regWriteAny (s : State) (m : Master) (addr : Nat) (v : Word) : State × Bool :=
  let o := addr % 0x10000
  if 0xC000 ≤ o then s.aliasPut m addr v true
  else if 0x8000 ≤ o then s.aliasPut m addr v false
  else s.regWrite m addr v

/-! ### Reading -/

/-- Whether a block's interrupt is asserted (R510): a W1C bit of one of its registers is 1. -/
def State.blockIrq (s : State) (block : Nat) : Bool :=
  s.regs.any (fun p => p.1 / 0x10000 = block && (match findReg p.1 with
    | some r => r.fields.any (fun f => f.acc = .w1c && getFld ⟨0, f.lo, f.hi + 1 - f.lo⟩ p.2 != 0)
    | none => false))

/-- The blocks in the order of their interrupt bits (R506). -/
def irqBlocks : List Nat :=
  [0x4000, 0x4001, 0x4002, 0x4003, 0x4004, 0x4005, 0x4006, 0x4007, 0x4008, 0x4009, 0x400A, 0x400B, 0x4010, 0x4011, 0x4012, 0x4013,
   0x4020, 0x4021, 0x4022, 0x4030, 0x4031, 0x4040, 0x4041, 0x4042, 0x4043, 0x4044]

/-- SYS_IRQ_STAT as it reads. -/
def State.irqStat (s : State) : Nat :=
  (List.range 26).foldl (fun acc i => if s.blockIrq (irqBlocks.getD i 0) then acc + 2 ^ i else acc) 0

/-- Milliseconds since the last valid kick, saturating. -/
def State.wdogMs (s : State) : Nat := min 0xFFFF (since s.cycle s.flt.kick * s.blk * 1000 / s.fi)

/-- CLUn_STATUS as it reads. -/
def State.cluWord (s : State) (n : Nat) : Word :=
  let st := if s.held n then 1 else if s.rd CLK_GATE_STAT.closed / 2 ^ n % 2 = 1 then 2
    else if s.rd MEM_STATUS.dusk / 2 ^ n % 2 = 1 then 3 else 0
  let busy := (List.range 8).foldl (fun a k =>
    if s.img.quads.any (fun q => q.2.disp.core = 8 * n + k && q.2.prog) then a + 2 ^ k else a) 0
  BitVec.ofNat 32 (st * 2 ^ 30 + busy * 2 ^ 16 + s.cluFlagged n)

/-- A word with one bit for each of 32 triggers. -/
def bits32 (f : Nat → Bool) : Word := BitVec.ofNat 32 ((List.range 32).foldl (fun a i => if f i then a + 2 ^ i else a) 0)

/-- Registers that show state held elsewhere: the word computed on a read; `none` for the rest. -/
def State.viewOf (s : State) (addr : Nat) : Option Word :=
  let o := addr % 0x10000
  match addr / 0x10000 with
  | 0x4000 =>
    if addr = SYS_WDOG then some (place 16 s.wdogMs)
    else if addr = SYS_IRQ_STAT then some (BitVec.ofNat 32 s.irqStat)
    else none
  | 0x4006 => if addr = CMD_IRQ then some (BitVec.ofNat 32 s.cmdIrq) else none
  | 0x4007 => if addr = PAIR_STATUS && !s.twin then some (putFld PAIR_STATUS.astate (s.reg addr) 0) else none
  | 0x4010 =>
    if o < 0x4000 && o % 0x400 = 0x40 then some (s.spZcWord (o / 0x400))
    else if 0x7000 ≤ o && o < 0x7020 && o % 8 = 4 then some (s.spGroupWord ((o - 0x7000) / 8))
    else none
  | 0x4011 =>
    if o < 0x2800 && o % 0x100 = 0x20 then some (s.decFifoWord (o / 0x100))
    else if o < 0x2800 && o % 0x100 = 0x24 then some (BitVec.ofNat 32 (s.dch (o / 0x100)).fifo.length)
    else none
  | 0x4013 =>
    if o < 0x800 && o % 0x100 = 4 then some (putFld (ANA_IN_STAT.bias_state (o / 0x100)) (s.reg addr) (s.biasState (o / 0x100)))
    else none
  | 0x4020 =>
    if o = 0 then some (putFld XPT_STATUS.q_level (s.reg addr) s.xpt.queue.length)
    else if 0x1000 ≤ o && o < 0x2000 then some (s.colStateWord ((o - 0x1000) / 4) (s.ocol ((o - 0x1000) / 4)).forced)
    else none
  | 0x4021 =>
    if o = 0 then some (putFld PATCH_STATUS.q_level (s.reg addr) s.patch.queue.length)
    else if 0x1000 ≤ o && o < 0x2000 then some (patchInWord (s.ent ((o - 0x1000) / 4)))
    else if 0x2000 ≤ o && o < 0x3020 then some (patchOutWord (s.ent (sinkKey ((o - 0x2000) / 4))))
    else none
  | 0x4022 =>
    if 0x6400 ≤ o && o < 0x6800 then
      some (BitVec.ofNat 32 ((List.range 4).foldl (fun a i => a + s.colOwnerByte (o - 0x6400 + i) * 2 ^ (8 * i)) 0))
    else if o = 0x7020 || o = 0x7024 then some (bits32 (fun i => (s.trig ((o - 0x7020) * 8 + i)).asserted))
    else if o = 0x7028 || o = 0x702C then some (bits32 (fun i => (s.trig ((o - 0x7028) * 8 + i)).suspended))
    else none
  | 0x4030 => if o < 0x4000 && o % 0x1000 = 0 then some (s.cluWord (o / 0x1000)) else none
  | 0x4041 => if addr = SUP_GPIO_IN then some s.gpioIn else none
  | 0x4042 =>
    if 0x20 ≤ o && o < 0x40 then some 0
    else if o = 0 then
      some (putFld SEC_STATUS.empty (s.reg addr) ((List.range 3).foldl (fun a k => if SMap.get (fun _ => 0) s.sec.otp k = 0 then a + 2 ^ k else a) 0))
    else none
  | _ => none

/-- A register as it reads (R8): nothing at an address that holds none (R509). -/
def State.regRead (s : State) (addr : Nat) : Word :=
  match s.viewOf addr with
  | some w => w
  | none => if (findReg addr).isSome then s.reg addr else 0

/-- A read with its side effect: the state after it; the word goes to lastRead. -/
def State.regReadFx (s : State) (addr : Nat) : State :=
  let o := addr % 0x10000
  if addr = ENG_MARGIN_MIN then resState s (execEngMarginMinRead s)
  else if addr = CMD_PEND then resState s (execCmdPendRead s)
  else if addr = MEM_DRAM_RT then resState s (execMemDramRtRead s)
  else if addr = FLASHC_SUSP then resState s (execFlashcSuspRead s)
  else if addr = PWR_TJ_MAX then resState s (execPwrTjMaxRead s)
  else if addr = PTP_DTIME_LO then resState s (execPtpDtimeLoRead s)
  else if addr = PTP_STEP_LO then resState s (execPtpStepLoRead s)
  else if addr / 0x10000 = 0x4005 && 0x40 ≤ o && o < 0x68 then resState s (execBusWaitRead (Fin.ofNat 10 ((o - 0x40) / 4)) s)
  else if addr / 0x10000 = 0x4011 && o < 0x2800 && o % 0x100 = 0x20 then resState s (execDecFifoRead (Fin.ofNat 40 (o / 0x100)) s)
  else if addr / 0x10000 = 0x4030 && o < 0x4000 && 0x100 ≤ o % 0x1000 && o % 0x1000 < 0x180 && o % 0x10 = 8 then
    resState s (execCluLoadRead (Fin.ofNat 4 (o / 0x1000)) (Fin.ofNat 8 ((o % 0x1000 - 0x100) / 0x10)) s)
  else { s with lastRead := s.regRead addr }

end Sys2Proof.Machine
end

