-- ==== Sys2Proof/Machine/Bus.lean ====
section
/-! DEFINITION. The bus matrix (20_bus_matrix.md): decoding, paths, responses, arbitration, locks, and what a beat does at each target;
register and shadow-port writes that reach the block on the matrix. -/

namespace Sys2Proof.Machine

/-! ### Responses (R459) -/

def rAck : Nat := 0
def rTarget : Nat := 1
def rRoute : Nat := 2
def rUnavail : Nat := 3

/-- Record the response of one beat: status, counters, the last error. -/
def State.busRecord (s : State) (m : Master) (target : Nat) (write : Bool) (addr resp : Nat) : State :=
  if resp = rAck then s
  else
    let s1 :=
      if resp = rTarget then (s.set1 BUS_STATUS.terr).bump BUS_ERRCNT.target 1
      else if resp = rRoute then (s.set1 BUS_STATUS.rerr).bump BUS_ERRCNT.route 1
      else s.unavail
    (s1.setReg BUS_ERR_LAST (BitVec.ofNat 32 (2 ^ 31 + b2n write * 2 ^ 30 + resp * 2 ^ 28 + m.id * 2 ^ 20 + target * 2 ^ 16))).setReg
      BUS_ERR_ADDR (BitVec.ofNat 32 addr)

/-! ### Addresses, targets and paths (R456, R457, R468, R469) -/

/-- The address behind the alias at 0. -/
def State.realAddr (s : State) (a : Nat) : Nat :=
  if s.isSet SYS_REMAP.remap then (if a < 0x200000 then 0x10000000 + a else a)
  else if a < 0x20000 then 0x08000000 + a else a

/-- The target of an address, after the alias: 0 boot ROM, 1 system SRAM, 2–5 scratchpads, 6 shadow port, 7 register bridge, 8 DRAM, 9 flash
controller; `none` where no target answers. -/
def targetOf (a : Nat) : Option Nat :=
  if 0x08000000 ≤ a && a < 0x08020000 then some 0
  else if 0x10000000 ≤ a && a < 0x10200000 then some 1
  else if 0x20000000 ≤ a && a < 0x24000000 && a % 0x1000000 < 0x200000 then some (2 + (a - 0x20000000) / 0x1000000)
  else if 0x30000000 ≤ a && a < 0x30800000 then some 6
  else if a / 0x10000 = 0x4044 then some 9
  else if 0x40000000 ≤ a && a < 0x50000000 then (if (regTable (a / 0x10000)).isEmpty then none else some 7)
  else if 0x80000000 ≤ a && a < 0x100000000 then some 8
  else none

/-- Whether recovery boot listens: the host bridge then reaches the recovery window and little else (R442, R446). -/
def State.recovering (s : State) : Bool := s.op = .boot && s.rd SEC_RECOV.state = 1

/-- Whether an address lies in the recovery window. -/
def inRecovWindow (a : Nat) : Bool := 0xAE000000 ≤ a && a < 0xAE000000 + recovWindow

/-- Whether a path exists (R457). -/
def State.path (s : State) (m : Master) (t a : Nat) : Bool :=
  match m with
  | .cp => true
  | .hb => t = 1 || t = 7 || t = 9 || (t = 8 && s.recovering && inRecovWindow a)
  | .ndma => t = 1 || t = 8
  | .mdma => t = 1 || t = 6 || t = 8
  | .fdma => t = 1 || t = 8 || t = 9
  | .cdma n => t = 1 || t = 8 || t = 2 + n.val
  | .xld => t = 1 || t = 6 || t = 8

/-- Targets that honour a lock (R456). -/
def honoursLock (t : Nat) : Bool := 1 ≤ t && t ≤ 7

/-- Whether a target, or the register block behind the bridge, answers UNAVAILABLE (R185, R466, R467). -/
def State.targetShut (s : State) (t a : Nat) : Bool :=
  if 2 ≤ t && t ≤ 5 then s.held (t - 2) || s.gateShut (t - 2) || s.inDusk (t - 2)
  else if t = 6 then s.inDusk 5
  else if t = 7 then s.gated a
  else if t = 9 then s.held 6
  else false

/-! ### Beats -/

/-- The sixteen bytes of a beat, lowest first. -/
def Beat.bytes (b : Beat) : List Byte := (List.range 16).map (fun i => b.data.extractLsb' (8 * i) 8)

/-- The strobes of one lane. -/
def Beat.lane (b : Beat) (l : Nat) : Nat := b.strobe.toNat / 16 ^ l % 16

/-- The word of one lane. -/
def Beat.word (b : Beat) (l : Nat) : Word := b.data.extractLsb' (32 * l) 32

/-- The one lane whose strobes are all set while no other strobe is (R460). -/
def Beat.oneWord (b : Beat) : Option Nat := (List.range 4).find? (fun l => b.strobe.toNat = 15 * 16 ^ l)

/-- Sixteen zero bytes. -/
def zeroBeat : List Byte := List.replicate 16 0

/-- Write the strobed bytes of a beat to plain memory. -/
def State.putBeat (s : State) (a : Nat) (b : Beat) : State :=
  upTo 16 (fun i st => if b.strobe.getLsbD i then st.setByte (a + i) (b.bytes.getD i 0) else st) s

/-- Lanes that a write covers only in part. -/
def Beat.partLanes (b : Beat) : List Nat := (List.range 4).filter (fun l => b.lane l ≠ 0 && b.lane l ≠ 15)

/-- A read beat of an SRAM (R179, R180): a lane that is uncorrectable, poisoned or fenced gives an error response. -/
def State.sramRead (s : State) (m a : Nat) (b : Beat) : State × Nat × List Byte :=
  let s1 := if b.error then s.eccUe m a else s
  let bad := b.error || (List.range 4).any (fun l => (a + 4 * l) ∈ s.ms.poisoned || deadAt s.flt.dead (a + 4 * l))
  if bad then (s1, rTarget, zeroBeat) else (s1, rAck, s.bytes a 16)

/-- A write beat of an SRAM (R181): whole lanes store and clear errors; part of a lane is merged, but a lane found uncorrectable in that
stays poisoned and the beat fails. -/
def State.sramWrite (s : State) (m a : Nat) (b : Beat) : State × Nat :=
  let hurt := b.partLanes.filter (fun l => b.error || (a + 4 * l) ∈ s.ms.poisoned)
  match hurt with
  | l :: _ =>
    let p := a + 4 * l
    let s1 := if b.error then s.eccUe m p else s
    ({ s1 with ms := { s1.ms with poisoned := if p ∈ s1.ms.poisoned then s1.ms.poisoned else s1.ms.poisoned ++ [p] } }, rTarget)
  | [] =>
    let s1 := s.putBeat a b
    (upTo 4 (fun l st => if b.lane l = 15 then st.laneWritten (a + 4 * l) else st) s1, rAck)

/-- A coefficient lane as bytes would merge: the whole word, or the stored one with the strobed bytes replaced. -/
def mergeWord (old new : Word) (strobes : Nat) : Word :=
  BitVec.ofNat 32 (leNat ((List.range 4).map (fun i =>
    if strobes / 2 ^ i % 2 = 1 then new.extractLsb' (8 * i) 8 else old.extractLsb' (8 * i) 8)))

/-- Store words at consecutive nodes of a column through the shadow port (R75, R76); `none` leaves a node as it is. -/
def State.coefPut (s : State) (idx : Nat) (ws : List (Option Word)) : State × Nat :=
  let bank := 1048576 ≤ idx
  let m := idx % 1048576 / 1024
  let n := idx % 1024
  if !s.shadowOpen bank m then (s.blockedWrite, rTarget)
  else
    (upTo ws.length (fun i st => match ws.getD i none with
      | some w => st.setGain bank m (n + i) w
      | none => st) s, rAck)

/-- A write beat of the shadow port. -/
def State.coefBeat (s : State) (a : Nat) (b : Beat) : State × Nat :=
  let idx := (a - 0x30000000) / 4
  s.coefPut idx ((List.range 4).map (fun l =>
    if b.lane l = 0 then none else some (mergeWord (SMap.get zeroWord s.coef (idx + l)) (b.word l) (b.lane l))))

/-- A read beat of the shadow port. -/
def State.coefRead (s : State) (a : Nat) : List Byte :=
  bytesOfWords ((List.range 4).map (fun l => SMap.get zeroWord s.coef ((a - 0x30000000) / 4 + l)))

/-- A beat of the register bridge (R460): one aligned word. -/
def State.regBeat (s : State) (m : Master) (write : Bool) (a : Nat) (b : Beat) : State × Nat × List Byte :=
  match b.oneWord with
  | none => (s, rTarget, zeroBeat)
  | some l =>
    let r := a + 4 * l
    if write then ((s.regWriteAny m r (b.word l)).1, rAck, [])
    else
      let s1 := s.regReadFx r
      (s1, rAck, List.replicate (4 * l) 0 ++ bytesOfWord s1.lastRead ++ List.replicate (12 - 4 * l) 0)

/-- A beat of the flash controller's block: each strobed lane is one word of it. -/
def State.flashBeat (s : State) (m : Master) (write : Bool) (a : Nat) (b : Beat) : State × Nat × List Byte :=
  if write then
    (upTo 4 (fun l st => if b.lane l = 15 then (st.regWriteAny m (a + 4 * l) (b.word l)).1 else st) s, rAck, [])
  else
    (List.range 4).foldl (fun (acc : State × Nat × List Byte) l =>
      if b.lane l = 0 then (acc.1, acc.2.1, acc.2.2 ++ [0, 0, 0, 0])
      else
        let s1 := acc.1.regReadFx (a + 4 * l)
        (s1, acc.2.1, acc.2.2 ++ bytesOfWord s1.lastRead)) (s, rAck, [])

/-- One beat at its target: the state, the response and, of a read, the data. -/
def State.doBeat (s : State) (m : Master) (write : Bool) (t a : Nat) (b : Beat) : State × Nat × List Byte :=
  if s.targetShut t (if t = 7 then a + 4 * (b.oneWord.getD 0) else a) then (s, rUnavail, zeroBeat)
  else
    let wr (x : State × Nat) : State × Nat × List Byte := (x.1, x.2, [])
    match t with
    | 0 => if write then (s, rTarget, []) else (s, rAck, s.bytes a 16)
    | 1 =>
      if write then
        (if m = .hb && !(0x10100000 ≤ a) then (s, rTarget, []) else wr (s.sramWrite 4 a b))
      else s.sramRead 4 a b
    | 6 => if write then wr (s.coefBeat a b) else (s, rAck, s.coefRead a)
    | 7 => s.regBeat m write a b
    | 8 =>
      if 0xF8000000 ≤ a then (s, rTarget, zeroBeat)
      else if write then (s.putBeat a b, rAck, [])
      else if b.error then (s.dramUe a, rTarget, zeroBeat)
      else (s, rAck, s.bytes a 16)
    | 9 => s.flashBeat m write a b
    | _ =>
      if a % 0x1000000 ≥ 0x1FC000 && m ≠ .cp then (s, rTarget, zeroBeat)
      else if write then wr (s.sramWrite (t - 2) a b)
      else s.sramRead (t - 2) a b

/-- The beats of a burst in order, each recorded. -/
def State.doBeats (s : State) (m : Master) (write : Bool) (t : Nat) : Nat → List Beat → State
  | _, [] => s
  | a, b :: bs =>
    let (s1, r, d) := s.doBeat m write t a b
    let s2 := s1.busRecord m t write a r
    let d1 := if write then [] else if r = rAck then d else zeroBeat
    let s3 := { s2 with bus := { s2.bus with lastResp := s2.bus.lastResp ++ [r], lastData := s2.bus.lastData ++ d1 } }
    State.doBeats s3 m write t (a + 16) bs

/-- Every beat of a burst is answered with one response and does nothing. -/
def State.failBeats (s : State) (m : Master) (write : Bool) (t r : Nat) : Nat → Nat → State
  | _, 0 => s
  | a, n + 1 =>
    let s1 := s.busRecord m t write a r
    State.failBeats { s1 with bus := { s1.bus with
      lastResp := s1.bus.lastResp ++ [r], lastData := s1.bus.lastData ++ (if write then [] else zeroBeat) } } m write t r (a + 16) n

/-! ### Arbitration and locks (R462–R464) -/

/-- Beats after which a lock is truncated. -/
def lockBeats : Nat := 16

/-- Whether another master's locked sequence keeps a burst from being granted. -/
def State.lockedOut (s : State) (m : Master) (t : Nat) : Bool :=
  match SMap.find s.bus.lock t with
  | some l => l % 32 ≠ m.id && l / 32 < lockBeats
  | none => false

/-- What a granted burst does to the lock of its target: sequences of less than 16 beats hold it; at 16 it is truncated, and the rest of
that sequence runs unlocked. -/
def State.lockStep (s : State) (b : Burst) (t : Nat) : State :=
  let put (st : State) (v : Option Nat) : State :=
    { st with bus := { st.bus with lock := match v with
        | some x => SMap.insert t x st.bus.lock
        | none => SMap.erase t st.bus.lock } }
  let used := match SMap.find s.bus.lock t with
    | some l => if l % 32 = b.master.id then l / 32 else 0
    | none => 0
  if !honoursLock t then s
  else if !b.locked then (match SMap.find s.bus.lock t with
    | some l => if l % 32 = b.master.id then put s none else s
    | none => s)
  else if used ≥ lockBeats then (if b.lockEnd then put s none else s)
  else
    let u := used + b.beats.length
    if u > lockBeats || (u = lockBeats && !b.lockEnd) then
      let s1 := (((s.set1 BUS_STATUS.lock_trunc).bump BUS_LKCNT.trunc 1).event 0x0503 (BitVec.ofNat 32 b.master.id) (BitVec.ofNat 32 t))
      put s1 (if b.lockEnd then none else some (32 * lockBeats + b.master.id))
    else put s (if b.lockEnd then none else some (32 * u + b.master.id))

/-- A grant at a target (R462, R463): every 16th is a courtesy grant, deferred while a lock holds. -/
def State.grant (s : State) (t waited : Nat) : State :=
  let g := SMap.get (fun _ => 0) s.bus.grants t + 1
  let holds := match SMap.find s.bus.lock t with
    | some l => l / 32 < lockBeats
    | none => false
  let courtesy := g ≥ 16 && !holds
  let s1 := { s with bus := { s.bus with grants := SMap.set (fun _ => 0) s.bus.grants t (if courtesy then 0 else min g 16) } }
  let s2 := if s1.rd (BUS_WAIT.max t) < waited then s1.wr (BUS_WAIT.max t) (min 0xFFFF waited) else s1
  if courtesy then s2.bump (BUS_WAIT.courtesy t) 1 else s2

/-- The address of the first beat of a burst, with the alias resolved. -/
def State.burstAddr (s : State) (b : Burst) : Nat := s.realAddr (b.addr.toNat / 16 * 16)

/-- Whether a burst crosses a 4 KiB boundary. -/
def Burst.crosses (b : Burst) : Bool := b.addr.toNat / 16 % 256 + b.beats.length > 256

/-- R458: a burst of a master. -/
def State.burst (s : State) (b : Burst) : State :=
  let a := s.burstAddr b
  let s0 := { s with bus := { s.bus with lastResp := [], lastData := [] } }
  match targetOf a with
  | none => s0.failBeats b.master b.write 0xF rRoute b.addr.toNat b.beats.length
  | some t =>
    if b.crosses || !s.path b.master t a then s0.failBeats b.master b.write t rRoute b.addr.toNat b.beats.length
    else if t ≠ 7 && s.targetShut t a then s0.failBeats b.master b.write t rUnavail b.addr.toNat b.beats.length
    else if s.lockedOut b.master t then s0
    else ((s0.grant t b.waited).doBeats b.master b.write t a b.beats).lockStep b t

def execBusBurst (b : Burst) (s : State) : Res :=
  if b.beats.isEmpty || b.beats.length > 16 then .fault .illFormed else .next (s.burst b)

/-- R461: a target that can time out has left a granted beat unanswered; that beat and the rest of the burst end TARGET_ERR. Three timeouts
at one target within 60 s re-initialise its function (R479). -/
def State.busTimeout (s : State) (m : Master) (t : Nat) (write : Bool) (addr beats : Nat) : State :=
  let s0 := { s with bus := { s.bus with lastResp := [], lastData := [] } }
  let s1 := (s0.failBeats m write t rTarget addr beats).set1 BUS_STATUS.timeout
  let s2 := (s1.bump BUS_EVCNT.timeout 1).event 0x0501 (BitVec.ofNat 32 m.id) (BitVec.ofNat 32 t)
  let near := s2.bus.timeouts.filter (fun x => x.1 ≠ t || since s2.cycle x.2 < s2.cyclesOfMs 60000)
  let mine := (near.filter (fun x => x.1 = t)).length + 1
  let s3 := { s2 with bus := { s2.bus with timeouts := if mine ≥ 3 then near.filter (fun x => x.1 ≠ t) else (t, s2.cycle) :: near } }
  if mine ≥ 3 && t = 9 then s3.funcReinit 6 else s3

def execBusTimeout (master : Master) (target : Fin 10) (write : Bool) (addr : Word) (beats : Fin 17) (s : State) : Res :=
  if target.val < 8 || beats.val = 0 then .fault .illFormed
  else .next (s.busTimeout master target.val write addr.toNat beats.val)

def execBusAbandon (master : Master) (target : Fin 10) (addr : Word) (s : State) : Res :=
  .next (s.abandon master target.val addr)

/-! ### Writes that reach a register or the shadow port -/

/-- Whether the host bridge may write an address in the present state (R446). -/
def State.hbWrites (s : State) (a : Nat) : Bool :=
  if s.recovering then a = SEC_RECOV || a = SEC_RECOV_LEN || inRecovWindow a
  else s.engineRuns && ((0x10100000 ≤ a && a < 0x10200000) || (0x40000000 ≤ a && a < 0x50000000))

/-- Whether the host bridge may read an address in the present state (R446). -/
def State.hbReads (s : State) (a : Nat) : Bool :=
  if s.recovering then a / 0x10000 = 0x4000 || a = SEC_RECOV || a = SEC_RECOV_LEN || inRecovWindow a
  else if s.op = .faultHold then a / 0x10000 = 0x4000 || a / 0x10000 = 0x4043
  else s.engineRuns && ((0x10100000 ≤ a && a < 0x10200000) || (0x40000000 ≤ a && a < 0x50000000))

/-- A single-word register write of a master on the matrix: path, unassigned blocks, gates; whether it failed or was refused. -/
def State.busWord (s : State) (m : Master) (addr : Nat) (v : Word) : State × Bool :=
  match targetOf addr with
  | some t =>
    if (t ≠ 7 && t ≠ 9) || !s.path m t addr then (s.busRecord m t true addr rRoute, true)
    else if s.targetShut t addr then (s.busRecord m t true addr rUnavail, true)
    else s.regWriteAny m addr v
  | none => (s.busRecord m 0xF true addr rRoute, true)

/-- The same with the host bridge's windows (R446). -/
def State.matrixWrite (s : State) (m : Master) (addr : Nat) (v : Word) : State :=
  if m = .hb && !s.hbWrites addr then { s with spi := { s.spi with err := true } } else (s.busWord m addr v).1

/-- A word-aligned address. -/
def wordAddr (a : Word) : Nat := a.toNat / 4 * 4

def execRegisterWrite (master : Master) (addr : Word) (v : Word) (s : State) : Res := .next (s.matrixWrite master (wordAddr addr) v)

/-- R508: only the broadcast window of a block is meant. -/
def execBroadcastAliasWrite (master : Master) (addr : Word) (v : Word) (s : State) : Res :=
  if addr.toNat % 0x10000 / 0x4000 ≠ 2 then .fault .illFormed else .next (s.matrixWrite master (wordAddr addr) v)

/-- R508: only the group window of a block is meant. -/
def execGroupAliasWrite (master : Master) (addr : Word) (v : Word) (s : State) : Res :=
  if addr.toNat % 0x10000 / 0x4000 ≠ 3 then .fault .illFormed else .next (s.matrixWrite master (wordAddr addr) v)

/-- R75, R76: a write of one node, or of four consecutive ones, through the shadow port. -/
def execCoefShadowWrite (master : Master) (addr : Word) (words : List Word) (s : State) : Res :=
  let a := addr.toNat
  if (words.length ≠ 1 && words.length ≠ 4) || a % (4 * words.length) ≠ 0 || a < 0x30000000 || 0x30800000 ≤ a then .fault .illFormed
  else if !s.path master 6 a then .next (s.busRecord master 6 true a rRoute)
  else if s.targetShut 6 a then .next (s.busRecord master 6 true a rUnavail)
  else
    let (s1, r) := s.coefPut ((a - 0x30000000) / 4) (words.map some)
    .next (s1.busRecord master 6 true a r)

end Sys2Proof.Machine
end

