-- ==== Sys2Proof/Machine/Qspi.lean ====
section
/-! DEFINITION. The quad-SPI host port and the TAP (19_boot_host_security.md, R443–R447, R452, R455). -/

namespace Sys2Proof.Machine

def State.mapSpi (s : State) (f : PortState → PortState) : State := { s with spi := f s.spi }

/-- The status byte (R447) with a given rdy bit. -/
def State.statusByte (s : State) (rdy : Bool) : Byte :=
  BitVec.ofNat 8 (s.rd SYS_STATE.state * 32 + b2n s.recovering * 16 + b2n s.spi.err * 8 + b2n rdy * 4
    + b2n s.spi.wbuf.isSome * 2 + b2n s.hirq)

/-- RDSR: no data follows, so the spec gives rdy no value: a free value. -/
def execRdsr (s : State) : Res :=
  let (v, s1) := s.drawFree
  .next (s1.mapSpi (fun p => { p with out := [s.statusByte (v.getLsbD 0)] }))

/-- CLSR clears err. -/
def execClsr (s : State) : Res := .next (s.mapSpi (fun p => { p with err := false }))

/-- RDID: SYS_ID, little-endian. -/
def execRdid (s : State) : Res := .next (s.mapSpi (fun p => { p with out := bytesOfWord (s.reg SYS_ID) }))

/-- One word read through the port, with its side effect: registers, system SRAM, the recovery window. -/
def State.portRead (s : State) (a : Nat) : State × Word :=
  match targetOf a with
  | some 7 =>
    if s.targetShut 7 a then (s.busRecord .hb 7 false a rUnavail, 0)
    else (s.regReadFx a, (s.regReadFx a).lastRead)
  | some 9 => (s.regReadFx a, (s.regReadFx a).lastRead)
  | some _ => (s, s.memWord a)
  | none => (s.busRecord .hb 0xF false a rRoute, 0)

/-- The words of a read from an address on: 0xFF bytes and err where the window is closed (R446). -/
def State.portReads (s : State) : Nat → Nat → State × List Byte
  | _, 0 => (s, [])
  | a, n + 1 =>
    let (s1, w) :=
      if s.hbReads a then (let (t, x) := s.portRead a; (t, bytesOfWord x))
      else (s.mapSpi (fun p => { p with err := true }), List.replicate 4 0xFF)
    let (s2, ws) := State.portReads s1 (a + 4) n
    (s2, w ++ ws)

/-- A read with no latched word. -/
def State.portStart (s : State) (a n : Nat) (ready : Bool) : State :=
  if ready || (0x10100000 ≤ a && a < 0x10200000) then
    let (s1, bytes) := s.portReads a n
    s1.mapSpi (fun p => { p with out := s.statusByte true :: bytes })
  else
    let (s1, w) := s.portRead a
    s1.mapSpi (fun p => { p with latch := some (BitVec.ofNat 32 a, w), out := s.statusByte false :: List.replicate (4 * n) 0xFF })

/-- R444: a read of `n` words. A read that is not ready in time latches its first word for the next read of the same address; system
SRAM is always ready. -/
def State.portTransfer (s : State) (addr : Word) (n : Nat) (ready : Bool) : State :=
  let a := addr.toNat
  let bad (st : State) : State := st.mapSpi (fun p => { p with err := true })
  if a % 4 ≠ 0 || !s.hbReads a then
    let s1 := bad s
    s1.mapSpi (fun p => { p with out := s1.statusByte true :: List.replicate (4 * n) 0xFF })
  else
    match s.spi.latch with
    | some (la, w) =>
      if la = addr then
        let s1 := s.mapSpi (fun p => { p with latch := none })
        let (s2, rest) := s1.portReads (a + 4) (n - 1)
        s2.mapSpi (fun p => { p with out := s1.statusByte true :: (bytesOfWord w ++ rest).take (4 * n) })
      else s.portStart a n ready
    | none => s.portStart a n ready

def execRead (addr : Word) (words : BitVec 8) (ready : Bool) (s : State) : Res := .next (s.portTransfer addr words.toNat ready)
def execReadQ (addr : Word) (words : BitVec 8) (ready : Bool) (s : State) : Res := .next (s.portTransfer addr words.toNat ready)
def execReadQio (addr : Word) (words : BitVec 8) (ready : Bool) (s : State) : Res := .next (s.portTransfer addr words.toNat ready)

/-- R445: data enters the write buffer; a write during wbusy, beyond 64 bytes or at an unaligned address is discarded in full. -/
def State.portWrite (s : State) (addr : Word) (bytes : List Byte) : State :=
  if s.spi.wbuf.isSome || bytes.length > 64 || addr.toNat % 4 ≠ 0 then s.mapSpi (fun p => { p with err := true })
  else s.mapSpi (fun p => { p with wbuf := some (addr, bytes) })

def execWrite (addr : Word) (bytes : List Byte) (s : State) : Res := .next (s.portWrite addr bytes)
def execWriteQ (addr : Word) (bytes : List Byte) (s : State) : Res := .next (s.portWrite addr bytes)
def execWriteQio (addr : Word) (bytes : List Byte) (s : State) : Res := .next (s.portWrite addr bytes)

/-- One word of the flush; whether it failed or met a lock. -/
def State.flushWord (s : State) (a : Nat) (w : Word) : State × Bool :=
  if !s.hbWrites a then (s, true)
  else if 0x40000000 ≤ a && a < 0x50000000 then s.busWord .hb a w
  else
    let s1 := s.setMemWord a w
    (if a < 0x20000000 then s1.laneWritten a else s1, false)

/-- The whole words of the buffer in ascending order; the first that fails ends the flush, and the words before it stand. -/
def State.flushWords (s : State) : Nat → List Word → State
  | _, [] => s
  | a, w :: ws =>
    let (s1, bad) := s.flushWord a w
    if bad then s1.mapSpi (fun p => { p with err := true }) else State.flushWords s1 (a + 4) ws

/-- R445: HCS_N rises and the buffer is flushed as whole words; a trailing partial word is discarded and sets err. -/
def execQspiWriteFlush (s : State) : Res :=
  .next (match s.spi.wbuf with
    | none => s
    | some (a, bytes) =>
      let s1 := s.mapSpi (fun p => { p with wbuf := none, err := p.err || bytes.length % 4 ≠ 0 })
      s1.flushWords a.toNat (wordsOfBytes (bytes.take (bytes.length / 4 * 4))))

/-! ### The TAP (R452, R455) -/

/-- Whether the TAP offers more than BYPASS and IDCODE. -/
def State.tapOpen (s : State) : Bool := !s.isSet SEC_STATUS.jtag_locked

/-- Whether EXTEST and a debug halt are obeyed: in BOOT with BOOTSEL = 10, unlocked. -/
def State.tapBoot (s : State) : Bool := s.tapOpen && s.op = .boot && s.rd SYS_STATE.bootsel = 2

/-- OTP_KEY: a hash into an empty slot. -/
def execOtpKey (slot : Fin 3) (hash : BitVec 256) (s : State) : Res :=
  .next (if s.tapOpen && SMap.get (fun _ => (0 : BitVec 256)) s.sec.otp slot.val = 0 then
      { s with sec := { s.sec with otp := SMap.set (fun _ => 0) s.sec.otp slot.val hash } }
    else s)

/-- EXTEST: the boundary register holds the pins. -/
def execExtest (s : State) : Res := .next (if s.tapBoot then s.mapSpi (fun p => { p with extest := true }) else s)

/-- BYPASS: the pins return to functional control. -/
def execBypass (s : State) : Res := .next (s.mapSpi (fun p => { p with extest := false }))

/-- IDCODE reads 0x1B02_4D3F; the pins return to functional control. -/
def execIdcode (s : State) : Res := .next (s.mapSpi (fun p => { p with extest := false, tap := 0x1B024D3F }))

/-- A debug halt of the command processor. -/
def execDebugHalt (s : State) : Res := .next (if s.tapBoot then s.mapSpi (fun p => { p with halted := true }) else s)

end Sys2Proof.Machine
end

