-- ==== Sys2Proof/Machine/OpKit.lean ====
section
/-! DEFINITION. What the opcodes of 18_opcode_reference.md share: a row of the opcode table, checks of parameters and targets
(R394, R411, R412), configuration words carried "as REGISTER", completion at the commit tick. -/

namespace Sys2Proof.Machine

/-- One opcode: its fixed columns, what its decision answers, and what its commit at the apply cycle does. -/
structure OpRow where
  spec : OpSpec
  decide : Cmd → List Nat → Word → State → Verdict
  commit : Outst → State → State

/-- The commit of an opcode that has none: an untimed one. -/
def noCommit (_ : Outst) (s : State) : State := s

/-! ### Checks -/

/-- A check that fails with a status and a detail. -/
abbrev Fail := Option (Nat × Nat)

/-- A condition that must hold. -/
def need (ok : Bool) (st d : Nat) : Fail := if ok then none else some (st, d)

/-- Parameter word k must meet a condition: else BAD_PARAM with its header index (R412). -/
def Cmd.needP (c : Cmd) (k : Nat) (ok : Bool) : Fail := need ok stBadParam (c.pIdx k)

/-- The bits from hi down to lo. -/
def bitsAt (hi lo : Nat) : Nat := (2 ^ (hi + 1 - lo) - 1) * 2 ^ lo

/-- A word holds no bit outside a mask. -/
def within (w : Word) (mask : Nat) : Bool := (w.toNat &&& mask) == w.toNat

/-- The bits of a register that software may set. -/
def cfgMask (addr : Nat) : Nat :=
  match findReg addr with
  | some r => r.fields.foldl (fun m f => if f.acc = .rw || f.acc = .rwl then m + bitsAt f.hi f.lo else m) 0
  | none => 0

/-- The first parameter word, from word k on, that holds a bit outside its mask (R412). -/
def Cmd.reserved (c : Cmd) : Nat → List Nat → Fail
  | _, [] => none
  | k, m :: ms => if within (c.p k) m then c.reserved (k + 1) ms else some (stBadParam, c.pIdx k)

/-- The first check of a list that fails. -/
def firstOf (l : List Fail) : Fail := l.findSome? id

/-- A verdict unless a check fails: a command without objects of its own. -/
def checked (l : List Fail) (v : Verdict) : Verdict :=
  match firstOf l with
  | some (st, d) => .refuse st d none
  | none => v

/-- A verdict unless a check of a target fails (R394): the lowest failing object is named. -/
def eachOf (ts : List Nat) (f : Nat → List Fail) (v : Verdict) : Verdict :=
  match firstFail (fun o => firstOf (f o)) ts with
  | some (st, d, o) => .refuse st d (some o)
  | none => v

/-- Accepted, waiting for the apply cycle; nothing is reserved. -/
def waits (s : State) : Verdict := .timed 1 [] s

/-- Done at the decision, with reply words. -/
def answers (ws : List Word) (s : State) : Verdict := .reply stDone 0 (bytesOfWords ws) s

/-! ### Commit -/

/-- The command of an outstanding entry completes DONE now, with reply words. -/
def State.doneWith (s : State) (o : Outst) (ws : List Word) : State := s.finish o.cmd.ref stDone 0 (bytesOfWords ws)

def State.doneNow (s : State) (o : Outst) : State := s.finish o.cmd.ref stDone 0 []

/-- A check made again at the commit tick fails: nothing changes, and of a group command the lowest failing object is named
(R394). -/
def State.failNow (s : State) (o : Outst) (st d : Nat) (obj : Option Nat) : State :=
  let reply := match obj with
    | some k => if o.cmd.scope = 0 then [] else leBytes 4 k
    | none => []
  s.finish o.cmd.ref st d reply

/-- Commit an effect unless a check fails. -/
def State.commitUnless (s : State) (o : Outst) (l : List Fail) (go : State → State) : State :=
  match firstOf l with
  | some (st, d) => s.failNow o st d none
  | none => go s

/-- Commit an effect unless a check of a target fails. -/
def State.commitEach (s : State) (o : Outst) (f : Nat → List Fail) (go : State → State) : State :=
  match firstFail (fun k => firstOf (f k)) o.objs with
  | some (st, d, k) => s.failNow o st d (some k)
  | none => go s

/-- The command waits for the ends of a number of objects. -/
def State.waitFor (s : State) (o : Outst) (n : Nat) : State := s.mapOut o.cmd.ref (fun x => { x with left := n })

/-- The command runs until it is stopped (R405). -/
def State.runsOn (s : State) (o : Outst) : State := s.mapOut o.cmd.ref (fun x => { x with phase := .running })

/-- Start an action on every target; each reports its end to the command. -/
def State.startAll (s : State) (o : Outst) (f : Nat → State → State) : State :=
  forAll o.objs f (s.waitFor o o.objs.length)

/-! ### Configuration words -/

/-- Store the fields of a register that software may set. -/
def State.putCfg (s : State) (addr : Nat) (w : Word) : State :=
  let m := BitVec.ofNat 32 (cfgMask addr)
  s.setReg addr ((s.reg addr &&& ~~~m) ||| (w &&& m))

/-- Store consecutive parameter words, from word k on, at the addresses of a list. -/
def State.putCfgs (s : State) (c : Cmd) : Nat → List Nat → State
  | _, [] => s
  | k, a :: as => (s.putCfg a (c.p k)).putCfgs c (k + 1) as

/-! ### Targets that cannot be used (R415) -/

/-- Whether the memory of a strip's core is out of use: the cluster reset or gated, its scratchpad in Dusk. -/
def State.stripDown (s : State) (cls strip : Nat) : Bool :=
  match SMap.find s.img.quads (stripKey cls strip) with
  | some q => s.held (q.disp.core / 8) || s.gateShut (q.disp.core / 8) || s.inDusk (q.disp.core / 8)
  | none => false

/-- Whether a network port is reset or gated. -/
def State.portDown (s : State) (p : Nat) : Bool := s.held (4 + p) || (p = 1 && s.gateShut 7)

/-- Whether an object is reset, gated or in Dusk. -/
def State.objDown (s : State) (cls k : Nat) : Bool :=
  match cls with
  | 0x02 => s.stripDown 2 k
  | 0x03 => s.stripDown 3 k
  | 0x04 => s.inDusk 4
  | 0x05 => s.inDusk 4
  | 0x06 => s.held (16 + k) || s.gateShut 6
  | 0x0A => s.held (32 + k) || s.gateShut 4
  | 0x0B => s.gateShut 5
  | _ => false

/-- The check that an object may be used. -/
def State.needUp (s : State) (cls k : Nat) : Fail := need (!s.objDown cls k) stUnavailable 0

/-- Whether a column is shed in SQUALL (R499): a forced column follows its holder. -/
def State.colShed (s : State) (m : Nat) : Bool := !(s.ocol m).forced && shedClass s.level (s.declClass m)

end Sys2Proof.Machine
end

