-- ==== Sys2Proof/Machine/OpLog.lean ====
section
/-! DEFINITION. Log opcodes, 0x0Cxx (R434, R490). -/

namespace Sys2Proof.Machine

/-- Every entry held, oldest first: those in flash, then those in staging. -/
def State.logEntries (s : State) : List LogEntry := s.log.flash ++ s.log.staged

/-- The oldest sequence number held; the next one where nothing is held. -/
def State.logOldest (s : State) : Word :=
  match s.logEntries with
  | e :: _ => e.seq
  | [] => s.reg LOG_NEXT

/-- LOG_READ: the bounds of the log, or with xreply the entries from p0 on. -/
def logReadDecide (c : Cmd) (_ : List Nat) (_ : Word) (s : State) : Verdict :=
  let n := fieldOf (c.p 1) 11 0
  let found := ((s.logEntries.filter (fun e => !later32 (c.p 0) e.seq)).take n).flatMap LogEntry.bytes
  checked [c.reserved 1 [bitsAt 11 0], c.needP 0 (!later32 s.logOldest (c.p 0)), c.needP 1 (1 ≤ n && n ≤ 2048)]
    (if c.xreply then .reply stDone 0 found s else answers [s.logOldest, s.reg LOG_NEXT] s)

def opLogRead : OpRow := ⟨⟨0x0C00, 0x14, 0x14, false, false, 6, 6, 0, 15, false⟩, logReadDecide, noCommit⟩

def logMarkDecide (_ : Cmd) (_ : List Nat) (_ : Word) (s : State) : Verdict := waits s

/-- LOG_MARK: an entry with host words p0 and p1 (R491). Where staging is full the entry is dropped, and its number is a free value. -/
def logMarkCommit (o : Outst) (s : State) : State :=
  let s1 := s.event 0x4301 (o.cmd.p 0) (o.cmd.p 1)
  if s1.log.staged.length = s.log.staged.length then
    let (v, s2) := s1.drawFree
    s2.doneWith o [v]
  else s1.doneWith o [s1.reg LOG_NEXT - 1]

def opLogMark : OpRow := ⟨⟨0x0C01, 0x14, 0x14, false, false, 8, 8, 0, 15, true⟩, logMarkDecide, logMarkCommit⟩

end Sys2Proof.Machine
end

