-- ==== Sys2Proof/Machine/OpStrip.lean ====
section
/-! DEFINITION. Strip and image opcodes, 0x03xx, and the chunked writes and background jobs of firmware and images
(R143–R144, R422, R423). -/

namespace Sys2Proof.Machine

/-! ### Parameters (R127, R128, R423) -/

/-- The strips a parameter command acts on: a group or broadcast skips the strips of bypass quads (R127). -/
def State.paramTargets (s : State) (c : Cmd) (ts : List Nat) : List Nat :=
  if c.scope = 0 then ts else ts.filter (fun k => !s.bypassStrip c.cls.toNat k)

/-- Between A and S of a dip activation parameter commands find their target busy (R139). -/
def State.dipBusy (s : State) : Bool :=
  match s.img.act with
  | some x => x.mode = .dip && x.begun && !x.switched
  | none => false

/-- The checks of a strip that hold for every parameter command; `detail` is that of a bypass quad. -/
def State.stripChecks (s : State) (c : Cmd) (detail k : Nat) : List Fail :=
  let cls := c.cls.toNat
  [ need (!s.bypassStrip cls k) stBadParam detail,
    need (!s.shedStrip cls k) stShed 0,
    s.needUp cls k ]

/-- Whether a strip's shadow takes a write or a swap (R128). -/
def State.shadowFree (s : State) (cls k : Nat) : Bool :=
  !s.dipBusy && (s.shadowOf cls k = .clean || s.shadowOf cls k = .dirty)

/-- The word range of a PARAM_WRITE lies in the strip's parameter. -/
def State.paramFits (s : State) (c : Cmd) (k : Nat) : Bool :=
  match s.paramOf c.cls.toNat k (fieldOf (c.p 0) 15 0) with
  | some d => fieldOf (c.p 0) 23 16 + (c.params.length - 1) ≤ d.size
  | none => false

def State.paramWriteChecks (s : State) (c : Cmd) (k : Nat) : List Fail :=
  s.stripChecks c (c.pIdx 0) k
    ++ [c.needP 0 (s.paramFits c k), need (s.shadowFree c.cls.toNat k) stBusy 0]

/-- The targets of a parameter command, or its BAD_PARAM when every named strip lies in a bypass quad. -/
def State.paramEach (s : State) (c : Cmd) (ts : List Nat) (detail : Nat) (f : Nat → List Fail) (v : Verdict) : Verdict :=
  let l := s.paramTargets c ts
  if l = [] then .refuse stBadParam detail (some (ts.headD 0)) else eachOf l f v

def paramWriteDecide (c : Cmd) (ts : List Nat) (_ : Word) (s : State) : Verdict :=
  match c.reserved 0 [bitsAt 23 0] with
  | some (st, d) => .refuse st d (some (ts.headD 0))
  | none => s.paramEach c ts (c.pIdx 0) (s.paramWriteChecks c) (waits s)

/-- The values land in the shadow bank of every strip named (R127). -/
def paramWriteCommit (o : Outst) (s : State) : State :=
  let c := o.cmd
  let cls := c.cls.toNat
  let x := { o with objs := s.paramTargets c o.objs }
  s.commitEach x (s.paramWriteChecks c) (fun st =>
    (forAll x.objs (fun k t =>
      match t.paramOf cls k (fieldOf (c.p 0) 15 0) with
      | some d => t.paramWrite cls k (d.woff + fieldOf (c.p 0) 23 16) (c.params.drop 1)
      | none => t) st).doneNow o)

def opParamWrite : OpRow := ⟨⟨0x0300, 2, 3, true, true, 6, 64, 0, 11, true⟩, paramWriteDecide, paramWriteCommit⟩

/-- PARAM_SWAP is accepted: the quads of its strips wait in PENDING (R128). -/
def paramSwapDecide (c : Cmd) (ts : List Nat) (a : Word) (s : State) : Verdict :=
  let cls := c.cls.toNat
  let l := s.paramTargets c ts
  s.paramEach c ts 2 (fun k => s.stripChecks c 2 k ++ [need (s.shadowFree cls k) stBusy 0])
    (.timed (l.map (stripKey cls)).eraseDups.length []
      (forAll l (fun k st => st.paramPend cls k a c.ref) s))

/-- The bank pointers flip at this tick (R37); the command completes when every quad is CLEAN again. -/
def paramSwapCommit (_ : Outst) (s : State) : State := s

def opParamSwap : OpRow := ⟨⟨0x0301, 2, 3, true, true, 4, 4, 0, 11, true⟩, paramSwapDecide, paramSwapCommit⟩

def paramReadDecide (c : Cmd) (ts : List Nat) (_ : Word) (s : State) : Verdict :=
  let cls := c.cls.toNat
  let k := ts.headD 0
  match firstOf ([c.reserved 0 [bitsAt 16 0]] ++ s.stripChecks c (c.pIdx 0) k), s.paramOf cls k (fieldOf (c.p 0) 15 0) with
  | some (st, d), _ => .refuse st d none
  | none, none => .refuse stBadParam (c.pIdx 0) none
  | none, some d =>
    let ws := (List.range d.size).map (fun i => s.memWord (s.paramAddr cls k (d.woff + i) (bitOf (c.p 0) 16)))
    answers (BitVec.ofNat 32 ((s.shadowOf cls k).code + d.size * 2 ^ 8) :: ws) s

def opParamRead : OpRow := ⟨⟨0x0302, 2, 3, false, false, 5, 5, 0, 15, false⟩, paramReadDecide, noCommit⟩

/-! ### Chunked writes (R422) -/

/-- The step of a chunked write: 0 open, 1 chunk, 2 close. -/
def Cmd.chunkStep (c : Cmd) : Nat := fieldOf (c.p 0) 31 30

/-- The checks of a chunked write's parameters: `mask` covers the target's field in p0. -/
def chunkChecks (c : Cmd) (mask : Nat) : List Fail :=
  let a := (c.p 1).toNat
  let n := (c.p 2).toNat
  [c.reserved 0 [bitsAt 31 30 + mask], c.needP 0 (c.chunkStep ≠ 3)] ++
  (if c.chunkStep = 1 then
    [ c.needP 1 (a % 16 = 0 && 0x10100000 ≤ a && a < 0x10200000),
      c.needP 2 (n % 16 = 0 && 16 ≤ n && n ≤ 65536),
      c.needP 1 (a + n ≤ 0x10200000),
      c.needP 3 ((c.p 3).toNat % 16 = 0) ]
   else [])

/-- The bytes of a chunk that lie in a target of `size` bytes, stored at their offset. -/
def State.chunkInto (s : State) (c : Cmd) (size : Nat) (m : SMap Byte) (d : Nat → Byte) : SMap Byte :=
  let o := (c.p 3).toNat
  SMap.setList d m o ((s.bytes (c.p 1).toNat (c.p 2).toNat).take (size - o))

/-- A background job is accepted unless a check fails. -/
def startsJob (l : List Fail) (s : State) : Verdict := checked l (.job s)

/-- What a job answers: status, detail and reply. -/
abbrev JobEnd := State × Nat × Nat × List Byte

/-- The image slot of an IMG_WRITE is closed to writes (R144). -/
def State.slotClosed (s : State) (k : Nat) : Bool := k = s.img.pinned || (s.img.running.isSome && k = s.img.runSlot)

def imgWriteDecide (c : Cmd) (_ : List Nat) (_ : Word) (s : State) : Verdict :=
  startsJob (chunkChecks c 1 ++ [need (!s.slotClosed (fieldOf (c.p 0) 0 0)) stNotPermitted 0,
    need (!s.held 6) stUnavailable 0]) s

/-- The bytes that the image in a slot declares. -/
def slotSize : Nat := 0x2000000

/-- An IMG_WRITE step is finished (R143, R422). -/
def imgWriteJob (c : Cmd) (s : State) : JobEnd :=
  let k := fieldOf (c.p 0) 0 0
  let x := s.imgSlot k
  if s.slotClosed k then (s, stNotPermitted, 0, [])
  else if c.chunkStep = 0 then (s.setImgSlot k ⟨.writing, []⟩, stDone, 0, [])
  else if x.state ≠ .writing then (s, stBadSequence, 0, [])
  else if c.chunkStep = 1 then (s.setImgSlot k { x with bytes := s.chunkInto c slotSize x.bytes flashErased }, stDone, 0, [])
  else match s.checkSlot k with
    | (s1, .ok _) => (s1, stDone, 0, [])
    | (s1, .error f) => (s1, f.status, f.check, leBytes 4 (f.word false))

def opImgWrite : OpRow := ⟨⟨0x0303, 1, 1, false, false, 8, 8, 4, 15, false⟩, imgWriteDecide, noCommit⟩

def fwWriteDecide (c : Cmd) (_ : List Nat) (_ : Word) (s : State) : Verdict :=
  startsJob (chunkChecks c 1 ++ [need (fieldOf (c.p 0) 0 0 ≠ s.img.fwRun) stNotPermitted 0,
    need (!s.held 6) stUnavailable 0]) s

/-- The bytes of a firmware slot. -/
def fwSlotSize : Nat := 0x1000000

/-- An FW_WRITE step is finished (R439, R440, R422). -/
def fwWriteJob (c : Cmd) (s : State) : JobEnd :=
  let k := fieldOf (c.p 0) 0 0
  let x := SMap.get slotDefault s.img.fw k
  let put (y : FlashSlot) : State := { s with img := { s.img with fw := SMap.set slotDefault s.img.fw k y } }
  if c.chunkStep = 0 then (put ⟨.writing, []⟩, stDone, 0, [])
  else if x.state ≠ .writing then (s, stBadSequence, 0, [])
  else if c.chunkStep = 1 then (put { x with bytes := s.chunkInto c fwSlotSize x.bytes flashErased }, stDone, 0, [])
  else match s.fwFail x.at with
    | some f => (put { x with state := .bad }, if f = 1 then stBadParam else stAuthFail, if f = 1 then 1 else 0, [])
    | none => ((put { x with state := .valid }).setFwMeta k ⟨false, 0, false⟩, stDone, 0, [])

def opFwWrite : OpRow := ⟨⟨0x0307, 1, 1, false, false, 8, 8, 4, 15, false⟩, fwWriteDecide, noCommit⟩

/-! ### Activation (R33, R136–R142) -/

/-- The mode of an IMG_ACTIVATE. -/
def actModeOf (c : Cmd) : ActMode := match fieldOf (c.p 0) 2 1 with
  | 0 => .full
  | 1 => .dip
  | _ => .seamless

/-- Whether a dip is allowed: no class 5–7 path, or a pair member that reaches no load (R136). -/
def State.dipAllowed (s : State) : Bool := !s.alarmPath || (s.twin && (s.astate = 1 || s.astate = 6))

/-- What stands against activating an image now, in the order of R33 and R136. -/
def State.activateChecks (s : State) (c : Cmd) (im : Image) : List Fail :=
  let same := match s.img.running with
    | some r => r.fi96 = im.fi96 && r.b = im.b
    | none => false
  let mode := actModeOf c
  [ need (s.img.act.isNone) stBusy 0,
    need ((same && mode ≠ .full) || s.op = .ready) stBadSequence 0,
    need (mode ≠ .dip || (same && s.dipAllowed)) stNotPermitted 0,
    need (mode ≠ .seamless || (match s.img.running with
      | some r => same && seamlessOk r im
      | none => false)) stCapacity 0 ]

/-- The switch tick S of an activation accepted with apply cycle `a` (R138, R139). -/
def State.switchTick (s : State) (c : Cmd) (im : Image) (a : Word) : Word :=
  let d := BitVec.ofNat 32 (stagingCycles im)
  match actModeOf c with
  | .full => a
  | .dip => a + BitVec.ofNat 32 (fieldOf (c.p 0) 8 3 + 1) + d
  | .seamless => if !c.follows && (c.apply = 0 || later32 (s.cycle + d) a) then s.cycle + d else a

def imgActivateDecide (c : Cmd) (_ : List Nat) (a : Word) (s : State) : Verdict :=
  let k := fieldOf (c.p 0) 0 0
  match firstOf [c.reserved 0 [bitsAt 8 0], c.needP 0 (fieldOf (c.p 0) 2 1 ≠ 3), need (s.img.act.isNone) stBusy 0,
      need ((s.imgSlot k).state = .valid) stBadSequence 0] with
  | some (st, d) => .refuse st d none
  | none =>
    match s.checkSlot k with
    | (s1, .error f) => .reply f.status f.check (leBytes 4 (f.word c.follows)) s1
    | (s1, .ok im) =>
      checked (s1.activateChecks c im)
        (let t := s1.switchTick c im a
         let x : Activation := ⟨k, actModeOf c, fieldOf (c.p 0) 8 3 + 1, a, t, false, false, false, some c.ref⟩
         .timedAt (if actModeOf c = .seamless then t else a) (s1.setAct (some x)))

/-- IMG_ACTIVATE at its apply cycle: a dip that the state no longer allows is refused; a full restart has stopped the tick before. -/
def imgActivateCommit (o : Outst) (s : State) : State :=
  match s.img.act with
  | some x =>
    if x.mode = .dip && x.owner = some o.cmd.ref && !s.dipAllowed then (s.setAct none).failNow o stNotPermitted 0 none else s
  | none => s

def opImgActivate : OpRow := ⟨⟨0x0304, 1, 1, false, false, 5, 5, 0, 11, true⟩, imgActivateDecide, imgActivateCommit⟩

def imgPinDecide (c : Cmd) (_ : List Nat) (_ : Word) (s : State) : Verdict :=
  checked [c.reserved 0 [1], need ((s.imgSlot (fieldOf (c.p 0) 0 0)).state = .valid) stBadSequence 0] (waits s)

def imgPinCommit (o : Outst) (s : State) : State :=
  let k := fieldOf (o.cmd.p 0) 0 0
  s.commitUnless o [need ((s.imgSlot k).state = .valid) stBadSequence 0]
    (fun st => ({ st with img := { st.img with pinned := k } }).doneNow o)

def opImgPin : OpRow := ⟨⟨0x0305, 1, 1, false, false, 5, 5, 0, 11, true⟩, imgPinDecide, imgPinCommit⟩

def imgStatusDecide (_ : Cmd) (_ : List Nat) (_ : Word) (s : State) : Verdict :=
  let w0 := (s.imgSlot 0).state.code + (s.imgSlot 1).state.code * 4 + s.img.runSlot * 16 + s.img.pinned * 32
  let (i, v, d) := match s.img.running with
    | some im => (im.imageId, im.version, beBytes 32 im.digest.toNat)
    | none => (0, 0, List.replicate 32 0)
  .reply stDone 0 (bytesOfWords [BitVec.ofNat 32 w0, i, v, 0] ++ d) s

def opImgStatus : OpRow := ⟨⟨0x0306, 1, 1, false, false, 4, 4, 0, 15, false⟩, imgStatusDecide, noCommit⟩

end Sys2Proof.Machine
end

