-- ==== Sys2Proof/Machine/OpMem.lean ====
section
/-! DEFINITION. Memory and test opcodes, 0x0Axx (R432, R471, R472).

The resources of a commanded test are numbered by the model (notes/assumptions/96.md): a BANK resource is memory × 8192 + 1 KiB
region, with the scratchpads as memories 0–3 and system SRAM as 4; a COEF resource its region of the two banks; a DRAMROW resource its
8 KiB row from 0x8000_0000; a CONV resource a converter channel, or 512 + a decimation chain. -/

namespace Sys2Proof.Machine

/-- Whether a resource number names a resource of a test kind. -/
def testResOk (k : TestKind) (res : Nat) : Bool :=
  match k with
  | .lane => res < 128
  | .core => res < 32
  | .bank => res / 8192 < 5 && res % 8192 < 2048
  | .coef => res < 8192
  | .dramRow => true
  | .link => res < 4
  | .portLoop => res < 64
  | .conv => res < 552

/-- Whether the test's resource belongs to a cluster that is reset or gated. -/
def State.testDown (s : State) (k : TestKind) (res : Nat) : Bool :=
  let down (n : Nat) : Bool := n < 4 && (s.held n || s.gateShut n || s.inDusk n)
  match k with
  | .core => down (res / 8)
  | .bank => down (res / 8192)
  | .coef => s.inDusk 5
  | .conv => if res < 512 then s.gateShut 5 else s.gateShut 4 || s.held (32 + (res - 512))
  | _ => false

/-- Whether a converter channel or decimation chain carries audio. -/
def State.convBusy (s : State) (res : Nat) : Bool :=
  if res < 512 then s.isSet (ASRC_CH.used res) else s.decState (res - 512) != decStopped

/-- Whether a commanded test must stand back (R432): the resource is under test, its tester's queue is full, its protection is not
available, or it would interrupt live audio. -/
def State.testBusy (s : State) (k : TestKind) (res : Nat) : Bool :=
  s.flt.tests.any (fun t => t.kind = k && t.res = res)
    || (s.flt.tests.filter (fun t => testerOf t.kind t.res = testerOf k res)).length ≥ testerQueue
    || (match k with
      | .lane => (s.spareOf res).isNone && s.freeSpare.isNone
      | .dramRow =>
        let bank := 96 + Config.dramBank ((0x80000000 + res * 8192) / 8192)
        (s.flt.spares.filter (fun x => x.1 = bank)).length ≥ 64
      | .conv => s.convBusy res
      | _ => false)

def selftestKind (c : Cmd) : TestKind :=
  match fieldOf (c.p 0) 3 0 with
  | 0 => .lane | 1 => .core | 2 => .bank | 3 => .coef | 4 => .dramRow | 5 => .link | 6 => .portLoop | _ => .conv

def selftestRes (c : Cmd) : Nat := fieldOf (c.p 0) 23 8

def selftestDecide (c : Cmd) (_ : List Nat) (_ : Word) (s : State) : Verdict :=
  checked [c.reserved 0 [bitsAt 23 8 + bitsAt 3 0],
    c.needP 0 (fieldOf (c.p 0) 3 0 ≤ 7 && testResOk (selftestKind c) (selftestRes c))] (waits s)

/-- SELFTEST at its apply cycle: the test is queued; a LANE test hands its columns to a spare. SELFTEST_DONE completes the command. -/
def selftestCommit (o : Outst) (s : State) : State :=
  let k := selftestKind o.cmd
  let res := selftestRes o.cmd
  s.commitUnless o [need (!s.testDown k res) stUnavailable 0, need (!s.testBusy k res) stBusy 0] (fun st =>
    let s1 := if k = .lane then st.laneStandIn res else st
    { s1 with flt := { s1.flt with tests := s1.flt.tests ++ [⟨k, res, s1.cycle, 0, some o.cmd.ref⟩] } })

def opSelftest : OpRow := ⟨⟨0x0A00, 0x13, 0x13, false, false, 5, 5, 0, 11, true⟩, selftestDecide, selftestCommit⟩

/-- Whether a run of addresses lies in one memory that MEM_READ reads: system SRAM, one scratchpad, DRAM outside its check bits (R189). -/
def readable (a n : Nat) : Bool :=
  (0x10000000 ≤ a && a + n ≤ 0x10200000)
    || (List.range 4).any (fun k => 0x20000000 + k * 0x1000000 ≤ a && a + n ≤ 0x20200000 + k * 0x1000000)
    || (0x80000000 ≤ a && a + n ≤ 0xF8000000)

/-- Whether an address lies in a scratchpad that cannot be reached. -/
def State.padDown (s : State) (a : Nat) : Bool :=
  0x20000000 ≤ a && a < 0x24000000 && (let n := a / 0x1000000 - 0x20; s.held n || s.gateShut n || s.inDusk n)

/-- MEM_READ runs as a background job; it requires xreply. -/
def memReadDecide (c : Cmd) (_ : List Nat) (_ : Word) (s : State) : Verdict :=
  let n := (c.p 1).toNat
  startsJob [need c.xreply stBadLength 0, c.needP 1 (16 ≤ n && n ≤ 65536), c.needP 0 (readable (c.p 0).toNat n),
    need (!s.padDown (c.p 0).toNat) stUnavailable 0] s

/-- The bytes of a MEM_READ. -/
def memReadJob (c : Cmd) (s : State) : JobEnd :=
  if s.padDown (c.p 0).toNat then (s, stUnavailable, 0, [])
  else (s, stDone, 0, s.bytes (c.p 0).toNat (c.p 1).toNat)

def opMemRead : OpRow := ⟨⟨0x0A01, 0x13, 0x13, false, false, 6, 6, 4, 15, false⟩, memReadDecide, noCommit⟩

def memDuskDecide (c : Cmd) (_ : List Nat) (_ : Word) (s : State) : Verdict :=
  checked [c.reserved 0 [cfgMask MEM_DUSK]] (waits s)

/-- MEM_DUSK at its apply cycle: a request that may not stand sets dusk_refused (R186). -/
def memDuskCommit (o : Outst) (s : State) : State :=
  let req := getFld MEM_DUSK.req (o.cmd.p 0)
  let s1 := s.duskRequest req
  if s.duskOk req then s1.doneNow o else s1.failNow o stBadSequence 0 none

def opMemDusk : OpRow := ⟨⟨0x0A02, 0x13, 0x13, false, false, 5, 5, 0, 11, true⟩, memDuskDecide, memDuskCommit⟩

def wispConfigDecide (c : Cmd) (_ : List Nat) (_ : Word) (s : State) : Verdict :=
  checked [c.reserved 0 [cfgMask MEM_WISP_CFG]] (waits s)

def wispConfigCommit (o : Outst) (s : State) : State := (s.putCfg MEM_WISP_CFG (o.cmd.p 0)).doneNow o

def opWispConfig : OpRow := ⟨⟨0x0A03, 0x13, 0x13, false, false, 5, 5, 0, 11, true⟩, wispConfigDecide, wispConfigCommit⟩

end Sys2Proof.Machine
end

