-- ==== Sys2Proof/Machine/OpRoute.lean ====
section
/-! DEFINITION. Routing and crosspoint opcodes, 0x02xx (R421). -/

namespace Sys2Proof.Machine

/-! ### Patch requests -/

/-- The check of R101. -/
def State.patchFree (s : State) (op entry : Nat) : Fail := need (!s.patchProtected op entry) stNotPermitted 0

/-- The request that PATCH_IN makes on one crosspoint input. -/
def patchInReq (o : Outst) (n : Nat) : PatchReq :=
  ⟨o.apply, 0, fieldOf (o.cmd.p 0) 21 16 + 1, n, fieldOf (o.cmd.p 0) 15 0, some o.cmd.ref, none⟩

/-- Mirror channels beyond 1,024 refuse a command of a synced pair (R374). -/
def State.mirrorRoom (s : State) (vs : List Nat) : Fail :=
  let new := (vs.filter (fun v => !s.mirrorList.contains v)).eraseDups
  need (!s.synced || decide (s.mirrorChannels + new.foldl (fun n v => n + s.mirrorCount v) 0 ≤ 1024)) stCapacity 7

def patchInDecide (c : Cmd) (ts : List Nat) (_ : Word) (s : State) : Verdict :=
  let v := fieldOf (c.p 0) 15 0
  eachOf ts (fun n => [c.reserved 0 [bitsAt 21 0], c.needP 0 (validSource v), s.patchFree 0 n,
    if v = 0 then none else s.mirrorRoom [v]]) (waits s)

def patchInCommit (o : Outst) (s : State) : State :=
  s.commitEach o (fun n => [s.patchFree 0 n]) (fun st => st.startAll o (fun n t => t.commitPatch (patchInReq o n) t.cycle))

def opPatchIn : OpRow := ⟨⟨0x0200, 2, 2, true, true, 5, 5, 0, 11, true⟩, patchInDecide, patchInCommit⟩

/-- The request of a SINK_SET: op, ld and entry as PATCH_REQ1. -/
def sinkReq (c : Cmd) (a : Word) (owner : Option CmdRef) : PatchReq :=
  let w := c.p 0
  ⟨a, getFld PATCH_REQ1.op w, getFld PATCH_REQ1.ld w + 1, getFld PATCH_REQ1.entry w, fieldOf (c.p 1) 9 0, owner, none⟩

def sinkSetDecide (c : Cmd) (_ : List Nat) (_ : Word) (s : State) : Verdict :=
  let r := sinkReq c 0 none
  checked [c.reserved 0 [cfgMask PATCH_REQ1], c.needP 0 (1 ≤ r.op && r.op ≤ 4 && r.entry < 1032),
      c.reserved 1 [if r.op = 1 then 0x3FF else 0], s.patchFree r.op r.entry] (waits s)

def sinkSetCommit (o : Outst) (s : State) : State :=
  let r := sinkReq o.cmd o.apply (some o.cmd.ref)
  s.commitUnless o [s.patchFree r.op r.entry] (fun st => st.commitPatch r st.cycle)

def opSinkSet : OpRow := ⟨⟨0x0201, 1, 1, false, false, 6, 6, 0, 11, true⟩, sinkSetDecide, sinkSetCommit⟩

/-! ### Gains -/

/-- The checks of a column (R185, R499). -/
def State.colChecks (s : State) (m : Nat) : List Fail := [s.needUp 4 m, need (!s.colShed m) stShed 0]

/-- Whether a column's shadow bank takes a write now (R75). -/
def State.colOpen (s : State) (m : Nat) : Bool :=
  let c := s.col m
  !c.ramping s.cycle && !c.copying

/-- Write gains into a column's shadow bank from input n0 on (R75, R76). -/
def State.putGains (s : State) (m : Nat) : Nat → List Word → State
  | _, [] => s
  | n, g :: gs => (s.setGain (!(s.col m).bank) m n g).putGains m (n + 1) gs

/-- A write of gains at its commit tick. -/
def State.commitGains (s : State) (o : Outst) (m n : Nat) (gs : List Word) : State :=
  s.commitUnless o [s.needUp 4 m, need (s.colOpen m) stBusy 0] (fun st => (st.putGains m n gs).doneNow o)

def xptNodeDecide (_ : Cmd) (ts : List Nat) (_ : Word) (s : State) : Verdict :=
  checked (s.colChecks (ts.headD 0 / 1024)) (waits s)

def xptNodeCommit (o : Outst) (s : State) : State :=
  s.commitGains o (o.objs.headD 0 / 1024) (o.objs.headD 0 % 1024) [o.cmd.p 0]

def opXptNode : OpRow := ⟨⟨0x0202, 5, 5, false, false, 5, 5, 0, 11, true⟩, xptNodeDecide, xptNodeCommit⟩

def xptColDecide (c : Cmd) (ts : List Nat) (_ : Word) (s : State) : Verdict :=
  checked ([c.reserved 0 [0x3FF], c.needP 0 (fieldOf (c.p 0) 9 0 + (c.params.length - 1) ≤ 1024)]
    ++ s.colChecks (ts.headD 0)) (waits s)

def xptColCommit (o : Outst) (s : State) : State :=
  s.commitGains o (o.objs.headD 0) (fieldOf (o.cmd.p 0) 9 0) (o.cmd.params.drop 1)

def opXptCol : OpRow := ⟨⟨0x0203, 4, 4, false, false, 6, 64, 0, 11, true⟩, xptColDecide, xptColCommit⟩

/-! ### Swap and copy -/

/-- The scope and target of a queue entry for a command's targets. -/
def xptScope (c : Cmd) (ts : List Nat) : Nat × Nat :=
  if c.scope = 0 then (0, ts.headD 0) else if c.scope = 1 then (1, c.index.toNat) else (2, 0)

/-- The tick at which an entry commits: its cycle, or the next tick if that is not later than CYCLE (R72). -/
def State.entryTick (s : State) (e : XptEntry) : Word := if later32 e.apply s.cycle then e.apply else s.cycle + 1

/-- Whether an entry takes a column at cycle `a`: it commits at that tick, or its ramp is still running then (R73). -/
def State.entryMeets (s : State) (e : XptEntry) (a : Word) : Bool :=
  let d := sval (a - s.entryTick e)
  decide (0 ≤ d) && decide (d < ((if e.op = 0 then e.len else 1) : Nat))

/-- Whether a column could be skipped by an entry at `a` (R73): a ramp in progress, or an entry already in the queue. -/
def State.colSkips (s : State) (m : Nat) (a : Word) : Bool :=
  (s.col m).ramping a || s.xpt.queue.any (fun e => s.entryMeets e a && (s.entryCols e).contains m)

/-- A swap or copy command: it takes its queue entry at the decision. -/
def xptEntryDecide (op len : Nat) (c : Cmd) (ts : List Nat) (a : Word) (s : State) : Verdict :=
  let sc := xptScope c ts
  match firstFail (fun m => firstOf (s.colChecks m ++ [need (!s.colSkips m a) stBusy 0])) ts with
  | some (st, d, k) => .refuse st d (some k)
  | none =>
    if s.xpt.queue.length ≥ 32 then .refuse stCapacity 2 (some (ts.headD 0))
    else .timed 1 [] (s.pushXpt ⟨a, op, sc.1, sc.2, len, some c.ref⟩)

def xptSwapDecide (c : Cmd) (ts : List Nat) (a : Word) (s : State) : Verdict :=
  match c.reserved 0 [0x3FF] with
  | some (st, d) => .refuse st d (some (ts.headD 0))
  | none => xptEntryDecide 0 (fieldOf (c.p 0) 9 0 + 1) c ts a s

/-- The queue entry commits at the same tick (R72); the command completes when its ramp or its copy ends. -/
def xptCommit (_ : Outst) (s : State) : State := s

def opXptSwap : OpRow := ⟨⟨0x0204, 4, 4, true, true, 5, 5, 0, 11, true⟩, xptSwapDecide, xptCommit⟩
def opXptCopy : OpRow := ⟨⟨0x0205, 4, 4, true, true, 4, 4, 0, 11, true⟩, xptEntryDecide 1 1, xptCommit⟩

/-! ### Reads and capture -/

def xptReadDecide (c : Cmd) (ts : List Nat) (_ : Word) (s : State) : Verdict :=
  let m := ts.headD 0
  let n := fieldOf (c.p 1) 25 16
  let k := fieldOf (c.p 1) 10 0
  let bank := (s.col m).bank != bitOf (c.p 0) 0
  checked [c.reserved 0 [1, bitsAt 25 16 + bitsAt 10 0], c.needP 1 (1 ≤ k && n + k ≤ 1024), s.needUp 4 m]
    (answers ((List.range k).map (fun i => s.gain bank m (n + i))) s)

def opXptRead : OpRow := ⟨⟨0x0206, 4, 4, false, false, 6, 6, 0, 15, false⟩, xptReadDecide, noCommit⟩

def meterReadDecide (c : Cmd) (_ : List Nat) (_ : Word) (s : State) : Verdict :=
  let n := fieldOf (c.p 0) 10 0
  let k := fieldOf (c.p 1) 10 0
  checked [c.reserved 0 [bitsAt 10 0, bitsAt 10 0], c.needP 1 (1 ≤ k && n + k ≤ 2048)]
    (answers ((List.range k).flatMap (fun i => [s.reg (PATCH_MTR_PEAK (n + i)), s.reg (PATCH_MTR_MS (n + i))])) s)

def opMeterRead : OpRow := ⟨⟨0x0207, 1, 1, false, false, 6, 6, 0, 15, false⟩, meterReadDecide, noCommit⟩

/-- The buffer is armed, or an accepted CAPTURE will arm it. -/
def State.capTaken (s : State) (n : Nat) : Bool :=
  (s.cap n).armed || s.q.outst.any (fun o => o.cmd.op = 0x0208 && o.phase = .waiting && fieldOf (o.cmd.p 0) 31 30 = n)

def captureDecide (c : Cmd) (_ : List Nat) (_ : Word) (s : State) : Verdict :=
  checked [c.reserved 0 [bitsAt 31 28 + bitsAt 9 0], c.needP 0 (fieldOf (c.p 0) 29 28 ≠ 3),
      need (!s.capTaken (fieldOf (c.p 0) 31 30)) stBusy 0] (waits s)

/-- CAPTURE at its apply cycle, which is its start cycle. -/
def captureCommit (o : Outst) (s : State) : State :=
  let n := fieldOf (o.cmd.p 0) 31 30
  s.commitUnless o [need (!(s.cap n).armed) stBusy 0] (fun st =>
    let s1 := (st.wr (XPT_CAP_CFG.point n) (fieldOf (o.cmd.p 0) 29 28)).wr (XPT_CAP_CFG.index n) (fieldOf (o.cmd.p 0) 9 0)
    let s2 := s1.setReg (XPT_CAP_START n) s1.cycle
    (s2.setCap n ⟨true, s2.cycle, 0, some o.cmd.ref⟩).wr (XPT_CAP_CFG.arm n) 1)

def opCapture : OpRow := ⟨⟨0x0208, 1, 1, false, false, 5, 5, 0, 11, true⟩, captureDecide, captureCommit⟩

end Sys2Proof.Machine
end

