-- ==== Sys2Proof/Machine/OpMsg.lean ====
section
/-! DEFINITION. Message, generator and estimator opcodes, 0x07xx (R427, R428). -/

namespace Sys2Proof.Machine

/-! ### The message store (R257–R260, R422) -/

/-- What an open MSG_WRITE declares: alarm and rate flags, fallback, length, the host's CRC. -/
def msgDeclared (c : Cmd) : MsgEntry :=
  ⟨false, bitOf (c.p 1) 1, bitOf (c.p 1) 2, false, true, fieldOf (c.p 1) 31 16, (c.p 2).toNat, 0, c.p 3, []⟩

/-- The limits of the store: pinned heads 64 MiB, alarm messages 512 MiB, all data 3,584 MiB (R194, R259, R260). -/
def State.msgFits (s : State) (m : Nat) (x : MsgEntry) : Bool :=
  let t := s.setMsg m x
  (!x.alarm || (t.pinnedBytes ≤ 0x4000000 && t.alarmBytes ≤ 0x20000000)) && t.storeBytes ≤ 0xE0000000

/-- The checks of a MSG_WRITE step; the flags valid and bad report results and are 0 in a parameter (R412). -/
def State.msgChecks (s : State) (c : Cmd) : List Fail :=
  let m := fieldOf (c.p 0) 12 0
  (if c.chunkStep = 0 then
    [ need (within (c.p 1) (bitsAt 31 16 + 6)) stBadParam (c.pIdx 1),
      c.needP 2 (1 ≤ (c.p 2).toNat && (c.p 2).toNat < 2 ^ 31) ] else [])
  ++ [need (!s.msgInUse m) stNotPermitted 0]
  ++ (if c.chunkStep = 0 then [need (s.msgFits m (msgDeclared c)) stCapacity 6] else [])

def msgWriteDecide (c : Cmd) (_ : List Nat) (_ : Word) (s : State) : Verdict :=
  startsJob (chunkChecks c (bitsAt 12 0) ++ s.msgChecks c ++ [need (!s.held 6) stUnavailable 0]) s

/-- A MSG_WRITE step is finished. A message under way keeps its BAD flag until the close, and its head is no longer loaded. -/
def msgWriteJob (c : Cmd) (s : State) : JobEnd :=
  let m := fieldOf (c.p 0) 12 0
  let x := s.msgEntry m
  match firstOf (s.msgChecks c) with
  | some (st, d) => (s, st, d, [])
  | none =>
    if c.chunkStep = 0 then
      let (v, s1) := s.drawFree
      let s2 := { s1 with boot := { s1.boot with heads := s1.boot.heads.filter (fun h => h != m) } }
      ((s2.setMsg m { msgDeclared c with bad := x.bad, offset := v }).msgChanged m, stDone, 0, [])
    else if !x.writing then (s, stBadSequence, 0, [])
    else if c.chunkStep = 1 then
      (s.setMsg m { x with data := s.chunkInto c (3 * x.length) x.data flashErased }, stDone, 0, [])
    else
      let good := crc32 ((List.range (3 * x.length)).map (SMap.get flashErased x.data)) = x.crc
      let s1 := (s.setMsg m { x with writing := false, valid := good, bad := !good }).msgChanged m
      if good then (s1, stDone, 0, []) else (s1, stBadParam, 7, [])

def opMsgWrite : OpRow := ⟨⟨0x0700, 1, 1, false, false, 8, 8, 4, 15, false⟩, msgWriteDecide, noCommit⟩

/-- Step i of a CHAIN_WRITE. -/
def chainStepOf (c : Cmd) (i : Nat) : ChainStep :=
  let w := c.p (1 + 2 * i)
  ⟨fieldOf w 7 0, fieldOf w 15 8, fieldOf w 31 16, fieldOf (c.p (2 + 2 * i)) 15 0⟩

/-- Whether a step's fields lie in the ranges of R261. -/
def ChainStep.ok (x : ChainStep) : Bool :=
  match x.kind with
  | 0 => true
  | 1 => x.arg < 8192
  | 2 => 1 ≤ x.arg
  | 3 => x.arg < 16
  | _ => false

/-- The chain is checked step by step; the first failing word is named (R412). -/
def chainWriteDecide (c : Cmd) (_ : List Nat) (_ : Word) (s : State) : Verdict :=
  checked (c.reserved 0 [bitsAt 11 0] :: (List.range 16).flatMap (fun i =>
      [c.needP (1 + 2 * i) (chainStepOf c i).ok, need (within (c.p (2 + 2 * i)) 0xFFFF) stBadParam (c.pIdx (2 + 2 * i))]))
    (waits s)

def chainWriteCommit (o : Outst) (s : State) : State :=
  let n := fieldOf (o.cmd.p 0) 11 0
  s.commitUnless o [need (!s.chainInUse n) stNotPermitted 0] (fun st =>
    ({ st with msg := { st.msg with
        chains := SMap.set (fun _ => ([] : List ChainStep)) st.msg.chains n ((List.range 16).map (chainStepOf o.cmd)) } }).doneNow o)

def opChainWrite : OpRow := ⟨⟨0x0701, 1, 1, false, false, 37, 37, 4, 15, true⟩, chainWriteDecide, chainWriteCommit⟩

/-! ### Players (R263–R270, R428) -/

/-- The player that a PLAY_START names; 0xFF names any. -/
def playWho (k : Nat) : Option Nat := if k = 0xFF then none else some k

def playStartDecide (c : Cmd) (_ : List Nat) (_ : Word) (s : State) : Verdict :=
  checked [c.reserved 0 [bitsAt 18 16 + bitsAt 11 0],
      need (!(5 ≤ fieldOf (c.p 0) 18 16 && 4 ≤ c.ring.val)) stNotPermitted 0,
      c.needP 0 (s.chainOk (fieldOf (c.p 0) 11 0))] (waits s)

/-- PLAY_START at its apply cycle, after the trigger starts of that tick (R269): interim ACCEPTED with the player used. -/
def playStartCommit (o : Outst) (s : State) : State :=
  let chain := fieldOf (o.cmd.p 0) 11 0
  let cls := fieldOf (o.cmd.p 0) 18 16
  let who := playWho (o.objs.headD 0)
  if !s.chainOk chain then s.failNow o stBadParam (o.cmd.pIdx 0) none
  else match s.playPick who cls with
    | .error (st, d) => (s.playRefused (who.getD 0xFF)).failNow o st d none
    | .ok (p, was) =>
      let w := match was with
        | some k => p + 2 ^ 8 + k * 2 ^ 9
        | none => p
      ((s.playBegin p chain cls none (some o.cmd.ref) s.cycle).interim o.cmd o.apply (leBytes 4 w)).runsOn o

def opPlayStart : OpRow := ⟨⟨0x0702, 8, 8, false, false, 5, 5, 0, 11, true⟩, playStartDecide, playStartCommit⟩

def playStopDecide (_ : Cmd) (_ : List Nat) (_ : Word) (s : State) : Verdict := waits s

/-- PLAY_STOP gives the stopped starts their ABORTED before its own DONE. -/
def playStopCommit (o : Outst) (s : State) : State := (forAll o.objs (fun p t => t.playStop p stAborted) s).doneNow o

def opPlayStop : OpRow := ⟨⟨0x0703, 8, 8, true, true, 4, 4, 0, 11, true⟩, playStopDecide, playStopCommit⟩

/-! ### Generators (R272–R276) -/

/-- The configuration registers of a generator. -/
def genRegs (g : Nat) : List Nat :=
  [GEN_CFG g, GEN_FREQ g, GEN_LEVEL g, GEN_SEED g] ++
    (List.range 8).flatMap (fun k => [GEN_SEG_FSTART g k, GEN_SEG_FEND g k, GEN_SEG_DUR g k])

def genConfigDecide (c : Cmd) (ts : List Nat) (_ : Word) (s : State) : Verdict :=
  eachOf ts (fun g => [c.reserved 0 ((0x7FFFFFFF &&& cfgMask (GEN_CFG g)) :: ((genRegs g).drop 1).map cfgMask),
    c.needP 0 (getFld (GEN_CFG.type g) (c.p 0) < 6)]) (waits s)

def genConfigCommit (o : Outst) (s : State) : State :=
  s.commitEach o (fun g => [need (!s.isSet (GEN_CFG.en g)) stBadSequence 0])
    (fun st => (forAll o.objs (fun g t => t.putCfgs o.cmd 0 (genRegs g)) st).doneNow o)

def opGenConfig : OpRow := ⟨⟨0x0704, 9, 9, true, true, 32, 32, 0, 11, true⟩, genConfigDecide, genConfigCommit⟩

def genCtrlDecide (c : Cmd) (ts : List Nat) (_ : Word) (s : State) : Verdict :=
  eachOf ts (fun _ => [c.reserved 0 [7]]) (waits s)

/-- GEN_CTRL: the level and frequency words that it carries, then the enable bit, which the tick acts on. A start runs until its
generators are stopped (R405, R409); where it starts none it is done. -/
def genCtrlCommit (o : Outst) (s : State) : State :=
  let w := o.cmd.p 0
  let s1 := forAll o.objs (fun g t =>
    let t1 := if bitOf w 1 then t.setReg (GEN_LEVEL g) (o.cmd.p 1) else t
    if bitOf w 2 then t1.setReg (GEN_FREQ g) (o.cmd.p 2) else t1) s
  if bitOf w 0 then
    let new := o.objs.filter (fun g => !s.isSet (GEN_CFG.en g))
    let s2 := forAll new (fun g t => t.wr (GEN_CFG.en g) 1) s1
    if new = [] then s2.doneNow o else s2.mapOut o.cmd.ref (fun x => { x with phase := .running, objs := new })
  else (forAll o.objs (fun g t => (t.wr (GEN_CFG.en g) 0).genEnds g) s1).doneNow o

def opGenCtrl : OpRow := ⟨⟨0x0705, 9, 9, true, true, 7, 7, 0, 11, true⟩, genCtrlDecide, genCtrlCommit⟩

/-! ### The estimator (R282) -/

def visRegs (z : Nat) : List Nat := [VIS_CFG z, VIS_MIC z, VIS_CAL z, VIS_TARGET z, VIS_AMB z, VIS_LIM z]

/-- The zone may enable its corrections only on a strip whose quad runs with its region in a scratchpad. -/
def State.visEnableOk (s : State) (w : Word) : Bool :=
  !(getFld (VIS_CFG.lift_en 0) w = 1 || getFld (VIS_CFG.amb_en 0) w = 1) || (s.visRegion (getFld (VIS_CFG.os 0) w)).isSome

def visConfigDecide (c : Cmd) (_ : List Nat) (_ : Word) (s : State) : Verdict :=
  let v := (c.p 2).toNat
  checked [c.reserved 0 (bitsAt 4 0 :: (visRegs 0).map cfgMask), c.needP 1 (s.visEnableOk (c.p 1)),
    if getFld (VIS_CFG.en 0) (c.p 1) = 1 && v ≠ 0 then s.mirrorRoom [v] else none] (waits s)

def visConfigCommit (o : Outst) (s : State) : State :=
  s.commitUnless o [o.cmd.needP 1 (s.visEnableOk (o.cmd.p 1))]
    (fun st => (st.putCfgs o.cmd 1 (visRegs (fieldOf (o.cmd.p 0) 4 0))).doneNow o)

def opVisConfig : OpRow := ⟨⟨0x0706, 1, 1, false, false, 11, 11, 0, 11, true⟩, visConfigDecide, visConfigCommit⟩

end Sys2Proof.Machine
end

