-- ==== Sys2Proof/Machine/OpNet.lean ====
section
/-! DEFINITION. Network and stream opcodes, 0x05xx (R425). Stream commands index transmit stream k as k and receive stream k as
256 + k. -/

namespace Sys2Proof.Machine

/-! ### Ports -/

/-- Whether a stream that is not OFF uses a port. -/
def State.portUsed (s : State) (p : Nat) : Bool :=
  (List.range 128).any (fun k =>
    (s.strmState true k ≠ stOff && s.onPort k p)
      || (s.strmState false k ≠ stOff && (s.legsOf k).any (fun l => s.legPort l = p)))

def netRegs (p : Nat) : List Nat := [NET_CFG p, NET_IP p, NET_MASK p, NET_GW p, NET_PAIR_IP p, NET_TTL p]

def netConfigDecide (c : Cmd) (_ : List Nat) (_ : Word) (s : State) : Verdict :=
  let p := fieldOf (c.p 0) 0 0
  checked [c.reserved 0 (1 :: (netRegs p).map cfgMask), need (!s.portDown p) stUnavailable 0] (waits s)

def netConfigCommit (o : Outst) (s : State) : State :=
  let p := fieldOf (o.cmd.p 0) 0 0
  let same := o.cmd.p 2 = s.reg (NET_IP p) && o.cmd.p 3 = s.reg (NET_MASK p)
  s.commitUnless o [need (!s.portDown p) stUnavailable 0, need (same || !s.portUsed p) stBadSequence 0]
    (fun st => (st.putCfgs o.cmd 1 (netRegs p)).doneNow o)

def opNetConfig : OpRow := ⟨⟨0x0500, 1, 1, false, false, 11, 11, 0, 11, true⟩, netConfigDecide, netConfigCommit⟩

/-! ### Set-up: configuration that only commands write (R412) -/

/-- Write words given at addresses, from parameter k on; reserved bits were checked. -/
def State.putWords (s : State) (c : Cmd) : Nat → List Nat → State
  | _, [] => s
  | k, a :: as => (s.setReg a (c.p k)).putWords c (k + 1) as

/-- The masks of the words of a transmit set-up. -/
def txMasks : List Nat :=
  [bitsAt 28 17 + bitsAt 15 0, bitsAt 31 0, bitsAt 31 0, bitsAt 31 0, bitsAt 22 0, bitsAt 31 0, bitsAt 15 0]

/-- The masks of the words of a receive set-up: four words, then three for each leg. -/
def rxMasks : List Nat :=
  let leg := [bitsAt 31 0, bitsAt 31 0, bitsAt 31 29 + bitsAt 15 0]
  [bitsAt 28 28 + bitsAt 24 17 + bitsAt 15 10 + bitsAt 8 0, bitsAt 22 16 + bitsAt 10 0, bitsAt 31 0, bitsAt 15 0]
    ++ leg ++ leg ++ leg ++ leg

def strmTxSetupDecide (c : Cmd) (ts : List Nat) (_ : Word) (s : State) : Verdict :=
  if 256 ≤ ts.headD 0 then .refuse stBadTarget 0 none else checked [c.reserved 0 txMasks] (waits s)

/-- A set-up changes a stream only while it is OFF (R290), and a suspended one not at all (R309). -/
def State.setupChecks (s : State) (tx : Bool) (k : Nat) : List Fail :=
  [need (!s.isSet (stSusp tx k)) stShed 0, need (s.strmState tx k = stOff) stBadSequence 0]

def strmTxSetupCommit (o : Outst) (s : State) : State :=
  let k := o.objs.headD 0 % 256
  s.commitUnless o (s.setupChecks true k) (fun st =>
    (st.putWords o.cmd 0 [STRM_TX_CFG k, STRM_TX_DST k, STRM_TX_PORT k, STRM_TX_SSRC k, STRM_TX_SEQ k, STRM_TX_MOFS k,
      STRM_TX_ID k]).doneNow o)

def opStrmTxSetup : OpRow := ⟨⟨0x0501, 7, 7, false, false, 11, 11, 0, 11, true⟩, strmTxSetupDecide, strmTxSetupCommit⟩

def strmRxSetupDecide (c : Cmd) (ts : List Nat) (_ : Word) (s : State) : Verdict :=
  if ts.headD 0 < 256 then .refuse stBadTarget 0 none else checked [c.reserved 0 rxMasks] (waits s)

/-- One leg of a set-up: LEGk_CFG.up is ignored. -/
def State.putLeg (s : State) (c : Cmd) (k i : Nat) : State :=
  let l := 4 * k + i
  let up : Word := s.reg (STRM_LEG_CFG l) &&& BitVec.ofNat 32 (2 ^ 29)
  let w : Word := c.p (6 + 3 * i) &&& BitVec.ofNat 32 (bitsAt 31 30 + bitsAt 15 0)
  ((s.setReg (STRM_LEG_GRP l) (c.p (4 + 3 * i))).setReg (STRM_LEG_SRC l) (c.p (5 + 3 * i))).setReg (STRM_LEG_CFG l) (up ||| w)

def strmRxSetupCommit (o : Outst) (s : State) : State :=
  let k := o.objs.headD 0 % 256
  s.commitUnless o (s.setupChecks false k) (fun st =>
    let st1 := st.putWords o.cmd 0 [STRM_RX_CFG k, STRM_RX_OFS k, STRM_RX_MOFS k, STRM_RX_ID k]
    (upTo 4 (fun i t => t.putLeg o.cmd k i) st1).doneNow o)

def opStrmRxSetup : OpRow := ⟨⟨0x0502, 7, 7, false, false, 20, 20, 0, 11, true⟩, strmRxSetupDecide, strmRxSetupCommit⟩

/-! ### Starts and stops -/

/-- Direction and number of a stream object. -/
def strmObj (x : Nat) : Bool × Nat := (x < 256, x % 256)

/-- Why a start of one stream is refused now, before and with its claim. -/
def State.strmFail (s : State) (tx : Bool) (k : Nat) : Option (Nat × Nat) :=
  let st := s.strmState tx k
  if s.isSet (stSusp tx k) || shedClass s.level (s.rd (stClass tx k)) then some (stShed, 0)
  else if st = stWaiting || st = stRunning then none
  else if st = stStopping then some (stBusy, 0)
  else match s.strmRefusal tx k with
    | some f => some f
    | none => if (s.strmClaim tx k).2 then none else some (stCapacity, 4)

/-- The lowest stream that cannot start when all named start in ascending order, with its status and detail. -/
def strmShort : List Nat → State → Option (Nat × Nat × Nat)
  | [], _ => none
  | x :: xs, s =>
    let (tx, k) := strmObj x
    match s.strmFail tx k with
    | some (st, d) => some (st, d, x)
    | none => strmShort xs (s.strmStart tx k none)

def strmCtrlDecide (c : Cmd) (ts : List Nat) (_ : Word) (s : State) : Verdict :=
  eachOf ts (fun _ => [c.reserved 0 [1]]) (waits s)

/-- STRM_CTRL: the action joins those due at this tick; all of its streams start, or none (R290, R394). -/
def strmCtrlCommit (o : Outst) (s : State) : State :=
  let r := some o.cmd.ref
  let put (x : Nat) (f : Strm → Strm) (u : State) : State :=
    let (tx, k) := strmObj x
    u.setStrm tx k (f (u.strm tx k))
  if bitOf (o.cmd.p 0) 0 then
    s.commitEach o (fun x => [need (!s.isSet (stSusp (strmObj x).1 (strmObj x).2)) stShed 0])
      (fun st => st.startAll o (fun x u => put x (fun y => { y with stops := y.stops ++ [(u.cycle, r)] }) u))
  else
    match strmShort o.objs s.netTick with
    | some (st, d, x) =>
      let s1 := if st = stCapacity then s.flagEvent (if d = 4 then ASRC_STATUS.exhausted else STRM_STATUS.refused) (if d = 4 then 0 else x % 256) 0 else s
      s1.failNow o st d (some x)
    | none => s.startAll o (fun x u => put x (fun y => { y with starts := y.starts ++ [(u.cycle, r)] }) u)

def opStrmCtrl : OpRow := ⟨⟨0x0503, 7, 7, true, true, 5, 5, 0, 11, true⟩, strmCtrlDecide, strmCtrlCommit⟩

/-! ### Tag and announcements -/

def strmTagDecide (c : Cmd) (_ : List Nat) (_ : Word) (s : State) : Verdict := checked [c.reserved 0 [15]] (waits s)

def strmTagCommit (o : Outst) (s : State) : State :=
  s.commitUnless o [need ((List.range 128).all (fun k => !s.isSet (stMode false k) || s.strmState false k = stOff)) stBadSequence 0]
    (fun st => (st.putCfg STRM_TAG (o.cmd.p 0)).doneNow o)

def opStrmTag : OpRow := ⟨⟨0x0504, 1, 1, false, false, 5, 5, 0, 11, true⟩, strmTagDecide, strmTagCommit⟩

/-- A cache entry as SAP_READ gives it: 1,024 bytes, the origin first. -/
def sapBytes (e : SapEntry) : List Byte := (bytesOfWord e.origin ++ e.text ++ List.replicate 1024 0).take 1024

def sapReadDecide (c : Cmd) (_ : List Nat) (_ : Word) (s : State) : Verdict :=
  checked [c.reserved 0 [0xFF]]
    (.reply stDone 0 (bytesOfWords [BitVec.ofNat 32 s.net.sap.length, 0, 0, 0]
      ++ (s.net.sap.drop (c.p 0).toNat).flatMap sapBytes) s)

def opSapRead : OpRow := ⟨⟨0x0505, 1, 1, false, false, 5, 5, 0, 15, false⟩, sapReadDecide, noCommit⟩

end Sys2Proof.Machine
end

