-- ==== Sys2Proof/Machine/OpTwin.lean ====
section
/-! DEFINITION. Twin opcodes, 0x09xx (R430, R431).

A command that the lead has accepted reaches the other unit with its apply cycle (R377): that unit makes none of the checks of the
lead's own state again. -/

namespace Sys2Proof.Machine

/-- What a twin opcode asks for before its own checks: a pair member, and for an opcode that needs the partner an up link (R416). -/
def State.twinNeeds (s : State) (partner : Bool) : List Fail :=
  [need s.twin stNotPermitted 0, need (!partner || s.linkUp) stLinkDown 0]

/-- A verdict on the unit that decides; the other unit waits for the apply cycle. -/
def twinChecked (c : Cmd) (s : State) (l : List Fail) : Verdict := if c.follows then waits s else checked l (waits s)

/-- The commit on the unit that decided makes the checks again. -/
def State.twinCommit (s : State) (o : Outst) (l : List Fail) (go : State → State) : State :=
  if o.cmd.follows then go s else s.commitUnless o l go

/-- Whether one unit is LEAD and the other stands by for an attach. -/
def State.attachable (s : State) : Bool :=
  let out (a : Nat) : Bool := a = 1 || a = 6
  (s.astate = 4 && out s.pair.pstate) || (out s.astate && s.pair.pstate = 4)

def attachDecide (c : Cmd) (_ : List Nat) (_ : Word) (s : State) : Verdict :=
  twinChecked c s (s.twinNeeds true ++ [need s.attachable stBadSequence 0])

/-- PAIR_ATTACH: the attach starts with its checks (R381, R382); the command completes at the cut-over tick. -/
def attachCommit (o : Outst) (s : State) : State :=
  s.twinCommit o (s.twinNeeds true ++ [need s.attachable stBadSequence 0, need s.pair.attachCmd.isNone stBusy 0]) (fun st =>
    let s1 := (st.wr PAIR_STATUS.attach_fail 0).wr PAIR_STATUS.unstable 0
    { s1 with pair := { s1.pair with attachCmd := some o.cmd.ref } })

def opPairAttach : OpRow := ⟨⟨0x0900, 0x12, 0x12, false, false, 4, 4, 0, 11, true⟩, attachDecide, attachCommit⟩

/-- Whether a unit of the pair is STANDBY or SYNCED. -/
def State.oneFollows (s : State) : Bool := s.inLockstep || s.pair.pstate = 3 || s.pair.pstate = 5

def detachDecide (c : Cmd) (_ : List Nat) (_ : Word) (s : State) : Verdict :=
  twinChecked c s (s.twinNeeds true ++ [need s.oneFollows stBadSequence 0])

/-- PAIR_DETACH: the unit in lockstep enters DETACHED-WARM (R371). -/
def detachCommit (o : Outst) (s : State) : State :=
  s.twinCommit o (s.twinNeeds true ++ [need s.oneFollows stBadSequence 0]) (fun st =>
    (if st.inLockstep then st.leaveLockstep else st).doneNow o)

def opPairDetach : OpRow := ⟨⟨0x0901, 0x12, 0x12, false, false, 4, 4, 0, 11, true⟩, detachDecide, detachCommit⟩

/-- Whether the unit may yield: it leads, and the partner's current claim shows grade 5 or more. -/
def State.mayYield (s : State) : Bool :=
  s.astate = 4 && (match s.partnerClaim with
    | some c => claimGrade c ≥ 5
    | none => false)

def yieldDecide (c : Cmd) (_ : List Nat) (_ : Word) (s : State) : Verdict :=
  twinChecked c s (s.twinNeeds false ++ [need s.mayYield stBadSequence 0])

/-- PAIR_YIELD: the claim shows grade 0 until the partner is the winner; the command completes at the handover tick. -/
def yieldCommit (o : Outst) (s : State) : State :=
  if o.cmd.follows then s.doneNow o
  else s.commitUnless o (s.twinNeeds false ++ [need s.mayYield stBadSequence 0]) (fun st =>
    { st with pair := { st.pair with yielding := true, yieldBy := some o.cmd.ref } })

def opPairYield : OpRow := ⟨⟨0x0902, 0x12, 0x12, false, false, 4, 4, 0, 11, true⟩, yieldDecide, yieldCommit⟩

/-- Whether the home unit is SYNCED with 16 matching cycles. -/
def State.mayReclaim (s : State) : Bool :=
  (if s.isHome then s.astate = 3 else s.pair.pstate = 3) && (s.reg PAIR_MATCH).toNat ≥ 16

def reclaimDecide (c : Cmd) (_ : List Nat) (_ : Word) (s : State) : Verdict :=
  twinChecked c s (s.twinNeeds true ++ [need s.mayReclaim stBadSequence 0])

/-- PAIR_RECLAIM: the home unit is promoted, as R386 would. -/
def reclaimCommit (o : Outst) (s : State) : State :=
  s.twinCommit o (s.twinNeeds true ++ [need s.mayReclaim stBadSequence 0]) (fun st =>
    (if st.isHome && st.astate = 3 then st.promoteHome else st).doneNow o)

def opPairReclaim : OpRow := ⟨⟨0x0903, 0x12, 0x12, false, false, 4, 4, 0, 11, true⟩, reclaimDecide, reclaimCommit⟩

def pairRegs : List Nat := [PAIR_CFG, PAIR_HOME, PAIR_WEDGE, PAIR_SHARED]

def pairConfigDecide (c : Cmd) (_ : List Nat) (_ : Word) (s : State) : Verdict :=
  checked [c.reserved 0 (pairRegs.map cfgMask)] (waits s)

def pairConfigCommit (o : Outst) (s : State) : State := (s.putCfgs o.cmd 0 pairRegs).doneNow o

def opPairConfig : OpRow := ⟨⟨0x0904, 0x12, 0x12, false, false, 8, 8, 0, 11, true⟩, pairConfigDecide, pairConfigCommit⟩

def twpcPulseDecide (c : Cmd) (_ : List Nat) (_ : Word) (s : State) : Verdict :=
  twinChecked c s [need s.mayPulse stNotPermitted 0]

/-- TWPC_PULSE (R368): exempt from the limits of automatic pulses. -/
def twpcPulseCommit (o : Outst) (s : State) : State :=
  if o.cmd.follows then s.doneNow o
  else s.commitUnless o [need s.mayPulse stNotPermitted 0] (fun st => (st.pulse false).doneNow o)

def opTwpcPulse : OpRow := ⟨⟨0x0905, 0x12, 0x12, false, false, 4, 4, 0, 3, true⟩, twpcPulseDecide, twpcPulseCommit⟩

def pairReadDecide (_ : Cmd) (_ : List Nat) (_ : Word) (s : State) : Verdict :=
  answers [s.reg PAIR_STATUS, s.reg PAIR_CLAIM, s.reg PAIR_MATCH, s.reg PAIR_LINK] s

def opPairRead : OpRow := ⟨⟨0x0906, 0x12, 0x12, false, false, 4, 4, 0, 15, false⟩, pairReadDecide, noCommit⟩

end Sys2Proof.Machine
end

