-- ==== Sys2Proof/Machine/OpOvr.lean ====
section
/-! DEFINITION. Override opcodes, 0x0Dxx (R89, R91, R93, R102, R109–R111, R435, R436). -/

namespace Sys2Proof.Machine

/-! ### Ring-0 assert and release (R91) -/

/-- A unit of a synced pair tells the other one at once, with the cycle in which the change was latched (R377). -/
def State.tellTrig (s : State) (t : Nat) (on : Bool) : State :=
  if s.synced then { s with pair := { s.pair with link := s.pair.link ++ [.trig (Fin.ofNat 64 t) on s.cycle] } } else s

/-- A ring-0 command whose change takes effect at the assertion tick, at which it completes. -/
def State.awaitTrig (s : State) (c : Cmd) (t : Nat) : State :=
  s.setOut (s.q.outst ++ [⟨c, s.cycle, .fixed, false, 1, some s.assertTick, [t], []⟩])

def ovrAssertDecide (c : Cmd) (ts : List Nat) (_ : Word) (s : State) : Verdict :=
  let t := ts.headD 0
  let x := s.trig t
  let s1 := (s.latch t { x with ring0 := true }).tellTrig t true
  if !s.tEnable t || !s.tRing0En t then .refuse stNotPermitted 0 none
  else if x.suspended then .reply stShed 0 (bytesOfWords [s1.trigWord t]) s1
  else if x.ring0 then answers [s.trigWord t] s
  else .silent (s1.awaitTrig c t)

def opOvrAssert : OpRow := ⟨⟨0x0D00, 0x0F, 0x0F, false, false, 4, 4, 0, 0, false⟩, ovrAssertDecide, noCommit⟩

def ovrReleaseDecide (c : Cmd) (ts : List Nat) (_ : Word) (s : State) : Verdict :=
  let t := ts.headD 0
  let x := s.trig t
  let clears := x.ring0 || (s.tLatch t && (x.cin || x.twin))
  if !clears then answers [s.trigWord t] s
  else .silent (((s.latch t (s.ring0Release t)).tellTrig t false).awaitTrig c t)

def opOvrRelease : OpRow := ⟨⟨0x0D01, 0x0F, 0x0F, false, false, 4, 4, 0, 0, false⟩, ovrReleaseDecide, noCommit⟩

/-! ### Staging (R88, R109) -/

def State.notArmed (s : State) : Fail := need (!s.isSet OVR_STATUS.armed) stBadSequence 0

def ovrStageDecide (c : Cmd) (_ : List Nat) (_ : Word) (s : State) : Verdict :=
  checked [c.reserved 0 ((List.range 16).map (fun k => 0xFFFFFFFF - ovrReserved k)), s.notArmed] (waits s)

def ovrStageCommit (o : Outst) (s : State) : State :=
  let t := o.objs.headD 0
  s.commitUnless o [s.notArmed] (fun st => (upTo 16 (fun k x => x.setReg (ovrStageAddr t k) (o.cmd.p k)) st).doneNow o)

def opOvrStage : OpRow := ⟨⟨0x0D02, 0x0F, 0x0F, false, false, 20, 20, 0, 3, true⟩, ovrStageDecide, ovrStageCommit⟩

def ovrStageMaskDecide (c : Cmd) (_ : List Nat) (_ : Word) (s : State) : Verdict :=
  checked [c.reserved 0 [bitsAt 5 0], s.notArmed] (waits s)

def ovrStageMaskCommit (o : Outst) (s : State) : State :=
  let g := fieldOf (o.cmd.p 0) 5 0
  s.commitUnless o [s.notArmed] (fun st => (upTo 32 (fun i x => x.setReg (OVR_SMASK g i) (o.cmd.p (1 + i))) st).doneNow o)

def opOvrStageMask : OpRow := ⟨⟨0x0D03, 1, 1, false, false, 37, 37, 0, 3, true⟩, ovrStageMaskDecide, ovrStageMaskCommit⟩

/-! ### Arm and commit (R109–R111, R436) -/

def ovrArmDecide (c : Cmd) (_ : List Nat) (_ : Word) (s : State) : Verdict := checked [c.reserved 0 [bitsAt 15 0]] (waits s)

def ovrArmCommit (o : Outst) (s : State) : State :=
  if s.isSet OVR_STATUS.key_lockout then s.failNow o stLocked 0 none
  else if fieldOf (o.cmd.p 0) 15 0 ≠ 0xA1A5 then s.keyFail.failNow o stAuthFail 0 none
  else if s.isSet OVR_STATUS.armed then s.failNow o stBadSequence 0 none
  else
    let s1 := s.arm
    s1.doneWith o [BitVec.ofNat 32 (s1.rd OVR_ARM.chal)]

def opOvrArm : OpRow := ⟨⟨0x0D04, 1, 1, false, false, 5, 5, 0, 3, true⟩, ovrArmDecide, ovrArmCommit⟩

/-- The response an OVR_COMMIT gives. The challenge is each unit's own: the unit that follows the lead takes the lead's check for it
(notes/assumptions/95.md). -/
def State.commitResp (s : State) (c : Cmd) : BitVec 16 :=
  if c.follows then BitVec.ofNat 16 (s.rd OVR_ARM.chal) ^^^ 0x5A5A else (c.p 0).extractLsb' 0 16

/-- OVR_COMMIT: the checks of R110 at the decision; a commit that passes waits for its apply cycle. -/
def ovrCommitDecide (c : Cmd) (_ : List Nat) (a : Word) (s : State) : Verdict :=
  match firstOf [c.reserved 0 [bitsAt 15 0],
      need (s.isSet OVR_STATUS.armed && !s.isSet OVR_STATUS.commit_pend) stBadSequence 0] with
  | some (st, d) => .refuse st d none
  | none =>
    let k := s.commitCheck (s.commitResp c) (c.p 1)
    match k with
    | .pass => .timed 1 [] (s.commitPend a (some c.ref))
    | .badResp => .reply stAuthFail 4 [] (s.commitFail k)
    | .busy => .reply stBusy 0 [] (s.commitFail k)
    | .entry t => .reply stBadParam (0x8000 + t) [] (s.commitFail k)
    | .crc => .reply stBadParam 5 [] (s.commitFail k)

/-- The plane's own commit at that tick has completed the command (`takeCommit`). -/
def opOvrCommit : OpRow := ⟨⟨0x0D05, 1, 1, false, false, 6, 6, 0, 3, true⟩, ovrCommitDecide, noCommit⟩

/-! ### Declared classes and reading (R86) -/

def ovrColclassDecide (c : Cmd) (_ : List Nat) (_ : Word) (s : State) : Verdict := checked [c.reserved 0 [7]] (waits s)

def ovrColclassCommit (o : Outst) (s : State) : State :=
  let k := fieldOf (o.cmd.p 0) 2 0
  (forAll o.objs (fun m st => st.wr ⟨OVR_COLCLASS (m / 8), 4 * (m % 8), 3⟩ k) s).doneNow o

def opOvrColclass : OpRow := ⟨⟨0x0D06, 4, 4, true, true, 5, 5, 0, 3, true⟩, ovrColclassDecide, ovrColclassCommit⟩

/-- The columns that a trigger holds. -/
def State.columnsOf (s : State) (t : Nat) : Nat := (s.ovr.cols.filter (fun p => p.2.holder = some t)).length

def ovrReadDecide (_ : Cmd) (ts : List Nat) (_ : Word) (s : State) : Verdict :=
  let t := ts.headD 0
  answers ([s.trigWord t, BitVec.ofNat 32 (s.columnsOf t), s.reg OVR_GEN, s.reg OVR_LIVE_CRC]
    ++ (List.range 16).map (s.live t)) s

def opOvrRead : OpRow := ⟨⟨0x0D07, 0x0F, 0x0F, false, false, 4, 4, 0, 15, false⟩, ovrReadDecide, noCommit⟩

end Sys2Proof.Machine
end

