-- ==== Sys2Proof/Machine/OpPort.lean ====
section
/-! DEFINITION. Port and converter opcodes, 0x04xx (R424). A command that names several objects changes all of them or none (R394):
the states, stored configurations and pools that a start needs are checked for every target at the commit tick. -/

namespace Sys2Proof.Machine

/-- A check answered by a status: detail 2, the word that names the target, for a stored configuration (R412). -/
def stored (r : Option Nat) : Fail := r.map (fun st => (st, if st = stBadParam then 2 else 0))

/-- The masks of consecutive configuration words. -/
def cfgMasks (as : List Nat) : List Nat := as.map cfgMask

/-- The checks of a command whose parameters are words of registers, and of its target. -/
def State.cfgChecks (s : State) (c : Cmd) (as : List Nat) (k : Nat) : List Fail :=
  [c.reserved 0 (cfgMasks as), s.needUp c.cls.toNat k]

/-- The first target that finds its pool short when all of them claim in ascending order. -/
def shortPool (claim : Nat → State → State × Bool) : List Nat → State → Option Nat
  | [], _ => none
  | k :: ks, s =>
    match claim k s with
    | (_, false) => some k
    | (s1, true) => shortPool claim ks s1

/-! ### Serial ports -/

/-- The configuration registers of a port (R237). -/
def spRegs (n : Nat) : List Nat := [SP_CFG n, SP_FRAME n, SP_DIVN n, SP_DIVF n, SP_TIMING n]

def spConfigDecide (c : Cmd) (ts : List Nat) (_ : Word) (s : State) : Verdict :=
  eachOf ts (fun k => s.cfgChecks c (spRegs k) k) (waits s)

def spConfigCommit (o : Outst) (s : State) : State :=
  s.commitEach o (fun k => [s.needUp 6 k, need (s.spState k = spStopped) stBadSequence 0])
    (fun st => (forAll o.objs (fun k t => t.putCfgs o.cmd 0 (spRegs k)) st).doneNow o)

def opSpConfig : OpRow := ⟨⟨0x0400, 6, 6, true, true, 9, 9, 0, 11, true⟩, spConfigDecide, spConfigCommit⟩

def spCtrlDecide (c : Cmd) (ts : List Nat) (_ : Word) (s : State) : Verdict :=
  eachOf ts (fun k => [c.reserved 0 [3], s.needUp 6 k]) (waits s)

/-- The check that the converter pool suffices for the starts of this command, beside those that commit before it. -/
def State.spPool (s : State) (o : Outst) : Option Nat :=
  shortPool (fun k t => if t.spState k = spStopped then t.spClaim k else (t, true)) o.objs s.spTick

/-- SP_CTRL: the action joins those due at this tick, of which a stop wins over a start and a mute over an unmute (R226, R229). -/
def spCtrlCommit (o : Outst) (s : State) : State :=
  let r := some o.cmd.ref
  s.commitEach o (fun k => [s.needUp 6 k]) (fun st =>
    match fieldOf (o.cmd.p 0) 1 0 with
    | 0 =>
      st.commitEach o (fun k => [stored (st.spRefusal k)]) (fun t =>
        match t.spPool o with
        | some k => (t.flagEvent ASRC_STATUS.exhausted 0 0).failNow o stCapacity 4 (some k)
        | none => t.startAll o (fun k u => u.setPort k { u.port k with starts := (u.port k).starts ++ [(u.cycle, r)] }))
    | 1 => st.startAll o (fun k u => u.setPort k { u.port k with stops := (u.port k).stops ++ [(u.cycle, r)] })
    | x => st.startAll o (fun k u => u.setPort k { u.port k with mutes := (u.port k).mutes ++ [(u.cycle, x == 2, r)] }))

def opSpCtrl : OpRow := ⟨⟨0x0401, 6, 6, true, true, 5, 5, 0, 11, true⟩, spCtrlDecide, spCtrlCommit⟩

def spMaskDecide (_ : Cmd) (ts : List Nat) (_ : Word) (s : State) : Verdict :=
  eachOf ts (fun k => [s.needUp 6 k]) (waits s)

/-- SP_MASK: the shadow masks take its words and commit (R230). -/
def spMaskCommit (o : Outst) (s : State) : State :=
  s.commitEach o (fun k => [s.needUp 6 k]) (fun st => st.startAll o (fun k u =>
    ((u.setReg (SP_TXMASK k) (o.cmd.p 0)).setReg (SP_RXMASK k) (o.cmd.p 1)).spMaskCommit k (o.cmd.p 0) (o.cmd.p 1)
      (some o.cmd.ref)))

def opSpMask : OpRow := ⟨⟨0x0402, 6, 6, true, true, 6, 6, 0, 11, true⟩, spMaskDecide, spMaskCommit⟩

/-! ### Decimation channels -/

def decRegs (n : Nat) : List Nat := [DEC_CFG n, DEC_STEP n, DEC_FIRGD n, DEC_STROBE n]

def decConfigDecide (c : Cmd) (ts : List Nat) (_ : Word) (s : State) : Verdict :=
  eachOf ts (fun k => s.cfgChecks c (decRegs k) k) (waits s)

/-- A configuration of a channel commits only while it is STOPPED (R210). -/
def State.decCommit (s : State) (o : Outst) (f : Nat → State → State) : State :=
  s.commitEach o (fun k => [s.needUp 0x0A k, need (s.decState k = decStopped) stBadSequence 0])
    (fun st => (forAll o.objs f st).doneNow o)

def decConfigCommit (o : Outst) (s : State) : State := s.decCommit o (fun k t => t.putCfgs o.cmd 0 (decRegs k))

def opDecConfig : OpRow := ⟨⟨0x0403, 0x0A, 0x0A, true, true, 8, 8, 0, 11, true⟩, decConfigDecide, decConfigCommit⟩

def decTapsDecide (c : Cmd) (ts : List Nat) (_ : Word) (s : State) : Verdict :=
  eachOf ts (fun k => [c.reserved 0 [bitsAt 6 0], c.needP 0 (fieldOf (c.p 0) 6 0 + (c.params.length - 1) ≤ 96),
    s.needUp 0x0A k]) (waits s)

def decTapsCommit (o : Outst) (s : State) : State :=
  let f := fieldOf (o.cmd.p 0) 6 0
  s.decCommit o (fun k t => t.putCfgs o.cmd 1 ((List.range (o.cmd.params.length - 1)).map (fun i => DEC_TAP k (f + i))))

def opDecTaps : OpRow := ⟨⟨0x0404, 0x0A, 0x0A, true, true, 6, 64, 0, 11, true⟩, decTapsDecide, decTapsCommit⟩

def decCtrlDecide (c : Cmd) (ts : List Nat) (_ : Word) (s : State) : Verdict :=
  eachOf ts (fun k => [c.reserved 0 [1], s.needUp 0x0A k]) (waits s)

/-- DEC_CTRL: the action joins those due at this tick (R209). A configuration that cannot run sets cfg_bad of its channel (R203). -/
def decCtrlCommit (o : Outst) (s : State) : State :=
  let r := some o.cmd.ref
  s.commitEach o (fun k => [s.needUp 0x0A k]) (fun st =>
    if bitOf (o.cmd.p 0) 0 then st.startAll o (fun k u => u.decPutStop k u.cycle r)
    else
      match firstFail (fun k => if st.decState k = decStopped then stored (st.decRefusal k) else none) o.objs with
      | some (e, d, k) => (st.decBad k e).failNow o e d (some k)
      | none => st.startAll o (fun k u => u.decPutStart k u.cycle r))

def opDecCtrl : OpRow := ⟨⟨0x0405, 0x0A, 0x0A, true, true, 5, 5, 0, 11, true⟩, decCtrlDecide, decCtrlCommit⟩

def decClockRegs : List Nat := [DEC_PDMCLK, DEC_TMR 0, DEC_TMR 1, DEC_TMR 2, DEC_TMR 3]

def decClockDecide (c : Cmd) (_ : List Nat) (_ : Word) (s : State) : Verdict :=
  checked [c.reserved 0 (cfgMasks decClockRegs), need (!s.gateShut 4) stUnavailable 0] (waits s)

def decClockCommit (o : Outst) (s : State) : State :=
  s.commitUnless o [need (!s.gateShut 4) stUnavailable 0, need (!s.pdmBusy (o.cmd.p 0)) stBadSequence 0]
    (fun st => (st.putCfgs o.cmd 0 decClockRegs).doneNow o)

def opDecClock : OpRow := ⟨⟨0x0406, 1, 1, false, false, 9, 9, 0, 11, true⟩, decClockDecide, decClockCommit⟩

/-! ### Analog inputs and outputs, rate converters -/

def anaInDecide (c : Cmd) (ts : List Nat) (_ : Word) (s : State) : Verdict :=
  eachOf ts (fun k => s.cfgChecks c [ANA_IN_CFG k, ANA_BIAS_THR k] k) (waits s)

/-- ANA_IN: the gain walks to its new target (R241). -/
def anaInCommit (o : Outst) (s : State) : State :=
  s.startAll o (fun k t =>
    (t.putCfgs o.cmd 0 [ANA_IN_CFG k, ANA_BIAS_THR k]).gainWrite k (getFld (ANA_IN_CFG.gain k) (o.cmd.p 0)) (some o.cmd.ref))

def opAnaIn : OpRow := ⟨⟨0x0407, 0x0C, 0x0C, true, true, 6, 6, 0, 11, true⟩, anaInDecide, anaInCommit⟩

def anaOutDecide (c : Cmd) (ts : List Nat) (_ : Word) (s : State) : Verdict :=
  eachOf ts (fun k => s.cfgChecks c [ANA_OUT_CFG k] k) (waits s)

def anaOutCommit (o : Outst) (s : State) : State :=
  (forAll o.objs (fun k t => t.putCfg (ANA_OUT_CFG k) (o.cmd.p 0)) s).doneNow o

def opAnaOut : OpRow := ⟨⟨0x0408, 0x0C, 0x0C, true, true, 5, 5, 0, 11, true⟩, anaOutDecide, anaOutCommit⟩

/-- ASRC_READ: a channel that is not used has no tracker, and its words read 0. -/
def asrcReadDecide (_ : Cmd) (ts : List Nat) (_ : Word) (s : State) : Verdict :=
  let k := ts.headD 0
  let t := s.rd (ASRC_CH.tracker k)
  checked [s.needUp 0x0B k] (answers
    (if s.isSet (ASRC_CH.used k) then [s.reg (ASRC_CH k), s.reg (ASRC_TRK_CFG t), s.reg (ASRC_TRK_STATE t), s.reg (ASRC_TRK_RATIO t)]
      else [s.reg (ASRC_CH k), 0, 0, 0]) s)

def opAsrcRead : OpRow := ⟨⟨0x0409, 0x0B, 0x0B, false, false, 4, 4, 0, 15, false⟩, asrcReadDecide, noCommit⟩

end Sys2Proof.Machine
end

