-- ==== Sys2Proof/Machine/OpSec.lean ====
section
/-! DEFINITION. Security opcodes, 0x0Bxx (R433, R451–R455). -/

namespace Sys2Proof.Machine

/-- Whether a key slot is empty (R452): its OTP hash is all zero. -/
def State.slotEmpty (s : State) (k : Nat) : Bool := SMap.get (fun _ => (0 : BitVec 256)) s.sec.otp k = 0

/-- Whether a key slot is revoked. -/
def State.slotRevoked (s : State) (k : Nat) : Bool := (s.rd SEC_STATUS.revoked) / 2 ^ k % 2 = 1

def secStatusDecide (_ : Cmd) (_ : List Nat) (_ : Word) (s : State) : Verdict :=
  let blank := (List.range 3).foldl (fun n k => n + b2n (s.slotEmpty k) * 2 ^ k) 0
  answers
    [ BitVec.ofNat 32 (s.rd SEC_STATUS.revoked % 8 + blank * 8 + b2n (s.isSet SEC_STATUS.jtag_locked) * 2 ^ 8
        + b2n (s.isSet SEC_STATUS.wp_on) * 2 ^ 9),
      SMap.get (fun _ => 0) s.sec.lastSeq 0 ] s

def opSecStatus : OpRow := ⟨⟨0x0B00, 0x15, 0x15, false, false, 4, 4, 1, 3, false⟩, secStatusDecide, noCommit⟩

/-- Whether revoking a slot would leave an unrevoked slot that is not empty (R452). -/
def State.keyLeft (s : State) (k : Nat) : Bool := (List.range 3).any (fun j => j != k && !s.slotRevoked j && !s.slotEmpty j)

def keyRevokeDecide (c : Cmd) (_ : List Nat) (_ : Word) (s : State) : Verdict :=
  checked [c.reserved 0 [3], c.needP 0 (fieldOf (c.p 0) 1 0 ≠ 3), c.needP 1 (c.p 1 = 0x4B564552)] (waits s)

def keyRevokeCommit (o : Outst) (s : State) : State :=
  let k := fieldOf (o.cmd.p 0) 1 0
  s.commitUnless o [need (s.keyLeft k) stBadSequence 0] (fun st => (st.wr ⟨SEC_STATUS, SEC_STATUS.revoked.lo + k, 1⟩ 1).doneNow o)

def opKeyRevoke : OpRow := ⟨⟨0x0B01, 0x15, 0x15, false, false, 6, 6, 1, 3, true⟩, keyRevokeDecide, keyRevokeCommit⟩

def mgmtKeyDecide (c : Cmd) (_ : List Nat) (_ : Word) (s : State) : Verdict := checked [c.reserved 0 [1]] (waits s)

/-- MGMT_KEY: the management key; p0 [0] forgets what both keys have accepted. -/
def mgmtKeyCommit (o : Outst) (s : State) : State :=
  let s1 := if fieldOf (o.cmd.p 0) 0 0 = 1 then (s.zeroReplay 0).zeroReplay 1 else s
  ({ s1 with sec := { s1.sec with mkey := bytesOfWords (o.cmd.params.drop 1) } }).doneNow o

def opMgmtKey : OpRow := ⟨⟨0x0B02, 0x15, 0x15, false, false, 13, 13, 1, 3, true⟩, mgmtKeyDecide, mgmtKeyCommit⟩

def jtagLockDecide (c : Cmd) (_ : List Nat) (_ : Word) (s : State) : Verdict := checked [c.needP 0 (c.p 0 = 0x4A544C4B)] (waits s)

def jtagLockCommit (o : Outst) (s : State) : State := (s.wr SEC_STATUS.jtag_locked 1).doneNow o

def opJtagLock : OpRow := ⟨⟨0x0B03, 0x15, 0x15, false, false, 5, 5, 1, 3, true⟩, jtagLockDecide, jtagLockCommit⟩

def wpSetDecide (c : Cmd) (_ : List Nat) (_ : Word) (s : State) : Verdict := checked [c.reserved 0 [1]] (waits s)

def wpSetCommit (o : Outst) (s : State) : State :=
  let r := s.wpSet (fieldOf (o.cmd.p 0) 0 0 = 1) (bytesOfWords (o.cmd.params.drop 1))
  r.1.finish o.cmd.ref r.2 0 []

def opWpSet : OpRow := ⟨⟨0x0B04, 0x15, 0x15, false, false, 9, 9, 1, 3, true⟩, wpSetDecide, wpSetCommit⟩

end Sys2Proof.Machine
end

