-- ==== Sys2Proof/Machine/OpSup.lean ====
section
/-! DEFINITION. Supervision opcodes, 0x08xx (R429), and the FAULT_N pin (R25, R255, R477). -/

namespace Sys2Proof.Machine

/-! ### Field interfaces -/

def cinConfigDecide (c : Cmd) (ts : List Nat) (_ : Word) (s : State) : Verdict :=
  eachOf ts (fun k => [c.reserved 0 [cfgMask (SUP_CIN_CFG k)]]) (waits s)

def cinConfigCommit (o : Outst) (s : State) : State :=
  (forAll o.objs (fun k t => t.putCfg (SUP_CIN_CFG k) (o.cmd.p 0)) s).doneNow o

def opCinConfig : OpRow := ⟨⟨0x0800, 0x0D, 0x0D, true, true, 5, 5, 0, 3, true⟩, cinConfigDecide, cinConfigCommit⟩

def cinThrDecide (c : Cmd) (_ : List Nat) (_ : Word) (s : State) : Verdict :=
  let sa := getFld (SUP_CIN_THR0.sa 0) (c.p 1)
  let an := getFld (SUP_CIN_THR0.an 0) (c.p 1)
  let no := getFld (SUP_CIN_THR1.no 0) (c.p 2)
  checked [c.reserved 0 [1, cfgMask (SUP_CIN_THR0 0), cfgMask (SUP_CIN_THR1 0)], c.needP 1 (sa < an && an < no)] (waits s)

def cinThrCommit (o : Outst) (s : State) : State :=
  let t := fieldOf (o.cmd.p 0) 0 0
  (s.putCfgs o.cmd 1 [SUP_CIN_THR0 t, SUP_CIN_THR1 t]).doneNow o

def opCinThr : OpRow := ⟨⟨0x0801, 1, 1, false, false, 7, 7, 0, 3, true⟩, cinThrDecide, cinThrCommit⟩

def drvConfigDecide (c : Cmd) (ts : List Nat) (_ : Word) (s : State) : Verdict :=
  eachOf ts (fun k => [c.reserved 0 [cfgMask (SUP_DRV_CFG k)]]) (waits s)

/-- DRV_CONFIG: on = 0 ends an overcurrent latch where no trigger holds the driver on (R251). -/
def drvConfigCommit (o : Outst) (s : State) : State :=
  (forAll o.objs (fun k t => (t.putCfg (SUP_DRV_CFG k) (o.cmd.p 0)).drvUnlatch k) s).doneNow o

def opDrvConfig : OpRow := ⟨⟨0x0802, 0x0E, 0x0E, true, true, 5, 5, 0, 3, true⟩, drvConfigDecide, drvConfigCommit⟩

def gpioRegs : List Nat := [SUP_GPIO_FUNC0, SUP_GPIO_FUNC1, SUP_GPIO_OUT]

def gpioConfigDecide (c : Cmd) (_ : List Nat) (_ : Word) (s : State) : Verdict :=
  checked [c.reserved 0 (gpioRegs.map cfgMask)] (waits s)

def gpioConfigCommit (o : Outst) (s : State) : State := (s.putCfgs o.cmd 0 gpioRegs).doneNow o

def opGpioConfig : OpRow := ⟨⟨0x0806, 1, 1, false, false, 7, 7, 0, 11, true⟩, gpioConfigDecide, gpioConfigCommit⟩

/-! ### Line surveillance (R253, R254) -/

def lsRegs (m : Nat) : List Nat := [SUP_LS_CFG m, SUP_LS_KZ m, SUP_LS_REF m, SUP_LS_Z m, SUP_LS_DET m]

def lsConfigDecide (c : Cmd) (_ : List Nat) (_ : Word) (s : State) : Verdict :=
  let w := c.p 1
  let on := getFld (SUP_LS_CFG.en 0) w = 1
  checked [c.reserved 0 (bitsAt 4 0 :: (lsRegs 0).map cfgMask),
    if on then s.mirrorRoom [0x4000 + getFld (SUP_LS_CFG.vch 0) w, 0x4000 + getFld (SUP_LS_CFG.ich 0) w] else none] (waits s)

def lsConfigCommit (o : Outst) (s : State) : State :=
  (s.putCfgs o.cmd 1 (lsRegs (fieldOf (o.cmd.p 0) 4 0))).doneNow o

def opLsConfig : OpRow := ⟨⟨0x0803, 1, 1, false, false, 10, 10, 0, 11, true⟩, lsConfigDecide, lsConfigCommit⟩

def lsLearnDecide (c : Cmd) (_ : List Nat) (_ : Word) (s : State) : Verdict := checked [c.reserved 0 [bitsAt 4 0]] (waits s)

/-- LS_LEARN: a learn begins; a command that waits for an earlier one of that monitor is superseded. -/
def lsLearnCommit (o : Outst) (s : State) : State :=
  let m := fieldOf (o.cmd.p 0) 4 0
  s.commitUnless o [need (s.isSet (SUP_LS_CFG.en m)) stBadSequence 0] (fun st => st.learnStart m (some o.cmd.ref))

def opLsLearn : OpRow := ⟨⟨0x0804, 1, 1, false, false, 5, 5, 0, 11, true⟩, lsLearnDecide, lsLearnCommit⟩

/-! ### What is in fault -/

/-- Contact inputs whose debounced state is short or open. -/
def State.cinFaulty (s : State) (n : Nat) : Bool := s.rd (SUP_CIN_STAT.state n) = 0 || s.rd (SUP_CIN_STAT.state n) = 3

/-- Drivers with a wire fault, or off after an overcurrent. -/
def State.drvFaulty (s : State) (n : Nat) : Bool :=
  s.isSet (SUP_DRV_STAT.wire_break n) || s.isSet (SUP_DRV_STAT.off_break n) || 2 ≤ s.drvCode n

def State.lsFaulty (s : State) (m : Nat) : Bool := s.rd (SUP_LS_STAT.state m) = 3

/-- Whether a supervision fault persists (R242, R248, R250, R251, R254, R255, R283). -/
def State.fieldFault (s : State) : Bool :=
  (List.range 16).any (fun n => s.isSet (SUP_CIN_CFG.en n) && s.isSet (SUP_CIN_CFG.sup_en n) && s.cinFaulty n)
    || (List.range 16).any (fun n => s.drvFaulty n)
    || (List.range 32).any (fun m => s.isSet (SUP_LS_CFG.en m) && s.lsFaulty m)
    || (List.range 8).any (fun a => s.isSet (ANA_IN_CFG.bsup_en a) && (s.biasState a = 1 || s.biasState a = 2))
    || (List.range 32).any (fun z => s.isSet (VIS_INDEX.mic_fault z))

/-- Whether FAULT_N is asserted: by the state of the device (R25, R329, R442), a fault grade below 7 (R477), a supervision fault
(R255), or a strap conflict (R351). -/
def State.faultAsserted (s : State) : Bool :=
  match s.op with
  | .off => false
  | .faultHold => true
  | .boot => s.rd SEC_RECOV.state ≠ 0
  | .clockWait => 3 ≤ s.boot.retries
  | _ => gradeOf s.flt.conds < 7 || s.fieldFault || s.pair.conflict

/-- One bit for each of n objects that meet a condition. -/
def bitMap (n : Nat) (f : Nat → Bool) : Nat := (List.range n).foldl (fun a k => if f k then a + 2 ^ k else a) 0

def supReadDecide (_ : Cmd) (_ : List Nat) (_ : Word) (s : State) : Verdict :=
  answers [ s.reg SUP_STATUS,
    BitVec.ofNat 32 (bitMap 16 s.cinFaulty + bitMap 16 s.drvFaulty * 65536),
    BitVec.ofNat 32 (bitMap 32 s.lsFaulty),
    BitVec.ofNat 32 (s.rd SYS_STATE.grade + 8 * b2n s.faultAsserted) ] s

def opSupRead : OpRow := ⟨⟨0x0805, 1, 1, false, false, 4, 4, 0, 15, false⟩, supReadDecide, noCommit⟩

end Sys2Proof.Machine
end

