-- ==== Sys2Proof/Machine/OpSys.lean ====
section
/-! DEFINITION. System, group and register opcodes, 0x00xx and 0x01xx (R417–R420). -/

namespace Sys2Proof.Machine

/-! ### 0x00xx -/

def opNop : OpRow := ⟨⟨0x0000, 1, 1, false, false, 4, 4, 0, 15, false⟩, fun _ _ _ s => answers [] s, noCommit⟩

def sysInfoWords (s : State) : List Word :=
  [ s.reg SYS_ID,
    BitVec.ofNat 32 (0xB0 + s.rd SYS_STATE.state * 2 ^ 8 + s.rd SYS_STATE.attach * 2 ^ 12 + s.rd SYS_STATE.grade * 2 ^ 16),
    s.fwVersion, s.reg CMD_EPOCH ]

def opSysInfo : OpRow :=
  ⟨⟨0x0001, 1, 1, false, false, 4, 4, 0, 15, false⟩, fun _ _ _ s => answers (sysInfoWords s) s, noCommit⟩

/-- Where a command of the rings comes from, seen by a sender. -/
def Origin.rings : Origin → Origin
  | .partner o => .partner o.rings
  | .lead o => .lead o.rings
  | _ => .ring

/-- The name that an ABORT means: a command that came the same way, else one of the ring. -/
def State.abortTarget (s : State) (c : Cmd) : CmdRef :=
  let r : CmdRef := ⟨fieldOf (c.p 0) 19 16, fieldOf (c.p 0) 15 0, c.origin⟩
  if (s.findOut r).isSome || (s.findFetched r).isSome then r else { r with origin := c.origin.rings }

/-- ABORT (R405): it takes effect at the next tick; a target already complete, or no command of that tag, answers NOT_PENDING at once, and
so does the name of another ABORT or of itself. -/
def abortDecide (c : Cmd) (_ : List Nat) (_ : Word) (s : State) : Verdict :=
  let r := s.abortTarget c
  let known := match s.findFetched r with
    | some x => !x.isAbort
    | none => (s.findOut r).isSome || (match s.findSubmitted r.ring r.tag with
      | some x => !x.isAbort
      | none => false)
  checked [c.reserved 0 [bitsAt 19 0]]
    (if known && r != c.ref then
      .silent { s with q := { s.q with aborts := s.q.aborts ++ [⟨c, r, s.cycle + 1⟩] } }
    else .reply stNotPending 0 [] s)

def opAbort : OpRow := ⟨⟨0x0002, 1, 1, false, false, 5, 5, 0, 15, false⟩, abortDecide, noCommit⟩

/-- SYS_STATE. What the state must allow is checked at the apply tick, after the transitions that outrank it (R30). -/
def sysStateDecide (c : Cmd) (_ : List Nat) (_ : Word) (s : State) : Verdict :=
  checked [c.reserved 0 [7], c.needP 0 (fieldOf (c.p 0) 2 0 ≤ 5)] (waits s)

/-- In a synced pair both units act on the command at the same tick. -/
def State.partnerSquall (s : State) (on : Bool) : State :=
  if s.synced then s.wr PWR_STATUS.pcond (s.rd PWR_STATUS.pcond % 8 + (if on then 8 else 0)) else s

/-- The change of state that the conditions ask for now, taken at this tick. -/
def State.followWish (s : State) : State :=
  match s.squallWish with
  | some (st, lv) => s.takePlan ⟨st.code, lv, s.cycle⟩
  | none => s

/-- The commanded condition of SQUALL is set or cleared on both units of a synced pair at the same tick (R31, R498). -/
def State.commandSquall (s : State) (on : Bool) : State := ((s.setSquallCond 3 on).partnerSquall on).followWish

/-- SYS_STATE at its apply tick (R26, R28, R30, R498, R504, R505). `changed` says that a higher item of R30 has changed the state at
this tick. -/
def State.commitSysState (s : State) (changed : Bool) (o : Outst) : State :=
  let act := fieldOf (o.cmd.p 0) 2 0
  let bad := s.failNow o stBadSequence 0 none
  let alarm := s.failNow o stNotPermitted 0 none
  if changed then (if s.alarmPath then alarm else bad)
  else if act = 0 then
    if s.op = .ready || ((s.op = .run || s.op = .squall) && !s.pwr.started) then s.systemStart.doneNow o else bad
  else if act = 1 then
    if s.alarmPath then alarm
    else if s.op = .run || s.op = .squall then s.systemStop.doneNow o else bad
  else if act = 2 then (s.commandSquall true).doneNow o
  else if act = 3 then (s.commandSquall false).doneNow o
  else if act = 4 then
    if s.alarmPath then alarm
    else if s.op = .ready || s.op = .run then s.nightfall (some o.cmd.ref) else bad
  else if s.op = .nightfall then s.wake else bad

def opSysState : OpRow :=
  ⟨⟨0x0003, 1, 1, false, false, 5, 5, 0, 11, true⟩, sysStateDecide, fun o s => s.commitSysState false o⟩

def sysResetDecide (c : Cmd) (_ : List Nat) (_ : Word) (s : State) : Verdict :=
  checked [c.reserved 0 [bitsAt 31 16 + 1], c.needP 0 (fieldOf (c.p 0) 31 16 = 0xA55A)] (waits s)

/-- Whether a SYS_RESET may reset the device now (R419). -/
def State.mayReset (s : State) (o : Outst) : Bool := o.cmd.force || !s.alarmPath

/-- SYS_RESET at its apply cycle (R419, R512): the ring epoch ends with it, so it gets no completion. -/
def sysResetCommit (o : Outst) (s : State) : State :=
  if s.mayReset o then s.deviceReset (if fieldOf (o.cmd.p 0) 0 0 = 1 then 3 else 2)
  else s.failNow o stNotPermitted 0 none

def opSysReset : OpRow := ⟨⟨0x0004, 1, 1, false, false, 5, 5, 0, 3, true⟩, sysResetDecide, sysResetCommit⟩

/-- The set bits of a GROUP_DEF, ascending. -/
def groupBits (c : Cmd) : List Nat := (List.range 1024).filter (fun i => (c.p (1 + i / 32)).getLsbD (i % 32))

/-- Whether a pending command names a group (R395). -/
def State.groupPending (s : State) (g : Nat) : Bool :=
  s.q.outst.any (fun o => o.cmd.scope = 1 && o.cmd.index.toNat = g && (o.phase = .waiting || o.phase = .served))

def groupDefDecide (c : Cmd) (ts : List Nat) (_ : Word) (s : State) : Verdict :=
  let k := fieldOf (c.p 0) 5 0
  let stray := (groupBits c).find? (fun i => !classHas k i)
  checked [c.reserved 0 [bitsAt 5 0], c.needP 0 (2 ≤ k && k ≤ 0x0F && k != 5),
      match stray with
      | some i => some (stBadParam, c.pIdx (1 + i / 32))
      | none => none,
      need (!s.groupPending (ts.headD 0)) stBusy 0]
    (waits s)

/-- GROUP_DEF at its apply cycle: the group, and XPT_GMASK for a group of columns (R71, R395). -/
def groupDefCommit (o : Outst) (s : State) : State :=
  let c := o.cmd
  let g := o.objs.headD 0
  let k := fieldOf (c.p 0) 5 0
  let s1 := { s with q := { s.q with groups := SMap.set (fun _ => []) s.q.groups g (k :: groupBits c) } }
  let s2 := upTo 32 (fun w st => st.setReg (XPT_GMASK g w) (if k = 4 then c.p (1 + w) else 0)) s1
  s2.doneNow o

def opGroupDef : OpRow := ⟨⟨0x0005, 0x10, 0x10, false, false, 37, 37, 0, 11, true⟩, groupDefDecide, groupDefCommit⟩

def groupReadDecide (_ : Cmd) (ts : List Nat) (_ : Word) (s : State) : Verdict :=
  let (k, ms) := s.groupOf (ts.headD 0)
  let map := (List.range 32).map (fun w => bits32 (fun b => ms.contains (32 * w + b)))
  answers ([BitVec.ofNat 32 (k + ms.length * 2 ^ 16), 0, 0, 0] ++ map) s

def opGroupRead : OpRow := ⟨⟨0x0006, 0x10, 0x10, false, false, 4, 4, 0, 15, false⟩, groupReadDecide, noCommit⟩

/-! ### 0x01xx (R420) -/

/-- Whether a register block is assigned at an address (R468, R506). -/
def regAssigned (a : Nat) : Bool := 0x40000000 ≤ a && a < 0x50000000 && (targetOf a).isSome

/-- The word addresses of a run of registers. -/
def regRun (a n : Nat) : List Nat := (List.range n).map (fun i => a + 4 * i)

/-- Whether a register's block cannot be reached now (R467). -/
def State.regShut (s : State) (a : Nat) : Bool := s.targetShut ((targetOf a).getD 7) a

/-- Read a run of registers with their side effects: the words and the state after them. -/
def State.readRegs (s : State) : List Nat → List Word × State
  | [] => ([], s)
  | a :: as =>
    let t := s.regReadFx a
    let r := t.readRegs as
    (t.lastRead :: r.1, r.2)

def regReadDecide (c : Cmd) (_ : List Nat) (_ : Word) (s : State) : Verdict :=
  let a := (c.p 0).toNat
  let n := fieldOf (c.p 1) 7 0
  let run := regRun a n
  let r := s.readRegs run
  checked [c.needP 0 (a % 4 = 0 && run.all regAssigned), c.reserved 1 [bitsAt 7 0], c.needP 1 (1 ≤ n && (n ≤ 4 || c.xreply)),
      need (!run.any s.regShut) stUnavailable 0]
    (answers r.1 r.2)

def opRegRead : OpRow := ⟨⟨0x0100, 1, 1, false, false, 6, 6, 0, 15, false⟩, regReadDecide, noCommit⟩

/-- Blocks and registers that REG_WRITE and REG_RMW never change (R420, R511, R513). -/
def regClosed (a : Nat) : Bool :=
  a / 0x10000 = 0x4006 || a / 0x10000 = 0x4022 || a / 0x10000 = 0x4042 || a = SYS_RESET || a = SYS_WDOG

/-- The checks of the addresses of a register write. -/
def regAddrChecks (c : Cmd) (run : List Nat) : List Fail :=
  [c.needP 0 ((c.p 0).toNat % 4 = 0 && run.all regAssigned), need (!run.any regClosed) stNotPermitted 0]

def regWriteDecide (c : Cmd) (_ : List Nat) (_ : Word) (s : State) : Verdict :=
  checked (regAddrChecks c (regRun (c.p 0).toNat (c.params.length - 1))) (waits s)

/-- Whether a write of the command processor would be refused now: by a lock of the block, or by write protection (R453). -/
def State.regRefuses (s : State) (a : Nat) (v : Word) : Bool :=
  (s.regWriteAny .cp a v).2 ||
    (s.isSet SEC_STATUS.wp_on && wpLocks a && (match findReg a with
      | some r => r.fields.any (fun f => f.acc = .rwl && getFld ⟨a, f.lo, f.hi + 1 - f.lo⟩ v != s.rd ⟨a, f.lo, f.hi + 1 - f.lo⟩)
      | none => false))

/-- The words of a register write at its commit tick: all of them, or none (R420). -/
def State.commitRegs (s : State) (o : Outst) (ws : List (Nat × Word)) (reply : List Word) : State :=
  s.commitUnless o [need (!ws.any (fun x => s.regShut x.1)) stUnavailable 0,
      need (!ws.any (fun x => s.regRefuses x.1 x.2)) stLocked 0]
    (fun st => (forAll ws (fun x t => (t.regWriteAny .cp x.1 x.2).1) st).doneWith o reply)

def regWriteCommit (o : Outst) (s : State) : State :=
  s.commitRegs o ((regRun (o.cmd.p 0).toNat (o.cmd.params.length - 1)).zip (o.cmd.params.drop 1)) []

def opRegWrite : OpRow := ⟨⟨0x0101, 1, 1, false, false, 6, 64, 0, 11, true⟩, regWriteDecide, regWriteCommit⟩

def regRmwDecide (c : Cmd) (_ : List Nat) (_ : Word) (s : State) : Verdict :=
  checked (regAddrChecks c [(c.p 0).toNat]) (waits s)

def regRmwCommit (o : Outst) (s : State) : State :=
  let a := (o.cmd.p 0).toNat
  let old := s.regRead a
  s.commitRegs o [(a, (old &&& ~~~(o.cmd.p 1)) ||| (o.cmd.p 2 &&& o.cmd.p 1))] [old]

def opRegRmw : OpRow := ⟨⟨0x0102, 1, 1, false, false, 7, 7, 0, 11, true⟩, regRmwDecide, regRmwCommit⟩

end Sys2Proof.Machine
end

