-- ==== Sys2Proof/Machine/OpTime.lean ====
section
/-! DEFINITION. Time and reference opcodes, 0x06xx (R426). -/

namespace Sys2Proof.Machine

/-! ### Network time -/

def ptpRegs : List Nat := [PTP_CFG, PTP_PRIO, PTP_INTV, PTP_THR, PTP_SERVO, PTP_ASYM 0, PTP_ASYM 1]

/-- The intervals of a PTP_CONFIG lie in the ranges of the profile that it names (R311). -/
def ptpIntvOk (c : Cmd) : Bool :=
  [16, 8, 0].all (fun lo =>
    let x := signedOf 8 (fieldOf (c.p 2) (lo + 7) lo)
    let r := ptpRange (getFld PTP_CFG.profile (c.p 0)) lo
    r.1 ≤ x && x ≤ r.2)

def ptpConfigDecide (c : Cmd) (_ : List Nat) (_ : Word) (s : State) : Verdict :=
  checked [c.reserved 0 (ptpRegs.map cfgMask), c.needP 0 (getFld PTP_CFG.profile (c.p 0) ≠ 3), c.needP 2 (ptpIntvOk c)] (waits s)

/-- PTP_CONFIG: both port state machines restart where PTP_CFG changes. -/
def ptpConfigCommit (o : Outst) (s : State) : State :=
  let s1 := s.putCfgs o.cmd 0 ptpRegs
  (if s1.reg PTP_CFG = s.reg PTP_CFG then s1 else s1.ptpRestart).doneNow o

def opPtpConfig : OpRow := ⟨⟨0x0600, 0x11, 0x11, false, false, 11, 11, 0, 11, true⟩, ptpConfigDecide, ptpConfigCommit⟩

def ptpRestepDecide (_ : Cmd) (_ : List Nat) (_ : Word) (s : State) : Verdict := waits s

/-- PTP_RESTEP at its apply cycle (R320): its completion follows at the next tick. -/
def ptpRestepCommit (o : Outst) (s : State) : State :=
  s.commitUnless o
    [ need (s.servo ≠ svFree && s.servo ≠ svAcquiring && s.stable4) stBadSequence 0,
      need (!s.alarmPath || o.cmd.force) stNotPermitted 0 ]
    (fun st => st.stepTime st.cycle (-(meanOf (st.ptp.meas.take 4))) (some o.cmd.ref))

def opPtpRestep : OpRow := ⟨⟨0x0601, 0x11, 0x11, false, false, 4, 4, 0, 3, true⟩, ptpRestepDecide, ptpRestepCommit⟩

/-- DTIME at the latest tick: a step that is due with the next tick may already have been taken. -/
def State.tickDtime (s : State) : BitVec 64 :=
  if s.ptp.stepTick = some (s.cycle + 1) then s.ptp.dtime - BitVec.ofInt 64 s.ptp.lastStep else s.ptp.dtime

def timeReadDecide (_ : Cmd) (_ : List Nat) (_ : Word) (s : State) : Verdict :=
  let d := s.tickDtime
  answers [d.extractLsb' 0 32, d.extractLsb' 32 32, s.cycle, BitVec.ofNat 32 (s.mc * 16 + s.servo)] s

def opTimeRead : OpRow := ⟨⟨0x0604, 0x11, 0x11, false, false, 4, 4, 0, 15, false⟩, timeReadDecide, noCommit⟩

/-! ### References -/

def refSelectDecide (c : Cmd) (_ : List Nat) (_ : Word) (s : State) : Verdict :=
  checked [c.reserved 0 [7], c.needP 0 (fieldOf (c.p 0) 2 0 ≠ 7)] (waits s)

def refSelectCommit (o : Outst) (s : State) : State :=
  s.commitUnless o [need (s.rd REF_STATUS.pins = 7) stBadSequence 0]
    (fun st => (st.wr REF_SEL.sel (fieldOf (o.cmd.p 0) 2 0)).doneNow o)

def opRefSelect : OpRow := ⟨⟨0x0602, 0x11, 0x11, false, false, 5, 5, 0, 3, true⟩, refSelectDecide, refSelectCommit⟩

def refRegs : List Nat := [REF_CFG, REF_LOOP, REF_TOL, REF_RANK, REF_XCHK, REF_WCLK_OFS, REF_PPS_OFS, REF_FRM_OFS]

def refConfigDecide (c : Cmd) (_ : List Nat) (_ : Word) (s : State) : Verdict :=
  checked [c.reserved 0 (refRegs.map cfgMask), c.needP 2 (!s.outOfRange REF_TOL (c.p 2) 0),
    c.needP 5 (!s.outOfRange REF_WCLK_OFS (c.p 5) 0), c.needP 6 (!s.outOfRange REF_PPS_OFS (c.p 6) 0),
    c.needP 7 (!s.outOfRange REF_FRM_OFS (c.p 7) 0)] (waits s)

def refConfigCommit (o : Outst) (s : State) : State := (s.putCfgs o.cmd 0 refRegs).doneNow o

def opRefConfig : OpRow := ⟨⟨0x0603, 0x11, 0x11, false, false, 12, 12, 0, 11, true⟩, refConfigDecide, refConfigCommit⟩

end Sys2Proof.Machine
end

