-- ==== Sys2Proof/Machine/Serve.lean ====
section
/-! DEFINITION. The opcode table, how a command is served, and the commands of the opcode table as they reach the block
(R377, R389, R398, R399, R411, R540).

A row of the opcode table is the arrival of that command on its ring, fetched: while the ring runs, with completion room, and behind
a fence only once nothing of the ring is outstanding. It is decided at once unless the command processor is stopped or commands of its
ring wait ahead of it. -/

namespace Sys2Proof.Machine

/-! ### The table -/

def sysOps : List OpRow :=
  [ opNop, opSysInfo, opAbort, opSysState, opSysReset, opGroupDef, opGroupRead, opRegRead, opRegWrite, opRegRmw ]

def routeOps : List OpRow :=
  [ opPatchIn, opSinkSet, opXptNode, opXptCol, opXptSwap, opXptCopy, opXptRead, opMeterRead, opCapture ]

def stripOps : List OpRow :=
  [ opParamWrite, opParamSwap, opParamRead, opImgWrite, opImgActivate, opImgPin, opImgStatus, opFwWrite ]

def portOps : List OpRow :=
  [ opSpConfig, opSpCtrl, opSpMask, opDecConfig, opDecTaps, opDecCtrl, opDecClock, opAnaIn, opAnaOut, opAsrcRead ]

def netOps : List OpRow :=
  [ opNetConfig, opStrmTxSetup, opStrmRxSetup, opStrmCtrl, opStrmTag, opSapRead, opPtpConfig, opPtpRestep,
    opRefSelect, opRefConfig, opTimeRead ]

def msgOps : List OpRow :=
  [ opMsgWrite, opChainWrite, opPlayStart, opPlayStop, opGenConfig, opGenCtrl, opVisConfig ]

def supOps : List OpRow :=
  [ opCinConfig, opCinThr, opDrvConfig, opLsConfig, opLsLearn, opSupRead, opGpioConfig, opPairAttach, opPairDetach,
    opPairYield, opPairReclaim, opPairConfig, opTwpcPulse, opPairRead ]

def testOps : List OpRow :=
  [ opSelftest, opMemRead, opMemDusk, opWispConfig, opSecStatus, opKeyRevoke, opMgmtKey, opJtagLock, opWpSet,
    opLogRead, opLogMark ]

def ovrOps : List OpRow :=
  [ opOvrAssert, opOvrRelease, opOvrStage, opOvrStageMask, opOvrArm, opOvrCommit, opOvrColclass, opOvrRead ]

/-- Every opcode. -/
def opTable : List OpRow :=
  sysOps ++ routeOps ++ stripOps ++ portOps ++ netOps ++ msgOps ++ supOps ++ testOps ++ ovrOps

/-- The row of an opcode. -/
def opFind (op : Nat) : Option OpRow := opTable.find? (fun r => r.spec.op = op)

/-- Override assert and release, which the hardware decodes on ring 0 (R23). -/
def isTrigOp (op : Nat) : Bool := op = 0x0D00 || op = 0x0D01

/-- Opcodes that only read: untimed, and neither an abort, a write step nor an override. -/
def OpRow.reads (r : OpRow) : Bool := !r.spec.timed && !([0x0002, 0x0303, 0x0307, 0x0700].contains r.spec.op) && !isTrigOp r.spec.op

/-- Audio commands, which wait for wake in NIGHTFALL (R25): the timed opcodes of patches, crosspoint, parameters and images in use,
ports, streams, players and generators (notes/assumptions/97.md). -/
def OpRow.audio (r : OpRow) : Bool :=
  let op := r.spec.op
  let g := op / 0x100
  r.spec.timed && (g = 2 || g = 4 || g = 5 || op = 0x0300 || op = 0x0301 || op = 0x0304 || (0x0702 ≤ op && op ≤ 0x0706))

/-! ### The pair (R377) -/

/-- Whether the lead sends what it accepts to the other unit: the link is up, and that unit is in lockstep, or its cut-over tick is
named (R381). -/
def State.forwards (s : State) : Bool :=
  s.twin && s.astate = 4 && s.linkUp &&
    (s.pair.pstate = 3 || s.pair.pstate = 5 || (match s.pair.attach with
      | some x => x.source && x.cut.isSome
      | none => false))

/-- Add a record to the CMD frames. -/
def State.tell (s : State) (r : LinkRec) : State := { s with pair := { s.pair with link := s.pair.link ++ [r] } }

/-- A write step of a unit's own flash is done when both units have finished it. -/
def isJobOp (op : Nat) : Bool := [0x0303, 0x0307, 0x0700].contains op

/-- What a decision has just accepted goes to the other unit: a command with its apply cycle, an abort with its tick. -/
def State.forward (s before : State) (c : Cmd) : State :=
  if !s.forwards || isTrigOp c.op then s
  else if before.q.aborts.length < s.q.aborts.length then s.tell (.fwd c (s.cycle + 1))
  else match before.findOut c.ref, s.findOut c.ref with
    | none, some o =>
      let s1 := if isJobOp c.op then s.mapOut c.ref (fun x => { x with left := 2 }) else s
      s1.tell (.fwd c o.apply)
    | _, _ => s

/-! ### Serving a command -/

/-- Decide a command with its row, and forward what is accepted. -/
def State.decideRow (s : State) (r : OpRow) (c : Cmd) : State :=
  let s1 := s.decideWith r.spec r.decide c
  if r.reads then s1 else s1.forward s c

/-- A unit in lockstep sends a command of its own to the lead, once it has passed the checks that both units make alike. -/
def State.serveByLead (s : State) (r : OpRow) (c : Cmd) : State :=
  match preCheck { r.spec with timed := false } c s with
  | .error (st, d) => (if violates r.spec c st d then s.cmdFault c else s).complete c st d s.cycle []
  | .ok (ts, _) => (s.setOut (s.q.outst ++ [⟨c, s.cycle, .served, false, 1, none, ts, []⟩])).tell (.serve c)

/-- Whether an ABORT of a unit in lockstep names a command that the lead does not know yet. -/
def State.abortsHere (s : State) (c : Cmd) : Bool :=
  c.isAbort && (s.findOut (s.abortTarget c)).isNone

/-- Serve one command (R25, R377, R540). -/
def State.serve (s : State) (c : Cmd) : State :=
  match opFind c.op with
  | none =>
    if c.len.toNat < 4 || 64 < c.len.toNat then (s.cmdFault c).complete c stBadLength 0 s.cycle []
    else s.complete c stBadOpcode 0 s.cycle []
  | some r =>
    if s.inLockstep && !r.reads && !isTrigOp c.op && !s.abortsHere c then s.serveByLead r c
    else if s.op = .nightfall && r.audio then { s with q := { s.q with nightWait := s.q.nightWait ++ [c] } }
    else s.decideRow r c

/-! ### Arrival -/

/-- The ring-0 queue has no place left (R399). -/
def State.r0Refuse (s : State) (c : Cmd) : State := (s.set1 CMD_STATUS.r0_full).complete c stBusy 0 s.cycle []

/-- A ring-0 command that is no override goes into the firmware queue. -/
def State.r0Push (s : State) (c : Cmd) : State :=
  if s.q.ring0q.length ≥ 32 then s.r0Refuse c else { s with q := { s.q with ring0q := s.q.ring0q ++ [c] } }

/-- The hardware decoder takes a command of ring 0 (R23, R399). -/
def State.r0Decode (s : State) (c : Cmd) : State := if isTrigOp c.op then s.serve c else s.r0Push c

/-- A fetched command: decided at once, or behind the commands that wait. -/
def State.arrive (s : State) (c : Cmd) : State :=
  if c.ring.val = 0 then
    (if isTrigOp c.op || s.cpDown || !s.q.ring0q.isEmpty then s.r0Decode c else s.serve c)
  else if s.cpDown || s.q.fetched.any (fun x => x.ring = c.ring) then { s with q := { s.q with fetched := s.q.fetched ++ [c] } }
  else s.serve c

/-- A command of the opcode table on its ring. -/
def State.opcodeRow (s : State) (r : OpRow) (c0 : Cmd) : State :=
  let c := { c0 with op := r.spec.op, origin := .ring }
  let n := c.ring.val
  if !s.engineRuns || !s.ringRun n then s
  else if !s.hasRoom n then s.wr (CMD_RING_STAT.cq_stall n) 1
  else if c.fence && s.outstanding n ≠ 0 then s
  else ((s.wr (CMD_RING_STAT.cq_stall n) 0).countFetch c).arrive c

/-! ### The rows -/

def execNop (c : Cmd) (s : State) : Res := .next (s.opcodeRow opNop c)

def execSysInfo (c : Cmd) (s : State) : Res := .next (s.opcodeRow opSysInfo c)

def execAbort (c : Cmd) (s : State) : Res := .next (s.opcodeRow opAbort c)

def execSysState (c : Cmd) (s : State) : Res := .next (s.opcodeRow opSysState c)

def execSysReset (c : Cmd) (s : State) : Res := .next (s.opcodeRow opSysReset c)

def execGroupDef (c : Cmd) (s : State) : Res := .next (s.opcodeRow opGroupDef c)

def execGroupRead (c : Cmd) (s : State) : Res := .next (s.opcodeRow opGroupRead c)

def execRegRead (c : Cmd) (s : State) : Res := .next (s.opcodeRow opRegRead c)

def execRegWrite (c : Cmd) (s : State) : Res := .next (s.opcodeRow opRegWrite c)

def execRegRmw (c : Cmd) (s : State) : Res := .next (s.opcodeRow opRegRmw c)

def execPatchIn (c : Cmd) (s : State) : Res := .next (s.opcodeRow opPatchIn c)

def execSinkSet (c : Cmd) (s : State) : Res := .next (s.opcodeRow opSinkSet c)

def execXptNode (c : Cmd) (s : State) : Res := .next (s.opcodeRow opXptNode c)

def execXptCol (c : Cmd) (s : State) : Res := .next (s.opcodeRow opXptCol c)

def execXptSwap (c : Cmd) (s : State) : Res := .next (s.opcodeRow opXptSwap c)

def execXptCopy (c : Cmd) (s : State) : Res := .next (s.opcodeRow opXptCopy c)

def execXptRead (c : Cmd) (s : State) : Res := .next (s.opcodeRow opXptRead c)

def execMeterRead (c : Cmd) (s : State) : Res := .next (s.opcodeRow opMeterRead c)

def execCapture (c : Cmd) (s : State) : Res := .next (s.opcodeRow opCapture c)

def execParamWrite (c : Cmd) (s : State) : Res := .next (s.opcodeRow opParamWrite c)

def execParamSwap (c : Cmd) (s : State) : Res := .next (s.opcodeRow opParamSwap c)

def execParamRead (c : Cmd) (s : State) : Res := .next (s.opcodeRow opParamRead c)

def execImgWrite (c : Cmd) (s : State) : Res := .next (s.opcodeRow opImgWrite c)

def execImgActivate (c : Cmd) (s : State) : Res := .next (s.opcodeRow opImgActivate c)

def execImgPin (c : Cmd) (s : State) : Res := .next (s.opcodeRow opImgPin c)

def execImgStatus (c : Cmd) (s : State) : Res := .next (s.opcodeRow opImgStatus c)

def execFwWrite (c : Cmd) (s : State) : Res := .next (s.opcodeRow opFwWrite c)

def execSpConfig (c : Cmd) (s : State) : Res := .next (s.opcodeRow opSpConfig c)

def execSpCtrl (c : Cmd) (s : State) : Res := .next (s.opcodeRow opSpCtrl c)

def execSpMask (c : Cmd) (s : State) : Res := .next (s.opcodeRow opSpMask c)

def execDecConfig (c : Cmd) (s : State) : Res := .next (s.opcodeRow opDecConfig c)

def execDecTaps (c : Cmd) (s : State) : Res := .next (s.opcodeRow opDecTaps c)

def execDecCtrl (c : Cmd) (s : State) : Res := .next (s.opcodeRow opDecCtrl c)

def execDecClock (c : Cmd) (s : State) : Res := .next (s.opcodeRow opDecClock c)

def execAnaIn (c : Cmd) (s : State) : Res := .next (s.opcodeRow opAnaIn c)

def execAnaOut (c : Cmd) (s : State) : Res := .next (s.opcodeRow opAnaOut c)

def execAsrcRead (c : Cmd) (s : State) : Res := .next (s.opcodeRow opAsrcRead c)

def execNetConfig (c : Cmd) (s : State) : Res := .next (s.opcodeRow opNetConfig c)

def execStrmTxSetup (c : Cmd) (s : State) : Res := .next (s.opcodeRow opStrmTxSetup c)

def execStrmRxSetup (c : Cmd) (s : State) : Res := .next (s.opcodeRow opStrmRxSetup c)

def execStrmCtrl (c : Cmd) (s : State) : Res := .next (s.opcodeRow opStrmCtrl c)

def execStrmTag (c : Cmd) (s : State) : Res := .next (s.opcodeRow opStrmTag c)

def execSapRead (c : Cmd) (s : State) : Res := .next (s.opcodeRow opSapRead c)

def execPtpConfig (c : Cmd) (s : State) : Res := .next (s.opcodeRow opPtpConfig c)

def execPtpRestep (c : Cmd) (s : State) : Res := .next (s.opcodeRow opPtpRestep c)

def execRefSelect (c : Cmd) (s : State) : Res := .next (s.opcodeRow opRefSelect c)

def execRefConfig (c : Cmd) (s : State) : Res := .next (s.opcodeRow opRefConfig c)

def execTimeRead (c : Cmd) (s : State) : Res := .next (s.opcodeRow opTimeRead c)

def execMsgWrite (c : Cmd) (s : State) : Res := .next (s.opcodeRow opMsgWrite c)

def execChainWrite (c : Cmd) (s : State) : Res := .next (s.opcodeRow opChainWrite c)

def execPlayStart (c : Cmd) (s : State) : Res := .next (s.opcodeRow opPlayStart c)

def execPlayStop (c : Cmd) (s : State) : Res := .next (s.opcodeRow opPlayStop c)

def execGenConfig (c : Cmd) (s : State) : Res := .next (s.opcodeRow opGenConfig c)

def execGenCtrl (c : Cmd) (s : State) : Res := .next (s.opcodeRow opGenCtrl c)

def execVisConfig (c : Cmd) (s : State) : Res := .next (s.opcodeRow opVisConfig c)

def execCinConfig (c : Cmd) (s : State) : Res := .next (s.opcodeRow opCinConfig c)

def execCinThr (c : Cmd) (s : State) : Res := .next (s.opcodeRow opCinThr c)

def execDrvConfig (c : Cmd) (s : State) : Res := .next (s.opcodeRow opDrvConfig c)

def execLsConfig (c : Cmd) (s : State) : Res := .next (s.opcodeRow opLsConfig c)

def execLsLearn (c : Cmd) (s : State) : Res := .next (s.opcodeRow opLsLearn c)

def execSupRead (c : Cmd) (s : State) : Res := .next (s.opcodeRow opSupRead c)

def execGpioConfig (c : Cmd) (s : State) : Res := .next (s.opcodeRow opGpioConfig c)

def execPairAttach (c : Cmd) (s : State) : Res := .next (s.opcodeRow opPairAttach c)

def execPairDetach (c : Cmd) (s : State) : Res := .next (s.opcodeRow opPairDetach c)

def execPairYield (c : Cmd) (s : State) : Res := .next (s.opcodeRow opPairYield c)

def execPairReclaim (c : Cmd) (s : State) : Res := .next (s.opcodeRow opPairReclaim c)

def execPairConfig (c : Cmd) (s : State) : Res := .next (s.opcodeRow opPairConfig c)

def execTwpcPulse (c : Cmd) (s : State) : Res := .next (s.opcodeRow opTwpcPulse c)

def execPairRead (c : Cmd) (s : State) : Res := .next (s.opcodeRow opPairRead c)

def execSelftest (c : Cmd) (s : State) : Res := .next (s.opcodeRow opSelftest c)

def execMemRead (c : Cmd) (s : State) : Res := .next (s.opcodeRow opMemRead c)

def execMemDusk (c : Cmd) (s : State) : Res := .next (s.opcodeRow opMemDusk c)

def execWispConfig (c : Cmd) (s : State) : Res := .next (s.opcodeRow opWispConfig c)

def execSecStatus (c : Cmd) (s : State) : Res := .next (s.opcodeRow opSecStatus c)

def execKeyRevoke (c : Cmd) (s : State) : Res := .next (s.opcodeRow opKeyRevoke c)

def execMgmtKey (c : Cmd) (s : State) : Res := .next (s.opcodeRow opMgmtKey c)

def execJtagLock (c : Cmd) (s : State) : Res := .next (s.opcodeRow opJtagLock c)

def execWpSet (c : Cmd) (s : State) : Res := .next (s.opcodeRow opWpSet c)

def execLogRead (c : Cmd) (s : State) : Res := .next (s.opcodeRow opLogRead c)

def execLogMark (c : Cmd) (s : State) : Res := .next (s.opcodeRow opLogMark c)

def execOvrAssert (c : Cmd) (s : State) : Res := .next (s.opcodeRow opOvrAssert c)

def execOvrRelease (c : Cmd) (s : State) : Res := .next (s.opcodeRow opOvrRelease c)

def execOvrStage (c : Cmd) (s : State) : Res := .next (s.opcodeRow opOvrStage c)

def execOvrStageMask (c : Cmd) (s : State) : Res := .next (s.opcodeRow opOvrStageMask c)

def execOvrArm (c : Cmd) (s : State) : Res := .next (s.opcodeRow opOvrArm c)

def execOvrCommit (c : Cmd) (s : State) : Res := .next (s.opcodeRow opOvrCommit c)

def execOvrColclass (c : Cmd) (s : State) : Res := .next (s.opcodeRow opOvrColclass c)

def execOvrRead (c : Cmd) (s : State) : Res := .next (s.opcodeRow opOvrRead c)

end Sys2Proof.Machine
end

