-- ==== Sys2Proof/Machine/Decide.lean ====
section
/-! DEFINITION. Who is served next, the ring-0 decoder, background jobs, management datagrams and the CMD frames of the pair
(R23, R377, R398, R399, R403, R422, R448–R451). -/

namespace Sys2Proof.Machine

/-! ### Service order (R398) -/

/-- The head of a ring among the fetched commands. -/
def State.headOf (s : State) (n : Nat) : Option Cmd := s.q.fetched.find? (fun c => c.ring.val = n)

/-- Decisions of other rings that a head has waited through. -/
def State.waitedOf (s : State) (n : Nat) : Nat := ((s.q.waited.find? (fun p => p.1 = n)).map (fun p => p.2)).getD 0

/-- The due ring that has waited longest. -/
def State.dueRing (s : State) : Option Nat :=
  ((List.range 16).filter (fun n => (s.headOf n).isSome && s.waitedOf n ≥ 32)).foldl (fun best n =>
    match best with
    | none => some n
    | some b => if s.waitedOf n > s.waitedOf b then some n else some b) none

/-- The ring of a class that round robin serves next. -/
def State.nextOfClass (s : State) (k : Nat) : Option Nat :=
  let last := ((s.q.lastServed.find? (fun p => p.1 = k)).map (fun p => p.2)).getD 15
  let mine := (List.range 16).filter (fun n => decide (n ≠ 0) && ringClass n = k && (s.headOf n).isSome)
  ((mine.filter (fun n => last < n)) ++ mine.filter (fun n => n ≤ last)).head?

/-- Whether another ring than 0 holds a submitted command. -/
def State.othersWait (s : State) : Bool :=
  !s.q.fetched.isEmpty || (List.range 16).any (fun n => n != 0 && s.ringRun n && s.submitted n != 0)

/-- The ring that is served next, 0 for the ring-0 queue: at most four of it in a cycle while others wait. -/
def State.nextRing (s : State) : Option Nat :=
  if !s.q.ring0q.isEmpty && (s.q.r0InCycle < 4 || !s.othersWait) then some 0
  else match s.dueRing with
    | some n => some n
    | none => (List.range 4).findSome? s.nextOfClass

/-- Note a decision of a ring: every other head has waited through it. -/
def State.noteServed (s : State) (n : Nat) : State :=
  let heads := (List.range 16).filter (fun k => k != n && (s.headOf k).isSome)
  { s with q := { s.q with
      waited := heads.map (fun k => (k, s.waitedOf k + 1))
      lastServed := if n = 0 then s.q.lastServed else (ringClass n, n) :: s.q.lastServed.filter (fun p => p.1 != ringClass n)
      r0InCycle := if n = 0 then s.q.r0InCycle + 1 else s.q.r0InCycle } }

/-- Take the head of a ring's queue. -/
def State.takeHead (s : State) (n : Nat) : Option Cmd × State :=
  if n = 0 then
    match s.q.ring0q with
    | c :: l => (some c, { s with q := { s.q with ring0q := l } })
    | [] => (none, s)
  else
    match s.headOf n with
    | some c => (some c, { s with q := { s.q with fetched := s.q.fetched.erase c } })
    | none => (none, s)

/-- One decision of the command processor. -/
def State.decideNext (s : State) : State :=
  if s.cpDown || !s.engineRuns then s
  else match s.nextRing with
    | none => s
    | some n =>
      match s.takeHead n with
      | (some c, s1) => (s1.noteServed n).serve c
      | (none, s1) => s1

def execCommandDecision (s : State) : Res := .next s.decideNext

/-- The hardware decoder consumes the head of ring 0 (R399). -/
def execRing0Decode (s : State) : Res :=
  .next (
    if !s.engineRuns then s
    else match s.fetchHead 0 with
      | (some c, s1) => s1.r0Decode c
      | (none, s1) => s1)

/-! ### Background jobs (R407, R422) -/

/-- What a job leaves when its work is done. -/
def runJob (c : Cmd) (s : State) : JobEnd :=
  if c.op = 0x0303 then imgWriteJob c s
  else if c.op = 0x0307 then fwWriteJob c s
  else if c.op = 0x0700 then msgWriteJob c s
  else memReadJob c s

/-- A job ends: its command completes, DONE only once both units of a pair are done (R377). -/
def State.endJob (s : State) (c : Cmd) : State :=
  let (s1, st, d, reply) := runJob c { s with q := { s.q with jobs := s.q.jobs.filter (fun j => j.cmd.ref != c.ref) } }
  let waits := match s1.findOut c.ref with
    | some o => 2 ≤ o.left
    | none => false
  if st = stDone && waits then s1.ownerDone (some c.ref) else s1.finish c.ref st d reply

def execBackgroundJobDone (ring : Fin 16) (tag : BitVec 16) (s : State) : Res :=
  .next (
    if s.cpDown then s
    else match s.q.jobs.find? (fun j => j.cmd.ring = ring && j.cmd.tag = tag) with
      | some j => s.endJob j.cmd
      | none => s)

/-! ### Management datagrams (R448–R451) -/

/-- A datagram that passes joins its ring; a seventeenth outstanding command is answered REFUSED_BUSY. -/
def State.takeMgmt (s : State) (c : Cmd) : State :=
  if s.sec.mgmt.length ≥ 16 then s.answer c stBusy 0 s.cycle []
  else
    let s1 := { s with sec := { s.sec with mgmt := s.sec.mgmt ++ [c.ref] } }
    if c.ring.val = 0 then s1.r0Decode c else { s1 with q := { s1.q with fetched := s1.q.fetched ++ [c] } }

def execMgmtDatagramReceived (netb : Bool) (src : Word) (bytes : List Byte) (s : State) : Res :=
  .next (
    if !s.mgmtOpen netb then s
    else match s.mgmtCheck src bytes with
      | (s1, some c) => s1.takeMgmt c
      | (s1, none) => s1)

/-! ### CMD frames (R377) -/

/-- Answer a forwarded command: status 0 is ACCEPT. -/
def State.ack (s : State) (r : CmdRef) (st d : Nat) : State := s.tell (.ack r (BitVec.ofNat 8 st) (BitVec.ofNat 16 d))

/-- A forwarded abort takes effect at the lead's tick. -/
def State.abortAt (s : State) (c : Cmd) (a : Word) : State :=
  let put (x : AbortReq) : AbortReq := if x.cmd = c then { x with tick := a } else x
  { s with q := { s.q with aborts := s.q.aborts.map put } }

/-- A forwarded command that the unit takes: an entry of its own, with the lead's apply cycle. -/
def State.follow (s : State) (c0 : Cmd) (a : Word) : State :=
  let c := { c0 with origin := .lead c0.origin }
  match opFind c.op with
  | none => s.ack c0.ref stBadOpcode 0
  | some r =>
    match targetsOf r.spec c s with
    | none => s.ack c0.ref stBadTarget 0
    | some ts =>
      let later := a != s.earliest
      match r.decide c ts a s with
      | .refuse st d _ => s.ack c0.ref st d
      | .reply st d _ s1 => s1.ack c0.ref st d
      | .silent s1 =>
        (s1.abortAt c (if later32 a s.cycle then a else s.cycle + 1)).ack c0.ref 0 0
      | .job s1 =>
        if s1.q.jobs.length ≥ 8 then s.ack c0.ref stBusy 8
        else
          let s2 := s1.setOut (s1.q.outst ++ [⟨c, a, .fixed, false, 1, none, ts, []⟩])
          ({ s2 with q := { s2.q with jobs := s2.q.jobs ++ [({ cmd := c } : Job)] } }).ack c0.ref 0 0
      | .timed left aux s1 =>
        if later && !s.pendFree c.ring.val then s.ack c0.ref stCapacity 1 else (s1.accept c a left ts aux).ack c0.ref 0 0
      | .timedAt _ s1 =>
        if later && !s.pendFree c.ring.val then s.ack c0.ref stCapacity 1 else (s1.accept c a 1 ts []).ack c0.ref 0 0

/-- A command whose apply cycle is not later than CYCLE has come too late: the unit leaves lockstep. -/
def State.followOrLeave (s : State) (c : Cmd) (a : Word) : State :=
  let coming := match s.pair.attach with
    | some x => !x.source && x.cut.isSome && s.astate = 2
    | none => false
  if !s.inLockstep && !coming then s
  else if c.isAbort || isJobOp c.op || later32 a s.cycle then s.follow c a
  else if coming then s.attachFail
  else s.leaveLockstep

/-- The partner refuses a forwarded command: neither unit applies it. -/
def State.partnerRefuses (s : State) (r : CmdRef) (st d : Nat) : State :=
  match s.findOut r with
  | none => s
  | some o =>
    if st = 0 then s
    else if o.phase = .waiting || o.phase = .held || isJobOp o.cmd.op then
      ({ s.undo r with q := { (s.undo r).q with jobs := (s.undo r).q.jobs.filter (fun j => j.cmd.ref != r) } }).finish r st d []
    else s

/-- The partner has completed a command: one that it serves for this unit, or its part of a write step. -/
def State.partnerDone (s : State) (r : CmdRef) (st d : Nat) (a : Word) (reply : List Byte) : State :=
  match s.findOut r with
  | none => s
  | some o =>
    if o.phase = .served then
      (if st = stAccepted then s.interim o.cmd a reply
       else (s.mapOut r (fun x => { x with apply := a })).finish r st d reply)
    else if isJobOp o.cmd.op && st ≠ stAccepted then
      (if st = stDone then s.ownerDone (some r) else s.finish r st d reply)
    else s

/-- A ring-0 override that the other unit has latched in a cycle: both units change at the second tick after it. -/
def State.trigRecord (s : State) (t : Nat) (on : Bool) (latched : Word) : State :=
  let a := if later32 (latched + 2) s.cycle then latched + 2 else s.cycle + 1
  if on then (if s.tEnable t && s.tRing0En t then s.latchFor t { s.trig t with ring0 := true } a else s)
  else s.latchFor t (s.ring0Release t) a

/-- A change of state that the lead has named, or that the standby asks the lead for (R31). -/
def State.goRecord (s : State) (st level : Nat) (a : Word) : State :=
  if s.astate = 4 then (if s.op = .nightfall && st = OpState.run.code then s.wake else s)
  else if !s.inLockstep then s
  else if s.op = .nightfall && st = OpState.run.code then { s with pwr := { s.pwr with wake := some ⟨1, a⟩ } }
  else { s with pwr := { s.pwr with plan := some ⟨st, level, a⟩ } }

/-- One record of a CMD frame. -/
def State.hearRec (s : State) (r : LinkRec) : State :=
  match r with
  | .fwd c a => s.followOrLeave c a
  | .serve c0 =>
    let c := { c0 with origin := .partner c0.origin }
    if s.astate ≠ 4 then s
    else if c.ring.val = 0 then s.r0Push c
    else { s with q := { s.q with fetched := s.q.fetched ++ [c] } }
  | .ack r st d => s.partnerRefuses r st.toNat d.toNat
  | .done r st d a reply => s.partnerDone r st.toNat d.toNat a reply
  | .trig t on latched => s.trigRecord t.val on latched
  | .twin t on => s.twinRequest t.val on
  | .power cond hot2 =>
    let s1 := s.wr PWR_STATUS.pcond cond.toNat
    { s1 with pwr := { s1.pwr with phot2 := hot2 } }
  | .go st level a => s.goRecord st.val level.val a

def execCmdFrame (recs : List LinkRec) (s : State) : Res :=
  .next (if !s.twin || !s.linkUp || !s.engineRuns then s else forAll recs (fun r st => st.hearRec r) s)

end Sys2Proof.Machine
end

