-- ==== Sys2Proof/Machine/Engine.lean ====
section
/-! DEFINITION. The engine cycle (02_engine_cycle_and_latency.md): the tick and all that commits at it, the fabric window, the
crosspoint, the deadline, and the restart of the tick after a full restart (R33–R48, R58, R64–R68, R77–R81, R142).

A tick row takes everything that falls due with its cycle and has not been reported done by a row of its own. The five stages then
move their blocks at the tick; the strip programs run through the rows of the cores. -/

namespace Sys2Proof.Machine

/-! ### Blocks -/

/-- A buffer of some channels, each with its words in order of position: the words that differ from zero, in key order. At most 32
positions have a key. -/
def blockOf (chans : List Nat) (f : Nat → List Word) : SMap Word :=
  chans.flatMap (fun ch => ((List.range 32).zip (f ch)).filterMap (fun x =>
    if x.2 = 0 then none else some (smp ch x.1, x.2)))

/-- The words of a block, by position. -/
def State.rowOf (s : State) (f : Nat → Word) : List Word := (List.range s.blk).map f

/-- Set the stage buffers. -/
def State.mapEng (s : State) (f : EngState → EngState) : State := { s with eng := f s.eng }

/-- Whether a quad delivers nothing in this cycle: it overran (R47), or it runs its program on a core of a cluster held in reset. -/
def State.quadDead (s : State) (outq : Bool) (ch : Nat) : Bool :=
  s.eng.zeroed.contains (b2n outq * 256 + ch / 4) ||
    (match s.quadOf outq ch with
      | some q => q.prog && s.held (q.disp.core / 8)
      | none => false)

/-- What the strips of one kind deliver at the end of the present cycle. -/
def State.results (s : State) (outq : Bool) : SMap Word :=
  blockOf (List.range 1024) (fun ch => if s.quadDead outq ch then [] else s.rowOf (fun p => s.stripOut outq ch p))

/-! ### Capture (R39, R56, R58) -/

/-- The 24-bit sample that a source outside the block delivers; zero where it delivers none. -/
def pcmAt (caps : List SrcSample) (v p : Nat) : BitVec 24 :=
  ((caps.find? (fun c => c.source.toNat = v && c.pos.val = p)).map (fun c => c.pcm)).getD 0

/-- The outputs of the decimation chains; windows deliver theirs by rows of their own (R205). -/
def State.decStage (s : State) (caps : List SrcSample) : State :=
  forAll caps (fun c st =>
    let v := c.source.toNat
    let n := v % 4096
    if v / 4096 = 4 && n < 40 && !st.held (32 + n) && !st.decScs n then st.decOutput n c.pcm c.sat else st) s

/-- The blocks of the players, in player order. -/
def State.playStage (s : State) : List Nat → State × List (Nat × List Word)
  | [] => (s, [])
  | p :: ps =>
    let r := s.playBlock p
    let t := r.1.playStage ps
    (t.1, (p, r.2) :: t.2)

/-- The blocks of the generators, in generator order. -/
def State.genStage (s : State) : List Nat → State × List (Nat × List Word)
  | [] => (s, [])
  | g :: gs =>
    let r := s.genBlock g
    let t := r.1.genStage gs
    (t.1, (g, r.2) :: t.2)

/-- The blocks of the receive streams, in stream order. -/
def State.rxStage (s : State) : List Nat → State × List (Nat × Nat × Word)
  | [] => (s, [])
  | k :: ks =>
    let r := s.rxBlock k
    let t := (r.1.rxAsyncOpen k).rxStage ks
    (t.1, r.2 ++ t.2)

/-- The block that a player or generator delivers. -/
def blockWords (l : List (Nat × List Word)) (n : Nat) : List Word :=
  match l.find? (fun x => x.1 = n) with
  | some x => x.2
  | none => []

/-- The captured block of a network source: of a synchronous stream as its jitter buffer gives it, of an asynchronous one through its
converter. -/
def State.netWords (s : State) (caps : List SrcSample) (ks : List Nat) (rx : List (Nat × Nat × Word)) (ch : Nat) : List Word :=
  match s.rxOf ks ch with
  | none => []
  | some k =>
    if s.isSet (stAsync false k) then
      match s.trackerOf 1 1 k with
      | some t =>
        if s.held (128 + t) then []
        else s.rowOf (fun p =>
          scale (scale (fromPcm24 (pcmAt caps (0x1000 + ch) p).toNat) (s.trkGain t s.cycle p)) (s.rxAsyncGain k p))
      | none => []
    else s.rowOf (fun p => ((rx.find? (fun x => x.1 = ch && x.2.1 = p)).map (fun x => x.2.2)).getD 0)

/-- The captured block of a serial slot. -/
def State.spWords (s : State) (caps : List SrcSample) (i : Nat) : List Word :=
  let n := i / 32
  let down := !s.isSet (SP_CFG.rx_en n) || s.held (16 + n) || (!s.spSync n && (match s.spTracker n with
    | some t => s.held (128 + t)
    | none => false))
  if down then [] else s.rowOf (fun p => s.spCapture n (i % 32) s.cycle p (pcmAt caps (0x2000 + i) p))

/-- The captured block of a decimation channel. -/
def State.decWords (s : State) (caps : List SrcSample) (n : Nat) : List Word :=
  if s.held (32 + n) then [] else s.rowOf (fun p => s.decWord n p (pcmAt caps (0x4000 + n) p))

/-- Source IDs that a capture stage fills, ascending: network, serial, decimation, players, generators. -/
def capturedSources : List Nat :=
  (List.range 512).map (0x1000 + ·) ++ (List.range 512).map (0x2000 + ·) ++ (List.range 40).map (0x4000 + ·)
    ++ (List.range 64).map (0x5000 + ·) ++ (List.range 32).map (0x6000 + ·)

/-- The name under which the mirror list carries a captured source: an analog input may stand there as kind 0x3 (R12). -/
def mirrorName (listed : List Nat) (v : Nat) : Nat :=
  if 0x4020 ≤ v && v < 0x4028 && !listed.contains v then 0x3000 + (v - 0x4020) else v

/-- The block captured in the present cycle, as its tick closes it: a unit in lockstep takes the lead's words (R375). -/
def State.captureStage (s : State) (caps : List SrcSample) : State :=
  let listed := if s.inLockstep then s.mirrorList else []
  let s1 := s.decStage caps
  let pl := s1.playStage (List.range 64)
  let ge := pl.1.genStage (List.range 32)
  let s2 := ge.1
  let ks := s2.rxInUse
  let rx := s2.rxStage ks
  let own (v : Nat) : List Word :=
    let i := v % 4096
    match v / 4096 with
    | 1 => s2.netWords caps ks rx.2 i
    | 2 => s2.spWords caps i
    | 4 => s2.decWords caps i
    | 5 => blockWords pl.2 i
    | _ => blockWords ge.2 i
  let words (v : Nat) : List Word :=
    let ws := own v
    let u := mirrorName listed v
    if listed.contains u then s.rowOf (fun p => s.mirrored listed u p (ws.getD p 0)) else ws
  rx.1.mapEng (fun e => { e with src := blockOf capturedSources words })

/-! ### What falls due with the cycle that ends -/

/-- Every DRAM transfer queued in a cycle is complete before its tick (R171). -/
def State.dlqDue (s : State) : State :=
  let s1 := forAll s.dsp.dlq (fun x st => st.runXfer x) s
  { s1 with dsp := { s1.dsp with
      dlq := []
      cores := s1.dsp.cores.map (fun c => (c.1, { c.2 with dlqUsed := 0, dlqBytes := 0 })) } }

/-- Everything that falls due before CYCLE rises to `a`. -/
def State.dueBefore (s : State) (a : Word) : State :=
  let s1 := (((s.actDue a).syncDue a).decDue a).spDue a
  let s2 := (((s1.aoDue a).cinDueAll).patchDue).xptDue
  let s3 := upTo 4 (fun n st => st.captureEnd n) s2.meterDue
  let s4 := s3.planeRamps.playDue a
  let s5 := upTo 128 (fun k st => if st.txStopDue k a then st.strmOff true k else st) s4
  let s6 := if s5.stepDue a then s5.stepTick a else s5
  let s7 := ((if s6.commitDue a then s6.takeCommit a else s6).commitStops a).nightDue a
  ((s7.wakeDue a).planeDue).resolve a

/-! ### Commits (R37, R265, R404) -/

/-- A start-type command of a port, a channel or a stream. -/
def Outst.starts (o : Outst) : Bool :=
  let op := o.cmd.op
  (op = 0x0401 && fieldOf (o.cmd.p 0) 1 0 = 0) || ((op = 0x0405 || op = 0x0503) && !bitOf (o.cmd.p 0) 0)

/-- The order of the commits of one tick: stops of players, then everything else in decision order, then starts, last the starts that
name no player. -/
def Outst.rank (o : Outst) : Nat :=
  if o.cmd.op = 0x0703 then 0
  else if o.cmd.op = 0x0702 then (if o.cmd.index = 0xFF then 3 else 2)
  else if o.starts then 2
  else 1

/-- The commands whose apply cycle has come. -/
def State.dueCmds (s : State) : List Outst := s.q.outst.filter (fun o => o.phase = .waiting && !later32 o.apply s.cycle)

/-- Commit one command with the given effect: its table entry is free (R402). -/
def State.commitWith (s : State) (o : Outst) (f : Outst → State → State) : State :=
  match s.findOut o.cmd.ref with
  | some x =>
    if x.phase = .waiting then
      f x ((s.mapOut o.cmd.ref (fun y => { y with holds := false, phase := .fixed })).pendSync)
    else s
  | none => s

/-- The commit of a command's row. -/
def rowCommit (o : Outst) (s : State) : State :=
  match opFind o.cmd.op with
  | some r => r.commit o s
  | none => s

/-- The commands due at a tick, but those that change the operating state. -/
def State.commitCmds (s : State) : State :=
  let due := s.dueCmds.filter (fun o => o.cmd.op ≠ 0x0003)
  let l := (List.range 4).flatMap (fun k => due.filter (fun o => o.rank = k))
  forAll l (fun o st => st.commitWith o rowCommit) s

/-- The state commands, once the transitions that outrank them have been taken (R30). -/
def State.commitStates (s : State) (before : OpState) : State :=
  let due := s.dueCmds.filter (fun o => o.cmd.op = 0x0003)
  let changed := before != s.op
  forAll due (fun o st => st.commitWith o (fun x t => t.commitSysState changed x)) s

/-- Commands whose completion tick is fixed and has come. -/
def State.dueDone (s : State) : State :=
  let due := s.q.outst.filter (fun o => match o.due with
    | some t => !later32 t s.cycle
    | none => false)
  forAll due (fun o st =>
    st.finish o.cmd.ref stDone 0 (if isTrigOp o.cmd.op then bytesOfWord (st.trigWord (o.objs.headD 0)) else [])) s

/-- Commands that the other unit was to serve or to finish, once it no longer does (R377). -/
def State.partnerTick (s : State) : State :=
  let served := if s.linkUp then [] else s.q.outst.filter (fun o => o.phase = .served)
  let s1 := forAll served (fun o st => st.finish o.cmd.ref stLinkDown 0 []) s
  let jobs := if s1.forwards then [] else s1.q.outst.filter (fun o => isJobOp o.cmd.op && 2 ≤ o.left)
  forAll jobs (fun o st =>
    if st.q.jobs.any (fun j => j.cmd.ref = o.cmd.ref) then st.mapOut o.cmd.ref (fun x => { x with left := 1 })
    else st.finish o.cmd.ref stDone 0 []) s1

/-- All that commits and changes at the tick of the present cycle; `before` is the operating state in which the cycle before ended. -/
def State.commits (s : State) (before : OpState) : State :=
  let s1 := (s.commitCmds.commitPatchQueues.commitXptQueue).paramTick.actTick
  let s2 := ((((s1.decTick.spTick).trkTick).tmrTick).gainTick).gpioTick
  let s3 := ((((s2.aoTick.genTick).duskTick).refTick).ptpTick).netTick
  let s4 := s3.linkTick
  let s5 := (s4.trigState.squallTick).commitStates before
  ((s5.fenceAll.spareTick).reinitTick).releaseHeld.regrade

/-! ### The fabric window (R41, R51, R57, R60) -/

/-- A sample that the output patch sends to a sink, and whether it saturates (R57, R58). In READY the sinks are silent, but for a ramp
that mutes them. -/
def State.emitSample (s : State) (os : SMap Word) (k p : Nat) (l16 : Bool) : Int × Bool :=
  let e := s.ent (sinkKey k)
  let x := if e.connected && (s.op ≠ .ready || e.phase = .fadeOut || e.phase = .muting) then
      entrySample e s.cycle s.blk p (SMap.get zeroWord os (smp e.sel p))
    else 0
  if l16 then toPcm16 x else toPcm24 x

/-- The counter of saturated samples of a sink. -/
def satFld (k : Nat) : Fld := if k % 2 = 0 then PATCH_SATCNT.even (k / 2) else PATCH_SATCNT.odd (k / 2)

/-- Phase 1: the words of the sinks. -/
def State.emitStage (s : State) (os : SMap Word) : State :=
  let b := s.blk
  let ks := s.l16Streams
  let l16 (k : Nat) : Bool := decide (k < 512) && s.carries ks k
  let row (k : Nat) : List Word :=
    let l := l16 k
    s.rowOf (fun p =>
      let w := wordOf (s.emitSample os k p l).1
      if w ≠ 0 && 512 ≤ k && k < 1024 then scale w (s.spEmitGain ((k - 512) / 32) s.cycle p) else w)
  let last (k : Nat) : Option (Nat × Word) :=
    let w := s.emitWord k (b - 1)
    if w = 0 then none else some (k, w)
  let s1 := s.mapEng (fun e => { e with
    emitPrev := (List.range 1032).filterMap last
    emit := blockOf (List.range 1032) row })
  upTo 1032 (fun k st =>
    let l := l16 k
    let n := ((List.range b).filter (fun p => (s.emitSample os k p l).2)).length
    if n = 0 then st else (st.bump (satFld k) n).bump PATCH_SAT_TOTAL.count n) s1

/-- Write a block into the input area of a quad, four strips wide. -/
def State.fillArea (s : State) (d : DispRec) (f : Nat → Nat → Word) : State :=
  s.setMemWords (quadAddr d false 0 0) ((List.range s.blk).flatMap (fun p => (List.range 4).map (fun l => f l p)))

/-- Phases 3 and 5 for one kind of quads. -/
def State.fillQuads (s : State) (outq : Bool) (f : Nat → Nat → Word) : State :=
  forAll (s.img.quads.filter (fun q => decide (256 ≤ q.1) = outq)) (fun q st =>
    st.fillArea q.2.disp (fun l p => f (4 * (q.1 % 256) + l) p)) s

/-- A source as the input patch reads it: a loopback three ticks old (R51), an analog input as its decimation channel. -/
def State.sourceWord (s : State) (v p : Nat) : Word :=
  let i := v % 4096
  match v / 4096 with
  | 3 => SMap.get zeroWord s.eng.src (smp (0x4020 + i) p)
  | 7 => SMap.get zeroWord s.eng.loop3 (smp i p)
  | _ => SMap.get zeroWord s.eng.src (smp v p)

/-- The word that the input patch gives an input strip. -/
def State.inputWord (s : State) (n p : Nat) : Word :=
  let e := s.ent n
  entrySample e s.cycle s.blk p (if e.sel = 0 then 0 else s.sourceWord e.sel p)

/-- The fabric window with the results of the strips of the cycle before. -/
def State.fabric (s : State) (xi os : SMap Word) : State :=
  let s1 := s.emitStage os
  let s2 := s1.fillQuads true (fun m p => SMap.get zeroWord s1.eng.xptOut (smp m p))
  let s3 := s2.fillQuads false (fun n p => s2.inputWord n p)
  s3.mapEng (fun e => { e with xptIn := xi, osOut := os, loop1 := os, loop2 := e.loop1, loop3 := e.loop2 })

/-! ### The crosspoint (R64–R68, R77–R81) -/

/-- A coefficient read meets an ECC error (R77, R474). -/
def State.coefError (s : State) (e : CoefErr) : State :=
  if e.double then
    let s1 := (s.bump XPT_ECC_CNT.uncorrected 1).startTest .coef (b2n e.bank * 4096 + e.column.val * 4 + e.input.val / 256)
    if e.bank = (s.col e.column.val).bank then
      (s1.setGain e.bank e.column.val e.input.val 0).event 0x2003 (BitVec.ofNat 32 e.column.val) (BitVec.ofNat 32 e.input.val)
    else s1
  else s.bump XPT_ECC_CNT.corrected 1

/-- A lane error in a column (R79). -/
def State.laneError (s : State) (e : LaneErr) : State :=
  let col := 8 * e.lane.val + e.column.val
  let s1 := (s.set1 XPT_STATUS.lane_err).event 0x2001 (BitVec.ofNat 32 e.lane.val) (BitVec.ofNat 32 col)
  (s1.laneStandIn e.lane.val).startTest .lane e.lane.val

/-- Whether the gain of a node is 0 in this cycle: a word of a bank that the column reads is uncorrectable. -/
def State.nodeDead (s : State) (errs : List CoefErr) (m n : Nat) : Bool :=
  errs.any (fun e => e.double && e.column.val = m && e.input.val = n &&
    (e.bank = (s.col m).bank || (s.col m).ramping s.cycle))

/-- The sum of a column at a position and whether it saturates. -/
def State.columnSum (s : State) (errs : List CoefErr) (inputs : List Nat) (m p : Nat) : Word × Bool :=
  reduceSum (inputs.foldl (fun acc n =>
    acc + sval (s.xin n p) * sval (if s.nodeDead errs m n then 0 else s.gainAt s.cycle m n p)) 0)

/-- Whether a column delivers zeros: its lane has none to compute it, it is in error without a spare, or NIGHTFALL has stopped the
crosspoint (R81, R504). -/
def State.columnDead (s : State) (lanes : List LaneErr) (m : Nat) : Bool :=
  s.nightBypass || s.noLane m ||
    lanes.any (fun e => 8 * e.lane.val + e.column.val = m && (s.spareOf e.lane.val).isNone)

/-- The crosspoint's block of the present cycle. -/
def State.xptStage (s : State) (lanes : List LaneErr) (errs : List CoefErr) : State :=
  let s1 := forAll lanes (fun e st => st.laneError e) s
  let cols := (List.range 1024).filter (fun m => !s1.columnDead lanes m)
  let sums := cols.map (fun m =>
    let ins := s1.liveInputs m
    (m, (List.range s1.blk).map (fun p => s1.columnSum errs ins m p)))
  let out := sums.flatMap (fun c => ((List.range 32).zip c.2).filterMap (fun x =>
    if x.2.1 = 0 then none else some (smp c.1 x.1, x.2.1)))
  let s2 := s1.mapEng (fun e => { e with xptOut := out })
  let s3 := forAll sums (fun c st => upTo (c.2.filter (fun x => x.2)).length (fun _ t => t.countXptSat c.1) st) s2
  forAll errs (fun e st => st.coefError e) s3

/-- Meters, captures and transmit streams over the block that the window has moved. -/
def State.watch (s : State) : State :=
  let s1 := forAll s.activePoints (fun i st => st.meterPoint i) s
  let s2 := upTo 4 (fun n st => st.captureBlock n) s1
  upTo 128 (fun k st => st.txCollect k) s2

/-! ### The tick -/

/-- CYCLE rises (R36): a unit that attaches takes the lead's at the first tick after its clock has locked. -/
def State.riseCycle (s : State) : State :=
  if s.pair.takeCycle && s.mc = mcLocked && s.pair.opened then
    ({ s with pair := { s.pair with takeCycle := false } }).setReg ENG_CYCLE (s.pair.pcycle + 1)
  else s.setReg ENG_CYCLE (s.cycle + 1)

/-- The time that has passed since the tick before. -/
def State.passTime (s : State) (elapsed : Word) : State :=
  let s1 := s.advanceTime elapsed
  { s1 with pair := { s1.pair with mdtime := s1.pair.mdtime + elapsed.setWidth 64 } }

/-- What lasts one cycle ends with it. -/
def State.newCycle (s : State) : State :=
  let s1 := { s with q := { s.q with r0InCycle := 0 } }
  ((s1.mapEng (fun e => { e with doneUnits := [], zeroed := [] })).quadTick).shedTick.meterTick

/-- The part of a tick from the rise of CYCLE on. -/
def State.tickFrom (s : State) (before : OpState) (xi os : SMap Word) (lanes : List LaneErr) (errs : List CoefErr) (elapsed : Word) : State :=
  let s1 := ((s.riseCycle.passTime elapsed).newCycle).commits before
  if !s1.engineRuns then s1
  else
    let s2 := ((s1.fabric xi os).xptStage lanes errs).watch
    let s3 := ((s2.dueDone.abortTick).drainTick).partnerTick
    s3.pairTick.regrade

/-- Ticks begin with nothing sent. -/
def State.clearSent (s : State) : State :=
  { s with
    net := { s.net with sent := [] }
    pair := { s.pair with link := [] } }

/-- A tick: the block captured in the cycle that ends, what falls due with it, the new cycle. -/
def State.tick (s : State) (caps : List SrcSample) (lanes : List LaneErr) (errs : List CoefErr) (elapsed : Word) : State :=
  let s1 := (s.clearSent.dlqDue).captureStage caps
  let xi := s.results false
  let os := s.results true
  let a := s.cycle + 1
  let s2 := (s1.dueBefore a).pairDue a
  if s2.engineRuns then s2.tickFrom s.op xi os lanes errs elapsed else s2

/-! ### Full restart (R33, R142) -/

/-- Whether the tick has stopped for a full restart. -/
def State.tickStopped (s : State) : Bool :=
  match s.img.act with
  | some x => x.mode = .full && x.begun
  | none => false

/-- A unit of a pair that does not lead is alone after a full restart. -/
def State.restartAlone (s : State) : State :=
  if s.twin && s.astate ≠ 4 then { (s.setAstate 1).wr PAIR_STATUS.synced_pair 0 with pair := { s.pair with attach := none, taken := [], mis := none } }
  else if s.twin then s.wr PAIR_STATUS.synced_pair 0
  else s

/-- The sequencer stops: every command with a pending apply cycle completes CANCELLED. -/
def State.stopTick (s : State) (x : Activation) : State :=
  let others := s.q.outst.filter (fun o => some o.cmd.ref != x.owner && (o.phase = .waiting || o.phase = .held))
  let s1 := forAll others (fun o st => st.withdraw o.cmd.ref stCancelled) s
  let s2 := match x.owner with
    | some r => (s1.mapOut r (fun o => { o with phase := .fixed, holds := false })).pendSync
    | none => s1
  (s2.setAct (some { x with begun := true })).restartAlone

/-- The activation that is to stop the tick at cycle `a`. -/
def State.fullDue (s : State) (a : Word) : Option Activation :=
  match s.img.act with
  | some x => if x.mode = .full && !x.begun && !later32 x.apply a then some x else none
  | none => none

/-- An activation that would need READY and does not find it. -/
def State.fullRefused (s : State) (x : Activation) : State :=
  let s1 := s.setAct none
  match x.owner with
  | some r => s1.finish r stBadSequence 0 []
  | none => s1

/-! ### Resets at a tick (R30, R419, R511) -/

/-- The SYS_RESET commands due at cycle `a`, until one resets the device. -/
def State.resetCmds (s : State) : List Outst → State
  | [] => s
  | o :: os => if s.mayReset o then sysResetCommit o s else (sysResetCommit o s).resetCmds os

/-- The transitions that outrank everything else at a tick: FAULT-HOLD, then resets. -/
def State.outrank (s : State) (a : Word) : State :=
  let s1 := s.faultHold
  match s1.boot.resetReq with
  | some c => s1.deviceReset c
  | none =>
    if !s1.engineRuns then s1
    else s1.resetCmds (s1.q.outst.filter (fun o => o.cmd.op = 0x0004 && o.phase = .waiting && !later32 o.apply a))

/-- ENGINE_TICK. A stopped engine has no tick. -/
def execEngineTick (caps : List SrcSample) (lanes : List LaneErr) (errs : List CoefErr) (elapsed : Word) (s : State) : Res :=
  .next (
    if !s.engineRuns || s.tickStopped then s
    else
      let a := s.cycle + 1
      let s1 := s.outrank a
      if !s1.engineRuns then s1
      else match s1.fullDue a with
        | some x => if s1.op = .ready then s1.stopTick x else (s1.fullRefused x).tick caps lanes errs elapsed
        | none => s1.tick caps lanes errs elapsed)

/-- The device has loaded the new image and restarts the tick: CYCLE goes on from its value at the stop. -/
def State.restartTick (s : State) (x : Activation) (im : Image) : State :=
  let s1 := (s.loadImage x.slot im).queuePatch im (s.cycle + 1)
  let s2 := s1.clearSent.tickFrom s1.op [] [] [] [] 0
  match x.owner with
  | some r => s2.finish r stDone 0 []
  | none => s2

def execImgRestartTick (s : State) : Res :=
  .next (
    match s.img.act with
    | some x =>
      if !s.tickStopped || !s.engineRuns then s
      else match s.slotImage x.slot with
        | some im => s.restartTick x im
        | none => s
    | none => s)

/-! ### Completion, margins and the deadline (R44–R47) -/

/-- The deadline, in CORE clock cycles after the tick. -/
def State.deadline (s : State) : Nat := s.rd ENG_CT.ct - 2000

/-- CORE clock cycles of the fabric window: 96 × B of FAB, whose clock is half of CORE's. -/
def State.windowCycles (s : State) : Nat := 192 * s.blk

/-- Record a margin (R45, R46). -/
def State.putMargin (s : State) (unit margin : Nat) : State :=
  let s1 := if margin < s.rd ENG_MARGIN_MIN.margin then (s.wr ENG_MARGIN_MIN.margin margin).wr ENG_MARGIN_MIN.unit unit else s
  if margin < s1.rd ENG_MARGIN_WARN.warn then
    let s2 := s1.set1 ENG_STATUS.margin_low
    let quiet : Bool := match SMap.find s2.log.marginAt unit with
      | some c => decide (since s2.cycle (BitVec.ofNat 32 c - 1) < s2.cyclesOfMs 1000)
      | none => false
    if quiet then s2
    else
      let s3 := s2.event 0x3102 (BitVec.ofNat 32 unit) (BitVec.ofNat 32 margin)
      { s3 with log := { s3.log with marginAt := SMap.insert unit ((s3.cycle + 1).toNat) s3.log.marginAt } }
  else s1

/-- A core's load is the longest since its register was read (R515). -/
def State.putLoad (s : State) (core time : Nat) : State :=
  let f := CLU_CORE_LOAD.cycles (core / 8) (core % 8)
  let v := min (time - s.windowCycles) 0xFFFFF
  if s.rd f < v then s.wr f v else s

/-- A unit signals completion, once in a cycle, `time` CORE clock cycles after the tick. -/
def execStripCompletion (unit : Fin 33) (time : Nat) (s : State) : Res :=
  .next (
    if !s.engineRuns || s.eng.doneUnits.contains unit.val then s
    else
      let s1 := s.mapEng (fun e => { e with doneUnits := unit.val :: e.doneUnits })
      let s2 := if unit.val < 32 then s1.putLoad unit.val time else s1
      s2.putMargin unit.val (s.deadline - time))

/-- Three overruns of a unit within 10 s are a lasting fault. -/
def State.countOverrun (s : State) (u : Nat) : State × Bool :=
  let near := s.flt.oflow.filter (fun x => since s.cycle x.2 < s.cyclesOfMs 10000)
  ({ s with flt := { s.flt with oflow := (u, s.cycle) :: near } }, decide ((near.filter (fun x => x.1 = u)).length ≥ 2))

/-- The quads of a core that are unfinished: those that run a program on it in this cycle. -/
def State.lateQuads (s : State) (u : Nat) (items : List (Fin 1024)) : List Nat :=
  (List.range 512).filter (fun k => items.any (fun i => i.val = k) && (match SMap.find s.img.quads k with
    | some q => q.disp.core = u && (q.prog || s.crossing q)
    | none => false))

/-- The targeted self-tests of R47 step 5: of a core, or of the lanes of the unwritten columns. -/
def State.overrunTests (s : State) (k : TestKind) (rs : List Nat) (lasting : Bool) : State :=
  forAll rs (fun r st => if lasting then (st.startTest k r).markLasting k r (r * 1024) else st.startTest k r) s

/-- One unit overruns (R47). -/
def State.overrun (s : State) (l : LateUnit) : State :=
  let u := l.unit.val
  let items := if u < 32 then s.lateQuads u l.items else (List.range 1024).filter (fun m => l.items.any (fun i => i.val = m))
  let low := match items.head? with
    | some k => if u < 32 then (if k < 256 then k else 512 + k % 256) else k
    | none => 0
  let s1 := ((s.bump ENG_OVERRUN_CNT.count 1).set1 ENG_STATUS.overrun).event 0x3101 (BitVec.ofNat 32 u)
    (BitVec.ofNat 32 (items.length * 2 ^ 16 + low))
  let s2 := s1.putMargin u 0
  let (s3, third) := s2.countOverrun u
  if u < 32 then
    let s4 := s3.mapEng (fun e => { e with zeroed := e.zeroed ++ items })
    let s5 := forAll items (fun k st => match SMap.find st.img.quads k with
      | some q => st.initQuadRegion q.disp
      | none => st) s4
    let s6 := (s5.setCore u { s5.core u with run := none, loops := [] }).wr ⟨CLU_STATUS (u / 8), 16 + u % 8, 1⟩ 0
    s6.overrunTests .core [u] third
  else
    let s4 := s3.mapEng (fun e => { e with xptOut := e.xptOut.filter (fun x => !items.contains (x.1 / 32)) })
    s4.overrunTests .lane ((List.range 128).filter (fun i => items.any (fun m => laneOf m = i))) third

/-- The deadline: units that have not signalled overrun, and the guard begins. -/
def execEngineDeadline (late : List LateUnit) (wispFail : List (Fin 6)) (s : State) : Res :=
  .next (
    if !s.engineRuns || s.tickStopped then s
    else
      let l := late.filter (fun u => !s.eng.doneUnits.contains u.unit.val)
      (forAll l (fun u st => st.overrun u) s).wispGuard wispFail)

end Sys2Proof.Machine
end

