-- ==== Sys2Proof/Machine/Dispatch.lean ====
section
/-! DEFINITION. The dispatch: one arm per command. -/

namespace Sys2Proof.Machine

open Sys2Proof

/-- What a command does to everything but the queue. -/
def exec (i : Instr) (s : State) : Host.Outcome State Fault Refusal :=
  match i with
  | .powerOn p => Sys2Proof.Machine.execPowerOn p s
  | .vsysFall => Sys2Proof.Machine.execVsysFall s
  | .porstNLow => Sys2Proof.Machine.execPorstNLow s
  | .porstNRelease p => Sys2Proof.Machine.execPorstNRelease p s
  | .regulatorCutoff => Sys2Proof.Machine.execRegulatorCutoff s
  | .regulatorRestart p => Sys2Proof.Machine.execRegulatorRestart p s
  | .railsInRegulation => Sys2Proof.Machine.execRailsInRegulation s
  | .ircQualified => Sys2Proof.Machine.execIrcQualified s
  | .crystalQualified => Sys2Proof.Machine.execCrystalQualified s
  | .crystalQualTimeout => Sys2Proof.Machine.execCrystalQualTimeout s
  | .rootPllLock => Sys2Proof.Machine.execRootPllLock s
  | .pllLockTimeout => Sys2Proof.Machine.execPllLockTimeout s
  | .ircStop => Sys2Proof.Machine.execIrcStop s
  | .ircPeriodicCheck ok => Sys2Proof.Machine.execIrcPeriodicCheck ok s
  | .clockSupervisorTrip cause => Sys2Proof.Machine.execClockSupervisorTrip cause s
  | .clockWaitRetry ok => Sys2Proof.Machine.execClockWaitRetry ok s
  | .afterglowOutOfRange khz => Sys2Proof.Machine.execAfterglowOutOfRange khz s
  | .dramTrained ok => Sys2Proof.Machine.execDramTrained ok s
  | .firmwareLoad => Sys2Proof.Machine.execFirmwareLoad s
  | .bootImageLoad => Sys2Proof.Machine.execBootImageLoad s
  | .headLoadDone m => Sys2Proof.Machine.execHeadLoadDone m s
  | .secRecovGo v => Sys2Proof.Machine.execSecRecovGo v s
  | .recoveryCheckDone => Sys2Proof.Machine.execRecoveryCheckDone s
  | .engineTick captures laneErrs coefErrs elapsed => Sys2Proof.Machine.execEngineTick captures laneErrs coefErrs elapsed s
  | .dispatchRecord core outq quad => Sys2Proof.Machine.execDispatchRecord core outq quad s
  | .stripCompletion unit time => Sys2Proof.Machine.execStripCompletion unit time s
  | .engineDeadline late wispFail => Sys2Proof.Machine.execEngineDeadline late wispFail s
  | .wispAbandon m => Sys2Proof.Machine.execWispAbandon m s
  | .wispRestoreDone m => Sys2Proof.Machine.execWispRestoreDone m s
  | .eccWriteback addr => Sys2Proof.Machine.execEccWriteback addr s
  | .slotNop sl => Sys2Proof.Machine.execSlotNop sl s
  | .vadd sl d a b => Sys2Proof.Machine.execVadd sl d a b s
  | .vaddm sl d a b => Sys2Proof.Machine.execVaddm sl d a b s
  | .vsub sl d a b => Sys2Proof.Machine.execVsub sl d a b s
  | .vsubm sl d a b => Sys2Proof.Machine.execVsubm sl d a b s
  | .vneg sl d a => Sys2Proof.Machine.execVneg sl d a s
  | .vabs sl d a => Sys2Proof.Machine.execVabs sl d a s
  | .vmin sl d a b => Sys2Proof.Machine.execVmin sl d a b s
  | .vmax sl d a b => Sys2Proof.Machine.execVmax sl d a b s
  | .vand sl d a b => Sys2Proof.Machine.execVand sl d a b s
  | .vor sl d a b => Sys2Proof.Machine.execVor sl d a b s
  | .vxor sl d a b => Sys2Proof.Machine.execVxor sl d a b s
  | .vpick sl d a b => Sys2Proof.Machine.execVpick sl d a b s
  | .vcgt sl d a b => Sys2Proof.Machine.execVcgt sl d a b s
  | .vceq sl d a b => Sys2Proof.Machine.execVceq sl d a b s
  | .vshl sl d a n => Sys2Proof.Machine.execVshl sl d a n s
  | .vsra sl d a n => Sys2Proof.Machine.execVsra sl d a n s
  | .vsrar sl d a n => Sys2Proof.Machine.execVsrar sl d a n s
  | .vsrl sl d a n => Sys2Proof.Machine.execVsrl sl d a n s
  | .vspl sl d a l => Sys2Proof.Machine.execVspl sl d a l s
  | .vidx sl d => Sys2Proof.Machine.execVidx sl d s
  | .vhsum sl d a => Sys2Proof.Machine.execVhsum sl d a s
  | .vhmax sl d a => Sys2Proof.Machine.execVhmax sl d a s
  | .vhmin sl d a => Sys2Proof.Machine.execVhmin sl d a s
  | .vhmaxi sl d a => Sys2Proof.Machine.execVhmaxi sl d a s
  | .vhmini sl d a => Sys2Proof.Machine.execVhmini sl d a s
  | .vsmax sl d a => Sys2Proof.Machine.execVsmax sl d a s
  | .vsmin sl d a => Sys2Proof.Machine.execVsmin sl d a s
  | .vsmaxa sl d a => Sys2Proof.Machine.execVsmaxa sl d a s
  | .vmul sl d a b k => Sys2Proof.Machine.execVmul sl d a b k s
  | .mac sl d a b => Sys2Proof.Machine.execMac sl d a b s
  | .msu sl d a b => Sys2Proof.Machine.execMsu sl d a b s
  | .mul sl d a b => Sys2Proof.Machine.execMul sl d a b s
  | .aset sl d a n => Sys2Proof.Machine.execAset sl d a n s
  | .alo sl d a => Sys2Proof.Machine.execAlo sl d a s
  | .amov sl d a => Sys2Proof.Machine.execAmov sl d a s
  | .aadd sl d a => Sys2Proof.Machine.execAadd sl d a s
  | .aclr sl d => Sys2Proof.Machine.execAclr sl d s
  | .ext sl d a sh r => Sys2Proof.Machine.execExt sl d a sh r s
  | .extl sl d a sh => Sys2Proof.Machine.execExtl sl d a sh s
  | .vld sl v acc ue ce => Sys2Proof.Machine.execVld sl v acc ue ce s
  | .vst sl v acc => Sys2Proof.Machine.execVst sl v acc s
  | .vldb sl v acc => Sys2Proof.Machine.execVldb sl v acc s
  | .atadd sl v acc => Sys2Proof.Machine.execAtadd sl v acc s
  | .atswp sl v acc => Sys2Proof.Machine.execAtswp sl v acc s
  | .pmod sl acc => Sys2Proof.Machine.execPmod sl acc s
  | .pld sl n acc => Sys2Proof.Machine.execPld sl n acc s
  | .mld sl n acc => Sys2Proof.Machine.execMld sl n acc s
  | .cnop sl => Sys2Proof.Machine.execCnop sl s
  | .loopOp sl k idx len => Sys2Proof.Machine.execLoopOp sl k idx len s
  | .loopPassEnd core k => Sys2Proof.Machine.execLoopPassEnd core k s
  | .setlc sl k n => Sys2Proof.Machine.execSetlc sl k n s
  | .setlcr sl k p max => Sys2Proof.Machine.execSetlcr sl k p max s
  | .brf sl c off => Sys2Proof.Machine.execBrf sl c off s
  | .paddi sl p imm => Sys2Proof.Machine.execPaddi sl p imm s
  | .setm sl m imm x16 => Sys2Proof.Machine.execSetm sl m imm x16 s
  | .pmov sl d a => Sys2Proof.Machine.execPmov sl d a s
  | .setw sl k p m => Sys2Proof.Machine.execSetw sl k p m s
  | .bindOp sl p w => Sys2Proof.Machine.execBindOp sl p w s
  | .setidx sl imm => Sys2Proof.Machine.execSetidx sl imm s
  | .dlq sl v => Sys2Proof.Machine.execDlq sl v s
  | .endOp sl => Sys2Proof.Machine.execEndOp sl s
  | .dlqTransferDone core => Sys2Proof.Machine.execDlqTransferDone core s
  | .xptCopyDone m => Sys2Proof.Machine.execXptCopyDone m s
  | .xptRampEnd m => Sys2Proof.Machine.execXptRampEnd m s
  | .coefShadowWrite master addr words => Sys2Proof.Machine.execCoefShadowWrite master addr words s
  | .captureDone n => Sys2Proof.Machine.execCaptureDone n s
  | .meterWindowEnd => Sys2Proof.Machine.execMeterWindowEnd s
  | .patchFadeOutEnd k => Sys2Proof.Machine.execPatchFadeOutEnd k s
  | .patchFadeEnd k => Sys2Proof.Machine.execPatchFadeEnd k s
  | .cinSample n ohms isForeign => Sys2Proof.Machine.execCinSample n ohms isForeign s
  | .cinDebounceComplete n => Sys2Proof.Machine.execCinDebounceComplete n s
  | .triggerAssertion t => Sys2Proof.Machine.execTriggerAssertion t s
  | .triggerRelease t => Sys2Proof.Machine.execTriggerRelease t s
  | .ovrForceRampEnd m => Sys2Proof.Machine.execOvrForceRampEnd m s
  | .ovrReleaseRampEnd m => Sys2Proof.Machine.execOvrReleaseRampEnd m s
  | .ovrCrcCheck bad1 bad2 => Sys2Proof.Machine.execOvrCrcCheck bad1 bad2 s
  | .ovrArmExpiry => Sys2Proof.Machine.execOvrArmExpiry s
  | .ovrKeyLockoutEnd => Sys2Proof.Machine.execOvrKeyLockoutEnd s
  | .ovrCommitTakeEffect => Sys2Proof.Machine.execOvrCommitTakeEffect s
  | .imgRestartTick => Sys2Proof.Machine.execImgRestartTick s
  | .imgDipBypass => Sys2Proof.Machine.execImgDipBypass s
  | .imgSwitchTick loaded => Sys2Proof.Machine.execImgSwitchTick loaded s
  | .imgActivateComplete => Sys2Proof.Machine.execImgActivateComplete s
  | .paramSyncDone outq quad => Sys2Proof.Machine.execParamSyncDone outq quad s
  | .backgroundJobDone ring tag => Sys2Proof.Machine.execBackgroundJobDone ring tag s
  | .decStart master n => Sys2Proof.Machine.execDecStart master n s
  | .decStop master n => Sys2Proof.Machine.execDecStop master n s
  | .decSettleEnd n => Sys2Proof.Machine.execDecSettleEnd n s
  | .decStopEnd n => Sys2Proof.Machine.execDecStopEnd n s
  | .decStrobe n => Sys2Proof.Machine.execDecStrobe n s
  | .decTimerStrobe t => Sys2Proof.Machine.execDecTimerStrobe t s
  | .decWindowEnd n bits => Sys2Proof.Machine.execDecWindowEnd n bits s
  | .decFifoRead n => Sys2Proof.Machine.execDecFifoRead n s
  | .trackerEdgesSeen t ratio => Sys2Proof.Machine.execTrackerEdgesSeen t ratio s
  | .trackerLock t ratio => Sys2Proof.Machine.execTrackerLock t ratio s
  | .trackerEdgeLoss t => Sys2Proof.Machine.execTrackerEdgeLoss t s
  | .trackerRatioJump t ratio => Sys2Proof.Machine.execTrackerRatioJump t ratio s
  | .trackerRange t ratio => Sys2Proof.Machine.execTrackerRange t ratio s
  | .trackerRangeExit t ratio => Sys2Proof.Machine.execTrackerRangeExit t ratio s
  | .spStart master n => Sys2Proof.Machine.execSpStart master n s
  | .spStop master n => Sys2Proof.Machine.execSpStop master n s
  | .spMute master n => Sys2Proof.Machine.execSpMute master n s
  | .spUnmute master n => Sys2Proof.Machine.execSpUnmute master n s
  | .spMaskCommit master n => Sys2Proof.Machine.execSpMaskCommit master n s
  | .spMaskTakeEffect n => Sys2Proof.Machine.execSpMaskTakeEffect n s
  | .spFrameAligned n slack => Sys2Proof.Machine.execSpFrameAligned n slack s
  | .spDataTick n => Sys2Proof.Machine.execSpDataTick n s
  | .spSlotCrossing n slot pos => Sys2Proof.Machine.execSpSlotCrossing n slot pos s
  | .spZcTimeout n slot => Sys2Proof.Machine.execSpZcTimeout n slot s
  | .spLeadOutEnd n => Sys2Proof.Machine.execSpLeadOutEnd n s
  | .spUnderrun n tx => Sys2Proof.Machine.execSpUnderrun n tx s
  | .spOverrun n tx => Sys2Proof.Machine.execSpOverrun n tx s
  | .spSlip n fast => Sys2Proof.Machine.execSpSlip n fast s
  | .spGlitch n => Sys2Proof.Machine.execSpGlitch n s
  | .spLost n => Sys2Proof.Machine.execSpLost n s
  | .spRealign n => Sys2Proof.Machine.execSpRealign n s
  | .anaGainWrite master n gain => Sys2Proof.Machine.execAnaGainWrite master n gain s
  | .gainStep n => Sys2Proof.Machine.execGainStep n s
  | .gainStepTimeout n => Sys2Proof.Machine.execGainStepTimeout n s
  | .biasStateChange n ua => Sys2Proof.Machine.execBiasStateChange n ua s
  | .aoutGateCrossing n pos => Sys2Proof.Machine.execAoutGateCrossing n pos s
  | .aoutHoldEnd n => Sys2Proof.Machine.execAoutHoldEnd n s
  | .drvSample currents low => Sys2Proof.Machine.execDrvSample currents low s
  | .drvFaultDebounce n => Sys2Proof.Machine.execDrvFaultDebounce n s
  | .drvOvercurrent n => Sys2Proof.Machine.execDrvOvercurrent n s
  | .drvRetry n => Sys2Proof.Machine.execDrvRetry n s
  | .drvTotalOverload => Sys2Proof.Machine.execDrvTotalOverload s
  | .lsEstimate m cv ci => Sys2Proof.Machine.execLsEstimate m cv ci s
  | .lsFaultDeclared m => Sys2Proof.Machine.execLsFaultDeclared m s
  | .lsLearnStart master m => Sys2Proof.Machine.execLsLearnStart master m s
  | .lsLearnDone m => Sys2Proof.Machine.execLsLearnDone m s
  | .playerFirstSample p => Sys2Proof.Machine.execPlayerFirstSample p s
  | .chainStepAdvance p => Sys2Proof.Machine.execChainStepAdvance p s
  | .playerUnderrun p => Sys2Proof.Machine.execPlayerUnderrun p s
  | .scanVerify item ok => Sys2Proof.Machine.execScanVerify item ok s
  | .scanPhaseEnd => Sys2Proof.Machine.execScanPhaseEnd s
  | .genEnableWrite master g value => Sys2Proof.Machine.execGenEnableWrite master g value s
  | .genSegmentEnd g => Sys2Proof.Machine.execGenSegmentEnd g s
  | .visUpdate z e => Sys2Proof.Machine.execVisUpdate z e s
  | .streamPacketReceived p => Sys2Proof.Machine.execStreamPacketReceived p s
  | .streamPacketTransmit k => Sys2Proof.Machine.execStreamPacketTransmit k s
  | .streamTxStopEnd k => Sys2Proof.Machine.execStreamTxStopEnd k s
  | .streamRxTimeout k => Sys2Proof.Machine.execStreamRxTimeout k s
  | .legDown k => Sys2Proof.Machine.execLegDown k s
  | .linkSpeedChange netb link => Sys2Proof.Machine.execLinkSpeedChange netb link s
  | .igmpQueryReceived netb v2 => Sys2Proof.Machine.execIgmpQueryReceived netb v2 s
  | .igmpReportRepeat => Sys2Proof.Machine.execIgmpReportRepeat s
  | .sapAnnounce k => Sys2Proof.Machine.execSapAnnounce k s
  | .sapAnnounceReceived origin text delete => Sys2Proof.Machine.execSapAnnounceReceived origin text delete s
  | .sapEntryAgeOut e => Sys2Proof.Machine.execSapEntryAgeOut e s
  | .mgmtDatagramReceived netb src bytes => Sys2Proof.Machine.execMgmtDatagramReceived netb src bytes s
  | .ptpMessageReceived port domain m => Sys2Proof.Machine.execPtpMessageReceived port domain m s
  | .ptpMessageSend port k stamp => Sys2Proof.Machine.execPtpMessageSend port k stamp s
  | .announceTimeout port => Sys2Proof.Machine.execAnnounceTimeout port s
  | .servoStep => Sys2Proof.Machine.execServoStep s
  | .autoRestep => Sys2Proof.Machine.execAutoRestep s
  | .refMeasurement k m => Sys2Proof.Machine.execRefMeasurement k m s
  | .refPresenceChange k present => Sys2Proof.Machine.execRefPresenceChange k present s
  | .refLock phase => Sys2Proof.Machine.execRefLock phase s
  | .refPullDone => Sys2Proof.Machine.execRefPullDone s
  | .refOutlierClear k => Sys2Proof.Machine.execRefOutlierClear k s
  | .refSelWrite master sel => Sys2Proof.Machine.execRefSelWrite master sel s
  | .ceilingFrameReceived f => Sys2Proof.Machine.execCeilingFrameReceived f s
  | .ceilingFrameRetry line => Sys2Proof.Machine.execCeilingFrameRetry line s
  | .pairLineLost line => Sys2Proof.Machine.execPairLineLost line s
  | .pairLineRecover line => Sys2Proof.Machine.execPairLineRecover line s
  | .beaconSend netb => Sys2Proof.Machine.execBeaconSend netb s
  | .beaconReceived netb bytes gap => Sys2Proof.Machine.execBeaconReceived netb bytes gap s
  | .beaconHeartbeatLost => Sys2Proof.Machine.execBeaconHeartbeatLost s
  | .partnerSilence => Sys2Proof.Machine.execPartnerSilence s
  | .handoverTick => Sys2Proof.Machine.execHandoverTick s
  | .driveSenseProbe out driver => Sys2Proof.Machine.execDriveSenseProbe out driver s
  | .driveTaken out => Sys2Proof.Machine.execDriveTaken out s
  | .driveConflict out => Sys2Proof.Machine.execDriveConflict out s
  | .twpcAutoPulse => Sys2Proof.Machine.execTwpcAutoPulse s
  | .twpcInPulse ms => Sys2Proof.Machine.execTwpcInPulse ms s
  | .twpcRailOffEnd => Sys2Proof.Machine.execTwpcRailOffEnd s
  | .twpcHoldLapse => Sys2Proof.Machine.execTwpcHoldLapse s
  | .sundogLanesLock lanes latency => Sys2Proof.Machine.execSundogLanesLock lanes latency s
  | .sundogLinkUp => Sys2Proof.Machine.execSundogLinkUp s
  | .linkDown => Sys2Proof.Machine.execLinkDown s
  | .cycleOpen f => Sys2Proof.Machine.execCycleOpen f s
  | .input cyc pos words bias => Sys2Proof.Machine.execInput cyc pos words bias s
  | .stateFrame region offset bytes => Sys2Proof.Machine.execStateFrame region offset bytes s
  | .cmdFrame recs => Sys2Proof.Machine.execCmdFrame recs s
  | .sig sigs => Sys2Proof.Machine.execSig sigs s
  | .cycleClose cyc inputs => Sys2Proof.Machine.execCycleClose cyc inputs s
  | .bulk item => Sys2Proof.Machine.execBulk item s
  | .sundogAck ok => Sys2Proof.Machine.execSundogAck ok s
  | .pairVerdict => Sys2Proof.Machine.execPairVerdict s
  | .pairDecision => Sys2Proof.Machine.execPairDecision s
  | .attachStart peer => Sys2Proof.Machine.execAttachStart peer s
  | .bulkCopyComplete cut st => Sys2Proof.Machine.execBulkCopyComplete cut st s
  | .cutoverTick => Sys2Proof.Machine.execCutoverTick s
  | .standbyPromotion => Sys2Proof.Machine.execStandbyPromotion s
  | .reclaimPromotion => Sys2Proof.Machine.execReclaimPromotion s
  | .cmdDoorbell n pi => Sys2Proof.Machine.execCmdDoorbell n pi s
  | .cmdCdbWrite n cci => Sys2Proof.Machine.execCmdCdbWrite n cci s
  | .cmdRingEnable n => Sys2Proof.Machine.execCmdRingEnable n s
  | .cmdRingDisable n => Sys2Proof.Machine.execCmdRingDisable n s
  | .ringDrainDone n => Sys2Proof.Machine.execRingDrainDone n s
  | .commandFetch n => Sys2Proof.Machine.execCommandFetch n s
  | .commandDecision => Sys2Proof.Machine.execCommandDecision s
  | .ring0Decode => Sys2Proof.Machine.execRing0Decode s
  | .cpWatchdogExpiry => Sys2Proof.Machine.execCpWatchdogExpiry s
  | .cpTrap => Sys2Proof.Machine.execCpTrap s
  | .cpRestart => Sys2Proof.Machine.execCpRestart s
  | .sysWdogKick master v => Sys2Proof.Machine.execSysWdogKick master v s
  | .sysResetWrite v => Sys2Proof.Machine.execSysResetWrite v s
  | .sysRemapWrite v => Sys2Proof.Machine.execSysRemapWrite v s
  | .duskExitReady m => Sys2Proof.Machine.execDuskExitReady m s
  | .memDuskWrite master req => Sys2Proof.Machine.execMemDuskWrite master req s
  | .scrubPass => Sys2Proof.Machine.execScrubPass s
  | .selftestDone kind res pass word => Sys2Proof.Machine.execSelftestDone kind res pass word s
  | .fence => Sys2Proof.Machine.execFence s
  | .ladderStep step func => Sys2Proof.Machine.execLadderStep step func s
  | .ladderHeldRelease => Sys2Proof.Machine.execLadderHeldRelease s
  | .funcRestart func => Sys2Proof.Machine.execFuncRestart func s
  | .logFlush => Sys2Proof.Machine.execLogFlush s
  | .flashOperationDone corrections uncorr blockFail => Sys2Proof.Machine.execFlashOperationDone corrections uncorr blockFail s
  | .busBurst b => Sys2Proof.Machine.execBusBurst b s
  | .busTimeout master target write addr beats => Sys2Proof.Machine.execBusTimeout master target write addr beats s
  | .busAbandon master target addr => Sys2Proof.Machine.execBusAbandon master target addr s
  | .clkGateReqWrite master req => Sys2Proof.Machine.execClkGateReqWrite master req s
  | .gateQuiescent k => Sys2Proof.Machine.execGateQuiescent k s
  | .gateQuiesceTimeout k => Sys2Proof.Machine.execGateQuiesceTimeout k s
  | .thermalSample t0 t1 t2 t3 t4 => Sys2Proof.Machine.execThermalSample t0 t1 t2 t3 t4 s
  | .thermalExitTimer hot2 => Sys2Proof.Machine.execThermalExitTimer hot2 s
  | .supplyLowTimer => Sys2Proof.Machine.execSupplyLowTimer s
  | .supplyClearTimer => Sys2Proof.Machine.execSupplyClearTimer s
  | .budgetExceeded => Sys2Proof.Machine.execBudgetExceeded s
  | .vauxOvercurrent => Sys2Proof.Machine.execVauxOvercurrent s
  | .vauxRetry ok ma => Sys2Proof.Machine.execVauxRetry ok ma s
  | .nightfallBypass => Sys2Proof.Machine.execNightfallBypass s
  | .nightfallDusk => Sys2Proof.Machine.execNightfallDusk s
  | .wakeEvent => Sys2Proof.Machine.execWakeEvent s
  | .wakeGatesOpen => Sys2Proof.Machine.execWakeGatesOpen s
  | .wakeRun => Sys2Proof.Machine.execWakeRun s
  | .wpLockoutEnd => Sys2Proof.Machine.execWpLockoutEnd s
  | .secAkeyCommit => Sys2Proof.Machine.execSecAkeyCommit s
  | .xptQpush master => Sys2Proof.Machine.execXptQpush master s
  | .xptCntClrSat => Sys2Proof.Machine.execXptCntClrSat s
  | .xptCntClrEcc => Sys2Proof.Machine.execXptCntClrEcc s
  | .xptCntClrBlk => Sys2Proof.Machine.execXptCntClrBlk s
  | .xptCapArm n => Sys2Proof.Machine.execXptCapArm n s
  | .patchPush master => Sys2Proof.Machine.execPatchPush master s
  | .patchCntClrSinks => Sys2Proof.Machine.execPatchCntClrSinks s
  | .patchCntClrTotal => Sys2Proof.Machine.execPatchCntClrTotal s
  | .patchMtrClr => Sys2Proof.Machine.execPatchMtrClr s
  | .patchMtrCfgWrite win => Sys2Proof.Machine.execPatchMtrCfgWrite win s
  | .ovrArmWrite master key => Sys2Proof.Machine.execOvrArmWrite master key s
  | .ovrCommitWrite master resp => Sys2Proof.Machine.execOvrCommitWrite master resp s
  | .engCntClrOverrun => Sys2Proof.Machine.execEngCntClrOverrun s
  | .engMarginMinRead => Sys2Proof.Machine.execEngMarginMinRead s
  | .cluCntClrSat n => Sys2Proof.Machine.execCluCntClrSat n s
  | .cluLoadRead n k => Sys2Proof.Machine.execCluLoadRead n k s
  | .memCntClrDlq => Sys2Proof.Machine.execMemCntClrDlq s
  | .memCntClrConf => Sys2Proof.Machine.execMemCntClrConf s
  | .memCntClrDram => Sys2Proof.Machine.execMemCntClrDram s
  | .memCntClrSram => Sys2Proof.Machine.execMemCntClrSram s
  | .memDramRtRead => Sys2Proof.Machine.execMemDramRtRead s
  | .busCntClrLk => Sys2Proof.Machine.execBusCntClrLk s
  | .busCntClrEv => Sys2Proof.Machine.execBusCntClrEv s
  | .busCntClrErr => Sys2Proof.Machine.execBusCntClrErr s
  | .busWaitRead t => Sys2Proof.Machine.execBusWaitRead t s
  | .cmdPendRead => Sys2Proof.Machine.execCmdPendRead s
  | .flashcSuspRead => Sys2Proof.Machine.execFlashcSuspRead s
  | .pwrTjMaxRead => Sys2Proof.Machine.execPwrTjMaxRead s
  | .ptpDtimeLoRead => Sys2Proof.Machine.execPtpDtimeLoRead s
  | .ptpStepLoRead => Sys2Proof.Machine.execPtpStepLoRead s
  | .broadcastAliasWrite master addr v => Sys2Proof.Machine.execBroadcastAliasWrite master addr v s
  | .groupAliasWrite master addr v => Sys2Proof.Machine.execGroupAliasWrite master addr v s
  | .registerWrite master addr v => Sys2Proof.Machine.execRegisterWrite master addr v s
  | .rdsr => Sys2Proof.Machine.execRdsr s
  | .clsr => Sys2Proof.Machine.execClsr s
  | .rdid => Sys2Proof.Machine.execRdid s
  | .read addr words ready => Sys2Proof.Machine.execRead addr words ready s
  | .readQ addr words ready => Sys2Proof.Machine.execReadQ addr words ready s
  | .readQio addr words ready => Sys2Proof.Machine.execReadQio addr words ready s
  | .write addr bytes => Sys2Proof.Machine.execWrite addr bytes s
  | .writeQ addr bytes => Sys2Proof.Machine.execWriteQ addr bytes s
  | .writeQio addr bytes => Sys2Proof.Machine.execWriteQio addr bytes s
  | .qspiWriteFlush => Sys2Proof.Machine.execQspiWriteFlush s
  | .otpKey slot hash => Sys2Proof.Machine.execOtpKey slot hash s
  | .extest => Sys2Proof.Machine.execExtest s
  | .bypass => Sys2Proof.Machine.execBypass s
  | .idcode => Sys2Proof.Machine.execIdcode s
  | .nop c => Sys2Proof.Machine.execNop c s
  | .sysInfo c => Sys2Proof.Machine.execSysInfo c s
  | .abort c => Sys2Proof.Machine.execAbort c s
  | .sysState c => Sys2Proof.Machine.execSysState c s
  | .sysReset c => Sys2Proof.Machine.execSysReset c s
  | .groupDef c => Sys2Proof.Machine.execGroupDef c s
  | .groupRead c => Sys2Proof.Machine.execGroupRead c s
  | .regRead c => Sys2Proof.Machine.execRegRead c s
  | .regWrite c => Sys2Proof.Machine.execRegWrite c s
  | .regRmw c => Sys2Proof.Machine.execRegRmw c s
  | .patchIn c => Sys2Proof.Machine.execPatchIn c s
  | .sinkSet c => Sys2Proof.Machine.execSinkSet c s
  | .xptNode c => Sys2Proof.Machine.execXptNode c s
  | .xptCol c => Sys2Proof.Machine.execXptCol c s
  | .xptSwap c => Sys2Proof.Machine.execXptSwap c s
  | .xptCopy c => Sys2Proof.Machine.execXptCopy c s
  | .xptRead c => Sys2Proof.Machine.execXptRead c s
  | .meterRead c => Sys2Proof.Machine.execMeterRead c s
  | .capture c => Sys2Proof.Machine.execCapture c s
  | .paramWrite c => Sys2Proof.Machine.execParamWrite c s
  | .paramSwap c => Sys2Proof.Machine.execParamSwap c s
  | .paramRead c => Sys2Proof.Machine.execParamRead c s
  | .imgWrite c => Sys2Proof.Machine.execImgWrite c s
  | .imgActivate c => Sys2Proof.Machine.execImgActivate c s
  | .imgPin c => Sys2Proof.Machine.execImgPin c s
  | .imgStatus c => Sys2Proof.Machine.execImgStatus c s
  | .fwWrite c => Sys2Proof.Machine.execFwWrite c s
  | .spConfig c => Sys2Proof.Machine.execSpConfig c s
  | .spCtrl c => Sys2Proof.Machine.execSpCtrl c s
  | .spMask c => Sys2Proof.Machine.execSpMask c s
  | .decConfig c => Sys2Proof.Machine.execDecConfig c s
  | .decTaps c => Sys2Proof.Machine.execDecTaps c s
  | .decCtrl c => Sys2Proof.Machine.execDecCtrl c s
  | .decClock c => Sys2Proof.Machine.execDecClock c s
  | .anaIn c => Sys2Proof.Machine.execAnaIn c s
  | .anaOut c => Sys2Proof.Machine.execAnaOut c s
  | .asrcRead c => Sys2Proof.Machine.execAsrcRead c s
  | .netConfig c => Sys2Proof.Machine.execNetConfig c s
  | .strmTxSetup c => Sys2Proof.Machine.execStrmTxSetup c s
  | .strmRxSetup c => Sys2Proof.Machine.execStrmRxSetup c s
  | .strmCtrl c => Sys2Proof.Machine.execStrmCtrl c s
  | .strmTag c => Sys2Proof.Machine.execStrmTag c s
  | .sapRead c => Sys2Proof.Machine.execSapRead c s
  | .ptpConfig c => Sys2Proof.Machine.execPtpConfig c s
  | .ptpRestep c => Sys2Proof.Machine.execPtpRestep c s
  | .refSelect c => Sys2Proof.Machine.execRefSelect c s
  | .refConfig c => Sys2Proof.Machine.execRefConfig c s
  | .timeRead c => Sys2Proof.Machine.execTimeRead c s
  | .msgWrite c => Sys2Proof.Machine.execMsgWrite c s
  | .chainWrite c => Sys2Proof.Machine.execChainWrite c s
  | .playStart c => Sys2Proof.Machine.execPlayStart c s
  | .playStop c => Sys2Proof.Machine.execPlayStop c s
  | .genConfig c => Sys2Proof.Machine.execGenConfig c s
  | .genCtrl c => Sys2Proof.Machine.execGenCtrl c s
  | .visConfig c => Sys2Proof.Machine.execVisConfig c s
  | .cinConfig c => Sys2Proof.Machine.execCinConfig c s
  | .cinThr c => Sys2Proof.Machine.execCinThr c s
  | .drvConfig c => Sys2Proof.Machine.execDrvConfig c s
  | .lsConfig c => Sys2Proof.Machine.execLsConfig c s
  | .lsLearn c => Sys2Proof.Machine.execLsLearn c s
  | .supRead c => Sys2Proof.Machine.execSupRead c s
  | .gpioConfig c => Sys2Proof.Machine.execGpioConfig c s
  | .pairAttach c => Sys2Proof.Machine.execPairAttach c s
  | .pairDetach c => Sys2Proof.Machine.execPairDetach c s
  | .pairYield c => Sys2Proof.Machine.execPairYield c s
  | .pairReclaim c => Sys2Proof.Machine.execPairReclaim c s
  | .pairConfig c => Sys2Proof.Machine.execPairConfig c s
  | .twpcPulse c => Sys2Proof.Machine.execTwpcPulse c s
  | .pairRead c => Sys2Proof.Machine.execPairRead c s
  | .selftest c => Sys2Proof.Machine.execSelftest c s
  | .memRead c => Sys2Proof.Machine.execMemRead c s
  | .memDusk c => Sys2Proof.Machine.execMemDusk c s
  | .wispConfig c => Sys2Proof.Machine.execWispConfig c s
  | .secStatus c => Sys2Proof.Machine.execSecStatus c s
  | .keyRevoke c => Sys2Proof.Machine.execKeyRevoke c s
  | .mgmtKey c => Sys2Proof.Machine.execMgmtKey c s
  | .jtagLock c => Sys2Proof.Machine.execJtagLock c s
  | .wpSet c => Sys2Proof.Machine.execWpSet c s
  | .logRead c => Sys2Proof.Machine.execLogRead c s
  | .logMark c => Sys2Proof.Machine.execLogMark c s
  | .ovrAssert c => Sys2Proof.Machine.execOvrAssert c s
  | .ovrRelease c => Sys2Proof.Machine.execOvrRelease c s
  | .ovrStage c => Sys2Proof.Machine.execOvrStage c s
  | .ovrStageMask c => Sys2Proof.Machine.execOvrStageMask c s
  | .ovrArm c => Sys2Proof.Machine.execOvrArm c s
  | .ovrCommit c => Sys2Proof.Machine.execOvrCommit c s
  | .ovrColclass c => Sys2Proof.Machine.execOvrColclass c s
  | .ovrRead c => Sys2Proof.Machine.execOvrRead c s
  | .aoutZcTimeout n => Sys2Proof.Machine.execAoutZcTimeout n s
  | .streamUnitUnheard k u => Sys2Proof.Machine.execStreamUnitUnheard k u s
  | .arpRequestReceived netb ip => Sys2Proof.Machine.execArpRequestReceived netb ip s
  | .refselChange pins => Sys2Proof.Machine.execRefselChange pins s
  | .afterglowBackInRange khz => Sys2Proof.Machine.execAfterglowBackInRange khz s
  | .vsysSample mv ma p10 => Sys2Proof.Machine.execVsysSample mv ma p10 s
  | .ppsOutPulse elapsed => Sys2Proof.Machine.execPpsOutPulse elapsed s
  | .debugHalt => Sys2Proof.Machine.execDebugHalt s

end Sys2Proof.Machine
end

