-- ==== Sys2Proof/Machine/Packet.lean ====
section
/-! DEFINITION. A command packet as the words of its slots (R390, R391, R397): the sender's side of `Cmd.ofWords`. -/

namespace Sys2Proof.Machine

/-- Word 0: opcode, flags and length (R390). -/
def Cmd.word0 (c : Cmd) : Word := BitVec.ofNat 32 (c.op % 65536 + c.flags.toNat * 2 ^ 16 + c.len.toNat * 2 ^ 24)

/-- Word 1: tag and the reserved field. -/
def Cmd.word1 (c : Cmd) : Word := BitVec.ofNat 32 (c.tag.toNat + c.resv.toNat * 2 ^ 16)

/-- Word 2: scope, class and index (R392). -/
def Cmd.word2 (c : Cmd) : Word := BitVec.ofNat 32 (c.index.toNat + c.cls.toNat * 2 ^ 24 + c.scope.toNat * 2 ^ 30)

/-- The words of a packet in order: header, reply buffer with xreply, parameters. -/
def Cmd.words (c : Cmd) : List Word :=
  [c.word0, c.word1, c.word2, c.apply] ++ (if c.xreply then [c.xaddr, c.xlen] else []) ++ c.params

end Sys2Proof.Machine
end

