-- ==== Sys2Proof/Safety.lean ====
section
/-! DEFINITION. What a good state is, what every step keeps, and the words in which the statements say what a command leaves alone. -/

namespace Sys2Proof.Machine

/-- The canonical form of memory: addresses rise strictly and no listed byte equals what an unlisted address reads as. -/
def Memory.wf (m : SMap Byte) : Bool := SMap.wf memDefault m

/-- Registers, memory and coefficients are each held in canonical form, so that equal contents are equal data. -/
structure State.Stored (s : State) : Prop where
  regs : SMap.wf resetWord s.regs = true
  mem : Memory.wf s.mem = true
  coef : SMap.wf zeroWord s.coef = true

/-- What every command does with its state: the queue stays, and canonical stores stay canonical. -/
structure State.Keeps (s t : State) : Prop where
  pending : t.pending = s.pending
  stored : s.Stored → t.Stored

/-- The same of an outcome: a fault or a refusal gives no state. -/
structure Res.Keeps (s : State) (r : Res) : Prop where
  next : ∀ t, r = .next t → s.Keeps t

/-- The registers that a log entry moves: the sequence number, the staging count, the lost count and its flag. -/
def logRegs : List Nat := [LOG_NEXT, LOG_STAGED, LOG_LOST, LOG_STATUS]

/-- Every register outside the list is as before. -/
def State.RegsBut (s t : State) (l : List Nat) : Prop := ∀ a, a ∉ l → t.reg a = s.reg a

/-- Nothing changes but the registers of the list. -/
def State.OnlyRegs (s t : State) (l : List Nat) : Prop := s.RegsBut t l ∧ t = { s with regs := t.regs }

/-- Nothing changes but the registers of the list and the event log. -/
def State.OnlyLogged (s t : State) (l : List Nat) : Prop :=
  s.RegsBut t (l ++ logRegs) ∧ t = { s with regs := t.regs, log := t.log }

/-- Every byte of memory reads as before. -/
def State.SameBytes (s t : State) : Prop := ∀ a, t.byte a = s.byte a

/-- Every coefficient reads as before. -/
def State.SameCoefs (s t : State) : Prop := t.coef = s.coef

end Sys2Proof.Machine
end

