-- ==== Sys2Proof/WellFormed.lean ====
section
/-! DEFINITION. Which commands are well formed: the operands that the spec gives a command. What it gives no command for is refused
here, and its meaning stops with the fault illFormed. -/

namespace Sys2Proof

open Machine

/-- The opcode and the packet of a command that comes on a ring (R390); none for the other rows. -/
def Instr.packet (i : Instr) : Option (Nat × Cmd) :=
  match i with
  | .nop c => some (0x0000, c)
  | .sysInfo c => some (0x0001, c)
  | .abort c => some (0x0002, c)
  | .sysState c => some (0x0003, c)
  | .sysReset c => some (0x0004, c)
  | .groupDef c => some (0x0005, c)
  | .groupRead c => some (0x0006, c)
  | .regRead c => some (0x0100, c)
  | .regWrite c => some (0x0101, c)
  | .regRmw c => some (0x0102, c)
  | .patchIn c => some (0x0200, c)
  | .sinkSet c => some (0x0201, c)
  | .xptNode c => some (0x0202, c)
  | .xptCol c => some (0x0203, c)
  | .xptSwap c => some (0x0204, c)
  | .xptCopy c => some (0x0205, c)
  | .xptRead c => some (0x0206, c)
  | .meterRead c => some (0x0207, c)
  | .capture c => some (0x0208, c)
  | .paramWrite c => some (0x0300, c)
  | .paramSwap c => some (0x0301, c)
  | .paramRead c => some (0x0302, c)
  | .imgWrite c => some (0x0303, c)
  | .imgActivate c => some (0x0304, c)
  | .imgPin c => some (0x0305, c)
  | .imgStatus c => some (0x0306, c)
  | .fwWrite c => some (0x0307, c)
  | .spConfig c => some (0x0400, c)
  | .spCtrl c => some (0x0401, c)
  | .spMask c => some (0x0402, c)
  | .decConfig c => some (0x0403, c)
  | .decTaps c => some (0x0404, c)
  | .decCtrl c => some (0x0405, c)
  | .decClock c => some (0x0406, c)
  | .anaIn c => some (0x0407, c)
  | .anaOut c => some (0x0408, c)
  | .asrcRead c => some (0x0409, c)
  | .netConfig c => some (0x0500, c)
  | .strmTxSetup c => some (0x0501, c)
  | .strmRxSetup c => some (0x0502, c)
  | .strmCtrl c => some (0x0503, c)
  | .strmTag c => some (0x0504, c)
  | .sapRead c => some (0x0505, c)
  | .ptpConfig c => some (0x0600, c)
  | .ptpRestep c => some (0x0601, c)
  | .refSelect c => some (0x0602, c)
  | .refConfig c => some (0x0603, c)
  | .timeRead c => some (0x0604, c)
  | .msgWrite c => some (0x0700, c)
  | .chainWrite c => some (0x0701, c)
  | .playStart c => some (0x0702, c)
  | .playStop c => some (0x0703, c)
  | .genConfig c => some (0x0704, c)
  | .genCtrl c => some (0x0705, c)
  | .visConfig c => some (0x0706, c)
  | .cinConfig c => some (0x0800, c)
  | .cinThr c => some (0x0801, c)
  | .drvConfig c => some (0x0802, c)
  | .lsConfig c => some (0x0803, c)
  | .lsLearn c => some (0x0804, c)
  | .supRead c => some (0x0805, c)
  | .gpioConfig c => some (0x0806, c)
  | .pairAttach c => some (0x0900, c)
  | .pairDetach c => some (0x0901, c)
  | .pairYield c => some (0x0902, c)
  | .pairReclaim c => some (0x0903, c)
  | .pairConfig c => some (0x0904, c)
  | .twpcPulse c => some (0x0905, c)
  | .pairRead c => some (0x0906, c)
  | .selftest c => some (0x0A00, c)
  | .memRead c => some (0x0A01, c)
  | .memDusk c => some (0x0A02, c)
  | .wispConfig c => some (0x0A03, c)
  | .secStatus c => some (0x0B00, c)
  | .keyRevoke c => some (0x0B01, c)
  | .mgmtKey c => some (0x0B02, c)
  | .jtagLock c => some (0x0B03, c)
  | .wpSet c => some (0x0B04, c)
  | .logRead c => some (0x0C00, c)
  | .logMark c => some (0x0C01, c)
  | .ovrAssert c => some (0x0D00, c)
  | .ovrRelease c => some (0x0D01, c)
  | .ovrStage c => some (0x0D02, c)
  | .ovrStageMask c => some (0x0D03, c)
  | .ovrArm c => some (0x0D04, c)
  | .ovrCommit c => some (0x0D05, c)
  | .ovrColclass c => some (0x0D06, c)
  | .ovrRead c => some (0x0D07, c)
  | _ => none

/-- Words of a packet's header with the xreply flag or without (R390). -/
def Machine.Cmd.headLen (c : Cmd) : Nat := if c.flags.getLsbD 4 then 6 else 4

/-- A packet as it stands on a ring: the length field counts its words, a reply buffer only with xreply (R390, R391). -/
def Machine.Cmd.wf (op : Nat) (c : Cmd) : Bool :=
  c.op == op && c.origin == .ring && c.params.length == c.len.toNat - c.headLen
    && (c.flags.getLsbD 4 || (c.xaddr == 0 && c.xlen == 0))

/-- Whether a command's operands are ones that the spec gives it. -/
def Instr.wf (i : Instr) : Bool :=
  match i with
  | .vhmaxi _ _ a | .vhmini _ _ a => a.val % 2 == 0
  | .vsmax _ d _ | .vsmin _ d _ | .vsmaxa _ d _ => d.val % 2 == 0
  | .loopOp _ _ _ len => len.val != 0
  | .brf _ c off => c.val != 7 && off.val != 0
  | .busBurst b => !b.beats.isEmpty && b.beats.length ≤ 16
  | .busTimeout _ target _ _ beats => 8 ≤ target.val && beats.val != 0
  | .coefShadowWrite _ addr words =>
    (words.length == 1 || words.length == 4) && addr.toNat % (4 * words.length) == 0
      && 0x30000000 ≤ addr.toNat && addr.toNat < 0x30800000
  | .broadcastAliasWrite _ addr _ => addr.toNat % 0x10000 / 0x4000 == 2
  | .groupAliasWrite _ addr _ => addr.toNat % 0x10000 / 0x4000 == 3
  | .clockSupervisorTrip cause => cause.toNat != 0 && cause.toNat ≤ 6
  | .refPresenceChange k _ => k.val != 0
  | .refOutlierClear k => k.val != 0
  | .refMeasurement k _ => k.val != 0
  | .sig sigs => sigs.length == 16
  | .visUpdate _ e => e.mtis.length == 7
  | _ =>
    match i.packet with
    | some (op, c) => Machine.Cmd.wf op c
    | none => true

end Sys2Proof
end

