-- ==== Sys2Proof/Certificates/Slice0/Obligations.lean ====
section
/-! DEFINITION. The statements about the machine: what each command does, what it leaves alone, and what every step keeps. -/

namespace Sys2Proof

open Machine

/-- The command completes in this state: a next state follows, and what is said holds of it. -/
def Machine.Does (i : Instr) (s : State) (p : State → Prop) : Prop := ∃ t, Machine.exec i s = .next t ∧ p t

/-! ### Words for the DSP cores -/

/-- The saturation and flag words of a core. -/
def Machine.coreWords (c : Nat) : List Nat := [(CLU_CORE_SAT.count (c / 8) (c % 8)).addr, (CLU_CORE_FLAG.acc_ovf (c / 8) (c % 8)).addr]

/-- Outside one core and its two words nothing changes. -/
def Machine.CoreOnly (s t : State) (c : Nat) : Prop :=
  (∀ k, k ≠ c → t.core k = s.core k) ∧ s.RegsBut t (coreWords c) ∧
    t = { s with regs := t.regs, dsp := { s.dsp with cores := t.dsp.cores } }

/-- Lane l of Vn as it stands. -/
def Machine.vNow (s : State) (c n l : Nat) : Word := SMap.get zeroWord (s.core c).r.v (4 * n + l)

/-- Lane l of an accumulator as it stands. -/
def Machine.accNow (s : State) (c n l : Nat) : BitVec 72 := SMap.get zero72 (s.core c).r.acc (4 * n + l)

/-- Pn as it stands. -/
def Machine.pNow (s : State) (c n : Nat) : BitVec 24 := SMap.get zero24 (s.core c).r.p n

/-- Mn as it stands. -/
def Machine.mNow (s : State) (c n : Nat) : BitVec 24 := SMap.get zero24 (s.core c).r.m n

/-- Of a core's state after the issue of a slot only the vector registers of the list change, and outside the core nothing but its words. -/
def Machine.VecOnly (s t : State) (sl : Slot) (ds : List Nat) : Prop :=
  let c := sl.core.val
  let u := s.issue sl
  (∀ n l, l < 4 → n ∉ ds → vNow t c n l = vNow u c n l) ∧
    t.core c = { u.core c with r := { (u.core c).r with v := (t.core c).r.v } } ∧ CoreOnly s t c

/-- The four lanes of Vd take the values of f, and nothing else changes but the core's words. -/
def Machine.LanesTake (s t : State) (sl : Slot) (d : Nat) (f : Nat → Word) : Prop :=
  (∀ l, l < 4 → vNow t sl.core.val d l = f l) ∧ VecOnly s t sl [d]

/-- An exact result limited to the range of a signed word. -/
def Machine.clamp (x : Int) : Word := BitVec.ofInt 32 (max (-2147483648) (min 2147483647 x))

/-- How many lanes leave the range of a signed word. -/
def Machine.clampedLanes (f : Nat → Int) : Nat :=
  ((List.range 4).filter (fun l => decide (f l < -2147483648 ∨ 2147483647 < f l))).length

/-- A saturating lane operation: the limited results, and each limited lane counted up to the counter's greatest value. -/
def Machine.SatLanesTake (s t : State) (sl : Slot) (d : Nat) (f : Nat → Int) : Prop :=
  let cnt := CLU_CORE_SAT.count (sl.core.val / 8) (sl.core.val % 8)
  LanesTake s t sl d (fun l => clamp (f l)) ∧ t.rd cnt = min (2 ^ cnt.width - 1) (s.rd cnt + clampedLanes f)

/-- The four lanes of an accumulator take results modulo 2^72, and nothing else changes but the core's words. -/
def Machine.AccTake (s t : State) (sl : Slot) (d : Nat) (f : Nat → Int) : Prop :=
  let c := sl.core.val
  let u := s.issue sl
  (∀ l, l < 4 → accNow t c d l = BitVec.ofInt 72 (f l)) ∧
    (∀ n l, l < 4 → n ≠ d → accNow t c n l = accNow u c n l) ∧
    t.core c = { u.core c with r := { (u.core c).r with acc := (t.core c).r.acc } } ∧ CoreOnly s t c

/-- An accumulating operation: results modulo 2^72, and the sticky flag set where one leaves 72 bits. -/
def Machine.WrapTake (s t : State) (sl : Slot) (d : Nat) (f : Nat → Int) : Prop :=
  let flag := CLU_CORE_FLAG.acc_ovf (sl.core.val / 8) (sl.core.val % 8)
  AccTake s t sl d f ∧
    t.isSet flag = (s.isSet flag || (List.range 4).any (fun l => decide (f l < -2 ^ 71 ∨ 2 ^ 71 ≤ f l)))

/-- Of the core only what is said changes, and outside the core nothing at all. -/
def Machine.CoreBecomes (s t : State) (c : Nat) (x : Core) : Prop :=
  t.core c = x ∧ (∀ k, k ≠ c → t.core k = s.core k) ∧ t = { s with dsp := { s.dsp with cores := t.dsp.cores } }

/-! ### Words for the commands of the rings -/

/-- A command at the head of its own running ring, where it is fetched and decided at once: engine cycles run outside NIGHTFALL, the
completion ring has room, nothing of the ring waits ahead, the command processor runs, and the entry's words are not fenced (R25, R389, R398,
R474). -/
structure Machine.AtHead (s : State) (c : Cmd) : Prop where
  origin : c.origin = .ring
  runs : s.engineRuns = true
  awake : s.op ≠ .nightfall
  ring : s.ringRun c.ring.val = true
  size : s.rd (CMD_RING_CFG.size c.ring.val) ≤ 4
  room : s.hasRoom c.ring.val = true
  fence : c.fence = true → s.outstanding c.ring.val = 0
  up : s.cpDown = false
  ahead : (∀ x ∈ s.q.fetched, x.ring ≠ c.ring) ∧ (c.ring.val = 0 → s.q.ring0q = [])
  sound : ∀ x, s.entryAddr c.ring.val ≤ x → x < s.entryAddr c.ring.val + 32 → deadAt s.flt.dead x = false

/-- The header passes the checks of R540 for the columns of its opcode: length, flags, reserved field, ring, tag, reply buffer. -/
structure Machine.HeadOk (s : State) (c : Cmd) (p : OpSpec) : Prop where
  op : c.op = p.op
  len : p.lo + (if c.xreply then 2 else 0) ≤ c.len.toNat ∧ c.len.toNat ≤ min 64 (p.hi + (if c.xreply then 2 else 0))
  flags : c.flags.toNat < 32
  resv : c.resv = 0
  ring : p.rlo ≤ c.ring.val ∧ c.ring.val ≤ p.rhi
  tag : s.tagTaken c = false
  buf : replyBufOk c = true

/-- The command names one existing object of the opcode's class (R392, R393). -/
def Machine.OneTarget (c : Cmd) (p : OpSpec) : Prop :=
  c.scope = 0 ∧ (c.cls.toNat = p.cls ∨ c.cls.toNat = p.cls2) ∧ classHas c.cls.toNat c.index.toNat = true

/-- The unit serves its own commands and sends none on: it is neither in lockstep nor the lead of a unit that is (R377). -/
def Machine.Alone (s : State) : Prop := s.inLockstep = false ∧ s.forwards = false

/-- A command that may be decided on one object. -/
def Machine.Ready (s : State) (c : Cmd) (p : OpSpec) : Prop := AtHead s c ∧ Alone s ∧ HeadOk s c p ∧ OneTarget c p

/-- One completion entry is written, with its reply, and nothing else changes: status, detail, apply cycle, reply words; the phase bit
of the pass through the ring; the reply in the buffer with xreply (R388, R389, R396, R397). -/
def Machine.Answered (s t : State) (c : Cmd) (status detail : Nat) (apply : Word) (reply : List Byte) : Prop :=
  let n := c.ring.val
  let a := s.entryAddr n
  let cpi := s.rd (CMD_RING_CI.cpi n)
  t.rd (CMD_RING_CI.cpi n) = (cpi + 1) % 65536 ∧ t.outstanding n = s.outstanding n ∧ t.rd (CMD_RING_STAT.cq_stall n) = 0 ∧
    (t.memWord a).toNat = (if cpi / (2 * s.ringSize n) % 2 = 0 then 2 ^ 31 else 0) + n * 2 ^ 24 + status * 2 ^ 16 + c.tag.toNat ∧
    (t.memWord (a + 4)).toNat = c.slot.toNat * 65536 + c.op % 65536 ∧ t.memWord (a + 8) = apply ∧
    (t.memWord (a + 12)).toNat = detail * 65536 + reply.length % 65536 ∧
    (∀ k, k < 4 → t.memWord (a + 16 + 4 * k) = (wordsOfBytes (reply.take 16)).getD k 0) ∧
    (∀ j, c.xreply = true → j < min reply.length c.xlen.toNat → (c.xaddr.toNat + j < a ∨ a + 32 ≤ c.xaddr.toNat + j) →
      deadAt s.flt.dead (c.xaddr.toNat + j) = false → t.byte (c.xaddr.toNat + j) = reply.getD j 0) ∧
    (∀ x, (x < a ∨ a + 32 ≤ x) → (c.xreply = true → x < c.xaddr.toNat ∨ c.xaddr.toNat + c.xlen.toNat ≤ x) → t.byte x = s.byte x) ∧
    s.RegsBut t [CMD_RING_CI n, CMD_RING_STAT n] ∧ t = { s with regs := t.regs, mem := t.mem }

/-- A timed command is accepted: it counts as outstanding, waits for its apply cycle, and holds an entry of the pending table where that
is later than the earliest; nothing else changes (R389, R401, R402). -/
def Machine.Accepted (s t : State) (c : Cmd) (a : Word) (left : Nat) (ts : List Nat) : Prop :=
  t.q = { s.q with outst := s.q.outst ++ [⟨c, a, .waiting, a != s.earliest, left, none, ts, []⟩] } ∧
    t.outstanding c.ring.val = s.outstanding c.ring.val + 1 ∧ t.rd (CMD_RING_STAT.cq_stall c.ring.val) = 0 ∧
    t.rd CMD_PEND.free = 1024 - t.pendUsed ∧ s.RegsBut t [CMD_RING_STAT c.ring.val, CMD_PEND]

/-- The parameters hold no bit outside their masks (R412). -/
def Machine.InMasks (c : Cmd) (k : Nat) (ms : List Nat) : Prop := ∀ j, j < ms.length → within (c.p (k + j)) (ms.getD j 0) = true


end Sys2Proof

open Sys2Proof Sys2Proof.Machine

/-- With a command at the front of the queue, a step is that command's effect on the state with the queue's rest, whatever the outcome; the queue is first in, first out. With no command waiting a step changes nothing. The queue and the idle step are the model's own (notes/assumptions/1.md). -/
def Obligations.StepRunsFront : Prop :=
  (∀ (c : Instr) (rest : List Instr) (s : State), s.pending = c :: rest → step s = exec c { s with pending := rest }) ∧
    (∀ s : State, s.pending = [] → step s = .next s)

/-- Every command whose operands the spec gives it answers a next state from every state, and no command changes the queue of waiting commands: none refuses and none stops on ordinary data. An operand that the spec gives no command (an odd index register of a search, a loop of no bundle, a branch by offset 0, a burst of no beat or more than sixteen, a reference 0 of a monitor, an address outside an alias) stops with the fault illFormed and changes nothing; packets of the rings never stop, their checks answer in a completion entry. -/
def Obligations.WellFormedCompletes : Prop :=
  (∀ (i : Instr) (s : State), i.wf = true → ∃ t, exec i s = .next t ∧ t.pending = s.pending) ∧
    (∀ (i : Instr) (s : State), i.wf = false → i.packet = none → (∀ z e, i ≠ .visUpdate z e) → exec i s = .fault .illFormed)

/-- From every state whose registers, memory and coefficients are held in canonical form, a step that answers a next state gives a state of the same kind, and the queue has lost its front and gained nothing. -/
def Obligations.StepKeepsStored : Prop :=
  ∀ s t : State, s.Stored → step s = .next t → t.Stored ∧ t.pending = s.pending.tail

/-- Right after reset the stores are canonical, no command waits, no register is listed, and memory lists nothing. That unlisted memory reads 0 is the model's choice (notes/assumptions/3.md). -/
def Obligations.ResetStored : Prop :=
  State.reset.Stored ∧ State.reset.pending = [] ∧ (∀ a, State.reset.reg a = resetWord a) ∧ State.reset.mem = [] ∧ State.reset.op = .boot

/-- For every command of the opcode table, with every operand at every value its packet admits, the words of the packet (opcode, length, flags, tag, scope, class, index, apply cycle, reply buffer with xreply, parameters) read back as the same command. -/
def Obligations.PacketRoundTrip : Prop :=
  ∀ (i : Instr) (op : Nat) (c : Cmd), i.packet = some (op, c) → i.wf = true →
    Cmd.ofWords c.ring c.slot c.words = c ∧ c.op = op ∧ op < 65536

/-- A store of bytes changes exactly the bytes it stores to, in their order, but for those of a fenced word without a spare, which keep reading as before; words are little-endian; two canonical memories that read alike everywhere are the same data. -/
def Obligations.MemoryStores : Prop :=
  (∀ (s : State) (a x : Nat) (bs : List Byte),
    (s.setBytes a bs).byte x
      = if a ≤ x ∧ x < a + bs.length ∧ deadAt s.flt.dead x = false then bs.getD (x - a) 0 else s.byte x) ∧
  (∀ (s : State) (a : Nat) (w : Word), s.flt.dead = [] → (s.setMemWord a w).memWord a = w) ∧
  (∀ m n : SMap Byte, Memory.wf m = true → Memory.wf n = true →
    (∀ a, SMap.get memDefault m a = SMap.get memDefault n a) → m = n)

/-- The supply rising, PORST_N released and a regulator restart each begin a boot at the right step with the right reset cause and the pins as they stand; the supply falling, PORST_N low and a cutoff take the device to OFF. A power-on starts the ring epoch again; write protection is on after each. -/
def Obligations.SupplyRows : Prop :=
  ∀ (s : State) (p : Straps),
    (s.boot.vsysOk = false → Does (.powerOn p) s fun t =>
      t.op = .boot ∧ t.boot.step = 1 ∧ t.boot.vsysOk = true ∧ t.boot.porstHigh = true ∧ t.boot.pins = p
        ∧ t.rd SYS_RST_CAUSE.cause = 0 ∧ t.rd CMD_EPOCH.resets = 0 ∧ t.rd SEC_STATUS.wp_on = 1 ∧ t.q = State.reset.q) ∧
    (s.boot.vsysOk = true → exec (.powerOn p) s = .next s) ∧
    (Does .vsysFall s fun t => t.op = .off ∧ t.boot.vsysOk = false ∧ t.boot.porstHigh = s.boot.porstHigh ∧ t.q = State.reset.q
        ∧ t.sec.otp = s.sec.otp) ∧
    (Does .porstNLow s fun t => t.op = .off ∧ t.boot.porstHigh = false ∧ t.boot.vsysOk = s.boot.vsysOk ∧ t.q = State.reset.q
        ∧ t.sec.otp = s.sec.otp) ∧
    (s.boot.porstHigh = false → s.boot.vsysOk = true → s.boot.cutoff = false → s.op = .off → Does (.porstNRelease p) s fun t =>
      t.op = .boot ∧ t.boot.step = 2 ∧ t.boot.porstHigh = true ∧ t.rd SYS_RST_CAUSE.cause = 1 ∧ t.rd PWR_VAUX.on = 1
        ∧ t.rd REF_STATUS.pins = p.refsel.val ∧ t.rd SYS_STATE.bootsel = p.bootsel.val ∧ t.rd SEC_STATUS.wp_on = 1) ∧
    (s.op ≠ .off → Does .regulatorCutoff s fun t => t.op = .off ∧ t.boot.cutoff = true ∧ t.q = State.reset.q) ∧
    (s.boot.cutoff = true → Does (.regulatorRestart p) s fun t =>
      t.op = .boot ∧ t.boot.step = 1 ∧ t.boot.cutoff = false ∧ t.boot.pins = p ∧ t.rd SYS_RST_CAUSE.cause = 7
        ∧ t.rd SEC_STATUS.wp_on = 1)

/-- In the step of the boot timeline that it belongs to, each clock event moves the boot to its next step, sets its own status field and changes no register but the named ones; the straps are sampled when the internal oscillator qualifies. -/
def Obligations.ClockStartUp : Prop :=
  ∀ s : State,
    (s.op = .boot → s.boot.step = 1 → s.pair.railOff = false → Does .railsInRegulation s fun t =>
      t.boot = { s.boot with step := 2 } ∧ t.rd PWR_VAUX.on = b2n (!s.pwr.auxOff) ∧ s.OnlyRegs { t with boot := s.boot } [PWR_VAUX]) ∧
    (s.op = .boot → s.boot.step = 2 → Does .ircQualified s fun t =>
      t.boot = { s.boot with step := 3, sampled := true } ∧ t.rd CLK_QUAL.irc = 64 ∧ t.rd REF_STATUS.pins = s.boot.pins.refsel.val
        ∧ t.rd SYS_STATE.bootsel = s.boot.pins.bootsel.val ∧ s.OnlyRegs { t with boot := s.boot } [CLK_QUAL, SYS_STATE, REF_STATUS]
        ∧ (s.boot.sampled = true → t.rd SYS_STATE.twin = s.rd SYS_STATE.twin ∧ t.rd SYS_STATE.unit = s.rd SYS_STATE.unit)
        ∧ (s.boot.sampled = false → t.rd SYS_STATE.twin = b2n s.boot.pins.twinen ∧ t.rd SYS_STATE.unit = b2n s.boot.pins.unitsel)) ∧
    (s.op = .boot → s.boot.step = 3 → Does .crystalQualified s fun t =>
      t.boot = { s.boot with step := 4 } ∧ t.rd CLK_QUAL.xtal = 64 ∧ t.rd CLK_STATUS.xtal_ok = 1
        ∧ s.OnlyRegs { t with boot := s.boot } [CLK_QUAL, CLK_STATUS]) ∧
    (s.op = .boot → s.boot.step = 4 → Does .rootPllLock s fun t =>
      t.boot = { s.boot with step := 5 } ∧ t.rd CLK_STATUS.pll_lock = 1 ∧ t.rd CLK_STATUS.xtal_ok = s.rd CLK_STATUS.xtal_ok
        ∧ s.OnlyRegs { t with boot := s.boot } [CLK_STATUS]) ∧
    (s.pllRuns = true → Does .ircStop s fun t =>
      t.rd CLK_STATUS.irc_run = 0 ∧ t.rd CLK_STATUS.pll_lock = s.rd CLK_STATUS.pll_lock ∧ s.OnlyRegs t [CLK_STATUS]) ∧
    (s.op = .boot → s.boot.step = 5 → exec (.dramTrained true) s = .next { s with boot := { s.boot with step := 6 } }) ∧
    (s.op = .boot → s.boot.step = 5 → Does (.dramTrained false) s fun t => t.op = .faultHold ∧ s.OnlyLogged t [SYS_STATE])

/-- The supervisor's failures go to CLOCK-WAIT with the cause, sup_trip set and the trip counted; in CLOCK-WAIT a failure counts as a failed retry, and a good retry resumes boot at crystal qualification with the reset cause unchanged. A check that passes changes nothing. -/
def Obligations.ClockFailures : Prop :=
  ∀ s : State,
    (s.op = .boot → s.boot.step = 2 ∨ s.boot.step = 3 → Does .crystalQualTimeout s fun t =>
      t.op = .clockWait ∧ t.rd CLK_STATUS.cause = 2 ∧ t.isSet CLK_STATUS.sup_trip = true ∧ t.rd CLK_STATUS.irc_run = 1
        ∧ t.rd CLK_STATUS.xtal_ok = 0 ∧ t.rd CLK_STATUS.pll_lock = 0 ∧ s.SameBytes t) ∧
    (s.op = .boot → s.boot.step = 4 → Does .pllLockTimeout s fun t =>
      t.op = .clockWait ∧ t.rd CLK_STATUS.cause = 4 ∧ t.isSet CLK_STATUS.sup_trip = true ∧ t.rd CLK_STATUS.pll_lock = 0
        ∧ t.rd CLK_STATUS.xtal_ok = s.rd CLK_STATUS.xtal_ok ∧ s.SameBytes t) ∧
    (s.pllRuns = true → s.isSet CLK_STATUS.irc_run = false → s.op ≠ .faultHold → Does (.ircPeriodicCheck false) s fun t =>
      t.op = .clockWait ∧ t.rd CLK_STATUS.cause = 2 ∧ t.isSet CLK_STATUS.sup_trip = true ∧ s.SameBytes t) ∧
    (exec (.ircPeriodicCheck true) s = .next s) ∧
    (∀ cause : BitVec 4, 1 ≤ cause.toNat → cause.toNat ≤ 6 → s.op ≠ .off → s.op ≠ .clockWait → s.op ≠ .faultHold →
      Does (.clockSupervisorTrip cause) s fun t =>
        t.op = .clockWait ∧ t.rd CLK_STATUS.cause = cause.toNat ∧ t.isSet CLK_STATUS.sup_trip = true
          ∧ t.rd CLK_FAILCNT.trips = bumpTo (2 ^ CLK_FAILCNT.trips.width - 1) (s.rd CLK_FAILCNT.trips) 1) ∧
    (∀ cause : BitVec 4, 1 ≤ cause.toNat → cause.toNat ≤ 6 → s.op = .clockWait → Does (.clockSupervisorTrip cause) s fun t =>
      t.op = .clockWait ∧ t.rd CLK_STATUS.cause = cause.toNat ∧ t.boot = { s.boot with retries := s.boot.retries + 1 }
        ∧ s.OnlyRegs { t with boot := s.boot } [CLK_STATUS, CLK_FAILCNT]) ∧
    (s.op = .clockWait → Does (.clockWaitRetry true) s fun t =>
      t.op = .boot ∧ t.boot.step = 3 ∧ t.boot.retries = 0 ∧ t.rd SYS_RST_CAUSE.cause = s.rd SYS_RST_CAUSE.cause
        ∧ t.rd CMD_EPOCH.resets = s.rd CMD_EPOCH.resets ∧ t.rd CLK_QUAL.irc = 64) ∧
    (s.op = .clockWait → Does (.clockWaitRetry false) s fun t =>
      t.isSet CLK_STATUS.retry_fail = true ∧ t.boot = { s.boot with retries := s.boot.retries + 1 }
        ∧ s.OnlyLogged { t with boot := s.boot } [CLK_STATUS, CLK_FAILCNT])

/-- The ROM starts the first firmware slot that verifies, with remap, its slot number and the code in system SRAM; BOOTSEL 1 or a failure of both slots goes to recovery. A verified image of the pinned slot, or else of the other slot where that is VALID, brings READY at the next cycle 0, and without one the device goes to FAULT-HOLD. Recovery takes a container only when listening and within its window. The rail-off of TWPC ends in a boot with cause 6. -/
def Obligations.BootRows : Prop :=
  ∀ s : State,
    (s.op = .boot → s.boot.step = 6 → s.rd SEC_RECOV.state = 0 → s.rd SYS_STATE.bootsel = 1 → Does .firmwareLoad s fun t =>
      t.rd SEC_RECOV.state = 1 ∧ s.OnlyRegs t [SEC_RECOV]) ∧
    (s.op = .boot → s.boot.step = 6 → s.rd SEC_RECOV.state = 0 → s.rd SYS_STATE.bootsel = 0 → s.flt.dead = [] →
      ∀ k : Nat, s.fwOrder.find? (fun k => s.fwFail (s.fwAt k) = none) = some k → Does .firmwareLoad s fun t =>
        t.boot.step = 7 ∧ t.rd SYS_REMAP.remap = 1 ∧ t.rd SEC_STATUS.fw_slot = k ∧ t.img.fwRun = k
          ∧ (∀ a, a < 0x10000000 → t.byte a = s.byte a)
          ∧ (∀ j, j < u32 (s.fwAt k) 0xE0 → t.byte (0x10000000 + j) = (s.fwAt k) (0xF0 + j))) ∧
    (s.op = .boot → s.boot.step = 6 → s.rd SEC_RECOV.state = 0 → s.fwOrder.all (fun k => s.fwFail (s.fwAt k) ≠ none) = true →
      s.rd SYS_STATE.bootsel ≠ 1 → Does .firmwareLoad s fun t =>
        t.rd SEC_RECOV.state = 1 ∧ t.isSet SEC_STATUS.fw_fallback = true ∧ t.boot.step = 6 ∧ s.SameBytes t) ∧
    (s.op = .boot → s.boot.step = 7 → Does .bootImageLoad s fun t =>
      let u := s.loadTable
      let k := u.img.pinned
      let v := (u.bootSlot k).1.event 0x3103 ((u.bootSlot k).1.rd SYS_STATE.unit) (BitVec.ofNat 32 k)
      if (u.bootSlot k).2 = true then t.op = .ready ∧ t.cycle = 0xFFFFFFFF
      else if (v.imgSlot (1 - k)).state = .valid ∧ (v.bootSlot (1 - k)).2 = true then t.op = .ready ∧ t.cycle = 0xFFFFFFFF
      else t.op = .faultHold) ∧
    (∀ m : Fin 8192, s.engineRuns = true → (s.msgEntry m.val).valid = true → (s.msgEntry m.val).alarm = true → m.val ∉ s.boot.heads →
      exec (.headLoadDone m) s = .next { s with boot := { s.boot with heads := s.boot.heads ++ [m.val] } }) ∧
    (∀ v : Word, v.getLsbD 2 = true → s.rd SEC_RECOV.state = 1 → (s.reg SEC_RECOV_LEN).toNat ≤ 0x2000000 → Does (.secRecovGo v) s fun t =>
      t.rd SEC_RECOV.state = 2 ∧ t.rd SEC_RECOV.kind = b2n (v.getLsbD 1) ∧ t.rd SEC_RECOV.slot = b2n (v.getLsbD 0)
        ∧ s.OnlyRegs t [SEC_RECOV]) ∧
    (∀ v : Word, v.getLsbD 2 = true → s.rd SEC_RECOV.state = 1 → 0x2000000 < (s.reg SEC_RECOV_LEN).toNat → Does (.secRecovGo v) s fun t =>
      t.rd SEC_RECOV.state = 1 ∧ t.rd SEC_RECOV.result = stBadParam ∧ s.OnlyRegs t [SEC_RECOV]) ∧
    (s.rd SEC_RECOV.state = 2 → s.recovResult ≠ stDone → Does .recoveryCheckDone s fun t =>
      t.rd SEC_RECOV.state = 1 ∧ t.rd SEC_RECOV.result = s.recovResult % 2 ^ SEC_RECOV.result.width ∧ s.OnlyRegs t [SEC_RECOV]) ∧
    (∀ ms : BitVec 16, s.twin = true → s.op ≠ .off → 1 ≤ ms.toNat → ms.toNat < 20 →
      exec (.twpcInPulse ms) s = .next (s.event 0x070C 0 (ms.setWidth 32))) ∧
    (∀ ms : BitVec 16, s.twin = true → s.op ≠ .off → 20 ≤ ms.toNat → s.pair.hold = false → Does (.twpcInPulse ms) s fun t =>
      t.op = .boot ∧ t.boot.step = 1 ∧ t.pair.railOff = true ∧ t.boot.twpc = true ∧ t.rd PWR_VAUX.on = s.rd PWR_VAUX.on) ∧
    (s.pair.railOff = true → Does .twpcRailOffEnd s fun t =>
      t.op = .boot ∧ t.boot.step = 1 ∧ t.pair.railOff = false ∧ t.rd SYS_RST_CAUSE.cause = 6
        ∧ t.rd PWR_VAUX.on = s.rd PWR_VAUX.on)

/-- Scale forms the exact product, shifts it right by 28 bits with convergent rounding and saturates to a signed word; by unity it returns the sample. A ramp of N samples steps by ((g_new - g_old) x 2^12) / N truncated toward zero, its internal gain for sample i is g_old x 2^12 + i x s, at the last sample g_new x 2^12; the gain applied is that shifted right by 12 bits toward minus infinity. The internal gain fits in 44 signed bits, the step of a ramp of a block or more in 42. Every gain applied lies between the two ends. -/
def Obligations.ScaleAndRamp : Prop :=
  (∀ x g : Word,
    let v := x.toInt * g.toInt
    let q := v / 2 ^ 28
    let r := v - q * 2 ^ 28
    let q' := if 2 ^ 27 < r ∨ (r = 2 ^ 27 ∧ q % 2 = 1) then q + 1 else q
    v < 2 ^ 63 ∧ -2 ^ 63 ≤ v ∧ (scale x g).toInt = max (-2147483648) (min 2147483647 q') ∧ scale x 0x10000000 = x) ∧
    (∀ (a b : Word) (n i : Nat), 1 ≤ i → i ≤ n →
      let s := ((b.toInt - a.toInt) * 2 ^ 12).tdiv n
      let G : Int := if i = n then b.toInt * 2 ^ 12 else a.toInt * 2 ^ 12 + i * s
      (rampGain a b n i).toInt = G / 2 ^ 12 ∧ -2 ^ 43 ≤ G ∧ G < 2 ^ 43 ∧ (8 ≤ n → -2 ^ 41 ≤ s ∧ s < 2 ^ 41) ∧
        (i < n → a.toInt * 2 ^ 12 + (i + 1 : Nat) * s = (a.toInt * 2 ^ 12 + i * s) + s) ∧
        min a.toInt b.toInt ≤ (rampGain a b n i).toInt ∧ (rampGain a b n i).toInt ≤ max a.toInt b.toInt ∧
        (a = b → rampGain a b n i = a))

/-- A write of 0x6B1C to SYS_WDOG by the command processor restarts the watchdog's interval in this cycle and changes nothing else. Any other write leaves the watchdog as it is, sets kick_bad and logs an event; nothing else changes. A log entry joins the staged ones where staging has room and no entry was lost, in full staging it is counted as lost. -/
def Obligations.WatchdogKick : Prop :=
  ∀ s : State,
    exec (.sysWdogKick .cp 0x6B1C) s = .next { s with flt := { s.flt with kick := s.cycle } } ∧
      ∀ (m : Master) (v : BitVec 16), (m ≠ .cp ∨ v ≠ 0x6B1C) → Does (.sysWdogKick m v) s fun t =>
        t.flt.kick = s.flt.kick ∧ t.isSet SYS_STATUS.kick_bad = true ∧ s.OnlyLogged t [SYS_STATUS] ∧
          (∀ k, k ≠ SYS_STATUS.kick_bad.lo → (t.reg SYS_STATUS).getLsbD k = (s.reg SYS_STATUS).getLsbD k) ∧
          (s.rd LOG_STAGED.count < stagingSize → s.log.lostNew = 0 → ∃ e, t.log = { s.log with staged := s.log.staged ++ [e] } ∧
            t.reg LOG_NEXT = s.reg LOG_NEXT + 1 ∧ t.rd LOG_STAGED.count = (s.rd LOG_STAGED.count + 1) % 2 ^ LOG_STAGED.count.width) ∧
          (stagingSize ≤ s.rd LOG_STAGED.count → t.log = { s.log with lostNew := s.log.lostNew + 1 } ∧ t.isSet LOG_STATUS.lost = true)

/-- VADD, VSUB, VNEG, VABS, VSHL, VMUL, VHSUM and EXT on a core that runs a record write every lane of Vd with the exact result limited to a signed word, count the limited lanes in the core's saturation counter, and change nothing else. -/
def Obligations.SaturatingLaneOps : Prop :=
  ∀ (s : State) (sl : Slot), (s.core sl.core.val).run.isSome = true →
    let u := s.issue sl
    let x (n : Fin 32) (l : Nat) : Int := (u.v sl n.val l).toInt
    (∀ d a b, Does (.vadd sl d a b) s fun t => SatLanesTake s t sl d.val (fun l => x a l + x b l)) ∧
    (∀ d a b, Does (.vsub sl d a b) s fun t => SatLanesTake s t sl d.val (fun l => x a l - x b l)) ∧
    (∀ d a, Does (.vneg sl d a) s fun t => SatLanesTake s t sl d.val (fun l => -x a l)) ∧
    (∀ d a, Does (.vabs sl d a) s fun t => SatLanesTake s t sl d.val (fun l => if x a l < 0 then -x a l else x a l)) ∧
    (∀ d a n, Does (.vshl sl d a n) s fun t => SatLanesTake s t sl d.val (fun l => x a l * 2 ^ n.val)) ∧
    (∀ d a, Does (.vhsum sl d a) s fun t => SatLanesTake s t sl d.val (fun l => if l = 0 then x a 0 + x a 1 + x a 2 + x a 3 else 0)) ∧
    (∀ d a b (k : Fin 4), Does (.vmul sl d a b k) s fun t =>
      SatLanesTake s t sl d.val (fun l => roundConv (x a l * x b l) ([27, 28, 31, 32].getD k.val 0))) ∧
    (∀ d a sh, Does (.ext sl d a sh false) s fun t => SatLanesTake s t sl d.val (fun l => roundConv (u.acc sl a.val l) sh.val)) ∧
    (∀ d a sh, Does (.ext sl d a sh true) s fun t => SatLanesTake s t sl d.val (fun l => u.acc sl a.val l / 2 ^ sh.val))

/-- VADDM, VSUBM, VMIN, VMAX, the bitwise operations, VPICK, the compares, the shifts, VSPL, VIDX and EXTL on a core that runs a record write every lane of Vd with the result the rules give and change nothing else. -/
def Obligations.PlainLaneOps : Prop :=
  ∀ (s : State) (sl : Slot), (s.core sl.core.val).run.isSome = true →
    let u := s.issue sl
    let v (n : Fin 32) (l : Nat) : Word := u.v sl n.val l
    (∀ d a b, Does (.vaddm sl d a b) s fun t => LanesTake s t sl d.val (fun l => v a l + v b l)) ∧
    (∀ d a b, Does (.vsubm sl d a b) s fun t => LanesTake s t sl d.val (fun l => v a l - v b l)) ∧
    (∀ d a b, Does (.vmin sl d a b) s fun t => LanesTake s t sl d.val (fun l => if (v b l).slt (v a l) then v b l else v a l)) ∧
    (∀ d a b, Does (.vmax sl d a b) s fun t => LanesTake s t sl d.val (fun l => if (v a l).slt (v b l) then v b l else v a l)) ∧
    (∀ d a b, Does (.vand sl d a b) s fun t => LanesTake s t sl d.val (fun l => v a l &&& v b l)) ∧
    (∀ d a b, Does (.vor sl d a b) s fun t => LanesTake s t sl d.val (fun l => v a l ||| v b l)) ∧
    (∀ d a b, Does (.vxor sl d a b) s fun t => LanesTake s t sl d.val (fun l => v a l ^^^ v b l)) ∧
    (∀ d a b, Does (.vpick sl d a b) s fun t => LanesTake s t sl d.val (fun l => if (v d l).msb then v a l else v b l)) ∧
    (∀ d a b, Does (.vcgt sl d a b) s fun t => LanesTake s t sl d.val (fun l => if (v b l).slt (v a l) then BitVec.allOnes 32 else 0)) ∧
    (∀ d a b, Does (.vceq sl d a b) s fun t => LanesTake s t sl d.val (fun l => if v a l = v b l then BitVec.allOnes 32 else 0)) ∧
    (∀ d a n, Does (.vsra sl d a n) s fun t => LanesTake s t sl d.val (fun l => (v a l).sshiftRight n.val)) ∧
    (∀ d a n, Does (.vsrar sl d a n) s fun t => LanesTake s t sl d.val (fun l => BitVec.ofInt 32 (roundConv (v a l).toInt n.val))) ∧
    (∀ d a n, Does (.vsrl sl d a n) s fun t => LanesTake s t sl d.val (fun l => v a l >>> n.val)) ∧
    (∀ d a k, Does (.vspl sl d a k) s fun t => LanesTake s t sl d.val (fun _ => v a k.val)) ∧
    (∀ d, Does (.vidx sl d) s fun t => LanesTake s t sl d.val (fun _ => (u.core sl.core.val).snap.idx.setWidth 32)) ∧
    (∀ d a sh, Does (.extl sl d a sh) s fun t => LanesTake s t sl d.val (fun l => BitVec.ofInt 32 (u.acc sl a.val l / 2 ^ sh.val)))

/-- The rounding that VMUL, VSRAR and EXT use gives the integer nearest to the quotient by a power of two, and on a tie the even one. -/
def Obligations.RoundConvergent : Prop :=
  ∀ (x : Int) (n : Nat),
    2 * (roundConv x n * 2 ^ n - x) ≤ 2 ^ n ∧ -(2 ^ n) ≤ 2 * (roundConv x n * 2 ^ n - x) ∧
      (0 < n → 2 * (roundConv x n * 2 ^ n - x) = 2 ^ n ∨ 2 * (roundConv x n * 2 ^ n - x) = -(2 ^ n) → roundConv x n % 2 = 0)

/-- The horizontal searches give the best value and the lowest lane that holds it, with the paired register's lane in the indexed forms; the running searches replace a lane and its index where the candidate is better, and leave it otherwise. Nothing but Vd, or the pair Vd and V(d+1), changes. -/
def Obligations.SearchOps : Prop :=
  ∀ (s : State) (sl : Slot), (s.core sl.core.val).run.isSome = true →
    let c := sl.core.val
    let u := s.issue sl
    let v (n l : Nat) : Word := u.v sl n l
    let top (a b : Nat) : Prop := b < 4 ∧ (∀ l, l < 4 → (v a l).toInt ≤ (v a b).toInt) ∧ (∀ l, l < b → (v a l).toInt < (v a b).toInt)
    let low (a b : Nat) : Prop := b < 4 ∧ (∀ l, l < 4 → (v a b).toInt ≤ (v a l).toInt) ∧ (∀ l, l < b → (v a b).toInt < (v a l).toInt)
    let idx : Word := (u.core c).snap.idx.setWidth 32
    let mag (l a : Nat) : Word := clamp (if (v a l).toInt < 0 then -(v a l).toInt else (v a l).toInt)
    let runs (t : State) (d : Nat) (cand : Nat → Word) (better : Nat → Prop) : Prop :=
      (∀ l, l < 4 → (better l → vNow t c d l = cand l ∧ vNow t c (d + 1) l = idx) ∧
        (¬ better l → vNow t c d l = vNow u c d l ∧ vNow t c (d + 1) l = vNow u c (d + 1) l)) ∧ VecOnly s t sl [d, d + 1]
    (∀ (d a : Fin 32) b, top a.val b → Does (.vhmax sl d a) s fun t =>
      LanesTake s t sl d.val (fun l => if l = 0 then v a.val b else if l = 1 then BitVec.ofNat 32 b else 0)) ∧
    (∀ (d a : Fin 32) b, low a.val b → Does (.vhmin sl d a) s fun t =>
      LanesTake s t sl d.val (fun l => if l = 0 then v a.val b else if l = 1 then BitVec.ofNat 32 b else 0)) ∧
    (∀ (d a : Fin 32) b, a.val % 2 = 0 → top a.val b → Does (.vhmaxi sl d a) s fun t =>
      LanesTake s t sl d.val (fun l => if l = 0 then v a.val b else if l = 1 then v (a.val + 1) b else if l = 2 then BitVec.ofNat 32 b else 0)) ∧
    (∀ (d a : Fin 32) b, a.val % 2 = 0 → low a.val b → Does (.vhmini sl d a) s fun t =>
      LanesTake s t sl d.val (fun l => if l = 0 then v a.val b else if l = 1 then v (a.val + 1) b else if l = 2 then BitVec.ofNat 32 b else 0)) ∧
    (∀ d a : Fin 32, d.val % 2 = 0 → Does (.vsmax sl d a) s fun t =>
      runs t d.val (fun l => v a.val l) (fun l => (v d.val l).toInt < (v a.val l).toInt)) ∧
    (∀ d a : Fin 32, d.val % 2 = 0 → Does (.vsmin sl d a) s fun t =>
      runs t d.val (fun l => v a.val l) (fun l => (v a.val l).toInt < (v d.val l).toInt)) ∧
    (∀ d a : Fin 32, d.val % 2 = 0 → Does (.vsmaxa sl d a) s fun t =>
      runs t d.val (fun l => mag l a.val) (fun l => (v d.val l).toInt < (mag l a.val).toInt))

/-- MAC, MSU, ASET and AADD write each 72-bit lane modulo 2^72 and set the sticky overflow flag where the exact result leaves 72 bits; MUL, ALO, AMOV and ACLR write each lane and set no flag. Nothing else changes. -/
def Obligations.AccumulatorOps : Prop :=
  ∀ (s : State) (sl : Slot), (s.core sl.core.val).run.isSome = true →
    let u := s.issue sl
    let x (n : Fin 32) (l : Nat) : Int := (u.v sl n.val l).toInt
    let flag := CLU_CORE_FLAG.acc_ovf (sl.core.val / 8) (sl.core.val % 8)
    (∀ d a b, Does (.mac sl d a b) s fun t => WrapTake s t sl d.val (fun l => u.acc sl d.val l + x a l * x b l)) ∧
    (∀ d a b, Does (.msu sl d a b) s fun t => WrapTake s t sl d.val (fun l => u.acc sl d.val l - x a l * x b l)) ∧
    (∀ d a n, Does (.aset sl d a n) s fun t => WrapTake s t sl d.val (fun l => x a l * 2 ^ n.val)) ∧
    (∀ d a, Does (.aadd sl d a) s fun t => WrapTake s t sl d.val (fun l => u.acc sl d.val l + u.acc sl a.val l)) ∧
    (∀ d a b, Does (.mul sl d a b) s fun t => AccTake s t sl d.val (fun l => x a l * x b l) ∧ t.isSet flag = s.isSet flag) ∧
    (∀ d a, Does (.alo sl d a) s fun t =>
      AccTake s t sl d.val (fun l => u.acc sl d.val l - u.acc sl d.val l % 2 ^ 32 + (u.v sl a.val l).toNat) ∧ t.isSet flag = s.isSet flag) ∧
    (∀ d a, Does (.amov sl d a) s fun t => AccTake s t sl d.val (fun l => u.acc sl a.val l) ∧ t.isSet flag = s.isSet flag) ∧
    (∀ d, Does (.aclr sl d) s fun t => AccTake s t sl d.val (fun _ => 0) ∧ t.isSet flag = s.isSet flag)

/-- VLD, VLDB, PLD and MLD read the scratchpad at the aligned address of the operand, as it stood before the bundle's own store, post-modify the pointer and store nothing; in the reserved range they read zeros and set PROG_FAULT. A lane that VLD finds uncorrectable reads 0. -/
def Obligations.LoadOps : Prop :=
  ∀ (s : State) (sl : Slot) (acc : MemAcc), (s.core sl.core.val).run.isSome = true →
    let c := sl.core.val
    let u := s.issue sl
    let a16 := u.opAddr sl acc / 16 * 16
    let a4 := u.opAddr sl acc / 4 * 4
    let fault := CLU_CORE_FLAG.prog_fault (c / 8) (c % 8)
    (∀ (v : Fin 32) (ue ce : BitVec 4), a16 < 0x1FC000 → Does (.vld sl v acc ue ce) s fun t =>
      (∀ l, l < 4 → vNow t c v.val l = if ue.getLsbD l then 0 else u.spWord c (a16 + 4 * l)) ∧
        (∀ n l, l < 4 → n ≠ v.val → vNow t c n l = vNow u c n l) ∧
        (t.core c).r.p = ((u.postMod sl acc).core c).r.p ∧ s.SameBytes t ∧ s.SameCoefs t) ∧
    (∀ (v : Fin 32) (ue ce : BitVec 4), 0x1FC000 ≤ a16 → Does (.vld sl v acc ue ce) s fun t =>
      (∀ l, l < 4 → vNow t c v.val l = 0) ∧ t.isSet fault = true ∧ (t.core c).r.p = ((u.postMod sl acc).core c).r.p ∧ s.SameBytes t) ∧
    (∀ v : Fin 32, a4 < 0x1FC000 → Does (.vldb sl v acc) s fun t =>
      (∀ l, l < 4 → vNow t c v.val l = u.spWord c a4) ∧ (∀ n l, l < 4 → n ≠ v.val → vNow t c n l = vNow u c n l) ∧
        (t.core c).r.p = ((u.postMod sl acc).core c).r.p ∧ s.SameBytes t ∧ s.SameCoefs t) ∧
    (∀ v : Fin 32, 0x1FC000 ≤ a4 → Does (.vldb sl v acc) s fun t =>
      (∀ l, l < 4 → vNow t c v.val l = 0) ∧ t.isSet fault = true ∧ s.SameBytes t) ∧
    (∀ n : Fin 16, a4 < 0x1FC000 → Does (.pld sl n acc) s fun t =>
      (∀ k, pNow t c k = if (acc.mode = 1 ∨ acc.mode = 2) ∧ k = acc.p.val then pNow (u.postMod sl acc) c k
        else if k = n.val then (u.spWord c a4).setWidth 24 else pNow u c k) ∧ s.SameBytes t ∧ s.SameCoefs t) ∧
    (∀ n : Fin 16, 0x1FC000 ≤ a4 → Does (.pld sl n acc) s fun t =>
      (∀ k, pNow t c k = if (acc.mode = 1 ∨ acc.mode = 2) ∧ k = acc.p.val then pNow (u.postMod sl acc) c k
        else if k = n.val then 0 else pNow u c k) ∧ t.isSet fault = true ∧ s.SameBytes t) ∧
    (∀ n : Fin 16, a4 < 0x1FC000 → Does (.mld sl n acc) s fun t =>
      mNow t c n.val = (u.spWord c a4).setWidth 24 ∧ (∀ k, k ≠ n.val → mNow t c k = mNow u c k) ∧
        (t.core c).r.p = ((u.postMod sl acc).core c).r.p ∧ s.SameBytes t ∧ s.SameCoefs t) ∧
    (∀ n : Fin 16, 0x1FC000 ≤ a4 → Does (.mld sl n acc) s fun t =>
      mNow t c n.val = 0 ∧ t.isSet fault = true ∧ (t.core c).r.p = ((u.postMod sl acc).core c).r.p ∧ s.SameBytes t) ∧
    (Does (.pmod sl acc) s fun t =>
      t.core c = { u.core c with r := { (u.core c).r with p := (t.core c).r.p } } ∧
        (acc.mode = 1 → pNow t c acc.p.val = BitVec.ofNat 24 (advance (u.ptr sl acc.p.val) (u.ofs sl acc.m.val) (u.windowOf sl acc.p.val))) ∧
        (acc.mode = 2 → pNow t c acc.p.val = BitVec.ofNat 24 (advance (u.ptr sl acc.p.val) 16 (u.windowOf sl acc.p.val))) ∧
        (∀ k, k ≠ acc.p.val → pNow t c k = pNow u c k) ∧ s.SameBytes t ∧ s.SameCoefs t)

/-- VST, ATADD and ATSWP store four words at the aligned address of the operand in the cluster's scratchpad and no other byte; the atomics return the old words. In the reserved range nothing is stored and PROG_FAULT is set. -/
def Obligations.StoreOps : Prop :=
  ∀ (s : State) (sl : Slot) (acc : MemAcc) (v : Fin 32), (s.core sl.core.val).run.isSome = true →
    let c := sl.core.val
    let u := s.issue sl
    let a := u.opAddr sl acc / 16 * 16
    let fault := CLU_CORE_FLAG.prog_fault (c / 8) (c % 8)
    let rest (t : State) : Prop := (∀ k, k < spAddr c a ∨ spAddr c a + 16 ≤ k → t.byte k = s.byte k) ∧ s.SameCoefs t
      ∧ (t.core c).r.p = ((u.postMod sl acc).core c).r.p
    (a < 0x1FC000 → s.flt.dead = [] → Does (.vst sl v acc) s fun t =>
      rest t ∧ (∀ l, l < 4 → t.memWord (spAddr c (a + 4 * l)) = u.v sl v.val l)) ∧
    (a < 0x1FC000 → s.flt.dead = [] → Does (.atadd sl v acc) s fun t =>
      rest t ∧ ∀ l, l < 4 → t.memWord (spAddr c (a + 4 * l)) = s.memWord (spAddr c (a + 4 * l)) + u.v sl v.val l
        ∧ vNow t c v.val l = s.memWord (spAddr c (a + 4 * l))) ∧
    (a < 0x1FC000 → s.flt.dead = [] → Does (.atswp sl v acc) s fun t =>
      rest t ∧ ∀ l, l < 4 → t.memWord (spAddr c (a + 4 * l)) = u.v sl v.val l
        ∧ vNow t c v.val l = s.memWord (spAddr c (a + 4 * l))) ∧
    (0x1FC000 ≤ a → ∀ i ∈ [Instr.vst sl v acc, .atadd sl v acc, .atswp sl v acc], Does i s fun t =>
      s.SameBytes t ∧ s.SameCoefs t ∧ t.isSet fault = true)

/-- A pointer inside its window that moves by less than the window's length stays inside, congruent to the plain sum; without a window it is the sum modulo 2^24. -/
def Obligations.CircularWindow : Prop :=
  ∀ (x base len : Nat) (d : Int),
    (base ≤ x → x < base + len → base + len ≤ 2 ^ 24 → -len ≤ d → d ≤ len →
      base ≤ advance x d (some (base, len)) ∧ advance x d (some (base, len)) < base + len ∧
        ((advance x d (some (base, len)) : Int) - (x + d)) % len = 0) ∧
    ((advance x d none : Int) = (x + d) % 2 ^ 24)

/-- LOOP, the end of a pass, SETLC, SETLCR, BRF, PADDI, SETM, PMOV, SETW, BIND, SETIDX, END and the two NOPs on a core that runs a record change that core's control state as their rules say, and no other core and no memory. -/
def Obligations.ControlOps : Prop :=
  ∀ (s : State) (sl : Slot), (s.core sl.core.val).run.isSome = true →
    let c := sl.core.val
    let u := s.issue sl
    let x := u.core c
    let any : Bool := (List.range 4).any (fun l => u.v sl 0 l != 0)
    let cond (k : Nat) : Bool := [true, x.swapF, !x.swapF, x.firstF, !x.firstF, any, !any].getD k false
    (exec (.cnop sl) s = .next u) ∧
    (exec (.slotNop sl) s = .next u) ∧
    (∀ (k : Fin 4) (len : Fin 2048), len.val ≠ 0 → Does (.loopOp sl k false len) s fun t =>
      CoreBecomes s t c { x with loops := ⟨k.val, x.pc + 1, x.pc + len.val, false⟩ :: x.loops }) ∧
    (∀ (k : Fin 4) (len : Fin 2048), len.val ≠ 0 → Does (.loopOp sl k true len) s fun t =>
      CoreBecomes s t c { x with loops := ⟨k.val, x.pc + 1, x.pc + len.val, true⟩ :: x.loops, r := { x.r with idx := 0 } }) ∧
    (∀ (k : Fin 4) (n : BitVec 12), Does (.setlc sl k n) s fun t =>
      SMap.get zeroNat (t.core c).r.lc k.val = (if n = 0 then 4096 else n.toNat) ∧
        CoreBecomes s t c { x with r := { x.r with lc := (t.core c).r.lc } }) ∧
    (∀ (k : Fin 4) (p : Fin 16) (mx : BitVec 8), Does (.setlcr sl k p mx) s fun t =>
      SMap.get zeroNat (t.core c).r.lc k.val = min (max (u.ptr sl p.val % 4096) 1) (if mx = 0 then 256 else mx.toNat) ∧
        CoreBecomes s t c { x with r := { x.r with lc := (t.core c).r.lc } }) ∧
    (∀ (k : Fin 8) (off : Fin 2048), k.val ≠ 7 → off.val ≠ 0 → cond k.val = true → Does (.brf sl k off) s fun t =>
      CoreBecomes s t c { x with next := x.pc + off.val }) ∧
    (∀ (k : Fin 8) (off : Fin 2048), k.val ≠ 7 → off.val ≠ 0 → cond k.val = false → exec (.brf sl k off) s = .next u) ∧
    (∀ (p : Fin 16) (imm : BitVec 10), Does (.paddi sl p imm) s fun t =>
      pNow t c p.val = BitVec.ofNat 24 (advance (u.ptr sl p.val) (16 * imm.toInt) (u.windowOf sl p.val)) ∧
        (∀ k, k ≠ p.val → pNow t c k = pNow u c k) ∧ CoreBecomes s t c { x with r := { x.r with p := (t.core c).r.p } }) ∧
    (∀ (m : Fin 16) (imm : BitVec 9) (x16 : Bool), Does (.setm sl m imm x16) s fun t =>
      mNow t c m.val = BitVec.ofInt 24 (imm.toInt * (if x16 then 16 else 4)) ∧
        (∀ k, k ≠ m.val → mNow t c k = mNow u c k) ∧ CoreBecomes s t c { x with r := { x.r with m := (t.core c).r.m } }) ∧
    (∀ d a : Fin 16, Does (.pmov sl d a) s fun t =>
      pNow t c d.val = SMap.get zero24 x.snap.p a.val ∧
        (∀ k, k ≠ d.val → pNow t c k = pNow u c k) ∧ CoreBecomes s t c { x with r := { x.r with p := (t.core c).r.p } }) ∧
    (∀ (k : Fin 4) (p m : Fin 16), Does (.setw sl k p m) s fun t =>
      SMap.get zeroNat (t.core c).r.wBase k.val = u.ptr sl p.val / 16 * 16 ∧
        SMap.get zeroNat (t.core c).r.wLen k.val = (SMap.get zero24 x.snap.m m.val).toNat % 2 ^ 22 / 16 * 16 ∧
        CoreBecomes s t c { x with r := { x.r with wBase := (t.core c).r.wBase, wLen := (t.core c).r.wLen } }) ∧
    (∀ (p : Fin 16) (w : Option (Fin 4)), Does (.bindOp sl p w) s fun t =>
      SMap.get zeroNat (t.core c).r.bnd p.val = (match w with | some k => k.val + 1 | none => 0) ∧
        CoreBecomes s t c { x with r := { x.r with bnd := (t.core c).r.bnd } }) ∧
    (∀ imm : BitVec 14, Does (.setidx sl imm) s fun t => CoreBecomes s t c { x with r := { x.r with idx := imm.setWidth 16 } }) ∧
    (∀ (k : Fin 4) (f : LoopFrame) (rest : List LoopFrame), (s.core c).loops = f :: rest → f.k = k.val → (s.core c).pc = f.last →
      let y := s.core c
      let n := SMap.get zeroNat y.r.lc k.val
      Does (.loopPassEnd sl.core k) s fun t =>
        SMap.get zeroNat (t.core c).r.lc k.val = n - 1 ∧ (t.core c).r.idx = y.r.idx + (if f.idx then 1 else 0) ∧
          (t.core c).next = (if n - 1 = 0 then y.next else f.first) ∧ (t.core c).loops = (if n - 1 = 0 then rest else y.loops) ∧
          (∀ k, k ≠ c → t.core k = s.core k) ∧ s.SameBytes t) ∧
    (∀ (key : Nat) (q : Quad), (s.core c).run = some key → SMap.find s.img.quads key = some q → s.crossing q = false →
      Does (.endOp sl) s fun t =>
        t.core c = { x with run := none, loops := [] } ∧ t.rd ⟨CLU_STATUS (c / 8), 16 + c % 8, 1⟩ = 0 ∧
          (∀ k, k ≠ c → t.core k = s.core k) ∧ s.RegsBut t [CLU_STATUS (c / 8)] ∧ s.SameBytes t)

/-- A quad's record starts on its idle core at its entry bundle with the registers of R147; a well-formed DLQ joins the queue and stores nothing until it completes, when it copies its bytes and no others; a 65th transfer is dropped and counted. On a core without a record a slot does nothing (the model's choice, notes/assumptions/12.md). -/
def Obligations.DispatchAndTransfers : Prop :=
  ∀ s : State,
    (∀ (core : Fin 32) (outq : Bool) (quad : Fin 256) (q : Quad), SMap.find s.img.quads (b2n outq * 256 + quad.val) = some q →
      (s.core core.val).run = none → s.engineRuns = true → q.oldRec = none → q.disp.core = core.val → q.prog = true →
      Does (.dispatchRecord core outq quad) s fun t =>
        (t.core core.val).run = some (b2n outq * 256 + quad.val) ∧ (t.core core.val).pc = q.disp.entry ∧ (t.core core.val).loops = [] ∧
          pNow t core.val 0 = BitVec.ofNat 24 (q.disp.inArea * 16) ∧ pNow t core.val 1 = BitVec.ofNat 24 (q.disp.outArea * 16) ∧
          vNow t core.val 31 2 = s.cycle ∧ t.rd ⟨CLU_STATUS (core.val / 8), 16 + core.val % 8, 1⟩ = 1 ∧
          (∀ k, k ≠ core.val → t.core k = s.core k) ∧ s.RegsBut t [CLU_STATUS (core.val / 8)] ∧ s.SameBytes t) ∧
    (∀ (sl : Slot) (v : Fin 32), (s.core sl.core.val).run.isSome = true →
      let c := sl.core.val
      let u := s.issue sl
      let w (l : Nat) : Nat := (u.v sl v.val l).toNat
      (s.core c).dlqUsed < 64 → (s.core c).dlqBytes + w 2 ≤ 1024 * s.blk → s.poolOk (w 0) (w 2) = true → w 1 + w 2 ≤ 0x1FC000 →
      w 0 % 16 = 0 → w 1 % 16 = 0 → w 2 % 16 = 0 → 16 ≤ w 2 → w 2 ≤ 4096 → w 3 ≤ 1 → Does (.dlq sl v) s fun t =>
        t.dsp.dlq = s.dsp.dlq ++ [⟨c, w 0, w 1, w 2, w 3 == 1⟩] ∧ (t.core c).dlqUsed = (s.core c).dlqUsed + 1 ∧
          (t.core c).dlqBytes = (s.core c).dlqBytes + w 2 ∧ s.RegsBut t [] ∧ s.SameBytes t) ∧
    (∀ (sl : Slot) (v : Fin 32), (s.core sl.core.val).run.isSome = true → 64 ≤ (s.core sl.core.val).dlqUsed →
      Does (.dlq sl v) s fun t =>
        t.dsp.dlq = s.dsp.dlq ∧ t.isSet MEM_STATUS.dlq_drop = true ∧ s.SameBytes t
          ∧ t.isSet (CLU_CORE_FLAG.prog_fault (sl.core.val / 8) (sl.core.val % 8)) = true) ∧
    (∀ (core : Fin 32) (x : DlqXfer), s.dsp.dlq.find? (fun x => x.core = core.val) = some x → s.flt.dead = [] →
      Does (.dlqTransferDone core) s fun t =>
        t.dsp.dlq = s.dsp.dlq.erase x ∧
          (x.toPool = true → (∀ j, j < x.len → t.byte (0x80000000 + x.pool + j) = s.byte (spAddr x.core x.sp + j)) ∧
            ∀ k, k < 0x80000000 + x.pool ∨ 0x80000000 + x.pool + x.len ≤ k → t.byte k = s.byte k) ∧
          (x.toPool = false → (∀ j, j < x.len → t.byte (spAddr x.core x.sp + j) = s.byte (0x80000000 + x.pool + j)) ∧
            ∀ k, k < spAddr x.core x.sp ∨ spAddr x.core x.sp + x.len ≤ k → t.byte k = s.byte k) ∧
          t.regs = s.regs) ∧
    (∀ (sl : Slot) (d a b : Fin 32), (s.core sl.core.val).run = none → exec (.vadd sl d a b) s = .next s)

/-- A unit's completion is recorded once in a cycle, with the smallest margin and its unit and the longest load of its core; a margin below the warning sets margin_low. A unit unfinished at the deadline overruns and is counted; where every late unit has signalled and Wisp is off, the deadline changes nothing. -/
def Obligations.MarginsAndDeadline : Prop :=
  ∀ s : State, s.engineRuns = true →
    (∀ (unit : Fin 33) (time : Nat), unit.val ∉ s.eng.doneUnits → Does (.stripCompletion unit time) s fun t =>
      let margin := s.rd ENG_CT.ct - 2000 - time
      t.eng = { s.eng with doneUnits := unit.val :: s.eng.doneUnits } ∧ s.SameBytes t ∧
        (margin < s.rd ENG_MARGIN_MIN.margin → t.rd ENG_MARGIN_MIN.margin = margin ∧ t.rd ENG_MARGIN_MIN.unit = unit.val) ∧
        (s.rd ENG_MARGIN_MIN.margin ≤ margin → t.reg ENG_MARGIN_MIN = s.reg ENG_MARGIN_MIN) ∧
        (margin < s.rd ENG_MARGIN_WARN.warn → t.isSet ENG_STATUS.margin_low = true) ∧
        (unit.val < 32 → t.rd (CLU_CORE_LOAD.cycles (unit.val / 8) (unit.val % 8))
          = max (s.rd (CLU_CORE_LOAD.cycles (unit.val / 8) (unit.val % 8))) (min (time - 192 * s.blk) 0xFFFFF))) ∧
    (∀ (unit : Fin 33) (time : Nat), unit.val ∈ s.eng.doneUnits → exec (.stripCompletion unit time) s = .next s) ∧
    (∀ (l : LateUnit), s.tickStopped = false → l.unit.val ∉ s.eng.doneUnits → s.rd MEM_WISP_CFG.enable = 0 →
      Does (.engineDeadline [l] []) s fun t =>
        t.isSet ENG_STATUS.overrun = true ∧
          t.rd ENG_OVERRUN_CNT.count = min (2 ^ ENG_OVERRUN_CNT.count.width - 1) (s.rd ENG_OVERRUN_CNT.count + 1)) ∧
    (∀ (late : List LateUnit), s.tickStopped = false → (∀ u ∈ late, u.unit.val ∈ s.eng.doneUnits) → s.rd MEM_WISP_CFG.enable = 0 →
      exec (.engineDeadline late []) s = .next s)

/-- A corrected lane's write-back leaves the list; an abandoned march keeps Wisp's pointer, a restored one advances it and counts a pass at the end of the memory; a scrub pass is counted; a waking memory leaves Dusk; a completed flash operation gives way to the next request. -/
def Obligations.MemoryRows : Prop :=
  ∀ s : State,
    (∀ a : Word, Does (.eccWriteback a) s fun t =>
      (∀ k, k ∈ t.ms.writeback ↔ k ∈ s.ms.writeback ∧ k ≠ a.toNat) ∧ t = { s with ms := { s.ms with writeback := t.ms.writeback } }) ∧
    (∀ (m : Fin 6) (w : WispRun), SMap.find s.ms.wisp m.val = some w → Does (.wispAbandon m) s fun t =>
      SMap.find t.ms.wisp m.val = some { w with abandoned := true } ∧ t = { s with ms := { s.ms with wisp := t.ms.wisp } }) ∧
    (∀ (m : Fin 6) (w : WispRun), SMap.find s.ms.wisp m.val = some w → w.abandoned = true → Does (.wispRestoreDone m) s fun t =>
      SMap.find t.ms.wisp m.val = none ∧ t = { s with ms := { s.ms with wisp := t.ms.wisp } }) ∧
    (∀ (m : Fin 6) (w : WispRun), SMap.find s.ms.wisp m.val = some w → w.abandoned = false → Does (.wispRestoreDone m) s fun t =>
      let n := s.rd (MEM_WISP_POS.region m.val) + 1
      let size := if m.val = 5 then 8192 else 2048
      SMap.find t.ms.wisp m.val = none ∧ t.rd (MEM_WISP_POS.region m.val) = (if size ≤ n then 0 else n) ∧
        (size ≤ n → t.rd (MEM_WISP_POS.passes m.val)
          = (s.rd (MEM_WISP_POS.passes m.val) + 1) % 2 ^ (MEM_WISP_POS.passes m.val).width) ∧
        (n < size → t.rd (MEM_WISP_POS.passes m.val) = s.rd (MEM_WISP_POS.passes m.val)) ∧
        s.OnlyRegs { t with ms := s.ms } [MEM_WISP_POS m.val]) ∧
    (∀ m : Fin 5, m.val ∈ s.ms.waking → Does (.duskExitReady m) s fun t =>
      t.rd ⟨MEM_STATUS, 16 + m.val, 1⟩ = 0 ∧ m.val ∉ t.ms.waking ∧ (∀ k, k ≠ m.val → (k ∈ t.ms.waking ↔ k ∈ s.ms.waking)) ∧
        s.OnlyRegs { t with ms := s.ms } [MEM_STATUS]) ∧
    (Does .scrubPass s fun t =>
      t.rd MEM_SCRUB.passes = (s.rd MEM_SCRUB.passes + 1) % 2 ^ MEM_SCRUB.passes.width ∧ s.OnlyRegs t [MEM_SCRUB]) ∧
    (∀ (n : Nat) (uncorr : Bool) (cur : FlashReq) (rest : List FlashReq), s.ms.flash = cur :: rest → s.ms.suspended = none →
      Does (.flashOperationDone n uncorr false) s fun t =>
        t.ms.flash = rest ∧ t.ms.suspended = none ∧ t.rd FLASHC_STATUS.susp = 0 ∧
          t.rd FLASHC_STATUS.op = (match rest with | x :: _ => x.op | [] => 0) % 2 ^ FLASHC_STATUS.op.width ∧
          (uncorr = true → t.isSet FLASHC_STATUS.uncorr = true) ∧ s.SameBytes t)

/-- Each counter-clear command leaves its counters at 0 and no other register changed; each read with a side effect delivers the word the register held and leaves what its rule says. -/
def Obligations.CounterRows : Prop :=
  ∀ s : State,
    (∀ p ∈ [(Instr.memCntClrDlq, [MEM_DLQ_DROP]), (.memCntClrConf, [MEM_CONF 0, MEM_CONF 1, MEM_CONF 2, MEM_CONF 3]),
        (.memCntClrDram, [MEM_DRAM_ECC]), (.busCntClrLk, [BUS_LKCNT]), (.busCntClrEv, [BUS_EVCNT]),
        (.xptCntClrSat, [XPT_SAT_CNT, XPT_SAT_LAST]), (.xptCntClrEcc, [XPT_ECC_CNT]), (.xptCntClrBlk, [XPT_BLK_CNT]),
        (.patchCntClrTotal, [PATCH_SAT_TOTAL]), (.engCntClrOverrun, [ENG_OVERRUN_CNT])],
      Does p.1 s fun t => (∀ a ∈ p.2, t.reg a = 0) ∧ s.OnlyRegs t p.2) ∧
    (Does .memCntClrSram s fun t =>
      t.reg MEM_SRAM_ECC = 0 ∧ (∀ n, n < 4 → t.reg (MEM_SP_ECC n) = 0) ∧ t.rd MEM_ECC_LAST.valid = 0 ∧
        s.OnlyRegs t [MEM_SRAM_ECC, MEM_SP_ECC 0, MEM_SP_ECC 1, MEM_SP_ECC 2, MEM_SP_ECC 3, MEM_ECC_LAST]) ∧
    (Does .busCntClrErr s fun t => t.reg BUS_ERRCNT = 0 ∧ t.rd BUS_ERR_LAST.valid = 0 ∧ s.OnlyRegs t [BUS_ERRCNT, BUS_ERR_LAST]) ∧
    (Does .patchCntClrSinks s fun t =>
      (∀ i, i < 516 → t.reg (PATCH_SATCNT i) = 0) ∧ s.OnlyRegs t ((List.range 516).map PATCH_SATCNT)) ∧
    (∀ n : Fin 4, Does (.cluCntClrSat n) s fun t =>
      (∀ k, k < 8 → t.reg (CLU_CORE_SAT n.val k) = 0) ∧ s.OnlyRegs t ((List.range 8).map (CLU_CORE_SAT n.val))) ∧
    (Does .engMarginMinRead s fun t =>
      t.lastRead = s.reg ENG_MARGIN_MIN ∧ t.reg ENG_MARGIN_MIN = resetWord ENG_MARGIN_MIN ∧
        s.OnlyRegs { t with lastRead := s.lastRead } [ENG_MARGIN_MIN]) ∧
    (∀ (n : Fin 4) (k : Fin 8), s.gated (CLU_CORE_LOAD n.val k.val) = false → Does (.cluLoadRead n k) s fun t =>
      t.lastRead = s.reg (CLU_CORE_LOAD n.val k.val) ∧ t.reg (CLU_CORE_LOAD n.val k.val) = 0 ∧
        s.OnlyRegs { t with lastRead := s.lastRead } [CLU_CORE_LOAD n.val k.val]) ∧
    (∀ (n : Fin 4) (k : Fin 8), s.gated (CLU_CORE_LOAD n.val k.val) = true → Does (.cluLoadRead n k) s fun t =>
      t.lastRead = 0 ∧ t.isSet BUS_STATUS.unavail = true ∧ t.reg (CLU_CORE_LOAD n.val k.val) = s.reg (CLU_CORE_LOAD n.val k.val)) ∧
    (Does .memDramRtRead s fun t =>
      t.lastRead = s.reg MEM_DRAM_RT ∧ t.reg MEM_DRAM_RT = 0 ∧ s.OnlyRegs { t with lastRead := s.lastRead } [MEM_DRAM_RT]) ∧
    (∀ k : Fin 10, Does (.busWaitRead k) s fun t =>
      t.lastRead = s.reg (BUS_WAIT k.val) ∧ t.rd (BUS_WAIT.max k.val) = 0 ∧
        t.rd (BUS_WAIT.courtesy k.val) = s.rd (BUS_WAIT.courtesy k.val) ∧ s.OnlyRegs { t with lastRead := s.lastRead } [BUS_WAIT k.val]) ∧
    (Does .cmdPendRead s fun t =>
      t.lastRead = s.reg CMD_PEND ∧ t.rd CMD_PEND.peak = 0 ∧ s.OnlyRegs { t with lastRead := s.lastRead } [CMD_PEND]) ∧
    (Does .flashcSuspRead s fun t =>
      t.lastRead = s.reg FLASHC_SUSP ∧ t.rd FLASHC_SUSP.worst = 0 ∧ t.rd FLASHC_SUSP.count = s.rd FLASHC_SUSP.count ∧
        s.OnlyRegs { t with lastRead := s.lastRead } [FLASHC_SUSP]) ∧
    (Does .pwrTjMaxRead s fun t =>
      t.lastRead = s.reg PWR_TJ_MAX ∧ t.reg PWR_TJ_MAX = 0 ∧ t.pwr = { s.pwr with tjFresh := true } ∧
        s.OnlyRegs { t with lastRead := s.lastRead, pwr := s.pwr } [PWR_TJ_MAX])

/-- A sample is shown in its registers; above 135 °C the thermal condition of SQUALL holds, and it clears after 10 s below the exit temperature; the supply and budget conditions set and clear at their thresholds; a VAUX overload switches VAUX off until a retry succeeds. -/
def Obligations.SupplyAndTemperature : Prop :=
  ∀ s : State,
    (∀ mv ma p : BitVec 16, s.op ≠ .off → Does (.vsysSample mv ma p) s fun t =>
      t.rd PWR_MEAS0.vsys = mv.toNat ∧ t.rd PWR_MEAS0.isys = ma.toNat ∧ t.rd PWR_MEAS1.pin = p.toNat ∧
        t.rd PWR_MEAS1.tj = s.rd PWR_MEAS1.tj ∧ (mv.toNat < 9000 → t.isSet PWR_STATUS.vsys_low = true) ∧
        (36500 < mv.toNat → t.isSet PWR_STATUS.vsys_high = true) ∧ s.SameBytes t ∧
        t.pwr = { s.pwr with pins := (p :: s.pwr.pins).take 1000 }) ∧
    (∀ t0 t1 t2 t3 t4 : BitVec 16, s.op ≠ .off → s.pwr.sensors = [] →
      (∀ x ∈ [t1, t2, t3, t4], x.toInt ≤ t0.toInt) → 1350 ≤ t0.toInt → Does (.thermalSample t0 t1 t2 t3 t4) s fun t =>
        t.rd PWR_MEAS1.tj = t0.toNat ∧ t.rd ⟨PWR_STATUS, 26, 1⟩ = 1 ∧ (1450 ≤ t0.toInt → t.pwr.hot2 = true) ∧
          t.pwr.sensors = [[t0], [t1], [t2], [t3], [t4]] ∧ s.SameBytes t) ∧
    (s.tj < s.exitTj → Does (.thermalExitTimer false) s fun t => t.rd ⟨PWR_STATUS, 26, 1⟩ = 0 ∧ s.OnlyRegs t [PWR_STATUS]) ∧
    (s.tj < 1400 → exec (.thermalExitTimer true) s = .next { s with pwr := { s.pwr with hot2 := false } }) ∧
    (s.op ≠ .off → s.rd PWR_CFG.squall_v ≠ 0 → s.rd PWR_MEAS0.vsys < 100 * s.rd PWR_CFG.squall_v → Does .supplyLowTimer s fun t =>
      t.rd ⟨PWR_STATUS, 27, 1⟩ = 1 ∧ s.OnlyRegs t [PWR_STATUS]) ∧
    (100 * s.rd PWR_CFG.squall_v + 1000 ≤ s.rd PWR_MEAS0.vsys → Does .supplyClearTimer s fun t =>
      t.rd ⟨PWR_STATUS, 27, 1⟩ = 0 ∧ s.OnlyRegs t [PWR_STATUS]) ∧
    (s.op ≠ .off → s.rd PWR_BUDGET.budget ≠ 0 → s.rd PWR_BUDGET.budget < s.rd PWR_MEAS1.pin → Does .budgetExceeded s fun t =>
      t.rd ⟨PWR_STATUS, 28, 1⟩ = 1 ∧ s.OnlyRegs t [PWR_STATUS]) ∧
    (s.isSet PWR_VAUX.on = true → Does .vauxOvercurrent s fun t =>
      t.isSet PWR_VAUX.on = false ∧ t.isSet PWR_STATUS.vaux_oc = true ∧ t.pwr = { s.pwr with auxOff := true } ∧
        s.OnlyLogged { t with pwr := s.pwr } [PWR_VAUX, PWR_STATUS]) ∧
    (∀ ma : BitVec 16, s.pwr.auxOff = true → Does (.vauxRetry true ma) s fun t =>
      t.isSet PWR_VAUX.on = true ∧ t.rd PWR_VAUX.ma = ma.toNat % 2 ^ PWR_VAUX.ma.width ∧ t.pwr = { s.pwr with auxOff := false } ∧
        s.OnlyRegs { t with pwr := s.pwr } [PWR_VAUX]) ∧
    (∀ ma : BitVec 16, exec (.vauxRetry false ma) s = .next s)

/-- Each step of the entry into NIGHTFALL and of the wake sequence is taken in its order when it falls due: bypass, Dusk and gates, the wake event, the gates that open, and RUN. -/
def Obligations.NightfallRows : Prop :=
  ∀ s : State,
    (∀ n : NfRun, s.pwr.nf = some n → n.stage = 1 → later32 (n.tick + 1) (s.cycle + 1) = false → Does .nightfallBypass s fun t =>
      t.pwr.nf = some { n with stage := 2 } ∧ t.pwr.wake = s.pwr.wake) ∧
    (∀ n : NfRun, s.pwr.nf = some n → n.stage = 2 → later32 (n.tick + 2) (s.cycle + 1) = false → Does .nightfallDusk s fun t =>
      t.pwr.nf = some { n with stage := 3, owner := none, dusk := s.rd MEM_DUSK.req, gates := s.rd CLK_GATE_REQ.req, lanes := s.pairRd PAIR_LINK.lanes }) ∧
    (s.op = .nightfall → s.pwr.wake = none → s.isSet PAIR_STATUS.synced_pair = false → Does .wakeEvent s fun t =>
      t.pwr.wake = some ⟨1, s.cycle + BitVec.ofNat 32 (max 1 s.wakeCycles)⟩ ∧ t = { s with pwr := { s.pwr with wake := t.pwr.wake } }) ∧
    (∀ w : WakeRun, s.pwr.wake = some w → w.stage = 1 → Does .wakeGatesOpen s fun t => t.pwr.wake = some ⟨2, s.cycle + 1⟩ ∧ s.SameBytes t) ∧
    (∀ w : WakeRun, s.pwr.wake = some w → w.stage = 2 → later32 (s.cycle + 1) w.tick = true → Does .wakeRun s fun t =>
      t.op = .run ∧ t.pwr.nf = none ∧ t.pwr.wake = none ∧ t.q.nightWait = [])

/-- A request for a gate on an unused block is pending and the gate closes when the block is quiescent or at the timeout, which is flagged; a request for a used block is refused; clearing a request opens the gate. Afterglow out of range is shown, flagged and in force as a condition until it is back. -/
def Obligations.GatesAndClock : Prop :=
  ∀ s : State,
    (∀ k : Fin 10, s.rd CLK_GATE_REQ.req = 0 → s.rd CLK_GATE_STAT.pend = 0 → s.gateInUse k.val = false →
      Does (.clkGateReqWrite .cp (BitVec.ofNat 10 (2 ^ k.val))) s fun t =>
        t.rd CLK_GATE_REQ.req = 2 ^ k.val ∧ t.rd CLK_GATE_STAT.pend = 2 ^ k.val ∧ s.OnlyRegs t [CLK_GATE_REQ, CLK_GATE_STAT]) ∧
    (∀ k : Fin 10, s.rd CLK_GATE_REQ.req = 0 → s.gateInUse k.val = true →
      Does (.clkGateReqWrite .cp (BitVec.ofNat 10 (2 ^ k.val))) s fun t =>
        t.rd CLK_GATE_REQ.req = 0 ∧ t.isSet CLK_STATUS.gate_refused = true ∧ s.OnlyLogged t [CLK_STATUS]) ∧
    (∀ k : Fin 10, s.rd CLK_GATE_REQ.req = 2 ^ k.val → s.rd CLK_GATE_STAT.closed = 2 ^ k.val →
      Does (.clkGateReqWrite .cp 0) s fun t =>
        t.rd CLK_GATE_REQ.req = 0 ∧ t.rd CLK_GATE_STAT.closed = 0 ∧ s.OnlyRegs t [CLK_GATE_REQ, CLK_GATE_STAT]) ∧
    (∀ k : Fin 10, s.rd CLK_GATE_STAT.pend / 2 ^ k.val % 2 = 1 → Does (.gateQuiescent k) s fun t =>
      t.rd CLK_GATE_STAT.closed / 2 ^ k.val % 2 = 1 ∧ t.rd CLK_GATE_STAT.pend / 2 ^ k.val % 2 = 0 ∧
        t.rd CLK_GATE_REQ.req / 2 ^ k.val % 2 = 1 ∧ s.OnlyRegs t [CLK_GATE_REQ, CLK_GATE_STAT]) ∧
    (∀ k : Fin 10, s.rd CLK_GATE_STAT.pend / 2 ^ k.val % 2 = 1 → Does (.gateQuiesceTimeout k) s fun t =>
      t.rd CLK_GATE_STAT.closed / 2 ^ k.val % 2 = 1 ∧ t.isSet CLK_STATUS.gate_forced = true ∧ s.SameBytes t) ∧
    (∀ khz : BitVec 13, Does (.afterglowOutOfRange khz) s fun t =>
      t.rd CLK_AFTERGLOW.khz = khz.toNat ∧ t.isSet CLK_STATUS.ag_fail = true ∧ (10, 0) ∈ t.flt.conds) ∧
    (∀ khz : BitVec 13, Does (.afterglowBackInRange khz) s fun t =>
      t.rd CLK_AFTERGLOW.khz = khz.toNat ∧ (10, 0) ∉ t.flt.conds ∧ (∀ c, c ≠ (10, 0) → (c ∈ t.flt.conds ↔ c ∈ s.flt.conds)) ∧
        s.OnlyRegs { t with flt := s.flt } [CLK_AFTERGLOW])

/-- A good doorbell or cci write changes its index alone; one on a ring that does not run is ignored, sets db_err and viol and leaves its ring, code and value in CMD_VIOL. An enable with a good configuration runs the ring with its indices at 0, with a bad one sets cfg_bad and leaves it OFF, and of a ring that is not OFF changes nothing. A disabled ring with nothing to end is OFF at once if nothing is outstanding, else drains, and goes OFF with the last completion. -/
def Obligations.RingRows : Prop :=
  ∀ (s : State) (n : Fin 16),
    (∀ pi : BitVec 16, s.ringRun n.val = true → later16 (BitVec.ofNat 16 (s.rd (CMD_RING_DB.pi n.val))) pi = false →
      (pi - BitVec.ofNat 16 (s.rd (CMD_RING_CI.ci n.val))).toNat ≤ s.ringSize n.val → Does (.cmdDoorbell n pi) s fun t =>
        t.rd (CMD_RING_DB.pi n.val) = pi.toNat ∧ s.OnlyRegs t [CMD_RING_DB n.val]) ∧
    (∀ pi : BitVec 16, s.ringRun n.val = false → Does (.cmdDoorbell n pi) s fun t =>
      t.isSet (CMD_RING_STAT.db_err n.val) = true ∧ t.isSet CMD_STATUS.viol = true ∧
        (t.reg CMD_VIOL).toNat = 2 ^ 31 + n.val * 2 ^ 24 + 4 * 2 ^ 16 + pi.toNat ∧
        s.OnlyLogged t [CMD_RING_STAT n.val, CMD_STATUS, CMD_VIOL]) ∧
    (∀ pi : BitVec 16, s.ringRun n.val = true → later16 (BitVec.ofNat 16 (s.rd (CMD_RING_DB.pi n.val))) pi = true →
      Does (.cmdDoorbell n pi) s fun t =>
        (t.reg CMD_VIOL).toNat = 2 ^ 31 + n.val * 2 ^ 24 + 2 * 2 ^ 16 + pi.toNat ∧ t.reg (CMD_RING_DB n.val) = s.reg (CMD_RING_DB n.val)) ∧
    (∀ cci : BitVec 16, s.ringRun n.val = true → later16 (BitVec.ofNat 16 (s.rd (CMD_RING_CDB.cci n.val))) cci = false →
      later16 cci (BitVec.ofNat 16 (s.rd (CMD_RING_CI.cpi n.val))) = false → Does (.cmdCdbWrite n cci) s fun t =>
        t.rd (CMD_RING_CDB.cci n.val) = cci.toNat ∧ s.OnlyRegs t [CMD_RING_CDB n.val]) ∧
    (∀ cci : BitVec 16, s.ringRun n.val = true → later16 cci (BitVec.ofNat 16 (s.rd (CMD_RING_CI.cpi n.val))) = true →
      Does (.cmdCdbWrite n cci) s fun t =>
        (t.reg CMD_VIOL).toNat = 2 ^ 31 + n.val * 2 ^ 24 + 3 * 2 ^ 16 + cci.toNat ∧ t.reg (CMD_RING_CDB n.val) = s.reg (CMD_RING_CDB n.val)) ∧
    (s.ringOff n.val = true → s.ringConfigOk n.val = true → Does (.cmdRingEnable n) s fun t =>
      t.ringRun n.val = true ∧ t.rd (CMD_RING_CI.ci n.val) = 0 ∧ t.rd (CMD_RING_CI.cpi n.val) = 0 ∧ t.rd (CMD_RING_DB.pi n.val) = 0 ∧
        t.rd (CMD_RING_CDB.cci n.val) = 0 ∧
        s.OnlyRegs t [CMD_RING_CI n.val, CMD_RING_DB n.val, CMD_RING_CDB n.val, CMD_RING_STAT n.val]) ∧
    (s.ringOff n.val = true → s.ringConfigOk n.val = false → Does (.cmdRingEnable n) s fun t =>
      t.ringOff n.val = true ∧ t.isSet (CMD_RING_STAT.cfg_bad n.val) = true ∧ t.isSet CMD_STATUS.viol = true ∧
        s.OnlyLogged t [CMD_RING_STAT n.val, CMD_STATUS]) ∧
    (s.ringOff n.val = false → exec (.cmdRingEnable n) s = .next s) ∧
    (s.ringRun n.val = false → exec (.cmdRingDisable n) s = .next s) ∧
    (s.ringRun n.val = true → s.q.outst = [] → s.q.fetched = [] → s.q.ring0q = [] → s.q.nightWait = [] → s.q.abortMarks = [] →
      s.q.aborts = [] → Does (.cmdRingDisable n) s fun t =>
        (s.outstanding n.val = 0 → t.ringOff n.val = true) ∧ (s.outstanding n.val ≠ 0 → t.ringDraining n.val = true) ∧
          s.OnlyRegs { t with q := s.q } [CMD_RING_STAT n.val]) ∧
    (s.ringDraining n.val = true → s.outstanding n.val = 0 → Does (.ringDrainDone n) s fun t =>
      t.ringOff n.val = true ∧ s.OnlyRegs { t with q := s.q } [CMD_RING_STAT n.val]) ∧
    ((s.ringDraining n.val = false ∨ s.outstanding n.val ≠ 0) → exec (.ringDrainDone n) s = .next s)

/-- A fetch of a submitted packet consumes its slots, counts it outstanding and queues it for a decision; with nothing submitted, or a command of the ring already fetched, nothing changes. A decision of the only fetched command takes it from the queue; an unknown opcode is answered BAD_OPCODE. The hardware decoder puts a ring-0 command that is no override into the firmware queue. With nothing fetched a decision changes nothing. -/
def Obligations.FetchAndDecision : Prop :=
  ∀ s : State,
    (∀ (n : Fin 16) (c : Cmd) (k : Nat), n.val ≠ 0 → s.cpDown = false → s.engineRuns = true → (∀ x ∈ s.q.fetched, x.ring ≠ n) →
      s.headCmd n.val = some (c, k) → s.hasRoom n.val = true → (c.fence = true → s.outstanding n.val = 0) → s.q.abortMarks = [] →
      s.rd (CMD_RING_CFG.size n.val) ≤ 4 → Does (.commandFetch n) s fun t =>
        t.q = { s.q with fetched := s.q.fetched ++ [c] } ∧ t.rd (CMD_RING_CI.ci n.val) = (s.rd (CMD_RING_CI.ci n.val) + k) % 65536 ∧
          t.outstanding n.val = s.outstanding n.val + 1 ∧ s.OnlyRegs { t with q := s.q } [CMD_RING_CI n.val, CMD_RING_STAT n.val]) ∧
    (∀ n : Fin 16, s.submitted n.val = 0 → exec (.commandFetch n) s = .next s) ∧
    (∀ (n : Fin 16) (x : Cmd), x ∈ s.q.fetched → x.ring = n → exec (.commandFetch n) s = .next s) ∧
    (s.q.fetched = [] → s.q.ring0q = [] → exec .commandDecision s = .next s) ∧
    (s.cpDown = true → exec .commandDecision s = .next s) ∧
    (∀ c : Cmd, s.cpDown = false → s.engineRuns = true → s.q.fetched = [c] → s.q.ring0q = [] → c.ring.val ≠ 0 → c.origin = .ring →
      opFind c.op = none → 4 ≤ c.len.toNat → c.len.toNat ≤ 64 →
      (∀ x, s.entryAddr c.ring.val ≤ x → x < s.entryAddr c.ring.val + 32 → deadAt s.flt.dead x = false) → Does .commandDecision s fun t =>
        t.q.fetched = [] ∧ t.q.outst = s.q.outst ∧ (t.memWord (s.entryAddr c.ring.val)).toNat / 2 ^ 16 % 256 = 0x40 ∧
          t.outstanding c.ring.val = s.outstanding c.ring.val - 1 ∧ s.RegsBut t [CMD_RING_CI c.ring.val, CMD_RING_STAT c.ring.val]) ∧
    (∀ (c : Cmd) (k : Nat), s.engineRuns = true → s.headCmd 0 = some (c, k) → s.hasRoom 0 = true → (c.fence = true → s.outstanding 0 = 0) →
      s.q.abortMarks = [] → s.rd (CMD_RING_CFG.size 0) ≤ 4 → isTrigOp c.op = false → s.q.ring0q.length < 32 → Does .ring0Decode s fun t =>
        t.q = { s.q with ring0q := s.q.ring0q ++ [c] } ∧ t.rd (CMD_RING_CI.ci 0) = (s.rd (CMD_RING_CI.ci 0) + k) % 65536 ∧
          t.outstanding 0 = s.outstanding 0 + 1) ∧
    (s.submitted 0 = 0 → exec .ring0Decode s = .next s)

/-- A watchdog expiry or a trap stops the command processor, notes the cycle and the cause, and lowers the grade; a restart resumes it with no background job left, CMD_STATUS.wd set and the kick renewed. A kick counts only from the command processor with its key. A reset write without its key, or without force while an alarm path is active, is refused and flagged. A remap bit only sets. A Dusk request that may not stand is refused. A log flush moves every staged entry to flash. -/
def Obligations.ProcessorRows : Prop :=
  ∀ s : State,
    (∀ x ∈ [(Instr.cpWatchdogExpiry, false), (.cpTrap, true)],
      (s.flt.cpStopped = false → Does x.1 s fun t =>
        t.flt.cpStopped = true ∧ t.flt.cpSince = some s.cycle ∧ t.flt.cpTrap = x.2 ∧ (7, 0) ∈ t.flt.conds ∧ t.q = s.q ∧ s.SameBytes t) ∧
      (s.flt.cpStopped = true → exec x.1 s = .next s)) ∧
    (s.flt.cpStopped = true → (s.flt.reinits.filter (fun x => since s.cycle x < s.cyclesOfS 600)).length < 2 → Does .cpRestart s fun t =>
      t.flt.cpStopped = false ∧ t.flt.cpSince = none ∧ t.flt.kick = s.cycle ∧ t.q.jobs = [] ∧ t.isSet CMD_STATUS.wd = true) ∧
    (s.flt.cpStopped = false → exec .cpRestart s = .next s) ∧
    (exec (.sysWdogKick .cp 0x6B1C) s = .next { s with flt := { s.flt with kick := s.cycle } }) ∧
    (∀ (m : Master) (v : BitVec 16), (v ≠ 0x6B1C ∨ m ≠ .cp) → Does (.sysWdogKick m v) s fun t =>
      t.isSet SYS_STATUS.kick_bad = true ∧ s.OnlyLogged t [SYS_STATUS]) ∧
    (∀ v : Word, v.toNat / 65536 ≠ 0xA55A → Does (.sysResetWrite v) s fun t =>
      t.isSet SYS_STATUS.wr_refused = true ∧ s.OnlyLogged t [SYS_STATUS]) ∧
    (∀ v : Word, v.toNat / 65536 = 0xA55A → v.getLsbD 1 = false → s.alarmPath = true → Does (.sysResetWrite v) s fun t =>
      t.isSet SYS_STATUS.rst_refused = true ∧ s.OnlyLogged t [SYS_STATUS]) ∧
    (∀ v : Word, v.toNat / 65536 = 0xA55A → (v.getLsbD 1 = true ∨ s.alarmPath = false) →
      exec (.sysResetWrite v) s = .next { s with boot := { s.boot with resetReq := some (if v.getLsbD 0 then 3 else 2) } }) ∧
    (∀ v : Word, v.getLsbD 0 = true → Does (.sysRemapWrite v) s fun t => t.rd SYS_REMAP.remap = 1 ∧ s.OnlyRegs t [SYS_REMAP]) ∧
    (∀ v : Word, v.getLsbD 0 = false → exec (.sysRemapWrite v) s = .next s) ∧
    (∀ (m : Master) (req : BitVec 5), s.pairLocked m = false →
      (s.duskOk req.toNat = true → Does (.memDuskWrite m req) s fun t =>
        t.rd MEM_DUSK.req = req.toNat ∧ t.ms = { s.ms with duskWant := req.toNat } ∧ s.OnlyRegs { t with ms := s.ms } [MEM_DUSK]) ∧
      (s.duskOk req.toNat = false → Does (.memDuskWrite m req) s fun t =>
        t.isSet MEM_STATUS.dusk_refused = true ∧ s.OnlyRegs t [MEM_STATUS])) ∧
    (∀ (m : Master) (req : BitVec 5), s.pairLocked m = true → Does (.memDuskWrite m req) s fun t => s.OnlyLogged t []) ∧
    (Does .logFlush s fun t =>
      t.log.staged = [] ∧ t.log.flash = logKept (s.log.flash ++ s.log.staged) ∧ t.rd LOG_STAGED.count = 0 ∧
        s.OnlyRegs { t with log := s.log } [LOG_STAGED, LOG_OLDEST])

/-- A self-test that passes leaves the list, one that fails marks its resource lasting-faulty; a fence remaps the word to a spare or, with none left, makes it read 0; a lane shows in XPT_FENCE. A retry is only logged; a re-initialised function is held in reset until it restarts; a reset step is held off while an alarm path is active, and otherwise takes the device to BOOT; the end of the ladder is a condition of grade 0. -/
def Obligations.FaultRows : Prop :=
  ∀ s : State,
    (∀ (k : Fin 8) (res : BitVec 18) (word a : Word) (e : Nat), s.flt.tests = [⟨kindOf k.val, res.toNat, a, e, none⟩] →
      (Does (.selftestDone k res false word) s fun t =>
        t.flt = { s.flt with tests := [], lasting := s.flt.lasting ++ [(kindOf k.val, res.toNat, word.toNat)] } ∧
          s.OnlyLogged { t with flt := s.flt } []) ∧
      (e = 0 → Does (.selftestDone k res true word) s fun t =>
        t.flt = { s.flt with tests := [] } ∧ s.OnlyLogged { t with flt := s.flt } [])) ∧
    (∀ (k : Fin 8) (res : BitVec 18) (pass : Bool) (word : Word), s.flt.tests = [] → exec (.selftestDone k res pass word) s = .next s) ∧
    (∀ (l word : Nat), l < 128 → s.flt.lasting = [(.lane, l, word)] → s.laneFenced l = false → Does .fence s fun t =>
      t.laneFenced l = true ∧ (∀ k, k < 128 → k ≠ l → t.laneFenced k = s.laneFenced k) ∧ t.flt.lasting = [] ∧ s.SameBytes t) ∧
    (∀ (res word : Nat), s.flt.lasting = [(.bank, res, word)] →
      (s.flt.spares.filter (fun x => x.1 = res / 8192 * 16 + word / 16 % 16)).length < 16 → res / 8192 < 6 → Does .fence s fun t =>
        t.flt.spares = (res / 8192 * 16 + word / 16 % 16, word) :: s.flt.spares ∧ t.flt.dead = s.flt.dead ∧ s.SameBytes t) ∧
    (∀ (res word : Nat), s.flt.lasting = [(.bank, res, word)] → res / 8192 = 4 →
      16 ≤ (s.flt.spares.filter (fun x => x.1 = 64 + word / 16 % 16)).length → (∀ x, deadAt s.flt.dead x = false) → Does .fence s fun t =>
        t.flt.dead = [word] ++ s.flt.dead ∧ (∀ x, t.byte x = if word ≤ x ∧ x < word + 4 then 0 else s.byte x)) ∧
    (s.flt.lasting = [] → exec .fence s = .next s) ∧
    (∀ f : BitVec 8, Does (.ladderStep 0 f) s fun t => s.OnlyLogged t []) ∧
    (s.flt.ladder = [] → Does (.ladderStep 1 6) s fun t => 6 ∈ t.flt.inReset ∧ t.ms.flash = [] ∧ (2, 6, s.cycle) ∈ t.flt.ladder ∧ s.SameBytes t) ∧
    (∀ f : BitVec 8, s.holdsOff = true → Does (.ladderStep 2 f) s fun t => ⟨.warm, f.toNat⟩ ∈ t.flt.held ∧ t.op = s.op ∧ s.SameBytes t) ∧
    (∀ f : BitVec 8, s.holdsOff = false → Does (.ladderStep 2 f) s fun t => t.op = .boot ∧ t.rd SYS_RST_CAUSE.cause = 4 ∧ s.SameBytes t) ∧
    (∀ f : BitVec 8, s.holdsOff = false → Does (.ladderStep 3 f) s fun t => t.op = .boot ∧ t.rd SYS_RST_CAUSE.cause = 5 ∧ t.mem = []) ∧
    (∀ f : BitVec 8, Does (.ladderStep 5 f) s fun t => (17, 0) ∈ t.flt.conds ∧ s.SameBytes t) ∧
    ((s.flt.held = [] ∨ s.holdsOff = true) → exec .ladderHeldRelease s = .next s) ∧
    (∀ (f : Nat) (r : List HeldStep), s.flt.held = ⟨.warm, f⟩ :: r → s.holdsOff = false → Does .ladderHeldRelease s fun t =>
      t.op = .boot ∧ t.rd SYS_RST_CAUSE.cause = 4) ∧
    (s.held 6 = true →
      exec (.funcRestart 6) s = .next { s with flt := { s.flt with inReset := s.flt.inReset.filter (· != 6) } }) ∧
    (∀ f : BitVec 8, s.held f.toNat = false → exec (.funcRestart f) s = .next s)

/-- A burst written to DRAM by a master with a path stores exactly its strobed bytes and is acknowledged; a read of system SRAM or DRAM returns the bytes and stores none; a burst to no target is answered ROUTE_ERR on every beat and stores nothing; the host bridge may not write system SRAM below the shared area. A timeout answers the rest of the burst TARGET_ERR, and the third at the flash controller within 60 s re-initialises it; an abandoned burst is counted and its locks end. -/
def Obligations.BusRows : Prop :=
  ∀ s : State,
    (∀ (b : Burst) (x : Beat), b.beats = [x] → b.write = true → b.master ≠ .hb → 0x80000000 ≤ b.addr.toNat → b.addr.toNat < 0xF8000000 →
      s.flt.dead = [] → SMap.find s.bus.lock 8 = none → Does (.busBurst b) s fun t =>
        let a := b.addr.toNat / 16 * 16
        t.bus.lastResp = [0] ∧
          (∀ y, t.byte y = if a ≤ y ∧ y < a + 16 ∧ x.strobe.getLsbD (y - a) = true then x.data.extractLsb' (8 * (y - a)) 8 else s.byte y)) ∧
    (∀ (b : Burst) (x : Beat), b.beats = [x] → b.write = false → x.error = false → s.flt.dead = [] → s.ms.poisoned = [] →
      ((0x10000000 ≤ b.addr.toNat ∧ b.addr.toNat < 0x10200000 ∧ SMap.find s.bus.lock 1 = none) ∨
        (0x80000000 ≤ b.addr.toNat ∧ b.addr.toNat < 0xF8000000 ∧ b.master ≠ .hb ∧ SMap.find s.bus.lock 8 = none)) →
      Does (.busBurst b) s fun t =>
        t.bus.lastResp = [0] ∧ t.bus.lastData = s.bytes (b.addr.toNat / 16 * 16) 16 ∧ s.SameBytes t ∧ s.SameCoefs t) ∧
    (∀ b : Burst, b.beats ≠ [] → b.beats.length ≤ 16 → targetOf (s.burstAddr b) = none → Does (.busBurst b) s fun t =>
      t.bus.lastResp = List.replicate b.beats.length 2 ∧ t.isSet BUS_STATUS.rerr = true ∧ s.SameBytes t ∧ s.SameCoefs t) ∧
    (∀ (b : Burst) (x : Beat), b.beats = [x] → b.write = true → b.master = .hb → 0x10000000 ≤ b.addr.toNat → b.addr.toNat < 0x10100000 →
      SMap.find s.bus.lock 1 = none → Does (.busBurst b) s fun t =>
        t.bus.lastResp = [1] ∧ t.isSet BUS_STATUS.terr = true ∧ s.SameBytes t) ∧
    (∀ (m : Master) (w : Bool) (a : Word) (n : Fin 17), n.val ≠ 0 → s.bus.timeouts = [] → Does (.busTimeout m 8 w a n) s fun t =>
      t.isSet BUS_STATUS.timeout = true ∧ t.bus.lastResp = List.replicate n.val 1 ∧ t.bus.timeouts = [(8, s.cycle)] ∧ t.flt = s.flt ∧
        t.rd BUS_EVCNT.timeout = min (2 ^ BUS_EVCNT.timeout.width - 1) (s.rd BUS_EVCNT.timeout + 1) ∧ s.SameBytes t) ∧
    (∀ (m : Master) (w : Bool) (a : Word) (n : Fin 17), n.val ≠ 0 → s.bus.timeouts = [(9, s.cycle), (9, s.cycle)] → 0 < s.cyclesOfMs 60000 → s.flt.ladder = [] →
      Does (.busTimeout m 9 w a n) s fun t => 6 ∈ t.flt.inReset ∧ t.bus.timeouts = []) ∧
    (∀ (m : Master) (k : Fin 10) (a : Word), Does (.busAbandon m k a) s fun t =>
      t.isSet BUS_STATUS.abandon = true ∧
        t.rd BUS_LKCNT.abandon = min (2 ^ BUS_LKCNT.abandon.width - 1) (s.rd BUS_LKCNT.abandon + 1) ∧
        (∀ p ∈ t.bus.lock, p.2 % 32 ≠ m.id) ∧ s.OnlyLogged { t with bus := s.bus } [BUS_STATUS, BUS_LKCNT])

/-- A write stores the fields that software may set, clears the W1C bits it carries, and leaves read-only words alone; a locked field keeps its value and the refusal is flagged and logged; an address that holds no register changes nothing. A broadcast write reaches every unit of the range, a group write those that the group register selects. The shadow port stores into the shadow bank of an idle column, and nowhere else. -/
def Obligations.RegisterWrites : Prop :=
  ∀ s : State,
    (∀ v : Word, Does (.registerWrite .cp (BitVec.ofNat 32 ENG_MARGIN_WARN) v) s fun t =>
      t.rd ENG_MARGIN_WARN.warn = v.toNat % 2 ^ 20 ∧ s.OnlyRegs t [ENG_MARGIN_WARN]) ∧
    (∀ v : Word, Does (.registerWrite .cp (BitVec.ofNat 32 MEM_STATUS) v) s fun t =>
      (∀ i, i < 6 → (t.reg MEM_STATUS).getLsbD i = ((s.reg MEM_STATUS).getLsbD i && !v.getLsbD i)) ∧
        (∀ i, 6 ≤ i → (t.reg MEM_STATUS).getLsbD i = (s.reg MEM_STATUS).getLsbD i) ∧ s.OnlyRegs t [MEM_STATUS]) ∧
    (∀ v : Word, exec (.registerWrite .cp (BitVec.ofNat 32 PWR_MEAS0) v) s = .next s) ∧
    (∀ v : Word, exec (.registerWrite .cp 0x40000FF0 v) s = .next s) ∧
    (∀ v : Word, Does (.registerWrite .cp 0x4FFF0000 v) s fun t =>
      t.isSet BUS_STATUS.rerr = true ∧ t.reg BUS_ERR_ADDR = 0x4FFF0000 ∧ s.OnlyRegs t [BUS_STATUS, BUS_ERRCNT, BUS_ERR_LAST, BUS_ERR_ADDR]) ∧
    (∀ a v : Word, s.hbWrites (wordAddr a) = false → exec (.registerWrite .hb a v) s = .next { s with spi := { s.spi with err := true } }) ∧
    (∀ (n : Fin 8) (v : Word), s.synced = true → s.engineRuns = true → v.toNat % 64 ≠ (s.reg (ANA_OUT_CFG n.val)).toNat % 64 →
      Does (.registerWrite .hb (BitVec.ofNat 32 (ANA_OUT_CFG n.val)) v) s fun t =>
        t.reg (ANA_OUT_CFG n.val) = s.reg (ANA_OUT_CFG n.val) ∧ t.isSet (ANA_STATUS.wr_refused n.val) = true ∧
          s.OnlyLogged t [ANA_STATUS n.val]) ∧
    (∀ v : Word, Does (.broadcastAliasWrite .cp 0x40138010 v) s fun t =>
      (∀ n, n < 8 → t.reg (ANA_OUT_CFG n) &&& 0xFF3F = v &&& 0xFF3F) ∧ s.OnlyRegs t ((List.range 8).map ANA_OUT_CFG)) ∧
    (∀ v : Word, Does (.groupAliasWrite .cp 0x4013C010 v) s fun t =>
      (∀ n, n < 8 → (s.reg ANA_GRPSEL0).getLsbD n = true → t.reg (ANA_OUT_CFG n) &&& 0xFF3F = v &&& 0xFF3F) ∧
        (∀ n, n < 8 → (s.reg ANA_GRPSEL0).getLsbD n = false → t.reg (ANA_OUT_CFG n) = s.reg (ANA_OUT_CFG n)) ∧
        s.OnlyRegs t ((List.range 8).map ANA_OUT_CFG)) ∧
    (∀ (bank : Bool) (m n : Fin 1024) (w : Word), s.flt.dead = [] → s.inDusk 5 = false →
      (s.shadowOpen bank m.val = true →
        Does (.coefShadowWrite .cp (BitVec.ofNat 32 (0x30000000 + 4 * coefIdx bank m.val n.val)) [w]) s fun t =>
          (∀ b j k, j < 1024 → k < 1024 → t.gain b j k = if b = bank ∧ j = m.val ∧ k = n.val then w else s.gain b j k) ∧
            t = { s with coef := t.coef }) ∧
      (s.shadowOpen bank m.val = false →
        Does (.coefShadowWrite .cp (BitVec.ofNat 32 (0x30000000 + 4 * coefIdx bank m.val n.val)) [w]) s fun t =>
          t.isSet XPT_STATUS.wr_blocked = true ∧ s.SameCoefs t ∧ s.SameBytes t)) ∧
    (∀ (bank : Bool) (m : Fin 1024) (n : Fin 256) (w0 w1 w2 w3 : Word), s.flt.dead = [] → s.inDusk 5 = false → s.shadowOpen bank m.val = true →
      Does (.coefShadowWrite .mdma (BitVec.ofNat 32 (0x30000000 + 4 * coefIdx bank m.val (4 * n.val))) [w0, w1, w2, w3]) s fun t =>
        ∀ b j k, j < 1024 → k < 1024 → t.gain b j k =
          if b = bank ∧ j = m.val ∧ k / 4 = n.val then [w0, w1, w2, w3].getD (k % 4) 0 else s.gain b j k)

/-- A read of ready words returns the status byte and the bytes of the shared area and changes nothing but the port; outside its window or unaligned it answers all ones and sets err. A write fills the buffer if it is free, aligned and of at most 64 bytes, else it is discarded and sets err; the flush stores whole words and empties the buffer. RDID, RDSR and CLSR act on the port alone. RDSR shows rdy as a free value (no data follows). -/
def Obligations.HostPort : Prop :=
  ∀ s : State,
    (∀ (c : Word → BitVec 8 → Bool → Instr) (a : Word) (n : BitVec 8) (r : Bool), c ∈ [Instr.read, .readQ, .readQio] →
      (s.engineRuns = true → a.toNat % 4 = 0 → 0x10100000 ≤ a.toNat → a.toNat + 4 * n.toNat ≤ 0x10200000 → a.toNat < 0x10200000 →
        s.spi.latch = none → Does (c a n r) s fun t =>
          t.spi.out = s.statusByte true :: s.bytes a.toNat (4 * n.toNat) ∧ t = { s with spi := { s.spi with out := t.spi.out } }) ∧
      (a.toNat % 4 ≠ 0 ∨ s.hbReads a.toNat = false → Does (c a n r) s fun t =>
        t.spi.err = true ∧ t.spi.out.tail = List.replicate (4 * n.toNat) 0xFF ∧ t = { s with spi := t.spi })) ∧
    (∀ (c : Word → List Byte → Instr) (a : Word) (bs : List Byte), c ∈ [Instr.write, .writeQ, .writeQio] →
      (s.spi.wbuf = none → a.toNat % 4 = 0 → bs.length ≤ 64 →
        exec (c a bs) s = .next { s with spi := { s.spi with wbuf := some (a, bs) } }) ∧
      (s.spi.wbuf ≠ none ∨ a.toNat % 4 ≠ 0 ∨ 64 < bs.length → exec (c a bs) s = .next { s with spi := { s.spi with err := true } })) ∧
    (∀ (a : Word) (bs : List Byte), s.spi.wbuf = some (a, bs) → s.engineRuns = true → bs.length % 4 = 0 → 0x10100000 ≤ a.toNat →
      a.toNat + bs.length ≤ 0x10200000 → s.flt.dead = [] → Does .qspiWriteFlush s fun t =>
        (∀ x, t.byte x = if a.toNat ≤ x ∧ x < a.toNat + bs.length then bs.getD (x - a.toNat) 0 else s.byte x) ∧
          t.spi = { s.spi with wbuf := none }) ∧
    (s.spi.wbuf = none → exec .qspiWriteFlush s = .next s) ∧
    (Does .rdsr s fun t => ∃ r : Bool, t = { s with spi := { s.spi with out := [s.statusByte r] }, free := s.free + 1 }) ∧
    (exec .clsr s = .next { s with spi := { s.spi with err := false } }) ∧
    (exec .rdid s = .next { s with spi := { s.spi with out := bytesOfWord (s.reg SYS_ID) } })

/-- A key hash goes into an empty slot while JTAG is unlocked, and nowhere else; EXTEST and a debug halt are obeyed only in BOOT with BOOTSEL 10 and JTAG unlocked; BYPASS and IDCODE always. A commit of the staged alarm key forgets its replay state. A lockout's end clears its failures. A datagram on a closed port changes nothing, and a malformed one only counts. -/
def Obligations.KeysAndTap : Prop :=
  ∀ s : State,
    (∀ (k : Fin 3) (h : BitVec 256), s.isSet SEC_STATUS.jtag_locked = false → SMap.get (fun _ => (0 : BitVec 256)) s.sec.otp k.val = 0 →
      Does (.otpKey k h) s fun t =>
        SMap.get (fun _ => (0 : BitVec 256)) t.sec.otp k.val = h ∧
          (∀ j, j ≠ k.val → SMap.get (fun _ => (0 : BitVec 256)) t.sec.otp j = SMap.get (fun _ => (0 : BitVec 256)) s.sec.otp j) ∧
          t = { s with sec := { s.sec with otp := t.sec.otp } }) ∧
    (∀ (k : Fin 3) (h : BitVec 256), (s.isSet SEC_STATUS.jtag_locked = true ∨ SMap.get (fun _ => (0 : BitVec 256)) s.sec.otp k.val ≠ 0) →
      exec (.otpKey k h) s = .next s) ∧
    (s.isSet SEC_STATUS.jtag_locked = false → s.op = .boot → s.rd SYS_STATE.bootsel = 2 →
      exec .extest s = .next { s with spi := { s.spi with extest := true } } ∧
        exec .debugHalt s = .next { s with spi := { s.spi with halted := true } }) ∧
    ((s.isSet SEC_STATUS.jtag_locked = true ∨ s.op ≠ .boot ∨ s.rd SYS_STATE.bootsel ≠ 2) →
      exec .extest s = .next s ∧ exec .debugHalt s = .next s) ∧
    (exec .bypass s = .next { s with spi := { s.spi with extest := false } }) ∧
    (exec .idcode s = .next { s with spi := { s.spi with extest := false, tap := 0x1B024D3F } }) ∧
    (Does .secAkeyCommit s fun t =>
      t.sec.akey = some (bytesOfWords ((List.range 8).map (fun n => s.reg (SEC_AKEY n)))) ∧ 1 ∉ t.sec.seen ∧
        t.isSet SEC_STATUS.akey_set = true ∧ s.OnlyRegs { t with sec := s.sec } [SEC_STATUS]) ∧
    (Does .wpLockoutEnd s fun t =>
      t.isSet SEC_STATUS.wp_lockout = false ∧ t.sec = { s.sec with wpFails := [] } ∧ s.OnlyRegs { t with sec := s.sec } [SEC_STATUS]) ∧
    (∀ (b : Bool) (src : Word) (l : List Byte), s.isSet SEC_MGMT_CFG.en = false → exec (.mgmtDatagramReceived b src l) s = .next s) ∧
    (∀ (b : Bool) (src : Word) (l : List Byte), s.mgmtOpen b = true → l.length < 36 → Does (.mgmtDatagramReceived b src l) s fun t =>
      t.rd SEC_MGMT_CNT.auth = min (2 ^ SEC_MGMT_CNT.auth.width - 1) (s.rd SEC_MGMT_CNT.auth + 1) ∧ s.OnlyRegs t [SEC_MGMT_CNT])

/-- A ramp that is over leaves its column at the new bank; a COPY leaves the active bank's gains in the shadow bank of its column and touches no other gain; a window's end latches the mean square of every point; a full capture disarms; the fade-out half of a dip switches the source and fades in, the last ramp leaves the entry steady. An end that is not due changes nothing. -/
def Obligations.FabricEnds : Prop :=
  ∀ s : State,
    (∀ m : Fin 1024, (s.col m.val).rampLen ≠ 0 → (s.col m.val).rampLen ≤ since (s.cycle + 1) (s.col m.val).rampStart →
      Does (.xptRampEnd m) s fun t =>
        t.col m.val = { s.col m.val with rampStart := 0, rampLen := 0 } ∧ (∀ k, k ≠ m.val → t.col k = s.col k) ∧
          t = { s with xpt := { s.xpt with cols := t.xpt.cols } }) ∧
    (∀ m : Fin 1024, ((s.col m.val).rampLen = 0 ∨ since (s.cycle + 1) (s.col m.val).rampStart < (s.col m.val).rampLen) →
      exec (.xptRampEnd m) s = .next s) ∧
    (∀ m : Fin 1024, (s.col m.val).copying = true → s.Stored → s.flt.dead = [] → Does (.xptCopyDone m) s fun t =>
      (t.col m.val).copying = false ∧
        (∀ b j n, j < 1024 → n < 1024 → t.gain b j n = if j = m.val then s.gain (s.col m.val).bank j n else s.gain b j n) ∧
        t = { s with coef := t.coef, xpt := { s.xpt with cols := t.xpt.cols } }) ∧
    (∀ m : Fin 1024, (s.col m.val).copying = false → exec (.xptCopyDone m) s = .next s) ∧
    (s.xpt.mtrStarted = true → (s.cycle + 1).toNat % 2 ^ s.xpt.mtrWin = 0 → Does .meterWindowEnd s fun t =>
      (∀ i, i < 2048 → t.rd (PATCH_MTR_MS.ms i)
        = min (SMap.get (fun _ => 0) s.xpt.mtrAcc i / (s.blk * 2 ^ s.xpt.mtrWin) / 2 ^ 31) 0xFFFFFFFF) ∧
        t.xpt = { s.xpt with mtrStarted := false, mtrAcc := [] } ∧ s.OnlyRegs { t with xpt := s.xpt } ((List.range 2048).map PATCH_MTR_MS)) ∧
    ((s.xpt.mtrStarted = false ∨ (s.cycle + 1).toNat % 2 ^ s.xpt.mtrWin ≠ 0) → exec .meterWindowEnd s = .next s) ∧
    (∀ n : Fin 4, (s.cap n.val).armed = true → 512 ≤ (s.cap n.val).count → (s.cap n.val).owner = none → Does (.captureDone n) s fun t =>
      t.cap n.val = { s.cap n.val with armed := false, owner := none } ∧ t.rd (XPT_CAP_CFG.arm n.val) = 0 ∧
        (∀ k, k ≠ n.val → t.cap k = s.cap k) ∧ s.OnlyRegs { t with xpt := s.xpt } [XPT_CAP_CFG n.val]) ∧
    (∀ n : Fin 4, ((s.cap n.val).armed = false ∨ (s.cap n.val).count < 512) → exec (.captureDone n) s = .next s) ∧
    (∀ (k : Fin 2056) (v : Nat), (s.ent k.val).phase = .fadeOut → (s.ent k.val).ld ≤ since (s.cycle + 1) (s.ent k.val).start →
      (s.ent k.val).next = some (some v) → Does (.patchFadeOutEnd k) s fun t =>
        t.ent k.val = { s.ent k.val with sel := v, connected := true, next := none, phase := .fadeIn, start := s.cycle + 1 } ∧
          (∀ j, j ≠ k.val → t.ent j = s.ent j) ∧ t = { s with patch := { s.patch with ents := t.patch.ents } }) ∧
    (∀ k : Fin 2056, (s.ent k.val).phase = .fadeOut → (s.ent k.val).ld ≤ since (s.cycle + 1) (s.ent k.val).start →
      (s.ent k.val).next = some none → (s.ent k.val).owner = none → (s.ent k.val).held = none → Does (.patchFadeOutEnd k) s fun t =>
        t.ent k.val = { s.ent k.val with sel := 0, connected := false, phase := .steady, next := none, owner := none, held := none } ∧
          t = { s with patch := { s.patch with ents := t.patch.ents } }) ∧
    (∀ k : Fin 2056, (s.ent k.val).phase ≠ .fadeOut → exec (.patchFadeOutEnd k) s = .next s) ∧
    (∀ k : Fin 2056, (s.ent k.val).phase ≠ .fadeOut → (s.ent k.val).phase ≠ .steady →
      (s.ent k.val).ld ≤ since (s.cycle + 1) (s.ent k.val).start → (s.ent k.val).owner = none → (s.ent k.val).held = none →
      Does (.patchFadeEnd k) s fun t =>
        t.ent k.val = { s.ent k.val with phase := .steady, next := none, owner := none, held := none } ∧
          t = { s with patch := { s.patch with ents := t.patch.ents } }) ∧
    (∀ k : Fin 2056, ((s.ent k.val).phase = .fadeOut ∨ (s.ent k.val).phase = .steady) → exec (.patchFadeEnd k) s = .next s)

/-- A push appends the staged entry or request to its queue if it is valid and a place is free; a full queue or an invalid entry is discarded and flagged; a push of the host bridge in a synced pair is refused with a write-protect event. An idle capture buffer is armed from its start cycle, or from the next tick; an armed one is left alone. A changed window exponent gives up the running window; a peak clear waits for the next tick. -/
def Obligations.FabricPushes : Prop :=
  ∀ (s : State) (m : Master),
    (s.pairLocked m = true → (Does (.xptQpush m) s fun t => s.OnlyLogged t []) ∧ (Does (.patchPush m) s fun t => s.OnlyLogged t [])) ∧
    (s.pairLocked m = false → s.rd XPT_QENT1.op ≤ 1 → s.rd XPT_QENT1.scope ≤ 2 → (s.rd XPT_QENT1.scope ≠ 1 ∨ s.rd XPT_QENT1.target < 64) →
      (s.xpt.queue.length < 32 → exec (.xptQpush m) s = .next { s with xpt := { s.xpt with queue := s.xpt.queue ++
        [⟨s.reg XPT_QENT0, s.rd XPT_QENT1.op, s.rd XPT_QENT1.scope, s.rd XPT_QENT1.target, s.rd XPT_QENT1.ramp + 1, none⟩] } }) ∧
      (32 ≤ s.xpt.queue.length → Does (.xptQpush m) s fun t => t.isSet XPT_STATUS.q_full = true ∧ s.OnlyRegs t [XPT_STATUS])) ∧
    (s.pairLocked m = false → (1 < s.rd XPT_QENT1.op ∨ 2 < s.rd XPT_QENT1.scope ∨ (s.rd XPT_QENT1.scope = 1 ∧ 64 ≤ s.rd XPT_QENT1.target)) → Does (.xptQpush m) s fun t =>
      t.isSet XPT_STATUS.bad_entry = true ∧ s.OnlyRegs t [XPT_STATUS]) ∧
    (s.pairLocked m = false → validReq (s.rd PATCH_REQ1.op) (s.rd PATCH_REQ1.entry) (s.rd PATCH_REQ2.value) = true →
      s.patchProtected (s.rd PATCH_REQ1.op) (s.rd PATCH_REQ1.entry) = false →
      (s.patch.queue.length < 64 → exec (.patchPush m) s = .next { s with patch := { s.patch with queue := s.patch.queue ++
        [⟨s.reg PATCH_REQ0, s.rd PATCH_REQ1.op, s.rd PATCH_REQ1.ld + 1, s.rd PATCH_REQ1.entry, s.rd PATCH_REQ2.value, none, none⟩] } }) ∧
      (64 ≤ s.patch.queue.length → Does (.patchPush m) s fun t => t.isSet PATCH_STATUS.q_full = true ∧ s.OnlyRegs t [PATCH_STATUS])) ∧
    (s.pairLocked m = false → (validReq (s.rd PATCH_REQ1.op) (s.rd PATCH_REQ1.entry) (s.rd PATCH_REQ2.value) = false ∨
        s.patchProtected (s.rd PATCH_REQ1.op) (s.rd PATCH_REQ1.entry) = true) → Does (.patchPush m) s fun t =>
      t.isSet PATCH_STATUS.bad_req = true ∧ s.OnlyRegs t [PATCH_STATUS]) ∧
    (∀ n : Fin 4, (s.cap n.val).armed = false → Does (.xptCapArm n) s fun t =>
      t.cap n.val = ⟨true, if later32 (s.reg (XPT_CAP_START n.val)) s.cycle then s.reg (XPT_CAP_START n.val) else s.cycle + 1, 0, none⟩ ∧
        t.rd (XPT_CAP_CFG.arm n.val) = 1 ∧ (∀ k, k ≠ n.val → t.cap k = s.cap k) ∧ s.OnlyRegs { t with xpt := s.xpt } [XPT_CAP_CFG n.val]) ∧
    (∀ n : Fin 4, (s.cap n.val).armed = true → exec (.xptCapArm n) s = .next s) ∧
    (exec .patchMtrClr s = .next { s with xpt := { s.xpt with peakClr := true } }) ∧
    (∀ w : BitVec 4, s.rd PATCH_MTR_CFG.win ≠ w.toNat → Does (.patchMtrCfgWrite w) s fun t =>
      t.rd PATCH_MTR_CFG.win = w.toNat ∧ t.xpt = { s.xpt with mtrStarted := false, mtrAcc := [] } ∧
        s.OnlyRegs { t with xpt := s.xpt } [PATCH_MTR_CFG]) ∧
    (∀ w : BitVec 4, s.rd PATCH_MTR_CFG.win = w.toNat → exec (.patchMtrCfgWrite w) s = .next s)

/-- A trigger that is due asserts for the next tick and takes every column that its group covers and nothing holds, each with a ramp of its length; a due release lets its columns go into a release ramp. A forcing ramp's end leaves the holder's gains, a release ramp's end frees the column. A change that is not due changes nothing. Both copies bad is a fault condition, one bad copy is repaired. -/
def Obligations.TriggersAndRamps : Prop :=
  ∀ s : State,
    (∀ (k : Fin 64) (a : Word) (r : List (Word × Bool)), (s.trig k.val).sched = (a, true) :: r → later32 a (s.cycle + 1) = false →
      s.tPlayEn k.val = false → s.tGenEn k.val = false → (∀ o ∈ s.q.outst, o.cmd.op ≠ 0x0703) → Does (.triggerAssertion k) s fun t =>
        t.trig k.val = { s.trig k.val with asserted := true, since := s.cycle + 1, sched := r } ∧
          (∀ j, j ≠ k.val → t.trig j = s.trig j) ∧
          ((∀ j, j < 64 → (s.trig j).asserted = false) → ∀ m, m < 1024 → s.covers k.val m = true → (s.ocol m).holder = none →
            (t.ocol m).holder = some k.val ∧ (t.ocol m).releasing = none ∧ (t.ocol m).start = s.cycle + 1 ∧ (t.ocol m).len = s.tLen k.val) ∧
          (∀ m, m < 1024 → s.covers k.val m = false → t.ocol m = s.ocol m) ∧ s.SameCoefs t) ∧
    (∀ k : Fin 64, s.trigDue k.val true = false → exec (.triggerAssertion k) s = .next s) ∧
    (∀ (k : Fin 64) (a : Word) (r : List (Word × Bool)), (s.trig k.val).sched = (a, false) :: r → later32 a (s.cycle + 1) = false →
      s.tRelStop k.val = false → Does (.triggerRelease k) s fun t =>
        t.trig k.val = { s.trig k.val with asserted := false, sched := r, genOn := false } ∧ (∀ j, j ≠ k.val → t.trig j = s.trig j) ∧
          ((∀ j, j < 64 → j ≠ k.val → (s.trig j).asserted = false) → ∀ m, m < 1024 → s.covers k.val m = true →
            (s.ocol m).holder = some k.val →
            (t.ocol m).holder = none ∧ (t.ocol m).releasing = some k.val ∧ (t.ocol m).start = s.cycle + 1 ∧ (t.ocol m).len = s.tLen k.val) ∧
          s.SameCoefs t) ∧
    (∀ k : Fin 64, s.trigDue k.val false = false → exec (.triggerRelease k) s = .next s) ∧
    (∀ m : Fin 1024, (s.ocol m.val).holder.isSome = true → (s.ocol m.val).len ≠ 0 →
      (s.ocol m.val).len ≤ since (s.cycle + 1) (s.ocol m.val).start → Does (.ovrForceRampEnd m) s fun t =>
        t.ocol m.val = { s.ocol m.val with len := 0, fromG := [] } ∧ (∀ k, k ≠ m.val → t.ocol k = s.ocol k) ∧
          t = { s with ovr := { s.ovr with cols := t.ovr.cols } }) ∧
    (∀ m : Fin 1024, ((s.ocol m.val).holder = none ∨ (s.ocol m.val).len = 0 ∨ since (s.cycle + 1) (s.ocol m.val).start < (s.ocol m.val).len) →
      exec (.ovrForceRampEnd m) s = .next s) ∧
    (∀ m : Fin 1024, (s.ocol m.val).releasing.isSome = true → (s.ocol m.val).len ≤ since (s.cycle + 1) (s.ocol m.val).start →
      (s.ocol m.val).sinks = [] → Does (.ovrReleaseRampEnd m) s fun t =>
        t.ocol m.val = ⟨none, none, 0, 0, [], []⟩ ∧ (∀ k, k ≠ m.val → t.ocol k = s.ocol k) ∧
          t = { s with ovr := { s.ovr with cols := t.ovr.cols } }) ∧
    (∀ m : Fin 1024, ((s.ocol m.val).releasing = none ∨ since (s.cycle + 1) (s.ocol m.val).start < (s.ocol m.val).len) →
      exec (.ovrReleaseRampEnd m) s = .next s) ∧
    (Does (.ovrCrcCheck true true) s fun t => t.isSet OVR_STATUS.both_bad = true ∧ (13, 0) ∈ t.flt.conds ∧ s.SameBytes t) ∧
    (∀ b : Bool, Does (.ovrCrcCheck b (!b)) s fun t => t.isSet OVR_STATUS.repaired = true ∧ s.SameBytes t) ∧
    (exec (.ovrCrcCheck false false) s = .next s)

/-- The key arms the plane with a fresh challenge, a free value of 16 bits; a wrong key is a failure, the third within 10 s locks arming until the lockout's end; an arm that expires is flagged and ends. A commit with the right response, no asserted alarm trigger, good entries and the right CRC waits for its tick; every other ends the arm with its own flag. At its tick the staging table is the live table, OVR_GEN counts it, and the plane is no longer armed. -/
def Obligations.ArmAndCommit : Prop :=
  ∀ s : State,
    (∀ m : Master, s.pairLocked m = true →
      (∀ k, Does (.ovrArmWrite m k) s fun t => s.OnlyLogged t []) ∧ (∀ k, Does (.ovrCommitWrite m k) s fun t => s.OnlyLogged t [])) ∧
    (∀ m : Master, s.pairLocked m = false → s.isSet OVR_STATUS.key_lockout = false → s.isSet OVR_STATUS.commit_pend = false →
      Does (.ovrArmWrite m 0xA1A5) s fun t =>
        t.isSet OVR_STATUS.armed = true ∧ t.rd OVR_ARM.chal = (Config.freeValue s.free).toNat % 65536 ∧
          s.RegsBut t [OVR_STATUS, OVR_ARM] ∧
          t = { s with regs := t.regs, free := s.free + 1, ovr := { s.ovr with armedAt := s.cycle } }) ∧
    (∀ (m : Master) (k : BitVec 16), s.pairLocked m = false → s.isSet OVR_STATUS.key_lockout = false → k ≠ 0xA1A5 →
      ((s.ovr.keyFails.filter (fun c => since s.cycle c ≤ s.cyclesOfMs 10000)).length < 2 → Does (.ovrArmWrite m k) s fun t =>
        t.isSet OVR_STATUS.key_fail = true ∧ t.isSet OVR_STATUS.key_lockout = false ∧ t.isSet OVR_STATUS.armed = s.isSet OVR_STATUS.armed ∧
          s.OnlyLogged { t with ovr := s.ovr } [OVR_STATUS]) ∧
      (2 ≤ (s.ovr.keyFails.filter (fun c => since s.cycle c ≤ s.cyclesOfMs 10000)).length → Does (.ovrArmWrite m k) s fun t =>
        t.isSet OVR_STATUS.key_fail = true ∧ t.isSet OVR_STATUS.key_lockout = true ∧ t.ovr = { s.ovr with keyFails := [] } ∧
          s.OnlyLogged { t with ovr := s.ovr } [OVR_STATUS])) ∧
    (∀ (m : Master) (k : BitVec 16), s.pairLocked m = false → s.isSet OVR_STATUS.key_lockout = true → exec (.ovrArmWrite m k) s = .next s) ∧
    (s.isSet OVR_STATUS.armed = true → s.isSet OVR_STATUS.commit_pend = false → Does .ovrArmExpiry s fun t =>
      t.isSet OVR_STATUS.armed = false ∧ t.isSet OVR_STATUS.expired = true ∧ t.rd OVR_ARM.chal = 0 ∧ s.OnlyLogged t [OVR_STATUS, OVR_ARM]) ∧
    ((s.isSet OVR_STATUS.armed = false ∨ s.isSet OVR_STATUS.commit_pend = true) → exec .ovrArmExpiry s = .next s) ∧
    (Does .ovrKeyLockoutEnd s fun t => t.isSet OVR_STATUS.key_lockout = false ∧ s.OnlyRegs t [OVR_STATUS]) ∧
    (∀ (m : Master) (k : BitVec 16), s.pairLocked m = false → s.isSet OVR_STATUS.commit_pend = false → s.isSet OVR_STATUS.armed = true →
      (k.toNat ≠ (s.rd OVR_ARM.chal).xor 0x5A5A → Does (.ovrCommitWrite m k) s fun t =>
        t.isSet OVR_STATUS.armed = false ∧ t.isSet OVR_STATUS.key_fail = true ∧ t.ovr.commitAt = s.ovr.commitAt) ∧
      (Does (.ovrCommitWrite m k) s fun t =>
        match s.commitCheck k (s.reg OVR_CRC) with
        | .badResp => t.isSet OVR_STATUS.armed = false ∧ t.isSet OVR_STATUS.key_fail = true
        | .busy => t.isSet OVR_STATUS.armed = false ∧ t.isSet OVR_STATUS.refused_busy = true ∧ s.OnlyLogged t [OVR_STATUS, OVR_ARM]
        | .entry _ => t.isSet OVR_STATUS.armed = false ∧ t.isSet OVR_STATUS.bad_entry = true ∧ s.OnlyLogged t [OVR_STATUS, OVR_ARM]
        | .crc => t.isSet OVR_STATUS.armed = false ∧ t.isSet OVR_STATUS.crc_fail = true ∧ s.OnlyLogged t [OVR_STATUS, OVR_ARM]
        | .pass => t.isSet OVR_STATUS.commit_pend = true ∧ s.OnlyRegs { t with ovr := s.ovr } [OVR_STATUS] ∧
            t.ovr = { s.ovr with commitAt := some (s.actionCycle (s.reg OVR_COMMIT_APPLY)), commitBy := none })) ∧
    (∀ (m : Master) (k : BitVec 16), s.pairLocked m = false → s.isSet OVR_STATUS.commit_pend = false → s.isSet OVR_STATUS.armed = false →
      exec (.ovrCommitWrite m k) s = .next s) ∧
    (∀ a : Word, s.ovr.commitAt = some a → later32 a (s.cycle + 1) = false → s.ovr.commitBy = none → Does .ovrCommitTakeEffect s fun t =>
      t.isSet OVR_STATUS.armed = false ∧ t.isSet OVR_STATUS.commit_pend = false ∧ t.ovr.commitAt = none ∧
        t.rd OVR_GEN.count = (s.rd OVR_GEN.count + 1) % 2 ^ OVR_GEN.count.width ∧
        (∀ k j, k < 64 → j < 16 → t.live k j = s.reg (ovrStageAddr k j)) ∧
        (∀ g w, g < 64 → w < 32 → t.reg (OVR_LMASK g w) = s.reg (OVR_SMASK g w)) ∧ t.reg OVR_LIVE_CRC = s.stagingCrc) ∧
    ((s.ovr.commitAt = none ∨ ∃ a, s.ovr.commitAt = some a ∧ later32 a (s.cycle + 1) = true) → exec .ovrCommitTakeEffect s = .next s)

/-- At A + Ld of a dip every quad runs as bypass; at the switch tick the new image is the running one, a dip whose load is not done is given up; the completion ends the activation and releases the old image. A restart tick loads the image of the slot afresh and then runs as a tick with nothing captured. A copy that ends leaves the shadow bank clean and equal to the active one. A step that is not due changes nothing; a job that is done is no longer in the list. -/
def Obligations.ImageSteps : Prop :=
  ∀ s : State,
    (∀ x : Activation, s.img.act = some x → x.bypassDue (s.cycle + 1) = true → Does .imgDipBypass s fun t =>
      t.img.allBypass = true ∧ t.img.act = some { x with loaded := true } ∧ t.img.running = s.img.running ∧
        (∀ k q, SMap.find t.img.quads k = some q → q.prog = false) ∧ t = { s with mem := t.mem, img := t.img }) ∧
    (∀ (x : Activation) (old : Image) (b : Bool), s.img.act = some x → x.switchDue (s.cycle + 1) = true → (x.mode = .dip → b = true) →
      s.img.running = some old → Does (.imgSwitchTick b) s fun t =>
        match s.slotImage x.slot with
        | some new =>
          t.img.running = some new ∧ t.img.oldImage = some old ∧ t.img.runSlot = x.slot ∧ t.img.act = some { x with switched := true } ∧
            t.img.allBypass = false ∧ t.rd ENG_MARGIN_WARN.warn = coreCycles new.b new.fi / 20 % 2 ^ ENG_MARGIN_WARN.warn.width ∧ s.SameCoefs t
        | none => t = s) ∧
    (∀ x : Activation, s.img.act = some x → x.switchDue (s.cycle + 1) = true → x.mode = .dip → Does (.imgSwitchTick false) s fun t =>
      t.img = { s.img with act := none, dipSinks := [] } ∧ s.SameCoefs t) ∧
    (∀ x : Activation, s.img.act = some x → x.completeDue (s.cycle + 1) = true →
      (Does .imgActivateComplete s fun t => t.img = { s.img with act := none, oldImage := none } ∧ s.SameCoefs t) ∧
      (x.owner = none → exec .imgActivateComplete s = .next { s with img := { s.img with act := none, oldImage := none } })) ∧
    ((s.img.act = none ∨ ∃ x, s.img.act = some x ∧ x.bypassDue (s.cycle + 1) = false) → exec .imgDipBypass s = .next s) ∧
    (∀ b : Bool, (s.img.act = none ∨ ∃ x, s.img.act = some x ∧ x.switchDue (s.cycle + 1) = false) → exec (.imgSwitchTick b) s = .next s) ∧
    ((s.img.act = none ∨ ∃ x, s.img.act = some x ∧ x.completeDue (s.cycle + 1) = false) → exec .imgActivateComplete s = .next s) ∧
    (∀ x : Activation, s.img.act = some x → s.tickStopped = true → s.engineRuns = true → x.owner = none →
      match s.slotImage x.slot with
      | some im => ∃ u : State, exec .imgRestartTick s = .next (u.clearSent.tickFrom u.op [] [] [] [] 0) ∧
          u.img.running = some im ∧ u.img.runSlot = x.slot ∧ u.img.act = none ∧ u.img.oldImage = none ∧ u.img.allBypass = false ∧
            u.cycle = s.cycle ∧ u.op = s.op
      | none => exec .imgRestartTick s = .next s) ∧
    ((s.img.act = none ∨ s.tickStopped = false ∨ s.engineRuns = false) → exec .imgRestartTick s = .next s) ∧
    (∀ (o : Bool) (k : Fin 256) (q : Quad) (im : Image), SMap.find s.img.quads (b2n o * 256 + k.val) = some q → s.img.running = some im →
      q.shadow = .syncing → q.owner = none → Does (.paramSyncDone o k) s fun t =>
        SMap.find t.img.quads (b2n o * 256 + k.val) = some { q with shadow := .clean, owner := none } ∧
          (∀ j, j ≠ b2n o * 256 + k.val → SMap.find t.img.quads j = SMap.find s.img.quads j) ∧
          t = { s with mem := t.mem, img := { s.img with quads := t.img.quads } }) ∧
    (∀ (o : Bool) (k : Fin 256) (q : Quad), SMap.find s.img.quads (b2n o * 256 + k.val) = some q → q.shadow ≠ .syncing →
      exec (.paramSyncDone o k) s = .next s) ∧
    (∀ (r : Fin 16) (g : BitVec 16), (s.cpDown = true ∨ ∀ j ∈ s.q.jobs, ¬(j.cmd.ring = r ∧ j.cmd.tag = g)) →
      exec (.backgroundJobDone r g) s = .next s) ∧
    (∀ (r : Fin 16) (g : BitVec 16) (j : Job), s.cpDown = false → s.q.jobs.find? (fun j => j.cmd.ring = r && j.cmd.tag = g) = some j →
      Does (.backgroundJobDone r g) s fun t => ∀ k ∈ t.q.jobs, k.cmd.ref ≠ j.cmd.ref)

/-- A start or stop waits for its tick; a stopped channel whose configuration cannot run takes no start. Settling ends in RUNNING, a stop in STOPPED with nothing scheduled. A full window gives its weighted sum, rounded and limited to 24 bits, a saturation is counted; a strobe that meets a running window sets abort. A FIFO read takes the oldest word, of an empty FIFO it reads 0. -/
def Obligations.DecimationRows : Prop :=
  ∀ (s : State) (n : Fin 40),
    (∀ m : Master, s.gated (DEC_CTRL n.val) = false → s.pairLocked m = false →
      (exec (.decStop m n) s = .next (s.setDch n.val { s.dch n.val with
        stops := (s.dch n.val).stops ++ [(s.actionCycle (s.reg (DEC_APPLY n.val)), none)] })) ∧
      ((s.decState n.val ≠ 0 ∨ s.decRefusal n.val = none) → exec (.decStart m n) s = .next (s.setDch n.val { s.dch n.val with
        starts := (s.dch n.val).starts ++ [(s.actionCycle (s.reg (DEC_APPLY n.val)), none)] })) ∧
      (s.decState n.val = 0 → s.decRefusal n.val = some stBadParam → Does (.decStart m n) s fun t =>
        t.isSet (DEC_STATUS.cfg_bad n.val) = true ∧ s.OnlyRegs t [DEC_STATUS n.val]) ∧
      (s.decState n.val = 0 → s.decRefusal n.val = some stBadSequence → exec (.decStart m n) s = .next s)) ∧
    (∀ m : Master, s.gated (DEC_CTRL n.val) = false → s.pairLocked m = true →
      (Does (.decStart m n) s fun t => t.isSet (DEC_STATUS.wr_refused n.val) = true ∧ s.OnlyLogged t [DEC_STATUS n.val]) ∧
      (Does (.decStop m n) s fun t => t.isSet (DEC_STATUS.wr_refused n.val) = true ∧ s.OnlyLogged t [DEC_STATUS n.val])) ∧
    (s.decSettleDue n.val (s.cycle + 1) = true → (s.dch n.val).owner = none → Does (.decSettleEnd n) s fun t =>
      t.decState n.val = 2 ∧ s.OnlyRegs t [DEC_STATUS n.val]) ∧
    (s.decSettleDue n.val (s.cycle + 1) = false → exec (.decSettleEnd n) s = .next s) ∧
    (s.decStopDue n.val (s.cycle + 1) = true → Does (.decStopEnd n) s fun t =>
      t.decState n.val = 0 ∧ t.reg (DEC_GD n.val) = 0 ∧ (∀ k, k ≠ n.val → t.dch k = s.dch k) ∧ s.SameCoefs t ∧
        t.dch n.val = { s.dch n.val with owner := none, quitting := false, win := false, starts := [], stops := [], out := 0 }) ∧
    (s.decStopDue n.val (s.cycle + 1) = false → exec (.decStopEnd n) s = .next s) ∧
    (∀ bits : List Bool,
      let w := s.decN n.val * s.decR n.val
      let y := windowOut (s.decN n.val) (3 + s.rd (DEC_CFG.ratio n.val)) (windowSum (boxCoeffs (s.decR n.val) (s.decN n.val)) (bits.drop (bits.length - w)))
      (s.decScs n.val = true → s.decState n.val ≠ 0 → w ≤ bits.length → Does (.decWindowEnd n bits) s fun t =>
        (t.dch n.val).out = BitVec.ofInt 24 y.1 ∧ (t.dch n.val).win = false ∧
          (y.2 = true → t.isSet (DEC_STATUS.sat n.val) = true ∧ t.rd (DEC_SAT.count n.val) = min (2 ^ (DEC_SAT.count n.val).width - 1) (s.rd (DEC_SAT.count n.val) + 1)) ∧
          (y.2 = false → t.rd (DEC_SAT.count n.val) = s.rd (DEC_SAT.count n.val)) ∧
          (s.isSet (DEC_CFG.fifo_en n.val) = true → (s.dch n.val).fifo.length < 256 →
            (t.dch n.val).fifo = (s.dch n.val).fifo ++ [BitVec.ofNat 32 (b2n (2 ≤ s.decState n.val) * 2 ^ 31 + (BitVec.ofInt 24 y.1).toNat)]) ∧
          (s.isSet (DEC_CFG.fifo_en n.val) = true → 256 ≤ (s.dch n.val).fifo.length →
            (t.dch n.val).fifo = (s.dch n.val).fifo ∧ t.isSet (DEC_STATUS.fifo_ovf n.val) = true) ∧
          s.OnlyRegs { t with dec := s.dec } [DEC_STATUS n.val, DEC_SAT n.val] ∧ (∀ k, k ≠ n.val → t.dch k = s.dch k)) ∧
      ((s.decScs n.val = false ∨ s.decState n.val = 0 ∨ bits.length < w) → exec (.decWindowEnd n bits) s = .next s)) ∧
    (s.decScs n.val = true → s.decState n.val ≠ 0 → s.rd (DEC_STROBE.src n.val) ≠ 0 → Does (.decStrobe n) s fun t =>
      (t.dch n.val).win = true ∧ ((s.dch n.val).win = true → t.isSet (DEC_STATUS.abort n.val) = true) ∧
        s.OnlyRegs { t with dec := s.dec } [DEC_STATUS n.val] ∧ (∀ k, k ≠ n.val → t.dch k = s.dch k)) ∧
    ((s.decScs n.val = false ∨ s.decState n.val = 0 ∨ s.rd (DEC_STROBE.src n.val) = 0) → exec (.decStrobe n) s = .next s) ∧
    (∀ k : Fin 4, bitOf (s.tmrWord k.val) 31 = true → Does (.decTimerStrobe k) s fun t =>
      t.tmrWord k.val = s.reg (DEC_TMR k.val) ∧
        (s.decScs n.val = true → s.decState n.val ≠ 0 → s.rd (DEC_STROBE.src n.val) = 2 → s.rd (DEC_STROBE.timer n.val) = k.val →
          (t.dch n.val).win = true) ∧
        (¬(s.rd (DEC_STROBE.src n.val) = 2 ∧ s.rd (DEC_STROBE.timer n.val) = k.val) → t.dch n.val = s.dch n.val) ∧
        s.OnlyRegs { t with dec := s.dec } ((List.range 40).map DEC_STATUS)) ∧
    (∀ k : Fin 4, bitOf (s.tmrWord k.val) 31 = false → exec (.decTimerStrobe k) s = .next s) ∧
    (s.gated (DEC_FIFO n.val) = false → Does (.decFifoRead n) s fun t =>
      t.lastRead = (s.dch n.val).fifo.headD 0 ∧ t.dch n.val = { s.dch n.val with fifo := (s.dch n.val).fifo.tail } ∧
        (∀ k, k ≠ n.val → t.dch k = s.dch k) ∧ t = { s with dec := { s.dec with chans := t.dec.chans }, lastRead := t.lastRead }) ∧
    (s.gated (DEC_FIFO n.val) = true → Does (.decFifoRead n) s fun t =>
      t.lastRead = 0 ∧ t.isSet BUS_STATUS.unavail = true ∧ s.OnlyLogged { t with lastRead := s.lastRead } [BUS_STATUS, BUS_EVCNT])

/-- A claimed tracker in the state an event is about takes the event's state and ratio with the next tick: edges bring IDLE to ACQUIRE, a lock ACQUIRE to LOCKED, a loss of edges or a jump of the ratio LOCKED back to ACQUIRE, a loss in RANGE to IDLE, a ratio out of range ACQUIRE or LOCKED to RANGE, its return RANGE to ACQUIRE. In any other state, or unclaimed, the event changes nothing. -/
def Obligations.TrackerRows : Prop :=
  ∀ (s : State) (k : Fin 64) (w : Word),
    let goes (i : Instr) (st : Nat) (v : Word) : Prop := Does i s fun t =>
      t.track k.val = { s.track k.val with next := some (st, v) } ∧ (∀ j, j ≠ k.val → t.track j = s.track j) ∧
        t = { s with dec := { s.dec with tracks := t.dec.tracks } }
    (s.trkClaimed k.val = true →
      (s.trkState k.val = 0 → goes (.trackerEdgesSeen k w) 1 w) ∧
      (s.trkState k.val = 1 → goes (.trackerLock k w) 2 w) ∧
      (s.trkState k.val = 2 → goes (.trackerEdgeLoss k) 1 (s.reg (ASRC_TRK_RATIO k.val)) ∧ goes (.trackerRatioJump k w) 1 w) ∧
      (s.trkState k.val = 3 → goes (.trackerEdgeLoss k) 0 (s.reg (ASRC_TRK_RATIO k.val)) ∧ goes (.trackerRangeExit k w) 1 w) ∧
      ((s.trkState k.val = 1 ∨ s.trkState k.val = 2) → goes (.trackerRange k w) 3 w)) ∧
    ((s.trkClaimed k.val = false ∨ s.trkState k.val ≠ 0) → exec (.trackerEdgesSeen k w) s = .next s) ∧
    ((s.trkClaimed k.val = false ∨ s.trkState k.val ≠ 1) → exec (.trackerLock k w) s = .next s) ∧
    ((s.trkClaimed k.val = false ∨ s.trkState k.val < 2) → exec (.trackerEdgeLoss k) s = .next s) ∧
    ((s.trkClaimed k.val = false ∨ s.trkState k.val ≠ 2) → exec (.trackerRatioJump k w) s = .next s) ∧
    ((s.trkClaimed k.val = false ∨ s.trkState k.val ≠ 3) → exec (.trackerRangeExit k w) s = .next s) ∧
    ((s.trkClaimed k.val = false ∨ s.trkState k.val = 0 ∨ s.trkState k.val = 3) → exec (.trackerRange k w) s = .next s)

/-- A start, stop, mute or unmute waits for its tick. At the data tick a port is RUNNING, a privileged one OPENING; at the end of LEAD-OUT it is STOPPED with nothing scheduled. A mask commit acts at once on a STOPPED port and else at the next frame boundary. A waiting slot gate changes at the first crossing, or by a ramp at the timeout. A frame alignment of a slave sets its slack and, while clocking, starts its lead-in. -/
def Obligations.PortActions : Prop :=
  ∀ (s : State) (n : Fin 16),
    (∀ m : Master, s.gated (SP_CTRL n.val) = false → s.pairLocked m = false →
      let a := s.actionCycle (s.reg (SP_APPLY n.val))
      exec (.spStart m n) s = .next (s.setPort n.val { s.port n.val with starts := (s.port n.val).starts ++ [(a, none)] }) ∧
        exec (.spStop m n) s = .next (s.setPort n.val { s.port n.val with stops := (s.port n.val).stops ++ [(a, none)] }) ∧
        exec (.spMute m n) s = .next (s.setPort n.val { s.port n.val with mutes := (s.port n.val).mutes ++ [(a, true, none)] }) ∧
        exec (.spUnmute m n) s = .next (s.setPort n.val { s.port n.val with mutes := (s.port n.val).mutes ++ [(a, false, none)] }) ∧
        (s.spState n.val = 0 → Does (.spMaskCommit m n) s fun t =>
          t.reg (SP_TXMASK_ACT n.val) = s.reg (SP_TXMASK n.val) ∧ t.reg (SP_RXMASK_ACT n.val) = s.reg (SP_RXMASK n.val) ∧
            s.OnlyRegs t [SP_TXMASK_ACT n.val, SP_RXMASK_ACT n.val]) ∧
        (s.spState n.val ≠ 0 → (s.port n.val).maskOwner = none → Does (.spMaskCommit m n) s fun t =>
          (t.port n.val).masks = some (s.reg (SP_TXMASK n.val), s.reg (SP_RXMASK n.val)) ∧ t.isSet (SP_STATUS.commit_pend n.val) = true ∧
            s.OnlyRegs { t with sp := s.sp } [SP_STATUS n.val])) ∧
    (∀ m : Master, s.gated (SP_CTRL n.val) = false → s.pairLocked m = true → ∀ i ∈ [Instr.spStart m n, .spStop m n, .spMute m n, .spUnmute m n, .spMaskCommit m n],
      Does i s fun t => t.isSet (SP_STATUS.wr_refused n.val) = true ∧ s.OnlyLogged t [SP_STATUS n.val]) ∧
    (∀ tx rx : Word, (s.port n.val).masks = some (tx, rx) → s.spState n.val ≠ 6 → (s.port n.val).maskOwner = none → Does (.spMaskTakeEffect n) s fun t =>
      t.reg (SP_TXMASK_ACT n.val) = tx ∧ t.reg (SP_RXMASK_ACT n.val) = rx ∧ t.isSet (SP_STATUS.commit_pend n.val) = false ∧
        (t.port n.val).masks = none ∧ s.OnlyRegs { t with sp := s.sp } [SP_TXMASK_ACT n.val, SP_RXMASK_ACT n.val, SP_STATUS n.val]) ∧
    (((s.port n.val).masks = none ∨ s.spState n.val = 6) → exec (.spMaskTakeEffect n) s = .next s) ∧
    (s.spDataDue n.val (s.cycle + 1) = true → Does (.spDataTick n) s fun t =>
      t.spState n.val = (if s.spPriv n.val then 2 else 3) ∧
        t.port n.val = { s.port n.val with dataTick := some (s.cycle + 1), rampIn := some (s.cycle + 1) } ∧
        s.OnlyRegs { t with sp := s.sp } [SP_STATUS n.val] ∧ ∀ k, k ≠ n.val → t.port k = s.port k) ∧
    (s.spDataDue n.val (s.cycle + 1) = false → exec (.spDataTick n) s = .next s) ∧
    (s.spLeadDue n.val (s.cycle + 1) = true → Does (.spLeadOutEnd n) s fun t =>
      t.spState n.val = 0 ∧ t.isSet (SP_STATUS.commit_pend n.val) = false ∧ (t.port n.val).starts = [] ∧ (t.port n.val).stops = [] ∧
        (t.port n.val).mutes = [] ∧ (t.port n.val).masks = none ∧ (t.port n.val).owner = none ∧ (∀ k, k ≠ n.val → t.port k = s.port k) ∧
        (∀ tx rx, (s.port n.val).masks = some (tx, rx) → (s.port n.val).maskOwner = none →
          t.reg (SP_TXMASK_ACT n.val) = tx ∧ t.reg (SP_RXMASK_ACT n.val) = rx) ∧ s.SameCoefs t) ∧
    (s.spLeadDue n.val (s.cycle + 1) = false → exec (.spLeadOutEnd n) s = .next s) ∧
    (∀ sl pos : Fin 32, sl.val ∈ s.spWait n.val → pos.val < s.blk → s.crossingAt (spSink n.val sl.val) pos.val = true → Does (.spSlotCrossing n sl pos) s fun t =>
      (t.port n.val).gate sl.val = ⟨s.spWantOpen n.val, s.cycle, pos.val, false⟩ ∧
        (∀ j, j ≠ sl.val → (t.port n.val).gate j = (s.port n.val).gate j) ∧ (∀ k, k ≠ n.val → t.port k = s.port k) ∧ t = { s with sp := t.sp }) ∧
    (∀ sl pos : Fin 32, (sl.val ∉ s.spWait n.val ∨ s.blk ≤ pos.val ∨ s.crossingAt (spSink n.val sl.val) pos.val = false) →
      exec (.spSlotCrossing n sl pos) s = .next s) ∧
    (∀ sl : Fin 32, sl.val ∈ s.spWait n.val → Does (.spZcTimeout n sl) s fun t =>
      (t.port n.val).gate sl.val = ⟨s.spWantOpen n.val, s.cycle + 1, 0, true⟩ ∧ t.isSet (SP_STATUS.zc_timeout n.val) = true ∧
        s.OnlyLogged { t with sp := s.sp } [SP_STATUS n.val]) ∧
    (∀ sl : Fin 32, sl.val ∉ s.spWait n.val → exec (.spZcTimeout n sl) s = .next s) ∧
    (∀ v : BitVec 16, s.spMaster n.val = false → s.spState n.val ≠ 0 → (s.port n.val).aligned = false → Does (.spFrameAligned n v) s fun t =>
      t.rd (SP_SLACK.offset n.val) = v.toNat ∧ (t.port n.val).aligned = true ∧
        (t.port n.val).dataTick = (if s.spState n.val = 1 ∧ (s.port n.val).dataTick = none then
          some (s.cycle + 1 + BitVec.ofNat 32 (s.spPre n.val)) else (s.port n.val).dataTick) ∧ s.OnlyRegs { t with sp := s.sp } [SP_SLACK n.val]) ∧
    (∀ v : BitVec 16, (s.spMaster n.val = true ∨ s.spState n.val = 0 ∨ (s.port n.val).aligned = true) → exec (.spFrameAligned n v) s = .next s)

/-- On an active port an underrun counts an inserted frame and an overrun a dropped one; a slip of a lone synchronous slave drops in one direction and inserts in the other and moves the slack by one frame's half; a glitch counts and inserts in both; a lost slave is LOST and realigned returns to the state before, its next block under a ramp. On a STOPPED port, and on a master where only a slave can be hit, nothing changes. -/
def Obligations.PortFrames : Prop :=
  ∀ (s : State) (n : Fin 16),
    let k := n.val
    let ins := SP_SLIPCNT.inserted k
    let drp := SP_SLIPCNT.dropped k
    (s.spState k ≠ 0 → ∀ b : Bool,
      (Does (.spUnderrun n b) s fun t => t.isSet (if b then SP_STATUS.tx_ins k else SP_STATUS.rx_ins k) = true ∧
        t.rd ins = min (2 ^ ins.width - 1) (s.rd ins + 1) ∧ t.rd drp = s.rd drp ∧ t.spState k = s.spState k ∧ s.OnlyLogged t [SP_STATUS k, SP_SLIPCNT k]) ∧
      (Does (.spOverrun n b) s fun t => t.isSet (if b then SP_STATUS.tx_drop k else SP_STATUS.rx_drop k) = true ∧
        t.rd drp = min (2 ^ drp.width - 1) (s.rd drp + 1) ∧ t.rd ins = s.rd ins ∧ t.spState k = s.spState k ∧ s.OnlyLogged t [SP_STATUS k, SP_SLIPCNT k])) ∧
    (s.spState k ≠ 0 → s.spMaster k = false → s.spSync k = true → s.spLeadOf k = none → ∀ b : Bool, Does (.spSlip n b) s fun t =>
      t.isSet (if b then SP_STATUS.rx_drop k else SP_STATUS.tx_drop k) = true ∧ t.isSet (if b then SP_STATUS.tx_ins k else SP_STATUS.rx_ins k) = true ∧
        t.rd ins = min (2 ^ ins.width - 1) (s.rd ins + 1) ∧ t.rd drp = min (2 ^ drp.width - 1) (s.rd drp + 1) ∧
        t.rd (SP_SLACK.offset k) = (if b then 256 else 65280) ∧ s.OnlyLogged t [SP_STATUS k, SP_SLIPCNT k, SP_SLACK k]) ∧
    (s.spState k ≠ 0 → s.spMaster k = false → Does (.spGlitch n) s fun t =>
      t.isSet (SP_STATUS.glitch k) = true ∧ t.isSet (SP_STATUS.tx_ins k) = true ∧ t.isSet (SP_STATUS.rx_ins k) = true ∧
        t.rd (SP_GLITCHCNT.glitches k) = min (2 ^ (SP_GLITCHCNT.glitches k).width - 1) (s.rd (SP_GLITCHCNT.glitches k) + 1) ∧
        t.rd ins = min (2 ^ ins.width - 1) (s.rd ins + 2) ∧ t.port k = { s.port k with aligned := false } ∧
        s.OnlyLogged { t with sp := s.sp } [SP_STATUS k, SP_SLIPCNT k, SP_GLITCHCNT k]) ∧
    (s.spState k ≠ 0 → s.spState k ≠ 6 → s.spMaster k = false → Does (.spLost n) s fun t =>
      t.spState k = 6 ∧ t.port k = { s.port k with prev := s.spState k, aligned := false } ∧ t.isSet (SP_STATUS.lost k) = true ∧
        t.rd (SP_GLITCHCNT.lost k) = min (2 ^ (SP_GLITCHCNT.lost k).width - 1) (s.rd (SP_GLITCHCNT.lost k) + 1) ∧
        s.OnlyLogged { t with sp := s.sp } [SP_STATUS k, SP_GLITCHCNT k]) ∧
    (s.spState k = 6 → (s.port k).prev < 8 → Does (.spRealign n) s fun t =>
      t.spState k = (s.port k).prev ∧ (t.port k).aligned = true ∧ (t.port k).rampIn = some (s.cycle + 1) ∧
        s.OnlyRegs { t with sp := s.sp } [SP_STATUS k]) ∧
    (s.spState k ≠ 6 → exec (.spRealign n) s = .next s) ∧
    (s.spState k = 0 → ∀ b : Bool, exec (.spUnderrun n b) s = .next s ∧ exec (.spOverrun n b) s = .next s ∧ exec (.spSlip n b) s = .next s ∧
      exec (.spGlitch n) s = .next s ∧ exec (.spLost n) s = .next s) ∧
    (s.spMaster k = true → ∀ b : Bool, exec (.spSlip n b) s = .next s ∧ exec (.spGlitch n) s = .next s ∧ exec (.spLost n) s = .next s)

/-- A gain write sets the target (61 to 63 act as 60); a due step moves the gain in force by 1 dB toward it, a timeout does the same and is flagged. A capsule state that has lasted takes effect: open below one threshold, short above the other, a fault is flagged. An output's gate opens or closes at the crossing it waits for, or by a ramp at the timeout; HOLD ends at high impedance. What is not due changes nothing. -/
def Obligations.AnalogRows : Prop :=
  ∀ (s : State) (n : Fin 8),
    let k := n.val
    let now := s.rd (ANA_IN_STAT.gain_now k)
    let tgt := min 60 (s.rd (ANA_IN_CFG.gain k))
    let stepped : Nat := if now < tgt then now + 1 else if tgt < now then now - 1 else now
    (∀ (m : Master) (g : BitVec 6), s.pairLocked m = false → (s.walk k).owner = none → Does (.anaGainWrite m n g) s fun t =>
      t.rd (ANA_IN_CFG.gain k) = g.toNat ∧ t.gainTarget k = min 60 g.toNat ∧ t.rd (ANA_IN_STAT.gain_now k) = now ∧
        (∀ j, t.walk j = s.walk j) ∧ s.OnlyRegs { t with field := s.field } [ANA_IN_CFG k]) ∧
    (∀ (m : Master) (g : BitVec 6), s.pairLocked m = true → s.rd (ANA_IN_CFG.gain k) ≠ g.toNat → Does (.anaGainWrite m n g) s fun t =>
      t.isSet (ANA_STATUS.wr_refused k) = true ∧ s.OnlyLogged t [(ANA_STATUS.wr_refused k).addr]) ∧
    ((s.walk k).due = true → (s.walk k).owner = none →
      (Does (.gainStep n) s fun t => t.rd (ANA_IN_STAT.gain_now k) = stepped ∧ (t.walk k).due = false ∧
        s.OnlyRegs { t with field := s.field } [ANA_IN_STAT k]) ∧
      (Does (.gainStepTimeout n) s fun t => t.rd (ANA_IN_STAT.gain_now k) = stepped ∧ (t.walk k).due = false ∧
        t.isSet (ANA_STATUS.gain_to k) = true ∧ s.OnlyLogged { t with field := s.field } [ANA_IN_STAT k, (ANA_STATUS.gain_to k).addr])) ∧
    ((s.walk k).due = false → exec (.gainStep n) s = .next s ∧ exec (.gainStepTimeout n) s = .next s) ∧
    (s.isSet (ANA_IN_CFG.bias_en k) = true → s.isSet (ANA_IN_CFG.bsup_en k) = true → ∀ ua : BitVec 12,
      let c : Nat := if ua.toNat < s.rd (ANA_BIAS_THR.open_ua k) then 1 else if s.rd (ANA_BIAS_THR.short_ua k) < ua.toNat then 2 else 0
      Does (.biasStateChange n ua) s fun t =>
        t.rd (ANA_IN_STAT.bias_ua k) = ua.toNat ∧ t.rd (ANA_IN_STAT.bias_state k) = c ∧
          (c ≠ 0 → c ≠ s.rd (ANA_IN_STAT.bias_state k) → t.isSet (ANA_STATUS.bias_fault k) = true) ∧
          t.rd (ANA_IN_STAT.gain_now k) = now ∧ s.OnlyLogged t [ANA_IN_STAT k, (ANA_STATUS.bias_fault k).addr]) ∧
    (∀ ua : BitVec 12, (s.isSet (ANA_IN_CFG.bias_en k) = false ∨ s.isSet (ANA_IN_CFG.bsup_en k) = false) →
      exec (.biasStateChange n ua) s = .next s) ∧
    (∀ p : Fin 32, p.val < s.blk → s.crossingAt (aoSink k) p.val = true →
      (s.aoState k = 2 → (s.aout k).gate.isOpen = false → Does (.aoutGateCrossing n p) s fun t =>
        t.aoState k = 3 ∧ t.aout k = { s.aout k with gate := ⟨true, s.cycle, p.val, false⟩ } ∧ (∀ j, j ≠ k → t.aout j = s.aout j) ∧
          s.OnlyRegs { t with field := s.field } [ANA_OUT_STAT k]) ∧
      (s.aoState k = 4 → (s.aout k).gate.isOpen = true → Does (.aoutGateCrossing n p) s fun t =>
        t.aoState k = 5 ∧ t.aout k = ⟨⟨false, s.cycle, p.val, false⟩, s.cycle, p.val⟩ ∧ (∀ j, j ≠ k → t.aout j = s.aout j) ∧
          s.OnlyRegs { t with field := s.field } [ANA_OUT_STAT k])) ∧
    (∀ p : Fin 32, (s.aoWaits k = false ∨ s.blk ≤ p.val ∨ s.crossingAt (aoSink k) p.val = false) → exec (.aoutGateCrossing n p) s = .next s) ∧
    (s.aoWaits k = true → Does (.aoutZcTimeout n) s fun t =>
      (t.aout k).gate = ⟨decide (s.aoState k = 2), s.cycle + 1, 0, true⟩ ∧ t.isSet (ANA_STATUS.zc_timeout k) = true ∧
        s.OnlyLogged { t with field := s.field } [(ANA_STATUS.zc_timeout k).addr]) ∧
    (s.aoWaits k = false → exec (.aoutZcTimeout n) s = .next s) ∧
    (s.aoHoldDue k (s.cycle + 1) = true → Does (.aoutHoldEnd n) s fun t => t.aoState k = 0 ∧ s.OnlyRegs t [ANA_OUT_STAT k]) ∧
    (s.aoHoldDue k (s.cycle + 1) = false → exec (.aoutHoldEnd n) s = .next s)

/-- A sample of an enabled contact input is classified by its threshold set and counts a run of equal states; a disabled input reads open; a state that has lasted becomes the debounced one and flags the change. A driver above its limit turns off for a retry, at the third trip in 10 s it latches; a sample stores every current. An estimate gives |Z| and its condition; a declared condition is a fault of the monitor; ten estimates of a learn give the reference. -/
def Obligations.ContactsDriversLines : Prop :=
  ∀ s : State,
    (∀ (n : Fin 16) (r : BitVec 16) (b : Bool), s.cinDue n.val = false → s.isSet (SUP_CIN_CFG.en n.val) = true → s.thrValid (s.rd (SUP_CIN_CFG.thr_set n.val)) = true →
      let g := s.rd (SUP_CIN_CFG.thr_set n.val)
      let code : Nat := if b = true ∨ s.rd (SUP_CIN_THR1.no g) ≤ r.toNat then 0 else if s.rd (SUP_CIN_THR0.an g) ≤ r.toNat then 1
        else if s.rd (SUP_CIN_THR0.sa g) ≤ r.toNat then 2 else 3
      Does (.cinSample n r b) s fun t =>
        t.rd (SUP_CIN_STAT.raw n.val) = code ∧ t.rd (SUP_CIN_STAT.ohms n.val) = r.toNat ∧ t.isSet (SUP_CIN_STAT.foreign n.val) = b ∧
          t.cinRun n.val = (if code = s.rd (SUP_CIN_STAT.raw n.val) then min 256 (s.cinRun n.val + 1) else 1) ∧
          t.rd (SUP_CIN_STAT.state n.val) = s.rd (SUP_CIN_STAT.state n.val) ∧
          s.RegsBut t [SUP_CIN_STAT n.val, (SUP_CIN_STAT.ohms n.val).addr]) ∧
    (∀ (n : Fin 16) (r : BitVec 16) (b : Bool), s.isSet (SUP_CIN_CFG.en n.val) = false → Does (.cinSample n r b) s fun t =>
      t.rd (SUP_CIN_STAT.raw n.val) = 0 ∧ t.rd (SUP_CIN_STAT.state n.val) = 0 ∧ t.rd (SUP_CIN_STAT.ohms n.val) = 65535 ∧ t.cinRun n.val = 0) ∧
    (∀ n : Fin 16, s.cinDue n.val = true → Does (.cinDebounceComplete n) s fun t =>
      t.rd (SUP_CIN_STAT.state n.val) = s.rd (SUP_CIN_STAT.raw n.val) ∧ t.isSet SUP_STATUS.cin_change = true ∧
        (s.isSet (SUP_CIN_CFG.sup_en n.val) = true → (s.rd (SUP_CIN_STAT.raw n.val) = 0 ∨ s.rd (SUP_CIN_STAT.raw n.val) = 3) →
          t.isSet SUP_STATUS.cin_fault = true) ∧ s.SameCoefs t ∧ s.SameBytes t) ∧
    (∀ n : Fin 16, s.cinDue n.val = false → exec (.cinDebounceComplete n) s = .next s) ∧
    (∀ n : Fin 16, s.drvConducts n.val = true →
      let ts := s.cycle :: (s.drv n.val).trips.filter (fun c => since s.cycle c ≤ s.cyclesOfMs 10000)
      Does (.drvOvercurrent n) s fun t => t.isSet SUP_STATUS.drv_oc = true ∧ (∀ j, j ≠ n.val → t.drv j = s.drv j) ∧
        t.drv n.val = (if 3 ≤ ts.length then { s.drv n.val with latched := true, retry := false, trips := [] }
          else { s.drv n.val with retry := true, trips := ts }) ∧ t.drvConducts n.val = false ∧
        s.OnlyLogged { t with field := s.field } [SUP_STATUS]) ∧
    (∀ n : Fin 16, s.drvConducts n.val = false → exec (.drvOvercurrent n) s = .next s) ∧
    (∀ n : Fin 16, Does (.drvRetry n) s fun t => t.drv n.val = { s.drv n.val with retry := false } ∧ (∀ j, j ≠ n.val → t.drv j = s.drv j) ∧
      t = { s with field := { s.field with drvs := t.field.drvs } }) ∧
    (s.drvTotal ≤ 5000 → exec .drvTotalOverload s = .next s) ∧
    (5000 < s.drvTotal → Does .drvTotalOverload s fun t => t.drvTotal ≤ 5000 ∧ t.isSet SUP_STATUS.drv_shed = true ∧
      (∀ n, (t.drv n).shedTotal = false → t.drv n = s.drv n) ∧ s.OnlyLogged { t with field := s.field } [SUP_STATUS]) ∧
    (∀ (cs : List (BitVec 10)) (l : BitVec 16), Does (.drvSample cs l) s fun t =>
      (∀ n : Fin 16, t.rd (SUP_DRV_STAT.state n.val) = t.drvCode n.val ∧ t.isSet (SUP_DRV_STAT.driven n.val) = t.drvConducts n.val ∧
        t.isSet (SUP_DRV_STAT.shed n.val) = t.drvShed n.val ∧
        ((t.drv n.val).shedTotal = (s.drv n.val).shedTotal → t.rd (SUP_DRV_STAT.current n.val) = (cs.getD n.val 0).toNat)) ∧
        s.SameCoefs t ∧ s.SameBytes t) ∧
    (∀ n : Fin 16, s.isSet (SUP_DRV_STAT.wire_break n.val) = false → s.drvDeb n.val ≤ (s.drv n.val).wireBad → Does (.drvFaultDebounce n) s fun t =>
      t.isSet (SUP_DRV_STAT.wire_break n.val) = true ∧ t.isSet SUP_STATUS.drv_fault = true ∧ s.OnlyLogged t [SUP_DRV_STAT n.val, SUP_STATUS]) ∧
    (∀ n : Fin 16, s.isSet (SUP_DRV_STAT.wire_break n.val) = true → s.drvDeb n.val ≤ (s.drv n.val).wireGood → Does (.drvFaultDebounce n) s fun t =>
      t.isSet (SUP_DRV_STAT.wire_break n.val) = false ∧ s.OnlyLogged t [SUP_DRV_STAT n.val, SUP_STATUS]) ∧
    (∀ (m : Fin 32) (cv ci : BitVec 25), (s.mon m.val).learn = none → (s.mon m.val).count < s.lsDet m.val → s.monRuns m.val = true → cv.toNat < 2 ^ 14 →
      Does (.lsEstimate m cv ci) s fun t =>
        t.reg (SUP_LS_Z m.val) = 0xFFFFFFFF ∧ (t.mon m.val).cond = 3 ∧ (∀ j, j ≠ m.val → t.mon j = s.mon j) ∧
          (t.mon m.val).count = (if (s.mon m.val).cond = 3 then min 127 ((s.mon m.val).count + 1) else 1)) ∧
    (∀ (m : Fin 32) (cv ci : BitVec 25) (z : Nat), (s.mon m.val).learn = none → (s.mon m.val).count < s.lsDet m.val → s.monRuns m.val = true → 2 ^ 14 ≤ cv.toNat →
      zOf (s.rd (SUP_LS_KZ.kz m.val)) cv.toNat ci.toNat = some z → Does (.lsEstimate m cv ci) s fun t =>
        t.reg (SUP_LS_Z m.val) = BitVec.ofNat 32 z ∧ (t.mon m.val).cond = s.lsCond m.val (some z)) ∧
    (∀ m : Fin 32, (s.mon m.val).learn = none → s.lsDet m.val ≤ (s.mon m.val).count → (s.mon m.val).cond ≠ 0 → (s.mon m.val).cond < 4 →
      ¬(s.rd (SUP_LS_STAT.state m.val) = 3 ∧ s.rd (SUP_LS_STAT.fault m.val) = (s.mon m.val).cond) → Does (.lsFaultDeclared m) s fun t =>
        t.rd (SUP_LS_STAT.state m.val) = 3 ∧ t.rd (SUP_LS_STAT.fault m.val) = (s.mon m.val).cond ∧ t.isSet SUP_STATUS.ls_fault = true ∧
          s.OnlyLogged t [SUP_LS_STAT m.val, SUP_STATUS]) ∧
    (∀ (x : Master) (m : Fin 32), (s.mon m.val).learn = none → (s.mon m.val).owner = none → Does (.lsLearnStart x m) s fun t =>
      t.rd (SUP_LS_STAT.state m.val) = 1 ∧ t.isSet (SUP_LS_LEARN.learn m.val) = true ∧
        t.mon m.val = { s.mon m.val with learn := some 0, learnSum := 0, learnBad := false } ∧
        s.OnlyRegs { t with field := s.field } [SUP_LS_STAT m.val, SUP_LS_LEARN m.val]) ∧
    (∀ (x : Master) (m : Fin 32), (s.mon m.val).learn.isSome = true → exec (.lsLearnStart x m) s = .next s) ∧
    (∀ m : Fin 32, (s.mon m.val).learn = some 10 → (s.mon m.val).learnBad = false → (s.mon m.val).owner = none → Does (.lsLearnDone m) s fun t =>
      t.reg (SUP_LS_REF m.val) = BitVec.ofInt 32 (openDiv ((s.mon m.val).learnSum : Int) 10) ∧ t.rd (SUP_LS_STAT.state m.val) = 2 ∧
        t.isSet (SUP_LS_LEARN.learn m.val) = false ∧ (t.mon m.val).learn = none ∧
        s.OnlyRegs { t with field := s.field } [SUP_LS_REF m.val, SUP_LS_STAT m.val, SUP_LS_LEARN m.val]) ∧
    (∀ m : Fin 32, (s.mon m.val).learn ≠ some 10 → exec (.lsLearnDone m) s = .next s)

/-- A WAIT player whose first sample is due begins its chain; a play or a silence that ends within the block delivers its last samples and moves on; an underrun counts and holds the block. The scan shows the item, marks failing data BAD and counts rounds. A generator's configuration takes a write, but type and nseg stay while it is enabled; a segment that ends gives way to the next. An update of a zone shows its levels, index and corrections. A tick moves the loopback store on by one block. -/
def Obligations.PlayersGeneratorsZones : Prop :=
  ∀ s : State,
    (∀ (p : Fin 64) (r : PlayRun), (s.player p.val).run = some r → r.begun = false → later32 r.firstAt (s.cycle + 1) = false →
      Does (.playerFirstSample p) s fun t =>
        (∀ q, q ≠ p.val → t.player q = s.player q) ∧
          ((t.player p.val).run = none ∨ ∃ u, (t.player p.val).run = some u ∧ u.begun = true ∧ u.chain = r.chain ∧ u.cls = r.cls) ∧
          (∀ m, r.seg = .enter → r.left = 0 → r.step < 16 → (s.chainStep r.chain r.step).kind = 1 →
            s.msgToPlay (s.chainStep r.chain r.step).arg = some m → 0 < s.playLen m →
            t.player p.val = { s.player p.val with run := some { r with
              begun := true, seg := .play, msg := m, left := s.playLen m, pos := 0, plays := (s.chainStep r.chain r.step).rep } }) ∧
          s.SameCoefs t) ∧
    (∀ p : Fin 64, s.playFirstDue p.val (s.cycle + 1) = false → exec (.playerFirstSample p) s = .next s) ∧
    (∀ (p : Fin 64) (r : PlayRun), (s.player p.val).run = some r → r.live s.cycle = true → (s.player p.val).starved = false → (s.player p.val).ending = none →
      r.left ≤ s.blk - (s.player p.val).part.length →
      (r.seg = .play → Does (.chainStepAdvance p) s fun t =>
        (t.player p.val).run = some { r with seg := .gap, left := s.msSamples (s.chainStep r.chain r.step).gap, pos := r.pos + r.left } ∧
          (t.player p.val).part.length = (s.player p.val).part.length + r.left ∧ (∀ q, q ≠ p.val → t.player q = s.player q) ∧
          t = { s with msg := { s.msg with players := t.msg.players }, free := t.free }) ∧
      (r.seg = .silence → Does (.chainStepAdvance p) s fun t =>
        t.player p.val = { s.player p.val with
          run := some { r with step := r.step + 1, seg := .enter, left := 0 }
          part := (s.player p.val).part ++ List.replicate r.left 0 } ∧ (∀ q, q ≠ p.val → t.player q = s.player q) ∧
          t = { s with msg := { s.msg with players := t.msg.players } })) ∧
    (∀ p : Fin 64, (s.player p.val).run = none → exec (.chainStepAdvance p) s = .next s ∧ exec (.playerUnderrun p) s = .next s) ∧
    (∀ (p : Fin 64) (r : PlayRun), (s.player p.val).run = some r → r.live s.cycle = true → (s.player p.val).starved = false → (s.player p.val).part = [] →
      Does (.playerUnderrun p) s fun t =>
        t.player p.val = { s.player p.val with starved := true } ∧ t.isSet MSG_STATUS.underrun = true ∧
          t.rd (MSG_CNT.underrun p.val) = min (2 ^ (MSG_CNT.underrun p.val).width - 1) (s.rd (MSG_CNT.underrun p.val) + 1) ∧
          s.OnlyLogged { t with msg := s.msg } [MSG_CNT p.val, MSG_STATUS]) ∧
    (∀ m : Fin 8192,
      (Does (.scanVerify (.head m) true) s fun t => t.rd MSG_SCAN.msg = m.val ∧ s.OnlyRegs t [MSG_SCAN]) ∧
      (Does (.scanVerify (.data m) true) s fun t => t.rd MSG_SCAN.msg = m.val ∧ s.OnlyRegs t [MSG_SCAN]) ∧
      (Does (.scanVerify (.head m) false) s fun t => t.rd MSG_SCAN.msg = m.val ∧ s.OnlyLogged { t with free := s.free } [MSG_SCAN]) ∧
      ((s.msgEntry m.val).valid = true → (s.msgEntry m.val).bad = false → Does (.scanVerify (.data m) false) s fun t =>
        t.msgEntry m.val = { s.msgEntry m.val with bad := true } ∧ t.isSet MSG_STATUS.msg_bad = true ∧
          (∀ k, k ≠ m.val → t.msgEntry k = s.msgEntry k))) ∧
    (∀ (b : Bool) (c : Fin 2), exec (.scanVerify (.table b c) true) s = .next s ∧
      Does (.scanVerify (.table b c) false) s fun t => s.OnlyLogged { t with free := s.free } []) ∧
    (Does .scanPhaseEnd s fun t => t.rd MSG_SCAN.rounds = (s.rd MSG_SCAN.rounds + 1) % 65536 ∧ t.rd MSG_SCAN.msg = s.rd MSG_SCAN.msg ∧
      s.OnlyRegs t [MSG_SCAN]) ∧
    (∀ (m : Master) (g : Fin 32) (v : Word), s.pairLocked m = false → getFld (GEN_CFG.type g.val) v < 6 →
      (s.isSet (GEN_CFG.en g.val) = false → Does (.genEnableWrite m g v) s fun t =>
        t.reg (GEN_CFG g.val) = v &&& 0xF0000007 ∧ s.OnlyRegs t [GEN_CFG g.val]) ∧
      (s.isSet (GEN_CFG.en g.val) = true → (getFld (GEN_CFG.type g.val) v ≠ s.rd (GEN_CFG.type g.val) ∨ getFld (GEN_CFG.nseg g.val) v ≠ s.rd (GEN_CFG.nseg g.val)) →
        Does (.genEnableWrite m g v) s fun t =>
          t.rd (GEN_CFG.en g.val) = getFld (GEN_CFG.en g.val) v ∧ t.rd (GEN_CFG.type g.val) = s.rd (GEN_CFG.type g.val) ∧
            t.rd (GEN_CFG.nseg g.val) = s.rd (GEN_CFG.nseg g.val) ∧ t.isSet MSG_STATUS.wr_refused = true ∧
            s.OnlyLogged t [GEN_CFG g.val, MSG_STATUS])) ∧
    (∀ (m : Master) (g : Fin 32) (v : Word), s.pairLocked m = true → s.genCfgWord g.val v ≠ s.reg (GEN_CFG g.val) → Does (.genEnableWrite m g v) s fun t =>
      t.reg (GEN_CFG g.val) = s.reg (GEN_CFG g.val) ∧ t.isSet MSG_STATUS.wr_refused = true ∧ s.OnlyLogged t [MSG_STATUS]) ∧
    (∀ g : Fin 32, (s.gen g.val).on = true → 4 ≤ s.rd (GEN_CFG.type g.val) → (s.gen g.val).pos < s.segLen g.val (s.gen g.val).seg →
      s.segLen g.val (s.gen g.val).seg - (s.gen g.val).pos ≤ s.blk - (s.gen g.val).part.length → Does (.genSegmentEnd g) s fun t =>
        (t.gen g.val).seg = ((s.gen g.val).seg + 1) % s.genSegs g.val ∧ (t.gen g.val).pos = 0 ∧
          (t.gen g.val).part.length = (s.gen g.val).part.length + (s.segLen g.val (s.gen g.val).seg - (s.gen g.val).pos) ∧
          (∀ k, k ≠ g.val → t.gen k = s.gen k) ∧ s.RegsBut t [GEN_STAT g.val]) ∧
    (∀ g : Fin 32, ((s.gen g.val).on = false ∨ s.rd (GEN_CFG.type g.val) < 4) → exec (.genSegmentEnd g) s = .next s) ∧
    (∀ (z : Fin 32) (e : VisEst), s.isSet (VIS_CFG.en z.val) = true → s.gateShut 8 = false → s.visShed z.val = false → s.visDue z.val (s.cycle + 1) = true →
      let bad := e.silent || s.micStopped (s.rd (VIS_MIC.source z.val))
      Does (.visUpdate z e) s fun t =>
        t.rd (VIS_LVL.prog z.val) = e.prog.toNat ∧ t.rd (VIS_LVL.amb z.val) = e.amb.toNat ∧ t.isSet (VIS_INDEX.quiet z.val) = e.quiet ∧
          t.isSet (VIS_INDEX.mic_fault z.val) = bad ∧
          (e.quiet = false → bad = false → t.rd (VIS_INDEX.index z.val) = e.index.val ∧ t.rd (VIS_INDEX.delay z.val) = e.delay.val ∧
            t.isSet (VIS_INDEX.valid z.val) = true) ∧
          (bad = true → t.isSet (VIS_INDEX.valid z.val) = false) ∧ (∀ k, k ≠ z.val → t.zone k = s.zone k) ∧
          t.rd (VIS_CORR.gain z.val) = tenths (min 1200 ((t.zone z.val).gVis + (t.zone z.val).gAmb)) ∧
          t.rd (VIS_CORR.tilt z.val) = tenths (t.zone z.val).tilt ∧ s.SameCoefs t) ∧
    (∀ (z : Fin 32) (e : VisEst), (s.isSet (VIS_CFG.en z.val) = false ∨ s.gateShut 8 = true ∨ s.visShed z.val = true ∨ s.visDue z.val (s.cycle + 1) = false) →
      exec (.visUpdate z e) s = .next s) ∧
    (∀ (cs : List SrcSample) (ls : List LaneErr) (es : List CoefErr) (ns : Word), s.engineRuns = true → s.img.act = none → s.boot.resetReq = none →
      s.q.outst = [] → Does (.engineTick cs ls es ns) s fun t =>
        t.engineRuns = true → t.eng.loop2 = s.eng.loop1 ∧ t.eng.loop3 = s.eng.loop2) ∧
    (∀ (cs : List SrcSample) (ls : List LaneErr) (es : List CoefErr) (ns : Word), (s.engineRuns = false ∨ s.tickStopped = true) →
      exec (.engineTick cs ls es ns) s = .next s)

/-- An accepted packet of an ordinary stream puts its samples in the receive buffer under their timestamps, a frame error is counted, a port that is off takes nothing. A transmitted packet advances the sequence number and takes its frames from the buffer; a stopped stream whose last packet has left is OFF. A timeout returns a stream to WAITING, a unit no longer heard is forgotten, a leg goes down with its flag. A link change is shown and flagged; queries, repeats, ARP requests and announcements are answered as the port and the address book allow. -/
def Obligations.StreamsLinksDiscovery : Prop :=
  ∀ s : State,
    (∀ p : StreamPkt, s.portOn (b2n p.netb) = false → exec (.streamPacketReceived p) s = .next s) ∧
    (∀ p : StreamPkt, s.portOn (b2n p.netb) = true → p.fcsOk = false → Does (.streamPacketReceived p) s fun t =>
      (t.reg (NET_CNT_FCS (b2n p.netb))).toNat = min 0xFFFFFFFF ((s.reg (NET_CNT_FCS (b2n p.netb))).toNat + 1) ∧
        t.isSet (NET_STATUS.fcs (b2n p.netb)) = true ∧ t.isSet STRM_STATUS.bad_pkt = true ∧
        s.OnlyRegs t [NET_CNT_FCS (b2n p.netb), (NET_STATUS.fcs (b2n p.netb)).addr, STRM_STATUS]) ∧
    (∀ p : StreamPkt, s.portOn (b2n p.netb) = true → p.fcsOk = true → (p.buffer = false ∨ s.legOf p = none) → Does (.streamPacketReceived p) s fun t =>
      (t.reg (NET_CNT_OVF (b2n p.netb))).toNat = min 0xFFFFFFFF ((s.reg (NET_CNT_OVF (b2n p.netb))).toNat + 1) ∧
        t.isSet STRM_STATUS.bad_pkt = true ∧ s.OnlyRegs t [NET_CNT_OVF (b2n p.netb), STRM_STATUS]) ∧
    (∀ (p : StreamPkt) (l : Nat) (g : Option (Nat × BitVec 16)), s.portOn (b2n p.netb) = true → p.fcsOk = true → p.buffer = true → s.legOf p = some l →
      let k := l / 4
      let n := s.pktLen false k
      let b := s.sampleBytes false k
      let c := s.chans false k
      p.ipOk = true → (s.reg (STRM_LEG_SRC l) = 0 ∨ s.reg (STRM_LEG_SRC l) = p.src) → p.udpOk = true → p.version.val = 2 →
      p.pt.toNat = fieldOf (s.reg (STRM_RX_OFS k)) 22 16 → p.payload.length = c * n * b → s.pktTag p = some g → s.isSet (stMode false k) = false →
      s.isSet (stAsync false k) = false → 20 ≤ sval p.slack → sval p.slack + ((n - 1) * 1000000 / s.rate false k : Nat) ≤ 100000 →
      p.seq ∉ (s.strm false k).seqs → Does (.streamPacketReceived p) s fun t =>
        (∀ i, i < n → SMap.find (t.strm false k).ring ((p.ts + BitVec.ofNat 32 i).toNat % 16384) = some (p.ts + BitVec.ofNat 32 i,
          (List.range c).map (fun ch =>
            let v := beNat ((p.payload.drop ((i * c + ch) * b)).take b)
            if b = 2 then fromPcm16 v else fromPcm24 v))) ∧
          (t.strm false k).seqs = (p.seq :: (s.strm false k).seqs).take 1024 ∧ (t.strm false k).got = true ∧
          t.shRd ⟨STRM_LEG_CFG l, 29, 1⟩ = 1 ∧ t.regs = s.regs ∧ t = { s with net := t.net }) ∧
    (∀ k : Fin 128, s.pktLen true k.val ≠ 0 → (s.strmState true k.val = 2 ∨ s.strmState true k.val = 3) → s.isSet (stAsync true k.val) = false →
      s.pktLen true k.val ≤ (s.strm true k.val).buf.length → Does (.streamPacketTransmit k) s fun t =>
        t.rd ⟨STRM_TX_SEQ k.val, 0, 16⟩ = (s.rd ⟨STRM_TX_SEQ k.val, 0, 16⟩ + 1) % 65536 ∧
          t.strm true k.val = { s.strm true k.val with buf := (s.strm true k.val).buf.drop (s.pktLen true k.val) } ∧
          (s.sends k.val = false → t.net.sent = []) ∧ s.OnlyRegs { t with net := s.net } [STRM_TX_SEQ k.val]) ∧
    (∀ k : Fin 128, (s.pktLen true k.val = 0 ∨ s.strmState true k.val < 2) → exec (.streamPacketTransmit k) s = .next s) ∧
    (∀ k : Fin 128, s.txStopDue k.val (s.cycle + 1) = true → Does (.streamTxStopEnd k) s fun t =>
      t.strmState true k.val = 0 ∧ t.strm true k.val = { strmDefault 0 with susp := (s.strm true k.val).susp } ∧ s.SameCoefs t) ∧
    (∀ k : Fin 128, s.txStopDue k.val (s.cycle + 1) = false → exec (.streamTxStopEnd k) s = .next s) ∧
    (∀ k : Fin 128, s.strmState false k.val = 2 → Does (.streamRxTimeout k) s fun t =>
      t.shRd (stState false k.val) = 1 ∧ t.strm false k.val = { s.strm false k.val with got := false, rampIn := none } ∧ t = { s with net := t.net }) ∧
    (∀ k : Fin 128, s.strmState false k.val ≠ 2 → exec (.streamRxTimeout k) s = .next s) ∧
    (∀ (k : Fin 128) (u : BitVec 11), Does (.streamUnitUnheard k u) s fun t =>
      SMap.find (t.strm false k.val).units u.toNat = none ∧
        (∀ v, v ≠ u.toNat → SMap.find (t.strm false k.val).units v = SMap.find (s.strm false k.val).units v) ∧ t = { s with net := t.net }) ∧
    (∀ l : Fin 512, (s.shReg (STRM_LEG_CFG l.val)).getLsbD 29 = true → Does (.legDown l) s fun t =>
      (t.shReg (STRM_LEG_CFG l.val)).getLsbD 29 = false ∧ t.isSet STRM_STATUS.leg_down = true ∧
        s.OnlyLogged { t with net := s.net } [STRM_STATUS]) ∧
    (∀ l : Fin 512, (s.shReg (STRM_LEG_CFG l.val)).getLsbD 29 = false → exec (.legDown l) s = .next s) ∧
    (∀ (b : Bool) (v : Fin 3), s.rd (NET_STATUS.link (b2n b)) = v.val → exec (.linkSpeedChange b v) s = .next s) ∧
    (∀ (b : Bool) (v : Fin 3), s.rd (NET_STATUS.link (b2n b)) ≠ v.val → Does (.linkSpeedChange b v) s fun t =>
      t.rd (NET_STATUS.link (b2n b)) = v.val ∧ t.isSet (NET_STATUS.link_chg (b2n b)) = true ∧
        (v.val = 1 → t.rd (PTP_PHY.ingress (b2n b)) = 1216 ∧ t.rd (PTP_PHY.egress (b2n b)) = 560) ∧
        (v.val = 2 → t.rd (PTP_PHY.ingress (b2n b)) = 312 ∧ t.rd (PTP_PHY.egress (b2n b)) = 184 ∧ b2n b ∈ t.net.back) ∧ s.SameCoefs t) ∧
    (∀ b v : Bool, Does (.igmpQueryReceived b v) s fun t =>
      t.net.sent = (if s.portOn (b2n b) then (s.members (b2n b)).map (fun m => .igmp (b2n b) v false m.1 m.2) else []) ∧
        (b2n b ∈ t.net.v2 ↔ v = true) ∧ t = { s with net := t.net }) ∧
    (Does .igmpReportRepeat s fun t => t.net.repeats = [] ∧ t.net.sent.length = (s.net.repeats.filter (fun e => s.portOn e.1)).length ∧ t = { s with net := t.net }) ∧
    (∀ (b : Bool) (ip : Word), Does (.arpRequestReceived b ip) s fun t =>
      t.net.sent = (if s.portOn (b2n b) = true ∧ ip ≠ 0 ∧ (s.reg (NET_IP (b2n b)) = ip ∨ (s.reg (NET_PAIR_IP (b2n b)) = ip ∧ s.leads = true))
        then [.arp (b2n b) ip] else []) ∧ t = { s with net := { s.net with sent := t.net.sent } }) ∧
    (∀ k : Fin 128, Does (.sapAnnounce k) s fun t =>
      (t.net.sent = if s.isSet (stSap k.val) = true ∧ s.strmState true k.val ≠ 0 ∧ s.flt.cpStopped = false then
        ((List.range 2).filter (fun p => s.onPort k.val p && s.portOn p)).map (fun p => .sap p k.val false) else []) ∧
        t = { s with net := { s.net with sent := t.net.sent } }) ∧
    (∀ (o : Word) (x : List Byte), s.flt.cpStopped = false →
      (Does (.sapAnnounceReceived o x true) s fun t =>
        (∀ e, e ∈ t.net.sap ↔ e ∈ s.net.sap ∧ ¬(e.origin = o ∧ e.text = x)) ∧ t = { s with net := { s.net with sap := t.net.sap } }) ∧
      (s.net.sap.length < 256 → Does (.sapAnnounceReceived o x false) s fun t => ⟨o, x⟩ ∈ t.net.sap ∧ t = { s with net := { s.net with sap := t.net.sap } })) ∧
    (∀ i : Fin 256, exec (.sapEntryAgeOut i) s = .next { s with net := { s.net with sap := s.net.sap.eraseIdx i.val } })

/-- A message of another domain or for a port that takes no part is ignored, a broken one is counted; a message the clock may send leaves with its sequence number. A step that is due moves DTIME by its amount, and the servo is LOCKED. An automatic re-step plans the mean of the last four offsets negated. Reads of the low time words latch the high ones. A lock absorbs the reduced phase; a reference that is present starts to qualify, an absent one is ABSENT; a measurement is shown; a selection is taken only under open pins; PPS pulses keep 0.5 s apart. -/
def Obligations.TimeAndReferences : Prop :=
  ∀ s : State,
    (∀ (p : Fin 2) (d : BitVec 8) (m : PtpMsg), (s.ptpOn p.val = false ∨ s.portOn p.val = false ∨ d.toNat ≠ s.rd PTP_CFG.domain) →
      exec (.ptpMessageReceived p d m) s = .next s) ∧
    (∀ (p : Fin 2) (d : BitVec 8), s.ptpOn p.val = true → s.portOn p.val = true → d.toNat = s.rd PTP_CFG.domain →
      (Does (.ptpMessageReceived p d .broken) s fun t =>
        t.rd PTP_CNT.bad = min (2 ^ PTP_CNT.bad.width - 1) (s.rd PTP_CNT.bad + 1) ∧ s.OnlyRegs t [PTP_CNT]) ∧
      (∀ (q : BitVec 16) (t1 c rx : BitVec 64), s.flt.cpStopped = false → Does (.ptpMessageReceived p d (.sync q true t1 c rx)) s fun t =>
        t.rd PTP_CNT.sync = min (2 ^ PTP_CNT.sync.width - 1) (s.rd PTP_CNT.sync + 1) ∧
          t.ptpPort p.val = { s.ptpPort p.val with sync := some (q.toNat, rx.toInt + (s.rd (PTP_PHY.ingress p.val) : Int), c.toInt) } ∧
          s.OnlyRegs { t with ptp := s.ptp } [PTP_CNT])) ∧
    (∀ (p : Fin 2) (w : BitVec 64), s.ptpOn p.val = true → s.portOn p.val = true → s.flt.cpStopped = false → s.ptpState p.val = 6 →
      let q := SMap.get (fun _ => 0) (s.ptpPort p.val).seqs 2
      Does (.ptpMessageSend p .announce w) s fun t => t.net.sent = [.ptp p.val 2 q] ∧
        SMap.get (fun _ => 0) (t.ptpPort p.val).seqs 2 = (q + 1) % 65536 ∧ t.regs = s.regs) ∧
    (∀ (p : Fin 2) (k : PtpSend) (w : BitVec 64), (s.ptpOn p.val = false ∨ s.portOn p.val = false ∨ s.flt.cpStopped = true) →
      Does (.ptpMessageSend p k w) s fun t => t.net.sent = [] ∧ t = { s with net := { s.net with sent := [] } }) ∧
    (∀ p : Fin 2, Does (.announceTimeout p) s fun t =>
      t.ptpPort p.val = { s.ptpPort p.val with best := none, sync := none, tms := none } ∧ (∀ j, j ≠ p.val → t.ptpPort j = s.ptpPort j) ∧
        t.ptp.dtime = s.ptp.dtime) ∧
    (∀ (a : Word) (v : Int) (r : Bool) (o : Option CmdRef), s.ptp.step = some (a, v, r, o) → later32 a (s.cycle + 1) = false → Does .servoStep s fun t =>
      t.ptp.dtime = s.ptp.dtime + BitVec.ofInt 64 v ∧ t.ptp.step = none ∧ t.servo = 2 ∧ t.isSet PTP_STATUS.stepped = true ∧
        t.reg PTP_STEP_LO = (BitVec.ofInt 64 v).extractLsb' 0 32 ∧ t.ptp.lastStep = v ∧ s.SameCoefs t) ∧
    ((s.ptp.step = none ∨ ∃ a x, s.ptp.step = some (a, x) ∧ later32 a (s.cycle + 1) = true) → exec .servoStep s = .next s) ∧
    (s.isSet PTP_CFG.auto_restep = true → s.servo = 4 → s.stable4 = true → s.alarmPath = false →
      exec .autoRestep s = .next { s with ptp := { s.ptp with step := some (s.cycle + 1, -(meanOf (s.ptp.meas.take 4)), true, none) } }) ∧
    ((s.isSet PTP_CFG.auto_restep = false ∨ s.servo ≠ 4 ∨ s.stable4 = false ∨ s.alarmPath = true) → exec .autoRestep s = .next s) ∧
    (Does .ptpDtimeLoRead s fun t => t.lastRead = s.reg PTP_DTIME_LO ∧ t.reg PTP_DTIME_HI = s.ptp.dtime.extractLsb' 32 32 ∧
      s.OnlyRegs { t with lastRead := s.lastRead } [PTP_DTIME_HI]) ∧
    (Does .ptpStepLoRead s fun t => t.lastRead = s.reg PTP_STEP_LO ∧ t.reg PTP_STEP_HI = (BitVec.ofInt 64 s.ptp.lastStep).extractLsb' 32 32 ∧
      s.OnlyRegs { t with lastRead := s.lastRead } [PTP_STEP_HI]) ∧
    (∀ w : Word, s.ref.mcNext = some mcLocked → s.mc ≠ mcLocked → Does (.refLock w) s fun t =>
      let θ := s.reducePhase s.refInUse (sval w)
      t.mc = mcLocked ∧ t.reg REF_PHASE = w ∧ t.reg REF_ABS = wordOf θ ∧ t.isSet REF_STATUS.locked = true ∧ t.ref.mcNext = none ∧
        t.isSet REF_STATUS.pull_busy = (s.isSet REF_CFG.pull_en && θ != 0)) ∧
    (∀ w : Word, s.ref.mcNext ≠ some mcLocked → exec (.refLock w) s = .next s) ∧
    (s.isSet REF_STATUS.pull_busy = true → Does .refPullDone s fun t => t.reg REF_ABS = 0 ∧ t.isSet REF_STATUS.pull_busy = false ∧
      s.OnlyRegs t [REF_ABS, REF_STATUS]) ∧
    (s.isSet REF_STATUS.pull_busy = false → exec .refPullDone s = .next s) ∧
    (∀ (k : Fin 7) (b : Bool), k.val ≠ 0 → s.isSet (REF_MON.en k.val) = true → s.refPresent k.val b = true → s.monState k.val = 0 →
      Does (.refPresenceChange k b) s fun t => t.monState k.val = 1 ∧ t.rd (REF_MON.count k.val) = 0 ∧ (∀ j, j < 7 → j ≠ k.val → t.monState j = s.monState j)) ∧
    (∀ (k : Fin 7) (b : Bool), k.val ≠ 0 → s.isSet (REF_MON.en k.val) = true → s.refPresent k.val b = false → s.monState k.val ≠ 0 →
      Does (.refPresenceChange k b) s fun t => t.monState k.val = 0 ∧ (∀ j, j < 7 → j ≠ k.val → t.monState j = s.monState j)) ∧
    (∀ (k : Fin 7) (b : Bool), k.val ≠ 0 → s.isSet (REF_MON.en k.val) = false → exec (.refPresenceChange k b) s = .next s) ∧
    (∀ k : Fin 7, k.val ≠ 0 → s.monState k.val = 4 → Does (.refOutlierClear k) s fun t =>
      t.monState k.val = 1 ∧ (∀ j, j < 7 → j ≠ k.val → t.monState j = s.monState j)) ∧
    (∀ k : Fin 7, k.val ≠ 0 → s.monState k.val ≠ 4 → exec (.refOutlierClear k) s = .next s) ∧
    (∀ (k : Fin 7) (m : RefMeas), k.val ≠ 0 → s.isSet (REF_MON.en k.val) = true → s.monState k.val ≠ 0 → Does (.refMeasurement k m) s fun t =>
      t.rd (REF_MON.ppb k.val) = m.ppb.toNat ∧ (k.val = s.refInUse → t.reg REF_FREQ = m.freq ∧ t.reg REF_PHASE = m.phase)) ∧
    (∀ (k : Fin 7) (m : RefMeas), k.val ≠ 0 → (s.isSet (REF_MON.en k.val) = false ∨ s.monState k.val = 0) → exec (.refMeasurement k m) s = .next s) ∧
    (∀ (m : Master) (v : Fin 8), s.rd REF_STATUS.pins = 7 → v.val ≠ 7 → s.pairLocked m = false → Does (.refSelWrite m v) s fun t =>
      t.rd REF_SEL.sel = v.val ∧ s.OnlyRegs t [REF_SEL]) ∧
    (∀ (m : Master) (v : Fin 8), v.val ≠ s.rd REF_SEL.sel → (s.rd REF_STATUS.pins ≠ 7 ∨ v.val = 7 ∨ s.pairLocked m = true) → Does (.refSelWrite m v) s fun t =>
      t.isSet REF_STATUS.wr_refused = true ∧ s.OnlyLogged t [REF_STATUS]) ∧
    (∀ v : Fin 8, Does (.refselChange v) s fun t => t.boot.pins.refsel = v ∧ (v.val ≠ s.rd REF_STATUS.pins → t.isSet REF_STATUS.pin_chg = true) ∧
      t.refInUse = s.refInUse ∧ s.OnlyLogged { t with boot := s.boot } [REF_STATUS]) ∧
    (∀ w : Word, s.ref.ppsSeen = true → w.toNat < 500000000 → exec (.ppsOutPulse w) s = .next s) ∧
    (∀ w : Word, (s.ref.ppsSeen = false ∨ 500000000 ≤ w.toNat) → exec (.ppsOutPulse w) s =
      .next { s with ref := { s.ref with ppsSeen := true, ppsOfs := s.reg REF_PPS_OFS, ppsCount := s.ref.ppsCount + 1 } })

/-- Outside a pair these events change nothing. A sound frame of the partner makes its claim current, one with the own unit bit is a conflict, a bad one is dropped; a lost line is a condition, the second takes the bus's claim away, a recovered line clears it. An accepted beacon ends the beacon's loss and, in silence, makes its claim current. A role change that is due makes or ends the lead. An output that shows no driver is taken by the lead; a conflict of an output it drives is a condition. TWPC_OUT pulses only on a winner of grade 3 with a wedged partner. -/
def Obligations.PairPaths : Prop :=
  ∀ s : State,
    (s.twin = false → ∀ (f : CeilFrame) (l : Fin 2) (b g : Bool) (x : List Byte) (o : SharedOut) (d : Option Bool),
      ∀ i ∈ [Instr.ceilingFrameReceived f, .ceilingFrameRetry l, .pairLineLost l, .pairLineRecover l, .beaconSend b, .beaconReceived b x g,
        .beaconHeartbeatLost, .partnerSilence, .handoverTick, .driveSenseProbe o d, .driveConflict o, .twpcAutoPulse], exec i s = .next s) ∧
    (s.twin = true → ∀ f : CeilFrame,
      ((f.eof = true ∨ frameCrc f.claim f.stat f.trig ≠ f.crc) → exec (.ceilingFrameReceived f) s = .next s) ∧
      (f.eof = false → frameCrc f.claim f.stat f.trig = f.crc → s.ownUnit f.claim = true → Does (.ceilingFrameReceived f) s fun t =>
        t.pair = { s.pair with conflict := true } ∧ s.OnlyLogged { t with pair := s.pair, free := s.free } []) ∧
      (f.eof = false → frameCrc f.claim f.stat f.trig = f.crc → s.ownUnit f.claim = false → s.pair.busLost = false → Does (.ceilingFrameReceived f) s fun t =>
        t.partnerClaim = some f.claim ∧ t.pair.conflict = false ∧ t.pair.claims = (0, f.claim) :: s.pair.claims.filter (fun p => p.1 != 0) ∧
          (f.line.val ∈ t.pair.lostArb ↔ f.line.val ∈ s.pair.lostArb ∨ s.ownClaim.toNat < f.claim.toNat) ∧ s.SameCoefs t ∧ s.SameBytes t)) ∧
    (s.twin = true → ∀ l : Fin 2,
      (l.val ∈ s.pair.lostArb → exec (.ceilingFrameRetry l) s =
        .next { s with pair := { s.pair with lostArb := s.pair.lostArb.filter (· != l.val) } }) ∧
      (l.val ∉ s.pair.lostArb → exec (.ceilingFrameRetry l) s = .next s) ∧
      (l.val ∉ s.pair.linesLost → Does (.pairLineLost l) s fun t => t.pair.linesLost = l.val :: s.pair.linesLost ∧ (4, l.val) ∈ t.flt.conds ∧
        (s.pair.linesLost = [] → t.pair.busLost = s.pair.busLost) ∧
        (s.pair.linesLost ≠ [] → t.pair.busLost = true ∧ (8, 0) ∈ t.flt.conds ∧ ∀ p ∈ t.pair.claims, p.1 ≠ 0)) ∧
      (l.val ∈ s.pair.linesLost → exec (.pairLineLost l) s = .next s ∧ Does (.pairLineRecover l) s fun t =>
        l.val ∉ t.pair.linesLost ∧ (4, l.val) ∉ t.flt.conds ∧ t.pair.busLost = false ∧
          (s.pair.busLost = true → t.pair.silent = false ∧ (8, 0) ∉ t.flt.conds)) ∧
      (l.val ∉ s.pair.linesLost → exec (.pairLineRecover l) s = .next s)) ∧
    (s.twin = true → ∀ b : Bool, s.portOn (b2n b) = true → Does (.beaconSend b) s fun t =>
      t.net.sent = [.beacon (b2n b) (s.beaconBody s.pair.beaconOut ++ s.beaconTag (s.beaconBody s.pair.beaconOut))] ∧
        t.pair = { s.pair with beaconOut := (s.pair.beaconOut + 1) % 65536 } ∧ t.regs = s.regs) ∧
    (s.twin = true → ∀ (b g : Bool) (x : List Byte),
      let claim : BitVec 16 := BitVec.ofNat 16 (leNat ((x.drop 8).take 2))
      let sound := x.length = 40 ∧ leNat (x.take 4) = 0x4250584C ∧ leNat ((x.drop 4).take 1) = 1 ∧ x.drop 24 = s.beaconTag (x.take 24)
      (¬sound → exec (.beaconReceived b x g) s = .next { s with pair := { s.pair with beaconDrops := s.pair.beaconDrops + 1 } }) ∧
      (sound → s.ownUnit claim = false → Does (.beaconReceived b x true) s fun t =>
        t.pair.beaconLost = false ∧ t.pair.beaconSeq = some (BitVec.ofNat 16 (leNat ((x.drop 6).take 2))) ∧
          (s.pair.silent = true → t.partnerClaim = some claim) ∧ (s.pair.silent = false → t.pair.claims = s.pair.claims))) ∧
    (s.twin = true → s.pair.beaconLost = false → Does .beaconHeartbeatLost s fun t => t.pair.beaconLost = true ∧ ∀ p ∈ t.pair.claims, p.1 ≠ 2) ∧
    (s.pair.beaconLost = true → exec .beaconHeartbeatLost s = .next s) ∧
    (s.silentNow = true → Does .partnerSilence s fun t => t.pair.silent = true ∧ t.pair.claims = [] ∧ t.pair.pstate = 0 ∧
      s.OnlyLogged { t with pair := s.pair } []) ∧
    (s.silentNow = false → exec .partnerSilence s = .next s) ∧
    (∀ (h : Word), s.twin = true → later32 h (s.cycle + 1) = false →
      (s.pair.role = some (h, true) → Does .handoverTick s fun t => t.astate = 4 ∧ t.pair.role = none ∧ getFld PAIR_STATUS.lead_chg t.pairFlags = 1 ∧
        (s.astate = 3 ∨ s.astate = 5 → t.ptp.dtime = s.pair.mdtime) ∧ (s.astate ≠ 3 → s.astate ≠ 5 → t.ptp.dtime = s.ptp.dtime)) ∧
      (s.pair.role = some (h, false) → s.astate = 4 → Does .handoverTick s fun t => t.pair.role = none ∧ t.pair.taken = [] ∧
        t.astate = (if s.pair.demoted then 1 else if s.pair.pstate = 3 ∨ s.pair.pstate = 5 then (if s.isHome then 3 else 5) else 6))) ∧
    ((s.pair.role = none ∨ ∃ h w, s.pair.role = some (h, w) ∧ later32 h (s.cycle + 1) = true) → exec .handoverTick s = .next s) ∧
    (∀ o : SharedOut,
      (s.twin = true → s.astate = 4 → o ∉ s.pair.taken → exec (.driveSenseProbe o (some false)) s =
        .next { s with pair := { s.pair with taken := o :: s.pair.taken } }) ∧
      (∀ d, (s.astate ≠ 4 ∨ d ≠ some false ∨ o ∈ s.pair.taken) → exec (.driveSenseProbe o d) s = .next s) ∧
      (s.synced = true → s.astate = 5 → o ∉ s.pair.taken → Does (.driveTaken o) s fun t =>
        t.pair = { s.pair with taken := o :: s.pair.taken } ∧ s.OnlyLogged { t with pair := s.pair, free := s.free } []) ∧
      ((s.synced = false ∨ s.astate ≠ 5 ∨ o ∈ s.pair.taken) → exec (.driveTaken o) s = .next s) ∧
      (s.twin = true → s.drivesPin o = true → Does (.driveConflict o) s fun t => (9, 0) ∈ t.flt.conds ∧ t.pair = s.pair) ∧
      (s.twin = true → s.drivesPin o = false → s.synced = true → s.astate = 5 → exec (.driveConflict o) s =
        .next { s with pair := { s.pair with drvDiff := true } })) ∧
    (s.mayPulse = true → (s.pair.silent = true ∨ ∃ c, s.partnerClaim = some c ∧ claimGrade c = 1) →
      ((s.pulsesIn 3600).filter (fun p => p.2)).length < 3 → s.pulsesIn 60 = [] → Does .twpcAutoPulse s fun t =>
        t.pair = { s.pair with pulses := (s.cycle, true) :: s.pulsesIn 3600 } ∧ s.OnlyLogged { t with pair := s.pair, free := s.free } []) ∧
    ((s.mayPulse = false ∨ s.pulsesIn 60 ≠ []) → exec .twpcAutoPulse s = .next s) ∧
    (exec .twpcHoldLapse s = .next { s with pair := { s.pair with hold := false } })

/-- A down link trains when its lanes lock, comes up from training, and falls with its flag and the claim of its path. The partner's cycle, inputs, signatures and regions are kept for the comparison where the units are in lockstep or compare. A verdict is recorded at d + 9 and the decision falls at d + 10: the lead with a failed self-test demotes, else it stays. An attach starts where the checks pass and is refused with its reason; bulk items land only on an attaching unit, one that comes too late fails the attempt; at the cut-over the receiver is SYNCED; promotion makes it STANDBY. -/
def Obligations.MirrorLink : Prop :=
  ∀ s : State,
    (s.twin = false → ∀ (ls : BitVec 4) (v : BitVec 16) (f : CycleOpen) (c : Word) (n : Fin 33) (b : BulkItem) (g : Bool) (p : PeerInfo) (rs : List LinkRec),
      ∀ i ∈ [Instr.sundogLanesLock ls v, .sundogLinkUp, .linkDown, .sundogAck g, .cycleOpen f, .cycleClose c n, .bulk b, .attachStart p, .cmdFrame rs,
        .standbyPromotion, .reclaimPromotion], exec i s = .next s) ∧
    (∀ (ls : BitVec 4) (v : BitVec 16), s.twin = true → s.pairRd PAIR_LINK.state = 0 → s.lanesNeeded ≤ (s.goodLanes ls).length →
      Does (.sundogLanesLock ls v) s fun t => t.pairRd PAIR_LINK.state = 1 ∧ t.pairRd PAIR_LINK.latency = v.toNat ∧
        (∀ j, j < 4 → ((t.pairReg PAIR_LINK).getLsbD (24 + j) = true ↔ j ∈ s.goodLanes ls)) ∧ t = { s with pair := { s.pair with words := t.pair.words } }) ∧
    (∀ (ls : BitVec 4) (v : BitVec 16), (s.pairRd PAIR_LINK.state ≠ 0 ∨ (s.goodLanes ls).length < s.lanesNeeded) → exec (.sundogLanesLock ls v) s = .next s) ∧
    (s.twin = true → s.pairRd PAIR_LINK.state = 1 → Does .sundogLinkUp s fun t => t.pairRd PAIR_LINK.state = 2 ∧ t.pair.silent = false ∧
      (s.isSet (REF_MON.en 6) = true → s.monState 6 = 0 → t.monState 6 = 1)) ∧
    (s.pairRd PAIR_LINK.state ≠ 1 → exec .sundogLinkUp s = .next s) ∧
    (s.twin = true → s.pairRd PAIR_LINK.state ≠ 0 → Does .linkDown s fun t => t.pairRd PAIR_LINK.state = 0 ∧ t.pairRd PAIR_LINK.lanes = 0 ∧
      getFld PAIR_STATUS.link_down t.pairFlags = 1 ∧ (∀ p ∈ t.pair.claims, p.1 ≠ 1) ∧ (s.isSet (REF_MON.en 6) = true → t.monState 6 = 0)) ∧
    (s.pairRd PAIR_LINK.state = 0 → exec .linkDown s = .next s) ∧
    (exec (.sundogAck true) s = .next s) ∧
    (s.twin = true → Does (.sundogAck false) s fun t => t.pairRd PAIR_LINKCNT.resent = min 65535 (s.pairRd PAIR_LINKCNT.resent + 1) ∧
      t = { s with pair := { s.pair with words := t.pair.words } }) ∧
    (∀ f : CycleOpen, s.twin = true → s.pairRd PAIR_LINK.state ≠ 0 →
      (s.ownUnit f.claim = true → Does (.cycleOpen f) s fun t => t.pair = { s.pair with conflict := true }) ∧
      (s.ownUnit f.claim = false → Does (.cycleOpen f) s fun t =>
        t.pair.opened = true ∧ t.pair.conflict = false ∧ t.pair.pcycle = f.cyc ∧ t.pair.pstate = f.astate.val ∧ t.pair.pgrade = f.grade.val ∧
          (s.inLockstep = true → t.pair.mdtime = f.dtime) ∧ (s.linkUp = true → t.partnerClaim = some f.claim) ∧ t = { s with pair := t.pair })) ∧
    (∀ (c : Word) (n : Fin 33), s.twin = true → s.linkUp = true → c = s.pair.pcycle → exec (.cycleClose c n) s =
      .next { s with pair := { s.pair with closed := some n.val } }) ∧
    (∀ (c : Word) (n : Fin 33), (s.linkUp = false ∨ c ≠ s.pair.pcycle) → exec (.cycleClose c n) s = .next s) ∧
    (∀ (c : Word) (p : Fin 32) (ws : List Word) (bs : Option (List (Fin 4))),
      (s.inLockstep = true → s.linkUp = true → c = s.cycle → Does (.input c p ws bs) s fun t =>
        t.pair.mirrorPos = p.val :: s.pair.mirrorPos ∧ (∀ l, bs = some l → t.pair.mirrorBias = l.map (·.val)) ∧
          (bs = none → t.pair.mirrorBias = s.pair.mirrorBias) ∧ t = { s with pair := t.pair }) ∧
      ((s.inLockstep = false ∨ s.linkUp = false ∨ c ≠ s.cycle) → exec (.input c p ws bs) s = .next s)) ∧
    (∀ (k : BitVec 16) (o : Word) (x : List Byte),
      ((s.inLockstep = false ∨ s.linkUp = false) → exec (.stateFrame k o x) s = .next s) ∧
      (∀ im r, s.inLockstep = true → s.linkUp = true → s.img.running = some im → im.regions.find? (fun r => r.id = k.toNat) = some r →
        let own := (List.range x.length).map (fun i => SMap.get memDefault s.pair.snap (r.addr + o.toNat + i))
        (own = x → exec (.stateFrame k o x) s = .next s) ∧
        (own ≠ x → exec (.stateFrame k o x) s = .next { s with pair := { s.pair with stateDiff := some k.toNat } }))) ∧
    (∀ gs : List (BitVec 64),
      (gs.length = 16 → s.compares = true → exec (.sig gs) s = .next { s with pair := { s.pair with psigs := some gs } }) ∧
      (gs.length = 16 → s.compares = false → exec (.sig gs) s = .next s)) ∧
    (∀ (c : BitVec 4) (h : Bool), s.twin = true → s.linkUp = true → s.engineRuns = true → Does (.cmdFrame [.power c h]) s fun t =>
      t.rd PWR_STATUS.pcond = c.toNat ∧ t.pwr = { s.pwr with phot2 := h } ∧ s.OnlyRegs { t with pwr := s.pwr } [PWR_STATUS]) ∧
    (∀ m : Mismatch, s.pair.mis = some m →
      (m.mine = none → 9 ≤ since (s.cycle + 1) m.d → exec .pairVerdict s =
        .next { s with pair := { s.pair with mis := some { m with mine := some (s.verdict m.d) } } }) ∧
      ((m.mine.isSome = true ∨ since (s.cycle + 1) m.d < 9) → exec .pairVerdict s = .next s) ∧
      (since (s.cycle + 1) m.d < 10 → exec .pairDecision s = .next s) ∧
      (10 ≤ since (s.cycle + 1) m.d → s.astate = 4 → ∀ e e' : Bool,
        (m.mine = some (true, e) → m.theirs = some (false, e') → Does .pairDecision s fun t =>
          t.rd PAIR_MISMATCH.decision = 3 ∧ t.pair.mis = none ∧ t.pair.demoted = true ∧ t.astate = 4) ∧
        (m.mine = some (false, e) → m.theirs = some (true, e') → Does .pairDecision s fun t =>
          t.rd PAIR_MISMATCH.decision = 2 ∧ t.pair = { s.pair with mis := none } ∧ s.OnlyRegs { t with pair := s.pair } [PAIR_MISMATCH]) ∧
        (m.mine = some (true, e) → m.theirs = some (true, e') → Does .pairDecision s fun t =>
          t.rd PAIR_MISMATCH.decision = 4 ∧ t.pair = { s.pair with mis := none } ∧ s.OnlyRegs { t with pair := s.pair } [PAIR_MISMATCH]))) ∧
    (s.pair.mis = none → exec .pairVerdict s = .next s ∧ exec .pairDecision s = .next s) ∧
    (∀ p : PeerInfo,
      (s.attachReady = true → (s.autoAttach = true ∨ s.pair.attachCmd.isSome = true) → s.attachCheck p = none → Does (.attachStart p) s fun t =>
        t.pair.attach = some ⟨decide (s.astate = 4), none, 0⟩ ∧ t.pairRd PAIR_ATTACH.progress = 0 ∧ t = { s with pair := t.pair }) ∧
      (∀ k, s.attachReady = true → s.autoAttach = true → s.pair.attachCmd = none → s.attachCheck p = some k → Does (.attachStart p) s fun t =>
        t.pairRd PAIR_ATTACH.reason = k ∧ getFld PAIR_STATUS.attach_refused t.pairFlags = 1 ∧ t.pair.attach = s.pair.attach) ∧
      ((s.attachReady = false ∨ (s.autoAttach = false ∧ s.pair.attachCmd = none)) → exec (.attachStart p) s = .next s)) ∧
    (s.twin = true → s.linkUp = true → s.astate = 2 →
      (∀ (a : Word) (x : List Byte), exec (.bulk (.mem a x)) s = .next (s.setBytes a.toNat x)) ∧
      (∀ (b : Bool) (m n : Fin 1024) (g : Word), Does (.bulk (.coef b m n g)) s fun t => t.gain b m.val n.val = g ∧ t = { s with coef := t.coef }) ∧
      (∀ a v : Word, Does (.bulk (.reg a v)) s fun t => t.reg a.toNat = v ∧ s.OnlyRegs t [a.toNat])) ∧
    (∀ b : BulkItem, (s.linkUp = false ∨ (s.astate ≠ 2 ∧ s.astate ≠ 3)) → exec (.bulk b) s = .next s) ∧
    (∀ b : BulkItem, s.twin = true → s.linkUp = true → s.astate = 3 → Does (.bulk b) s fun t => t.astate = 1 ∧ s.SameCoefs t) ∧
    (∀ (x : Attach) (c : Word) (k : Fin 8), s.pair.attach = some x → x.cut = none → later32 s.cycle c = false → (x.source = true → 8 ≤ since c s.cycle) →
      Does (.bulkCopyComplete c k) s fun t => t.pair.attach = some ⟨x.source, some c, k.val⟩ ∧ t.pairRd PAIR_ATTACH.progress = 100 ∧ t = { s with pair := t.pair }) ∧
    (∀ (c : Word) (k : Fin 8), (s.pair.attach = none ∨ ∃ x, s.pair.attach = some x ∧ x.cut.isSome = true) → exec (.bulkCopyComplete c k) s = .next s) ∧
    (∀ (c : Word) (k : Nat), s.pair.attachCmd = none → later32 c (s.cycle + 1) = false →
      (s.pair.attach = some ⟨false, some c, k⟩ → Does .cutoverTick s fun t => t.astate = 3 ∧ t.pair.attach = none ∧ t.reg PAIR_MATCH = 0 ∧
        t.op = OpState.ofCode k ∧ t.pair.syncedAt = s.cycle + 1) ∧
      (s.pair.attach = some ⟨true, some c, k⟩ → exec .cutoverTick s = .next { s with pair := { s.pair with attach := none, attachCmd := none } })) ∧
    (s.pair.attach = none → exec .cutoverTick s = .next s) ∧
    (s.twin = true → s.astate = 3 → s.isHome = false → 16 ≤ (s.reg PAIR_MATCH).toNat → Does .standbyPromotion s fun t => t.astate = 5 ∧
      s.OnlyRegs t [PAIR_STATUS, SYS_STATE]) ∧
    ((s.astate ≠ 3 ∨ s.isHome = true ∨ (s.reg PAIR_MATCH).toNat < 16) → exec .standbyPromotion s = .next s) ∧
    (s.reclaimDue (s.cycle + 1) = true → Does .reclaimPromotion s fun t => t.astate = 5 ∧ t.pair = { s.pair with withheld := false } ∧
      s.OnlyRegs { t with pair := s.pair } [PAIR_STATUS, SYS_STATE]) ∧
    (s.reclaimDue (s.cycle + 1) = false → exec .reclaimPromotion s = .next s)

/-- A packet on a ring that does not run, or while engine cycles do not run, is left where it is; with no completion room cq_stall is set and nothing else; behind a fence it waits while the ring has outstanding commands; with the command processor stopped it is fetched and queued, on ring 0 in the firmware queue of 32 places. -/
def Obligations.RingArrival : Prop :=
  ∀ (s : State) (i : Instr) (op : Nat) (c : Cmd), i.packet = some (op, c) → c.op = op → c.origin = .ring →
    ((s.engineRuns = false ∨ s.ringRun c.ring.val = false) → exec i s = .next s) ∧
    (s.engineRuns = true → s.ringRun c.ring.val = true → s.hasRoom c.ring.val = false → Does i s fun t =>
      t.rd (CMD_RING_STAT.cq_stall c.ring.val) = 1 ∧ t.outstanding c.ring.val = s.outstanding c.ring.val ∧
        s.OnlyRegs t [CMD_RING_STAT c.ring.val]) ∧
    (s.engineRuns = true → s.ringRun c.ring.val = true → s.hasRoom c.ring.val = true → c.fence = true →
      s.outstanding c.ring.val ≠ 0 → exec i s = .next s) ∧
    (s.engineRuns = true → s.ringRun c.ring.val = true → s.hasRoom c.ring.val = true → c.fence = false → s.cpDown = true →
      s.rd (CMD_RING_CFG.size c.ring.val) ≤ 4 → c.ring.val ≠ 0 → Does i s fun t =>
        t.q = { s.q with fetched := s.q.fetched ++ [c] } ∧ t.outstanding c.ring.val = s.outstanding c.ring.val + 1 ∧
          s.OnlyRegs { t with q := s.q } [CMD_RING_STAT c.ring.val]) ∧
    (s.engineRuns = true → s.ringRun c.ring.val = true → s.hasRoom c.ring.val = true → c.fence = false → s.cpDown = true →
      s.rd (CMD_RING_CFG.size c.ring.val) ≤ 4 → c.ring.val = 0 → isTrigOp op = false → s.q.ring0q.length < 32 → Does i s fun t =>
        t.q = { s.q with ring0q := s.q.ring0q ++ [c] } ∧ t.outstanding 0 = s.outstanding 0 + 1 ∧
          s.OnlyRegs { t with q := s.q } [CMD_RING_STAT 0])

/-- A packet whose length is outside the opcode's range is answered BAD_LENGTH, one on a ring that may not carry the opcode NOT_PERMITTED, one whose tag is taken BAD_SEQUENCE, one that names no object of the class BAD_TARGET, one with a bad reply buffer BAD_PARAM with index 4, each with the checks before it passed. A check of R408 that fails sets CMD_STATUS.viol; the other answers change nothing beside the completion entry. -/
def Obligations.PacketChecks : Prop :=
  ∀ (s : State) (i : Instr) (op : Nat) (c : Cmd) (r : OpRow), i.packet = some (op, c) → c.op = op → opFind op = some r → AtHead s c →
    let x := if c.xreply then 2 else 0
    let p := r.spec
    ((c.len.toNat < 4 ∨ 64 < c.len.toNat) → Does i s fun t =>
      t.isSet CMD_STATUS.viol = true ∧ (t.memWord (s.entryAddr c.ring.val)).toNat / 2 ^ 16 % 256 = 0x43 ∧
        t.rd (CMD_RING_CI.cpi c.ring.val) = (s.rd (CMD_RING_CI.cpi c.ring.val) + 1) % 65536 ∧ t.q = s.q) ∧
    (4 ≤ c.len.toNat → c.len.toNat ≤ 64 → c.flags.toNat < 32 → c.resv = 0 → (c.ring.val < p.rlo ∨ p.rhi < c.ring.val) → Does i s fun t =>
      t.isSet CMD_STATUS.viol = true ∧ (t.memWord (s.entryAddr c.ring.val)).toNat / 2 ^ 16 % 256 = 0x50 ∧ t.q = s.q) ∧
    (4 ≤ c.len.toNat → c.len.toNat ≤ 64 → c.flags.toNat < 32 → c.resv = 0 → p.rlo ≤ c.ring.val → c.ring.val ≤ p.rhi →
      (c.len.toNat < p.lo + x ∨ p.hi + x < c.len.toNat) → Does i s fun t => Answered s t c 0x43 0 s.cycle []) ∧
    (4 ≤ c.len.toNat → c.len.toNat ≤ 64 → c.flags.toNat < 32 → c.resv = 0 → p.rlo ≤ c.ring.val → c.ring.val ≤ p.rhi →
      p.lo + x ≤ c.len.toNat → c.len.toNat ≤ p.hi + x → s.tagTaken c = true → Does i s fun t =>
        t.isSet CMD_STATUS.viol = true ∧ (t.memWord (s.entryAddr c.ring.val)).toNat / 2 ^ 16 % 256 = 0x44 ∧ t.q = s.q) ∧
    (4 ≤ c.len.toNat → c.len.toNat ≤ 64 → c.flags.toNat < 32 → c.resv = 0 → p.rlo ≤ c.ring.val → c.ring.val ≤ p.rhi →
      p.lo + x ≤ c.len.toNat → c.len.toNat ≤ p.hi + x → s.tagTaken c = false → targetsOf p c s = none → Does i s fun t =>
        Answered s t c 0x41 0 s.cycle []) ∧
    (∀ ts, 4 ≤ c.len.toNat → c.len.toNat ≤ 64 → c.flags.toNat < 32 → c.resv = 0 → p.rlo ≤ c.ring.val → c.ring.val ≤ p.rhi →
      p.lo + x ≤ c.len.toNat → c.len.toNat ≤ p.hi + x → s.tagTaken c = false → targetsOf p c s = some ts → replyBufOk c = false →
        Does i s fun t =>
          (t.memWord (s.entryAddr c.ring.val)).toNat / 2 ^ 16 % 256 = 0x42 ∧
            (t.memWord (s.entryAddr c.ring.val + 12)).toNat = 4 * 65536 ∧ t.q = s.q)

/-- Each reading command that passes its checks is answered DONE at once with its own words, at the address of the next completion entry, and nothing but that entry, its index and the reply buffer changes. Rows of the opcode table with replies over 16 bytes show the first 16 in the entry. -/
def Obligations.ReadCommands : Prop :=
  ∀ (s : State) (c : Cmd),
    (∀ x ∈ [(Instr.nop, opNop, ([] : List Word)),
        (.sysInfo, opSysInfo,
          [s.reg SYS_ID, BitVec.ofNat 32 (0xB0 + s.rd SYS_STATE.state * 2 ^ 8 + s.rd SYS_STATE.attach * 2 ^ 12 + s.rd SYS_STATE.grade * 2 ^ 16),
            s.fwVersion, s.reg CMD_EPOCH]),
        (.pairRead, opPairRead, [s.reg PAIR_STATUS, s.reg PAIR_CLAIM, s.reg PAIR_MATCH, s.reg PAIR_LINK])],
      Ready s c x.2.1.spec → Does (x.1 c) s fun t => Answered s t c 0 0 s.cycle (bytesOfWords x.2.2)) ∧
    (Ready s c opGroupRead.spec → Does (.groupRead c) s fun t =>
      ∃ ws : List Word, Answered s t c 0 0 s.cycle (bytesOfWords ws) ∧ ws.length = 36 ∧
        (ws.getD 0 0).toNat = ((s.groupOf c.index.toNat).1 + (s.groupOf c.index.toNat).2.length * 2 ^ 16) % 2 ^ 32 ∧
        (∀ b, b < 1024 → (ws.getD (4 + b / 32) 0).getLsbD (b % 32) = (s.groupOf c.index.toNat).2.contains b)) ∧
    (Ready s c opXptRead.spec → ∀ n k : Nat, (c.p 0).toNat ≤ 1 → (c.p 1).toNat = n * 65536 + k → 1 ≤ k → n + k ≤ 1024 → s.inDusk 4 = false →
      Does (.xptRead c) s fun t =>
        Answered s t c 0 0 s.cycle
          (bytesOfWords ((List.range k).map (fun i => s.gain ((s.col c.index.toNat).bank != (c.p 0 == 1)) c.index.toNat (n + i))))) ∧
    (Ready s c opMeterRead.spec → 1 ≤ (c.p 1).toNat → (c.p 0).toNat + (c.p 1).toNat ≤ 2048 → (c.p 0).toNat < 2048 → (c.p 1).toNat < 2048 →
      Does (.meterRead c) s fun t =>
        Answered s t c 0 0 s.cycle (bytesOfWords ((List.range (c.p 1).toNat).flatMap (fun i =>
          [s.reg (PATCH_MTR_PEAK ((c.p 0).toNat + i)), s.reg (PATCH_MTR_MS ((c.p 0).toNat + i))])))) ∧
    (Ready s c opAsrcRead.spec → s.gateShut 5 = false → s.isSet (ASRC_CH.used c.index.toNat) = true → Does (.asrcRead c) s fun t =>
      let k := s.rd (ASRC_CH.tracker c.index.toNat)
      Answered s t c 0 0 s.cycle
        (bytesOfWords [s.reg (ASRC_CH c.index.toNat), s.reg (ASRC_TRK_CFG k), s.reg (ASRC_TRK_STATE k), s.reg (ASRC_TRK_RATIO k)])) ∧
    (Ready s c opTimeRead.spec → s.ptp.stepTick = none → Does (.timeRead c) s fun t =>
      Answered s t c 0 0 s.cycle (bytesOfWords
        [s.ptp.dtime.extractLsb' 0 32, s.ptp.dtime.extractLsb' 32 32, s.cycle, BitVec.ofNat 32 (s.mc * 16 + s.servo)])) ∧
    (Ready s c opImgStatus.spec → ∀ im : Image, s.img.running = some im → Does (.imgStatus c) s fun t =>
      t.memWord (s.entryAddr c.ring.val + 20) = im.imageId ∧ t.memWord (s.entryAddr c.ring.val + 24) = im.version) ∧
    (Ready s c opSupRead.spec → Does (.supRead c) s fun t =>
      t.memWord (s.entryAddr c.ring.val + 16) = s.reg SUP_STATUS ∧
        (t.memWord (s.entryAddr c.ring.val + 28)).toNat % 8 = s.rd SYS_STATE.grade) ∧
    (Ready s c opSecStatus.spec → Does (.secStatus c) s fun t =>
      (t.memWord (s.entryAddr c.ring.val + 16)).toNat % 8 = s.rd SEC_STATUS.revoked % 8 ∧
        (t.memWord (s.entryAddr c.ring.val + 16)).getLsbD 8 = s.isSet SEC_STATUS.jtag_locked ∧
        (t.memWord (s.entryAddr c.ring.val + 16)).getLsbD 9 = s.isSet SEC_STATUS.wp_on) ∧
    (Ready s c opLogRead.spec → c.xreply = false → later32 s.logOldest (c.p 0) = false → 1 ≤ (c.p 1).toNat → (c.p 1).toNat ≤ 2048 →
      Does (.logRead c) s fun t => Answered s t c 0 0 s.cycle (bytesOfWords [s.logOldest, s.reg LOG_NEXT])) ∧
    (Ready s c opOvrRead.spec → Does (.ovrRead c) s fun t =>
      Answered s t c 0 0 s.cycle (bytesOfWords ([s.trigWord c.index.toNat, BitVec.ofNat 32 (s.columnsOf c.index.toNat), s.reg OVR_GEN,
        s.reg OVR_LIVE_CRC] ++ (List.range 16).map (s.live c.index.toNat)))) ∧
    (Ready s c opSapRead.spec → (c.p 0).toNat < 256 → s.net.sap.length ≤ 256 → Does (.sapRead c) s fun t =>
      (t.memWord (s.entryAddr c.ring.val + 16)).toNat = s.net.sap.length) ∧
    (Ready s c opParamRead.spec → ∀ d : ParamDesc, (c.p 0).toNat < 2 ^ 17 → s.bypassStrip c.cls.toNat c.index.toNat = false →
      s.shedStrip c.cls.toNat c.index.toNat = false → s.stripDown c.cls.toNat c.index.toNat = false →
      s.paramOf c.cls.toNat c.index.toNat ((c.p 0).toNat % 65536) = some d → Does (.paramRead c) s fun t =>
        Answered s t c 0 0 s.cycle (bytesOfWords (BitVec.ofNat 32 ((s.shadowOf c.cls.toNat c.index.toNat).code + d.size * 2 ^ 8) ::
          (List.range d.size).map (fun i => s.memWord (s.paramAddr c.cls.toNat c.index.toNat (d.woff + i) ((c.p 0).getLsbD 16))))))

/-- A timed command whose packet and parameters pass its checks is accepted: it counts as outstanding and waits, in decision order, for the earliest apply cycle or the one it names, with a pending-table entry where that is later. No effect happens before that tick and no completion entry is written yet. -/
def Obligations.TimedCommands : Prop :=
  ∀ (s : State) (c : Cmd) (a : Word), applyOf c s = .ok a → (a = s.earliest ∨ s.pendFree c.ring.val = true) →
    ∀ x ∈ ([(.sysState, opSysState, (c.p 0).toNat ≤ 5),
        (.sysReset, opSysReset, (c.p 0).toNat / 2 * 2 = 0xA55A0000),
        (.groupDef, opGroupDef, 2 ≤ (c.p 0).toNat ∧ (c.p 0).toNat ≤ 15 ∧ (c.p 0).toNat ≠ 5 ∧ s.groupPending c.index.toNat = false ∧
          ∀ j, j < 1024 → (c.p (1 + j / 32)).getLsbD (j % 32) = true → classHas (c.p 0).toNat j = true),
        (.regWrite, opRegWrite, (c.p 0).toNat % 4 = 0 ∧
          ∀ j, j < c.params.length - 1 → regAssigned ((c.p 0).toNat + 4 * j) = true ∧ regClosed ((c.p 0).toNat + 4 * j) = false),
        (.regRmw, opRegRmw, (c.p 0).toNat % 4 = 0 ∧ regAssigned (c.p 0).toNat = true ∧ regClosed (c.p 0).toNat = false),
        (.patchIn, opPatchIn, (c.p 0).toNat < 2 ^ 22 ∧ validSource ((c.p 0).toNat % 65536) = true ∧
          s.patchProtected 0 c.index.toNat = false ∧ s.synced = false),
        (.sinkSet, opSinkSet, InMasks c 0 [cfgMask PATCH_REQ1, if getFld PATCH_REQ1.op (c.p 0) = 1 then 0x3FF else 0] ∧
          1 ≤ getFld PATCH_REQ1.op (c.p 0) ∧ getFld PATCH_REQ1.op (c.p 0) ≤ 4 ∧ getFld PATCH_REQ1.entry (c.p 0) < 1032 ∧
          s.patchProtected (getFld PATCH_REQ1.op (c.p 0)) (getFld PATCH_REQ1.entry (c.p 0)) = false),
        (.xptNode, opXptNode, s.inDusk 4 = false ∧ s.colShed (c.index.toNat / 1024) = false),
        (.xptCol, opXptCol, (c.p 0).toNat + (c.params.length - 1) ≤ 1024 ∧ (c.p 0).toNat < 1024 ∧ s.inDusk 4 = false ∧
          s.colShed c.index.toNat = false),
        (.capture, opCapture, InMasks c 0 [0xF00003FF] ∧ fieldOf (c.p 0) 29 28 ≠ 3 ∧ s.capTaken (fieldOf (c.p 0) 31 30) = false),
        (.paramWrite, opParamWrite, (c.p 0).toNat < 2 ^ 24 ∧ firstOf (s.paramWriteChecks c c.index.toNat) = none),
        (.imgPin, opImgPin, (c.p 0).toNat ≤ 1 ∧ (s.imgSlot (c.p 0).toNat).state = .valid),
        (.spConfig, opSpConfig, InMasks c 0 (spRegs c.index.toNat |>.map cfgMask) ∧ s.objDown 6 c.index.toNat = false),
        (.spCtrl, opSpCtrl, (c.p 0).toNat ≤ 3 ∧ s.objDown 6 c.index.toNat = false),
        (.spMask, opSpMask, s.objDown 6 c.index.toNat = false),
        (.decConfig, opDecConfig, InMasks c 0 (decRegs c.index.toNat |>.map cfgMask) ∧ s.objDown 0x0A c.index.toNat = false),
        (.decTaps, opDecTaps, (c.p 0).toNat + (c.params.length - 1) ≤ 96 ∧ s.objDown 0x0A c.index.toNat = false),
        (.decCtrl, opDecCtrl, (c.p 0).toNat ≤ 1 ∧ s.objDown 0x0A c.index.toNat = false),
        (.decClock, opDecClock, InMasks c 0 (decClockRegs.map cfgMask) ∧ s.gateShut 4 = false),
        (.anaIn, opAnaIn, InMasks c 0 [cfgMask (ANA_IN_CFG c.index.toNat), cfgMask (ANA_BIAS_THR c.index.toNat)]),
        (.anaOut, opAnaOut, InMasks c 0 [cfgMask (ANA_OUT_CFG c.index.toNat)]),
        (.netConfig, opNetConfig, InMasks c 0 (1 :: (netRegs (fieldOf (c.p 0) 0 0)).map cfgMask) ∧ s.portDown (c.p 0).toNat = false),
        (.strmTxSetup, opStrmTxSetup, c.index.toNat < 256 ∧ InMasks c 0 txMasks),
        (.strmRxSetup, opStrmRxSetup, 256 ≤ c.index.toNat ∧ InMasks c 0 rxMasks),
        (.strmCtrl, opStrmCtrl, (c.p 0).toNat ≤ 1),
        (.strmTag, opStrmTag, (c.p 0).toNat ≤ 15),
        (.ptpConfig, opPtpConfig, InMasks c 0 (ptpRegs.map cfgMask) ∧ getFld PTP_CFG.profile (c.p 0) ≠ 3 ∧ ptpIntvOk c = true),
        (.ptpRestep, opPtpRestep, True),
        (.refSelect, opRefSelect, (c.p 0).toNat ≤ 6),
        (.chainWrite, opChainWrite, (c.p 0).toNat < 4096 ∧
          ∀ j, j < 16 → (chainStepOf c j).ok = true ∧ (c.p (2 + 2 * j)).toNat < 65536),
        (.playStart, opPlayStart, InMasks c 0 [0x70FFF] ∧ (fieldOf (c.p 0) 18 16 < 5 ∨ c.ring.val < 4) ∧
          s.chainOk (fieldOf (c.p 0) 11 0) = true),
        (.playStop, opPlayStop, True),
        (.genCtrl, opGenCtrl, (c.p 0).toNat ≤ 7),
        (.cinConfig, opCinConfig, InMasks c 0 [cfgMask (SUP_CIN_CFG c.index.toNat)]),
        (.drvConfig, opDrvConfig, InMasks c 0 [cfgMask (SUP_DRV_CFG c.index.toNat)]),
        (.gpioConfig, opGpioConfig, InMasks c 0 (gpioRegs.map cfgMask)),
        (.lsLearn, opLsLearn, (c.p 0).toNat < 32),
        (.pairConfig, opPairConfig, InMasks c 0 (pairRegs.map cfgMask)),
        (.pairAttach, opPairAttach, s.twin = true ∧ s.linkUp = true ∧ s.attachable = true),
        (.pairYield, opPairYield, s.twin = true ∧ s.mayYield = true),
        (.twpcPulse, opTwpcPulse, s.mayPulse = true),
        (.selftest, opSelftest, (c.p 0).toNat < 2 ^ 24 ∧ (c.p 0).toNat / 16 % 16 = 0 ∧ (c.p 0).toNat % 16 ≤ 7 ∧
          testResOk (selftestKind c) (selftestRes c) = true),
        (.memDusk, opMemDusk, InMasks c 0 [cfgMask MEM_DUSK]),
        (.wispConfig, opWispConfig, InMasks c 0 [cfgMask MEM_WISP_CFG]),
        (.keyRevoke, opKeyRevoke, (c.p 0).toNat ≤ 2 ∧ c.p 1 = 0x4B564552),
        (.mgmtKey, opMgmtKey, (c.p 0).toNat ≤ 1),
        (.jtagLock, opJtagLock, c.p 0 = 0x4A544C4B),
        (.wpSet, opWpSet, (c.p 0).toNat ≤ 1),
        (.logMark, opLogMark, True),
        (.ovrStage, opOvrStage, InMasks c 0 ((List.range 16).map (fun k => 0xFFFFFFFF - ovrReserved k)) ∧ s.isSet OVR_STATUS.armed = false),
        (.ovrStageMask, opOvrStageMask, (c.p 0).toNat < 64 ∧ s.isSet OVR_STATUS.armed = false),
        (.ovrArm, opOvrArm, (c.p 0).toNat < 65536),
        (.ovrColclass, opOvrColclass, (c.p 0).toNat ≤ 7)] : List ((Cmd → Instr) × OpRow × Prop)),
      Ready s c x.2.1.spec → x.2.2 → Does (x.1 c) s fun t =>
        Accepted s t c a 1 [c.index.toNat] ∧ s.SameBytes t ∧ t = { s with regs := t.regs, q := t.q }

/-- A configuration command whose words lie in their ranges is accepted and waits for its apply cycle; thresholds of a contact set that do not rise, or a zone that may not enable its corrections, are refused BAD_PARAM with the header index of the word, and nothing but the completion entry changes. -/
def Obligations.TimedWithCondition : Prop :=
  ∀ (s : State) (c : Cmd) (a : Word), applyOf c s = .ok a → (a = s.earliest ∨ s.pendFree c.ring.val = true) →
    (Ready s c opCinThr.spec → InMasks c 0 [1, cfgMask (SUP_CIN_THR0 0), cfgMask (SUP_CIN_THR1 0)] →
      let sa := getFld (SUP_CIN_THR0.sa 0) (c.p 1)
      let an := getFld (SUP_CIN_THR0.an 0) (c.p 1)
      let no := getFld (SUP_CIN_THR1.no 0) (c.p 2)
      (sa < an ∧ an < no → Does (.cinThr c) s fun t => Accepted s t c a 1 [0] ∧ s.SameBytes t) ∧
        (¬ (sa < an ∧ an < no) → Does (.cinThr c) s fun t =>
          Answered s t c 0x42 (if c.xreply then 7 else 5) s.cycle [])) ∧
    (Ready s c opRefConfig.spec → InMasks c 0 (refRegs.map cfgMask) → s.outOfRange REF_TOL (c.p 2) 0 = false →
      s.outOfRange REF_WCLK_OFS (c.p 5) 0 = false → s.outOfRange REF_PPS_OFS (c.p 6) 0 = false → s.outOfRange REF_FRM_OFS (c.p 7) 0 = false →
      Does (.refConfig c) s fun t => Accepted s t c a 1 [c.index.toNat] ∧ s.SameBytes t) ∧
    (Ready s c opLsConfig.spec → InMasks c 0 (31 :: (lsRegs 0).map cfgMask) → s.synced = false → Does (.lsConfig c) s fun t =>
      Accepted s t c a 1 [0] ∧ s.SameBytes t) ∧
    (Ready s c opVisConfig.spec → InMasks c 0 (31 :: (visRegs 0).map cfgMask) → s.synced = false →
      (s.visEnableOk (c.p 1) = true → Does (.visConfig c) s fun t => Accepted s t c a 1 [0] ∧ s.SameBytes t) ∧
      (s.visEnableOk (c.p 1) = false → Does (.visConfig c) s fun t =>
        Answered s t c 0x42 (if c.xreply then 7 else 5) s.cycle [])) ∧
    (Ready s c opGenConfig.spec → within (c.p 0) (0x7FFFFFFF &&& cfgMask (GEN_CFG c.index.toNat)) = true →
      InMasks c 1 (((genRegs c.index.toNat).drop 1).map cfgMask) → getFld (GEN_CFG.type c.index.toNat) (c.p 0) < 6 →
      Does (.genConfig c) s fun t => Accepted s t c a 1 [c.index.toNat] ∧ s.SameBytes t)

/-- XPT_SWAP and XPT_COPY take their queue entry at the decision; PARAM_SWAP leaves the quad PENDING until its apply cycle; an IMG_ACTIVATE of a slot that is not VALID is refused and one that passes stages the activation; OVR_COMMIT that passes sets commit_pend; a chunked write or MEM_READ joins the background jobs; ABORT of an outstanding command takes effect at the next tick and of an unknown one is NOT_PENDING; OVR_ASSERT and OVR_RELEASE change the ring0 flag at once and complete at the assertion tick; REG_READ returns one register. -/
def Obligations.CommandsWithQueues : Prop :=
  ∀ (s : State) (c : Cmd) (a : Word), applyOf c s = .ok a → (a = s.earliest ∨ s.pendFree c.ring.val = true) →
    (Ready s c opXptSwap.spec → (c.p 0).toNat < 1024 → s.inDusk 4 = false → s.colShed c.index.toNat = false →
      s.colSkips c.index.toNat a = false → s.xpt.queue.length < 32 → Does (.xptSwap c) s fun t =>
        t.xpt = { s.xpt with queue := s.xpt.queue ++ [⟨a, 0, 0, c.index.toNat, (c.p 0).toNat + 1, some c.ref⟩] } ∧
          Accepted s t c a 1 [c.index.toNat] ∧ s.SameBytes t ∧ s.SameCoefs t) ∧
    (Ready s c opXptCopy.spec → s.inDusk 4 = false → s.colShed c.index.toNat = false → s.colSkips c.index.toNat a = false →
      s.xpt.queue.length < 32 → Does (.xptCopy c) s fun t =>
        t.xpt = { s.xpt with queue := s.xpt.queue ++ [⟨a, 1, 0, c.index.toNat, 1, some c.ref⟩] } ∧
          Accepted s t c a 1 [c.index.toNat] ∧ s.SameBytes t ∧ s.SameCoefs t) ∧
    (Ready s c opXptCopy.spec → s.inDusk 4 = false → s.colShed c.index.toNat = false → s.colSkips c.index.toNat a = true →
      Does (.xptCopy c) s fun t => Answered s t c 0x10 0 s.cycle []) ∧
    (Ready s c opParamSwap.spec → s.bypassStrip c.cls.toNat c.index.toNat = false → s.shedStrip c.cls.toNat c.index.toNat = false →
      s.stripDown c.cls.toNat c.index.toNat = false → s.shadowFree c.cls.toNat c.index.toNat = true → Does (.paramSwap c) s fun t =>
        t.shadowOf c.cls.toNat c.index.toNat = .pending ∧ Accepted s t c a 1 [c.index.toNat] ∧ s.SameBytes t) ∧
    (Ready s c opImgActivate.spec → (c.p 0).toNat < 512 → fieldOf (c.p 0) 2 1 ≠ 3 → s.img.act = none →
      (s.imgSlot (fieldOf (c.p 0) 0 0)).state ≠ .valid → Does (.imgActivate c) s fun t => Answered s t c 0x44 0 s.cycle []) ∧
    (Ready s c opOvrCommit.spec → (c.p 0).toNat < 65536 → s.isSet OVR_STATUS.armed = true → s.isSet OVR_STATUS.commit_pend = false →
      Does (.ovrCommit c) s fun t => s.commitCheck ((c.p 0).extractLsb' 0 16) (c.p 1) = .pass →
        t.isSet OVR_STATUS.commit_pend = true ∧ t.ovr.commitAt = some a ∧ t.ovr.commitBy = some c.ref ∧
          t.q.outst = s.q.outst ++ [⟨c, a, .waiting, a != s.earliest, 1, none, [c.index.toNat], []⟩]) ∧
    (∀ x ∈ ([(.imgWrite, opImgWrite, firstOf (chunkChecks c 1) = none ∧ s.slotClosed (fieldOf (c.p 0) 0 0) = false),
        (.fwWrite, opFwWrite, firstOf (chunkChecks c 1) = none ∧ fieldOf (c.p 0) 0 0 ≠ s.img.fwRun),
        (.msgWrite, opMsgWrite, firstOf (chunkChecks c 0x1FFF) = none ∧ firstOf (s.msgChecks c) = none)] : List ((Cmd → Instr) × OpRow × Prop)),
      Ready s c x.2.1.spec → x.2.2 → s.held 6 = false → s.q.jobs.length < 8 → Does (x.1 c) s fun t =>
        t.q = { s.q with jobs := s.q.jobs ++ [⟨c⟩], outst := s.q.outst ++ [⟨c, s.cycle, .fixed, false, 1, none, [c.index.toNat], []⟩] } ∧
          (c.quiet = true → s.SameBytes t)) ∧
    (Ready s c opMemRead.spec → c.xreply = true → 16 ≤ (c.p 1).toNat → (c.p 1).toNat ≤ 65536 → readable (c.p 0).toNat (c.p 1).toNat = true →
      s.padDown (c.p 0).toNat = false → s.q.jobs.length < 8 → Does (.memRead c) s fun t =>
        t.q.jobs = s.q.jobs ++ [⟨c⟩] ∧ (c.quiet = true → s.SameBytes t)) ∧
    (Ready s c opAbort.spec → ∀ (n : Fin 16) (tag : BitVec 16), c.p 0 = BitVec.ofNat 32 (n.val * 65536 + tag.toNat) →
      s.findFetched ⟨n.val, tag.toNat, .ring⟩ = none → (n.val ≠ c.ring.val ∨ tag ≠ c.tag) →
      ((s.findOut ⟨n.val, tag.toNat, .ring⟩).isSome = true → Does (.abort c) s fun t =>
        t.q = { s.q with aborts := s.q.aborts ++ [⟨c, ⟨n.val, tag.toNat, .ring⟩, s.cycle + 1⟩] } ∧ s.SameBytes t) ∧
      (s.findOut ⟨n.val, tag.toNat, .ring⟩ = none → s.findSubmitted n.val tag.toNat = none → Does (.abort c) s fun t =>
        Answered s t c 0x20 0 s.cycle [])) ∧
    (Ready s c opOvrAssert.spec → s.synced = false → s.tEnable c.index.toNat = true → s.tRing0En c.index.toNat = true →
      (s.trig c.index.toNat).suspended = false → (s.trig c.index.toNat).ring0 = false → Does (.ovrAssert c) s fun t =>
        (t.trig c.index.toNat).ring0 = true ∧ (∀ k, k < 64 → k ≠ c.index.toNat → t.trig k = s.trig k) ∧
          t.q.outst = s.q.outst ++ [⟨c, s.cycle, .fixed, false, 1, some (s.cycle + 1), [c.index.toNat], []⟩] ∧ s.SameBytes t) ∧
    (Ready s c opOvrAssert.spec → (s.tEnable c.index.toNat = false ∨ s.tRing0En c.index.toNat = false) → Does (.ovrAssert c) s fun t =>
      Answered s t c 0x50 0 s.cycle []) ∧
    (Ready s c opOvrRelease.spec → s.synced = false → (s.trig c.index.toNat).ring0 = true → Does (.ovrRelease c) s fun t =>
      (t.trig c.index.toNat).ring0 = false ∧ (∀ k, k < 64 → k ≠ c.index.toNat → t.trig k = s.trig k) ∧
        t.q.outst = s.q.outst ++ [⟨c, s.cycle, .fixed, false, 1, some (s.cycle + 1), [c.index.toNat], []⟩] ∧ s.SameBytes t) ∧
    (Ready s c opRegRead.spec → c.p 0 = BitVec.ofNat 32 SYS_ID → c.p 1 = 1 → Does (.regRead c) s fun t =>
      t.memWord (s.entryAddr c.ring.val + 16) = s.reg SYS_ID ∧ s.RegsBut t [CMD_RING_CI c.ring.val, CMD_RING_STAT c.ring.val])

/-- A command of a group or broadcast is accepted for all of its targets at once; where a target cannot be used it is refused with the lowest failing object as reply word and changes nothing. PLAY_START may name any player. What the lead of a pair accepts it sends to the other unit with its apply cycle; a unit in lockstep keeps a timed command as served and sends it to the lead. -/
def Obligations.GroupAndPairCommands : Prop :=
  ∀ (s : State) (c : Cmd) (a : Word), AtHead s c → applyOf c s = .ok a → (a = s.earliest ∨ s.pendFree c.ring.val = true) →
    (∀ (x : (Cmd → Instr) × OpRow × (Nat → Prop)) (ts : List Nat), x ∈ ([(.strmCtrl, opStrmCtrl, fun _ => (c.p 0).toNat ≤ 1),
        (.playStop, opPlayStop, fun _ => True),
        (.genCtrl, opGenCtrl, fun _ => (c.p 0).toNat ≤ 7),
        (.ovrColclass, opOvrColclass, fun _ => (c.p 0).toNat ≤ 7),
        (.spMask, opSpMask, fun k => s.objDown 6 k = false),
        (.spCtrl, opSpCtrl, fun k => (c.p 0).toNat ≤ 3 ∧ s.objDown 6 k = false),
        (.decCtrl, opDecCtrl, fun k => (c.p 0).toNat ≤ 1 ∧ s.objDown 0x0A k = false),
        (.cinConfig, opCinConfig, fun k => within (c.p 0) (cfgMask (SUP_CIN_CFG k)) = true),
        (.drvConfig, opDrvConfig, fun k => within (c.p 0) (cfgMask (SUP_DRV_CFG k)) = true),
        (.anaOut, opAnaOut, fun k => within (c.p 0) (cfgMask (ANA_OUT_CFG k)) = true)] : List ((Cmd → Instr) × OpRow × (Nat → Prop))) →
      Alone s → HeadOk s c x.2.1.spec → c.scope ≠ 0 → targetsOf x.2.1.spec c s = some ts → (∀ k ∈ ts, x.2.2 k) →
      Does (x.1 c) s fun t => Accepted s t c a 1 ts ∧ s.SameBytes t ∧ t = { s with regs := t.regs, q := t.q }) ∧
    (∀ (l : List Nat) (k : Nat) (r : List Nat), Alone s → HeadOk s c opSpMask.spec → c.scope ≠ 0 → targetsOf opSpMask.spec c s = some (l ++ k :: r) →
      (∀ j ∈ l, s.objDown 6 j = false) → s.objDown 6 k = true → Does (.spMask c) s fun t => Answered s t c 0x30 0 s.cycle (leBytes 4 k)) ∧
    (Alone s → HeadOk s c opPlayStart.spec → c.scope = 0 → c.cls = 8 → c.index = 0xFF → InMasks c 0 [0x70FFF] →
      (fieldOf (c.p 0) 18 16 < 5 ∨ c.ring.val < 4) → s.chainOk (fieldOf (c.p 0) 11 0) = true → Does (.playStart c) s fun t =>
        Accepted s t c a 1 [0xFF] ∧ s.SameBytes t) ∧
    (∀ x ∈ ([(.pairDetach, opPairDetach, s.linkUp = true ∧ s.oneFollows = true), (.pairReclaim, opPairReclaim, s.linkUp = true ∧ s.mayReclaim = true),
        (.pairConfig, opPairConfig, InMasks c 0 (pairRegs.map cfgMask)), (.playStop, opPlayStop, True),
        (.logMark, opLogMark, True)] : List ((Cmd → Instr) × OpRow × Prop)),
      s.inLockstep = false → s.forwards = true → HeadOk s c x.2.1.spec → OneTarget c x.2.1.spec → x.2.2 → Does (x.1 c) s fun t =>
        Accepted s t c a 1 [c.index.toNat] ∧ t.pair = { s.pair with link := s.pair.link ++ [.fwd c a] } ∧ s.SameBytes t) ∧
    (∀ (i : Instr) (op : Nat) (r : OpRow), i.packet = some (op, c) → c.op = op → opFind op = some r → r.spec.timed = true → s.inLockstep = true →
      HeadOk s c r.spec → OneTarget c r.spec → Does i s fun t =>
        t.q = { s.q with outst := s.q.outst ++ [⟨c, s.cycle, .served, false, 1, none, [c.index.toNat], []⟩] } ∧
          t.pair = { s.pair with link := s.pair.link ++ [.serve c] } ∧ s.SameBytes t ∧ s.RegsBut t [CMD_RING_STAT c.ring.val])

/-- At its commit a write of gains lands in the column's shadow bank and in no other place, or is refused BUSY with nothing written while the column ramps; a capture is armed from that cycle; a pin, a lock, a key, a group, a chain, a staging entry or mask, a declared class and a configuration word take the command's values; a revocation that would leave no key changes no revocation bit. -/
def Obligations.CommitEffects : Prop :=
  ∀ (s : State) (o : Outst),
    let k := o.objs.headD 0
    let c := o.cmd
    (s.flt.dead = [] → s.inDusk 4 = false → s.colOpen (k / 1024) = true → k < 1048576 →
      let t := opXptNode.commit o s
      t.gain (!(s.col (k / 1024)).bank) (k / 1024) (k % 1024) = c.p 0 ∧
        (∀ b m n, m < 1024 → n < 1024 → ¬ (b = !(s.col (k / 1024)).bank ∧ m = k / 1024 ∧ n = k % 1024) → t.gain b m n = s.gain b m n)) ∧
    (s.colOpen (k / 1024) = false → s.SameCoefs (opXptNode.commit o s)) ∧
    (s.flt.dead = [] → s.inDusk 4 = false → s.colOpen k = true → k < 1024 → (c.p 0).toNat + (c.params.length - 1) ≤ 1024 → (c.p 0).toNat < 1024 →
      ∀ b m n, m < 1024 → n < 1024 → (opXptCol.commit o s).gain b m n =
        (if b = (!(s.col k).bank) ∧ m = k ∧ (c.p 0).toNat ≤ n ∧ n < (c.p 0).toNat + (c.params.length - 1) then c.p (1 + (n - (c.p 0).toNat))
          else s.gain b m n)) ∧
    ((s.cap (fieldOf (c.p 0) 31 30)).armed = false →
      (opCapture.commit o s).cap (fieldOf (c.p 0) 31 30) = ⟨true, s.cycle, 0, some c.ref⟩ ∧
        (opCapture.commit o s).rd (XPT_CAP_CFG.point (fieldOf (c.p 0) 31 30)) = fieldOf (c.p 0) 29 28 ∧
        (opCapture.commit o s).rd (XPT_CAP_CFG.index (fieldOf (c.p 0) 31 30)) = fieldOf (c.p 0) 9 0) ∧
    ((s.imgSlot (fieldOf (c.p 0) 0 0)).state = .valid → (opImgPin.commit o s).img.pinned = fieldOf (c.p 0) 0 0) ∧
    ((s.imgSlot (fieldOf (c.p 0) 0 0)).state ≠ .valid → (opImgPin.commit o s).img = s.img) ∧
    ((opJtagLock.commit o s).isSet SEC_STATUS.jtag_locked = true) ∧
    (s.keyLeft (fieldOf (c.p 0) 1 0) = false → (opKeyRevoke.commit o s).reg SEC_STATUS = s.reg SEC_STATUS) ∧
    (s.keyLeft (fieldOf (c.p 0) 1 0) = true → fieldOf (c.p 0) 1 0 ≤ 2 → (opKeyRevoke.commit o s).slotRevoked (fieldOf (c.p 0) 1 0) = true) ∧
    ((opMgmtKey.commit o s).sec.mkey = bytesOfWords (c.params.drop 1)) ∧
    (s.rd REF_STATUS.pins = 7 → (opRefSelect.commit o s).rd REF_SEL.sel = fieldOf (c.p 0) 2 0) ∧
    (s.rd REF_STATUS.pins ≠ 7 → (opRefSelect.commit o s).reg REF_SEL = s.reg REF_SEL) ∧
    (s.chainInUse (fieldOf (c.p 0) 11 0) = false → ∀ n, SMap.get (fun _ => ([] : List ChainStep)) (opChainWrite.commit o s).msg.chains n =
      if n = fieldOf (c.p 0) 11 0 then (List.range 16).map (chainStepOf c) else SMap.get (fun _ => []) s.msg.chains n) ∧
    (k < 64 → (opGroupDef.commit o s).groupOf k = (fieldOf (c.p 0) 5 0, groupBits c) ∧
      (∀ g, g ≠ k → (opGroupDef.commit o s).groupOf g = s.groupOf g) ∧
      (∀ w, w < 32 → (opGroupDef.commit o s).reg (XPT_GMASK k w) = if fieldOf (c.p 0) 5 0 = 4 then c.p (1 + w) else 0)) ∧
    (k < 64 → s.isSet OVR_STATUS.armed = false →
      (∀ j, j < 16 → (opOvrStage.commit o s).reg (ovrStageAddr k j) = c.p j) ∧
        (∀ j, j < 1024 → j / 16 ≠ k → (opOvrStage.commit o s).reg (0x40220000 + 4 * j) = s.reg (0x40220000 + 4 * j))) ∧
    (s.isSet OVR_STATUS.armed = false →
      ∀ w, w < 32 → (opOvrStageMask.commit o s).reg (OVR_SMASK (fieldOf (c.p 0) 5 0) w) = c.p (1 + w)) ∧
    (∀ m ∈ o.objs, m < 1024 → (∀ j ∈ o.objs, j < 1024) →
      (opOvrColclass.commit o s).rd ⟨OVR_COLCLASS (m / 8), 4 * (m % 8), 3⟩ = fieldOf (c.p 0) 2 0) ∧
    (∀ n ∈ o.objs, n < 16 → (∀ j ∈ o.objs, j < 16) →
      (opCinConfig.commit o s).reg (SUP_CIN_CFG n) &&& BitVec.ofNat 32 (cfgMask (SUP_CIN_CFG n))
        = c.p 0 &&& BitVec.ofNat 32 (cfgMask (SUP_CIN_CFG n))) ∧
    (∀ n ∈ o.objs, n < 8 → (∀ j ∈ o.objs, j < 8) →
      (opAnaOut.commit o s).reg (ANA_OUT_CFG n) &&& BitVec.ofNat 32 (cfgMask (ANA_OUT_CFG n))
        = c.p 0 &&& BitVec.ofNat 32 (cfgMask (ANA_OUT_CFG n))) ∧
    ((opWispConfig.commit o s).reg MEM_WISP_CFG &&& BitVec.ofNat 32 (cfgMask MEM_WISP_CFG)
      = c.p 0 &&& BitVec.ofNat 32 (cfgMask MEM_WISP_CFG))
end

