-- ==== Sys2Proof/Laws/Sparse.lean ====
section
/-! SUPPORT. Sparse maps: reading after writing, and that every operation keeps the canonical form. -/

namespace Sys2Proof.Machine

variable {α : Type}

theorem SMap.get_insert_same (d : Nat → α) (m : SMap α) (k : Nat) (v : α) : SMap.get d (SMap.insert k v m) k = v := by
  induction m with
  | nil => simp [SMap.insert, SMap.get]
  | cons p r ih =>
    obtain ⟨j, w⟩ := p
    unfold SMap.insert
    split
    · simp [SMap.get]
    · split
      · simp [SMap.get]
      · rename_i h1 h2
        have h3 : ¬ j = k := fun e => h2 e.symm
        simp [SMap.get, h3, ih]

theorem SMap.get_insert_other (d : Nat → α) (m : SMap α) (k : Nat) (v : α) (i : Nat) (h : i ≠ k) :
    SMap.get d (SMap.insert k v m) i = SMap.get d m i := by
  have hk : ¬ k = i := fun e => h e.symm
  induction m with
  | nil => simp [SMap.insert, SMap.get, hk]
  | cons p r ih =>
    obtain ⟨j, w⟩ := p
    unfold SMap.insert
    split
    · simp [SMap.get, hk]
    · split
      · rename_i e
        subst e
        simp [SMap.get, hk]
      · simp [SMap.get, ih]

theorem SMap.get_erase_same (d : Nat → α) (m : SMap α) (k : Nat) : SMap.get d (SMap.erase k m) k = d k := by
  induction m with
  | nil => rfl
  | cons p r ih =>
    obtain ⟨j, w⟩ := p
    unfold SMap.erase
    split
    · exact ih
    · rename_i h
      simp [SMap.get, h, ih]

theorem SMap.get_erase_other (d : Nat → α) (m : SMap α) (k i : Nat) (h : i ≠ k) :
    SMap.get d (SMap.erase k m) i = SMap.get d m i := by
  have hk : ¬ k = i := fun e => h e.symm
  induction m with
  | nil => rfl
  | cons p r ih =>
    obtain ⟨j, w⟩ := p
    unfold SMap.erase
    split
    · rename_i e
      subst e
      simp [SMap.get, hk, ih]
    · simp [SMap.get, ih]

/-- A read of the key just written gives the value written. -/
@[simp] theorem SMap.get_set_same [DecidableEq α] (d : Nat → α) (m : SMap α) (k : Nat) (v : α) :
    SMap.get d (SMap.set d m k v) k = v := by
  unfold SMap.set
  split
  · rename_i e
    rw [SMap.get_erase_same, e]
  · exact SMap.get_insert_same d m k v

/-- A write leaves every other key alone. -/
theorem SMap.get_set_other [DecidableEq α] (d : Nat → α) (m : SMap α) (k : Nat) (v : α) (i : Nat) (h : i ≠ k) :
    SMap.get d (SMap.set d m k v) i = SMap.get d m i := by
  unfold SMap.set
  split
  · exact SMap.get_erase_other d m k i h
  · exact SMap.get_insert_other d m k v i h

theorem SMap.above_mono {b c : Nat} (h : b ≤ c) (m : SMap α) (hm : SMap.above c m = true) : SMap.above b m = true := by
  cases m with
  | nil => rfl
  | cons p r =>
    obtain ⟨j, w⟩ := p
    simp only [SMap.above, Bool.and_eq_true, decide_eq_true_eq] at hm ⊢
    exact ⟨by omega, hm.2⟩

theorem SMap.above_insert {b k : Nat} {v : α} (h : b < k) (m : SMap α) (hm : SMap.above b m = true) :
    SMap.above b (SMap.insert k v m) = true := by
  induction m generalizing b with
  | nil => simp [SMap.insert, SMap.above, h]
  | cons p r ih =>
    obtain ⟨j, w⟩ := p
    simp only [SMap.above, Bool.and_eq_true, decide_eq_true_eq] at hm
    unfold SMap.insert
    split
    · simp only [SMap.above, Bool.and_eq_true, decide_eq_true_eq]
      exact ⟨h, by assumption, hm.2⟩
    · split
      · rename_i e
        subst e
        simp only [SMap.above, Bool.and_eq_true, decide_eq_true_eq]
        exact hm
      · simp only [SMap.above, Bool.and_eq_true, decide_eq_true_eq]
        exact ⟨hm.1, ih (by omega) hm.2⟩

theorem SMap.above_erase {b : Nat} (k : Nat) (m : SMap α) (hm : SMap.above b m = true) :
    SMap.above b (SMap.erase k m) = true := by
  induction m generalizing b with
  | nil => rfl
  | cons p r ih =>
    obtain ⟨j, w⟩ := p
    simp only [SMap.above, Bool.and_eq_true, decide_eq_true_eq] at hm
    unfold SMap.erase
    split
    · exact ih (SMap.above_mono (by omega) r hm.2)
    · simp only [SMap.above, Bool.and_eq_true, decide_eq_true_eq]
      exact ⟨hm.1, ih hm.2⟩

/-- Sorted is the same as being above a bound that no key meets: keys shifted by one are above zero. -/
theorem SMap.sorted_insert (k : Nat) (v : α) (m : SMap α) (hm : SMap.sorted m = true) :
    SMap.sorted (SMap.insert k v m) = true := by
  cases m with
  | nil => rfl
  | cons p r =>
    obtain ⟨j, w⟩ := p
    simp only [SMap.sorted] at hm
    unfold SMap.insert
    split
    · simp only [SMap.sorted, SMap.above, Bool.and_eq_true, decide_eq_true_eq]
      exact ⟨by assumption, hm⟩
    · split
      · rename_i e
        subst e
        exact hm
      · simp only [SMap.sorted]
        exact SMap.above_insert (by omega) r hm

theorem SMap.sorted_of_above {b : Nat} (m : SMap α) (hm : SMap.above b m = true) : SMap.sorted m = true := by
  cases m with
  | nil => rfl
  | cons p r =>
    obtain ⟨j, w⟩ := p
    simp only [SMap.above, Bool.and_eq_true] at hm
    exact hm.2

theorem SMap.sorted_erase (k : Nat) (m : SMap α) (hm : SMap.sorted m = true) : SMap.sorted (SMap.erase k m) = true := by
  cases m with
  | nil => rfl
  | cons p r =>
    obtain ⟨j, w⟩ := p
    simp only [SMap.sorted] at hm
    unfold SMap.erase
    split
    · exact SMap.sorted_of_above _ (SMap.above_erase k r hm)
    · exact SMap.above_erase k r hm

theorem SMap.all_insert (q : Nat × α → Bool) (k : Nat) (v : α) (m : SMap α) (hv : q (k, v) = true) (hm : m.all q = true) :
    (SMap.insert k v m).all q = true := by
  induction m with
  | nil => simp [SMap.insert, hv]
  | cons p r ih =>
    obtain ⟨j, w⟩ := p
    simp only [List.all_cons, Bool.and_eq_true] at hm
    unfold SMap.insert
    split
    · simp [hv, hm.1, hm.2]
    · split
      · simp [hv, hm.2]
      · simp [hm.1, ih hm.2]

theorem SMap.all_erase (q : Nat × α → Bool) (k : Nat) (m : SMap α) (hm : m.all q = true) :
    (SMap.erase k m).all q = true := by
  induction m with
  | nil => rfl
  | cons p r ih =>
    obtain ⟨j, w⟩ := p
    simp only [List.all_cons, Bool.and_eq_true] at hm
    unfold SMap.erase
    split
    · exact ih hm.2
    · simp [hm.1, ih hm.2]

/-- A write keeps the canonical form. -/
theorem SMap.wf_set [DecidableEq α] (d : Nat → α) (m : SMap α) (k : Nat) (v : α) (hm : SMap.wf d m = true) :
    SMap.wf d (SMap.set d m k v) = true := by
  simp only [SMap.wf, Bool.and_eq_true] at hm ⊢
  unfold SMap.set
  split
  · exact ⟨SMap.sorted_erase k m hm.1, SMap.all_erase _ k m hm.2⟩
  · exact ⟨SMap.sorted_insert k v m hm.1, SMap.all_insert _ k v m (by simpa) hm.2⟩

/-- A write of consecutive values keeps the canonical form. -/
theorem SMap.wf_setList [DecidableEq α] (d : Nat → α) (vs : List α) (m : SMap α) (k : Nat) (hm : SMap.wf d m = true) :
    SMap.wf d (SMap.setList d m k vs) = true := by
  induction vs generalizing m k with
  | nil => exact hm
  | cons v vs ih => exact ih _ _ (SMap.wf_set d m k v hm)

theorem SMap.get_of_above (d : Nat → α) (b : Nat) (m : SMap α) (hm : SMap.above b m = true) (k : Nat) (h : k ≤ b) :
    SMap.get d m k = d k := by
  induction m generalizing b with
  | nil => rfl
  | cons p r ih =>
    obtain ⟨j, w⟩ := p
    simp only [SMap.above, Bool.and_eq_true, decide_eq_true_eq] at hm
    have hj : ¬ j = k := by omega
    simp only [SMap.get, hj, if_false]
    exact ih j hm.2 (by omega)

end Sys2Proof.Machine
end

