-- ==== Sys2Proof/Laws/State.lean ====
section
/-! SUPPORT. One lemma per field of State and per named update: what an update of a register or of memory leaves alone, and what a read
of a register or a field gives after a write. -/

namespace Sys2Proof.Machine

variable (s : State)

@[simp] theorem State.setReg_pending (a : Nat) (v : Word) : (s.setReg a v).pending = s.pending := rfl
@[simp] theorem State.setReg_mem (a : Nat) (v : Word) : (s.setReg a v).mem = s.mem := rfl
@[simp] theorem State.setReg_coef (a : Nat) (v : Word) : (s.setReg a v).coef = s.coef := rfl
@[simp] theorem State.setReg_free (a : Nat) (v : Word) : (s.setReg a v).free = s.free := rfl
@[simp] theorem State.setReg_xpt (a : Nat) (v : Word) : (s.setReg a v).xpt = s.xpt := rfl
@[simp] theorem State.setReg_patch (a : Nat) (v : Word) : (s.setReg a v).patch = s.patch := rfl
@[simp] theorem State.setReg_eng (a : Nat) (v : Word) : (s.setReg a v).eng = s.eng := rfl
@[simp] theorem State.setReg_ovr (a : Nat) (v : Word) : (s.setReg a v).ovr = s.ovr := rfl
@[simp] theorem State.setReg_dsp (a : Nat) (v : Word) : (s.setReg a v).dsp = s.dsp := rfl
@[simp] theorem State.setReg_img (a : Nat) (v : Word) : (s.setReg a v).img = s.img := rfl
@[simp] theorem State.setReg_ms (a : Nat) (v : Word) : (s.setReg a v).ms = s.ms := rfl
@[simp] theorem State.setReg_lastRead (a : Nat) (v : Word) : (s.setReg a v).lastRead = s.lastRead := rfl
@[simp] theorem State.setReg_q (a : Nat) (v : Word) : (s.setReg a v).q = s.q := rfl
@[simp] theorem State.setReg_log (a : Nat) (v : Word) : (s.setReg a v).log = s.log := rfl
@[simp] theorem State.setReg_flt (a : Nat) (v : Word) : (s.setReg a v).flt = s.flt := rfl
@[simp] theorem State.setReg_bus (a : Nat) (v : Word) : (s.setReg a v).bus = s.bus := rfl
@[simp] theorem State.setReg_pwr (a : Nat) (v : Word) : (s.setReg a v).pwr = s.pwr := rfl
@[simp] theorem State.setReg_sec (a : Nat) (v : Word) : (s.setReg a v).sec = s.sec := rfl
@[simp] theorem State.setReg_boot (a : Nat) (v : Word) : (s.setReg a v).boot = s.boot := rfl
@[simp] theorem State.setReg_spi (a : Nat) (v : Word) : (s.setReg a v).spi = s.spi := rfl
@[simp] theorem State.setReg_dec (a : Nat) (v : Word) : (s.setReg a v).dec = s.dec := rfl
@[simp] theorem State.setReg_sp (a : Nat) (v : Word) : (s.setReg a v).sp = s.sp := rfl
@[simp] theorem State.setReg_field (a : Nat) (v : Word) : (s.setReg a v).field = s.field := rfl
@[simp] theorem State.setReg_msg (a : Nat) (v : Word) : (s.setReg a v).msg = s.msg := rfl
@[simp] theorem State.setReg_ref (a : Nat) (v : Word) : (s.setReg a v).ref = s.ref := rfl
@[simp] theorem State.setReg_net (a : Nat) (v : Word) : (s.setReg a v).net = s.net := rfl
@[simp] theorem State.setReg_ptp (a : Nat) (v : Word) : (s.setReg a v).ptp = s.ptp := rfl
@[simp] theorem State.setReg_pair (a : Nat) (v : Word) : (s.setReg a v).pair = s.pair := rfl

@[simp] theorem State.wr_pending (f : Fld) (v : Nat) : (s.wr f v).pending = s.pending := rfl
@[simp] theorem State.wr_mem (f : Fld) (v : Nat) : (s.wr f v).mem = s.mem := rfl
@[simp] theorem State.wr_coef (f : Fld) (v : Nat) : (s.wr f v).coef = s.coef := rfl
@[simp] theorem State.wr_free (f : Fld) (v : Nat) : (s.wr f v).free = s.free := rfl
@[simp] theorem State.wr_xpt (f : Fld) (v : Nat) : (s.wr f v).xpt = s.xpt := rfl
@[simp] theorem State.wr_patch (f : Fld) (v : Nat) : (s.wr f v).patch = s.patch := rfl
@[simp] theorem State.wr_eng (f : Fld) (v : Nat) : (s.wr f v).eng = s.eng := rfl
@[simp] theorem State.wr_ovr (f : Fld) (v : Nat) : (s.wr f v).ovr = s.ovr := rfl
@[simp] theorem State.wr_dsp (f : Fld) (v : Nat) : (s.wr f v).dsp = s.dsp := rfl
@[simp] theorem State.wr_img (f : Fld) (v : Nat) : (s.wr f v).img = s.img := rfl
@[simp] theorem State.wr_ms (f : Fld) (v : Nat) : (s.wr f v).ms = s.ms := rfl
@[simp] theorem State.wr_lastRead (f : Fld) (v : Nat) : (s.wr f v).lastRead = s.lastRead := rfl
@[simp] theorem State.wr_q (f : Fld) (v : Nat) : (s.wr f v).q = s.q := rfl
@[simp] theorem State.wr_log (f : Fld) (v : Nat) : (s.wr f v).log = s.log := rfl
@[simp] theorem State.wr_flt (f : Fld) (v : Nat) : (s.wr f v).flt = s.flt := rfl
@[simp] theorem State.wr_bus (f : Fld) (v : Nat) : (s.wr f v).bus = s.bus := rfl
@[simp] theorem State.wr_pwr (f : Fld) (v : Nat) : (s.wr f v).pwr = s.pwr := rfl
@[simp] theorem State.wr_sec (f : Fld) (v : Nat) : (s.wr f v).sec = s.sec := rfl
@[simp] theorem State.wr_boot (f : Fld) (v : Nat) : (s.wr f v).boot = s.boot := rfl
@[simp] theorem State.wr_spi (f : Fld) (v : Nat) : (s.wr f v).spi = s.spi := rfl
@[simp] theorem State.wr_dec (f : Fld) (v : Nat) : (s.wr f v).dec = s.dec := rfl
@[simp] theorem State.wr_sp (f : Fld) (v : Nat) : (s.wr f v).sp = s.sp := rfl
@[simp] theorem State.wr_field (f : Fld) (v : Nat) : (s.wr f v).field = s.field := rfl
@[simp] theorem State.wr_msg (f : Fld) (v : Nat) : (s.wr f v).msg = s.msg := rfl
@[simp] theorem State.wr_ref (f : Fld) (v : Nat) : (s.wr f v).ref = s.ref := rfl
@[simp] theorem State.wr_net (f : Fld) (v : Nat) : (s.wr f v).net = s.net := rfl
@[simp] theorem State.wr_ptp (f : Fld) (v : Nat) : (s.wr f v).ptp = s.ptp := rfl
@[simp] theorem State.wr_pair (f : Fld) (v : Nat) : (s.wr f v).pair = s.pair := rfl

@[simp] theorem State.wrB_pending (f : Fld) (b : Bool) : (s.wrB f b).pending = s.pending := rfl
@[simp] theorem State.wrB_mem (f : Fld) (b : Bool) : (s.wrB f b).mem = s.mem := rfl
@[simp] theorem State.wrB_coef (f : Fld) (b : Bool) : (s.wrB f b).coef = s.coef := rfl
@[simp] theorem State.wrB_free (f : Fld) (b : Bool) : (s.wrB f b).free = s.free := rfl
@[simp] theorem State.wrB_xpt (f : Fld) (b : Bool) : (s.wrB f b).xpt = s.xpt := rfl
@[simp] theorem State.wrB_patch (f : Fld) (b : Bool) : (s.wrB f b).patch = s.patch := rfl
@[simp] theorem State.wrB_eng (f : Fld) (b : Bool) : (s.wrB f b).eng = s.eng := rfl
@[simp] theorem State.wrB_ovr (f : Fld) (b : Bool) : (s.wrB f b).ovr = s.ovr := rfl
@[simp] theorem State.wrB_dsp (f : Fld) (b : Bool) : (s.wrB f b).dsp = s.dsp := rfl
@[simp] theorem State.wrB_img (f : Fld) (b : Bool) : (s.wrB f b).img = s.img := rfl
@[simp] theorem State.wrB_ms (f : Fld) (b : Bool) : (s.wrB f b).ms = s.ms := rfl
@[simp] theorem State.wrB_lastRead (f : Fld) (b : Bool) : (s.wrB f b).lastRead = s.lastRead := rfl
@[simp] theorem State.wrB_q (f : Fld) (b : Bool) : (s.wrB f b).q = s.q := rfl
@[simp] theorem State.wrB_log (f : Fld) (b : Bool) : (s.wrB f b).log = s.log := rfl
@[simp] theorem State.wrB_flt (f : Fld) (b : Bool) : (s.wrB f b).flt = s.flt := rfl
@[simp] theorem State.wrB_bus (f : Fld) (b : Bool) : (s.wrB f b).bus = s.bus := rfl
@[simp] theorem State.wrB_pwr (f : Fld) (b : Bool) : (s.wrB f b).pwr = s.pwr := rfl
@[simp] theorem State.wrB_sec (f : Fld) (b : Bool) : (s.wrB f b).sec = s.sec := rfl
@[simp] theorem State.wrB_boot (f : Fld) (b : Bool) : (s.wrB f b).boot = s.boot := rfl
@[simp] theorem State.wrB_spi (f : Fld) (b : Bool) : (s.wrB f b).spi = s.spi := rfl
@[simp] theorem State.wrB_dec (f : Fld) (b : Bool) : (s.wrB f b).dec = s.dec := rfl
@[simp] theorem State.wrB_sp (f : Fld) (b : Bool) : (s.wrB f b).sp = s.sp := rfl
@[simp] theorem State.wrB_field (f : Fld) (b : Bool) : (s.wrB f b).field = s.field := rfl
@[simp] theorem State.wrB_msg (f : Fld) (b : Bool) : (s.wrB f b).msg = s.msg := rfl
@[simp] theorem State.wrB_ref (f : Fld) (b : Bool) : (s.wrB f b).ref = s.ref := rfl
@[simp] theorem State.wrB_net (f : Fld) (b : Bool) : (s.wrB f b).net = s.net := rfl
@[simp] theorem State.wrB_ptp (f : Fld) (b : Bool) : (s.wrB f b).ptp = s.ptp := rfl
@[simp] theorem State.wrB_pair (f : Fld) (b : Bool) : (s.wrB f b).pair = s.pair := rfl

@[simp] theorem State.set1_pending (f : Fld) : (s.set1 f).pending = s.pending := rfl
@[simp] theorem State.set1_mem (f : Fld) : (s.set1 f).mem = s.mem := rfl
@[simp] theorem State.set1_coef (f : Fld) : (s.set1 f).coef = s.coef := rfl
@[simp] theorem State.set1_free (f : Fld) : (s.set1 f).free = s.free := rfl
@[simp] theorem State.set1_xpt (f : Fld) : (s.set1 f).xpt = s.xpt := rfl
@[simp] theorem State.set1_patch (f : Fld) : (s.set1 f).patch = s.patch := rfl
@[simp] theorem State.set1_eng (f : Fld) : (s.set1 f).eng = s.eng := rfl
@[simp] theorem State.set1_ovr (f : Fld) : (s.set1 f).ovr = s.ovr := rfl
@[simp] theorem State.set1_dsp (f : Fld) : (s.set1 f).dsp = s.dsp := rfl
@[simp] theorem State.set1_img (f : Fld) : (s.set1 f).img = s.img := rfl
@[simp] theorem State.set1_ms (f : Fld) : (s.set1 f).ms = s.ms := rfl
@[simp] theorem State.set1_lastRead (f : Fld) : (s.set1 f).lastRead = s.lastRead := rfl
@[simp] theorem State.set1_q (f : Fld) : (s.set1 f).q = s.q := rfl
@[simp] theorem State.set1_log (f : Fld) : (s.set1 f).log = s.log := rfl
@[simp] theorem State.set1_flt (f : Fld) : (s.set1 f).flt = s.flt := rfl
@[simp] theorem State.set1_bus (f : Fld) : (s.set1 f).bus = s.bus := rfl
@[simp] theorem State.set1_pwr (f : Fld) : (s.set1 f).pwr = s.pwr := rfl
@[simp] theorem State.set1_sec (f : Fld) : (s.set1 f).sec = s.sec := rfl
@[simp] theorem State.set1_boot (f : Fld) : (s.set1 f).boot = s.boot := rfl
@[simp] theorem State.set1_spi (f : Fld) : (s.set1 f).spi = s.spi := rfl
@[simp] theorem State.set1_dec (f : Fld) : (s.set1 f).dec = s.dec := rfl
@[simp] theorem State.set1_sp (f : Fld) : (s.set1 f).sp = s.sp := rfl
@[simp] theorem State.set1_field (f : Fld) : (s.set1 f).field = s.field := rfl
@[simp] theorem State.set1_msg (f : Fld) : (s.set1 f).msg = s.msg := rfl
@[simp] theorem State.set1_ref (f : Fld) : (s.set1 f).ref = s.ref := rfl
@[simp] theorem State.set1_net (f : Fld) : (s.set1 f).net = s.net := rfl
@[simp] theorem State.set1_ptp (f : Fld) : (s.set1 f).ptp = s.ptp := rfl
@[simp] theorem State.set1_pair (f : Fld) : (s.set1 f).pair = s.pair := rfl

@[simp] theorem State.bump_pending (f : Fld) (k : Nat) : (s.bump f k).pending = s.pending := rfl
@[simp] theorem State.bump_mem (f : Fld) (k : Nat) : (s.bump f k).mem = s.mem := rfl
@[simp] theorem State.bump_coef (f : Fld) (k : Nat) : (s.bump f k).coef = s.coef := rfl
@[simp] theorem State.bump_free (f : Fld) (k : Nat) : (s.bump f k).free = s.free := rfl
@[simp] theorem State.bump_xpt (f : Fld) (k : Nat) : (s.bump f k).xpt = s.xpt := rfl
@[simp] theorem State.bump_patch (f : Fld) (k : Nat) : (s.bump f k).patch = s.patch := rfl
@[simp] theorem State.bump_eng (f : Fld) (k : Nat) : (s.bump f k).eng = s.eng := rfl
@[simp] theorem State.bump_ovr (f : Fld) (k : Nat) : (s.bump f k).ovr = s.ovr := rfl
@[simp] theorem State.bump_dsp (f : Fld) (k : Nat) : (s.bump f k).dsp = s.dsp := rfl
@[simp] theorem State.bump_img (f : Fld) (k : Nat) : (s.bump f k).img = s.img := rfl
@[simp] theorem State.bump_ms (f : Fld) (k : Nat) : (s.bump f k).ms = s.ms := rfl
@[simp] theorem State.bump_lastRead (f : Fld) (k : Nat) : (s.bump f k).lastRead = s.lastRead := rfl
@[simp] theorem State.bump_q (f : Fld) (k : Nat) : (s.bump f k).q = s.q := rfl
@[simp] theorem State.bump_log (f : Fld) (k : Nat) : (s.bump f k).log = s.log := rfl
@[simp] theorem State.bump_flt (f : Fld) (k : Nat) : (s.bump f k).flt = s.flt := rfl
@[simp] theorem State.bump_bus (f : Fld) (k : Nat) : (s.bump f k).bus = s.bus := rfl
@[simp] theorem State.bump_pwr (f : Fld) (k : Nat) : (s.bump f k).pwr = s.pwr := rfl
@[simp] theorem State.bump_sec (f : Fld) (k : Nat) : (s.bump f k).sec = s.sec := rfl
@[simp] theorem State.bump_boot (f : Fld) (k : Nat) : (s.bump f k).boot = s.boot := rfl
@[simp] theorem State.bump_spi (f : Fld) (k : Nat) : (s.bump f k).spi = s.spi := rfl
@[simp] theorem State.bump_dec (f : Fld) (k : Nat) : (s.bump f k).dec = s.dec := rfl
@[simp] theorem State.bump_sp (f : Fld) (k : Nat) : (s.bump f k).sp = s.sp := rfl
@[simp] theorem State.bump_field (f : Fld) (k : Nat) : (s.bump f k).field = s.field := rfl
@[simp] theorem State.bump_msg (f : Fld) (k : Nat) : (s.bump f k).msg = s.msg := rfl
@[simp] theorem State.bump_ref (f : Fld) (k : Nat) : (s.bump f k).ref = s.ref := rfl
@[simp] theorem State.bump_net (f : Fld) (k : Nat) : (s.bump f k).net = s.net := rfl
@[simp] theorem State.bump_ptp (f : Fld) (k : Nat) : (s.bump f k).ptp = s.ptp := rfl
@[simp] theorem State.bump_pair (f : Fld) (k : Nat) : (s.bump f k).pair = s.pair := rfl

@[simp] theorem State.wrapInc_pending (f : Fld) (k : Nat) : (s.wrapInc f k).pending = s.pending := rfl
@[simp] theorem State.wrapInc_mem (f : Fld) (k : Nat) : (s.wrapInc f k).mem = s.mem := rfl
@[simp] theorem State.wrapInc_coef (f : Fld) (k : Nat) : (s.wrapInc f k).coef = s.coef := rfl
@[simp] theorem State.wrapInc_free (f : Fld) (k : Nat) : (s.wrapInc f k).free = s.free := rfl
@[simp] theorem State.wrapInc_xpt (f : Fld) (k : Nat) : (s.wrapInc f k).xpt = s.xpt := rfl
@[simp] theorem State.wrapInc_patch (f : Fld) (k : Nat) : (s.wrapInc f k).patch = s.patch := rfl
@[simp] theorem State.wrapInc_eng (f : Fld) (k : Nat) : (s.wrapInc f k).eng = s.eng := rfl
@[simp] theorem State.wrapInc_ovr (f : Fld) (k : Nat) : (s.wrapInc f k).ovr = s.ovr := rfl
@[simp] theorem State.wrapInc_dsp (f : Fld) (k : Nat) : (s.wrapInc f k).dsp = s.dsp := rfl
@[simp] theorem State.wrapInc_img (f : Fld) (k : Nat) : (s.wrapInc f k).img = s.img := rfl
@[simp] theorem State.wrapInc_ms (f : Fld) (k : Nat) : (s.wrapInc f k).ms = s.ms := rfl
@[simp] theorem State.wrapInc_lastRead (f : Fld) (k : Nat) : (s.wrapInc f k).lastRead = s.lastRead := rfl
@[simp] theorem State.wrapInc_q (f : Fld) (k : Nat) : (s.wrapInc f k).q = s.q := rfl
@[simp] theorem State.wrapInc_log (f : Fld) (k : Nat) : (s.wrapInc f k).log = s.log := rfl
@[simp] theorem State.wrapInc_flt (f : Fld) (k : Nat) : (s.wrapInc f k).flt = s.flt := rfl
@[simp] theorem State.wrapInc_bus (f : Fld) (k : Nat) : (s.wrapInc f k).bus = s.bus := rfl
@[simp] theorem State.wrapInc_pwr (f : Fld) (k : Nat) : (s.wrapInc f k).pwr = s.pwr := rfl
@[simp] theorem State.wrapInc_sec (f : Fld) (k : Nat) : (s.wrapInc f k).sec = s.sec := rfl
@[simp] theorem State.wrapInc_boot (f : Fld) (k : Nat) : (s.wrapInc f k).boot = s.boot := rfl
@[simp] theorem State.wrapInc_spi (f : Fld) (k : Nat) : (s.wrapInc f k).spi = s.spi := rfl
@[simp] theorem State.wrapInc_dec (f : Fld) (k : Nat) : (s.wrapInc f k).dec = s.dec := rfl
@[simp] theorem State.wrapInc_sp (f : Fld) (k : Nat) : (s.wrapInc f k).sp = s.sp := rfl
@[simp] theorem State.wrapInc_field (f : Fld) (k : Nat) : (s.wrapInc f k).field = s.field := rfl
@[simp] theorem State.wrapInc_msg (f : Fld) (k : Nat) : (s.wrapInc f k).msg = s.msg := rfl
@[simp] theorem State.wrapInc_ref (f : Fld) (k : Nat) : (s.wrapInc f k).ref = s.ref := rfl
@[simp] theorem State.wrapInc_net (f : Fld) (k : Nat) : (s.wrapInc f k).net = s.net := rfl
@[simp] theorem State.wrapInc_ptp (f : Fld) (k : Nat) : (s.wrapInc f k).ptp = s.ptp := rfl
@[simp] theorem State.wrapInc_pair (f : Fld) (k : Nat) : (s.wrapInc f k).pair = s.pair := rfl

@[simp] theorem State.setBytes_pending (a : Nat) (l : List Byte) : (s.setBytes a l).pending = s.pending := rfl
@[simp] theorem State.setBytes_regs (a : Nat) (l : List Byte) : (s.setBytes a l).regs = s.regs := rfl
@[simp] theorem State.setBytes_coef (a : Nat) (l : List Byte) : (s.setBytes a l).coef = s.coef := rfl
@[simp] theorem State.setBytes_free (a : Nat) (l : List Byte) : (s.setBytes a l).free = s.free := rfl
@[simp] theorem State.setBytes_xpt (a : Nat) (l : List Byte) : (s.setBytes a l).xpt = s.xpt := rfl
@[simp] theorem State.setBytes_patch (a : Nat) (l : List Byte) : (s.setBytes a l).patch = s.patch := rfl
@[simp] theorem State.setBytes_eng (a : Nat) (l : List Byte) : (s.setBytes a l).eng = s.eng := rfl
@[simp] theorem State.setBytes_ovr (a : Nat) (l : List Byte) : (s.setBytes a l).ovr = s.ovr := rfl
@[simp] theorem State.setBytes_dsp (a : Nat) (l : List Byte) : (s.setBytes a l).dsp = s.dsp := rfl
@[simp] theorem State.setBytes_img (a : Nat) (l : List Byte) : (s.setBytes a l).img = s.img := rfl
@[simp] theorem State.setBytes_ms (a : Nat) (l : List Byte) : (s.setBytes a l).ms = s.ms := rfl
@[simp] theorem State.setBytes_lastRead (a : Nat) (l : List Byte) : (s.setBytes a l).lastRead = s.lastRead := rfl
@[simp] theorem State.setBytes_q (a : Nat) (l : List Byte) : (s.setBytes a l).q = s.q := rfl
@[simp] theorem State.setBytes_log (a : Nat) (l : List Byte) : (s.setBytes a l).log = s.log := rfl
@[simp] theorem State.setBytes_flt (a : Nat) (l : List Byte) : (s.setBytes a l).flt = s.flt := rfl
@[simp] theorem State.setBytes_bus (a : Nat) (l : List Byte) : (s.setBytes a l).bus = s.bus := rfl
@[simp] theorem State.setBytes_pwr (a : Nat) (l : List Byte) : (s.setBytes a l).pwr = s.pwr := rfl
@[simp] theorem State.setBytes_sec (a : Nat) (l : List Byte) : (s.setBytes a l).sec = s.sec := rfl
@[simp] theorem State.setBytes_boot (a : Nat) (l : List Byte) : (s.setBytes a l).boot = s.boot := rfl
@[simp] theorem State.setBytes_spi (a : Nat) (l : List Byte) : (s.setBytes a l).spi = s.spi := rfl
@[simp] theorem State.setBytes_dec (a : Nat) (l : List Byte) : (s.setBytes a l).dec = s.dec := rfl
@[simp] theorem State.setBytes_sp (a : Nat) (l : List Byte) : (s.setBytes a l).sp = s.sp := rfl
@[simp] theorem State.setBytes_field (a : Nat) (l : List Byte) : (s.setBytes a l).field = s.field := rfl
@[simp] theorem State.setBytes_msg (a : Nat) (l : List Byte) : (s.setBytes a l).msg = s.msg := rfl
@[simp] theorem State.setBytes_ref (a : Nat) (l : List Byte) : (s.setBytes a l).ref = s.ref := rfl
@[simp] theorem State.setBytes_net (a : Nat) (l : List Byte) : (s.setBytes a l).net = s.net := rfl
@[simp] theorem State.setBytes_ptp (a : Nat) (l : List Byte) : (s.setBytes a l).ptp = s.ptp := rfl
@[simp] theorem State.setBytes_pair (a : Nat) (l : List Byte) : (s.setBytes a l).pair = s.pair := rfl

@[simp] theorem State.setByte_pending (a : Nat) (v : Byte) : (s.setByte a v).pending = s.pending := rfl
@[simp] theorem State.setByte_regs (a : Nat) (v : Byte) : (s.setByte a v).regs = s.regs := rfl
@[simp] theorem State.setByte_coef (a : Nat) (v : Byte) : (s.setByte a v).coef = s.coef := rfl
@[simp] theorem State.setByte_free (a : Nat) (v : Byte) : (s.setByte a v).free = s.free := rfl
@[simp] theorem State.setByte_xpt (a : Nat) (v : Byte) : (s.setByte a v).xpt = s.xpt := rfl
@[simp] theorem State.setByte_patch (a : Nat) (v : Byte) : (s.setByte a v).patch = s.patch := rfl
@[simp] theorem State.setByte_eng (a : Nat) (v : Byte) : (s.setByte a v).eng = s.eng := rfl
@[simp] theorem State.setByte_ovr (a : Nat) (v : Byte) : (s.setByte a v).ovr = s.ovr := rfl
@[simp] theorem State.setByte_dsp (a : Nat) (v : Byte) : (s.setByte a v).dsp = s.dsp := rfl
@[simp] theorem State.setByte_img (a : Nat) (v : Byte) : (s.setByte a v).img = s.img := rfl
@[simp] theorem State.setByte_ms (a : Nat) (v : Byte) : (s.setByte a v).ms = s.ms := rfl
@[simp] theorem State.setByte_lastRead (a : Nat) (v : Byte) : (s.setByte a v).lastRead = s.lastRead := rfl
@[simp] theorem State.setByte_q (a : Nat) (v : Byte) : (s.setByte a v).q = s.q := rfl
@[simp] theorem State.setByte_log (a : Nat) (v : Byte) : (s.setByte a v).log = s.log := rfl
@[simp] theorem State.setByte_flt (a : Nat) (v : Byte) : (s.setByte a v).flt = s.flt := rfl
@[simp] theorem State.setByte_bus (a : Nat) (v : Byte) : (s.setByte a v).bus = s.bus := rfl
@[simp] theorem State.setByte_pwr (a : Nat) (v : Byte) : (s.setByte a v).pwr = s.pwr := rfl
@[simp] theorem State.setByte_sec (a : Nat) (v : Byte) : (s.setByte a v).sec = s.sec := rfl
@[simp] theorem State.setByte_boot (a : Nat) (v : Byte) : (s.setByte a v).boot = s.boot := rfl
@[simp] theorem State.setByte_spi (a : Nat) (v : Byte) : (s.setByte a v).spi = s.spi := rfl
@[simp] theorem State.setByte_dec (a : Nat) (v : Byte) : (s.setByte a v).dec = s.dec := rfl
@[simp] theorem State.setByte_sp (a : Nat) (v : Byte) : (s.setByte a v).sp = s.sp := rfl
@[simp] theorem State.setByte_field (a : Nat) (v : Byte) : (s.setByte a v).field = s.field := rfl
@[simp] theorem State.setByte_msg (a : Nat) (v : Byte) : (s.setByte a v).msg = s.msg := rfl
@[simp] theorem State.setByte_ref (a : Nat) (v : Byte) : (s.setByte a v).ref = s.ref := rfl
@[simp] theorem State.setByte_net (a : Nat) (v : Byte) : (s.setByte a v).net = s.net := rfl
@[simp] theorem State.setByte_ptp (a : Nat) (v : Byte) : (s.setByte a v).ptp = s.ptp := rfl
@[simp] theorem State.setByte_pair (a : Nat) (v : Byte) : (s.setByte a v).pair = s.pair := rfl

@[simp] theorem State.setMemWord_pending (a : Nat) (w : Word) : (s.setMemWord a w).pending = s.pending := rfl
@[simp] theorem State.setMemWord_regs (a : Nat) (w : Word) : (s.setMemWord a w).regs = s.regs := rfl
@[simp] theorem State.setMemWord_coef (a : Nat) (w : Word) : (s.setMemWord a w).coef = s.coef := rfl
@[simp] theorem State.setMemWord_free (a : Nat) (w : Word) : (s.setMemWord a w).free = s.free := rfl
@[simp] theorem State.setMemWord_xpt (a : Nat) (w : Word) : (s.setMemWord a w).xpt = s.xpt := rfl
@[simp] theorem State.setMemWord_patch (a : Nat) (w : Word) : (s.setMemWord a w).patch = s.patch := rfl
@[simp] theorem State.setMemWord_eng (a : Nat) (w : Word) : (s.setMemWord a w).eng = s.eng := rfl
@[simp] theorem State.setMemWord_ovr (a : Nat) (w : Word) : (s.setMemWord a w).ovr = s.ovr := rfl
@[simp] theorem State.setMemWord_dsp (a : Nat) (w : Word) : (s.setMemWord a w).dsp = s.dsp := rfl
@[simp] theorem State.setMemWord_img (a : Nat) (w : Word) : (s.setMemWord a w).img = s.img := rfl
@[simp] theorem State.setMemWord_ms (a : Nat) (w : Word) : (s.setMemWord a w).ms = s.ms := rfl
@[simp] theorem State.setMemWord_lastRead (a : Nat) (w : Word) : (s.setMemWord a w).lastRead = s.lastRead := rfl
@[simp] theorem State.setMemWord_q (a : Nat) (w : Word) : (s.setMemWord a w).q = s.q := rfl
@[simp] theorem State.setMemWord_log (a : Nat) (w : Word) : (s.setMemWord a w).log = s.log := rfl
@[simp] theorem State.setMemWord_flt (a : Nat) (w : Word) : (s.setMemWord a w).flt = s.flt := rfl
@[simp] theorem State.setMemWord_bus (a : Nat) (w : Word) : (s.setMemWord a w).bus = s.bus := rfl
@[simp] theorem State.setMemWord_pwr (a : Nat) (w : Word) : (s.setMemWord a w).pwr = s.pwr := rfl
@[simp] theorem State.setMemWord_sec (a : Nat) (w : Word) : (s.setMemWord a w).sec = s.sec := rfl
@[simp] theorem State.setMemWord_boot (a : Nat) (w : Word) : (s.setMemWord a w).boot = s.boot := rfl
@[simp] theorem State.setMemWord_spi (a : Nat) (w : Word) : (s.setMemWord a w).spi = s.spi := rfl
@[simp] theorem State.setMemWord_dec (a : Nat) (w : Word) : (s.setMemWord a w).dec = s.dec := rfl
@[simp] theorem State.setMemWord_sp (a : Nat) (w : Word) : (s.setMemWord a w).sp = s.sp := rfl
@[simp] theorem State.setMemWord_field (a : Nat) (w : Word) : (s.setMemWord a w).field = s.field := rfl
@[simp] theorem State.setMemWord_msg (a : Nat) (w : Word) : (s.setMemWord a w).msg = s.msg := rfl
@[simp] theorem State.setMemWord_ref (a : Nat) (w : Word) : (s.setMemWord a w).ref = s.ref := rfl
@[simp] theorem State.setMemWord_net (a : Nat) (w : Word) : (s.setMemWord a w).net = s.net := rfl
@[simp] theorem State.setMemWord_ptp (a : Nat) (w : Word) : (s.setMemWord a w).ptp = s.ptp := rfl
@[simp] theorem State.setMemWord_pair (a : Nat) (w : Word) : (s.setMemWord a w).pair = s.pair := rfl

@[simp] theorem State.setMemWords_pending (a : Nat) (l : List Word) : (s.setMemWords a l).pending = s.pending := rfl
@[simp] theorem State.setMemWords_regs (a : Nat) (l : List Word) : (s.setMemWords a l).regs = s.regs := rfl
@[simp] theorem State.setMemWords_coef (a : Nat) (l : List Word) : (s.setMemWords a l).coef = s.coef := rfl
@[simp] theorem State.setMemWords_free (a : Nat) (l : List Word) : (s.setMemWords a l).free = s.free := rfl
@[simp] theorem State.setMemWords_xpt (a : Nat) (l : List Word) : (s.setMemWords a l).xpt = s.xpt := rfl
@[simp] theorem State.setMemWords_patch (a : Nat) (l : List Word) : (s.setMemWords a l).patch = s.patch := rfl
@[simp] theorem State.setMemWords_eng (a : Nat) (l : List Word) : (s.setMemWords a l).eng = s.eng := rfl
@[simp] theorem State.setMemWords_ovr (a : Nat) (l : List Word) : (s.setMemWords a l).ovr = s.ovr := rfl
@[simp] theorem State.setMemWords_dsp (a : Nat) (l : List Word) : (s.setMemWords a l).dsp = s.dsp := rfl
@[simp] theorem State.setMemWords_img (a : Nat) (l : List Word) : (s.setMemWords a l).img = s.img := rfl
@[simp] theorem State.setMemWords_ms (a : Nat) (l : List Word) : (s.setMemWords a l).ms = s.ms := rfl
@[simp] theorem State.setMemWords_lastRead (a : Nat) (l : List Word) : (s.setMemWords a l).lastRead = s.lastRead := rfl
@[simp] theorem State.setMemWords_q (a : Nat) (l : List Word) : (s.setMemWords a l).q = s.q := rfl
@[simp] theorem State.setMemWords_log (a : Nat) (l : List Word) : (s.setMemWords a l).log = s.log := rfl
@[simp] theorem State.setMemWords_flt (a : Nat) (l : List Word) : (s.setMemWords a l).flt = s.flt := rfl
@[simp] theorem State.setMemWords_bus (a : Nat) (l : List Word) : (s.setMemWords a l).bus = s.bus := rfl
@[simp] theorem State.setMemWords_pwr (a : Nat) (l : List Word) : (s.setMemWords a l).pwr = s.pwr := rfl
@[simp] theorem State.setMemWords_sec (a : Nat) (l : List Word) : (s.setMemWords a l).sec = s.sec := rfl
@[simp] theorem State.setMemWords_boot (a : Nat) (l : List Word) : (s.setMemWords a l).boot = s.boot := rfl
@[simp] theorem State.setMemWords_spi (a : Nat) (l : List Word) : (s.setMemWords a l).spi = s.spi := rfl
@[simp] theorem State.setMemWords_dec (a : Nat) (l : List Word) : (s.setMemWords a l).dec = s.dec := rfl
@[simp] theorem State.setMemWords_sp (a : Nat) (l : List Word) : (s.setMemWords a l).sp = s.sp := rfl
@[simp] theorem State.setMemWords_field (a : Nat) (l : List Word) : (s.setMemWords a l).field = s.field := rfl
@[simp] theorem State.setMemWords_msg (a : Nat) (l : List Word) : (s.setMemWords a l).msg = s.msg := rfl
@[simp] theorem State.setMemWords_ref (a : Nat) (l : List Word) : (s.setMemWords a l).ref = s.ref := rfl
@[simp] theorem State.setMemWords_net (a : Nat) (l : List Word) : (s.setMemWords a l).net = s.net := rfl
@[simp] theorem State.setMemWords_ptp (a : Nat) (l : List Word) : (s.setMemWords a l).ptp = s.ptp := rfl
@[simp] theorem State.setMemWords_pair (a : Nat) (l : List Word) : (s.setMemWords a l).pair = s.pair := rfl

/-! ### Registers -/

/-- A read of the register just written. -/
@[simp] theorem State.reg_setReg_same (a : Nat) (v : Word) : (s.setReg a v).reg a = v := SMap.get_set_same _ _ _ _

/-- A write leaves every other register alone. -/
theorem State.reg_setReg_other {a b : Nat} (v : Word) (h : b ≠ a) : (s.setReg a v).reg b = s.reg b := SMap.get_set_other _ _ _ _ _ h

theorem State.reg_setReg (a b : Nat) (v : Word) : (s.setReg a v).reg b = if b = a then v else s.reg b := by
  split
  · rename_i h
    rw [h, State.reg_setReg_same]
  · rename_i h
    exact State.reg_setReg_other s v h

theorem State.rd_setReg_other {a : Nat} (v : Word) {f : Fld} (h : f.addr ≠ a) : (s.setReg a v).rd f = s.rd f := by
  unfold State.rd
  rw [State.reg_setReg_other s v h]

theorem State.rd_setReg_same (v : Word) (f : Fld) : (s.setReg f.addr v).rd f = getFld f v := by
  unfold State.rd
  rw [State.reg_setReg_same]

/-- A write of a field leaves every other register alone. -/
theorem State.reg_wr_other {f : Fld} {b : Nat} (v : Nat) (h : b ≠ f.addr) : (s.wr f v).reg b = s.reg b :=
  State.reg_setReg_other s _ h

/-! ### Fields -/

theorem getFld_eq (f : Fld) (w : Word) : getFld f w = w.toNat / 2 ^ f.lo % 2 ^ f.width := by
  unfold getFld
  rw [BitVec.extractLsb'_toNat, Nat.shiftRight_eq_div_pow]

/-- The value of a word with one field replaced, as a number. -/
theorem putFld_toNat (f : Fld) (w : Word) (v : Nat) (h : f.lo + f.width ≤ 32) :
    (putFld f w v).toNat = w.toNat / 2 ^ (f.lo + f.width) * 2 ^ (f.lo + f.width) + v % 2 ^ f.width * 2 ^ f.lo + w.toNat % 2 ^ f.lo := by
  have hw := w.isLt
  have e : (2 : Nat) ^ (f.lo + f.width) = 2 ^ f.lo * 2 ^ f.width := Nat.pow_add _ _ _
  have hv : v % 2 ^ f.width < 2 ^ f.width := Nat.mod_lt _ (by positivity)
  have hr : w.toNat % 2 ^ f.lo < 2 ^ f.lo := Nat.mod_lt _ (by positivity)
  have h1 : w.toNat = 2 ^ f.lo * (w.toNat / 2 ^ f.lo) + w.toNat % 2 ^ f.lo := (Nat.div_add_mod _ _).symm
  have h2 : w.toNat / 2 ^ f.lo = 2 ^ f.width * (w.toNat / 2 ^ f.lo / 2 ^ f.width) + w.toNat / 2 ^ f.lo % 2 ^ f.width :=
    (Nat.div_add_mod _ _).symm
  have h3 : w.toNat / 2 ^ (f.lo + f.width) = w.toNat / 2 ^ f.lo / 2 ^ f.width := by rw [e, Nat.div_div_eq_div_mul]
  unfold putFld
  rw [getFld_eq, BitVec.toNat_ofNat, h3, e]
  generalize w.toNat / 2 ^ f.lo / 2 ^ f.width = q at *
  generalize w.toNat / 2 ^ f.lo % 2 ^ f.width = g at *
  generalize w.toNat % 2 ^ f.lo = r at *
  generalize v % 2 ^ f.width = x at *
  rw [h2] at h1
  have hx : w.toNat = q * (2 ^ f.lo * 2 ^ f.width) + g * 2 ^ f.lo + r := by rw [h1]; ring
  have hs : w.toNat - g * 2 ^ f.lo + x * 2 ^ f.lo = q * (2 ^ f.lo * 2 ^ f.width) + x * 2 ^ f.lo + r := by omega
  rw [hs]
  apply Nat.mod_eq_of_lt
  have hq : q * (2 ^ f.lo * 2 ^ f.width) < 2 ^ 32 := by omega
  obtain ⟨k, hk⟩ : ∃ k, 2 ^ 32 = k * (2 ^ f.lo * 2 ^ f.width) := by
    refine ⟨2 ^ (32 - (f.lo + f.width)), ?_⟩
    rw [← e, ← Nat.pow_add]
    congr 1
    omega
  have hqk : q + 1 ≤ k := by
    rw [hk] at hq
    exact Nat.lt_of_mul_lt_mul_right hq
  have hle : (q + 1) * (2 ^ f.lo * 2 ^ f.width) ≤ 2 ^ 32 := by
    rw [hk]
    exact Nat.mul_le_mul_right _ hqk
  have hxl : (x + 1) * 2 ^ f.lo ≤ 2 ^ f.width * 2 ^ f.lo := Nat.mul_le_mul_right _ hv
  have e1 : (q + 1) * (2 ^ f.lo * 2 ^ f.width) = q * (2 ^ f.lo * 2 ^ f.width) + 2 ^ f.width * 2 ^ f.lo := by ring
  have e2 : (x + 1) * 2 ^ f.lo = x * 2 ^ f.lo + 2 ^ f.lo := by ring
  omega

/-- A field reads as it was written, as far as its width goes. -/
theorem getFld_putFld_same (f : Fld) (w : Word) (v : Nat) (h : f.lo + f.width ≤ 32) :
    getFld f (putFld f w v) = v % 2 ^ f.width := by
  have hr : w.toNat % 2 ^ f.lo < 2 ^ f.lo := Nat.mod_lt _ (by positivity)
  have hv : v % 2 ^ f.width < 2 ^ f.width := Nat.mod_lt _ (by positivity)
  rw [getFld_eq, putFld_toNat f w v h, Nat.pow_add]
  generalize w.toNat / (2 ^ f.lo * 2 ^ f.width) = q
  generalize w.toNat % 2 ^ f.lo = r at *
  generalize v % 2 ^ f.width = x at *
  have e : q * (2 ^ f.lo * 2 ^ f.width) + x * 2 ^ f.lo + r = r + 2 ^ f.lo * (x + 2 ^ f.width * q) := by ring
  rw [e, Nat.add_mul_div_left _ _ (by positivity), Nat.div_eq_of_lt hr, Nat.zero_add, Nat.add_mul_mod_self_left, Nat.mod_eq_of_lt hv]

/-- A field below the one written keeps its value. -/
theorem getFld_putFld_below (f g : Fld) (w : Word) (v : Nat) (h : f.lo + f.width ≤ 32) (k : g.lo + g.width ≤ f.lo) :
    getFld g (putFld f w v) = getFld g w := by
  have low (x : Nat) : x / 2 ^ g.lo % 2 ^ g.width = x % 2 ^ f.lo / 2 ^ g.lo % 2 ^ g.width := by
    obtain ⟨d, hd⟩ := Nat.exists_eq_add_of_le k
    rw [hd, Nat.add_assoc, Nat.pow_add 2 g.lo, Nat.mod_mul_right_div_self, Nat.pow_add, Nat.mod_mul_right_mod]
  rw [getFld_eq, getFld_eq, low, low w.toNat, putFld_toNat f w v h]
  congr 2
  rw [Nat.pow_add]
  generalize w.toNat / (2 ^ f.lo * 2 ^ f.width) = q
  have e : q * (2 ^ f.lo * 2 ^ f.width) + v % 2 ^ f.width * 2 ^ f.lo + w.toNat % 2 ^ f.lo
      = w.toNat % 2 ^ f.lo + 2 ^ f.lo * (q * 2 ^ f.width + v % 2 ^ f.width) := by ring
  rw [e, Nat.add_mul_mod_self_left, Nat.mod_mod]

/-- A field above the one written keeps its value. -/
theorem getFld_putFld_above (f g : Fld) (w : Word) (v : Nat) (h : f.lo + f.width ≤ 32) (k : f.lo + f.width ≤ g.lo) :
    getFld g (putFld f w v) = getFld g w := by
  have hr : w.toNat % 2 ^ f.lo < 2 ^ f.lo := Nat.mod_lt _ (by positivity)
  have hv : v % 2 ^ f.width < 2 ^ f.width := Nat.mod_lt _ (by positivity)
  obtain ⟨d, hd⟩ := Nat.exists_eq_add_of_le k
  rw [getFld_eq, getFld_eq, putFld_toNat f w v h, hd, Nat.pow_add 2 (f.lo + f.width), ← Nat.div_div_eq_div_mul, ← Nat.div_div_eq_div_mul]
  congr 2
  have hb : v % 2 ^ f.width * 2 ^ f.lo + w.toNat % 2 ^ f.lo < 2 ^ (f.lo + f.width) := by
    have e1 : (v % 2 ^ f.width + 1) * 2 ^ f.lo ≤ 2 ^ f.width * 2 ^ f.lo := Nat.mul_le_mul_right _ hv
    have e2 : (2 : Nat) ^ (f.lo + f.width) = 2 ^ f.width * 2 ^ f.lo := by rw [Nat.pow_add, Nat.mul_comm]
    have e3 : (v % 2 ^ f.width + 1) * 2 ^ f.lo = v % 2 ^ f.width * 2 ^ f.lo + 2 ^ f.lo := by ring
    omega
  rw [Nat.add_assoc, Nat.mul_comm (w.toNat / 2 ^ (f.lo + f.width)), Nat.mul_add_div (by positivity), Nat.div_eq_of_lt hb, Nat.add_zero]

/-- A read of the field just written. -/
theorem State.rd_wr_same (f : Fld) (v : Nat) (h : f.lo + f.width ≤ 32 := by decide) : (s.wr f v).rd f = v % 2 ^ f.width := by
  unfold State.rd State.wr
  rw [State.reg_setReg_same, getFld_putFld_same f _ v h]

/-- Two fields that share no bit. -/
abbrev Fld.apart (f g : Fld) : Prop := g.addr ≠ f.addr ∨ g.lo + g.width ≤ f.lo ∨ f.lo + f.width ≤ g.lo

/-- A write of a field leaves every field apart from it alone. -/
theorem State.rd_wr_apart {f g : Fld} (v : Nat) (k : f.apart g) (h : f.lo + f.width ≤ 32 := by decide) :
    (s.wr f v).rd g = s.rd g := by
  unfold State.rd State.wr
  by_cases e : g.addr = f.addr
  · rcases k with k | k | k
    · exact absurd e k
    · rw [e, State.reg_setReg_same, getFld_putFld_below f g _ v h k]
    · rw [e, State.reg_setReg_same, getFld_putFld_above f g _ v h k]
  · rw [State.reg_setReg_other s _ e]

theorem State.isSet_set1 (f : Fld) (h : f.lo + f.width ≤ 32 := by decide) (hw : 0 < f.width := by decide) : (s.set1 f).isSet f = true := by
  unfold State.isSet State.set1
  rw [State.rd_wr_same s f 1 h, Nat.mod_eq_of_lt (Nat.one_lt_two_pow (by omega))]
  rfl

/-! ### Memory -/

/-- A byte behind the stored ones, or before them, keeps its value. -/
theorem putBytes_other (dead : List Nat) (l : List Byte) (m : SMap Byte) (a b : Nat) (h : b < a ∨ a + l.length ≤ b) :
    SMap.get memDefault (putBytes dead m a l) b = SMap.get memDefault m b := by
  induction l generalizing m a with
  | nil => rfl
  | cons x l ih =>
    simp only [List.length_cons] at h
    unfold putBytes
    rw [ih _ _ (by omega)]
    split
    · rfl
    · exact SMap.get_set_other _ _ _ _ _ (by omega)

/-- A store leaves every byte outside its own alone. -/
theorem State.byte_setBytes_other (a b : Nat) (l : List Byte) (h : b < a ∨ a + l.length ≤ b) : (s.setBytes a l).byte b = s.byte b :=
  putBytes_other _ _ _ _ _ h

/-- A store of one byte is read back, where no word is fenced. -/
theorem State.byte_setByte_same (a : Nat) (v : Byte) (h : deadAt s.flt.dead a = false) : (s.setByte a v).byte a = v := by
  unfold State.setByte State.setBytes State.byte putBytes putBytes
  simp [h]

end Sys2Proof.Machine
end

