-- ==== Sys2Proof/Laws/Frames.lean ====
section
/-! SUPPORT. What a log entry, a status flag and a change of the operating state leave alone: every part but the log, every register but
those of the log. -/

namespace Sys2Proof.Machine

variable (s : State)

/-- An entry moves only registers of the log. -/
theorem State.stageEntry_reg (code : Nat) (p0 p1 : Word) {a : Nat} (h : a ∉ logRegs) : (s.stageEntry code p0 p1).reg a = s.reg a := by
  simp only [logRegs, List.mem_cons, List.not_mem_nil, or_false, not_or] at h
  unfold State.stageEntry
  rw [State.reg_wr_other _ _ (by exact h.2.1), State.reg_setReg_other _ _ h.1]
  rfl

theorem State.lost_reg (x : State) {a : Nat} (h : a ∉ logRegs) : ((x.bump LOG_LOST.count 1).set1 LOG_STATUS.lost).reg a = x.reg a := by
  simp only [logRegs, List.mem_cons, List.not_mem_nil, or_false, not_or] at h
  unfold State.set1 State.bump
  rw [State.reg_wr_other _ _ (by exact h.2.2.2), State.reg_wr_other _ _ (by exact h.2.2.1)]

/-- A logged event moves only registers of the log. -/
theorem State.event_reg (code : Nat) (p0 p1 : Word) {a : Nat} (h : a ∉ logRegs) : (s.event code p0 p1).reg a = s.reg a := by
  unfold State.event
  split
  · rw [State.lost_reg _ h]
    rfl
  · split
    · dsimp only
      split
      · rw [State.lost_reg _ h]
        exact State.stageEntry_reg s _ _ _ h
      · rw [State.stageEntry_reg _ _ _ _ h]
        exact State.stageEntry_reg s _ _ _ h
    · exact State.stageEntry_reg s _ _ _ h

theorem State.event_rd (code : Nat) (p0 p1 : Word) {f : Fld} (h : f.addr ∉ logRegs) : (s.event code p0 p1).rd f = s.rd f := by
  unfold State.rd
  rw [State.event_reg s code p0 p1 h]

theorem State.rest_trans {s t u : State} (h : t = { s with regs := t.regs, log := t.log }) (k : u = { t with regs := u.regs, log := u.log }) :
    u = { s with regs := u.regs, log := u.log } := by
  rw [h] at k
  exact k

theorem State.setReg_rest (a : Nat) (v : Word) : s.setReg a v = { s with regs := (s.setReg a v).regs, log := (s.setReg a v).log } := rfl

theorem State.stageEntry_rest (code : Nat) (p0 p1 : Word) :
    s.stageEntry code p0 p1 = { s with regs := (s.stageEntry code p0 p1).regs, log := (s.stageEntry code p0 p1).log } := by
  unfold State.stageEntry State.wr State.setReg
  rfl

theorem State.lost_rest (x : State) : (x.bump LOG_LOST.count 1).set1 LOG_STATUS.lost
    = { x with regs := ((x.bump LOG_LOST.count 1).set1 LOG_STATUS.lost).regs, log := ((x.bump LOG_LOST.count 1).set1 LOG_STATUS.lost).log } :=
  State.rest_trans (State.setReg_rest _ _ _) (State.setReg_rest _ _ _)

/-- A logged event changes nothing but registers of the log and the log. -/
theorem State.event_rest (code : Nat) (p0 p1 : Word) :
    s.event code p0 p1 = { s with regs := (s.event code p0 p1).regs, log := (s.event code p0 p1).log } := by
  unfold State.event
  split
  · exact State.rest_trans (t := { s with log := _ }) rfl (State.lost_rest _)
  · split
    · have h : { s.stageEntry 0x4302 0 (BitVec.ofNat 32 s.log.lostNew) with
          log := { (s.stageEntry 0x4302 0 (BitVec.ofNat 32 s.log.lostNew)).log with lostNew := 0 } }
          = { s with regs := (s.stageEntry 0x4302 0 (BitVec.ofNat 32 s.log.lostNew)).regs,
                     log := { (s.stageEntry 0x4302 0 (BitVec.ofNat 32 s.log.lostNew)).log with lostNew := 0 } } := by
        conv => lhs; rw [State.stageEntry_rest]
      dsimp only
      generalize { s.stageEntry 0x4302 0 (BitVec.ofNat 32 s.log.lostNew) with
          log := { (s.stageEntry 0x4302 0 (BitVec.ofNat 32 s.log.lostNew)).log with lostNew := 0 } } = y at h ⊢
      subst h
      split
      · exact State.rest_trans (t := { s with regs := _, log := _ }) rfl (State.lost_rest _)
      · exact State.rest_trans (t := { s with regs := _, log := _ }) rfl (State.stageEntry_rest _ _ _ _)
    · exact State.stageEntry_rest s _ _ _

theorem State.event_onlyLogged (code : Nat) (p0 p1 : Word) : s.OnlyLogged (s.event code p0 p1) [] :=
  ⟨fun _ h => State.event_reg s code p0 p1 h, State.event_rest s code p0 p1⟩

theorem State.flagEvent_reg (f : Fld) (i d : Nat) {a : Nat} (h : a ∉ logRegs) (k : a ≠ f.addr) :
    (s.flagEvent f i d).reg a = s.reg a := by
  unfold State.flagEvent
  rw [State.event_reg _ _ _ _ h]
  exact State.reg_wr_other s _ k

theorem State.goto_reg (t : OpState) {a : Nat} (h : a ∉ logRegs) (k : a ≠ SYS_STATE) : (s.goto t).reg a = s.reg a := by
  unfold State.goto
  split
  · rfl
  · rw [State.event_reg _ _ _ _ h, State.reg_wr_other _ _ (by exact k)]

/-- The operating state after a change of it. -/
theorem State.goto_op (t : OpState) : (s.goto t).op = t := by
  unfold State.goto
  split
  · assumption
  · unfold State.op
    rw [State.event_rd _ _ _ _ (by decide), State.rd_wr_same _ _ _]
    cases t <;> rfl

/-- A status bit is set after its event. -/
theorem State.flagEvent_isSet (f : Fld) (i d : Nat) (h : f.addr ∉ logRegs) (k : f.lo + f.width ≤ 32 := by decide)
    (hw : 0 < f.width := by decide) : (s.flagEvent f i d).isSet f = true := by
  unfold State.flagEvent
  unfold State.isSet
  rw [State.event_rd _ _ _ _ h]
  exact State.isSet_set1 s f k hw

@[simp] theorem State.event_pending (k : Nat) (p q : Word) : (s.event k p q).pending = s.pending := by rw [State.event_rest]
@[simp] theorem State.event_mem (k : Nat) (p q : Word) : (s.event k p q).mem = s.mem := by rw [State.event_rest]
@[simp] theorem State.event_coef (k : Nat) (p q : Word) : (s.event k p q).coef = s.coef := by rw [State.event_rest]
@[simp] theorem State.event_free (k : Nat) (p q : Word) : (s.event k p q).free = s.free := by rw [State.event_rest]
@[simp] theorem State.event_xpt (k : Nat) (p q : Word) : (s.event k p q).xpt = s.xpt := by rw [State.event_rest]
@[simp] theorem State.event_patch (k : Nat) (p q : Word) : (s.event k p q).patch = s.patch := by rw [State.event_rest]
@[simp] theorem State.event_eng (k : Nat) (p q : Word) : (s.event k p q).eng = s.eng := by rw [State.event_rest]
@[simp] theorem State.event_ovr (k : Nat) (p q : Word) : (s.event k p q).ovr = s.ovr := by rw [State.event_rest]
@[simp] theorem State.event_dsp (k : Nat) (p q : Word) : (s.event k p q).dsp = s.dsp := by rw [State.event_rest]
@[simp] theorem State.event_img (k : Nat) (p q : Word) : (s.event k p q).img = s.img := by rw [State.event_rest]
@[simp] theorem State.event_ms (k : Nat) (p q : Word) : (s.event k p q).ms = s.ms := by rw [State.event_rest]
@[simp] theorem State.event_lastRead (k : Nat) (p q : Word) : (s.event k p q).lastRead = s.lastRead := by rw [State.event_rest]
@[simp] theorem State.event_q (k : Nat) (p q : Word) : (s.event k p q).q = s.q := by rw [State.event_rest]
@[simp] theorem State.event_flt (k : Nat) (p q : Word) : (s.event k p q).flt = s.flt := by rw [State.event_rest]
@[simp] theorem State.event_bus (k : Nat) (p q : Word) : (s.event k p q).bus = s.bus := by rw [State.event_rest]
@[simp] theorem State.event_pwr (k : Nat) (p q : Word) : (s.event k p q).pwr = s.pwr := by rw [State.event_rest]
@[simp] theorem State.event_sec (k : Nat) (p q : Word) : (s.event k p q).sec = s.sec := by rw [State.event_rest]
@[simp] theorem State.event_boot (k : Nat) (p q : Word) : (s.event k p q).boot = s.boot := by rw [State.event_rest]
@[simp] theorem State.event_spi (k : Nat) (p q : Word) : (s.event k p q).spi = s.spi := by rw [State.event_rest]
@[simp] theorem State.event_dec (k : Nat) (p q : Word) : (s.event k p q).dec = s.dec := by rw [State.event_rest]
@[simp] theorem State.event_sp (k : Nat) (p q : Word) : (s.event k p q).sp = s.sp := by rw [State.event_rest]
@[simp] theorem State.event_field (k : Nat) (p q : Word) : (s.event k p q).field = s.field := by rw [State.event_rest]
@[simp] theorem State.event_msg (k : Nat) (p q : Word) : (s.event k p q).msg = s.msg := by rw [State.event_rest]
@[simp] theorem State.event_ref (k : Nat) (p q : Word) : (s.event k p q).ref = s.ref := by rw [State.event_rest]
@[simp] theorem State.event_net (k : Nat) (p q : Word) : (s.event k p q).net = s.net := by rw [State.event_rest]
@[simp] theorem State.event_ptp (k : Nat) (p q : Word) : (s.event k p q).ptp = s.ptp := by rw [State.event_rest]
@[simp] theorem State.event_pair (k : Nat) (p q : Word) : (s.event k p q).pair = s.pair := by rw [State.event_rest]

@[simp] theorem State.flagEvent_pending (f : Fld) (i d : Nat) : (s.flagEvent f i d).pending = s.pending := State.event_pending _ _ _ _
@[simp] theorem State.flagEvent_mem (f : Fld) (i d : Nat) : (s.flagEvent f i d).mem = s.mem := State.event_mem _ _ _ _
@[simp] theorem State.flagEvent_coef (f : Fld) (i d : Nat) : (s.flagEvent f i d).coef = s.coef := State.event_coef _ _ _ _
@[simp] theorem State.flagEvent_free (f : Fld) (i d : Nat) : (s.flagEvent f i d).free = s.free := State.event_free _ _ _ _
@[simp] theorem State.flagEvent_xpt (f : Fld) (i d : Nat) : (s.flagEvent f i d).xpt = s.xpt := State.event_xpt _ _ _ _
@[simp] theorem State.flagEvent_patch (f : Fld) (i d : Nat) : (s.flagEvent f i d).patch = s.patch := State.event_patch _ _ _ _
@[simp] theorem State.flagEvent_eng (f : Fld) (i d : Nat) : (s.flagEvent f i d).eng = s.eng := State.event_eng _ _ _ _
@[simp] theorem State.flagEvent_ovr (f : Fld) (i d : Nat) : (s.flagEvent f i d).ovr = s.ovr := State.event_ovr _ _ _ _
@[simp] theorem State.flagEvent_dsp (f : Fld) (i d : Nat) : (s.flagEvent f i d).dsp = s.dsp := State.event_dsp _ _ _ _
@[simp] theorem State.flagEvent_img (f : Fld) (i d : Nat) : (s.flagEvent f i d).img = s.img := State.event_img _ _ _ _
@[simp] theorem State.flagEvent_ms (f : Fld) (i d : Nat) : (s.flagEvent f i d).ms = s.ms := State.event_ms _ _ _ _
@[simp] theorem State.flagEvent_lastRead (f : Fld) (i d : Nat) : (s.flagEvent f i d).lastRead = s.lastRead := State.event_lastRead _ _ _ _
@[simp] theorem State.flagEvent_q (f : Fld) (i d : Nat) : (s.flagEvent f i d).q = s.q := State.event_q _ _ _ _
@[simp] theorem State.flagEvent_flt (f : Fld) (i d : Nat) : (s.flagEvent f i d).flt = s.flt := State.event_flt _ _ _ _
@[simp] theorem State.flagEvent_bus (f : Fld) (i d : Nat) : (s.flagEvent f i d).bus = s.bus := State.event_bus _ _ _ _
@[simp] theorem State.flagEvent_pwr (f : Fld) (i d : Nat) : (s.flagEvent f i d).pwr = s.pwr := State.event_pwr _ _ _ _
@[simp] theorem State.flagEvent_sec (f : Fld) (i d : Nat) : (s.flagEvent f i d).sec = s.sec := State.event_sec _ _ _ _
@[simp] theorem State.flagEvent_boot (f : Fld) (i d : Nat) : (s.flagEvent f i d).boot = s.boot := State.event_boot _ _ _ _
@[simp] theorem State.flagEvent_spi (f : Fld) (i d : Nat) : (s.flagEvent f i d).spi = s.spi := State.event_spi _ _ _ _
@[simp] theorem State.flagEvent_dec (f : Fld) (i d : Nat) : (s.flagEvent f i d).dec = s.dec := State.event_dec _ _ _ _
@[simp] theorem State.flagEvent_sp (f : Fld) (i d : Nat) : (s.flagEvent f i d).sp = s.sp := State.event_sp _ _ _ _
@[simp] theorem State.flagEvent_field (f : Fld) (i d : Nat) : (s.flagEvent f i d).field = s.field := State.event_field _ _ _ _
@[simp] theorem State.flagEvent_msg (f : Fld) (i d : Nat) : (s.flagEvent f i d).msg = s.msg := State.event_msg _ _ _ _
@[simp] theorem State.flagEvent_ref (f : Fld) (i d : Nat) : (s.flagEvent f i d).ref = s.ref := State.event_ref _ _ _ _
@[simp] theorem State.flagEvent_net (f : Fld) (i d : Nat) : (s.flagEvent f i d).net = s.net := State.event_net _ _ _ _
@[simp] theorem State.flagEvent_ptp (f : Fld) (i d : Nat) : (s.flagEvent f i d).ptp = s.ptp := State.event_ptp _ _ _ _
@[simp] theorem State.flagEvent_pair (f : Fld) (i d : Nat) : (s.flagEvent f i d).pair = s.pair := State.event_pair _ _ _ _

@[simp] theorem State.goto_pending (t : OpState) : (s.goto t).pending = s.pending := by unfold State.goto; split <;> simp
@[simp] theorem State.goto_mem (t : OpState) : (s.goto t).mem = s.mem := by unfold State.goto; split <;> simp
@[simp] theorem State.goto_coef (t : OpState) : (s.goto t).coef = s.coef := by unfold State.goto; split <;> simp
@[simp] theorem State.goto_free (t : OpState) : (s.goto t).free = s.free := by unfold State.goto; split <;> simp
@[simp] theorem State.goto_xpt (t : OpState) : (s.goto t).xpt = s.xpt := by unfold State.goto; split <;> simp
@[simp] theorem State.goto_patch (t : OpState) : (s.goto t).patch = s.patch := by unfold State.goto; split <;> simp
@[simp] theorem State.goto_eng (t : OpState) : (s.goto t).eng = s.eng := by unfold State.goto; split <;> simp
@[simp] theorem State.goto_ovr (t : OpState) : (s.goto t).ovr = s.ovr := by unfold State.goto; split <;> simp
@[simp] theorem State.goto_dsp (t : OpState) : (s.goto t).dsp = s.dsp := by unfold State.goto; split <;> simp
@[simp] theorem State.goto_img (t : OpState) : (s.goto t).img = s.img := by unfold State.goto; split <;> simp
@[simp] theorem State.goto_ms (t : OpState) : (s.goto t).ms = s.ms := by unfold State.goto; split <;> simp
@[simp] theorem State.goto_lastRead (t : OpState) : (s.goto t).lastRead = s.lastRead := by unfold State.goto; split <;> simp
@[simp] theorem State.goto_q (t : OpState) : (s.goto t).q = s.q := by unfold State.goto; split <;> simp
@[simp] theorem State.goto_flt (t : OpState) : (s.goto t).flt = s.flt := by unfold State.goto; split <;> simp
@[simp] theorem State.goto_bus (t : OpState) : (s.goto t).bus = s.bus := by unfold State.goto; split <;> simp
@[simp] theorem State.goto_pwr (t : OpState) : (s.goto t).pwr = s.pwr := by unfold State.goto; split <;> simp
@[simp] theorem State.goto_sec (t : OpState) : (s.goto t).sec = s.sec := by unfold State.goto; split <;> simp
@[simp] theorem State.goto_boot (t : OpState) : (s.goto t).boot = s.boot := by unfold State.goto; split <;> simp
@[simp] theorem State.goto_spi (t : OpState) : (s.goto t).spi = s.spi := by unfold State.goto; split <;> simp
@[simp] theorem State.goto_dec (t : OpState) : (s.goto t).dec = s.dec := by unfold State.goto; split <;> simp
@[simp] theorem State.goto_sp (t : OpState) : (s.goto t).sp = s.sp := by unfold State.goto; split <;> simp
@[simp] theorem State.goto_field (t : OpState) : (s.goto t).field = s.field := by unfold State.goto; split <;> simp
@[simp] theorem State.goto_msg (t : OpState) : (s.goto t).msg = s.msg := by unfold State.goto; split <;> simp
@[simp] theorem State.goto_ref (t : OpState) : (s.goto t).ref = s.ref := by unfold State.goto; split <;> simp
@[simp] theorem State.goto_net (t : OpState) : (s.goto t).net = s.net := by unfold State.goto; split <;> simp
@[simp] theorem State.goto_ptp (t : OpState) : (s.goto t).ptp = s.ptp := by unfold State.goto; split <;> simp
@[simp] theorem State.goto_pair (t : OpState) : (s.goto t).pair = s.pair := by unfold State.goto; split <;> simp

end Sys2Proof.Machine
end

