-- ==== Sys2Proof/Laws/Keeps.lean ====
section
/-! SUPPORT. The rules of `State.Keeps` for the ways in which a meaning builds its state: an update of other fields, a register write, a
memory write, a coefficient write, a choice, a loop. -/

namespace Sys2Proof.Machine

variable {s0 s t : State}

theorem State.Keeps.refl (s : State) : s.Keeps s := ⟨rfl, id⟩

theorem State.Keeps.trans {s1 s2 s3 : State} (h : s1.Keeps s2) (k : s2.Keeps s3) : s1.Keeps s3 :=
  ⟨k.pending.trans h.pending, fun w => k.stored (h.stored w)⟩

/-- A state that differs in neither store nor queue. -/
theorem State.Keeps.same (h : s0.Keeps s) (hp : t.pending = s.pending) (hr : t.regs = s.regs) (hm : t.mem = s.mem)
    (hc : t.coef = s.coef) : s0.Keeps t :=
  ⟨hp.trans h.pending, fun w => ⟨by rw [hr]; exact (h.stored w).regs, by rw [hm]; exact (h.stored w).mem,
    by rw [hc]; exact (h.stored w).coef⟩⟩

/-- An update of fields that are neither store nor queue. -/
theorem State.Keeps.upd_iff
    (x4 : Nat)
    (x5 : XptState)
    (x6 : PatchState)
    (x7 : EngState)
    (x8 : OvrState)
    (x9 : DspState)
    (x10 : ImgState)
    (x11 : MemState)
    (x12 : Word)
    (x13 : QState)
    (x14 : LogState)
    (x15 : FaultState)
    (x16 : BusState)
    (x17 : PwrState)
    (x18 : SecState)
    (x19 : BootState)
    (x20 : PortState)
    (x21 : DecState)
    (x22 : SMap SpPort)
    (x23 : FieldState)
    (x24 : MsgState)
    (x25 : RefState)
    (x26 : NetState)
    (x27 : PtpState)
    (x28 : PairState) :
    s0.Keeps ⟨s.pending, s.regs, s.mem, s.coef, x4, x5, x6, x7, x8, x9, x10, x11, x12, x13, x14, x15, x16, x17, x18, x19, x20, x21, x22, x23, x24, x25, x26, x27, x28⟩ ↔ s0.Keeps s :=
  ⟨fun h => h.same rfl rfl rfl rfl, fun h => h.same rfl rfl rfl rfl⟩

theorem State.setReg_keeps (h : s0.Keeps s) {a : Nat} {v : Word} : s0.Keeps (s.setReg a v) :=
  ⟨h.pending, fun w => ⟨SMap.wf_set _ _ _ _ (h.stored w).regs, (h.stored w).mem, (h.stored w).coef⟩⟩

/-- Every write of memory keeps the canonical form, wherever words are fenced. -/
theorem putBytes_wf (dead : List Nat) (bs : List Byte) (m : SMap Byte) (a : Nat) (h : Memory.wf m = true) :
    Memory.wf (putBytes dead m a bs) = true := by
  induction bs generalizing m a with
  | nil => exact h
  | cons b bs ih =>
    unfold putBytes
    apply ih
    split
    · exact h
    · exact SMap.wf_set _ _ _ _ h

theorem State.setBytes_keeps (h : s0.Keeps s) {a : Nat} {bs : List Byte} : s0.Keeps (s.setBytes a bs) :=
  ⟨h.pending, fun w => ⟨(h.stored w).regs, putBytes_wf _ _ _ _ (h.stored w).mem, (h.stored w).coef⟩⟩

/-- A write of a coefficient, whatever else the update does beside stores and queue. -/
theorem State.Keeps.setCoef (h : s0.Keeps s) {k : Nat} {v : Word} (hp : t.pending = s.pending) (hr : t.regs = s.regs)
    (hm : t.mem = s.mem) (hc : t.coef = SMap.set zeroWord s.coef k v) : s0.Keeps t :=
  ⟨hp.trans h.pending, fun w => ⟨by rw [hr]; exact (h.stored w).regs, by rw [hm]; exact (h.stored w).mem,
    by rw [hc]; exact SMap.wf_set _ _ _ _ (h.stored w).coef⟩⟩

/-- A write of a coefficient with an update of fields that are neither store nor queue. -/
theorem State.Keeps.updCoef (h : s0.Keeps s) {k : Nat} {v : Word}
    {x4 : Nat}
    {x5 : XptState}
    {x6 : PatchState}
    {x7 : EngState}
    {x8 : OvrState}
    {x9 : DspState}
    {x10 : ImgState}
    {x11 : MemState}
    {x12 : Word}
    {x13 : QState}
    {x14 : LogState}
    {x15 : FaultState}
    {x16 : BusState}
    {x17 : PwrState}
    {x18 : SecState}
    {x19 : BootState}
    {x20 : PortState}
    {x21 : DecState}
    {x22 : SMap SpPort}
    {x23 : FieldState}
    {x24 : MsgState}
    {x25 : RefState}
    {x26 : NetState}
    {x27 : PtpState}
    {x28 : PairState} :
    s0.Keeps ⟨s.pending, s.regs, s.mem, SMap.set zeroWord s.coef k v, x4, x5, x6, x7, x8, x9, x10, x11, x12, x13, x14, x15, x16, x17, x18, x19, x20, x21, x22, x23, x24, x25, x26, x27, x28⟩ :=
  h.setCoef rfl rfl rfl rfl

/-- A state whose registers and coefficients are cleared, and whose memory stays or is cleared. -/
theorem State.Keeps.cleared (h : s0.Keeps s) (hp : t.pending = s.pending) (hr : t.regs = []) (hm : t.mem = s.mem ∨ t.mem = [])
    (hc : t.coef = []) : s0.Keeps t :=
  ⟨hp.trans h.pending, fun w => ⟨by rw [hr]; rfl, by
    rcases hm with e | e <;> rw [e]
    · exact (h.stored w).mem
    · rfl, by rw [hc]; rfl⟩⟩

theorem State.Keeps.ite {c : Prop} [Decidable c] (h : s0.Keeps s) (k : s0.Keeps t) : s0.Keeps (if c then s else t) := by
  split
  · exact h
  · exact k

theorem State.Keeps.iteFst {α : Type} {c : Prop} [Decidable c] {x y : State × α} (h : s0.Keeps x.1) (k : s0.Keeps y.1) :
    s0.Keeps (if c then x else y).1 := by
  split
  · exact h
  · exact k

theorem State.Keeps.iteSnd {α : Type} {c : Prop} [Decidable c] {x y : α × State} (h : s0.Keeps x.2) (k : s0.Keeps y.2) :
    s0.Keeps (if c then x else y).2 := by
  split
  · exact h
  · exact k

theorem State.Keeps.cond {c : Bool} (h : s0.Keeps s) (k : s0.Keeps t) : s0.Keeps (bif c then s else t) := by
  cases c
  · exact k
  · exact h

theorem State.Keeps.fst {α : Type} {x : State × α} {a : α} (e : x = (s, a)) (h : s0.Keeps x.1) : s0.Keeps s := by
  rw [e] at h
  exact h

theorem State.Keeps.snd {α : Type} {x : α × State} {a : α} (e : x = (a, s)) (h : s0.Keeps x.2) : s0.Keeps s := by
  rw [e] at h
  exact h

/-- A loop keeps what its body keeps. -/
theorem State.Keeps.foldl {α : Type} {l : List α} {f : State → α → State} (h : s0.Keeps s)
    (k : ∀ t x, s0.Keeps t → s0.Keeps (f t x)) : s0.Keeps (l.foldl f s) := by
  induction l generalizing s with
  | nil => exact h
  | cons x l ih => exact ih (k _ _ h)

theorem forAll_keeps {α : Type} {l : List α} {f : α → State → State} (h : s0.Keeps s)
    (k : ∀ x t, s0.Keeps t → s0.Keeps (f x t)) : s0.Keeps (forAll l f s) :=
  State.Keeps.foldl h (fun t x => k x t)

theorem upTo_keeps {n : Nat} {f : Nat → State → State} (h : s0.Keeps s)
    (k : ∀ x t, s0.Keeps t → s0.Keeps (f x t)) : s0.Keeps (upTo n f s) :=
  State.Keeps.foldl h (fun t x => k x t)

/-- A loop over a pair of a state and something else. -/
theorem State.Keeps.foldlFst {α β : Type} {l : List α} {f : State × β → α → State × β} {p : State × β} (h : s0.Keeps p.1)
    (k : ∀ q x, s0.Keeps q.1 → s0.Keeps (f q x).1) : s0.Keeps (l.foldl f p).1 := by
  induction l generalizing p with
  | nil => exact h
  | cons x l ih => exact ih (k _ _ h)

theorem State.Keeps.foldlSnd {α β : Type} {l : List α} {f : β × State → α → β × State} {p : β × State} (h : s0.Keeps p.2)
    (k : ∀ q x, s0.Keeps q.2 → s0.Keeps (f q x).2) : s0.Keeps (l.foldl f p).2 := by
  induction l generalizing p with
  | nil => exact h
  | cons x l ih => exact ih (k _ _ h)

/-- What a meaning answers as a next state. -/
theorem Res.Keeps.ofNext (h : s0.Keeps s) : Res.Keeps s0 (.next s) := by
  constructor
  intro t e
  cases e
  exact h

theorem Res.Keeps.fault (f : Fault) : Res.Keeps s0 (.fault f) := by
  constructor
  intro t e
  cases e

theorem Res.Keeps.ite {c : Prop} [Decidable c] {x y : Res} (h : Res.Keeps s0 x) (k : Res.Keeps s0 y) :
    Res.Keeps s0 (if c then x else y) := by
  split
  · exact h
  · exact k

end Sys2Proof.Machine
end

