-- ==== Sys2Proof/Laws/KeepsOps.lean ====
section
/-! SUPPORT. What the operations of Machine/Ops.lean keep (`State.Keeps`): the queue and the canonical form of the stores. -/

namespace Sys2Proof.Machine

theorem State.wr_keeps {s0 : State} {s : State} {f : Fld} {v : Nat} (hk : s0.Keeps s) :
    s0.Keeps (State.wr s f v) := by
  unfold State.wr
  repeat' first
    | with_reducible exact hk
    | with_reducible apply State.setReg_keeps

theorem State.wrB_keeps {s0 : State} {s : State} {f : Fld} {b : Bool} (hk : s0.Keeps s) :
    s0.Keeps (State.wrB s f b) := by
  unfold State.wrB
  repeat' first
    | with_reducible exact hk
    | with_reducible apply State.wr_keeps

theorem State.set1_keeps {s0 : State} {s : State} {f : Fld} (hk : s0.Keeps s) :
    s0.Keeps (State.set1 s f) := by
  unfold State.set1
  repeat' first
    | with_reducible exact hk
    | with_reducible apply State.wr_keeps

theorem State.bump_keeps {s0 : State} {s : State} {f : Fld} {k : Nat} (hk : s0.Keeps s) :
    s0.Keeps (State.bump s f k) := by
  unfold State.bump
  repeat' first
    | with_reducible exact hk
    | with_reducible apply State.wr_keeps

theorem State.wrapInc_keeps {s0 : State} {s : State} {f : Fld} {k : Nat} (hk : s0.Keeps s) :
    s0.Keeps (State.wrapInc s f k) := by
  unfold State.wrapInc
  repeat' first
    | with_reducible exact hk
    | with_reducible apply State.wr_keeps

theorem State.setRegs_keeps {s0 : State} {s : State} {a : Nat} {w0 : List Word} (hk : s0.Keeps s) :
    s0.Keeps (State.setRegs s a w0) := by
  induction w0 generalizing s a with
  | nil => exact hk
  | cons _ _ ih =>
    unfold State.setRegs
    repeat' first
      | with_reducible exact hk
      | with_reducible apply State.setReg_keeps
      | with_reducible apply ih

theorem State.setByte_keeps {s0 : State} {s : State} {a : Nat} {v : Byte} (hk : s0.Keeps s) :
    s0.Keeps (State.setByte s a v) := by
  unfold State.setByte
  repeat' first
    | with_reducible exact hk
    | with_reducible apply State.setBytes_keeps

theorem State.setMemWord_keeps {s0 : State} {s : State} {a : Nat} {w : Word} (hk : s0.Keeps s) :
    s0.Keeps (State.setMemWord s a w) := by
  unfold State.setMemWord
  repeat' first
    | with_reducible exact hk
    | with_reducible apply State.setBytes_keeps

theorem State.setMemWords_keeps {s0 : State} {s : State} {a : Nat} {ws : List Word} (hk : s0.Keeps s) :
    s0.Keeps (State.setMemWords s a ws) := by
  unfold State.setMemWords
  repeat' first
    | with_reducible exact hk
    | with_reducible apply State.setBytes_keeps

theorem State.drawFree_keeps {s0 : State} {s : State} (hk : s0.Keeps s) :
    s0.Keeps (State.drawFree s).2 := by
  unfold State.drawFree
  dsimp only
  repeat' first
    | with_reducible exact hk
    | simp only [State.Keeps.upd_iff]

theorem State.stageEntry_keeps {s0 : State} {s : State} {code : Nat} {p0 : Word} {p1 : Word} (hk : s0.Keeps s) :
    s0.Keeps (State.stageEntry s code p0 p1) := by
  unfold State.stageEntry
  dsimp only
  repeat' first
    | with_reducible exact hk
    | with_reducible apply State.setReg_keeps
    | with_reducible apply State.wr_keeps
    | simp only [State.Keeps.upd_iff]

theorem State.event_keeps {s0 : State} {s : State} {code : Nat} {p0 : Word} {p1 : Word} (hk : s0.Keeps s) :
    s0.Keeps (State.event s code p0 p1) := by
  unfold State.event
  dsimp only
  repeat' first
    | with_reducible exact hk
    | with_reducible apply State.Keeps.ite
    | with_reducible apply State.bump_keeps
    | with_reducible apply State.stageEntry_keeps
    | with_reducible apply State.set1_keeps
    | simp only [State.Keeps.upd_iff]

theorem State.eventFree_keeps {s0 : State} {s : State} {p0 : Nat} {p1 : Nat} (hk : s0.Keeps s) :
    s0.Keeps (State.eventFree s p0 p1) := by
  unfold State.eventFree
  dsimp only
  repeat' first
    | with_reducible exact hk
    | with_reducible apply State.drawFree_keeps
    | with_reducible apply State.event_keeps

theorem State.flagEvent_keeps {s0 : State} {s : State} {f : Fld} {inst : Nat} {detail : Nat} (hk : s0.Keeps s) :
    s0.Keeps (State.flagEvent s f inst detail) := by
  unfold State.flagEvent
  repeat' first
    | with_reducible exact hk
    | with_reducible apply State.event_keeps
    | with_reducible apply State.set1_keeps

theorem State.regrade_keeps {s0 : State} {s : State} (hk : s0.Keeps s) :
    s0.Keeps (State.regrade s) := by
  unfold State.regrade
  dsimp only
  repeat' first
    | with_reducible exact hk
    | with_reducible apply State.Keeps.ite
    | with_reducible apply State.event_keeps
    | with_reducible apply State.wr_keeps

theorem State.raiseCond_keeps {s0 : State} {s : State} {cause : Nat} {res : Nat} (hk : s0.Keeps s) :
    s0.Keeps (State.raiseCond s cause res) := by
  unfold State.raiseCond
  dsimp only
  repeat' first
    | with_reducible exact hk
    | with_reducible apply State.Keeps.ite
    | with_reducible apply State.regrade_keeps
    | simp only [State.Keeps.upd_iff]

theorem State.clearCond_keeps {s0 : State} {s : State} {cause : Nat} {res : Nat} (hk : s0.Keeps s) :
    s0.Keeps (State.clearCond s cause res) := by
  unfold State.clearCond
  dsimp only
  repeat' first
    | with_reducible exact hk
    | simp only [State.Keeps.upd_iff]

theorem State.addTransient_keeps {s0 : State} {s : State} {k : TestKind} {res : Nat} (hk : s0.Keeps s) :
    s0.Keeps (State.addTransient s k res).1 := by
  unfold State.addTransient
  dsimp only
  repeat' first
    | with_reducible exact hk
    | simp only [State.Keeps.upd_iff]

theorem State.markLasting_keeps {s0 : State} {s : State} {k : TestKind} {res : Nat} {word : Nat} (hk : s0.Keeps s) :
    s0.Keeps (State.markLasting s k res word) := by
  unfold State.markLasting
  dsimp only
  repeat' first
    | with_reducible exact hk
    | simp only [State.Keeps.upd_iff]

theorem State.startTest_keeps {s0 : State} {s : State} {k : TestKind} {res : Nat} (hk : s0.Keeps s) :
    s0.Keeps (State.startTest s k res) := by
  unfold State.startTest
  dsimp only
  repeat' first
    | with_reducible exact hk
    | with_reducible apply State.Keeps.ite
    | with_reducible apply State.addTransient_keeps
    | with_reducible apply State.event_keeps
    | with_reducible apply State.markLasting_keeps
    | simp only [State.Keeps.upd_iff]

theorem State.goto_keeps {s0 : State} {s : State} {t : OpState} (hk : s0.Keeps s) :
    s0.Keeps (State.goto s t) := by
  unfold State.goto
  repeat' first
    | with_reducible exact hk
    | with_reducible apply State.Keeps.ite
    | with_reducible apply State.event_keeps
    | with_reducible apply State.wr_keeps

end Sys2Proof.Machine
end

