-- ==== Sys2Proof/Laws/KeepsQuigil.lean ====
section
/-! SUPPORT. What the operations of Machine/Quigil.lean keep (`State.Keeps`): the queue and the canonical form of the stores. -/

namespace Sys2Proof.Machine

/-- What a decision answers keeps what `State.Keeps` says. -/
def Verdict.Keeps (s0 : State) : Verdict → Prop
  | .refuse _ _ _ => True
  | .reply _ _ _ s => s0.Keeps s
  | .timed _ _ s => s0.Keeps s
  | .timedAt _ s => s0.Keeps s
  | .job s => s0.Keeps s
  | .silent s => s0.Keeps s

theorem Verdict.Keeps.refuse {s0 : State} {st d : Nat} {o : Option Nat} : Verdict.Keeps s0 (.refuse st d o) := trivial

theorem Verdict.Keeps.reply {s0 s : State} {st d : Nat} {b : List Byte} (hk : s0.Keeps s) :
    Verdict.Keeps s0 (.reply st d b s) := hk

theorem Verdict.Keeps.timed {s0 s : State} {n : Nat} {l : List Word} (hk : s0.Keeps s) :
    Verdict.Keeps s0 (.timed n l s) := hk

theorem Verdict.Keeps.timedAt {s0 s : State} {a : Word} (hk : s0.Keeps s) : Verdict.Keeps s0 (.timedAt a s) := hk

theorem Verdict.Keeps.job {s0 s : State} (hk : s0.Keeps s) : Verdict.Keeps s0 (.job s) := hk

theorem Verdict.Keeps.silent {s0 s : State} (hk : s0.Keeps s) : Verdict.Keeps s0 (.silent s) := hk

theorem Verdict.Keeps.ite {s0 : State} {c : Prop} [Decidable c] {v w : Verdict} (hv : Verdict.Keeps s0 v)
    (hw : Verdict.Keeps s0 w) : Verdict.Keeps s0 (if c then v else w) := by
  split
  · exact hv
  · exact hw

theorem State.writeEntry_keeps {s0 : State} {s : State} {c : Cmd} {status : Nat} {detail : Nat} {apply : Word} {reply : List Byte} (hk : s0.Keeps s) :
    s0.Keeps (State.writeEntry s c status detail apply reply) := by
  unfold State.writeEntry
  dsimp only
  repeat' first
    | with_reducible exact hk
    | with_reducible apply State.Keeps.ite
    | with_reducible apply State.setBytes_keeps
    | with_reducible apply State.setMemWords_keeps
    | with_reducible apply State.wrapInc_keeps

theorem State.sendMgmt_keeps {s0 : State} {s : State} {dst : Word} {alarm : Bool} {kind : Nat} {ring : Nat} {payload : List Byte} (hk : s0.Keeps s) :
    s0.Keeps (State.sendMgmt s dst alarm kind ring payload) := by
  unfold State.sendMgmt
  dsimp only
  repeat' first
    | with_reducible exact hk
    | simp only [State.Keeps.upd_iff]

theorem State.mgmtEntry_keeps {s0 : State} {s : State} {src : Word} {alarm : Bool} {c : Cmd} {status : Nat} {detail : Nat} {apply : Word} {reply : List Byte} (hk : s0.Keeps s) :
    s0.Keeps (State.mgmtEntry s src alarm c status detail apply reply) := by
  unfold State.mgmtEntry
  dsimp only
  repeat' first
    | with_reducible exact hk
    | with_reducible apply State.Keeps.ite
    | with_reducible apply State.drawFree_keeps
    | with_reducible apply State.setBytes_keeps
    | with_reducible apply State.sendMgmt_keeps

theorem State.tellPartner_keeps {s0 : State} {s : State} {c : Cmd} {o : Origin} {status : Nat} {detail : Nat} {apply : Word} {reply : List Byte} (hk : s0.Keeps s) :
    s0.Keeps (State.tellPartner s c o status detail apply reply) := by
  unfold State.tellPartner
  dsimp only
  repeat' first
    | with_reducible exact hk
    | simp only [State.Keeps.upd_iff]

theorem State.answer_keeps {s0 : State} {s : State} {c : Cmd} {status : Nat} {detail : Nat} {apply : Word} {reply : List Byte} (hk : s0.Keeps s) :
    s0.Keeps (State.answer s c status detail apply reply) := by
  unfold State.answer
  repeat' first
    | with_reducible exact hk
    | with_reducible apply State.mgmtEntry_keeps
    | with_reducible apply State.tellPartner_keeps
    | with_reducible apply State.writeEntry_keeps
    | split

theorem State.complete_keeps {s0 : State} {s : State} {c : Cmd} {status : Nat} {detail : Nat} {apply : Word} {reply : List Byte} (hk : s0.Keeps s) :
    s0.Keeps (State.complete s c status detail apply reply) := by
  unfold State.complete
  dsimp only
  repeat' first
    | with_reducible exact hk
    | with_reducible apply State.answer_keeps
    | with_reducible apply State.wr_keeps
    | simp only [State.Keeps.upd_iff]
    | split

theorem State.interim_keeps {s0 : State} {s : State} {c : Cmd} {apply : Word} {reply : List Byte} (hk : s0.Keeps s) :
    s0.Keeps (State.interim s c apply reply) := by
  unfold State.interim
  repeat' first
    | with_reducible exact hk
    | with_reducible apply State.Keeps.ite
    | with_reducible apply State.answer_keeps

theorem State.pendSync_keeps {s0 : State} {s : State} (hk : s0.Keeps s) :
    s0.Keeps (State.pendSync s) := by
  unfold State.pendSync
  dsimp only
  repeat' first
    | with_reducible exact hk
    | with_reducible apply State.Keeps.ite
    | with_reducible apply State.wr_keeps

theorem State.setOut_keeps {s0 : State} {s : State} {l : List Outst} (hk : s0.Keeps s) :
    s0.Keeps (State.setOut s l) := by
  unfold State.setOut
  dsimp only
  repeat' first
    | with_reducible exact hk
    | simp only [State.Keeps.upd_iff]

theorem State.mapOut_keeps {s0 : State} {s : State} {r : CmdRef} {f : Outst → Outst} (hk : s0.Keeps s) :
    s0.Keeps (State.mapOut s r f) := by
  unfold State.mapOut
  repeat' first
    | with_reducible exact hk
    | with_reducible apply State.setOut_keeps

theorem State.releaseAborts_keeps {s0 : State} {s : State} {r : CmdRef} (hk : s0.Keeps s) :
    s0.Keeps (State.releaseAborts s r) := by
  unfold State.releaseAborts
  dsimp only
  repeat' first
    | intro _
    | with_reducible exact hk
    | with_reducible assumption
    | with_reducible apply State.complete_keeps
    | with_reducible apply forAll_keeps
    | simp only [State.Keeps.upd_iff]

theorem State.finish_keeps {s0 : State} {s : State} {r : CmdRef} {status : Nat} {detail : Nat} {reply : List Byte} (hk : s0.Keeps s) :
    s0.Keeps (State.finish s r status detail reply) := by
  unfold State.finish
  dsimp only
  repeat' first
    | with_reducible exact hk
    | with_reducible apply State.complete_keeps
    | with_reducible apply State.pendSync_keeps
    | with_reducible apply State.releaseAborts_keeps
    | with_reducible apply State.setOut_keeps
    | split

theorem State.ownerDone_keeps {s0 : State} {s : State} {r : Option CmdRef} (hk : s0.Keeps s) :
    s0.Keeps (State.ownerDone s r) := by
  unfold State.ownerDone
  repeat' first
    | with_reducible exact hk
    | with_reducible apply State.Keeps.ite
    | with_reducible apply State.finish_keeps
    | with_reducible apply State.mapOut_keeps
    | split

theorem State.ownerCancel_keeps {s0 : State} {s : State} {r : Option CmdRef} (hk : s0.Keeps s) :
    s0.Keeps (State.ownerCancel s r) := by
  unfold State.ownerCancel
  repeat' first
    | with_reducible exact hk
    | with_reducible apply State.finish_keeps
    | split

theorem State.ownerHeld_keeps {s0 : State} {s : State} {r : Option CmdRef} (hk : s0.Keeps s) :
    s0.Keeps (State.ownerHeld s r) := by
  unfold State.ownerHeld
  repeat' first
    | with_reducible exact hk
    | with_reducible apply State.interim_keeps
    | with_reducible apply State.mapOut_keeps
    | split

theorem State.accept_keeps {s0 : State} {s : State} {c : Cmd} {a : Word} {left : Nat} {objs : List Nat} {aux : List Word} (hk : s0.Keeps s) :
    s0.Keeps (State.accept s c a left objs aux) := by
  unfold State.accept
  repeat' first
    | with_reducible exact hk
    | with_reducible apply State.pendSync_keeps
    | with_reducible apply State.setOut_keeps

theorem State.refuse_keeps {s0 : State} {s : State} {c : Cmd} {status : Nat} {detail : Nat} {obj : Option Nat} (hk : s0.Keeps s) :
    s0.Keeps (State.refuse s c status detail obj) := by
  unfold State.refuse
  dsimp only
  repeat' first
    | with_reducible exact hk
    | with_reducible apply State.complete_keeps

theorem State.cmdFault_keeps {s0 : State} {s : State} {c : Cmd} (hk : s0.Keeps s) :
    s0.Keeps (State.cmdFault s c) := by
  unfold State.cmdFault
  dsimp only
  repeat' first
    | with_reducible exact hk
    | with_reducible apply State.drawFree_keeps
    | with_reducible apply State.event_keeps
    | with_reducible apply State.set1_keeps

theorem State.decideWith_keeps {s0 : State} {s : State} {sp : OpSpec} {fn : Cmd → List Nat → Word → State → Verdict} {c : Cmd}
    (hk : s0.Keeps s) (hf : ∀ ts a, Verdict.Keeps s0 (fn c ts a s)) : s0.Keeps (State.decideWith s sp fn c) := by
  unfold State.decideWith
  split
  · apply State.complete_keeps
    split
    · exact State.cmdFault_keeps hk
    · exact hk
  · rename_i ts a _
    have h := hf ts a
    split <;> rename_i e <;> rw [e] at h
    · exact State.refuse_keeps hk
    · exact State.complete_keeps h
    · exact h
    · split
      · exact State.complete_keeps hk
      · apply State.interim_keeps
        dsimp only
        simp only [State.Keeps.upd_iff]
        exact State.setOut_keeps h
    · split
      · exact State.complete_keeps (State.flagEvent_keeps hk)
      · exact State.accept_keeps h
    · split
      · exact State.complete_keeps (State.flagEvent_keeps hk)
      · exact State.accept_keeps h

theorem State.countFetch_keeps {s0 : State} {s : State} {c : Cmd} (hk : s0.Keeps s) :
    s0.Keeps (State.countFetch s c) := by
  unfold State.countFetch
  repeat' first
    | with_reducible exact hk
    | with_reducible apply State.wr_keeps

end Sys2Proof.Machine
end

