-- ==== Sys2Proof/Laws/KeepsPatch.lean ====
section
/-! SUPPORT. What the operations of Machine/Patch.lean keep (`State.Keeps`): the queue and the canonical form of the stores. -/

namespace Sys2Proof.Machine

theorem State.setEnt_keeps {s0 : State} {s : State} {k : Nat} {e : PatchEnt} (hk : s0.Keeps s) :
    s0.Keeps (State.setEnt s k e) := by
  unfold State.setEnt
  dsimp only
  repeat' first
    | with_reducible exact hk
    | simp only [State.Keeps.upd_iff]

theorem State.commitPatch_keeps {s0 : State} {s : State} {r : PatchReq} {a : Word} (hk : s0.Keeps s) :
    s0.Keeps (State.commitPatch s r a) := by
  unfold State.commitPatch
  dsimp only
  repeat' first
    | with_reducible exact hk
    | with_reducible apply State.Keeps.ite
    | with_reducible apply State.ownerCancel_keeps
    | with_reducible apply State.ownerDone_keeps
    | with_reducible apply State.ownerHeld_keeps
    | with_reducible apply State.setEnt_keeps
    | split

theorem State.patchSteady_keeps {s0 : State} {s : State} {k : Nat} {a : Word} (hk : s0.Keeps s) :
    s0.Keeps (State.patchSteady s k a) := by
  unfold State.patchSteady
  dsimp only
  repeat' first
    | with_reducible exact hk
    | with_reducible apply State.commitPatch_keeps
    | with_reducible apply State.ownerDone_keeps
    | with_reducible apply State.setEnt_keeps
    | split

theorem State.patchFadeOutEnd_keeps {s0 : State} {s : State} {k : Nat} (hk : s0.Keeps s) :
    s0.Keeps (State.patchFadeOutEnd s k) := by
  unfold State.patchFadeOutEnd
  dsimp only
  repeat' first
    | with_reducible exact hk
    | with_reducible apply State.patchSteady_keeps
    | with_reducible apply State.setEnt_keeps
    | split

theorem State.autoMute_keeps {s0 : State} {s : State} {k : Nat} {mute : Bool} {who : MuteRec} {a : Word} {ld : Nat} (hk : s0.Keeps s) :
    s0.Keeps (State.autoMute s k mute who a ld) := by
  unfold State.autoMute
  repeat' first
    | with_reducible exact hk
    | with_reducible apply State.commitPatch_keeps

theorem State.reverseRecord_keeps {s0 : State} {s : State} {who : MuteRec} {mute : Bool} {ks : List Nat} {a : Word} {ld : Nat} (hk : s0.Keeps s) :
    s0.Keeps (State.reverseRecord s who mute ks a ld) := by
  unfold State.reverseRecord
  dsimp only
  repeat' first
    | intro _
    | with_reducible exact hk
    | with_reducible assumption
    | with_reducible apply State.Keeps.ite
    | with_reducible apply State.autoMute_keeps
    | with_reducible apply forAll_keeps
    | with_reducible apply State.setEnt_keeps

theorem State.commitPatchQueues_keeps {s0 : State} {s : State} (hk : s0.Keeps s) :
    s0.Keeps (State.commitPatchQueues s) := by
  unfold State.commitPatchQueues
  dsimp only
  repeat' first
    | intro _
    | with_reducible exact hk
    | with_reducible assumption
    | with_reducible apply State.commitPatch_keeps
    | with_reducible apply forAll_keeps
    | simp only [State.Keeps.upd_iff]

end Sys2Proof.Machine
end

