-- ==== Sys2Proof/Laws/KeepsXpt.lean ====
section
/-! SUPPORT. What the operations of Machine/Xpt.lean keep (`State.Keeps`): the queue and the canonical form of the stores. -/

namespace Sys2Proof.Machine

theorem State.setCol_keeps {s0 : State} {s : State} {m : Nat} {c : XptCol} (hk : s0.Keeps s) :
    s0.Keeps (State.setCol s m c) := by
  unfold State.setCol
  dsimp only
  repeat' first
    | with_reducible exact hk
    | simp only [State.Keeps.upd_iff]

theorem State.setGain_keeps {s0 : State} {s : State} {bank : Bool} {m : Nat} {n : Nat} {g : Word} (hk : s0.Keeps s) :
    s0.Keeps (State.setGain s bank m n g) := by
  unfold State.setGain
  repeat' first
    | with_reducible exact hk
    | with_reducible apply State.Keeps.ite
    | with_reducible apply State.Keeps.updCoef

theorem State.swapCol_keeps {s0 : State} {s : State} {m : Nat} {len : Nat} {a : Word} (hk : s0.Keeps s) :
    s0.Keeps (State.swapCol s m len a) := by
  unfold State.swapCol
  dsimp only
  repeat' first
    | with_reducible exact hk
    | with_reducible apply State.setCol_keeps

theorem State.copyCol_keeps {s0 : State} {s : State} {m : Nat} (hk : s0.Keeps s) :
    s0.Keeps (State.copyCol s m) := by
  unfold State.copyCol
  dsimp only
  repeat' first
    | intro _
    | with_reducible exact hk
    | with_reducible assumption
    | with_reducible apply forAll_keeps
    | with_reducible apply State.setCol_keeps
    | with_reducible apply State.setGain_keeps
    | with_reducible apply State.Keeps.updCoef

theorem State.pushXpt_keeps {s0 : State} {s : State} {e : XptEntry} (hk : s0.Keeps s) :
    s0.Keeps (State.pushXpt s e) := by
  unfold State.pushXpt
  dsimp only
  repeat' first
    | with_reducible exact hk
    | with_reducible apply State.Keeps.ite
    | with_reducible apply State.set1_keeps
    | simp only [State.Keeps.upd_iff]

theorem State.blockedWrite_keeps {s0 : State} {s : State} (hk : s0.Keeps s) :
    s0.Keeps (State.blockedWrite s) := by
  unfold State.blockedWrite
  repeat' first
    | with_reducible exact hk
    | with_reducible apply State.bump_keeps
    | with_reducible apply State.set1_keeps

theorem State.countXptSat_keeps {s0 : State} {s : State} {m : Nat} (hk : s0.Keeps s) :
    s0.Keeps (State.countXptSat s m) := by
  unfold State.countXptSat
  repeat' first
    | with_reducible exact hk
    | with_reducible apply State.bump_keeps
    | with_reducible apply State.wr_keeps

theorem State.meterPoint_keeps {s0 : State} {s : State} {i : Nat} (hk : s0.Keeps s) :
    s0.Keeps (State.meterPoint s i) := by
  unfold State.meterPoint
  dsimp only
  repeat' first
    | with_reducible exact hk
    | with_reducible apply State.wr_keeps
    | simp only [State.Keeps.upd_iff]

theorem State.latchMeters_keeps {s0 : State} {s : State} (hk : s0.Keeps s) :
    s0.Keeps (State.latchMeters s) := by
  unfold State.latchMeters
  dsimp only
  repeat' first
    | intro _
    | with_reducible exact hk
    | with_reducible assumption
    | with_reducible apply State.Keeps.ite
    | with_reducible apply State.wr_keeps
    | with_reducible apply upTo_keeps
    | simp only [State.Keeps.upd_iff]

theorem State.setCap_keeps {s0 : State} {s : State} {n : Nat} {c : CapState} (hk : s0.Keeps s) :
    s0.Keeps (State.setCap s n c) := by
  unfold State.setCap
  dsimp only
  repeat' first
    | with_reducible exact hk
    | simp only [State.Keeps.upd_iff]

theorem State.armCapture_keeps {s0 : State} {s : State} {n : Nat} {start : Word} {owner : Option CmdRef} (hk : s0.Keeps s) :
    s0.Keeps (State.armCapture s n start owner) := by
  unfold State.armCapture
  dsimp only
  repeat' first
    | with_reducible exact hk
    | with_reducible apply State.setCap_keeps
    | with_reducible apply State.wr_keeps

theorem State.captureDone_keeps {s0 : State} {s : State} {n : Nat} (hk : s0.Keeps s) :
    s0.Keeps (State.captureDone s n) := by
  unfold State.captureDone
  dsimp only
  repeat' first
    | with_reducible exact hk
    | with_reducible apply State.ownerDone_keeps
    | with_reducible apply State.setCap_keeps
    | with_reducible apply State.wr_keeps

theorem State.captureBlock_keeps {s0 : State} {s : State} {n : Nat} (hk : s0.Keeps s) :
    s0.Keeps (State.captureBlock s n) := by
  unfold State.captureBlock
  dsimp only
  repeat' first
    | intro _
    | with_reducible exact hk
    | with_reducible assumption
    | with_reducible apply State.Keeps.ite
    | with_reducible apply State.setCap_keeps
    | with_reducible apply State.setReg_keeps
    | with_reducible apply upTo_keeps

end Sys2Proof.Machine
end

