-- ==== Sys2Proof/Laws/KeepsOvr.lean ====
section
/-! SUPPORT. What the operations of Machine/Ovr.lean keep (`State.Keeps`): the queue and the canonical form of the stores. -/

namespace Sys2Proof.Machine

theorem State.setTrig_keeps {s0 : State} {s : State} {t : Nat} {x : Trig} (hk : s0.Keeps s) :
    s0.Keeps (State.setTrig s t x) := by
  unfold State.setTrig
  dsimp only
  repeat' first
    | with_reducible exact hk
    | simp only [State.Keeps.upd_iff]

theorem State.setOcol_keeps {s0 : State} {s : State} {m : Nat} {c : OvrCol} (hk : s0.Keeps s) :
    s0.Keeps (State.setOcol s m c) := by
  unfold State.setOcol
  dsimp only
  repeat' first
    | with_reducible exact hk
    | simp only [State.Keeps.upd_iff]

theorem State.swapColumn_keeps {s0 : State} {s : State} {m : Nat} {len : Nat} (hk : s0.Keeps s) :
    s0.Keeps (State.swapColumn s m len) := by
  unfold State.swapColumn
  dsimp only
  repeat' first
    | with_reducible exact hk
    | with_reducible apply State.Keeps.ite
    | with_reducible apply State.setCol_keeps
    | with_reducible apply State.setOcol_keeps
    | with_reducible apply State.swapCol_keeps

theorem State.commitEntry_keeps {s0 : State} {s : State} {e : XptEntry} (hk : s0.Keeps s) :
    s0.Keeps (State.commitEntry s e) := by
  unfold State.commitEntry
  dsimp only
  repeat' first
    | intro _
    | with_reducible exact hk
    | with_reducible assumption
    | with_reducible apply State.Keeps.ite
    | with_reducible apply State.bump_keeps
    | with_reducible apply forAll_keeps
    | with_reducible apply State.set1_keeps
    | with_reducible apply State.setCol_keeps
    | with_reducible apply State.swapColumn_keeps

theorem State.entryOwner_keeps {s0 : State} {s : State} {e : XptEntry} (hk : s0.Keeps s) :
    s0.Keeps (State.entryOwner s e) := by
  unfold State.entryOwner
  repeat' first
    | with_reducible exact hk
    | with_reducible apply State.mapOut_keeps
    | with_reducible apply State.pendSync_keeps
    | split

theorem State.commitXptQueue_keeps {s0 : State} {s : State} (hk : s0.Keeps s) :
    s0.Keeps (State.commitXptQueue s) := by
  unfold State.commitXptQueue
  dsimp only
  repeat' first
    | intro _
    | with_reducible exact hk
    | with_reducible assumption
    | with_reducible apply State.commitEntry_keeps
    | with_reducible apply State.entryOwner_keeps
    | with_reducible apply forAll_keeps
    | simp only [State.Keeps.upd_iff]

theorem State.latchFor_keeps {s0 : State} {s : State} {t : Nat} {x : Trig} {a : Word} (hk : s0.Keeps s) :
    s0.Keeps (State.latchFor s t x a) := by
  unfold State.latchFor
  dsimp only
  repeat' first
    | with_reducible exact hk
    | with_reducible apply State.Keeps.ite
    | with_reducible apply State.setTrig_keeps

theorem State.latch_keeps {s0 : State} {s : State} {t : Nat} {x : Trig} (hk : s0.Keeps s) :
    s0.Keeps (State.latch s t x) := by
  unfold State.latch
  repeat' first
    | with_reducible exact hk
    | with_reducible apply State.latchFor_keeps

theorem State.cinToTriggers_keeps {s0 : State} {s : State} {n : Nat} {st : Nat} (hk : s0.Keeps s) :
    s0.Keeps (State.cinToTriggers s n st) := by
  unfold State.cinToTriggers
  dsimp only
  repeat' first
    | intro _
    | with_reducible exact hk
    | with_reducible assumption
    | with_reducible apply State.Keeps.ite
    | with_reducible apply State.latch_keeps
    | with_reducible apply upTo_keeps

theorem State.twinRequest_keeps {s0 : State} {s : State} {t : Nat} {on : Bool} (hk : s0.Keeps s) :
    s0.Keeps (State.twinRequest s t on) := by
  unfold State.twinRequest
  dsimp only
  repeat' first
    | with_reducible exact hk
    | with_reducible apply State.Keeps.ite
    | with_reducible apply State.latch_keeps

theorem State.resolveCol_keeps {s0 : State} {s : State} {a : Word} {m : Nat} (hk : s0.Keeps s) :
    s0.Keeps (State.resolveCol s a m) := by
  unfold State.resolveCol
  dsimp only
  repeat' first
    | intro _
    | with_reducible exact hk
    | with_reducible assumption
    | with_reducible apply State.Keeps.ite
    | with_reducible apply State.autoMute_keeps
    | with_reducible apply forAll_keeps
    | with_reducible apply State.setOcol_keeps
    | with_reducible apply State.setCol_keeps
    | split

theorem State.resolve_keeps {s0 : State} {s : State} {a : Word} (hk : s0.Keeps s) :
    s0.Keeps (State.resolve s a) := by
  unfold State.resolve
  repeat' first
    | intro _
    | with_reducible exact hk
    | with_reducible assumption
    | with_reducible apply State.Keeps.ite
    | with_reducible apply forAll_keeps
    | with_reducible apply State.resolveCol_keeps

theorem State.forceRampEnd_keeps {s0 : State} {s : State} {m : Nat} (hk : s0.Keeps s) :
    s0.Keeps (State.forceRampEnd s m) := by
  unfold State.forceRampEnd
  dsimp only
  repeat' first
    | with_reducible exact hk
    | with_reducible apply State.setOcol_keeps

theorem State.releaseRampEnd_keeps {s0 : State} {s : State} {m : Nat} (hk : s0.Keeps s) :
    s0.Keeps (State.releaseRampEnd s m) := by
  unfold State.releaseRampEnd
  dsimp only
  repeat' first
    | with_reducible exact hk
    | with_reducible apply State.reverseRecord_keeps
    | with_reducible apply State.setOcol_keeps

theorem State.disarm_keeps {s0 : State} {s : State} (hk : s0.Keeps s) :
    s0.Keeps (State.disarm s) := by
  unfold State.disarm
  repeat' first
    | with_reducible exact hk
    | with_reducible apply State.wr_keeps

theorem State.keyFail_keeps {s0 : State} {s : State} (hk : s0.Keeps s) :
    s0.Keeps (State.keyFail s) := by
  unfold State.keyFail
  dsimp only
  repeat' first
    | with_reducible exact hk
    | with_reducible apply State.Keeps.ite
    | with_reducible apply State.flagEvent_keeps
    | with_reducible apply State.wr_keeps
    | simp only [State.Keeps.upd_iff]

theorem State.arm_keeps {s0 : State} {s : State} (hk : s0.Keeps s) :
    s0.Keeps (State.arm s) := by
  unfold State.arm
  dsimp only
  repeat' first
    | with_reducible exact hk
    | with_reducible apply State.drawFree_keeps
    | with_reducible apply State.wr_keeps
    | simp only [State.Keeps.upd_iff]

theorem State.commitFail_keeps {s0 : State} {s : State} {c : CommitCheck} (hk : s0.Keeps s) :
    s0.Keeps (State.commitFail s c) := by
  unfold State.commitFail
  repeat' first
    | with_reducible exact hk
    | with_reducible apply State.disarm_keeps
    | with_reducible apply State.flagEvent_keeps
    | with_reducible apply State.keyFail_keeps
    | split

theorem State.commitPend_keeps {s0 : State} {s : State} {a : Word} {owner : Option CmdRef} (hk : s0.Keeps s) :
    s0.Keeps (State.commitPend s a owner) := by
  unfold State.commitPend
  dsimp only
  repeat' first
    | with_reducible exact hk
    | with_reducible apply State.wr_keeps
    | simp only [State.Keeps.upd_iff]

theorem State.copyTable_keeps {s0 : State} {s : State} (hk : s0.Keeps s) :
    s0.Keeps (State.copyTable s) := by
  unfold State.copyTable
  dsimp only
  repeat' first
    | intro _
    | with_reducible exact hk
    | with_reducible assumption
    | with_reducible apply State.Keeps.ite
    | with_reducible apply State.setReg_keeps
    | with_reducible apply upTo_keeps
    | simp only [State.Keeps.upd_iff]

end Sys2Proof.Machine
end

