-- ==== Sys2Proof/Laws/KeepsImage.lean ====
section
/-! SUPPORT. What the operations of Machine/Image.lean keep (`State.Keeps`): the queue and the canonical form of the stores. -/

namespace Sys2Proof.Machine

theorem State.setImgSlot_keeps {s0 : State} {s : State} {k : Nat} {x : FlashSlot} (hk : s0.Keeps s) :
    s0.Keeps (State.setImgSlot s k x) := by
  unfold State.setImgSlot
  dsimp only
  repeat' first
    | with_reducible exact hk
    | simp only [State.Keeps.upd_iff]

theorem State.checkSlot_keeps {s0 : State} {s : State} {k : Nat} (hk : s0.Keeps s) :
    s0.Keeps (State.checkSlot s k).1 := by
  unfold State.checkSlot
  dsimp only
  repeat' first
    | with_reducible exact hk
    | with_reducible apply State.setImgSlot_keeps
    | split

theorem State.initRegion_keeps {s0 : State} {s : State} {im : Image} {r : Region} (hk : s0.Keeps s) :
    s0.Keeps (State.initRegion s im r) := by
  unfold State.initRegion
  dsimp only
  repeat' first
    | with_reducible exact hk
    | with_reducible apply State.setBytes_keeps

theorem State.initQuadRegion_keeps {s0 : State} {s : State} {d : DispRec} (hk : s0.Keeps s) :
    s0.Keeps (State.initQuadRegion s d) := by
  unfold State.initQuadRegion
  repeat' first
    | with_reducible exact hk
    | with_reducible apply State.initRegion_keeps
    | split

theorem State.loadBanks_keeps {s0 : State} {s : State} {im : Image} {d : DispRec} (hk : s0.Keeps s) :
    s0.Keeps (State.loadBanks s im d) := by
  unfold State.loadBanks
  repeat' first
    | intro _
    | with_reducible exact hk
    | with_reducible assumption
    | with_reducible apply forAll_keeps
    | with_reducible apply State.setBytes_keeps

theorem State.setQuad_keeps {s0 : State} {s : State} {k : Nat} {q : Quad} (hk : s0.Keeps s) :
    s0.Keeps (State.setQuad s k q) := by
  unfold State.setQuad
  dsimp only
  repeat' first
    | with_reducible exact hk
    | simp only [State.Keeps.upd_iff]

theorem State.loadCode_keeps {s0 : State} {s : State} {im : Image} (hk : s0.Keeps s) :
    s0.Keeps (State.loadCode s im) := by
  unfold State.loadCode
  dsimp only
  repeat' first
    | with_reducible exact hk
    | simp only [State.Keeps.upd_iff]

theorem SMap.wf_foldl_set {α β : Type} [DecidableEq α] {d : Nat → α} {f : SMap α → β → SMap α} (l : List β) (m : SMap α)
    (h : SMap.wf d m = true) (k : ∀ n x, SMap.wf d n = true → SMap.wf d (f n x) = true) : SMap.wf d (l.foldl f m) = true := by
  induction l generalizing m with
  | nil => exact h
  | cons x l ih => exact ih _ (k _ _ h)

theorem State.Keeps.loadCoef {s0 s t : State} (h : s0.Keeps s) (hp : t.pending = s.pending) (hr : t.regs = s.regs)
    (hm : t.mem = s.mem) (hc : SMap.wf zeroWord t.coef = true) : s0.Keeps t :=
  ⟨hp.trans h.pending, fun w => ⟨by rw [hr]; exact (h.stored w).regs, by rw [hm]; exact (h.stored w).mem, hc⟩⟩

theorem State.loadImage_keeps {s0 : State} {s : State} {slot : Nat} {im : Image} (hk : s0.Keeps s) :
    s0.Keeps (State.loadImage s slot im) := by
  unfold State.loadImage
  dsimp only
  apply State.setReg_keeps
  apply State.wr_keeps
  apply State.wrB_keeps
  apply State.wr_keeps
  refine State.Keeps.loadCoef
    (s := forAll im.recs (fun d st => (st.loadBanks im d).setQuad d.key (freshQuad d (st.wantProg d) (st.cycle + 1))) _)
    ?_ rfl rfl rfl ?_
  · exact forAll_keeps (forAll_keeps (State.loadCode_keeps (hk.same rfl rfl rfl rfl))
      fun _ _ h => State.initRegion_keeps h) fun _ _ h => State.setQuad_keeps (State.loadBanks_keeps h)
  · exact SMap.wf_foldl_set _ _ rfl (fun _ _ h => SMap.wf_set _ _ _ _ (SMap.wf_set _ _ _ _ h))

theorem State.queuePatch_keeps {s0 : State} {s : State} {im : Image} {a : Word} (hk : s0.Keeps s) :
    s0.Keeps (State.queuePatch s im a) := by
  unfold State.queuePatch
  dsimp only
  repeat' first
    | with_reducible exact hk
    | with_reducible apply State.Keeps.ite
    | simp only [State.Keeps.upd_iff]

end Sys2Proof.Machine
end

