-- ==== Sys2Proof/Laws/KeepsFlags.lean ====
section
/-! SUPPORT. What the operations of Machine/Flags.lean keep (`State.Keeps`): the queue and the canonical form of the stores. -/

namespace Sys2Proof.Machine

theorem State.countSat_keeps {s0 : State} {s : State} {core : Nat} {lanes : Nat} (hk : s0.Keeps s) :
    s0.Keeps (State.countSat s core lanes) := by
  unfold State.countSat
  repeat' first
    | with_reducible exact hk
    | with_reducible apply State.Keeps.ite
    | with_reducible apply State.bump_keeps

theorem State.flagOvf_keeps {s0 : State} {s : State} {core : Nat} {yes : Bool} (hk : s0.Keeps s) :
    s0.Keeps (State.flagOvf s core yes) := by
  unfold State.flagOvf
  repeat' first
    | with_reducible exact hk
    | with_reducible apply State.Keeps.ite
    | with_reducible apply State.set1_keeps

theorem State.progFault_keeps {s0 : State} {s : State} {core : Nat} {pc : Nat} (hk : s0.Keeps s) :
    s0.Keeps (State.progFault s core pc) := by
  unfold State.progFault
  repeat' first
    | with_reducible exact hk
    | with_reducible apply State.event_keeps
    | with_reducible apply State.set1_keeps

end Sys2Proof.Machine
end

