-- ==== Sys2Proof/Laws/KeepsMem.lean ====
section
/-! SUPPORT. What the operations of Machine/Mem.lean keep (`State.Keeps`): the queue and the canonical form of the stores. -/

namespace Sys2Proof.Machine

theorem State.eccUe_keeps {s0 : State} {s : State} {m : Nat} {a : Nat} (hk : s0.Keeps s) :
    s0.Keeps (State.eccUe s m a) := by
  unfold State.eccUe
  dsimp only
  repeat' first
    | with_reducible exact hk
    | with_reducible apply State.bump_keeps
    | with_reducible apply State.event_keeps
    | with_reducible apply State.set1_keeps
    | with_reducible apply State.setReg_keeps
    | with_reducible apply State.startTest_keeps

theorem State.eccCe_keeps {s0 : State} {s : State} {m : Nat} {a : Nat} (hk : s0.Keeps s) :
    s0.Keeps (State.eccCe s m a) := by
  unfold State.eccCe
  dsimp only
  repeat' first
    | with_reducible exact hk
    | with_reducible apply State.Keeps.ite
    | with_reducible apply State.bump_keeps
    | with_reducible apply State.set1_keeps
    | with_reducible apply State.startTest_keeps
    | simp only [State.Keeps.upd_iff]

theorem State.dramUe_keeps {s0 : State} {s : State} {a : Nat} (hk : s0.Keeps s) :
    s0.Keeps (State.dramUe s a) := by
  unfold State.dramUe
  dsimp only
  repeat' first
    | with_reducible exact hk
    | with_reducible apply State.bump_keeps
    | with_reducible apply State.event_keeps
    | with_reducible apply State.set1_keeps
    | with_reducible apply State.setReg_keeps
    | with_reducible apply State.startTest_keeps

theorem State.laneWritten_keeps {s0 : State} {s : State} {a : Nat} (hk : s0.Keeps s) :
    s0.Keeps (State.laneWritten s a) := by
  unfold State.laneWritten
  dsimp only
  repeat' first
    | with_reducible exact hk
    | simp only [State.Keeps.upd_iff]

theorem execEccWriteback_keeps {s0 : State} {addr : Word} {s : State} (hk : s0.Keeps s) :
    Res.Keeps s0 (execEccWriteback addr s) := by
  unfold execEccWriteback
  dsimp only
  repeat' first
    | with_reducible exact hk
    | with_reducible apply Res.Keeps.ofNext
    | simp only [State.Keeps.upd_iff]

theorem State.wispFail_keeps {s0 : State} {s : State} {m : Nat} {region : Nat} (hk : s0.Keeps s) :
    s0.Keeps (State.wispFail s m region) := by
  unfold State.wispFail
  dsimp only
  repeat' first
    | with_reducible exact hk
    | with_reducible apply State.event_keeps
    | with_reducible apply State.set1_keeps
    | with_reducible apply State.setReg_keeps
    | with_reducible apply State.startTest_keeps

theorem State.wispGuard_keeps {s0 : State} {s : State} {fails : List (Fin 6)} (hk : s0.Keeps s) :
    s0.Keeps (State.wispGuard s fails) := by
  unfold State.wispGuard
  dsimp only
  repeat' first
    | intro _
    | with_reducible exact hk
    | with_reducible assumption
    | with_reducible apply State.Keeps.ite
    | with_reducible apply State.wispFail_keeps
    | with_reducible apply upTo_keeps
    | simp only [State.Keeps.upd_iff]

theorem execWispAbandon_keeps {s0 : State} {m : Fin 6} {s : State} (hk : s0.Keeps s) :
    Res.Keeps s0 (execWispAbandon m s) := by
  unfold execWispAbandon
  dsimp only
  repeat' first
    | with_reducible exact hk
    | with_reducible apply Res.Keeps.ofNext
    | simp only [State.Keeps.upd_iff]
    | split

theorem execWispRestoreDone_keeps {s0 : State} {m : Fin 6} {s : State} (hk : s0.Keeps s) :
    Res.Keeps s0 (execWispRestoreDone m s) := by
  unfold execWispRestoreDone
  dsimp only
  repeat' first
    | with_reducible exact hk
    | with_reducible apply Res.Keeps.ofNext
    | with_reducible apply Res.Keeps.ite
    | with_reducible apply State.wr_keeps
    | with_reducible apply State.wrapInc_keeps
    | simp only [State.Keeps.upd_iff]
    | split

theorem State.duskRequest_keeps {s0 : State} {s : State} {req : Nat} (hk : s0.Keeps s) :
    s0.Keeps (State.duskRequest s req) := by
  unfold State.duskRequest
  dsimp only
  repeat' first
    | with_reducible exact hk
    | with_reducible apply State.Keeps.ite
    | with_reducible apply State.set1_keeps
    | with_reducible apply State.wr_keeps
    | simp only [State.Keeps.upd_iff]

theorem State.duskTick_keeps {s0 : State} {s : State} (hk : s0.Keeps s) :
    s0.Keeps (State.duskTick s) := by
  unfold State.duskTick
  dsimp only
  repeat' first
    | intro _
    | with_reducible exact hk
    | with_reducible assumption
    | with_reducible apply State.Keeps.ite
    | with_reducible apply State.wr_keeps
    | with_reducible apply upTo_keeps
    | simp only [State.Keeps.upd_iff]

theorem execDuskExitReady_keeps {s0 : State} {m : Fin 5} {s : State} (hk : s0.Keeps s) :
    Res.Keeps s0 (execDuskExitReady m s) := by
  unfold execDuskExitReady
  dsimp only
  repeat' first
    | with_reducible exact hk
    | with_reducible apply Res.Keeps.ofNext
    | with_reducible apply Res.Keeps.ite
    | with_reducible apply State.wr_keeps
    | simp only [State.Keeps.upd_iff]

theorem execMemCntClrDlq_keeps {s0 : State} {s : State} (hk : s0.Keeps s) :
    Res.Keeps s0 (execMemCntClrDlq s) := by
  unfold execMemCntClrDlq
  repeat' first
    | with_reducible exact hk
    | with_reducible apply Res.Keeps.ofNext
    | with_reducible apply State.setReg_keeps

theorem execMemCntClrConf_keeps {s0 : State} {s : State} (hk : s0.Keeps s) :
    Res.Keeps s0 (execMemCntClrConf s) := by
  unfold execMemCntClrConf
  repeat' first
    | intro _
    | with_reducible exact hk
    | with_reducible assumption
    | with_reducible apply Res.Keeps.ofNext
    | with_reducible apply State.setReg_keeps
    | with_reducible apply upTo_keeps

theorem execMemCntClrDram_keeps {s0 : State} {s : State} (hk : s0.Keeps s) :
    Res.Keeps s0 (execMemCntClrDram s) := by
  unfold execMemCntClrDram
  repeat' first
    | with_reducible exact hk
    | with_reducible apply Res.Keeps.ofNext
    | with_reducible apply State.setReg_keeps

theorem execMemCntClrSram_keeps {s0 : State} {s : State} (hk : s0.Keeps s) :
    Res.Keeps s0 (execMemCntClrSram s) := by
  unfold execMemCntClrSram
  repeat' first
    | intro _
    | with_reducible exact hk
    | with_reducible assumption
    | with_reducible apply Res.Keeps.ofNext
    | with_reducible apply State.setReg_keeps
    | with_reducible apply upTo_keeps
    | with_reducible apply State.wr_keeps

theorem execMemDramRtRead_keeps {s0 : State} {s : State} (hk : s0.Keeps s) :
    Res.Keeps s0 (execMemDramRtRead s) := by
  unfold execMemDramRtRead
  repeat' first
    | with_reducible exact hk
    | with_reducible apply Res.Keeps.ofNext
    | with_reducible apply State.setReg_keeps
    | simp only [State.Keeps.upd_iff]

theorem execScrubPass_keeps {s0 : State} {s : State} (hk : s0.Keeps s) :
    Res.Keeps s0 (execScrubPass s) := by
  unfold execScrubPass
  repeat' first
    | with_reducible exact hk
    | with_reducible apply Res.Keeps.ofNext
    | with_reducible apply State.wrapInc_keeps

theorem State.flashEnqueue_keeps {s0 : State} {s : State} {r : FlashReq} (hk : s0.Keeps s) :
    s0.Keeps (State.flashEnqueue s r) := by
  unfold State.flashEnqueue
  dsimp only
  repeat' first
    | with_reducible exact hk
    | with_reducible apply State.Keeps.ite
    | with_reducible apply State.bump_keeps
    | with_reducible apply State.wr_keeps
    | simp only [State.Keeps.upd_iff]
    | split

theorem State.storeOvrCopy_keeps {s0 : State} {s : State} (hk : s0.Keeps s) :
    s0.Keeps (State.storeOvrCopy s) := by
  unfold State.storeOvrCopy
  dsimp only
  repeat' first
    | with_reducible exact hk
    | simp only [State.Keeps.upd_iff]

theorem execFlashOperationDone_keeps {s0 : State} {corrections : Nat} {uncorr : Bool} {blockFail : Bool} {s : State} (hk : s0.Keeps s) :
    Res.Keeps s0 (execFlashOperationDone corrections uncorr blockFail s) := by
  unfold execFlashOperationDone
  dsimp only
  repeat' first
    | with_reducible exact hk
    | with_reducible apply Res.Keeps.ofNext
    | with_reducible apply State.Keeps.ite
    | with_reducible apply State.bump_keeps
    | with_reducible apply State.flagEvent_keeps
    | with_reducible apply State.storeOvrCopy_keeps
    | with_reducible apply State.wr_keeps
    | with_reducible apply State.wrB_keeps
    | with_reducible apply State.set1_keeps
    | simp only [State.Keeps.upd_iff]
    | split

theorem execFlashcSuspRead_keeps {s0 : State} {s : State} (hk : s0.Keeps s) :
    Res.Keeps s0 (execFlashcSuspRead s) := by
  unfold execFlashcSuspRead
  repeat' first
    | with_reducible exact hk
    | with_reducible apply Res.Keeps.ofNext
    | with_reducible apply State.wr_keeps
    | simp only [State.Keeps.upd_iff]

end Sys2Proof.Machine
end

