-- ==== Sys2Proof/Laws/KeepsOperands.lean ====
section
/-! SUPPORT. What the operations of Machine/Operands.lean keep (`State.Keeps`): the queue and the canonical form of the stores. -/

namespace Sys2Proof.Machine

theorem State.setCore_keeps {s0 : State} {s : State} {c : Nat} {x : Core} (hk : s0.Keeps s) :
    s0.Keeps (State.setCore s c x) := by
  unfold State.setCore
  dsimp only
  repeat' first
    | with_reducible exact hk
    | simp only [State.Keeps.upd_iff]

theorem State.issue_keeps {s0 : State} {s : State} {sl : Slot} (hk : s0.Keeps s) :
    s0.Keeps (State.issue s sl) := by
  unfold State.issue
  dsimp only
  repeat' first
    | with_reducible exact hk
    | with_reducible apply State.Keeps.ite
    | with_reducible apply State.setCore_keeps

theorem State.mapRegs_keeps {s0 : State} {s : State} {c : Nat} {f : CoreRegs → CoreRegs} (hk : s0.Keeps s) :
    s0.Keeps (State.mapRegs s c f) := by
  unfold State.mapRegs
  dsimp only
  repeat' first
    | with_reducible exact hk
    | with_reducible apply State.setCore_keeps

theorem State.setV_keeps {s0 : State} {s : State} {sl : Slot} {n : Nat} {l : Nat} {w : Word} (hk : s0.Keeps s) :
    s0.Keeps (State.setV s sl n l w) := by
  unfold State.setV
  repeat' first
    | with_reducible exact hk
    | with_reducible apply State.mapRegs_keeps

theorem State.setLanes_keeps {s0 : State} {s : State} {sl : Slot} {n : Nat} {f : Nat → Word} (hk : s0.Keeps s) :
    s0.Keeps (State.setLanes s sl n f) := by
  unfold State.setLanes
  repeat' first
    | intro _
    | with_reducible exact hk
    | with_reducible assumption
    | with_reducible apply State.setV_keeps
    | with_reducible apply upTo_keeps

theorem State.setAcc_keeps {s0 : State} {s : State} {sl : Slot} {n : Nat} {l : Nat} {x : Int} (hk : s0.Keeps s) :
    s0.Keeps (State.setAcc s sl n l x) := by
  unfold State.setAcc
  repeat' first
    | with_reducible exact hk
    | with_reducible apply State.mapRegs_keeps

theorem State.setP_keeps {s0 : State} {s : State} {sl : Slot} {n : Nat} {x : Nat} (hk : s0.Keeps s) :
    s0.Keeps (State.setP s sl n x) := by
  unfold State.setP
  repeat' first
    | with_reducible exact hk
    | with_reducible apply State.mapRegs_keeps

theorem State.setM_keeps {s0 : State} {s : State} {sl : Slot} {n : Nat} {x : Int} (hk : s0.Keeps s) :
    s0.Keeps (State.setM s sl n x) := by
  unfold State.setM
  repeat' first
    | with_reducible exact hk
    | with_reducible apply State.mapRegs_keeps

theorem State.postMod_keeps {s0 : State} {s : State} {sl : Slot} {a : MemAcc} (hk : s0.Keeps s) :
    s0.Keeps (State.postMod s sl a) := by
  unfold State.postMod
  repeat' first
    | with_reducible exact hk
    | with_reducible apply State.Keeps.ite
    | with_reducible apply State.setP_keeps

theorem State.conflict_keeps {s0 : State} {s : State} {core : Nat} {a : MemAcc} (hk : s0.Keeps s) :
    s0.Keeps (State.conflict s core a) := by
  unfold State.conflict
  dsimp only
  repeat' first
    | with_reducible exact hk
    | with_reducible apply State.Keeps.ite
    | with_reducible apply State.bump_keeps

theorem State.spStore_keeps {s0 : State} {s : State} {core : Nat} {a : Nat} {w : Word} (hk : s0.Keeps s) :
    s0.Keeps (State.spStore s core a w) := by
  unfold State.spStore
  dsimp only
  repeat' first
    | with_reducible exact hk
    | with_reducible apply State.laneWritten_keeps
    | with_reducible apply State.setCore_keeps
    | with_reducible apply State.setMemWord_keeps

end Sys2Proof.Machine
end

