-- ==== Sys2Proof/Laws/KeepsDsp.lean ====
section
/-! SUPPORT. What the operations of Machine/Dsp.lean keep (`State.Keeps`): the queue and the canonical form of the stores. -/

namespace Sys2Proof.Machine

theorem State.slot_keeps {s0 : State} {s : State} {sl : Slot} {f : State → State} (hk : s0.Keeps s) (h_f : ∀ (y0 : State), s0.Keeps y0 → s0.Keeps (f y0)) :
    s0.Keeps (State.slot s sl f) := by
  unfold State.slot
  repeat' first
    | with_reducible exact hk
    | with_reducible apply State.Keeps.ite
    | with_reducible apply State.issue_keeps
    | with_reducible apply h_f

theorem State.satLanes_keeps {s0 : State} {s : State} {sl : Slot} {d : Nat} {f : Nat → Int} (hk : s0.Keeps s) :
    s0.Keeps (State.satLanes s sl d f) := by
  unfold State.satLanes
  dsimp only
  repeat' first
    | with_reducible exact hk
    | with_reducible apply State.countSat_keeps
    | with_reducible apply State.setLanes_keeps

theorem State.startRecord_keeps {s0 : State} {s : State} {key : Nat} {im : Option Image} {d : DispRec} {inArea : Nat} {useB : Bool} {swapF : Bool} {firstF : Bool} (hk : s0.Keeps s) :
    s0.Keeps (State.startRecord s key im d inArea useB swapF firstF) := by
  unfold State.startRecord
  dsimp only
  repeat' first
    | with_reducible exact hk
    | with_reducible apply State.setCore_keeps
    | with_reducible apply State.wr_keeps

theorem execDispatchRecord_keeps {s0 : State} {core : Fin 32} {outq : Bool} {quad : Fin 256} {s : State} (hk : s0.Keeps s) :
    Res.Keeps s0 (execDispatchRecord core outq quad s) := by
  unfold execDispatchRecord
  dsimp only
  repeat' first
    | with_reducible exact hk
    | with_reducible apply Res.Keeps.ofNext
    | with_reducible apply Res.Keeps.ite
    | with_reducible apply State.startRecord_keeps
    | split

theorem execSlotNop_keeps {s0 : State} {sl : Slot} {s : State} (hk : s0.Keeps s) :
    Res.Keeps s0 (execSlotNop sl s) := by
  unfold execSlotNop
  repeat' first
    | intro _
    | with_reducible exact hk
    | with_reducible assumption
    | with_reducible apply Res.Keeps.ofNext
    | with_reducible apply State.slot_keeps

theorem execVadd_keeps {s0 : State} {sl : Slot} {d : Fin 32} {a : Fin 32} {b : Fin 32} {s : State} (hk : s0.Keeps s) :
    Res.Keeps s0 (execVadd sl d a b s) := by
  unfold execVadd
  repeat' first
    | intro _
    | with_reducible exact hk
    | with_reducible assumption
    | with_reducible apply Res.Keeps.ofNext
    | with_reducible apply State.satLanes_keeps
    | with_reducible apply State.slot_keeps

theorem execVaddm_keeps {s0 : State} {sl : Slot} {d : Fin 32} {a : Fin 32} {b : Fin 32} {s : State} (hk : s0.Keeps s) :
    Res.Keeps s0 (execVaddm sl d a b s) := by
  unfold execVaddm
  repeat' first
    | intro _
    | with_reducible exact hk
    | with_reducible assumption
    | with_reducible apply Res.Keeps.ofNext
    | with_reducible apply State.setLanes_keeps
    | with_reducible apply State.slot_keeps

theorem execVsub_keeps {s0 : State} {sl : Slot} {d : Fin 32} {a : Fin 32} {b : Fin 32} {s : State} (hk : s0.Keeps s) :
    Res.Keeps s0 (execVsub sl d a b s) := by
  unfold execVsub
  repeat' first
    | intro _
    | with_reducible exact hk
    | with_reducible assumption
    | with_reducible apply Res.Keeps.ofNext
    | with_reducible apply State.satLanes_keeps
    | with_reducible apply State.slot_keeps

theorem execVsubm_keeps {s0 : State} {sl : Slot} {d : Fin 32} {a : Fin 32} {b : Fin 32} {s : State} (hk : s0.Keeps s) :
    Res.Keeps s0 (execVsubm sl d a b s) := by
  unfold execVsubm
  repeat' first
    | intro _
    | with_reducible exact hk
    | with_reducible assumption
    | with_reducible apply Res.Keeps.ofNext
    | with_reducible apply State.setLanes_keeps
    | with_reducible apply State.slot_keeps

theorem execVneg_keeps {s0 : State} {sl : Slot} {d : Fin 32} {a : Fin 32} {s : State} (hk : s0.Keeps s) :
    Res.Keeps s0 (execVneg sl d a s) := by
  unfold execVneg
  repeat' first
    | intro _
    | with_reducible exact hk
    | with_reducible assumption
    | with_reducible apply Res.Keeps.ofNext
    | with_reducible apply State.satLanes_keeps
    | with_reducible apply State.slot_keeps

theorem execVabs_keeps {s0 : State} {sl : Slot} {d : Fin 32} {a : Fin 32} {s : State} (hk : s0.Keeps s) :
    Res.Keeps s0 (execVabs sl d a s) := by
  unfold execVabs
  repeat' first
    | intro _
    | with_reducible exact hk
    | with_reducible assumption
    | with_reducible apply Res.Keeps.ofNext
    | with_reducible apply State.satLanes_keeps
    | with_reducible apply State.slot_keeps

theorem execVmin_keeps {s0 : State} {sl : Slot} {d : Fin 32} {a : Fin 32} {b : Fin 32} {s : State} (hk : s0.Keeps s) :
    Res.Keeps s0 (execVmin sl d a b s) := by
  unfold execVmin
  repeat' first
    | intro _
    | with_reducible exact hk
    | with_reducible assumption
    | with_reducible apply Res.Keeps.ofNext
    | with_reducible apply State.setLanes_keeps
    | with_reducible apply State.slot_keeps

theorem execVmax_keeps {s0 : State} {sl : Slot} {d : Fin 32} {a : Fin 32} {b : Fin 32} {s : State} (hk : s0.Keeps s) :
    Res.Keeps s0 (execVmax sl d a b s) := by
  unfold execVmax
  repeat' first
    | intro _
    | with_reducible exact hk
    | with_reducible assumption
    | with_reducible apply Res.Keeps.ofNext
    | with_reducible apply State.setLanes_keeps
    | with_reducible apply State.slot_keeps

theorem execVand_keeps {s0 : State} {sl : Slot} {d : Fin 32} {a : Fin 32} {b : Fin 32} {s : State} (hk : s0.Keeps s) :
    Res.Keeps s0 (execVand sl d a b s) := by
  unfold execVand
  repeat' first
    | intro _
    | with_reducible exact hk
    | with_reducible assumption
    | with_reducible apply Res.Keeps.ofNext
    | with_reducible apply State.setLanes_keeps
    | with_reducible apply State.slot_keeps

theorem execVor_keeps {s0 : State} {sl : Slot} {d : Fin 32} {a : Fin 32} {b : Fin 32} {s : State} (hk : s0.Keeps s) :
    Res.Keeps s0 (execVor sl d a b s) := by
  unfold execVor
  repeat' first
    | intro _
    | with_reducible exact hk
    | with_reducible assumption
    | with_reducible apply Res.Keeps.ofNext
    | with_reducible apply State.setLanes_keeps
    | with_reducible apply State.slot_keeps

theorem execVxor_keeps {s0 : State} {sl : Slot} {d : Fin 32} {a : Fin 32} {b : Fin 32} {s : State} (hk : s0.Keeps s) :
    Res.Keeps s0 (execVxor sl d a b s) := by
  unfold execVxor
  repeat' first
    | intro _
    | with_reducible exact hk
    | with_reducible assumption
    | with_reducible apply Res.Keeps.ofNext
    | with_reducible apply State.setLanes_keeps
    | with_reducible apply State.slot_keeps

theorem execVpick_keeps {s0 : State} {sl : Slot} {d : Fin 32} {a : Fin 32} {b : Fin 32} {s : State} (hk : s0.Keeps s) :
    Res.Keeps s0 (execVpick sl d a b s) := by
  unfold execVpick
  repeat' first
    | intro _
    | with_reducible exact hk
    | with_reducible assumption
    | with_reducible apply Res.Keeps.ofNext
    | with_reducible apply State.setLanes_keeps
    | with_reducible apply State.slot_keeps

theorem execVcgt_keeps {s0 : State} {sl : Slot} {d : Fin 32} {a : Fin 32} {b : Fin 32} {s : State} (hk : s0.Keeps s) :
    Res.Keeps s0 (execVcgt sl d a b s) := by
  unfold execVcgt
  repeat' first
    | intro _
    | with_reducible exact hk
    | with_reducible assumption
    | with_reducible apply Res.Keeps.ofNext
    | with_reducible apply State.setLanes_keeps
    | with_reducible apply State.slot_keeps

theorem execVceq_keeps {s0 : State} {sl : Slot} {d : Fin 32} {a : Fin 32} {b : Fin 32} {s : State} (hk : s0.Keeps s) :
    Res.Keeps s0 (execVceq sl d a b s) := by
  unfold execVceq
  repeat' first
    | intro _
    | with_reducible exact hk
    | with_reducible assumption
    | with_reducible apply Res.Keeps.ofNext
    | with_reducible apply State.setLanes_keeps
    | with_reducible apply State.slot_keeps

theorem execVshl_keeps {s0 : State} {sl : Slot} {d : Fin 32} {a : Fin 32} {n : Fin 32} {s : State} (hk : s0.Keeps s) :
    Res.Keeps s0 (execVshl sl d a n s) := by
  unfold execVshl
  repeat' first
    | intro _
    | with_reducible exact hk
    | with_reducible assumption
    | with_reducible apply Res.Keeps.ofNext
    | with_reducible apply State.satLanes_keeps
    | with_reducible apply State.slot_keeps

theorem execVsra_keeps {s0 : State} {sl : Slot} {d : Fin 32} {a : Fin 32} {n : Fin 32} {s : State} (hk : s0.Keeps s) :
    Res.Keeps s0 (execVsra sl d a n s) := by
  unfold execVsra
  repeat' first
    | intro _
    | with_reducible exact hk
    | with_reducible assumption
    | with_reducible apply Res.Keeps.ofNext
    | with_reducible apply State.setLanes_keeps
    | with_reducible apply State.slot_keeps

theorem execVsrar_keeps {s0 : State} {sl : Slot} {d : Fin 32} {a : Fin 32} {n : Fin 32} {s : State} (hk : s0.Keeps s) :
    Res.Keeps s0 (execVsrar sl d a n s) := by
  unfold execVsrar
  repeat' first
    | intro _
    | with_reducible exact hk
    | with_reducible assumption
    | with_reducible apply Res.Keeps.ofNext
    | with_reducible apply State.setLanes_keeps
    | with_reducible apply State.slot_keeps

theorem execVsrl_keeps {s0 : State} {sl : Slot} {d : Fin 32} {a : Fin 32} {n : Fin 32} {s : State} (hk : s0.Keeps s) :
    Res.Keeps s0 (execVsrl sl d a n s) := by
  unfold execVsrl
  repeat' first
    | intro _
    | with_reducible exact hk
    | with_reducible assumption
    | with_reducible apply Res.Keeps.ofNext
    | with_reducible apply State.setLanes_keeps
    | with_reducible apply State.slot_keeps

theorem execVspl_keeps {s0 : State} {sl : Slot} {d : Fin 32} {a : Fin 32} {lane : Fin 4} {s : State} (hk : s0.Keeps s) :
    Res.Keeps s0 (execVspl sl d a lane s) := by
  unfold execVspl
  repeat' first
    | intro _
    | with_reducible exact hk
    | with_reducible assumption
    | with_reducible apply Res.Keeps.ofNext
    | with_reducible apply State.setLanes_keeps
    | with_reducible apply State.slot_keeps

theorem execVidx_keeps {s0 : State} {sl : Slot} {d : Fin 32} {s : State} (hk : s0.Keeps s) :
    Res.Keeps s0 (execVidx sl d s) := by
  unfold execVidx
  repeat' first
    | intro _
    | with_reducible exact hk
    | with_reducible assumption
    | with_reducible apply Res.Keeps.ofNext
    | with_reducible apply State.setLanes_keeps
    | with_reducible apply State.slot_keeps

theorem execVhsum_keeps {s0 : State} {sl : Slot} {d : Fin 32} {a : Fin 32} {s : State} (hk : s0.Keeps s) :
    Res.Keeps s0 (execVhsum sl d a s) := by
  unfold execVhsum
  dsimp only
  repeat' first
    | intro _
    | with_reducible exact hk
    | with_reducible assumption
    | with_reducible apply Res.Keeps.ofNext
    | with_reducible apply State.satLanes_keeps
    | with_reducible apply State.slot_keeps

theorem State.hSearch_keeps {s0 : State} {s : State} {sl : Slot} {d : Nat} {a : Nat} {lt : Int → Int → Bool} (hk : s0.Keeps s) :
    s0.Keeps (State.hSearch s sl d a lt) := by
  unfold State.hSearch
  dsimp only
  repeat' first
    | with_reducible exact hk
    | with_reducible apply State.setLanes_keeps

theorem State.hSearchI_keeps {s0 : State} {s : State} {sl : Slot} {d : Nat} {a : Nat} {lt : Int → Int → Bool} (hk : s0.Keeps s) :
    s0.Keeps (State.hSearchI s sl d a lt) := by
  unfold State.hSearchI
  dsimp only
  repeat' first
    | with_reducible exact hk
    | with_reducible apply State.setLanes_keeps

theorem execVhmax_keeps {s0 : State} {sl : Slot} {d : Fin 32} {a : Fin 32} {s : State} (hk : s0.Keeps s) :
    Res.Keeps s0 (execVhmax sl d a s) := by
  unfold execVhmax
  repeat' first
    | intro _
    | with_reducible exact hk
    | with_reducible assumption
    | with_reducible apply Res.Keeps.ofNext
    | with_reducible apply State.hSearch_keeps
    | with_reducible apply State.slot_keeps

theorem execVhmin_keeps {s0 : State} {sl : Slot} {d : Fin 32} {a : Fin 32} {s : State} (hk : s0.Keeps s) :
    Res.Keeps s0 (execVhmin sl d a s) := by
  unfold execVhmin
  repeat' first
    | intro _
    | with_reducible exact hk
    | with_reducible assumption
    | with_reducible apply Res.Keeps.ofNext
    | with_reducible apply State.hSearch_keeps
    | with_reducible apply State.slot_keeps

theorem execVhmaxi_keeps {s0 : State} {sl : Slot} {d : Fin 32} {a : Fin 32} {s : State} (hk : s0.Keeps s) :
    Res.Keeps s0 (execVhmaxi sl d a s) := by
  unfold execVhmaxi
  repeat' first
    | intro _
    | with_reducible exact hk
    | with_reducible assumption
    | with_reducible apply Res.Keeps.ofNext
    | with_reducible apply Res.Keeps.fault
    | with_reducible apply Res.Keeps.ite
    | with_reducible apply State.hSearchI_keeps
    | with_reducible apply State.slot_keeps

theorem execVhmini_keeps {s0 : State} {sl : Slot} {d : Fin 32} {a : Fin 32} {s : State} (hk : s0.Keeps s) :
    Res.Keeps s0 (execVhmini sl d a s) := by
  unfold execVhmini
  repeat' first
    | intro _
    | with_reducible exact hk
    | with_reducible assumption
    | with_reducible apply Res.Keeps.ofNext
    | with_reducible apply Res.Keeps.fault
    | with_reducible apply Res.Keeps.ite
    | with_reducible apply State.hSearchI_keeps
    | with_reducible apply State.slot_keeps

theorem State.running_keeps {s0 : State} {s : State} {sl : Slot} {d : Nat} {cand : Nat → Word} {lt : Int → Int → Bool} (hk : s0.Keeps s) :
    s0.Keeps (State.running s sl d cand lt) := by
  unfold State.running
  repeat' first
    | intro _
    | with_reducible exact hk
    | with_reducible assumption
    | with_reducible apply State.Keeps.ite
    | with_reducible apply State.setV_keeps
    | with_reducible apply upTo_keeps

theorem execVsmax_keeps {s0 : State} {sl : Slot} {d : Fin 32} {a : Fin 32} {s : State} (hk : s0.Keeps s) :
    Res.Keeps s0 (execVsmax sl d a s) := by
  unfold execVsmax
  repeat' first
    | intro _
    | with_reducible exact hk
    | with_reducible assumption
    | with_reducible apply Res.Keeps.ofNext
    | with_reducible apply Res.Keeps.fault
    | with_reducible apply Res.Keeps.ite
    | with_reducible apply State.running_keeps
    | with_reducible apply State.slot_keeps

theorem execVsmin_keeps {s0 : State} {sl : Slot} {d : Fin 32} {a : Fin 32} {s : State} (hk : s0.Keeps s) :
    Res.Keeps s0 (execVsmin sl d a s) := by
  unfold execVsmin
  repeat' first
    | intro _
    | with_reducible exact hk
    | with_reducible assumption
    | with_reducible apply Res.Keeps.ofNext
    | with_reducible apply Res.Keeps.fault
    | with_reducible apply Res.Keeps.ite
    | with_reducible apply State.running_keeps
    | with_reducible apply State.slot_keeps

theorem execVsmaxa_keeps {s0 : State} {sl : Slot} {d : Fin 32} {a : Fin 32} {s : State} (hk : s0.Keeps s) :
    Res.Keeps s0 (execVsmaxa sl d a s) := by
  unfold execVsmaxa
  dsimp only
  repeat' first
    | intro _
    | with_reducible exact hk
    | with_reducible assumption
    | with_reducible apply Res.Keeps.ofNext
    | with_reducible apply Res.Keeps.fault
    | with_reducible apply Res.Keeps.ite
    | with_reducible apply State.countSat_keeps
    | with_reducible apply State.running_keeps
    | with_reducible apply State.slot_keeps

theorem execVmul_keeps {s0 : State} {sl : Slot} {d : Fin 32} {a : Fin 32} {b : Fin 32} {k : Fin 4} {s : State} (hk : s0.Keeps s) :
    Res.Keeps s0 (execVmul sl d a b k s) := by
  unfold execVmul
  repeat' first
    | intro _
    | with_reducible exact hk
    | with_reducible assumption
    | with_reducible apply Res.Keeps.ofNext
    | with_reducible apply State.satLanes_keeps
    | with_reducible apply State.slot_keeps

theorem State.wrapLanes_keeps {s0 : State} {s : State} {sl : Slot} {d : Nat} {f : Nat → Int} (hk : s0.Keeps s) :
    s0.Keeps (State.wrapLanes s sl d f) := by
  unfold State.wrapLanes
  repeat' first
    | intro _
    | with_reducible exact hk
    | with_reducible assumption
    | with_reducible apply State.flagOvf_keeps
    | with_reducible apply State.setAcc_keeps
    | with_reducible apply upTo_keeps

theorem execMac_keeps {s0 : State} {sl : Slot} {d : Fin 8} {a : Fin 32} {b : Fin 32} {s : State} (hk : s0.Keeps s) :
    Res.Keeps s0 (execMac sl d a b s) := by
  unfold execMac
  repeat' first
    | intro _
    | with_reducible exact hk
    | with_reducible assumption
    | with_reducible apply Res.Keeps.ofNext
    | with_reducible apply State.slot_keeps
    | with_reducible apply State.wrapLanes_keeps

theorem execMsu_keeps {s0 : State} {sl : Slot} {d : Fin 8} {a : Fin 32} {b : Fin 32} {s : State} (hk : s0.Keeps s) :
    Res.Keeps s0 (execMsu sl d a b s) := by
  unfold execMsu
  repeat' first
    | intro _
    | with_reducible exact hk
    | with_reducible assumption
    | with_reducible apply Res.Keeps.ofNext
    | with_reducible apply State.slot_keeps
    | with_reducible apply State.wrapLanes_keeps

theorem execMul_keeps {s0 : State} {sl : Slot} {d : Fin 8} {a : Fin 32} {b : Fin 32} {s : State} (hk : s0.Keeps s) :
    Res.Keeps s0 (execMul sl d a b s) := by
  unfold execMul
  repeat' first
    | intro _
    | with_reducible exact hk
    | with_reducible assumption
    | with_reducible apply Res.Keeps.ofNext
    | with_reducible apply State.slot_keeps
    | with_reducible apply State.setAcc_keeps
    | with_reducible apply upTo_keeps

theorem execAset_keeps {s0 : State} {sl : Slot} {d : Fin 8} {a : Fin 32} {n : Fin 41} {s : State} (hk : s0.Keeps s) :
    Res.Keeps s0 (execAset sl d a n s) := by
  unfold execAset
  repeat' first
    | intro _
    | with_reducible exact hk
    | with_reducible assumption
    | with_reducible apply Res.Keeps.ofNext
    | with_reducible apply State.slot_keeps
    | with_reducible apply State.wrapLanes_keeps

theorem execAlo_keeps {s0 : State} {sl : Slot} {d : Fin 8} {a : Fin 32} {s : State} (hk : s0.Keeps s) :
    Res.Keeps s0 (execAlo sl d a s) := by
  unfold execAlo
  repeat' first
    | intro _
    | with_reducible exact hk
    | with_reducible assumption
    | with_reducible apply Res.Keeps.ofNext
    | with_reducible apply State.slot_keeps
    | with_reducible apply State.setAcc_keeps
    | with_reducible apply upTo_keeps

theorem execAmov_keeps {s0 : State} {sl : Slot} {d : Fin 8} {a : Fin 8} {s : State} (hk : s0.Keeps s) :
    Res.Keeps s0 (execAmov sl d a s) := by
  unfold execAmov
  repeat' first
    | intro _
    | with_reducible exact hk
    | with_reducible assumption
    | with_reducible apply Res.Keeps.ofNext
    | with_reducible apply State.slot_keeps
    | with_reducible apply State.setAcc_keeps
    | with_reducible apply upTo_keeps

theorem execAadd_keeps {s0 : State} {sl : Slot} {d : Fin 8} {a : Fin 8} {s : State} (hk : s0.Keeps s) :
    Res.Keeps s0 (execAadd sl d a s) := by
  unfold execAadd
  repeat' first
    | intro _
    | with_reducible exact hk
    | with_reducible assumption
    | with_reducible apply Res.Keeps.ofNext
    | with_reducible apply State.slot_keeps
    | with_reducible apply State.wrapLanes_keeps

theorem execAclr_keeps {s0 : State} {sl : Slot} {d : Fin 8} {s : State} (hk : s0.Keeps s) :
    Res.Keeps s0 (execAclr sl d s) := by
  unfold execAclr
  repeat' first
    | intro _
    | with_reducible exact hk
    | with_reducible assumption
    | with_reducible apply Res.Keeps.ofNext
    | with_reducible apply State.slot_keeps
    | with_reducible apply State.setAcc_keeps
    | with_reducible apply upTo_keeps

theorem execExt_keeps {s0 : State} {sl : Slot} {d : Fin 32} {a : Fin 8} {sh : Fin 64} {r : Bool} {s : State} (hk : s0.Keeps s) :
    Res.Keeps s0 (execExt sl d a sh r s) := by
  unfold execExt
  repeat' first
    | intro _
    | with_reducible exact hk
    | with_reducible assumption
    | with_reducible apply Res.Keeps.ofNext
    | with_reducible apply State.satLanes_keeps
    | with_reducible apply State.slot_keeps

theorem execExtl_keeps {s0 : State} {sl : Slot} {d : Fin 32} {a : Fin 8} {sh : Fin 41} {s : State} (hk : s0.Keeps s) :
    Res.Keeps s0 (execExtl sl d a sh s) := by
  unfold execExtl
  repeat' first
    | intro _
    | with_reducible exact hk
    | with_reducible assumption
    | with_reducible apply Res.Keeps.ofNext
    | with_reducible apply State.setLanes_keeps
    | with_reducible apply State.slot_keeps

theorem State.loadAt_keeps {s0 : State} {s : State} {sl : Slot} {a : MemAcc} {align : Nat} {f : State → Nat → State} {zeros : State → State} (hk : s0.Keeps s) (h_f : ∀ (y0 : State) (y1 : Nat), s0.Keeps y0 → s0.Keeps (f y0 y1)) (h_zeros : ∀ (y0 : State), s0.Keeps y0 → s0.Keeps (zeros y0)) :
    s0.Keeps (State.loadAt s sl a align f zeros) := by
  unfold State.loadAt
  dsimp only
  repeat' first
    | with_reducible exact hk
    | with_reducible apply State.Keeps.ite
    | with_reducible apply State.conflict_keeps
    | with_reducible apply State.postMod_keeps
    | with_reducible apply State.progFault_keeps
    | with_reducible apply h_f
    | with_reducible apply h_zeros

theorem State.storeAt_keeps {s0 : State} {s : State} {sl : Slot} {a : MemAcc} {f : State → Nat → State} {zeros : State → State} (hk : s0.Keeps s) (h_f : ∀ (y0 : State) (y1 : Nat), s0.Keeps y0 → s0.Keeps (f y0 y1)) (h_zeros : ∀ (y0 : State), s0.Keeps y0 → s0.Keeps (zeros y0)) :
    s0.Keeps (State.storeAt s sl a f zeros) := by
  unfold State.storeAt
  repeat' first
    | intro _
    | with_reducible exact hk
    | with_reducible assumption
    | with_reducible apply State.loadAt_keeps
    | with_reducible apply h_f
    | with_reducible apply h_zeros

theorem execVld_keeps {s0 : State} {sl : Slot} {v : Fin 32} {a : MemAcc} {ue : BitVec 4} {ce : BitVec 4} {s : State} (hk : s0.Keeps s) :
    Res.Keeps s0 (execVld sl v a ue ce s) := by
  unfold execVld
  dsimp only
  repeat' first
    | intro _
    | with_reducible exact hk
    | with_reducible assumption
    | with_reducible apply Res.Keeps.ofNext
    | with_reducible apply State.Keeps.ite
    | with_reducible apply State.eccCe_keeps
    | with_reducible apply State.eccUe_keeps
    | with_reducible apply State.loadAt_keeps
    | with_reducible apply State.slot_keeps
    | with_reducible apply State.setLanes_keeps
    | with_reducible apply upTo_keeps

theorem execVst_keeps {s0 : State} {sl : Slot} {v : Fin 32} {a : MemAcc} {s : State} (hk : s0.Keeps s) :
    Res.Keeps s0 (execVst sl v a s) := by
  unfold execVst
  repeat' first
    | intro _
    | with_reducible exact hk
    | with_reducible assumption
    | with_reducible apply Res.Keeps.ofNext
    | with_reducible apply State.slot_keeps
    | with_reducible apply State.storeAt_keeps
    | with_reducible apply State.spStore_keeps
    | with_reducible apply upTo_keeps

theorem execVldb_keeps {s0 : State} {sl : Slot} {v : Fin 32} {a : MemAcc} {s : State} (hk : s0.Keeps s) :
    Res.Keeps s0 (execVldb sl v a s) := by
  unfold execVldb
  repeat' first
    | intro _
    | with_reducible exact hk
    | with_reducible assumption
    | with_reducible apply Res.Keeps.ofNext
    | with_reducible apply State.loadAt_keeps
    | with_reducible apply State.slot_keeps
    | with_reducible apply State.setLanes_keeps

theorem State.atomic_keeps {s0 : State} {s : State} {sl : Slot} {v : Nat} {addr : Nat} {g : Word → Word → Word} (hk : s0.Keeps s) :
    s0.Keeps (State.atomic s sl v addr g) := by
  unfold State.atomic
  dsimp only
  repeat' first
    | intro _
    | with_reducible exact hk
    | with_reducible assumption
    | with_reducible apply State.setV_keeps
    | with_reducible apply State.spStore_keeps
    | with_reducible apply upTo_keeps

theorem execAtadd_keeps {s0 : State} {sl : Slot} {v : Fin 32} {a : MemAcc} {s : State} (hk : s0.Keeps s) :
    Res.Keeps s0 (execAtadd sl v a s) := by
  unfold execAtadd
  repeat' first
    | intro _
    | with_reducible exact hk
    | with_reducible assumption
    | with_reducible apply Res.Keeps.ofNext
    | with_reducible apply State.atomic_keeps
    | with_reducible apply State.slot_keeps
    | with_reducible apply State.storeAt_keeps
    | with_reducible apply State.setLanes_keeps

theorem execAtswp_keeps {s0 : State} {sl : Slot} {v : Fin 32} {a : MemAcc} {s : State} (hk : s0.Keeps s) :
    Res.Keeps s0 (execAtswp sl v a s) := by
  unfold execAtswp
  repeat' first
    | intro _
    | with_reducible exact hk
    | with_reducible assumption
    | with_reducible apply Res.Keeps.ofNext
    | with_reducible apply State.atomic_keeps
    | with_reducible apply State.slot_keeps
    | with_reducible apply State.storeAt_keeps
    | with_reducible apply State.setLanes_keeps

theorem execPmod_keeps {s0 : State} {sl : Slot} {a : MemAcc} {s : State} (hk : s0.Keeps s) :
    Res.Keeps s0 (execPmod sl a s) := by
  unfold execPmod
  repeat' first
    | intro _
    | with_reducible exact hk
    | with_reducible assumption
    | with_reducible apply Res.Keeps.ofNext
    | with_reducible apply State.postMod_keeps
    | with_reducible apply State.slot_keeps

theorem execPld_keeps {s0 : State} {sl : Slot} {n : Fin 16} {a : MemAcc} {s : State} (hk : s0.Keeps s) :
    Res.Keeps s0 (execPld sl n a s) := by
  unfold execPld
  repeat' first
    | intro _
    | with_reducible exact hk
    | with_reducible assumption
    | with_reducible apply Res.Keeps.ofNext
    | with_reducible apply State.loadAt_keeps
    | with_reducible apply State.slot_keeps
    | with_reducible apply State.setP_keeps

theorem execMld_keeps {s0 : State} {sl : Slot} {n : Fin 16} {a : MemAcc} {s : State} (hk : s0.Keeps s) :
    Res.Keeps s0 (execMld sl n a s) := by
  unfold execMld
  repeat' first
    | intro _
    | with_reducible exact hk
    | with_reducible assumption
    | with_reducible apply Res.Keeps.ofNext
    | with_reducible apply State.loadAt_keeps
    | with_reducible apply State.slot_keeps
    | with_reducible apply State.setM_keeps

theorem execCnop_keeps {s0 : State} {sl : Slot} {s : State} (hk : s0.Keeps s) :
    Res.Keeps s0 (execCnop sl s) := by
  unfold execCnop
  repeat' first
    | intro _
    | with_reducible exact hk
    | with_reducible assumption
    | with_reducible apply Res.Keeps.ofNext
    | with_reducible apply State.slot_keeps

theorem execLoopOp_keeps {s0 : State} {sl : Slot} {k : Fin 4} {idx : Bool} {len : Fin 2048} {s : State} (hk : s0.Keeps s) :
    Res.Keeps s0 (execLoopOp sl k idx len s) := by
  unfold execLoopOp
  dsimp only
  repeat' first
    | intro _
    | with_reducible exact hk
    | with_reducible assumption
    | with_reducible apply Res.Keeps.ofNext
    | with_reducible apply Res.Keeps.fault
    | with_reducible apply Res.Keeps.ite
    | with_reducible apply State.Keeps.ite
    | with_reducible apply State.mapRegs_keeps
    | with_reducible apply State.setCore_keeps
    | with_reducible apply State.slot_keeps

theorem execLoopPassEnd_keeps {s0 : State} {core : Fin 32} {k : Fin 4} {s : State} (hk : s0.Keeps s) :
    Res.Keeps s0 (execLoopPassEnd core k s) := by
  unfold execLoopPassEnd
  dsimp only
  repeat' first
    | with_reducible exact hk
    | with_reducible apply Res.Keeps.ofNext
    | with_reducible apply Res.Keeps.ite
    | with_reducible apply State.setCore_keeps
    | split

theorem State.setLc_keeps {s0 : State} {s : State} {c : Nat} {k : Nat} {n : Nat} (hk : s0.Keeps s) :
    s0.Keeps (State.setLc s c k n) := by
  unfold State.setLc
  repeat' first
    | with_reducible exact hk
    | with_reducible apply State.mapRegs_keeps

theorem execSetlc_keeps {s0 : State} {sl : Slot} {k : Fin 4} {n : BitVec 12} {s : State} (hk : s0.Keeps s) :
    Res.Keeps s0 (execSetlc sl k n s) := by
  unfold execSetlc
  repeat' first
    | intro _
    | with_reducible exact hk
    | with_reducible assumption
    | with_reducible apply Res.Keeps.ofNext
    | with_reducible apply State.setLc_keeps
    | with_reducible apply State.slot_keeps

theorem execSetlcr_keeps {s0 : State} {sl : Slot} {k : Fin 4} {p : Fin 16} {mx : BitVec 8} {s : State} (hk : s0.Keeps s) :
    Res.Keeps s0 (execSetlcr sl k p mx s) := by
  unfold execSetlcr
  dsimp only
  repeat' first
    | intro _
    | with_reducible exact hk
    | with_reducible assumption
    | with_reducible apply Res.Keeps.ofNext
    | with_reducible apply State.setLc_keeps
    | with_reducible apply State.slot_keeps

theorem execBrf_keeps {s0 : State} {sl : Slot} {c : Fin 8} {off : Fin 2048} {s : State} (hk : s0.Keeps s) :
    Res.Keeps s0 (execBrf sl c off s) := by
  unfold execBrf
  dsimp only
  repeat' first
    | intro _
    | with_reducible exact hk
    | with_reducible assumption
    | with_reducible apply Res.Keeps.ofNext
    | with_reducible apply Res.Keeps.fault
    | with_reducible apply Res.Keeps.ite
    | with_reducible apply State.Keeps.ite
    | with_reducible apply State.setCore_keeps
    | with_reducible apply State.slot_keeps

theorem execPaddi_keeps {s0 : State} {sl : Slot} {p : Fin 16} {imm : BitVec 10} {s : State} (hk : s0.Keeps s) :
    Res.Keeps s0 (execPaddi sl p imm s) := by
  unfold execPaddi
  repeat' first
    | intro _
    | with_reducible exact hk
    | with_reducible assumption
    | with_reducible apply Res.Keeps.ofNext
    | with_reducible apply State.setP_keeps
    | with_reducible apply State.slot_keeps

theorem execSetm_keeps {s0 : State} {sl : Slot} {m : Fin 16} {imm : BitVec 9} {x16 : Bool} {s : State} (hk : s0.Keeps s) :
    Res.Keeps s0 (execSetm sl m imm x16 s) := by
  unfold execSetm
  repeat' first
    | intro _
    | with_reducible exact hk
    | with_reducible assumption
    | with_reducible apply Res.Keeps.ofNext
    | with_reducible apply State.setM_keeps
    | with_reducible apply State.slot_keeps

theorem execPmov_keeps {s0 : State} {sl : Slot} {d : Fin 16} {a : Fin 16} {s : State} (hk : s0.Keeps s) :
    Res.Keeps s0 (execPmov sl d a s) := by
  unfold execPmov
  repeat' first
    | intro _
    | with_reducible exact hk
    | with_reducible assumption
    | with_reducible apply Res.Keeps.ofNext
    | with_reducible apply State.setP_keeps
    | with_reducible apply State.slot_keeps

theorem execSetw_keeps {s0 : State} {sl : Slot} {k : Fin 4} {p : Fin 16} {m : Fin 16} {s : State} (hk : s0.Keeps s) :
    Res.Keeps s0 (execSetw sl k p m s) := by
  unfold execSetw
  repeat' first
    | intro _
    | with_reducible exact hk
    | with_reducible assumption
    | with_reducible apply Res.Keeps.ofNext
    | with_reducible apply State.mapRegs_keeps
    | with_reducible apply State.slot_keeps

theorem execBindOp_keeps {s0 : State} {sl : Slot} {p : Fin 16} {w : Option (Fin 4)} {s : State} (hk : s0.Keeps s) :
    Res.Keeps s0 (execBindOp sl p w s) := by
  unfold execBindOp
  repeat' first
    | intro _
    | with_reducible exact hk
    | with_reducible assumption
    | with_reducible apply Res.Keeps.ofNext
    | with_reducible apply State.mapRegs_keeps
    | with_reducible apply State.slot_keeps

theorem execSetidx_keeps {s0 : State} {sl : Slot} {imm : BitVec 14} {s : State} (hk : s0.Keeps s) :
    Res.Keeps s0 (execSetidx sl imm s) := by
  unfold execSetidx
  repeat' first
    | intro _
    | with_reducible exact hk
    | with_reducible assumption
    | with_reducible apply Res.Keeps.ofNext
    | with_reducible apply State.mapRegs_keeps
    | with_reducible apply State.slot_keeps

theorem execDlq_keeps {s0 : State} {sl : Slot} {v : Fin 32} {s : State} (hk : s0.Keeps s) :
    Res.Keeps s0 (execDlq sl v s) := by
  unfold execDlq
  dsimp only
  repeat' first
    | intro _
    | with_reducible exact hk
    | with_reducible assumption
    | with_reducible apply Res.Keeps.ofNext
    | with_reducible apply State.Keeps.ite
    | with_reducible apply State.bump_keeps
    | with_reducible apply State.flagEvent_keeps
    | with_reducible apply State.progFault_keeps
    | with_reducible apply State.setCore_keeps
    | with_reducible apply State.slot_keeps
    | simp only [State.Keeps.upd_iff]

theorem State.runXfer_keeps {s0 : State} {s : State} {x : DlqXfer} (hk : s0.Keeps s) :
    s0.Keeps (State.runXfer s x) := by
  unfold State.runXfer
  repeat' first
    | with_reducible exact hk
    | with_reducible apply State.Keeps.ite
    | with_reducible apply State.setBytes_keeps

theorem execDlqTransferDone_keeps {s0 : State} {core : Fin 32} {s : State} (hk : s0.Keeps s) :
    Res.Keeps s0 (execDlqTransferDone core s) := by
  unfold execDlqTransferDone
  dsimp only
  repeat' first
    | with_reducible exact hk
    | with_reducible apply Res.Keeps.ofNext
    | with_reducible apply State.runXfer_keeps
    | simp only [State.Keeps.upd_iff]
    | split

theorem State.crossAreas_keeps {s0 : State} {s : State} {x : DispRec × Bool} {y : DispRec × Bool} {dst : DispRec × Bool} (hk : s0.Keeps s) :
    s0.Keeps (State.crossAreas s x y dst) := by
  unfold State.crossAreas
  dsimp only
  repeat' first
    | intro _
    | with_reducible exact hk
    | with_reducible assumption
    | with_reducible apply State.setMemWord_keeps
    | with_reducible apply upTo_keeps

theorem State.crossQuad_keeps {s0 : State} {s : State} {q : Quad} (hk : s0.Keeps s) :
    s0.Keeps (State.crossQuad s q) := by
  unfold State.crossQuad
  dsimp only
  repeat' first
    | with_reducible exact hk
    | with_reducible apply State.Keeps.ite
    | with_reducible apply State.crossAreas_keeps
    | split

theorem State.recordEnd_keeps {s0 : State} {s : State} {key : Nat} (hk : s0.Keeps s) :
    s0.Keeps (State.recordEnd s key) := by
  unfold State.recordEnd
  dsimp only
  repeat' first
    | with_reducible exact hk
    | with_reducible apply State.Keeps.ite
    | with_reducible apply State.crossQuad_keeps
    | with_reducible apply State.setQuad_keeps
    | split

theorem execEndOp_keeps {s0 : State} {sl : Slot} {s : State} (hk : s0.Keeps s) :
    Res.Keeps s0 (execEndOp sl s) := by
  unfold execEndOp
  dsimp only
  repeat' first
    | intro _
    | with_reducible exact hk
    | with_reducible assumption
    | with_reducible apply Res.Keeps.ofNext
    | with_reducible apply State.recordEnd_keeps
    | with_reducible apply State.slot_keeps
    | with_reducible apply State.setCore_keeps
    | with_reducible apply State.wr_keeps
    | split

end Sys2Proof.Machine
end

