-- ==== Sys2Proof/Laws/KeepsLock.lean ====
section
/-! SUPPORT. What the operations of Machine/Lock.lean keep (`State.Keeps`): the queue and the canonical form of the stores. -/

namespace Sys2Proof.Machine

theorem State.wpEvent_keeps {s0 : State} {s : State} {m : Master} {addr : Nat} (hk : s0.Keeps s) :
    s0.Keeps (State.wpEvent s m addr) := by
  unfold State.wpEvent
  repeat' first
    | with_reducible exact hk
    | with_reducible apply State.event_keeps

theorem State.refuseWrite_keeps {s0 : State} {s : State} {flag : Fld} {m : Master} (hk : s0.Keeps s) :
    s0.Keeps (State.refuseWrite s flag m) := by
  unfold State.refuseWrite
  repeat' first
    | with_reducible exact hk
    | with_reducible apply State.set1_keeps
    | with_reducible apply State.wpEvent_keeps

theorem State.unavail_keeps {s0 : State} {s : State} (hk : s0.Keeps s) :
    s0.Keeps (State.unavail s) := by
  unfold State.unavail
  repeat' first
    | with_reducible exact hk
    | with_reducible apply State.bump_keeps
    | with_reducible apply State.flagEvent_keeps

end Sys2Proof.Machine
end

