-- ==== Sys2Proof/Laws/KeepsGen.lean ====
section
/-! SUPPORT. What the operations of Machine/Gen.lean keep (`State.Keeps`): the queue and the canonical form of the stores. -/

namespace Sys2Proof.Machine

theorem State.setGen_keeps {s0 : State} {s : State} {g : Nat} {x : Gen} (hk : s0.Keeps s) :
    s0.Keeps (State.setGen s g x) := by
  unfold State.setGen
  dsimp only
  repeat' first
    | with_reducible exact hk
    | simp only [State.Keeps.upd_iff]

theorem State.genSync_keeps {s0 : State} {s : State} {g : Nat} (hk : s0.Keeps s) :
    s0.Keeps (State.genSync s g) := by
  unfold State.genSync
  dsimp only
  repeat' first
    | with_reducible exact hk
    | with_reducible apply State.wrB_keeps
    | with_reducible apply State.wr_keeps

theorem State.genBlock_keeps {s0 : State} {s : State} {g : Nat} (hk : s0.Keeps s) :
    s0.Keeps (State.genBlock s g).1 := by
  unfold State.genBlock
  dsimp only
  repeat' first
    | with_reducible exact hk
    | with_reducible apply State.Keeps.iteFst
    | with_reducible apply State.setGen_keeps

theorem State.genEnds_keeps {s0 : State} {s : State} {g : Nat} (hk : s0.Keeps s) :
    s0.Keeps (State.genEnds s g) := by
  unfold State.genEnds
  repeat' first
    | with_reducible exact hk
    | with_reducible apply State.Keeps.ite
    | with_reducible apply State.finish_keeps
    | with_reducible apply State.mapOut_keeps
    | split

theorem State.genTickOne_keeps {s0 : State} {s : State} {g : Nat} (hk : s0.Keeps s) :
    s0.Keeps (State.genTickOne s g) := by
  unfold State.genTickOne
  dsimp only
  repeat' first
    | with_reducible exact hk
    | with_reducible apply State.Keeps.ite
    | with_reducible apply State.genEnds_keeps
    | with_reducible apply State.genSync_keeps
    | with_reducible apply State.setGen_keeps

theorem State.genTick_keeps {s0 : State} {s : State} (hk : s0.Keeps s) :
    s0.Keeps (State.genTick s) := by
  unfold State.genTick
  repeat' first
    | intro _
    | with_reducible exact hk
    | with_reducible assumption
    | with_reducible apply State.Keeps.ite
    | with_reducible apply State.genTickOne_keeps
    | with_reducible apply upTo_keeps

theorem State.genCfgPut_keeps {s0 : State} {s : State} {m : Master} {g : Nat} {v : Word} (hk : s0.Keeps s) :
    s0.Keeps (State.genCfgPut s m g v).1 := by
  unfold State.genCfgPut
  dsimp only
  repeat' first
    | with_reducible exact hk
    | with_reducible apply State.Keeps.iteFst
    | with_reducible apply State.set1_keeps
    | with_reducible apply State.setReg_keeps

theorem State.genCfgWrite_keeps {s0 : State} {s : State} {m : Master} {g : Nat} {v : Word} (hk : s0.Keeps s) :
    s0.Keeps (State.genCfgWrite s m g v) := by
  unfold State.genCfgWrite
  dsimp only
  repeat' first
    | with_reducible exact hk
    | with_reducible apply State.Keeps.ite
    | with_reducible apply State.genCfgPut_keeps
    | with_reducible apply State.wpEvent_keeps

theorem execGenEnableWrite_keeps {s0 : State} {master : Master} {g : Fin 32} {value : Word} {s : State} (hk : s0.Keeps s) :
    Res.Keeps s0 (execGenEnableWrite master g value s) := by
  unfold execGenEnableWrite
  repeat' first
    | with_reducible exact hk
    | with_reducible apply Res.Keeps.ofNext
    | with_reducible apply State.genCfgWrite_keeps

theorem execGenSegmentEnd_keeps {s0 : State} {g : Fin 32} {s : State} (hk : s0.Keeps s) :
    Res.Keeps s0 (execGenSegmentEnd g s) := by
  unfold execGenSegmentEnd
  dsimp only
  repeat' first
    | with_reducible exact hk
    | with_reducible apply Res.Keeps.ofNext
    | with_reducible apply Res.Keeps.ite
    | with_reducible apply State.genSync_keeps
    | with_reducible apply State.setGen_keeps

end Sys2Proof.Machine
end

