-- ==== Sys2Proof/Laws/KeepsRing.lean ====
section
/-! SUPPORT. What the operations of Machine/Ring.lean keep (`State.Keeps`): the queue and the canonical form of the stores. -/

namespace Sys2Proof.Machine

theorem State.ringFault_keeps {s0 : State} {s : State} {n : Nat} {code : Nat} {value : Nat} (hk : s0.Keeps s) :
    s0.Keeps (State.ringFault s n code value) := by
  unfold State.ringFault
  dsimp only
  repeat' first
    | with_reducible exact hk
    | with_reducible apply State.event_keeps
    | with_reducible apply State.set1_keeps
    | with_reducible apply State.setReg_keeps

theorem execCmdDoorbell_keeps {s0 : State} {n : Fin 16} {pi : BitVec 16} {s : State} (hk : s0.Keeps s) :
    Res.Keeps s0 (execCmdDoorbell n pi s) := by
  unfold execCmdDoorbell
  dsimp only
  repeat' first
    | with_reducible exact hk
    | with_reducible apply Res.Keeps.ofNext
    | with_reducible apply State.Keeps.ite
    | with_reducible apply State.ringFault_keeps
    | with_reducible apply State.wr_keeps

theorem execCmdCdbWrite_keeps {s0 : State} {n : Fin 16} {cci : BitVec 16} {s : State} (hk : s0.Keeps s) :
    Res.Keeps s0 (execCmdCdbWrite n cci s) := by
  unfold execCmdCdbWrite
  dsimp only
  repeat' first
    | with_reducible exact hk
    | with_reducible apply Res.Keeps.ofNext
    | with_reducible apply State.Keeps.ite
    | with_reducible apply State.ringFault_keeps
    | with_reducible apply State.wr_keeps

theorem State.ringEnable_keeps {s0 : State} {s : State} {n : Nat} (hk : s0.Keeps s) :
    s0.Keeps (State.ringEnable s n) := by
  unfold State.ringEnable
  dsimp only
  repeat' first
    | with_reducible exact hk
    | with_reducible apply State.Keeps.ite
    | with_reducible apply State.flagEvent_keeps
    | with_reducible apply State.set1_keeps
    | with_reducible apply State.setReg_keeps
    | with_reducible apply State.wr_keeps

theorem execCmdRingEnable_keeps {s0 : State} {n : Fin 16} {s : State} (hk : s0.Keeps s) :
    Res.Keeps s0 (execCmdRingEnable n s) := by
  unfold execCmdRingEnable
  repeat' first
    | with_reducible exact hk
    | with_reducible apply Res.Keeps.ofNext
    | with_reducible apply State.ringEnable_keeps

theorem State.drainDone_keeps {s0 : State} {s : State} {n : Nat} (hk : s0.Keeps s) :
    s0.Keeps (State.drainDone s n) := by
  unfold State.drainDone
  dsimp only
  repeat' first
    | with_reducible exact hk
    | with_reducible apply State.Keeps.ite
    | with_reducible apply State.wr_keeps
    | simp only [State.Keeps.upd_iff]

theorem execRingDrainDone_keeps {s0 : State} {n : Fin 16} {s : State} (hk : s0.Keeps s) :
    Res.Keeps s0 (execRingDrainDone n s) := by
  unfold execRingDrainDone
  repeat' first
    | with_reducible exact hk
    | with_reducible apply Res.Keeps.ofNext
    | with_reducible apply State.drainDone_keeps

theorem State.consume_keeps {s0 : State} {s : State} {n : Nat} {k : Nat} (hk : s0.Keeps s) :
    s0.Keeps (State.consume s n k) := by
  unfold State.consume
  repeat' first
    | with_reducible exact hk
    | with_reducible apply State.wrapInc_keeps

theorem State.fetchHead_keeps {s0 : State} {s : State} {n : Nat} (hk : s0.Keeps s) :
    s0.Keeps (State.fetchHead s n).2 := by
  unfold State.fetchHead
  dsimp only
  repeat' first
    | with_reducible exact hk
    | with_reducible apply State.Keeps.iteSnd
    | with_reducible apply State.complete_keeps
    | with_reducible apply State.consume_keeps
    | with_reducible apply State.countFetch_keeps
    | with_reducible apply State.wr_keeps
    | simp only [State.Keeps.upd_iff]
    | split

theorem execCommandFetch_keeps {s0 : State} {n : Fin 16} {s : State} (hk : s0.Keeps s) :
    Res.Keeps s0 (execCommandFetch n s) := by
  unfold execCommandFetch
  dsimp only
  repeat' first
    | with_reducible exact hk
    | with_reducible apply Res.Keeps.ofNext
    | with_reducible apply State.Keeps.ite
    | with_reducible apply State.fetchHead_keeps
    | with_reducible refine State.Keeps.snd (by assumption) ?_
    | simp only [State.Keeps.upd_iff]
    | split

end Sys2Proof.Machine
end

