-- ==== Sys2Proof/Laws/KeepsAct.lean ====
section
/-! SUPPORT. What the operations of Machine/Act.lean keep (`State.Keeps`): the queue and the canonical form of the stores. -/

namespace Sys2Proof.Machine

theorem State.requadOne_keeps {s0 : State} {s : State} {a : Word} {reset : Bool} {key : Nat} {q : Quad} (hk : s0.Keeps s) :
    s0.Keeps (State.requadOne s a reset key q) := by
  unfold State.requadOne
  dsimp only
  repeat' first
    | with_reducible exact hk
    | with_reducible apply State.Keeps.ite
    | with_reducible apply State.initQuadRegion_keeps
    | with_reducible apply State.setQuad_keeps

theorem State.requad_keeps {s0 : State} {s : State} {a : Word} {reset : Bool} (hk : s0.Keeps s) :
    s0.Keeps (State.requad s a reset) := by
  unfold State.requad
  repeat' first
    | intro _
    | with_reducible exact hk
    | with_reducible assumption
    | with_reducible apply forAll_keeps
    | with_reducible apply State.requadOne_keeps

theorem State.quadTick_keeps {s0 : State} {s : State} (hk : s0.Keeps s) :
    s0.Keeps (State.quadTick s) := by
  unfold State.quadTick
  dsimp only
  repeat' first
    | with_reducible exact hk
    | simp only [State.Keeps.upd_iff]

theorem State.mapQuad_keeps {s0 : State} {s : State} {key : Nat} {f : Quad → Quad} (hk : s0.Keeps s) :
    s0.Keeps (State.mapQuad s key f) := by
  unfold State.mapQuad
  repeat' first
    | with_reducible exact hk
    | with_reducible apply State.setQuad_keeps
    | split

theorem State.paramWrite_keeps {s0 : State} {s : State} {cls : Nat} {strip : Nat} {w : Nat} {vals : List Word} (hk : s0.Keeps s) :
    s0.Keeps (State.paramWrite s cls strip w vals) := by
  unfold State.paramWrite
  dsimp only
  repeat' first
    | intro _
    | with_reducible exact hk
    | with_reducible assumption
    | with_reducible apply forAll_keeps
    | with_reducible apply State.mapQuad_keeps
    | with_reducible apply State.setMemWord_keeps

theorem State.paramPend_keeps {s0 : State} {s : State} {cls : Nat} {strip : Nat} {a : Word} {r : CmdRef} (hk : s0.Keeps s) :
    s0.Keeps (State.paramPend s cls strip a r) := by
  unfold State.paramPend
  repeat' first
    | with_reducible exact hk
    | with_reducible apply State.mapQuad_keeps

theorem State.paramTick_keeps {s0 : State} {s : State} (hk : s0.Keeps s) :
    s0.Keeps (State.paramTick s) := by
  unfold State.paramTick
  dsimp only
  repeat' first
    | with_reducible exact hk
    | simp only [State.Keeps.upd_iff]

theorem State.paramSyncDone_keeps {s0 : State} {s : State} {key : Nat} (hk : s0.Keeps s) :
    s0.Keeps (State.paramSyncDone s key) := by
  unfold State.paramSyncDone
  dsimp only
  repeat' first
    | with_reducible exact hk
    | with_reducible apply State.Keeps.ite
    | with_reducible apply State.ownerDone_keeps
    | with_reducible apply State.setBytes_keeps
    | with_reducible apply State.setQuad_keeps
    | split

theorem execParamSyncDone_keeps {s0 : State} {outq : Bool} {quad : Fin 256} {s : State} (hk : s0.Keeps s) :
    Res.Keeps s0 (execParamSyncDone outq quad s) := by
  unfold execParamSyncDone
  repeat' first
    | with_reducible exact hk
    | with_reducible apply Res.Keeps.ofNext
    | with_reducible apply State.paramSyncDone_keeps

theorem State.syncDue_keeps {s0 : State} {s : State} {a : Word} (hk : s0.Keeps s) :
    s0.Keeps (State.syncDue s a) := by
  unfold State.syncDue
  repeat' first
    | intro _
    | with_reducible exact hk
    | with_reducible assumption
    | with_reducible apply forAll_keeps
    | with_reducible apply State.paramSyncDone_keeps

theorem State.setAct_keeps {s0 : State} {s : State} {x : Option Activation} (hk : s0.Keeps s) :
    s0.Keeps (State.setAct s x) := by
  unfold State.setAct
  dsimp only
  repeat' first
    | with_reducible exact hk
    | simp only [State.Keeps.upd_iff]

theorem State.dipStart_keeps {s0 : State} {s : State} {x : Activation} (hk : s0.Keeps s) :
    s0.Keeps (State.dipStart s x) := by
  unfold State.dipStart
  dsimp only
  repeat' first
    | intro _
    | with_reducible exact hk
    | with_reducible assumption
    | with_reducible apply State.autoMute_keeps
    | with_reducible apply forAll_keeps
    | simp only [State.Keeps.upd_iff]

theorem State.dipBypass_keeps {s0 : State} {s : State} {x : Activation} {a : Word} (hk : s0.Keeps s) :
    s0.Keeps (State.dipBypass s x a) := by
  unfold State.dipBypass
  dsimp only
  repeat' first
    | intro _
    | with_reducible exact hk
    | with_reducible assumption
    | with_reducible apply forAll_keeps
    | with_reducible apply State.initRegion_keeps
    | with_reducible apply State.loadBanks_keeps
    | with_reducible apply State.requad_keeps
    | simp only [State.Keeps.upd_iff]
    | split

theorem State.cancelParams_keeps {s0 : State} {s : State} {keys : List Nat} (hk : s0.Keeps s) :
    s0.Keeps (State.cancelParams s keys) := by
  unfold State.cancelParams
  dsimp only
  repeat' first
    | intro _
    | with_reducible exact hk
    | with_reducible assumption
    | with_reducible apply State.finish_keeps
    | with_reducible apply forAll_keeps

theorem State.imgSwitch_keeps {s0 : State} {s : State} {x : Activation} {a : Word} (hk : s0.Keeps s) :
    s0.Keeps (State.imgSwitch s x a) := by
  unfold State.imgSwitch
  dsimp only
  repeat' first
    | intro _
    | with_reducible exact hk
    | with_reducible assumption
    | with_reducible apply State.Keeps.ite
    | with_reducible apply State.cancelParams_keeps
    | with_reducible apply forAll_keeps
    | with_reducible apply State.initRegion_keeps
    | with_reducible apply State.loadBanks_keeps
    | with_reducible apply State.loadCode_keeps
    | with_reducible apply State.queuePatch_keeps
    | with_reducible apply State.reverseRecord_keeps
    | with_reducible apply State.setReg_keeps
    | simp only [State.Keeps.upd_iff]
    | split

theorem State.loadFailed_keeps {s0 : State} {s : State} {x : Activation} {a : Word} (hk : s0.Keeps s) :
    s0.Keeps (State.loadFailed s x a) := by
  unfold State.loadFailed
  dsimp only
  repeat' first
    | with_reducible exact hk
    | with_reducible apply State.eventFree_keeps
    | with_reducible apply State.finish_keeps
    | with_reducible apply State.reverseRecord_keeps
    | simp only [State.Keeps.upd_iff]
    | split

theorem State.actComplete_keeps {s0 : State} {s : State} {x : Activation} (hk : s0.Keeps s) :
    s0.Keeps (State.actComplete s x) := by
  unfold State.actComplete
  dsimp only
  repeat' first
    | with_reducible exact hk
    | with_reducible apply State.ownerDone_keeps
    | simp only [State.Keeps.upd_iff]

theorem execImgDipBypass_keeps {s0 : State} {s : State} (hk : s0.Keeps s) :
    Res.Keeps s0 (execImgDipBypass s) := by
  unfold execImgDipBypass
  repeat' first
    | with_reducible exact hk
    | with_reducible apply Res.Keeps.ofNext
    | with_reducible apply Res.Keeps.ite
    | with_reducible apply State.dipBypass_keeps
    | split

theorem execImgSwitchTick_keeps {s0 : State} {loaded : Bool} {s : State} (hk : s0.Keeps s) :
    Res.Keeps s0 (execImgSwitchTick loaded s) := by
  unfold execImgSwitchTick
  repeat' first
    | with_reducible exact hk
    | with_reducible apply Res.Keeps.ofNext
    | with_reducible apply Res.Keeps.ite
    | with_reducible apply State.imgSwitch_keeps
    | with_reducible apply State.loadFailed_keeps
    | split

theorem execImgActivateComplete_keeps {s0 : State} {s : State} (hk : s0.Keeps s) :
    Res.Keeps s0 (execImgActivateComplete s) := by
  unfold execImgActivateComplete
  repeat' first
    | with_reducible exact hk
    | with_reducible apply Res.Keeps.ofNext
    | with_reducible apply Res.Keeps.ite
    | with_reducible apply State.actComplete_keeps
    | split

theorem State.actDue_keeps {s0 : State} {s : State} {a : Word} (hk : s0.Keeps s) :
    s0.Keeps (State.actDue s a) := by
  unfold State.actDue
  dsimp only
  repeat' first
    | with_reducible exact hk
    | with_reducible apply State.Keeps.ite
    | with_reducible apply State.actComplete_keeps
    | with_reducible apply State.dipBypass_keeps
    | with_reducible apply State.imgSwitch_keeps
    | split

theorem State.actTick_keeps {s0 : State} {s : State} (hk : s0.Keeps s) :
    s0.Keeps (State.actTick s) := by
  unfold State.actTick
  repeat' first
    | with_reducible exact hk
    | with_reducible apply State.Keeps.ite
    | with_reducible apply State.dipStart_keeps
    | split

end Sys2Proof.Machine
end

