-- ==== Sys2Proof/Laws/KeepsDec.lean ====
section
/-! SUPPORT. What the operations of Machine/Dec.lean keep (`State.Keeps`): the queue and the canonical form of the stores. -/

namespace Sys2Proof.Machine

theorem State.setDch_keeps {s0 : State} {s : State} {n : Nat} {c : DecChan} (hk : s0.Keeps s) :
    s0.Keeps (State.setDch s n c) := by
  unfold State.setDch
  dsimp only
  repeat' first
    | with_reducible exact hk
    | simp only [State.Keeps.upd_iff]

theorem State.setDecState_keeps {s0 : State} {s : State} {n : Nat} {st : Nat} (hk : s0.Keeps s) :
    s0.Keeps (State.setDecState s n st) := by
  unfold State.setDecState
  repeat' first
    | with_reducible exact hk
    | with_reducible apply State.wr_keeps

theorem State.decBad_keeps {s0 : State} {s : State} {n : Nat} {st : Nat} (hk : s0.Keeps s) :
    s0.Keeps (State.decBad s n st) := by
  unfold State.decBad
  repeat' first
    | with_reducible exact hk
    | with_reducible apply State.Keeps.ite
    | with_reducible apply State.set1_keeps

theorem State.decPutStart_keeps {s0 : State} {s : State} {n : Nat} {a : Word} {o : Option CmdRef} (hk : s0.Keeps s) :
    s0.Keeps (State.decPutStart s n a o) := by
  unfold State.decPutStart
  dsimp only
  repeat' first
    | with_reducible exact hk
    | with_reducible apply State.setDch_keeps

theorem State.decPutStop_keeps {s0 : State} {s : State} {n : Nat} {a : Word} {o : Option CmdRef} (hk : s0.Keeps s) :
    s0.Keeps (State.decPutStop s n a o) := by
  unfold State.decPutStop
  dsimp only
  repeat' first
    | with_reducible exact hk
    | with_reducible apply State.setDch_keeps

theorem execDecStart_keeps {s0 : State} {m : Master} {n : Fin 40} {s : State} (hk : s0.Keeps s) :
    Res.Keeps s0 (execDecStart m n s) := by
  unfold execDecStart
  repeat' first
    | with_reducible exact hk
    | with_reducible apply Res.Keeps.ofNext
    | with_reducible apply Res.Keeps.ite
    | with_reducible apply State.decBad_keeps
    | with_reducible apply State.decPutStart_keeps
    | with_reducible apply State.refuseWrite_keeps
    | with_reducible apply State.unavail_keeps
    | split

theorem execDecStop_keeps {s0 : State} {m : Master} {n : Fin 40} {s : State} (hk : s0.Keeps s) :
    Res.Keeps s0 (execDecStop m n s) := by
  unfold execDecStop
  repeat' first
    | with_reducible exact hk
    | with_reducible apply Res.Keeps.ofNext
    | with_reducible apply Res.Keeps.ite
    | with_reducible apply State.decPutStop_keeps
    | with_reducible apply State.refuseWrite_keeps
    | with_reducible apply State.unavail_keeps

theorem State.decStart_keeps {s0 : State} {s : State} {n : Nat} {o : Option CmdRef} (hk : s0.Keeps s) :
    s0.Keeps (State.decStart s n o) := by
  unfold State.decStart
  dsimp only
  repeat' first
    | with_reducible exact hk
    | with_reducible apply State.Keeps.ite
    | with_reducible apply State.decBad_keeps
    | with_reducible apply State.finish_keeps
    | with_reducible apply State.ownerDone_keeps
    | with_reducible apply State.setDecState_keeps
    | with_reducible apply State.setReg_keeps
    | with_reducible apply State.setDch_keeps
    | split

theorem State.decStop_keeps {s0 : State} {s : State} {n : Nat} {o : Option CmdRef} (hk : s0.Keeps s) :
    s0.Keeps (State.decStop s n o) := by
  unfold State.decStop
  dsimp only
  repeat' first
    | with_reducible exact hk
    | with_reducible apply State.Keeps.ite
    | with_reducible apply State.ownerCancel_keeps
    | with_reducible apply State.ownerDone_keeps
    | with_reducible apply State.setDch_keeps
    | with_reducible apply State.setDecState_keeps

theorem State.decTickOne_keeps {s0 : State} {s : State} {n : Nat} (hk : s0.Keeps s) :
    s0.Keeps (State.decTickOne s n) := by
  unfold State.decTickOne
  dsimp only
  repeat' first
    | intro _
    | with_reducible exact hk
    | with_reducible assumption
    | with_reducible apply State.Keeps.ite
    | with_reducible apply State.decStart_keeps
    | with_reducible apply State.decStop_keeps
    | with_reducible apply forAll_keeps
    | with_reducible apply State.ownerCancel_keeps
    | with_reducible apply State.setDch_keeps

theorem State.decTick_keeps {s0 : State} {s : State} (hk : s0.Keeps s) :
    s0.Keeps (State.decTick s) := by
  unfold State.decTick
  repeat' first
    | intro _
    | with_reducible exact hk
    | with_reducible assumption
    | with_reducible apply State.decTickOne_keeps
    | with_reducible apply forAll_keeps

theorem State.decSettled_keeps {s0 : State} {s : State} {n : Nat} (hk : s0.Keeps s) :
    s0.Keeps (State.decSettled s n) := by
  unfold State.decSettled
  dsimp only
  repeat' first
    | with_reducible exact hk
    | with_reducible apply State.ownerDone_keeps
    | with_reducible apply State.setDecState_keeps
    | with_reducible apply State.setDch_keeps

theorem State.decHalt_keeps {s0 : State} {s : State} {n : Nat} (hk : s0.Keeps s) :
    s0.Keeps (State.decHalt s n) := by
  unfold State.decHalt
  dsimp only
  repeat' first
    | intro _
    | with_reducible exact hk
    | with_reducible assumption
    | with_reducible apply State.finish_keeps
    | with_reducible apply forAll_keeps
    | with_reducible apply State.ownerCancel_keeps
    | with_reducible apply State.ownerDone_keeps
    | with_reducible apply State.setDecState_keeps
    | with_reducible apply State.setDch_keeps
    | with_reducible apply State.setReg_keeps

theorem execDecSettleEnd_keeps {s0 : State} {n : Fin 40} {s : State} (hk : s0.Keeps s) :
    Res.Keeps s0 (execDecSettleEnd n s) := by
  unfold execDecSettleEnd
  repeat' first
    | with_reducible exact hk
    | with_reducible apply Res.Keeps.ofNext
    | with_reducible apply Res.Keeps.ite
    | with_reducible apply State.decSettled_keeps

theorem execDecStopEnd_keeps {s0 : State} {n : Fin 40} {s : State} (hk : s0.Keeps s) :
    Res.Keeps s0 (execDecStopEnd n s) := by
  unfold execDecStopEnd
  repeat' first
    | with_reducible exact hk
    | with_reducible apply Res.Keeps.ofNext
    | with_reducible apply Res.Keeps.ite
    | with_reducible apply State.decHalt_keeps

theorem State.decDue_keeps {s0 : State} {s : State} {a : Word} (hk : s0.Keeps s) :
    s0.Keeps (State.decDue s a) := by
  unfold State.decDue
  dsimp only
  repeat' first
    | intro _
    | with_reducible exact hk
    | with_reducible assumption
    | with_reducible apply State.Keeps.ite
    | with_reducible apply State.decHalt_keeps
    | with_reducible apply State.decSettled_keeps
    | with_reducible apply upTo_keeps

theorem State.decFifoPush_keeps {s0 : State} {s : State} {n : Nat} {pcm : BitVec 24} (hk : s0.Keeps s) :
    s0.Keeps (State.decFifoPush s n pcm) := by
  unfold State.decFifoPush
  dsimp only
  repeat' first
    | with_reducible exact hk
    | with_reducible apply State.Keeps.ite
    | with_reducible apply State.set1_keeps
    | with_reducible apply State.setDch_keeps

theorem State.decOutput_keeps {s0 : State} {s : State} {n : Nat} {pcm : BitVec 24} {sat : Bool} (hk : s0.Keeps s) :
    s0.Keeps (State.decOutput s n pcm sat) := by
  unfold State.decOutput
  dsimp only
  repeat' first
    | with_reducible exact hk
    | with_reducible apply State.Keeps.ite
    | with_reducible apply State.bump_keeps
    | with_reducible apply State.decFifoPush_keeps
    | with_reducible apply State.setDch_keeps
    | with_reducible apply State.set1_keeps

theorem execDecWindowEnd_keeps {s0 : State} {n : Fin 40} {bits : List Bool} {s : State} (hk : s0.Keeps s) :
    Res.Keeps s0 (execDecWindowEnd n bits s) := by
  unfold execDecWindowEnd
  dsimp only
  repeat' first
    | with_reducible exact hk
    | with_reducible apply Res.Keeps.ofNext
    | with_reducible apply Res.Keeps.ite
    | with_reducible apply State.decOutput_keeps
    | with_reducible apply State.setDch_keeps

theorem State.decStrobe_keeps {s0 : State} {s : State} {n : Nat} (hk : s0.Keeps s) :
    s0.Keeps (State.decStrobe s n) := by
  unfold State.decStrobe
  dsimp only
  repeat' first
    | with_reducible exact hk
    | with_reducible apply State.Keeps.ite
    | with_reducible apply State.set1_keeps
    | with_reducible apply State.setDch_keeps

theorem execDecStrobe_keeps {s0 : State} {n : Fin 40} {s : State} (hk : s0.Keeps s) :
    Res.Keeps s0 (execDecStrobe n s) := by
  unfold execDecStrobe
  repeat' first
    | with_reducible exact hk
    | with_reducible apply Res.Keeps.ofNext
    | with_reducible apply State.decStrobe_keeps

theorem State.setTmr_keeps {s0 : State} {s : State} {t : Nat} {w : Word} (hk : s0.Keeps s) :
    s0.Keeps (State.setTmr s t w) := by
  unfold State.setTmr
  dsimp only
  repeat' first
    | with_reducible exact hk
    | simp only [State.Keeps.upd_iff]

theorem State.tmrTick_keeps {s0 : State} {s : State} (hk : s0.Keeps s) :
    s0.Keeps (State.tmrTick s) := by
  unfold State.tmrTick
  repeat' first
    | intro _
    | with_reducible exact hk
    | with_reducible assumption
    | with_reducible apply State.Keeps.ite
    | with_reducible apply State.setTmr_keeps
    | with_reducible apply upTo_keeps

theorem execDecTimerStrobe_keeps {s0 : State} {t : Fin 4} {s : State} (hk : s0.Keeps s) :
    Res.Keeps s0 (execDecTimerStrobe t s) := by
  unfold execDecTimerStrobe
  dsimp only
  repeat' first
    | intro _
    | with_reducible exact hk
    | with_reducible assumption
    | with_reducible apply Res.Keeps.ofNext
    | with_reducible apply Res.Keeps.ite
    | with_reducible apply State.Keeps.ite
    | with_reducible apply State.decStrobe_keeps
    | with_reducible apply State.setTmr_keeps
    | with_reducible apply upTo_keeps

theorem execDecFifoRead_keeps {s0 : State} {n : Fin 40} {s : State} (hk : s0.Keeps s) :
    Res.Keeps s0 (execDecFifoRead n s) := by
  unfold execDecFifoRead
  dsimp only
  repeat' first
    | with_reducible exact hk
    | with_reducible apply Res.Keeps.ofNext
    | with_reducible apply Res.Keeps.ite
    | with_reducible apply State.setDch_keeps
    | with_reducible apply State.unavail_keeps
    | simp only [State.Keeps.upd_iff]

end Sys2Proof.Machine
end

