-- ==== Sys2Proof/Laws/KeepsAsrc.lean ====
section
/-! SUPPORT. What the operations of Machine/Asrc.lean keep (`State.Keeps`): the queue and the canonical form of the stores. -/

namespace Sys2Proof.Machine

theorem State.setTrack_keeps {s0 : State} {s : State} {t : Nat} {x : Track} (hk : s0.Keeps s) :
    s0.Keeps (State.setTrack s t x) := by
  unfold State.setTrack
  dsimp only
  repeat' first
    | with_reducible exact hk
    | simp only [State.Keeps.upd_iff]

theorem State.asrcClaim_keeps {s0 : State} {s : State} {dir : Nat} {kind : Nat} {index : Nat} {phase : Nat} {ids : List Nat} (hk : s0.Keeps s) :
    s0.Keeps (State.asrcClaim s dir kind index phase ids).1 := by
  unfold State.asrcClaim
  dsimp only
  repeat' first
    | intro _
    | with_reducible exact hk
    | with_reducible assumption
    | with_reducible apply State.Keeps.iteFst
    | with_reducible apply State.flagEvent_keeps
    | with_reducible apply forAll_keeps
    | with_reducible apply State.setReg_keeps
    | with_reducible apply State.setTrack_keeps
    | with_reducible apply State.wr_keeps
    | split

theorem State.asrcJoin_keeps {s0 : State} {s : State} {t : Nat} {ids : List Nat} (hk : s0.Keeps s) :
    s0.Keeps (State.asrcJoin s t ids).1 := by
  unfold State.asrcJoin
  dsimp only
  repeat' first
    | intro _
    | with_reducible exact hk
    | with_reducible assumption
    | with_reducible apply State.Keeps.iteFst
    | with_reducible apply State.flagEvent_keeps
    | with_reducible apply forAll_keeps
    | with_reducible apply State.wr_keeps
    | with_reducible apply State.setReg_keeps

theorem State.asrcRelease_keeps {s0 : State} {s : State} {t : Nat} {ids : List Nat} (hk : s0.Keeps s) :
    s0.Keeps (State.asrcRelease s t ids) := by
  unfold State.asrcRelease
  dsimp only
  repeat' first
    | intro _
    | with_reducible exact hk
    | with_reducible assumption
    | with_reducible apply State.Keeps.ite
    | with_reducible apply forAll_keeps
    | with_reducible apply State.wr_keeps
    | with_reducible apply State.setReg_keeps
    | with_reducible apply State.setTrack_keeps

theorem State.trkMove_keeps {s0 : State} {s : State} {t : Nat} {fro : List Nat} {dst : Nat} {ratio : Word} (hk : s0.Keeps s) :
    s0.Keeps (State.trkMove s t fro dst ratio) := by
  unfold State.trkMove
  dsimp only
  repeat' first
    | with_reducible exact hk
    | with_reducible apply State.Keeps.ite
    | with_reducible apply State.setTrack_keeps

theorem execTrackerEdgesSeen_keeps {s0 : State} {t : Fin 64} {ratio : Word} {s : State} (hk : s0.Keeps s) :
    Res.Keeps s0 (execTrackerEdgesSeen t ratio s) := by
  unfold execTrackerEdgesSeen
  repeat' first
    | with_reducible exact hk
    | with_reducible apply Res.Keeps.ofNext
    | with_reducible apply State.trkMove_keeps

theorem execTrackerLock_keeps {s0 : State} {t : Fin 64} {ratio : Word} {s : State} (hk : s0.Keeps s) :
    Res.Keeps s0 (execTrackerLock t ratio s) := by
  unfold execTrackerLock
  repeat' first
    | with_reducible exact hk
    | with_reducible apply Res.Keeps.ofNext
    | with_reducible apply State.trkMove_keeps

theorem execTrackerEdgeLoss_keeps {s0 : State} {t : Fin 64} {s : State} (hk : s0.Keeps s) :
    Res.Keeps s0 (execTrackerEdgeLoss t s) := by
  unfold execTrackerEdgeLoss
  dsimp only
  repeat' first
    | with_reducible exact hk
    | with_reducible apply Res.Keeps.ofNext
    | with_reducible apply State.trkMove_keeps

theorem execTrackerRatioJump_keeps {s0 : State} {t : Fin 64} {ratio : Word} {s : State} (hk : s0.Keeps s) :
    Res.Keeps s0 (execTrackerRatioJump t ratio s) := by
  unfold execTrackerRatioJump
  repeat' first
    | with_reducible exact hk
    | with_reducible apply Res.Keeps.ofNext
    | with_reducible apply State.trkMove_keeps

theorem execTrackerRange_keeps {s0 : State} {t : Fin 64} {ratio : Word} {s : State} (hk : s0.Keeps s) :
    Res.Keeps s0 (execTrackerRange t ratio s) := by
  unfold execTrackerRange
  repeat' first
    | with_reducible exact hk
    | with_reducible apply Res.Keeps.ofNext
    | with_reducible apply State.trkMove_keeps

theorem execTrackerRangeExit_keeps {s0 : State} {t : Fin 64} {ratio : Word} {s : State} (hk : s0.Keeps s) :
    Res.Keeps s0 (execTrackerRangeExit t ratio s) := by
  unfold execTrackerRangeExit
  repeat' first
    | with_reducible exact hk
    | with_reducible apply Res.Keeps.ofNext
    | with_reducible apply State.trkMove_keeps

theorem State.trkTickOne_keeps {s0 : State} {s : State} {t : Nat} {x : Track} (hk : s0.Keeps s) :
    s0.Keeps (State.trkTickOne s t x) := by
  unfold State.trkTickOne
  dsimp only
  repeat' first
    | intro _
    | with_reducible exact hk
    | with_reducible assumption
    | with_reducible apply State.Keeps.ite
    | with_reducible apply State.bump_keeps
    | with_reducible apply State.flagEvent_keeps
    | with_reducible apply forAll_keeps
    | with_reducible apply State.wr_keeps
    | with_reducible apply State.setTrack_keeps
    | with_reducible apply State.setReg_keeps
    | with_reducible apply State.wrB_keeps
    | split

theorem State.trkTick_keeps {s0 : State} {s : State} (hk : s0.Keeps s) :
    s0.Keeps (State.trkTick s) := by
  unfold State.trkTick
  repeat' first
    | intro _
    | with_reducible exact hk
    | with_reducible assumption
    | with_reducible apply forAll_keeps
    | with_reducible apply State.trkTickOne_keeps

end Sys2Proof.Machine
end

