-- ==== Sys2Proof/Laws/KeepsSp.lean ====
section
/-! SUPPORT. What the operations of Machine/Sp.lean keep (`State.Keeps`): the queue and the canonical form of the stores. -/

namespace Sys2Proof.Machine

theorem State.setPort_keeps {s0 : State} {s : State} {n : Nat} {p : SpPort} (hk : s0.Keeps s) :
    s0.Keeps (State.setPort s n p) := by
  unfold State.setPort
  repeat' first
    | with_reducible exact hk
    | simp only [State.Keeps.upd_iff]

theorem State.setSpState_keeps {s0 : State} {s : State} {n : Nat} {st : Nat} (hk : s0.Keeps s) :
    s0.Keeps (State.setSpState s n st) := by
  unfold State.setSpState
  repeat' first
    | with_reducible exact hk
    | with_reducible apply State.wr_keeps

theorem State.spClaim_keeps {s0 : State} {s : State} {n : Nat} (hk : s0.Keeps s) :
    s0.Keeps (State.spClaim s n).1 := by
  unfold State.spClaim
  repeat' first
    | with_reducible exact hk
    | with_reducible apply State.Keeps.iteFst
    | with_reducible apply State.asrcClaim_keeps
    | with_reducible apply State.asrcJoin_keeps
    | split

theorem State.spRelease_keeps {s0 : State} {s : State} {n : Nat} (hk : s0.Keeps s) :
    s0.Keeps (State.spRelease s n) := by
  unfold State.spRelease
  repeat' first
    | with_reducible exact hk
    | with_reducible apply State.asrcRelease_keeps
    | split

theorem execSpSlotCrossing_keeps {s0 : State} {n : Fin 16} {slot : Fin 32} {pos : Fin 32} {s : State} (hk : s0.Keeps s) :
    Res.Keeps s0 (execSpSlotCrossing n slot pos s) := by
  unfold execSpSlotCrossing
  dsimp only
  repeat' first
    | with_reducible exact hk
    | with_reducible apply Res.Keeps.ofNext
    | with_reducible apply Res.Keeps.ite
    | with_reducible apply State.setPort_keeps

theorem execSpZcTimeout_keeps {s0 : State} {n : Fin 16} {slot : Fin 32} {s : State} (hk : s0.Keeps s) :
    Res.Keeps s0 (execSpZcTimeout n slot s) := by
  unfold execSpZcTimeout
  dsimp only
  repeat' first
    | with_reducible exact hk
    | with_reducible apply Res.Keeps.ofNext
    | with_reducible apply Res.Keeps.ite
    | with_reducible apply State.flagEvent_keeps
    | with_reducible apply State.setPort_keeps

theorem State.spFinish_keeps {s0 : State} {s : State} {o : Option CmdRef} {status : Nat} {detail : Nat} (hk : s0.Keeps s) :
    s0.Keeps (State.spFinish s o status detail) := by
  unfold State.spFinish
  repeat' first
    | with_reducible exact hk
    | with_reducible apply State.finish_keeps
    | split

theorem State.spStart_keeps {s0 : State} {s : State} {n : Nat} {o : Option CmdRef} (hk : s0.Keeps s) :
    s0.Keeps (State.spStart s n o) := by
  unfold State.spStart
  dsimp only
  repeat' first
    | with_reducible exact hk
    | with_reducible apply State.Keeps.ite
    | with_reducible apply State.ownerDone_keeps
    | with_reducible apply State.spClaim_keeps
    | with_reducible apply State.spFinish_keeps
    | with_reducible apply State.setSpState_keeps
    | with_reducible apply State.setPort_keeps
    | with_reducible apply State.setReg_keeps
    | with_reducible refine State.Keeps.fst (by assumption) ?_
    | split

theorem State.spStop_keeps {s0 : State} {s : State} {n : Nat} {o : Option CmdRef} (hk : s0.Keeps s) :
    s0.Keeps (State.spStop s n o) := by
  unfold State.spStop
  dsimp only
  repeat' first
    | with_reducible exact hk
    | with_reducible apply State.Keeps.ite
    | with_reducible apply State.ownerCancel_keeps
    | with_reducible apply State.ownerDone_keeps
    | with_reducible apply State.setPort_keeps
    | with_reducible apply State.setSpState_keeps

theorem State.spMute_keeps {s0 : State} {s : State} {n : Nat} {mute : Bool} {o : Option CmdRef} (hk : s0.Keeps s) :
    s0.Keeps (State.spMute s n mute o) := by
  unfold State.spMute
  dsimp only
  repeat' first
    | with_reducible exact hk
    | with_reducible apply State.Keeps.ite
    | with_reducible apply State.ownerCancel_keeps
    | with_reducible apply State.ownerDone_keeps
    | with_reducible apply State.wrB_keeps
    | with_reducible apply State.setPort_keeps

theorem State.spActions_keeps {s0 : State} {s : State} {n : Nat} (hk : s0.Keeps s) :
    s0.Keeps (State.spActions s n) := by
  unfold State.spActions
  dsimp only
  repeat' first
    | intro _
    | with_reducible exact hk
    | with_reducible assumption
    | with_reducible apply State.Keeps.ite
    | with_reducible apply forAll_keeps
    | with_reducible apply State.ownerCancel_keeps
    | with_reducible apply State.setPort_keeps
    | with_reducible apply State.spMute_keeps
    | with_reducible apply State.spStart_keeps
    | with_reducible apply State.spStop_keeps

theorem State.spProgress_keeps {s0 : State} {s : State} {n : Nat} (hk : s0.Keeps s) :
    s0.Keeps (State.spProgress s n) := by
  unfold State.spProgress
  dsimp only
  repeat' first
    | with_reducible exact hk
    | with_reducible apply State.Keeps.ite
    | with_reducible apply State.ownerDone_keeps
    | with_reducible apply State.setPort_keeps
    | with_reducible apply State.setSpState_keeps

theorem State.spFrames_keeps {s0 : State} {s : State} (hk : s0.Keeps s) :
    s0.Keeps (State.spFrames s) := by
  unfold State.spFrames
  dsimp only
  repeat' first
    | intro _
    | with_reducible exact hk
    | with_reducible assumption
    | with_reducible apply State.Keeps.ite
    | with_reducible apply State.drawFree_keeps
    | with_reducible apply State.wrapInc_keeps
    | with_reducible apply upTo_keeps
    | split

theorem State.spTick_keeps {s0 : State} {s : State} (hk : s0.Keeps s) :
    s0.Keeps (State.spTick s) := by
  unfold State.spTick
  repeat' first
    | intro _
    | with_reducible exact hk
    | with_reducible assumption
    | with_reducible apply State.spActions_keeps
    | with_reducible apply State.spFrames_keeps
    | with_reducible apply State.spProgress_keeps
    | with_reducible apply upTo_keeps

theorem State.spCtrl_keeps {s0 : State} {s : State} {m : Master} {n : Nat} {f : Word → SpPort → SpPort} (hk : s0.Keeps s) :
    s0.Keeps (State.spCtrl s m n f) := by
  unfold State.spCtrl
  repeat' first
    | with_reducible exact hk
    | with_reducible apply State.Keeps.ite
    | with_reducible apply State.refuseWrite_keeps
    | with_reducible apply State.setPort_keeps
    | with_reducible apply State.unavail_keeps

theorem execSpStart_keeps {s0 : State} {m : Master} {n : Fin 16} {s : State} (hk : s0.Keeps s) :
    Res.Keeps s0 (execSpStart m n s) := by
  unfold execSpStart
  repeat' first
    | with_reducible exact hk
    | with_reducible apply Res.Keeps.ofNext
    | with_reducible apply State.spCtrl_keeps

theorem execSpStop_keeps {s0 : State} {m : Master} {n : Fin 16} {s : State} (hk : s0.Keeps s) :
    Res.Keeps s0 (execSpStop m n s) := by
  unfold execSpStop
  repeat' first
    | with_reducible exact hk
    | with_reducible apply Res.Keeps.ofNext
    | with_reducible apply State.spCtrl_keeps

theorem execSpMute_keeps {s0 : State} {m : Master} {n : Fin 16} {s : State} (hk : s0.Keeps s) :
    Res.Keeps s0 (execSpMute m n s) := by
  unfold execSpMute
  repeat' first
    | with_reducible exact hk
    | with_reducible apply Res.Keeps.ofNext
    | with_reducible apply State.spCtrl_keeps

theorem execSpUnmute_keeps {s0 : State} {m : Master} {n : Fin 16} {s : State} (hk : s0.Keeps s) :
    Res.Keeps s0 (execSpUnmute m n s) := by
  unfold execSpUnmute
  repeat' first
    | with_reducible exact hk
    | with_reducible apply Res.Keeps.ofNext
    | with_reducible apply State.spCtrl_keeps

theorem State.spData_keeps {s0 : State} {s : State} {n : Nat} {a : Word} (hk : s0.Keeps s) :
    s0.Keeps (State.spData s n a) := by
  unfold State.spData
  dsimp only
  repeat' first
    | with_reducible exact hk
    | with_reducible apply State.setSpState_keeps
    | with_reducible apply State.setPort_keeps

theorem execSpDataTick_keeps {s0 : State} {n : Fin 16} {s : State} (hk : s0.Keeps s) :
    Res.Keeps s0 (execSpDataTick n s) := by
  unfold execSpDataTick
  repeat' first
    | with_reducible exact hk
    | with_reducible apply Res.Keeps.ofNext
    | with_reducible apply Res.Keeps.ite
    | with_reducible apply State.spData_keeps

theorem State.spHalt_keeps {s0 : State} {s : State} {n : Nat} (hk : s0.Keeps s) :
    s0.Keeps (State.spHalt s n) := by
  unfold State.spHalt
  dsimp only
  repeat' first
    | intro _
    | with_reducible exact hk
    | with_reducible assumption
    | with_reducible apply State.finish_keeps
    | with_reducible apply forAll_keeps
    | with_reducible apply State.ownerCancel_keeps
    | with_reducible apply State.ownerDone_keeps
    | with_reducible apply State.setReg_keeps
    | with_reducible apply State.setSpState_keeps
    | with_reducible apply State.spRelease_keeps
    | with_reducible apply State.setPort_keeps
    | with_reducible apply State.wr_keeps
    | split

theorem execSpLeadOutEnd_keeps {s0 : State} {n : Fin 16} {s : State} (hk : s0.Keeps s) :
    Res.Keeps s0 (execSpLeadOutEnd n s) := by
  unfold execSpLeadOutEnd
  repeat' first
    | with_reducible exact hk
    | with_reducible apply Res.Keeps.ofNext
    | with_reducible apply Res.Keeps.ite
    | with_reducible apply State.spHalt_keeps

theorem State.spDue_keeps {s0 : State} {s : State} {a : Word} (hk : s0.Keeps s) :
    s0.Keeps (State.spDue s a) := by
  unfold State.spDue
  dsimp only
  repeat' first
    | intro _
    | with_reducible exact hk
    | with_reducible assumption
    | with_reducible apply State.Keeps.ite
    | with_reducible apply State.spHalt_keeps
    | with_reducible apply State.spData_keeps
    | with_reducible apply upTo_keeps

theorem execSpFrameAligned_keeps {s0 : State} {n : Fin 16} {slack : BitVec 16} {s : State} (hk : s0.Keeps s) :
    Res.Keeps s0 (execSpFrameAligned n slack s) := by
  unfold execSpFrameAligned
  dsimp only
  repeat' first
    | with_reducible exact hk
    | with_reducible apply Res.Keeps.ofNext
    | with_reducible apply Res.Keeps.ite
    | with_reducible apply State.setPort_keeps
    | with_reducible apply State.wr_keeps

theorem State.spMaskCommit_keeps {s0 : State} {s : State} {n : Nat} {tx : Word} {rx : Word} {o : Option CmdRef} (hk : s0.Keeps s) :
    s0.Keeps (State.spMaskCommit s n tx rx o) := by
  unfold State.spMaskCommit
  dsimp only
  repeat' first
    | with_reducible exact hk
    | with_reducible apply State.Keeps.ite
    | with_reducible apply State.ownerCancel_keeps
    | with_reducible apply State.ownerDone_keeps
    | with_reducible apply State.setReg_keeps
    | with_reducible apply State.wr_keeps
    | with_reducible apply State.setPort_keeps

theorem execSpMaskCommit_keeps {s0 : State} {m : Master} {n : Fin 16} {s : State} (hk : s0.Keeps s) :
    Res.Keeps s0 (execSpMaskCommit m n s) := by
  unfold execSpMaskCommit
  repeat' first
    | with_reducible exact hk
    | with_reducible apply Res.Keeps.ofNext
    | with_reducible apply Res.Keeps.ite
    | with_reducible apply State.refuseWrite_keeps
    | with_reducible apply State.spMaskCommit_keeps
    | with_reducible apply State.unavail_keeps

theorem execSpMaskTakeEffect_keeps {s0 : State} {n : Fin 16} {s : State} (hk : s0.Keeps s) :
    Res.Keeps s0 (execSpMaskTakeEffect n s) := by
  unfold execSpMaskTakeEffect
  dsimp only
  repeat' first
    | with_reducible exact hk
    | with_reducible apply Res.Keeps.ofNext
    | with_reducible apply Res.Keeps.ite
    | with_reducible apply State.ownerDone_keeps
    | with_reducible apply State.setReg_keeps
    | with_reducible apply State.setPort_keeps
    | with_reducible apply State.wr_keeps
    | split

theorem State.spInsert_keeps {s0 : State} {s : State} {n : Nat} {tx : Bool} (hk : s0.Keeps s) :
    s0.Keeps (State.spInsert s n tx) := by
  unfold State.spInsert
  repeat' first
    | with_reducible exact hk
    | with_reducible apply State.bump_keeps
    | with_reducible apply State.flagEvent_keeps

theorem State.spDrop_keeps {s0 : State} {s : State} {n : Nat} {tx : Bool} (hk : s0.Keeps s) :
    s0.Keeps (State.spDrop s n tx) := by
  unfold State.spDrop
  repeat' first
    | with_reducible exact hk
    | with_reducible apply State.bump_keeps
    | with_reducible apply State.flagEvent_keeps

theorem execSpUnderrun_keeps {s0 : State} {n : Fin 16} {tx : Bool} {s : State} (hk : s0.Keeps s) :
    Res.Keeps s0 (execSpUnderrun n tx s) := by
  unfold execSpUnderrun
  repeat' first
    | with_reducible exact hk
    | with_reducible apply Res.Keeps.ofNext
    | with_reducible apply Res.Keeps.ite
    | with_reducible apply State.spInsert_keeps

theorem execSpOverrun_keeps {s0 : State} {n : Fin 16} {tx : Bool} {s : State} (hk : s0.Keeps s) :
    Res.Keeps s0 (execSpOverrun n tx s) := by
  unfold execSpOverrun
  repeat' first
    | with_reducible exact hk
    | with_reducible apply Res.Keeps.ofNext
    | with_reducible apply Res.Keeps.ite
    | with_reducible apply State.spDrop_keeps

theorem State.spSlipOne_keeps {s0 : State} {s : State} {n : Nat} {fast : Bool} (hk : s0.Keeps s) :
    s0.Keeps (State.spSlipOne s n fast) := by
  unfold State.spSlipOne
  repeat' first
    | with_reducible exact hk
    | with_reducible apply State.Keeps.ite
    | with_reducible apply State.spDrop_keeps
    | with_reducible apply State.spInsert_keeps
    | with_reducible apply State.wr_keeps

theorem execSpSlip_keeps {s0 : State} {n : Fin 16} {fast : Bool} {s : State} (hk : s0.Keeps s) :
    Res.Keeps s0 (execSpSlip n fast s) := by
  unfold execSpSlip
  repeat' first
    | intro _
    | with_reducible exact hk
    | with_reducible assumption
    | with_reducible apply Res.Keeps.ofNext
    | with_reducible apply Res.Keeps.ite
    | with_reducible apply forAll_keeps
    | with_reducible apply State.spSlipOne_keeps
    | split

theorem execSpGlitch_keeps {s0 : State} {n : Fin 16} {s : State} (hk : s0.Keeps s) :
    Res.Keeps s0 (execSpGlitch n s) := by
  unfold execSpGlitch
  dsimp only
  repeat' first
    | with_reducible exact hk
    | with_reducible apply Res.Keeps.ofNext
    | with_reducible apply Res.Keeps.ite
    | with_reducible apply State.bump_keeps
    | with_reducible apply State.flagEvent_keeps
    | with_reducible apply State.spInsert_keeps
    | with_reducible apply State.setPort_keeps

theorem execSpLost_keeps {s0 : State} {n : Fin 16} {s : State} (hk : s0.Keeps s) :
    Res.Keeps s0 (execSpLost n s) := by
  unfold execSpLost
  dsimp only
  repeat' first
    | with_reducible exact hk
    | with_reducible apply Res.Keeps.ofNext
    | with_reducible apply Res.Keeps.ite
    | with_reducible apply State.bump_keeps
    | with_reducible apply State.flagEvent_keeps
    | with_reducible apply State.setPort_keeps
    | with_reducible apply State.setSpState_keeps

theorem execSpRealign_keeps {s0 : State} {n : Fin 16} {s : State} (hk : s0.Keeps s) :
    Res.Keeps s0 (execSpRealign n s) := by
  unfold execSpRealign
  dsimp only
  repeat' first
    | with_reducible exact hk
    | with_reducible apply Res.Keeps.ofNext
    | with_reducible apply Res.Keeps.ite
    | with_reducible apply State.setSpState_keeps
    | with_reducible apply State.setPort_keeps

end Sys2Proof.Machine
end

