-- ==== Sys2Proof/Laws/KeepsRef.lean ====
section
/-! SUPPORT. What the operations of Machine/Ref.lean keep (`State.Keeps`): the queue and the canonical form of the stores. -/

namespace Sys2Proof.Machine

theorem State.setRefMon_keeps {s0 : State} {s : State} {k : Nat} {x : Mon} (hk : s0.Keeps s) :
    s0.Keeps (State.setRefMon s k x) := by
  unfold State.setRefMon
  dsimp only
  repeat' first
    | with_reducible exact hk
    | simp only [State.Keeps.upd_iff]

theorem State.mcGo_keeps {s0 : State} {s : State} {st : Nat} (hk : s0.Keeps s) :
    s0.Keeps (State.mcGo s st) := by
  unfold State.mcGo
  dsimp only
  repeat' first
    | with_reducible exact hk
    | simp only [State.Keeps.upd_iff]

theorem State.mcEnter_keeps {s0 : State} {s : State} {st : Nat} {phase : Word} (hk : s0.Keeps s) :
    s0.Keeps (State.mcEnter s st phase) := by
  unfold State.mcEnter
  dsimp only
  repeat' first
    | with_reducible exact hk
    | with_reducible apply State.Keeps.ite
    | with_reducible apply State.event_keeps
    | with_reducible apply State.flagEvent_keeps
    | with_reducible apply State.wr_keeps
    | with_reducible apply State.setReg_keeps
    | with_reducible apply State.set1_keeps
    | with_reducible apply State.wrB_keeps
    | simp only [State.Keeps.upd_iff]

theorem State.refTick_keeps {s0 : State} {s : State} (hk : s0.Keeps s) :
    s0.Keeps (State.refTick s) := by
  unfold State.refTick
  dsimp only
  repeat' first
    | with_reducible exact hk
    | with_reducible apply State.Keeps.ite
    | with_reducible apply State.mcEnter_keeps
    | with_reducible apply State.wr_keeps
    | split

theorem execRefLock_keeps {s0 : State} {phase : Word} {s : State} (hk : s0.Keeps s) :
    Res.Keeps s0 (execRefLock phase s) := by
  unfold execRefLock
  repeat' first
    | with_reducible exact hk
    | with_reducible apply Res.Keeps.ofNext
    | with_reducible apply State.Keeps.ite
    | with_reducible apply State.mcEnter_keeps
    | with_reducible apply State.setReg_keeps

theorem execRefPullDone_keeps {s0 : State} {s : State} (hk : s0.Keeps s) :
    Res.Keeps s0 (execRefPullDone s) := by
  unfold execRefPullDone
  repeat' first
    | with_reducible exact hk
    | with_reducible apply Res.Keeps.ofNext
    | with_reducible apply State.Keeps.ite
    | with_reducible apply State.setReg_keeps
    | with_reducible apply State.wr_keeps

theorem State.monGo_keeps {s0 : State} {s : State} {k : Nat} {st : Nat} {mean : Word} (hk : s0.Keeps s) :
    s0.Keeps (State.monGo s k st mean) := by
  unfold State.monGo
  dsimp only
  repeat' first
    | with_reducible exact hk
    | with_reducible apply State.Keeps.ite
    | with_reducible apply State.mcGo_keeps
    | with_reducible apply State.wr_keeps
    | with_reducible apply State.setRefMon_keeps
    | simp only [State.Keeps.upd_iff]

theorem State.refPresence_keeps {s0 : State} {s : State} {k : Nat} {seen : Bool} (hk : s0.Keeps s) :
    s0.Keeps (State.refPresence s k seen) := by
  unfold State.refPresence
  repeat' first
    | with_reducible exact hk
    | with_reducible apply State.Keeps.ite
    | with_reducible apply State.monGo_keeps

theorem execRefPresenceChange_keeps {s0 : State} {k : Fin 7} {present : Bool} {s : State} (hk : s0.Keeps s) :
    Res.Keeps s0 (execRefPresenceChange k present s) := by
  unfold execRefPresenceChange
  repeat' first
    | with_reducible exact hk
    | with_reducible apply Res.Keeps.ofNext
    | with_reducible apply Res.Keeps.fault
    | with_reducible apply Res.Keeps.ite
    | with_reducible apply State.refPresence_keeps

theorem execRefOutlierClear_keeps {s0 : State} {k : Fin 7} {s : State} (hk : s0.Keeps s) :
    Res.Keeps s0 (execRefOutlierClear k s) := by
  unfold execRefOutlierClear
  repeat' first
    | with_reducible exact hk
    | with_reducible apply Res.Keeps.ofNext
    | with_reducible apply Res.Keeps.fault
    | with_reducible apply Res.Keeps.ite
    | with_reducible apply State.Keeps.ite
    | with_reducible apply State.monGo_keeps

theorem State.tolerances_keeps {s0 : State} {s : State} {k : Nat} {ppb : Int} {mean : Word} (hk : s0.Keeps s) :
    s0.Keeps (State.tolerances s k ppb mean) := by
  unfold State.tolerances
  dsimp only
  repeat' first
    | with_reducible exact hk
    | with_reducible apply State.Keeps.ite
    | with_reducible apply State.event_keeps
    | with_reducible apply State.flagEvent_keeps
    | with_reducible apply State.monGo_keeps
    | with_reducible apply State.setRefMon_keeps
    | with_reducible apply State.set1_keeps
    | with_reducible apply State.wr_keeps

theorem State.qualify_keeps {s0 : State} {s : State} {k : Nat} {ppb : Int} (hk : s0.Keeps s) :
    s0.Keeps (State.qualify s k ppb) := by
  unfold State.qualify
  dsimp only
  repeat' first
    | with_reducible exact hk
    | with_reducible apply State.Keeps.ite
    | with_reducible apply State.monGo_keeps
    | with_reducible apply State.setRefMon_keeps
    | with_reducible apply State.wr_keeps

theorem State.vote_keeps {s0 : State} {s : State} {a : Nat} {b : Nat} (hk : s0.Keeps s) :
    s0.Keeps (State.vote s a b) := by
  unfold State.vote
  dsimp only
  repeat' first
    | with_reducible exact hk
    | with_reducible apply State.Keeps.ite
    | with_reducible apply State.event_keeps
    | with_reducible apply State.monGo_keeps
    | with_reducible apply State.setReg_keeps
    | with_reducible apply State.set1_keeps

theorem State.compareRefs_keeps {s0 : State} {s : State} {a : Nat} {b : Nat} (hk : s0.Keeps s) :
    s0.Keeps (State.compareRefs s a b) := by
  unfold State.compareRefs
  dsimp only
  repeat' first
    | with_reducible exact hk
    | with_reducible apply State.Keeps.ite
    | with_reducible apply State.vote_keeps
    | simp only [State.Keeps.upd_iff]

theorem State.measure_keeps {s0 : State} {s : State} {k : Nat} {m : RefMeas} (hk : s0.Keeps s) :
    s0.Keeps (State.measure s k m) := by
  unfold State.measure
  dsimp only
  repeat' first
    | intro _
    | with_reducible exact hk
    | with_reducible assumption
    | with_reducible apply State.Keeps.ite
    | with_reducible apply State.compareRefs_keeps
    | with_reducible apply forAll_keeps
    | with_reducible apply State.mcGo_keeps
    | with_reducible apply State.qualify_keeps
    | with_reducible apply State.wr_keeps
    | with_reducible apply State.tolerances_keeps
    | with_reducible apply State.setReg_keeps
    | simp only [State.Keeps.upd_iff]

theorem execRefMeasurement_keeps {s0 : State} {k : Fin 7} {m : RefMeas} {s : State} (hk : s0.Keeps s) :
    Res.Keeps s0 (execRefMeasurement k m s) := by
  unfold execRefMeasurement
  repeat' first
    | with_reducible exact hk
    | with_reducible apply Res.Keeps.ofNext
    | with_reducible apply Res.Keeps.fault
    | with_reducible apply Res.Keeps.ite
    | with_reducible apply State.Keeps.ite
    | with_reducible apply State.measure_keeps

theorem execRefSelWrite_keeps {s0 : State} {master : Master} {sel : Fin 8} {s : State} (hk : s0.Keeps s) :
    Res.Keeps s0 (execRefSelWrite master sel s) := by
  unfold execRefSelWrite
  repeat' first
    | with_reducible exact hk
    | with_reducible apply Res.Keeps.ofNext
    | with_reducible apply State.Keeps.ite
    | with_reducible apply State.set1_keeps
    | with_reducible apply State.wr_keeps
    | with_reducible apply State.wpEvent_keeps

theorem execRefselChange_keeps {s0 : State} {pins : Fin 8} {s : State} (hk : s0.Keeps s) :
    Res.Keeps s0 (execRefselChange pins s) := by
  unfold execRefselChange
  dsimp only
  repeat' first
    | with_reducible exact hk
    | with_reducible apply Res.Keeps.ofNext
    | with_reducible apply State.Keeps.ite
    | with_reducible apply State.flagEvent_keeps
    | simp only [State.Keeps.upd_iff]

theorem execPpsOutPulse_keeps {s0 : State} {elapsed : Word} {s : State} (hk : s0.Keeps s) :
    Res.Keeps s0 (execPpsOutPulse elapsed s) := by
  unfold execPpsOutPulse
  dsimp only
  repeat' first
    | with_reducible exact hk
    | with_reducible apply Res.Keeps.ofNext
    | with_reducible apply State.Keeps.ite
    | simp only [State.Keeps.upd_iff]

end Sys2Proof.Machine
end

