-- ==== Sys2Proof/Laws/KeepsNet.lean ====
section
/-! SUPPORT. What the operations of Machine/Net.lean keep (`State.Keeps`): the queue and the canonical form of the stores. -/

namespace Sys2Proof.Machine

theorem State.setStrm_keeps {s0 : State} {s : State} {tx : Bool} {k : Nat} {x : Strm} (hk : s0.Keeps s) :
    s0.Keeps (State.setStrm s tx k x) := by
  unfold State.setStrm
  dsimp only
  repeat' first
    | with_reducible exact hk
    | simp only [State.Keeps.upd_iff]

theorem State.shWr_keeps {s0 : State} {s : State} {f : Fld} {v : Nat} (hk : s0.Keeps s) :
    s0.Keeps (State.shWr s f v) := by
  unfold State.shWr
  dsimp only
  repeat' first
    | with_reducible exact hk
    | simp only [State.Keeps.upd_iff]

theorem State.shBump_keeps {s0 : State} {s : State} {f : Fld} (hk : s0.Keeps s) :
    s0.Keeps (State.shBump s f) := by
  unfold State.shBump
  repeat' first
    | with_reducible exact hk
    | with_reducible apply State.shWr_keeps

theorem State.send_keeps {s0 : State} {s : State} {l : List NetFrame} (hk : s0.Keeps s) :
    s0.Keeps (State.send s l) := by
  unfold State.send
  dsimp only
  repeat' first
    | with_reducible exact hk
    | simp only [State.Keeps.upd_iff]

theorem State.admitOn_keeps {s0 : State} {s : State} {k : Nat} {p : Nat} {add : Bool} (hk : s0.Keeps s) :
    s0.Keeps (State.admitOn s k p add) := by
  unfold State.admitOn
  dsimp only
  repeat' first
    | with_reducible exact hk
    | with_reducible apply State.Keeps.ite
    | with_reducible apply State.setReg_keeps

theorem State.strmClaim_keeps {s0 : State} {s : State} {tx : Bool} {k : Nat} (hk : s0.Keeps s) :
    s0.Keeps (State.strmClaim s tx k).1 := by
  unfold State.strmClaim
  dsimp only
  repeat' first
    | with_reducible exact hk
    | with_reducible apply State.Keeps.ite
    | with_reducible apply State.Keeps.iteFst
    | with_reducible apply State.asrcClaim_keeps
    | with_reducible apply State.wr_keeps

theorem State.strmRelease_keeps {s0 : State} {s : State} {tx : Bool} {k : Nat} (hk : s0.Keeps s) :
    s0.Keeps (State.strmRelease s tx k) := by
  unfold State.strmRelease
  dsimp only
  repeat' first
    | with_reducible exact hk
    | with_reducible apply State.asrcRelease_keeps
    | with_reducible apply State.wr_keeps
    | split

theorem State.txOpen_keeps {s0 : State} {s : State} {k : Nat} (hk : s0.Keeps s) :
    s0.Keeps (State.txOpen s k) := by
  unfold State.txOpen
  dsimp only
  repeat' first
    | with_reducible exact hk
    | with_reducible apply State.wr_keeps
    | with_reducible apply State.setStrm_keeps

theorem State.strmHalt_keeps {s0 : State} {s : State} {tx : Bool} {k : Nat} (hk : s0.Keeps s) :
    s0.Keeps (State.strmHalt s tx k) := by
  unfold State.strmHalt
  dsimp only
  repeat' first
    | with_reducible exact hk
    | with_reducible apply State.wr_keeps
    | with_reducible apply State.setStrm_keeps

theorem State.membership_keeps {s0 : State} {s : State} {k : Nat} {leave : Bool} (hk : s0.Keeps s) :
    s0.Keeps (State.membership s k leave) := by
  unfold State.membership
  dsimp only
  repeat' first
    | with_reducible exact hk
    | simp only [State.Keeps.upd_iff]

theorem State.rxOpen_keeps {s0 : State} {s : State} {k : Nat} (hk : s0.Keeps s) :
    s0.Keeps (State.rxOpen s k) := by
  unfold State.rxOpen
  dsimp only
  repeat' first
    | with_reducible exact hk
    | with_reducible apply State.wr_keeps
    | with_reducible apply State.setStrm_keeps

theorem State.strmFinish_keeps {s0 : State} {s : State} {o : Option CmdRef} {status : Nat} {detail : Nat} (hk : s0.Keeps s) :
    s0.Keeps (State.strmFinish s o status detail) := by
  unfold State.strmFinish
  repeat' first
    | with_reducible exact hk
    | with_reducible apply State.finish_keeps
    | split

theorem State.freeChans_keeps {s0 : State} {s : State} {tx : Bool} {k : Nat} {take : Bool} (hk : s0.Keeps s) :
    s0.Keeps (State.freeChans s tx k take) := by
  unfold State.freeChans
  dsimp only
  repeat' first
    | with_reducible exact hk
    | with_reducible apply State.wr_keeps

theorem State.rxClear_keeps {s0 : State} {s : State} {k : Nat} (hk : s0.Keeps s) :
    s0.Keeps (State.rxClear s k) := by
  unfold State.rxClear
  dsimp only
  repeat' first
    | intro _
    | with_reducible exact hk
    | with_reducible assumption
    | with_reducible apply forAll_keeps
    | with_reducible apply State.setReg_keeps

theorem State.strmStart_keeps {s0 : State} {s : State} {tx : Bool} {k : Nat} {o : Option CmdRef} (hk : s0.Keeps s) :
    s0.Keeps (State.strmStart s tx k o) := by
  unfold State.strmStart
  dsimp only
  repeat' first
    | with_reducible exact hk
    | with_reducible apply State.Keeps.ite
    | with_reducible apply State.admitOn_keeps
    | with_reducible apply State.flagEvent_keeps
    | with_reducible apply State.freeChans_keeps
    | with_reducible apply State.membership_keeps
    | with_reducible apply State.ownerDone_keeps
    | with_reducible apply State.rxClear_keeps
    | with_reducible apply State.rxOpen_keeps
    | with_reducible apply State.strmClaim_keeps
    | with_reducible apply State.strmFinish_keeps
    | with_reducible apply State.setStrm_keeps
    | with_reducible apply State.txOpen_keeps
    | with_reducible refine State.Keeps.fst (by assumption) ?_
    | split

theorem State.strmStop_keeps {s0 : State} {s : State} {tx : Bool} {k : Nat} {o : Option CmdRef} (hk : s0.Keeps s) :
    s0.Keeps (State.strmStop s tx k o) := by
  unfold State.strmStop
  dsimp only
  repeat' first
    | with_reducible exact hk
    | with_reducible apply State.Keeps.ite
    | with_reducible apply State.ownerCancel_keeps
    | with_reducible apply State.ownerDone_keeps
    | with_reducible apply State.setStrm_keeps
    | with_reducible apply State.strmFinish_keeps
    | with_reducible apply State.strmHalt_keeps

theorem State.strmOff_keeps {s0 : State} {s : State} {tx : Bool} {k : Nat} (hk : s0.Keeps s) :
    s0.Keeps (State.strmOff s tx k) := by
  unfold State.strmOff
  dsimp only
  repeat' first
    | intro _
    | with_reducible exact hk
    | with_reducible assumption
    | with_reducible apply State.Keeps.ite
    | with_reducible apply State.admitOn_keeps
    | with_reducible apply State.finish_keeps
    | with_reducible apply forAll_keeps
    | with_reducible apply State.freeChans_keeps
    | with_reducible apply State.membership_keeps
    | with_reducible apply State.ownerCancel_keeps
    | with_reducible apply State.ownerDone_keeps
    | with_reducible apply State.wr_keeps
    | with_reducible apply State.setStrm_keeps
    | with_reducible apply State.strmRelease_keeps
    | simp only [State.Keeps.upd_iff]

theorem State.strmSuspend_keeps {s0 : State} {s : State} {tx : Bool} {k : Nat} (hk : s0.Keeps s) :
    s0.Keeps (State.strmSuspend s tx k) := by
  unfold State.strmSuspend
  dsimp only
  repeat' first
    | with_reducible exact hk
    | with_reducible apply State.Keeps.ite
    | with_reducible apply State.flagEvent_keeps
    | with_reducible apply State.wr_keeps
    | with_reducible apply State.strmHalt_keeps
    | with_reducible apply State.setStrm_keeps

theorem State.strmResume_keeps {s0 : State} {s : State} {tx : Bool} {k : Nat} (hk : s0.Keeps s) :
    s0.Keeps (State.strmResume s tx k) := by
  unfold State.strmResume
  extract_lets x s1
  have h1 : s0.Keeps s1 := State.setStrm_keeps (State.wrB_keeps hk)
  have h2 : s0.Keeps (s1.strmClaim tx k).1 := State.strmClaim_keeps h1
  clear_value s1
  apply State.Keeps.ite hk
  apply State.Keeps.ite h1
  split
  · rename_i s2 e
    exact State.Keeps.fst e h2
  · rename_i s2 e
    have h3 : s0.Keeps s2 := State.Keeps.fst e h2
    exact State.Keeps.ite (State.txOpen_keeps (State.admitOn_keeps (State.admitOn_keeps (State.freeChans_keeps h3))))
      (State.rxOpen_keeps (State.freeChans_keeps h3))

theorem State.strmShed_keeps {s0 : State} {s : State} {level : Nat} {all : Bool} (hk : s0.Keeps s) :
    s0.Keeps (State.strmShed s level all) := by
  unfold State.strmShed
  dsimp only
  repeat' first
    | intro _
    | with_reducible exact hk
    | with_reducible assumption
    | with_reducible apply State.Keeps.ite
    | with_reducible apply State.strmResume_keeps
    | with_reducible apply State.strmSuspend_keeps
    | with_reducible apply upTo_keeps

theorem State.strmActions_keeps {s0 : State} {s : State} {tx : Bool} {k : Nat} (hk : s0.Keeps s) :
    s0.Keeps (State.strmActions s tx k) := by
  unfold State.strmActions
  dsimp only
  repeat' first
    | intro _
    | with_reducible exact hk
    | with_reducible assumption
    | with_reducible apply State.Keeps.ite
    | with_reducible apply forAll_keeps
    | with_reducible apply State.ownerCancel_keeps
    | with_reducible apply State.setStrm_keeps
    | with_reducible apply State.strmStart_keeps
    | with_reducible apply State.strmStop_keeps

theorem State.strmFollow_keeps {s0 : State} {s : State} {tx : Bool} {k : Nat} (hk : s0.Keeps s) :
    s0.Keeps (State.strmFollow s tx k) := by
  unfold State.strmFollow
  dsimp only
  repeat' first
    | with_reducible exact hk
    | with_reducible apply State.Keeps.ite
    | with_reducible apply State.strmRelease_keeps
    | with_reducible apply State.setStrm_keeps
    | with_reducible apply State.strmHalt_keeps
    | with_reducible apply State.strmClaim_keeps
    | with_reducible refine State.Keeps.fst (by assumption) ?_
    | split

theorem State.strmProgress_keeps {s0 : State} {s : State} {tx : Bool} {k : Nat} (hk : s0.Keeps s) :
    s0.Keeps (State.strmProgress s tx k) := by
  unfold State.strmProgress
  dsimp only
  repeat' first
    | with_reducible exact hk
    | with_reducible apply State.Keeps.ite
    | with_reducible apply State.ownerDone_keeps
    | with_reducible apply State.setStrm_keeps
    | with_reducible apply State.strmOff_keeps
    | with_reducible apply State.txOpen_keeps
    | with_reducible apply State.wr_keeps
    | split

theorem State.netTick_keeps {s0 : State} {s : State} (hk : s0.Keeps s) :
    s0.Keeps (State.netTick s) := by
  unfold State.netTick
  dsimp only
  repeat' first
    | intro _
    | with_reducible exact hk
    | with_reducible assumption
    | with_reducible apply forAll_keeps
    | with_reducible apply State.setReg_keeps
    | with_reducible apply State.strmActions_keeps
    | with_reducible apply State.strmFollow_keeps
    | with_reducible apply State.strmProgress_keeps
    | simp only [State.Keeps.upd_iff]

theorem State.txCollect_keeps {s0 : State} {s : State} {k : Nat} (hk : s0.Keeps s) :
    s0.Keeps (State.txCollect s k) := by
  unfold State.txCollect
  dsimp only
  repeat' first
    | with_reducible exact hk
    | with_reducible apply State.Keeps.ite
    | with_reducible apply State.setStrm_keeps

theorem State.freeFrames_keeps {s0 : State} {s : State} {chans : Nat} {w0 : Nat} (hk : s0.Keeps s) :
    s0.Keeps (State.freeFrames s chans w0).1 := by
  induction w0 generalizing s chans with
  | zero => exact hk
  | succ _ ih =>
    unfold State.freeFrames
    dsimp only
    repeat' first
      | intro _
      | with_reducible exact hk
      | with_reducible assumption
      | with_reducible apply State.drawFree_keeps
      | with_reducible apply ih
      | with_reducible apply State.Keeps.foldlSnd

theorem execStreamPacketTransmit_keeps {s0 : State} {k : Fin 128} {s : State} (hk : s0.Keeps s) :
    Res.Keeps s0 (execStreamPacketTransmit k s) := by
  unfold execStreamPacketTransmit
  dsimp only
  repeat' first
    | with_reducible exact hk
    | with_reducible apply Res.Keeps.ofNext
    | with_reducible apply Res.Keeps.ite
    | with_reducible apply State.Keeps.ite
    | with_reducible apply State.Keeps.iteFst
    | with_reducible apply State.freeFrames_keeps
    | with_reducible apply State.setStrm_keeps
    | with_reducible apply State.wr_keeps
    | with_reducible apply State.send_keeps

theorem execStreamTxStopEnd_keeps {s0 : State} {k : Fin 128} {s : State} (hk : s0.Keeps s) :
    Res.Keeps s0 (execStreamTxStopEnd k s) := by
  unfold execStreamTxStopEnd
  repeat' first
    | with_reducible exact hk
    | with_reducible apply Res.Keeps.ofNext
    | with_reducible apply State.Keeps.ite
    | with_reducible apply State.strmOff_keeps

theorem State.badPkt_keeps {s0 : State} {s : State} (hk : s0.Keeps s) :
    s0.Keeps (State.badPkt s) := by
  unfold State.badPkt
  repeat' first
    | with_reducible exact hk
    | with_reducible apply State.set1_keeps

theorem State.rxStat_keeps {s0 : State} {s : State} {k : Nat} (hk : s0.Keeps s) :
    s0.Keeps (State.rxStat s k) := by
  unfold State.rxStat
  dsimp only
  repeat' first
    | with_reducible exact hk
    | with_reducible apply State.shWr_keeps
    | split

theorem State.placePkt_keeps {s0 : State} {s : State} {k : Nat} {p : StreamPkt} (hk : s0.Keeps s) :
    s0.Keeps (State.placePkt s k p) := by
  unfold State.placePkt
  dsimp only
  repeat' first
    | with_reducible exact hk
    | with_reducible apply State.setStrm_keeps

theorem State.mergePkt_keeps {s0 : State} {s : State} {k : Nat} {l : Nat} {p : StreamPkt} (hk : s0.Keeps s) :
    s0.Keeps (State.mergePkt s k l p) := by
  unfold State.mergePkt
  dsimp only
  repeat' first
    | with_reducible exact hk
    | with_reducible apply State.Keeps.ite
    | with_reducible apply State.badPkt_keeps
    | with_reducible apply State.placePkt_keeps
    | with_reducible apply State.set1_keeps
    | with_reducible apply State.shBump_keeps

theorem State.claimPkt_keeps {s0 : State} {s : State} {k : Nat} {tag : Option (Nat × BitVec 16)} (hk : s0.Keeps s) :
    s0.Keeps (State.claimPkt s k tag).1 := by
  unfold State.claimPkt
  dsimp only
  repeat' first
    | with_reducible exact hk
    | with_reducible apply State.Keeps.iteFst
    | with_reducible apply State.setStrm_keeps
    | split

theorem State.rxPacket_keeps {s0 : State} {s : State} {p : StreamPkt} (hk : s0.Keeps s) :
    s0.Keeps (State.rxPacket s p) := by
  unfold State.rxPacket
  dsimp only
  repeat' first
    | with_reducible exact hk
    | with_reducible apply State.Keeps.ite
    | with_reducible apply State.badPkt_keeps
    | with_reducible apply State.bump_keeps
    | with_reducible apply State.claimPkt_keeps
    | with_reducible apply State.mergePkt_keeps
    | with_reducible apply State.rxStat_keeps
    | with_reducible apply State.shWr_keeps
    | with_reducible apply State.shBump_keeps
    | with_reducible apply State.set1_keeps
    | with_reducible refine State.Keeps.fst (by assumption) ?_
    | split

theorem execStreamPacketReceived_keeps {s0 : State} {p : StreamPkt} {s : State} (hk : s0.Keeps s) :
    Res.Keeps s0 (execStreamPacketReceived p s) := by
  unfold execStreamPacketReceived
  repeat' first
    | with_reducible exact hk
    | with_reducible apply Res.Keeps.ofNext
    | with_reducible apply State.rxPacket_keeps

theorem execStreamRxTimeout_keeps {s0 : State} {k : Fin 128} {s : State} (hk : s0.Keeps s) :
    Res.Keeps s0 (execStreamRxTimeout k s) := by
  unfold execStreamRxTimeout
  dsimp only
  repeat' first
    | with_reducible exact hk
    | with_reducible apply Res.Keeps.ofNext
    | with_reducible apply State.Keeps.ite
    | with_reducible apply State.shWr_keeps
    | with_reducible apply State.setStrm_keeps

theorem execStreamUnitUnheard_keeps {s0 : State} {k : Fin 128} {u : BitVec 11} {s : State} (hk : s0.Keeps s) :
    Res.Keeps s0 (execStreamUnitUnheard k u s) := by
  unfold execStreamUnitUnheard
  dsimp only
  repeat' first
    | with_reducible exact hk
    | with_reducible apply Res.Keeps.ofNext
    | with_reducible apply State.rxStat_keeps
    | with_reducible apply State.setStrm_keeps

theorem execLegDown_keeps {s0 : State} {l : Fin 512} {s : State} (hk : s0.Keeps s) :
    Res.Keeps s0 (execLegDown l s) := by
  unfold execLegDown
  repeat' first
    | with_reducible exact hk
    | with_reducible apply Res.Keeps.ofNext
    | with_reducible apply State.Keeps.ite
    | with_reducible apply State.flagEvent_keeps
    | with_reducible apply State.rxStat_keeps
    | with_reducible apply State.shWr_keeps

theorem State.rxBlock_keeps {s0 : State} {s : State} {k : Nat} (hk : s0.Keeps s) :
    s0.Keeps (State.rxBlock s k).1 := by
  unfold State.rxBlock
  dsimp only
  repeat' first
    | intro _
    | with_reducible exact hk
    | with_reducible assumption
    | with_reducible apply State.Keeps.ite
    | with_reducible apply State.Keeps.iteFst
    | with_reducible apply State.setStrm_keeps
    | with_reducible apply State.shWr_keeps
    | with_reducible apply State.set1_keeps
    | with_reducible apply State.shBump_keeps
    | with_reducible apply upTo_keeps

theorem State.rxAsyncOpen_keeps {s0 : State} {s : State} {k : Nat} (hk : s0.Keeps s) :
    s0.Keeps (State.rxAsyncOpen s k) := by
  unfold State.rxAsyncOpen
  repeat' first
    | with_reducible exact hk
    | with_reducible apply State.Keeps.ite
    | with_reducible apply State.shWr_keeps

theorem State.portSuspend_keeps {s0 : State} {s : State} {k : Nat} {p : Nat} (hk : s0.Keeps s) :
    s0.Keeps (State.portSuspend s k p) := by
  unfold State.portSuspend
  dsimp only
  repeat' first
    | with_reducible exact hk
    | with_reducible apply State.Keeps.ite
    | with_reducible apply State.admitOn_keeps
    | with_reducible apply State.flagEvent_keeps
    | with_reducible apply State.wr_keeps
    | with_reducible apply State.strmHalt_keeps
    | with_reducible apply State.setStrm_keeps
    | simp only [State.Keeps.upd_iff]

theorem State.portFit_keeps {s0 : State} {s : State} {p : Nat} {w0 : List Nat} (hk : s0.Keeps s) :
    s0.Keeps (State.portFit s p w0) := by
  induction w0 generalizing s p with
  | nil => exact hk
  | cons _ _ ih =>
    unfold State.portFit
    repeat' first
      | with_reducible exact hk
      | with_reducible apply State.Keeps.ite
      | with_reducible apply State.portSuspend_keeps
      | with_reducible apply ih

theorem State.portResume_keeps {s0 : State} {s : State} {p : Nat} (hk : s0.Keeps s) :
    s0.Keeps (State.portResume s p) := by
  unfold State.portResume
  dsimp only
  repeat' first
    | intro _
    | with_reducible exact hk
    | with_reducible assumption
    | with_reducible apply State.Keeps.ite
    | with_reducible apply State.admitOn_keeps
    | with_reducible apply forAll_keeps
    | with_reducible apply State.freeChans_keeps
    | with_reducible apply State.setStrm_keeps
    | with_reducible apply State.wrB_keeps
    | with_reducible apply State.strmClaim_keeps
    | with_reducible apply State.txOpen_keeps
    | with_reducible refine State.Keeps.fst (by assumption) ?_
    | simp only [State.Keeps.upd_iff]
    | split

theorem State.phyWords_keeps {s0 : State} {s : State} {p : Nat} {link : Nat} (hk : s0.Keeps s) :
    s0.Keeps (State.phyWords s p link) := by
  unfold State.phyWords
  repeat' first
    | with_reducible exact hk
    | with_reducible apply State.Keeps.ite
    | with_reducible apply State.wr_keeps

theorem State.linkChange_keeps {s0 : State} {s : State} {p : Nat} {link : Nat} (hk : s0.Keeps s) :
    s0.Keeps (State.linkChange s p link) := by
  unfold State.linkChange
  dsimp only
  repeat' first
    | with_reducible exact hk
    | with_reducible apply State.Keeps.ite
    | with_reducible apply State.flagEvent_keeps
    | with_reducible apply State.phyWords_keeps
    | with_reducible apply State.portFit_keeps
    | with_reducible apply State.wr_keeps
    | with_reducible apply State.setReg_keeps
    | simp only [State.Keeps.upd_iff]

theorem execLinkSpeedChange_keeps {s0 : State} {netb : Bool} {link : Fin 3} {s : State} (hk : s0.Keeps s) :
    Res.Keeps s0 (execLinkSpeedChange netb link s) := by
  unfold execLinkSpeedChange
  repeat' first
    | with_reducible exact hk
    | with_reducible apply Res.Keeps.ofNext
    | with_reducible apply State.linkChange_keeps

theorem State.linkTick_keeps {s0 : State} {s : State} (hk : s0.Keeps s) :
    s0.Keeps (State.linkTick s) := by
  unfold State.linkTick
  repeat' first
    | intro _
    | with_reducible exact hk
    | with_reducible assumption
    | with_reducible apply forAll_keeps
    | with_reducible apply State.portResume_keeps

theorem execIgmpQueryReceived_keeps {s0 : State} {netb : Bool} {v2 : Bool} {s : State} (hk : s0.Keeps s) :
    Res.Keeps s0 (execIgmpQueryReceived netb v2 s) := by
  unfold execIgmpQueryReceived
  dsimp only
  repeat' first
    | with_reducible exact hk
    | with_reducible apply Res.Keeps.ofNext
    | with_reducible apply State.send_keeps
    | simp only [State.Keeps.upd_iff]

theorem execIgmpReportRepeat_keeps {s0 : State} {s : State} (hk : s0.Keeps s) :
    Res.Keeps s0 (execIgmpReportRepeat s) := by
  unfold execIgmpReportRepeat
  dsimp only
  repeat' first
    | with_reducible exact hk
    | with_reducible apply Res.Keeps.ofNext
    | with_reducible apply State.send_keeps
    | simp only [State.Keeps.upd_iff]

theorem execArpRequestReceived_keeps {s0 : State} {netb : Bool} {ip : Word} {s : State} (hk : s0.Keeps s) :
    Res.Keeps s0 (execArpRequestReceived netb ip s) := by
  unfold execArpRequestReceived
  dsimp only
  repeat' first
    | with_reducible exact hk
    | with_reducible apply Res.Keeps.ofNext
    | with_reducible apply State.send_keeps

theorem execSapAnnounce_keeps {s0 : State} {k : Fin 128} {s : State} (hk : s0.Keeps s) :
    Res.Keeps s0 (execSapAnnounce k s) := by
  unfold execSapAnnounce
  dsimp only
  repeat' first
    | with_reducible exact hk
    | with_reducible apply Res.Keeps.ofNext
    | with_reducible apply State.send_keeps

theorem execSapAnnounceReceived_keeps {s0 : State} {origin : Word} {text : List Byte} {delete : Bool} {s : State} (hk : s0.Keeps s) :
    Res.Keeps s0 (execSapAnnounceReceived origin text delete s) := by
  unfold execSapAnnounceReceived
  dsimp only
  repeat' first
    | with_reducible exact hk
    | with_reducible apply Res.Keeps.ofNext
    | with_reducible apply Res.Keeps.ite
    | simp only [State.Keeps.upd_iff]

theorem execSapEntryAgeOut_keeps {s0 : State} {i : Fin 256} {s : State} (hk : s0.Keeps s) :
    Res.Keeps s0 (execSapEntryAgeOut i s) := by
  unfold execSapEntryAgeOut
  dsimp only
  repeat' first
    | with_reducible exact hk
    | with_reducible apply Res.Keeps.ofNext
    | simp only [State.Keeps.upd_iff]

end Sys2Proof.Machine
end

