-- ==== Sys2Proof/Laws/KeepsClk.lean ====
section
/-! SUPPORT. What the operations of Machine/Clk.lean keep (`State.Keeps`): the queue and the canonical form of the stores. -/

namespace Sys2Proof.Machine

theorem State.gateSet_keeps {s0 : State} {s : State} {f : Fld} {k : Nat} {on : Bool} (hk : s0.Keeps s) :
    s0.Keeps (State.gateSet s f k on) := by
  unfold State.gateSet
  dsimp only
  repeat' first
    | with_reducible exact hk
    | with_reducible apply State.wr_keeps

theorem State.gateOpen_keeps {s0 : State} {s : State} {k : Nat} (hk : s0.Keeps s) :
    s0.Keeps (State.gateOpen s k) := by
  unfold State.gateOpen
  repeat' first
    | with_reducible exact hk
    | with_reducible apply State.gateSet_keeps

theorem State.gateClose_keeps {s0 : State} {s : State} {k : Nat} (hk : s0.Keeps s) :
    s0.Keeps (State.gateClose s k) := by
  unfold State.gateClose
  repeat' first
    | with_reducible exact hk
    | with_reducible apply State.gateSet_keeps

theorem State.gateBursts_keeps {s0 : State} {s : State} {k : Nat} (hk : s0.Keeps s) :
    s0.Keeps (State.gateBursts s k) := by
  unfold State.gateBursts
  dsimp only
  repeat' first
    | with_reducible exact hk
    | with_reducible apply State.Keeps.ite
    | simp only [State.Keeps.upd_iff]

theorem execClkGateReqWrite_keeps {s0 : State} {master : Master} {req : BitVec 10} {s : State} (hk : s0.Keeps s) :
    Res.Keeps s0 (execClkGateReqWrite master req s) := by
  unfold execClkGateReqWrite
  dsimp only
  repeat' first
    | intro _
    | with_reducible exact hk
    | with_reducible assumption
    | with_reducible apply Res.Keeps.ofNext
    | with_reducible apply State.Keeps.ite
    | with_reducible apply State.flagEvent_keeps
    | with_reducible apply State.gateOpen_keeps
    | with_reducible apply State.gateSet_keeps
    | with_reducible apply State.refuseWrite_keeps
    | with_reducible apply upTo_keeps

theorem execGateQuiescent_keeps {s0 : State} {k : Fin 10} {s : State} (hk : s0.Keeps s) :
    Res.Keeps s0 (execGateQuiescent k s) := by
  unfold execGateQuiescent
  repeat' first
    | with_reducible exact hk
    | with_reducible apply Res.Keeps.ofNext
    | with_reducible apply State.Keeps.ite
    | with_reducible apply State.gateClose_keeps

theorem execGateQuiesceTimeout_keeps {s0 : State} {k : Fin 10} {s : State} (hk : s0.Keeps s) :
    Res.Keeps s0 (execGateQuiesceTimeout k s) := by
  unfold execGateQuiesceTimeout
  repeat' first
    | with_reducible exact hk
    | with_reducible apply Res.Keeps.ofNext
    | with_reducible apply State.Keeps.ite
    | with_reducible apply State.flagEvent_keeps
    | with_reducible apply State.gateBursts_keeps
    | with_reducible apply State.gateClose_keeps

theorem execAfterglowOutOfRange_keeps {s0 : State} {khz : BitVec 13} {s : State} (hk : s0.Keeps s) :
    Res.Keeps s0 (execAfterglowOutOfRange khz s) := by
  unfold execAfterglowOutOfRange
  repeat' first
    | with_reducible exact hk
    | with_reducible apply Res.Keeps.ofNext
    | with_reducible apply State.flagEvent_keeps
    | with_reducible apply State.raiseCond_keeps
    | with_reducible apply State.wr_keeps

theorem execAfterglowBackInRange_keeps {s0 : State} {khz : BitVec 13} {s : State} (hk : s0.Keeps s) :
    Res.Keeps s0 (execAfterglowBackInRange khz s) := by
  unfold execAfterglowBackInRange
  repeat' first
    | with_reducible exact hk
    | with_reducible apply Res.Keeps.ofNext
    | with_reducible apply State.clearCond_keeps
    | with_reducible apply State.wr_keeps

end Sys2Proof.Machine
end

