-- ==== Sys2Proof/Laws/KeepsMsg.lean ====
section
/-! SUPPORT. What the operations of Machine/Msg.lean keep (`State.Keeps`): the queue and the canonical form of the stores. -/

namespace Sys2Proof.Machine

theorem State.setMsg_keeps {s0 : State} {s : State} {m : Nat} {x : MsgEntry} (hk : s0.Keeps s) :
    s0.Keeps (State.setMsg s m x) := by
  unfold State.setMsg
  dsimp only
  repeat' first
    | with_reducible exact hk
    | simp only [State.Keeps.upd_iff]

theorem State.pinSync_keeps {s0 : State} {s : State} (hk : s0.Keeps s) :
    s0.Keeps (State.pinSync s) := by
  unfold State.pinSync
  repeat' first
    | with_reducible exact hk
    | with_reducible apply State.wr_keeps

theorem State.msgConds_keeps {s0 : State} {s : State} {m : Nat} (hk : s0.Keeps s) :
    s0.Keeps (State.msgConds s m) := by
  unfold State.msgConds
  dsimp only
  repeat' first
    | with_reducible exact hk
    | with_reducible apply State.Keeps.ite
    | with_reducible apply State.clearCond_keeps
    | with_reducible apply State.raiseCond_keeps

theorem State.msgChanged_keeps {s0 : State} {s : State} {m : Nat} (hk : s0.Keeps s) :
    s0.Keeps (State.msgChanged s m) := by
  unfold State.msgChanged
  dsimp only
  repeat' first
    | intro _
    | with_reducible exact hk
    | with_reducible assumption
    | with_reducible apply forAll_keeps
    | with_reducible apply State.msgConds_keeps
    | with_reducible apply State.pinSync_keeps

theorem State.setPlayer_keeps {s0 : State} {s : State} {p : Nat} {x : Player} (hk : s0.Keeps s) :
    s0.Keeps (State.setPlayer s p x) := by
  unfold State.setPlayer
  dsimp only
  repeat' first
    | with_reducible exact hk
    | simp only [State.Keeps.upd_iff]

theorem State.playSync_keeps {s0 : State} {s : State} {p : Nat} (hk : s0.Keeps s) :
    s0.Keeps (State.playSync s p) := by
  unfold State.playSync
  dsimp only
  repeat' first
    | with_reducible exact hk
    | with_reducible apply State.wr_keeps
    | with_reducible apply State.wrB_keeps
    | split

theorem State.playStop_keeps {s0 : State} {s : State} {p : Nat} {status : Nat} (hk : s0.Keeps s) :
    s0.Keeps (State.playStop s p status) := by
  unfold State.playStop
  dsimp only
  repeat' first
    | with_reducible exact hk
    | with_reducible apply State.finish_keeps
    | with_reducible apply State.playSync_keeps
    | with_reducible apply State.setPlayer_keeps
    | split

theorem State.playBegin_keeps {s0 : State} {s : State} {p : Nat} {chain : Nat} {cls : Nat} {trig : Option Nat} {owner : Option CmdRef} {a : Word} (hk : s0.Keeps s) :
    s0.Keeps (State.playBegin s p chain cls trig owner a) := by
  unfold State.playBegin
  dsimp only
  repeat' first
    | with_reducible exact hk
    | with_reducible apply State.Keeps.ite
    | with_reducible apply State.flagEvent_keeps
    | with_reducible apply State.playStop_keeps
    | with_reducible apply State.playSync_keeps
    | with_reducible apply State.setPlayer_keeps
    | with_reducible apply State.wr_keeps
    | simp only [State.Keeps.upd_iff]

theorem State.playRefused_keeps {s0 : State} {s : State} {p : Nat} (hk : s0.Keeps s) :
    s0.Keeps (State.playRefused s p) := by
  unfold State.playRefused
  repeat' first
    | with_reducible exact hk
    | with_reducible apply State.flagEvent_keeps

theorem State.msgSample_keeps {s0 : State} {s : State} {m : Nat} {pos : Nat} (hk : s0.Keeps s) :
    s0.Keeps (State.msgSample s m pos).1 := by
  unfold State.msgSample
  dsimp only
  repeat' first
    | with_reducible exact hk
    | with_reducible apply State.Keeps.iteFst
    | with_reducible apply State.drawFree_keeps

theorem State.playAdvance_keeps {s0 : State} {s : State} {p : Nat} {r : PlayRun} (hk : s0.Keeps s) :
    s0.Keeps (State.playAdvance s p r).1 := by
  unfold State.playAdvance
  dsimp only
  repeat' first
    | with_reducible exact hk
    | with_reducible apply State.Keeps.iteFst
    | with_reducible apply State.event_keeps
    | with_reducible apply State.set1_keeps
    | split

theorem State.playSettle_keeps {s0 : State} {s : State} {p : Nat} {w0 : Nat} {w1 : PlayRun} (hk : s0.Keeps s) :
    s0.Keeps (State.playSettle s p w0 w1).1 := by
  induction w0 generalizing s p w1 with
  | zero => exact hk
  | succ _ ih =>
    unfold State.playSettle
    dsimp only
    repeat' first
      | with_reducible exact hk
      | with_reducible apply State.Keeps.iteFst
      | with_reducible apply State.playAdvance_keeps
      | with_reducible apply ih

theorem State.playGen_keeps {s0 : State} {s : State} {p : Nat} {w0 : Nat} {w1 : PlayRun} {w2 : List Word} (hk : s0.Keeps s) :
    s0.Keeps (State.playGen s p w0 w1 w2).1 := by
  induction w0 generalizing s p w1 w2 with
  | zero => exact hk
  | succ _ ih =>
    unfold State.playGen
    dsimp only
    repeat' first
      | with_reducible exact hk
      | with_reducible apply State.Keeps.iteFst
      | with_reducible apply State.msgSample_keeps
      | with_reducible apply State.playSettle_keeps
      | with_reducible apply ih

theorem State.playOver_keeps {s0 : State} {s : State} {p : Nat} (hk : s0.Keeps s) :
    s0.Keeps (State.playOver s p) := by
  unfold State.playOver
  dsimp only
  repeat' first
    | with_reducible exact hk
    | with_reducible apply State.Keeps.ite
    | with_reducible apply State.finish_keeps
    | with_reducible apply State.playSync_keeps
    | with_reducible apply State.setPlayer_keeps
    | split

theorem State.playBlock_keeps {s0 : State} {s : State} {p : Nat} (hk : s0.Keeps s) :
    s0.Keeps (State.playBlock s p).1 := by
  unfold State.playBlock
  dsimp only
  repeat' first
    | with_reducible exact hk
    | with_reducible apply State.Keeps.iteFst
    | with_reducible apply State.playGen_keeps
    | with_reducible apply State.playOver_keeps
    | with_reducible apply State.playSettle_keeps
    | with_reducible apply State.playSync_keeps
    | with_reducible apply State.setPlayer_keeps
    | split

theorem State.playFirst_keeps {s0 : State} {s : State} {p : Nat} (hk : s0.Keeps s) :
    s0.Keeps (State.playFirst s p) := by
  unfold State.playFirst
  dsimp only
  repeat' first
    | with_reducible exact hk
    | with_reducible apply State.playOver_keeps
    | with_reducible apply State.playSettle_keeps
    | with_reducible apply State.playSync_keeps
    | with_reducible apply State.setPlayer_keeps
    | split

theorem execPlayerFirstSample_keeps {s0 : State} {p : Fin 64} {s : State} (hk : s0.Keeps s) :
    Res.Keeps s0 (execPlayerFirstSample p s) := by
  unfold execPlayerFirstSample
  repeat' first
    | with_reducible exact hk
    | with_reducible apply Res.Keeps.ofNext
    | with_reducible apply State.Keeps.ite
    | with_reducible apply State.playFirst_keeps

theorem execChainStepAdvance_keeps {s0 : State} {p : Fin 64} {s : State} (hk : s0.Keeps s) :
    Res.Keeps s0 (execChainStepAdvance p s) := by
  unfold execChainStepAdvance
  dsimp only
  repeat' first
    | with_reducible exact hk
    | with_reducible apply Res.Keeps.ofNext
    | with_reducible apply Res.Keeps.ite
    | with_reducible apply State.playAdvance_keeps
    | with_reducible apply State.playGen_keeps
    | with_reducible apply State.playOver_keeps
    | with_reducible apply State.setPlayer_keeps
    | split

theorem execPlayerUnderrun_keeps {s0 : State} {p : Fin 64} {s : State} (hk : s0.Keeps s) :
    Res.Keeps s0 (execPlayerUnderrun p s) := by
  unfold execPlayerUnderrun
  dsimp only
  repeat' first
    | with_reducible exact hk
    | with_reducible apply Res.Keeps.ofNext
    | with_reducible apply Res.Keeps.ite
    | with_reducible apply State.bump_keeps
    | with_reducible apply State.flagEvent_keeps
    | with_reducible apply State.setPlayer_keeps
    | split

theorem State.playDue_keeps {s0 : State} {s : State} {a : Word} (hk : s0.Keeps s) :
    s0.Keeps (State.playDue s a) := by
  unfold State.playDue
  repeat' first
    | intro _
    | with_reducible exact hk
    | with_reducible assumption
    | with_reducible apply State.Keeps.ite
    | with_reducible apply forAll_keeps
    | with_reducible apply State.playFirst_keeps

theorem State.playShed_keeps {s0 : State} {s : State} {level : Nat} (hk : s0.Keeps s) :
    s0.Keeps (State.playShed s level) := by
  unfold State.playShed
  repeat' first
    | intro _
    | with_reducible exact hk
    | with_reducible assumption
    | with_reducible apply State.Keeps.ite
    | with_reducible apply forAll_keeps
    | with_reducible apply State.playStop_keeps
    | split

theorem State.playTrig_keeps {s0 : State} {s : State} {t : Nat} {player : Nat} {chain : Nat} {cls : Nat} {a : Word} (hk : s0.Keeps s) :
    s0.Keeps (State.playTrig s t player chain cls a) := by
  unfold State.playTrig
  dsimp only
  repeat' first
    | with_reducible exact hk
    | with_reducible apply State.Keeps.ite
    | with_reducible apply State.flagEvent_keeps
    | with_reducible apply State.playBegin_keeps
    | with_reducible apply State.playRefused_keeps
    | split

theorem State.playTrigStop_keeps {s0 : State} {s : State} {t : Nat} {player : Nat} (hk : s0.Keeps s) :
    s0.Keeps (State.playTrigStop s t player) := by
  unfold State.playTrigStop
  repeat' first
    | with_reducible exact hk
    | with_reducible apply State.Keeps.ite
    | with_reducible apply State.playStop_keeps
    | split

theorem execScanVerify_keeps {s0 : State} {item : ScanItem} {ok : Bool} {s : State} (hk : s0.Keeps s) :
    Res.Keeps s0 (execScanVerify item ok s) := by
  unfold execScanVerify
  dsimp only
  repeat' first
    | with_reducible exact hk
    | with_reducible apply Res.Keeps.ofNext
    | with_reducible apply Res.Keeps.ite
    | with_reducible apply State.Keeps.ite
    | with_reducible apply State.eventFree_keeps
    | with_reducible apply State.flagEvent_keeps
    | with_reducible apply State.msgChanged_keeps
    | with_reducible apply State.wr_keeps
    | with_reducible apply State.setMsg_keeps
    | split

theorem execScanPhaseEnd_keeps {s0 : State} {s : State} (hk : s0.Keeps s) :
    Res.Keeps s0 (execScanPhaseEnd s) := by
  unfold execScanPhaseEnd
  repeat' first
    | with_reducible exact hk
    | with_reducible apply Res.Keeps.ofNext
    | with_reducible apply State.wrapInc_keeps

end Sys2Proof.Machine
end

