-- ==== Sys2Proof/Laws/KeepsPlane.lean ====
section
/-! SUPPORT. What the operations of Machine/Plane.lean keep (`State.Keeps`): the queue and the canonical form of the stores. -/

namespace Sys2Proof.Machine

theorem State.commitStops_keeps {s0 : State} {s : State} {a : Word} (hk : s0.Keeps s) :
    s0.Keeps (State.commitStops s a) := by
  unfold State.commitStops
  repeat' first
    | intro _
    | with_reducible exact hk
    | with_reducible assumption
    | with_reducible apply State.finish_keeps
    | with_reducible apply forAll_keeps
    | with_reducible apply State.playStop_keeps

theorem State.trigAssert_keeps {s0 : State} {s : State} {t : Nat} {a : Word} (hk : s0.Keeps s) :
    s0.Keeps (State.trigAssert s t a) := by
  unfold State.trigAssert
  dsimp only
  repeat' first
    | intro _
    | with_reducible exact hk
    | with_reducible assumption
    | with_reducible apply State.Keeps.ite
    | with_reducible apply State.commitStops_keeps
    | with_reducible apply forAll_keeps
    | with_reducible apply State.playTrig_keeps
    | with_reducible apply State.resolveCol_keeps
    | with_reducible apply State.setTrig_keeps
    | with_reducible apply State.wr_keeps

theorem State.trigLetGo_keeps {s0 : State} {s : State} {t : Nat} {a : Word} (hk : s0.Keeps s) :
    s0.Keeps (State.trigLetGo s t a) := by
  unfold State.trigLetGo
  dsimp only
  repeat' first
    | intro _
    | with_reducible exact hk
    | with_reducible assumption
    | with_reducible apply forAll_keeps
    | with_reducible apply State.resolveCol_keeps
    | with_reducible apply State.setTrig_keeps

theorem State.trigRelease_keeps {s0 : State} {s : State} {t : Nat} {a : Word} (hk : s0.Keeps s) :
    s0.Keeps (State.trigRelease s t a) := by
  unfold State.trigRelease
  dsimp only
  repeat' first
    | with_reducible exact hk
    | with_reducible apply State.Keeps.ite
    | with_reducible apply State.playTrigStop_keeps
    | with_reducible apply State.setTrig_keeps
    | with_reducible apply State.wr_keeps
    | with_reducible apply State.trigLetGo_keeps

theorem execTriggerAssertion_keeps {s0 : State} {t : Fin 64} {s : State} (hk : s0.Keeps s) :
    Res.Keeps s0 (execTriggerAssertion t s) := by
  unfold execTriggerAssertion
  repeat' first
    | with_reducible exact hk
    | with_reducible apply Res.Keeps.ofNext
    | with_reducible apply State.Keeps.ite
    | with_reducible apply State.trigAssert_keeps

theorem execTriggerRelease_keeps {s0 : State} {t : Fin 64} {s : State} (hk : s0.Keeps s) :
    Res.Keeps s0 (execTriggerRelease t s) := by
  unfold execTriggerRelease
  repeat' first
    | with_reducible exact hk
    | with_reducible apply Res.Keeps.ofNext
    | with_reducible apply State.Keeps.ite
    | with_reducible apply State.trigRelease_keeps

theorem State.planeDue_keeps {s0 : State} {s : State} (hk : s0.Keeps s) :
    s0.Keeps (State.planeDue s) := by
  unfold State.planeDue
  dsimp only
  repeat' first
    | intro _
    | with_reducible exact hk
    | with_reducible assumption
    | with_reducible apply State.Keeps.ite
    | with_reducible apply forAll_keeps
    | with_reducible apply State.trigAssert_keeps
    | with_reducible apply State.trigRelease_keeps
    | with_reducible apply upTo_keeps

theorem State.suspendSync_keeps {s0 : State} {s : State} {a : Word} {level : Nat} (hk : s0.Keeps s) :
    s0.Keeps (State.suspendSync s a level) := by
  unfold State.suspendSync
  dsimp only
  repeat' first
    | intro _
    | with_reducible exact hk
    | with_reducible assumption
    | with_reducible apply State.Keeps.ite
    | with_reducible apply State.setTrig_keeps
    | with_reducible apply State.trigLetGo_keeps
    | with_reducible apply upTo_keeps

theorem execOvrForceRampEnd_keeps {s0 : State} {m : Fin 1024} {s : State} (hk : s0.Keeps s) :
    Res.Keeps s0 (execOvrForceRampEnd m s) := by
  unfold execOvrForceRampEnd
  repeat' first
    | with_reducible exact hk
    | with_reducible apply Res.Keeps.ofNext
    | with_reducible apply State.Keeps.ite
    | with_reducible apply State.forceRampEnd_keeps

theorem execOvrReleaseRampEnd_keeps {s0 : State} {m : Fin 1024} {s : State} (hk : s0.Keeps s) :
    Res.Keeps s0 (execOvrReleaseRampEnd m s) := by
  unfold execOvrReleaseRampEnd
  repeat' first
    | with_reducible exact hk
    | with_reducible apply Res.Keeps.ofNext
    | with_reducible apply State.Keeps.ite
    | with_reducible apply State.releaseRampEnd_keeps

theorem State.planeRamps_keeps {s0 : State} {s : State} (hk : s0.Keeps s) :
    s0.Keeps (State.planeRamps s) := by
  unfold State.planeRamps
  repeat' first
    | intro _
    | with_reducible exact hk
    | with_reducible assumption
    | with_reducible apply State.Keeps.ite
    | with_reducible apply forAll_keeps
    | with_reducible apply State.forceRampEnd_keeps
    | with_reducible apply State.releaseRampEnd_keeps

theorem execOvrCrcCheck_keeps {s0 : State} {bad1 : Bool} {bad2 : Bool} {s : State} (hk : s0.Keeps s) :
    Res.Keeps s0 (execOvrCrcCheck bad1 bad2 s) := by
  unfold execOvrCrcCheck
  repeat' first
    | with_reducible exact hk
    | with_reducible apply Res.Keeps.ofNext
    | with_reducible apply State.Keeps.ite
    | with_reducible apply State.flagEvent_keeps
    | with_reducible apply State.raiseCond_keeps
    | with_reducible apply State.startTest_keeps

theorem State.armKey_keeps {s0 : State} {s : State} {key : BitVec 16} (hk : s0.Keeps s) :
    s0.Keeps (State.armKey s key) := by
  unfold State.armKey
  repeat' first
    | with_reducible exact hk
    | with_reducible apply State.Keeps.ite
    | with_reducible apply State.arm_keeps
    | with_reducible apply State.keyFail_keeps

theorem execOvrArmWrite_keeps {s0 : State} {master : Master} {key : BitVec 16} {s : State} (hk : s0.Keeps s) :
    Res.Keeps s0 (execOvrArmWrite master key s) := by
  unfold execOvrArmWrite
  repeat' first
    | with_reducible exact hk
    | with_reducible apply Res.Keeps.ofNext
    | with_reducible apply State.Keeps.ite
    | with_reducible apply State.armKey_keeps
    | with_reducible apply State.wpEvent_keeps

theorem execOvrArmExpiry_keeps {s0 : State} {s : State} (hk : s0.Keeps s) :
    Res.Keeps s0 (execOvrArmExpiry s) := by
  unfold execOvrArmExpiry
  repeat' first
    | with_reducible exact hk
    | with_reducible apply Res.Keeps.ofNext
    | with_reducible apply State.Keeps.ite
    | with_reducible apply State.disarm_keeps
    | with_reducible apply State.flagEvent_keeps

theorem execOvrKeyLockoutEnd_keeps {s0 : State} {s : State} (hk : s0.Keeps s) :
    Res.Keeps s0 (execOvrKeyLockoutEnd s) := by
  unfold execOvrKeyLockoutEnd
  repeat' first
    | with_reducible exact hk
    | with_reducible apply Res.Keeps.ofNext
    | with_reducible apply State.wr_keeps

theorem execOvrCommitWrite_keeps {s0 : State} {master : Master} {resp : BitVec 16} {s : State} (hk : s0.Keeps s) :
    Res.Keeps s0 (execOvrCommitWrite master resp s) := by
  unfold execOvrCommitWrite
  repeat' first
    | with_reducible exact hk
    | with_reducible apply Res.Keeps.ofNext
    | with_reducible apply State.Keeps.ite
    | with_reducible apply State.commitFail_keeps
    | with_reducible apply State.commitPend_keeps
    | with_reducible apply State.wpEvent_keeps
    | split

theorem State.cinReload_keeps {s0 : State} {s : State} {a : Word} (hk : s0.Keeps s) :
    s0.Keeps (State.cinReload s a) := by
  unfold State.cinReload
  dsimp only
  repeat' first
    | intro _
    | with_reducible exact hk
    | with_reducible assumption
    | with_reducible apply State.Keeps.ite
    | with_reducible apply State.setTrig_keeps
    | with_reducible apply upTo_keeps

theorem State.takeCommit_keeps {s0 : State} {s : State} {a : Word} (hk : s0.Keeps s) :
    s0.Keeps (State.takeCommit s a) := by
  unfold State.takeCommit
  dsimp only
  repeat' first
    | intro _
    | with_reducible exact hk
    | with_reducible assumption
    | with_reducible apply State.Keeps.ite
    | with_reducible apply State.cinReload_keeps
    | with_reducible apply State.clearCond_keeps
    | with_reducible apply State.copyTable_keeps
    | with_reducible apply State.disarm_keeps
    | with_reducible apply State.finish_keeps
    | with_reducible apply State.flashEnqueue_keeps
    | with_reducible apply forAll_keeps
    | with_reducible apply State.resolve_keeps
    | with_reducible apply State.resolveCol_keeps
    | with_reducible apply State.wrapInc_keeps
    | with_reducible apply State.setOcol_keeps
    | with_reducible apply State.wr_keeps
    | simp only [State.Keeps.upd_iff]
    | split

theorem execOvrCommitTakeEffect_keeps {s0 : State} {s : State} (hk : s0.Keeps s) :
    Res.Keeps s0 (execOvrCommitTakeEffect s) := by
  unfold execOvrCommitTakeEffect
  repeat' first
    | with_reducible exact hk
    | with_reducible apply Res.Keeps.ofNext
    | with_reducible apply State.Keeps.ite
    | with_reducible apply State.takeCommit_keeps

end Sys2Proof.Machine
end

