-- ==== Sys2Proof/Laws/KeepsPair.lean ====
section
/-! SUPPORT. What the operations of Machine/Pair.lean keep (`State.Keeps`): the queue and the canonical form of the stores. -/

namespace Sys2Proof.Machine

theorem State.pairWr_keeps {s0 : State} {s : State} {f : Fld} {v : Nat} (hk : s0.Keeps s) :
    s0.Keeps (State.pairWr s f v) := by
  unfold State.pairWr
  dsimp only
  repeat' first
    | with_reducible exact hk
    | simp only [State.Keeps.upd_iff]

theorem State.pairBump_keeps {s0 : State} {s : State} {f : Fld} (hk : s0.Keeps s) :
    s0.Keeps (State.pairBump s f) := by
  unfold State.pairBump
  repeat' first
    | with_reducible exact hk
    | with_reducible apply State.pairWr_keeps

theorem State.pairFlag_keeps {s0 : State} {s : State} {f : Fld} (hk : s0.Keeps s) :
    s0.Keeps (State.pairFlag s f) := by
  unfold State.pairFlag
  dsimp only
  repeat' first
    | with_reducible exact hk
    | simp only [State.Keeps.upd_iff]

theorem State.pairFlush_keeps {s0 : State} {s : State} (hk : s0.Keeps s) :
    s0.Keeps (State.pairFlush s) := by
  unfold State.pairFlush
  dsimp only
  repeat' first
    | intro _
    | with_reducible exact hk
    | with_reducible assumption
    | with_reducible apply forAll_keeps
    | with_reducible apply State.setReg_keeps
    | simp only [State.Keeps.upd_iff]

theorem State.eventP_keeps {s0 : State} {s : State} {code : Nat} {p0 : Option Nat} {p1 : Option Nat} (hk : s0.Keeps s) :
    s0.Keeps (State.eventP s code p0 p1) := by
  unfold State.eventP
  dsimp only
  repeat' first
    | with_reducible exact hk
    | with_reducible apply State.drawFree_keeps
    | with_reducible apply State.event_keeps
    | simp only [State.Keeps.upd_iff]
    | split

theorem State.pairEvent_keeps {s0 : State} {s : State} {f : Fld} {detail : Nat} (hk : s0.Keeps s) :
    s0.Keeps (State.pairEvent s f detail) := by
  unfold State.pairEvent
  repeat' first
    | with_reducible exact hk
    | with_reducible apply State.event_keeps
    | with_reducible apply State.pairFlag_keeps

theorem State.setAstate_keeps {s0 : State} {s : State} {a : Nat} (hk : s0.Keeps s) :
    s0.Keeps (State.setAstate s a) := by
  unfold State.setAstate
  repeat' first
    | with_reducible exact hk
    | with_reducible apply State.wr_keeps

theorem State.orderCheck_keeps {s0 : State} {s : State} (hk : s0.Keeps s) :
    s0.Keeps (State.orderCheck s) := by
  unfold State.orderCheck
  dsimp only
  repeat' first
    | with_reducible exact hk
    | with_reducible apply State.Keeps.ite
    | simp only [State.Keeps.upd_iff]

theorem State.hearClaim_keeps {s0 : State} {s : State} {path : Nat} {c : BitVec 16} (hk : s0.Keeps s) :
    s0.Keeps (State.hearClaim s path c) := by
  unfold State.hearClaim
  dsimp only
  repeat' first
    | with_reducible exact hk
    | with_reducible apply State.orderCheck_keeps
    | simp only [State.Keeps.upd_iff]

theorem State.dropPath_keeps {s0 : State} {s : State} {path : Nat} (hk : s0.Keeps s) :
    s0.Keeps (State.dropPath s path) := by
  unfold State.dropPath
  dsimp only
  repeat' first
    | with_reducible exact hk
    | with_reducible apply State.orderCheck_keeps
    | simp only [State.Keeps.upd_iff]

theorem State.strapConflict_keeps {s0 : State} {s : State} (hk : s0.Keeps s) :
    s0.Keeps (State.strapConflict s) := by
  unfold State.strapConflict
  dsimp only
  repeat' first
    | with_reducible exact hk
    | with_reducible apply State.Keeps.ite
    | with_reducible apply State.eventP_keeps
    | simp only [State.Keeps.upd_iff]

theorem State.cancelPending_keeps {s0 : State} {s : State} (hk : s0.Keeps s) :
    s0.Keeps (State.cancelPending s) := by
  unfold State.cancelPending
  repeat' first
    | intro _
    | with_reducible exact hk
    | with_reducible assumption
    | with_reducible apply State.finish_keeps
    | with_reducible apply forAll_keeps

theorem State.leaveLockstep_keeps {s0 : State} {s : State} (hk : s0.Keeps s) :
    s0.Keeps (State.leaveLockstep s) := by
  unfold State.leaveLockstep
  dsimp only
  repeat' first
    | with_reducible exact hk
    | with_reducible apply State.setAstate_keeps
    | simp only [State.Keeps.upd_iff]

theorem State.attachFail_keeps {s0 : State} {s : State} (hk : s0.Keeps s) :
    s0.Keeps (State.attachFail s) := by
  unfold State.attachFail
  dsimp only
  repeat' first
    | with_reducible exact hk
    | with_reducible apply State.Keeps.ite
    | with_reducible apply State.finish_keeps
    | with_reducible apply State.pairEvent_keeps
    | with_reducible apply State.pairWr_keeps
    | with_reducible apply State.setAstate_keeps
    | simp only [State.Keeps.upd_iff]
    | split

theorem State.takeLead_keeps {s0 : State} {s : State} (hk : s0.Keeps s) :
    s0.Keeps (State.takeLead s) := by
  unfold State.takeLead
  dsimp only
  repeat' first
    | with_reducible exact hk
    | with_reducible apply State.eventP_keeps
    | with_reducible apply State.pairFlag_keeps
    | with_reducible apply State.setAstate_keeps
    | simp only [State.Keeps.upd_iff]

theorem State.giveLead_keeps {s0 : State} {s : State} {a : Word} (hk : s0.Keeps s) :
    s0.Keeps (State.giveLead s a) := by
  unfold State.giveLead
  dsimp only
  repeat' first
    | with_reducible exact hk
    | with_reducible apply State.eventP_keeps
    | with_reducible apply State.finish_keeps
    | with_reducible apply State.pairFlag_keeps
    | with_reducible apply State.setAstate_keeps
    | simp only [State.Keeps.upd_iff]
    | split

theorem State.roleDue_keeps {s0 : State} {s : State} {a : Word} (hk : s0.Keeps s) :
    s0.Keeps (State.roleDue s a) := by
  unfold State.roleDue
  dsimp only
  repeat' first
    | with_reducible exact hk
    | with_reducible apply State.Keeps.ite
    | with_reducible apply State.giveLead_keeps
    | with_reducible apply State.takeLead_keeps
    | simp only [State.Keeps.upd_iff]
    | split

theorem execHandoverTick_keeps {s0 : State} {s : State} (hk : s0.Keeps s) :
    Res.Keeps s0 (execHandoverTick s) := by
  unfold execHandoverTick
  repeat' first
    | with_reducible exact hk
    | with_reducible apply Res.Keeps.ofNext
    | with_reducible apply State.Keeps.ite
    | with_reducible apply State.roleDue_keeps

theorem State.queueTwin_keeps {s0 : State} {s : State} (hk : s0.Keeps s) :
    s0.Keeps (State.queueTwin s) := by
  unfold State.queueTwin
  dsimp only
  repeat' first
    | intro _
    | with_reducible exact hk
    | with_reducible assumption
    | with_reducible apply State.Keeps.ite
    | with_reducible apply upTo_keeps
    | simp only [State.Keeps.upd_iff]

theorem State.busTick_keeps {s0 : State} {s : State} (hk : s0.Keeps s) :
    s0.Keeps (State.busTick s) := by
  unfold State.busTick
  dsimp only
  repeat' first
    | with_reducible exact hk
    | with_reducible apply State.Keeps.ite
    | with_reducible apply State.queueTwin_keeps
    | simp only [State.Keeps.upd_iff]

theorem execCeilingFrameReceived_keeps {s0 : State} {f : CeilFrame} {s : State} (hk : s0.Keeps s) :
    Res.Keeps s0 (execCeilingFrameReceived f s) := by
  unfold execCeilingFrameReceived
  dsimp only
  repeat' first
    | with_reducible exact hk
    | with_reducible apply Res.Keeps.ofNext
    | with_reducible apply State.Keeps.ite
    | with_reducible apply State.hearClaim_keeps
    | with_reducible apply State.strapConflict_keeps
    | with_reducible apply State.twinRequest_keeps
    | simp only [State.Keeps.upd_iff]

theorem execCeilingFrameRetry_keeps {s0 : State} {line : Fin 2} {s : State} (hk : s0.Keeps s) :
    Res.Keeps s0 (execCeilingFrameRetry line s) := by
  unfold execCeilingFrameRetry
  dsimp only
  repeat' first
    | with_reducible exact hk
    | with_reducible apply Res.Keeps.ofNext
    | with_reducible apply State.Keeps.ite
    | simp only [State.Keeps.upd_iff]

theorem State.silence_keeps {s0 : State} {s : State} {a : Word} (hk : s0.Keeps s) :
    s0.Keeps (State.silence s a) := by
  unfold State.silence
  dsimp only
  repeat' first
    | with_reducible exact hk
    | with_reducible apply State.Keeps.ite
    | with_reducible apply State.eventP_keeps
    | with_reducible apply State.orderCheck_keeps
    | simp only [State.Keeps.upd_iff]
    | split

theorem execPartnerSilence_keeps {s0 : State} {s : State} (hk : s0.Keeps s) :
    Res.Keeps s0 (execPartnerSilence s) := by
  unfold execPartnerSilence
  repeat' first
    | with_reducible exact hk
    | with_reducible apply Res.Keeps.ofNext
    | with_reducible apply State.Keeps.ite
    | with_reducible apply State.silence_keeps

theorem execPairLineLost_keeps {s0 : State} {line : Fin 2} {s : State} (hk : s0.Keeps s) :
    Res.Keeps s0 (execPairLineLost line s) := by
  unfold execPairLineLost
  dsimp only
  repeat' first
    | with_reducible exact hk
    | with_reducible apply Res.Keeps.ofNext
    | with_reducible apply State.Keeps.ite
    | with_reducible apply State.dropPath_keeps
    | with_reducible apply State.eventP_keeps
    | with_reducible apply State.raiseCond_keeps
    | simp only [State.Keeps.upd_iff]

theorem State.pathBack_keeps {s0 : State} {s : State} (hk : s0.Keeps s) :
    s0.Keeps (State.pathBack s) := by
  unfold State.pathBack
  dsimp only
  repeat' first
    | with_reducible exact hk
    | with_reducible apply State.dropPath_keeps
    | simp only [State.Keeps.upd_iff]

theorem execPairLineRecover_keeps {s0 : State} {line : Fin 2} {s : State} (hk : s0.Keeps s) :
    Res.Keeps s0 (execPairLineRecover line s) := by
  unfold execPairLineRecover
  dsimp only
  repeat' first
    | with_reducible exact hk
    | with_reducible apply Res.Keeps.ofNext
    | with_reducible apply State.Keeps.ite
    | with_reducible apply State.clearCond_keeps
    | with_reducible apply State.pathBack_keeps
    | simp only [State.Keeps.upd_iff]

theorem execBeaconSend_keeps {s0 : State} {netb : Bool} {s : State} (hk : s0.Keeps s) :
    Res.Keeps s0 (execBeaconSend netb s) := by
  unfold execBeaconSend
  dsimp only
  repeat' first
    | with_reducible exact hk
    | with_reducible apply Res.Keeps.ofNext
    | with_reducible apply State.Keeps.ite
    | with_reducible apply State.send_keeps
    | simp only [State.Keeps.upd_iff]

theorem execBeaconReceived_keeps {s0 : State} {_netb : Bool} {bytes : List Byte} {gap : Bool} {s : State} (hk : s0.Keeps s) :
    Res.Keeps s0 (execBeaconReceived _netb bytes gap s) := by
  unfold execBeaconReceived
  dsimp only
  repeat' first
    | with_reducible exact hk
    | with_reducible apply Res.Keeps.ofNext
    | with_reducible apply State.Keeps.ite
    | with_reducible apply State.hearClaim_keeps
    | with_reducible apply State.strapConflict_keeps
    | simp only [State.Keeps.upd_iff]

theorem execBeaconHeartbeatLost_keeps {s0 : State} {s : State} (hk : s0.Keeps s) :
    Res.Keeps s0 (execBeaconHeartbeatLost s) := by
  unfold execBeaconHeartbeatLost
  dsimp only
  repeat' first
    | with_reducible exact hk
    | with_reducible apply Res.Keeps.ofNext
    | with_reducible apply State.Keeps.ite
    | with_reducible apply State.dropPath_keeps
    | with_reducible apply State.eventP_keeps
    | simp only [State.Keeps.upd_iff]

theorem execDriveSenseProbe_keeps {s0 : State} {out : SharedOut} {driver : Option Bool} {s : State} (hk : s0.Keeps s) :
    Res.Keeps s0 (execDriveSenseProbe out driver s) := by
  unfold execDriveSenseProbe
  dsimp only
  repeat' first
    | with_reducible exact hk
    | with_reducible apply Res.Keeps.ofNext
    | with_reducible apply State.Keeps.ite
    | simp only [State.Keeps.upd_iff]

theorem execDriveTaken_keeps {s0 : State} {out : SharedOut} {s : State} (hk : s0.Keeps s) :
    Res.Keeps s0 (execDriveTaken out s) := by
  unfold execDriveTaken
  dsimp only
  repeat' first
    | with_reducible exact hk
    | with_reducible apply Res.Keeps.ofNext
    | with_reducible apply State.Keeps.ite
    | with_reducible apply State.eventP_keeps
    | simp only [State.Keeps.upd_iff]

theorem execDriveConflict_keeps {s0 : State} {out : SharedOut} {s : State} (hk : s0.Keeps s) :
    Res.Keeps s0 (execDriveConflict out s) := by
  unfold execDriveConflict
  dsimp only
  repeat' first
    | with_reducible exact hk
    | with_reducible apply Res.Keeps.ofNext
    | with_reducible apply State.Keeps.ite
    | with_reducible apply State.eventP_keeps
    | with_reducible apply State.raiseCond_keeps
    | simp only [State.Keeps.upd_iff]

theorem State.pulse_keeps {s0 : State} {s : State} {auto : Bool} (hk : s0.Keeps s) :
    s0.Keeps (State.pulse s auto) := by
  unfold State.pulse
  dsimp only
  repeat' first
    | with_reducible exact hk
    | with_reducible apply State.eventP_keeps
    | simp only [State.Keeps.upd_iff]

theorem execTwpcAutoPulse_keeps {s0 : State} {s : State} (hk : s0.Keeps s) :
    Res.Keeps s0 (execTwpcAutoPulse s) := by
  unfold execTwpcAutoPulse
  dsimp only
  repeat' first
    | with_reducible exact hk
    | with_reducible apply Res.Keeps.ofNext
    | with_reducible apply State.Keeps.ite
    | with_reducible apply State.pulse_keeps

theorem execTwpcHoldLapse_keeps {s0 : State} {s : State} (hk : s0.Keeps s) :
    Res.Keeps s0 (execTwpcHoldLapse s) := by
  unfold execTwpcHoldLapse
  dsimp only
  repeat' first
    | with_reducible exact hk
    | with_reducible apply Res.Keeps.ofNext
    | simp only [State.Keeps.upd_iff]

theorem State.claimTick_keeps {s0 : State} {s : State} (hk : s0.Keeps s) :
    s0.Keeps (State.claimTick s) := by
  unfold State.claimTick
  dsimp only
  repeat' first
    | with_reducible exact hk
    | with_reducible apply State.busTick_keeps
    | with_reducible apply State.orderCheck_keeps
    | with_reducible apply State.wr_keeps
    | with_reducible apply State.wrB_keeps
    | simp only [State.Keeps.upd_iff]

end Sys2Proof.Machine
end

