-- ==== Sys2Proof/Laws/KeepsLink.lean ====
section
/-! SUPPORT. What the operations of Machine/Link.lean keep (`State.Keeps`): the queue and the canonical form of the stores. -/

namespace Sys2Proof.Machine

theorem execSundogLanesLock_keeps {s0 : State} {lanes : BitVec 4} {latency : BitVec 16} {s : State} (hk : s0.Keeps s) :
    Res.Keeps s0 (execSundogLanesLock lanes latency s) := by
  unfold execSundogLanesLock
  dsimp only
  repeat' first
    | with_reducible exact hk
    | with_reducible apply Res.Keeps.ofNext
    | with_reducible apply State.Keeps.ite
    | with_reducible apply State.pairWr_keeps

theorem execSundogLinkUp_keeps {s0 : State} {s : State} (hk : s0.Keeps s) :
    Res.Keeps s0 (execSundogLinkUp s) := by
  unfold execSundogLinkUp
  dsimp only
  repeat' first
    | with_reducible exact hk
    | with_reducible apply Res.Keeps.ofNext
    | with_reducible apply State.Keeps.ite
    | with_reducible apply State.pairWr_keeps
    | with_reducible apply State.pathBack_keeps
    | with_reducible apply State.refPresence_keeps

theorem State.linkFalls_keeps {s0 : State} {s : State} (hk : s0.Keeps s) :
    s0.Keeps (State.linkFalls s) := by
  unfold State.linkFalls
  dsimp only
  repeat' first
    | intro _
    | with_reducible exact hk
    | with_reducible assumption
    | with_reducible apply State.dropPath_keeps
    | with_reducible apply State.eventP_keeps
    | with_reducible apply forAll_keeps
    | with_reducible apply State.pairFlag_keeps
    | with_reducible apply State.pairWr_keeps
    | with_reducible apply State.refPresence_keeps
    | with_reducible apply State.startTest_keeps

theorem execLinkDown_keeps {s0 : State} {s : State} (hk : s0.Keeps s) :
    Res.Keeps s0 (execLinkDown s) := by
  unfold execLinkDown
  repeat' first
    | with_reducible exact hk
    | with_reducible apply Res.Keeps.ofNext
    | with_reducible apply State.Keeps.ite
    | with_reducible apply State.linkFalls_keeps

theorem execSundogAck_keeps {s0 : State} {ok : Bool} {s : State} (hk : s0.Keeps s) :
    Res.Keeps s0 (execSundogAck ok s) := by
  unfold execSundogAck
  repeat' first
    | with_reducible exact hk
    | with_reducible apply Res.Keeps.ofNext
    | with_reducible apply State.Keeps.ite
    | with_reducible apply State.pairBump_keeps

theorem execInput_keeps {s0 : State} {cyc : Word} {pos : Fin 32} {words : List Word} {bias : Option (List (Fin 4))} {s : State} (hk : s0.Keeps s) :
    Res.Keeps s0 (execInput cyc pos words bias s) := by
  unfold execInput
  dsimp only
  repeat' first
    | with_reducible exact hk
    | with_reducible apply Res.Keeps.ofNext
    | with_reducible apply State.Keeps.ite
    | simp only [State.Keeps.upd_iff]

theorem execCycleClose_keeps {s0 : State} {cyc : Word} {inputs : Fin 33} {s : State} (hk : s0.Keeps s) :
    Res.Keeps s0 (execCycleClose cyc inputs s) := by
  unfold execCycleClose
  dsimp only
  repeat' first
    | with_reducible exact hk
    | with_reducible apply Res.Keeps.ofNext
    | with_reducible apply State.Keeps.ite
    | simp only [State.Keeps.upd_iff]

theorem execCycleOpen_keeps {s0 : State} {f : CycleOpen} {s : State} (hk : s0.Keeps s) :
    Res.Keeps s0 (execCycleOpen f s) := by
  unfold execCycleOpen
  dsimp only
  repeat' first
    | with_reducible exact hk
    | with_reducible apply Res.Keeps.ofNext
    | with_reducible apply State.Keeps.ite
    | with_reducible apply State.hearClaim_keeps
    | with_reducible apply State.strapConflict_keeps
    | simp only [State.Keeps.upd_iff]

theorem execStateFrame_keeps {s0 : State} {region : BitVec 16} {offset : Word} {bytes : List Byte} {s : State} (hk : s0.Keeps s) :
    Res.Keeps s0 (execStateFrame region offset bytes s) := by
  unfold execStateFrame
  dsimp only
  repeat' first
    | with_reducible exact hk
    | with_reducible apply Res.Keeps.ofNext
    | with_reducible apply State.Keeps.ite
    | simp only [State.Keeps.upd_iff]
    | split

theorem execSig_keeps {s0 : State} {sigs : List (BitVec 64)} {s : State} (hk : s0.Keeps s) :
    Res.Keeps s0 (execSig sigs s) := by
  unfold execSig
  dsimp only
  repeat' first
    | with_reducible exact hk
    | with_reducible apply Res.Keeps.ofNext
    | with_reducible apply Res.Keeps.fault
    | with_reducible apply Res.Keeps.ite
    | with_reducible apply State.Keeps.ite
    | simp only [State.Keeps.upd_iff]

theorem State.misTests_keeps {s0 : State} {s : State} {kind : Nat} {groups : Nat} {region : Nat} (hk : s0.Keeps s) :
    s0.Keeps (State.misTests s kind groups region) := by
  unfold State.misTests
  dsimp only
  repeat' first
    | intro _
    | with_reducible exact hk
    | with_reducible assumption
    | with_reducible apply State.Keeps.ite
    | with_reducible apply forAll_keeps
    | with_reducible apply State.startTest_keeps
    | split

theorem State.mismatch_keeps {s0 : State} {s : State} {kind : Nat} {groups : Nat} {region : Nat} (hk : s0.Keeps s) :
    s0.Keeps (State.mismatch s kind groups region) := by
  unfold State.mismatch
  dsimp only
  repeat' first
    | with_reducible exact hk
    | with_reducible apply State.Keeps.ite
    | with_reducible apply State.attachFail_keeps
    | with_reducible apply State.eventP_keeps
    | with_reducible apply State.misTests_keeps
    | with_reducible apply State.set1_keeps
    | with_reducible apply State.setReg_keeps
    | with_reducible apply State.wr_keeps
    | simp only [State.Keeps.upd_iff]
    | split

theorem State.verdictDue_keeps {s0 : State} {s : State} {a : Word} (hk : s0.Keeps s) :
    s0.Keeps (State.verdictDue s a) := by
  unfold State.verdictDue
  dsimp only
  repeat' first
    | with_reducible exact hk
    | with_reducible apply State.Keeps.ite
    | simp only [State.Keeps.upd_iff]
    | split

theorem State.demote_keeps {s0 : State} {s : State} (hk : s0.Keeps s) :
    s0.Keeps (State.demote s) := by
  unfold State.demote
  dsimp only
  repeat' first
    | with_reducible exact hk
    | with_reducible apply State.Keeps.ite
    | with_reducible apply State.pairEvent_keeps
    | with_reducible apply State.setAstate_keeps
    | simp only [State.Keeps.upd_iff]

theorem State.decisionDue_keeps {s0 : State} {s : State} {a : Word} (hk : s0.Keeps s) :
    s0.Keeps (State.decisionDue s a) := by
  unfold State.decisionDue
  dsimp only
  repeat' first
    | with_reducible exact hk
    | with_reducible apply State.Keeps.ite
    | with_reducible apply State.demote_keeps
    | with_reducible apply State.wr_keeps
    | simp only [State.Keeps.upd_iff]
    | split

theorem execPairVerdict_keeps {s0 : State} {s : State} (hk : s0.Keeps s) :
    Res.Keeps s0 (execPairVerdict s) := by
  unfold execPairVerdict
  repeat' first
    | with_reducible exact hk
    | with_reducible apply Res.Keeps.ofNext
    | with_reducible apply State.verdictDue_keeps

theorem execPairDecision_keeps {s0 : State} {s : State} (hk : s0.Keeps s) :
    Res.Keeps s0 (execPairDecision s) := by
  unfold execPairDecision
  repeat' first
    | with_reducible exact hk
    | with_reducible apply Res.Keeps.ofNext
    | with_reducible apply State.decisionDue_keeps

theorem execAttachStart_keeps {s0 : State} {peer : PeerInfo} {s : State} (hk : s0.Keeps s) :
    Res.Keeps s0 (execAttachStart peer s) := by
  unfold execAttachStart
  dsimp only
  repeat' first
    | with_reducible exact hk
    | with_reducible apply Res.Keeps.ofNext
    | with_reducible apply State.Keeps.ite
    | with_reducible apply State.eventP_keeps
    | with_reducible apply State.finish_keeps
    | with_reducible apply State.pairFlag_keeps
    | with_reducible apply State.pairWr_keeps
    | simp only [State.Keeps.upd_iff]
    | split

theorem execBulk_keeps {s0 : State} {item : BulkItem} {s : State} (hk : s0.Keeps s) :
    Res.Keeps s0 (execBulk item s) := by
  unfold execBulk
  repeat' first
    | with_reducible exact hk
    | with_reducible apply Res.Keeps.ofNext
    | with_reducible apply State.Keeps.ite
    | with_reducible apply State.attachFail_keeps
    | with_reducible apply State.setBytes_keeps
    | with_reducible apply State.setGain_keeps
    | with_reducible apply State.setReg_keeps
    | split

theorem execBulkCopyComplete_keeps {s0 : State} {cut : Word} {st : Fin 8} {s : State} (hk : s0.Keeps s) :
    Res.Keeps s0 (execBulkCopyComplete cut st s) := by
  unfold execBulkCopyComplete
  dsimp only
  repeat' first
    | with_reducible exact hk
    | with_reducible apply Res.Keeps.ofNext
    | with_reducible apply State.Keeps.ite
    | with_reducible apply State.pairWr_keeps
    | simp only [State.Keeps.upd_iff]
    | split

theorem State.attachEnter_keeps {s0 : State} {s : State} (hk : s0.Keeps s) :
    s0.Keeps (State.attachEnter s) := by
  unfold State.attachEnter
  dsimp only
  repeat' first
    | with_reducible exact hk
    | with_reducible apply State.Keeps.ite
    | with_reducible apply State.cancelPending_keeps
    | with_reducible apply State.setAstate_keeps
    | simp only [State.Keeps.upd_iff]
    | split

theorem State.cutover_keeps {s0 : State} {s : State} {a : Word} (hk : s0.Keeps s) :
    s0.Keeps (State.cutover s a) := by
  unfold State.cutover
  dsimp only
  repeat' first
    | with_reducible exact hk
    | with_reducible apply State.Keeps.ite
    | with_reducible apply State.finish_keeps
    | with_reducible apply State.goto_keeps
    | with_reducible apply State.setAstate_keeps
    | with_reducible apply State.setReg_keeps
    | simp only [State.Keeps.upd_iff]
    | split

theorem execCutoverTick_keeps {s0 : State} {s : State} (hk : s0.Keeps s) :
    Res.Keeps s0 (execCutoverTick s) := by
  unfold execCutoverTick
  repeat' first
    | with_reducible exact hk
    | with_reducible apply Res.Keeps.ofNext
    | with_reducible apply State.cutover_keeps

theorem State.promoteStandby_keeps {s0 : State} {s : State} (hk : s0.Keeps s) :
    s0.Keeps (State.promoteStandby s) := by
  unfold State.promoteStandby
  repeat' first
    | with_reducible exact hk
    | with_reducible apply State.Keeps.ite
    | with_reducible apply State.setAstate_keeps

theorem State.promoteHome_keeps {s0 : State} {s : State} (hk : s0.Keeps s) :
    s0.Keeps (State.promoteHome s) := by
  unfold State.promoteHome
  dsimp only
  repeat' first
    | with_reducible exact hk
    | with_reducible apply State.setAstate_keeps
    | simp only [State.Keeps.upd_iff]

theorem execStandbyPromotion_keeps {s0 : State} {s : State} (hk : s0.Keeps s) :
    Res.Keeps s0 (execStandbyPromotion s) := by
  unfold execStandbyPromotion
  repeat' first
    | with_reducible exact hk
    | with_reducible apply Res.Keeps.ofNext
    | with_reducible apply State.promoteStandby_keeps

theorem execReclaimPromotion_keeps {s0 : State} {s : State} (hk : s0.Keeps s) :
    Res.Keeps s0 (execReclaimPromotion s) := by
  unfold execReclaimPromotion
  repeat' first
    | with_reducible exact hk
    | with_reducible apply Res.Keeps.ofNext
    | with_reducible apply State.Keeps.ite
    | with_reducible apply State.promoteHome_keeps

theorem State.lockstepEnds_keeps {s0 : State} {s : State} (hk : s0.Keeps s) :
    s0.Keeps (State.lockstepEnds s) := by
  unfold State.lockstepEnds
  repeat' first
    | with_reducible exact hk
    | with_reducible apply State.Keeps.ite
    | with_reducible apply State.leaveLockstep_keeps
    | with_reducible apply State.pairBump_keeps
    | with_reducible apply State.pairEvent_keeps

theorem State.attachEnds_keeps {s0 : State} {s : State} (hk : s0.Keeps s) :
    s0.Keeps (State.attachEnds s) := by
  unfold State.attachEnds
  dsimp only
  repeat' first
    | with_reducible exact hk
    | with_reducible apply State.Keeps.ite
    | with_reducible apply State.finish_keeps
    | with_reducible apply State.setAstate_keeps
    | simp only [State.Keeps.upd_iff]
    | split

theorem State.pairDue_keeps {s0 : State} {s : State} {a : Word} (hk : s0.Keeps s) :
    s0.Keeps (State.pairDue s a) := by
  unfold State.pairDue
  dsimp only
  repeat' first
    | with_reducible exact hk
    | with_reducible apply State.Keeps.ite
    | with_reducible apply State.attachEnds_keeps
    | with_reducible apply State.attachEnter_keeps
    | with_reducible apply State.cutover_keeps
    | with_reducible apply State.decisionDue_keeps
    | with_reducible apply State.lockstepEnds_keeps
    | with_reducible apply State.roleDue_keeps
    | with_reducible apply State.silence_keeps
    | with_reducible apply State.verdictDue_keeps

theorem State.compareFrames_keeps {s0 : State} {s : State} (hk : s0.Keeps s) :
    s0.Keeps (State.compareFrames s) := by
  unfold State.compareFrames
  dsimp only
  repeat' first
    | with_reducible exact hk
    | with_reducible apply State.Keeps.ite
    | with_reducible apply State.bump_keeps
    | with_reducible apply State.mismatch_keeps
    | split

theorem State.pairTick_keeps {s0 : State} {s : State} (hk : s0.Keeps s) :
    s0.Keeps (State.pairTick s) := by
  unfold State.pairTick
  dsimp only
  repeat' first
    | with_reducible exact hk
    | with_reducible apply State.Keeps.ite
    | with_reducible apply State.bump_keeps
    | with_reducible apply State.claimTick_keeps
    | with_reducible apply State.compareFrames_keeps
    | with_reducible apply State.flagEvent_keeps
    | with_reducible apply State.pairFlush_keeps
    | with_reducible apply State.promoteHome_keeps
    | with_reducible apply State.promoteStandby_keeps
    | with_reducible apply State.wr_keeps
    | simp only [State.Keeps.upd_iff]

end Sys2Proof.Machine
end

