-- ==== Sys2Proof/Laws/KeepsPtp.lean ====
section
/-! SUPPORT. What the operations of Machine/Ptp.lean keep (`State.Keeps`): the queue and the canonical form of the stores. -/

namespace Sys2Proof.Machine

theorem State.setPtpPort_keeps {s0 : State} {s : State} {p : Nat} {x : PtpPort} (hk : s0.Keeps s) :
    s0.Keeps (State.setPtpPort s p x) := by
  unfold State.setPtpPort
  dsimp only
  repeat' first
    | with_reducible exact hk
    | simp only [State.Keeps.upd_iff]

theorem State.servoGo_keeps {s0 : State} {s : State} {v : Nat} (hk : s0.Keeps s) :
    s0.Keeps (State.servoGo s v) := by
  unfold State.servoGo
  repeat' first
    | with_reducible exact hk
    | with_reducible apply State.refPresence_keeps
    | with_reducible apply State.wr_keeps

theorem State.servoLost_keeps {s0 : State} {s : State} (hk : s0.Keeps s) :
    s0.Keeps (State.servoLost s) := by
  unfold State.servoLost
  repeat' first
    | with_reducible exact hk
    | with_reducible apply State.Keeps.ite
    | with_reducible apply State.servoGo_keeps

theorem State.diverge_keeps {s0 : State} {s : State} {off : Int} (hk : s0.Keeps s) :
    s0.Keeps (State.diverge s off) := by
  unfold State.diverge
  dsimp only
  repeat' first
    | with_reducible exact hk
    | with_reducible apply State.bump_keeps
    | with_reducible apply State.event_keeps
    | with_reducible apply State.set1_keeps
    | with_reducible apply State.servoGo_keeps
    | with_reducible apply State.setReg_keeps
    | simp only [State.Keeps.upd_iff]

theorem State.planStep_keeps {s0 : State} {s : State} {a : Word} {amount : Int} {re : Bool} {o : Option CmdRef} (hk : s0.Keeps s) :
    s0.Keeps (State.planStep s a amount re o) := by
  unfold State.planStep
  dsimp only
  repeat' first
    | with_reducible exact hk
    | simp only [State.Keeps.upd_iff]

theorem State.freeRate_keeps {s0 : State} {s : State} (hk : s0.Keeps s) :
    s0.Keeps (State.freeRate s).1 := by
  unfold State.freeRate
  dsimp only
  repeat' first
    | with_reducible exact hk
    | with_reducible apply State.drawFree_keeps

theorem State.servoMeasure_keeps {s0 : State} {s : State} {off : Int} {mpd : Int} (hk : s0.Keeps s) :
    s0.Keeps (State.servoMeasure s off mpd) := by
  unfold State.servoMeasure
  dsimp only
  repeat' first
    | with_reducible exact hk
    | with_reducible apply State.Keeps.ite
    | with_reducible apply State.Keeps.iteFst
    | with_reducible apply State.diverge_keeps
    | with_reducible apply State.freeRate_keeps
    | with_reducible apply State.planStep_keeps
    | with_reducible apply State.servoGo_keeps
    | simp only [State.Keeps.upd_iff]

theorem State.setGm_keeps {s0 : State} {s : State} {gm : BitVec 64} (hk : s0.Keeps s) :
    s0.Keeps (State.setGm s gm) := by
  unfold State.setGm
  repeat' first
    | with_reducible exact hk
    | with_reducible apply State.Keeps.ite
    | with_reducible apply State.flagEvent_keeps
    | with_reducible apply State.setReg_keeps

theorem State.becomeSlave_keeps {s0 : State} {s : State} {p : Nat} {st : Nat} (hk : s0.Keeps s) :
    s0.Keeps (State.becomeSlave s p st) := by
  unfold State.becomeSlave
  dsimp only
  repeat' first
    | with_reducible exact hk
    | with_reducible apply State.Keeps.ite
    | with_reducible apply State.flagEvent_keeps
    | with_reducible apply State.wr_keeps
    | with_reducible apply State.servoGo_keeps

theorem State.bmca_keeps {s0 : State} {s : State} (hk : s0.Keeps s) :
    s0.Keeps (State.bmca s) := by
  unfold State.bmca
  dsimp only
  repeat' first
    | with_reducible exact hk
    | with_reducible apply State.Keeps.ite
    | with_reducible apply State.becomeSlave_keeps
    | with_reducible apply State.servoLost_keeps
    | with_reducible apply State.setGm_keeps
    | with_reducible apply State.wr_keeps
    | split

theorem State.ptpRestart_keeps {s0 : State} {s : State} (hk : s0.Keeps s) :
    s0.Keeps (State.ptpRestart s) := by
  unfold State.ptpRestart
  dsimp only
  repeat' first
    | with_reducible exact hk
    | with_reducible apply State.setPtpPort_keeps
    | with_reducible apply State.wr_keeps

theorem State.ptpMeasured_keeps {s0 : State} {s : State} {p : Nat} {tms : Int} (hk : s0.Keeps s) :
    s0.Keeps (State.ptpMeasured s p tms) := by
  unfold State.ptpMeasured
  dsimp only
  repeat' first
    | with_reducible exact hk
    | with_reducible apply State.Keeps.ite
    | with_reducible apply State.becomeSlave_keeps
    | with_reducible apply State.setPtpPort_keeps
    | with_reducible apply State.wr_keeps
    | with_reducible apply State.servoMeasure_keeps
    | with_reducible apply State.setReg_keeps
    | simp only [State.Keeps.upd_iff]

theorem State.ptpMessage_keeps {s0 : State} {s : State} {p : Nat} {m : PtpMsg} (hk : s0.Keeps s) :
    s0.Keeps (State.ptpMessage s p m) := by
  unfold State.ptpMessage
  dsimp only
  repeat' first
    | with_reducible exact hk
    | with_reducible apply State.Keeps.ite
    | with_reducible apply State.bmca_keeps
    | with_reducible apply State.bump_keeps
    | with_reducible apply State.ptpMeasured_keeps
    | with_reducible apply State.send_keeps
    | with_reducible apply State.setPtpPort_keeps
    | with_reducible apply State.setReg_keeps
    | split

theorem execPtpMessageReceived_keeps {s0 : State} {port : Fin 2} {domain : BitVec 8} {m : PtpMsg} {s : State} (hk : s0.Keeps s) :
    Res.Keeps s0 (execPtpMessageReceived port domain m s) := by
  unfold execPtpMessageReceived
  repeat' first
    | with_reducible exact hk
    | with_reducible apply Res.Keeps.ofNext
    | with_reducible apply Res.Keeps.ite
    | with_reducible apply State.bump_keeps
    | with_reducible apply State.ptpMessage_keeps
    | split

theorem execPtpMessageSend_keeps {s0 : State} {port : Fin 2} {k : PtpSend} {stamp : BitVec 64} {s : State} (hk : s0.Keeps s) :
    Res.Keeps s0 (execPtpMessageSend port k stamp s) := by
  unfold execPtpMessageSend
  dsimp only
  repeat' first
    | with_reducible exact hk
    | with_reducible apply Res.Keeps.ofNext
    | with_reducible apply Res.Keeps.ite
    | with_reducible apply State.send_keeps
    | with_reducible apply State.setPtpPort_keeps

theorem execAnnounceTimeout_keeps {s0 : State} {port : Fin 2} {s : State} (hk : s0.Keeps s) :
    Res.Keeps s0 (execAnnounceTimeout port s) := by
  unfold execAnnounceTimeout
  dsimp only
  repeat' first
    | with_reducible exact hk
    | with_reducible apply Res.Keeps.ofNext
    | with_reducible apply Res.Keeps.ite
    | with_reducible apply State.bmca_keeps
    | with_reducible apply State.setPtpPort_keeps
    | with_reducible apply State.wr_keeps
    | with_reducible apply State.servoLost_keeps

theorem State.stepTime_keeps {s0 : State} {s : State} {a : Word} {amount : Int} {o : Option CmdRef} (hk : s0.Keeps s) :
    s0.Keeps (State.stepTime s a amount o) := by
  unfold State.stepTime
  dsimp only
  repeat' first
    | intro _
    | with_reducible exact hk
    | with_reducible assumption
    | with_reducible apply State.Keeps.ite
    | with_reducible apply State.event_keeps
    | with_reducible apply forAll_keeps
    | with_reducible apply State.set1_keeps
    | with_reducible apply State.servoGo_keeps
    | with_reducible apply State.setReg_keeps
    | with_reducible apply State.setStrm_keeps
    | simp only [State.Keeps.upd_iff]

theorem State.stepTick_keeps {s0 : State} {s : State} {a : Word} (hk : s0.Keeps s) :
    s0.Keeps (State.stepTick s a) := by
  unfold State.stepTick
  repeat' first
    | with_reducible exact hk
    | with_reducible apply State.Keeps.ite
    | with_reducible apply State.stepTime_keeps
    | split

theorem execServoStep_keeps {s0 : State} {s : State} (hk : s0.Keeps s) :
    Res.Keeps s0 (execServoStep s) := by
  unfold execServoStep
  repeat' first
    | with_reducible exact hk
    | with_reducible apply Res.Keeps.ofNext
    | with_reducible apply State.stepTick_keeps

theorem execAutoRestep_keeps {s0 : State} {s : State} (hk : s0.Keeps s) :
    Res.Keeps s0 (execAutoRestep s) := by
  unfold execAutoRestep
  repeat' first
    | with_reducible exact hk
    | with_reducible apply Res.Keeps.ofNext
    | with_reducible apply State.Keeps.ite
    | with_reducible apply State.planStep_keeps

theorem State.advanceTime_keeps {s0 : State} {s : State} {ns : Word} (hk : s0.Keeps s) :
    s0.Keeps (State.advanceTime s ns) := by
  unfold State.advanceTime
  dsimp only
  repeat' first
    | with_reducible exact hk
    | with_reducible apply State.setReg_keeps
    | simp only [State.Keeps.upd_iff]

theorem State.ptpTick_keeps {s0 : State} {s : State} (hk : s0.Keeps s) :
    s0.Keeps (State.ptpTick s) := by
  unfold State.ptpTick
  dsimp only
  repeat' first
    | with_reducible exact hk
    | with_reducible apply State.Keeps.ite
    | with_reducible apply State.finish_keeps
    | with_reducible apply State.setReg_keeps
    | simp only [State.Keeps.upd_iff]
    | split

theorem execPtpDtimeLoRead_keeps {s0 : State} {s : State} (hk : s0.Keeps s) :
    Res.Keeps s0 (execPtpDtimeLoRead s) := by
  unfold execPtpDtimeLoRead
  dsimp only
  repeat' first
    | with_reducible exact hk
    | with_reducible apply Res.Keeps.ofNext
    | with_reducible apply State.setReg_keeps
    | simp only [State.Keeps.upd_iff]

theorem execPtpStepLoRead_keeps {s0 : State} {s : State} (hk : s0.Keeps s) :
    Res.Keeps s0 (execPtpStepLoRead s) := by
  unfold execPtpStepLoRead
  dsimp only
  repeat' first
    | with_reducible exact hk
    | with_reducible apply Res.Keeps.ofNext
    | with_reducible apply State.setReg_keeps
    | simp only [State.Keeps.upd_iff]

end Sys2Proof.Machine
end

