-- ==== Sys2Proof/Laws/KeepsReset.lean ====
section
/-! SUPPORT. What the operations of Machine/Reset.lean keep (`State.Keeps`): the queue and the canonical form of the stores. -/

namespace Sys2Proof.Machine

theorem State.setOldest_keeps {s0 : State} {s : State} {w0 : List LogEntry} (hk : s0.Keeps s) :
    s0.Keeps (State.setOldest s w0) := by
  induction w0 generalizing s with
  | nil => exact hk
  | cons _ _ ih =>
    unfold State.setOldest
    dsimp only
    repeat' first
      | with_reducible exact hk
      | with_reducible apply State.setReg_keeps

theorem State.flushLog_keeps {s0 : State} {s : State} (hk : s0.Keeps s) :
    s0.Keeps (State.flushLog s) := by
  unfold State.flushLog
  dsimp only
  repeat' first
    | with_reducible exact hk
    | with_reducible apply State.wr_keeps
    | with_reducible apply State.setOldest_keeps
    | simp only [State.Keeps.upd_iff]

theorem execLogFlush_keeps {s0 : State} {s : State} (hk : s0.Keeps s) :
    Res.Keeps s0 (execLogFlush s) := by
  unfold execLogFlush
  repeat' first
    | with_reducible exact hk
    | with_reducible apply Res.Keeps.ofNext
    | with_reducible apply State.flushLog_keeps

theorem State.keepWords_keeps {s0 : State} {s : State} {old : State} {l : List Nat} (hk : s0.Keeps s) :
    s0.Keeps (State.keepWords s old l) := by
  unfold State.keepWords
  repeat' first
    | intro _
    | with_reducible exact hk
    | with_reducible assumption
    | with_reducible apply forAll_keeps
    | with_reducible apply State.setReg_keeps

theorem State.bootState_keeps {s0 : State} {s : State} {powerOn warm : Bool} (hk : s0.Keeps s) :
    s0.Keeps (State.bootState s powerOn warm) := by
  unfold State.bootState
  dsimp only
  repeat' first
    | with_reducible apply State.wr_keeps
    | with_reducible apply State.wrB_keeps
    | with_reducible apply State.bump_keeps
    | with_reducible apply State.setReg_keeps
    | with_reducible apply State.set1_keeps
    | with_reducible apply State.keepWords_keeps
    | with_reducible apply State.Keeps.ite
  all_goals
    refine hk.cleared rfl rfl ?_ rfl
    cases warm
    · exact Or.inr rfl
    · exact Or.inl rfl

theorem State.toBoot_keeps {s0 : State} {s : State} {cause : Nat} {powerOn : Bool} {warm : Bool} {step : Nat} (hk : s0.Keeps s) :
    s0.Keeps (State.toBoot s cause powerOn warm step) := by
  unfold State.toBoot
  dsimp only
  repeat' first
    | with_reducible exact hk
    | with_reducible apply State.Keeps.ite
    | with_reducible apply State.bootState_keeps
    | with_reducible apply State.wr_keeps
    | with_reducible apply State.wrapInc_keeps
    | simp only [State.Keeps.upd_iff]

theorem State.deviceReset_keeps {s0 : State} {s : State} {cause : Nat} (hk : s0.Keeps s) :
    s0.Keeps (State.deviceReset s cause) := by
  unfold State.deviceReset
  dsimp only
  repeat' first
    | with_reducible exact hk
    | with_reducible apply State.flushLog_keeps
    | with_reducible apply State.toBoot_keeps

theorem State.railsOff_keeps {s0 : State} {s : State} (hk : s0.Keeps s) :
    s0.Keeps (State.railsOff s) := by
  unfold State.railsOff
  dsimp only
  repeat' first
    | with_reducible exact hk
    | with_reducible apply State.bootState_keeps
    | with_reducible apply State.wr_keeps
    | simp only [State.Keeps.upd_iff]

theorem State.toOff_keeps {s0 : State} {s : State} {powerLost : Bool} (hk : s0.Keeps s) :
    s0.Keeps (State.toOff s powerLost) := by
  unfold State.toOff
  dsimp only
  repeat' first
    | with_reducible exact hk
    | with_reducible apply State.bootState_keeps
    | with_reducible apply State.wr_keeps
    | simp only [State.Keeps.upd_iff]

end Sys2Proof.Machine
end

