-- ==== Sys2Proof/Laws/KeepsFault.lean ====
section
/-! SUPPORT. What the operations of Machine/Fault.lean keep (`State.Keeps`): the queue and the canonical form of the stores. -/

namespace Sys2Proof.Machine

theorem State.clearCores_keeps {s0 : State} {s : State} {n : Nat} (hk : s0.Keeps s) :
    s0.Keeps (State.clearCores s n) := by
  unfold State.clearCores
  dsimp only
  repeat' first
    | with_reducible exact hk
    | simp only [State.Keeps.upd_iff]

theorem State.hold_keeps {s0 : State} {s : State} {f : Nat} (hk : s0.Keeps s) :
    s0.Keeps (State.hold s f) := by
  unfold State.hold
  dsimp only
  repeat' first
    | with_reducible exact hk
    | with_reducible apply State.Keeps.ite
    | with_reducible apply State.clearCores_keeps
    | with_reducible apply State.event_keeps
    | with_reducible apply State.wr_keeps
    | simp only [State.Keeps.upd_iff]

theorem State.takeStep_keeps {s0 : State} {s : State} {step : Nat} {f : Nat} (hk : s0.Keeps s) :
    s0.Keeps (State.takeStep s step f) := by
  unfold State.takeStep
  dsimp only
  repeat' first
    | with_reducible exact hk
    | with_reducible apply State.Keeps.ite
    | with_reducible apply State.deviceReset_keeps
    | with_reducible apply State.event_keeps
    | with_reducible apply State.railsOff_keeps
    | simp only [State.Keeps.upd_iff]

theorem State.autoStep_keeps {s0 : State} {s : State} {step : Nat} {f : Nat} (hk : s0.Keeps s) :
    s0.Keeps (State.autoStep s step f) := by
  unfold State.autoStep
  dsimp only
  repeat' first
    | with_reducible exact hk
    | with_reducible apply State.Keeps.ite
    | with_reducible apply State.event_keeps
    | with_reducible apply State.raiseCond_keeps
    | with_reducible apply State.takeStep_keeps
    | simp only [State.Keeps.upd_iff]

theorem State.funcReinit_keeps {s0 : State} {s : State} {f : Nat} (hk : s0.Keeps s) :
    s0.Keeps (State.funcReinit s f) := by
  unfold State.funcReinit
  dsimp only
  repeat' first
    | with_reducible exact hk
    | with_reducible apply State.Keeps.ite
    | with_reducible apply State.autoStep_keeps
    | with_reducible apply State.hold_keeps
    | with_reducible apply State.setAstate_keeps
    | simp only [State.Keeps.upd_iff]

theorem State.reinitTick_keeps {s0 : State} {s : State} (hk : s0.Keeps s) :
    s0.Keeps (State.reinitTick s) := by
  unfold State.reinitTick
  dsimp only
  repeat' first
    | with_reducible exact hk
    | with_reducible apply State.Keeps.ite
    | with_reducible apply State.funcReinit_keeps
    | with_reducible apply State.setAstate_keeps
    | simp only [State.Keeps.upd_iff]
    | split

theorem State.funcRestart_keeps {s0 : State} {s : State} {f : Nat} (hk : s0.Keeps s) :
    s0.Keeps (State.funcRestart s f) := by
  unfold State.funcRestart
  dsimp only
  repeat' first
    | intro _
    | with_reducible exact hk
    | with_reducible assumption
    | with_reducible apply State.Keeps.ite
    | with_reducible apply State.decStart_keeps
    | with_reducible apply forAll_keeps
    | with_reducible apply State.initRegion_keeps
    | with_reducible apply State.loadBanks_keeps
    | with_reducible apply State.spHalt_keeps
    | with_reducible apply State.trkMove_keeps
    | with_reducible apply State.wr_keeps
    | with_reducible apply State.setPort_keeps
    | with_reducible apply State.setQuad_keeps
    | simp only [State.Keeps.upd_iff]
    | split

theorem execFuncRestart_keeps {s0 : State} {func : BitVec 8} {s : State} (hk : s0.Keeps s) :
    Res.Keeps s0 (execFuncRestart func s) := by
  unfold execFuncRestart
  repeat' first
    | with_reducible exact hk
    | with_reducible apply Res.Keeps.ofNext
    | with_reducible apply State.Keeps.ite
    | with_reducible apply State.funcRestart_keeps

theorem State.takeSpare_keeps {s0 : State} {s : State} {i : Nat} {l : Nat} {fenced : Bool} (hk : s0.Keeps s) :
    s0.Keeps (State.takeSpare s i l fenced) := by
  unfold State.takeSpare
  repeat' first
    | with_reducible exact hk
    | with_reducible apply State.wr_keeps
    | with_reducible apply State.wrB_keeps

theorem State.laneStandIn_keeps {s0 : State} {s : State} {l : Nat} (hk : s0.Keeps s) :
    s0.Keeps (State.laneStandIn s l) := by
  unfold State.laneStandIn
  repeat' first
    | with_reducible exact hk
    | with_reducible apply State.Keeps.ite
    | with_reducible apply State.raiseCond_keeps
    | with_reducible apply State.takeSpare_keeps
    | split

theorem State.spareTick_keeps {s0 : State} {s : State} (hk : s0.Keeps s) :
    s0.Keeps (State.spareTick s) := by
  unfold State.spareTick
  dsimp only
  repeat' first
    | intro _
    | with_reducible exact hk
    | with_reducible assumption
    | with_reducible apply State.Keeps.ite
    | with_reducible apply State.clearCond_keeps
    | with_reducible apply forAll_keeps
    | with_reducible apply State.raiseCond_keeps
    | with_reducible apply State.setReg_keeps
    | with_reducible apply State.takeSpare_keeps
    | with_reducible apply upTo_keeps
    | split

theorem State.fenceWord_keeps {s0 : State} {s : State} {k : TestKind} {mem : Nat} {res : Nat} {word : Nat} (hk : s0.Keeps s) :
    s0.Keeps (State.fenceWord s k mem res word) := by
  unfold State.fenceWord
  dsimp only
  repeat' first
    | with_reducible exact hk
    | with_reducible apply State.Keeps.ite
    | with_reducible apply State.event_keeps
    | with_reducible apply State.funcReinit_keeps
    | with_reducible apply State.raiseCond_keeps
    | with_reducible apply State.setBytes_keeps
    | with_reducible apply State.startTest_keeps
    | with_reducible apply State.Keeps.updCoef
    | simp only [State.Keeps.upd_iff]
    | split

theorem State.fenceOne_keeps {s0 : State} {s : State} {k : TestKind} {res : Nat} {word : Nat} (hk : s0.Keeps s) :
    s0.Keeps (State.fenceOne s k res word) := by
  unfold State.fenceOne
  dsimp only
  repeat' first
    | with_reducible exact hk
    | with_reducible apply State.Keeps.ite
    | with_reducible apply State.clearCond_keeps
    | with_reducible apply State.eventP_keeps
    | with_reducible apply State.fenceWord_keeps
    | with_reducible apply State.funcReinit_keeps
    | with_reducible apply State.linkFalls_keeps
    | with_reducible apply State.raiseCond_keeps
    | with_reducible apply State.pairWr_keeps
    | with_reducible apply State.setReg_keeps
    | with_reducible apply State.takeSpare_keeps
    | with_reducible apply State.startTest_keeps
    | simp only [State.Keeps.upd_iff]
    | split

theorem State.fenceAll_keeps {s0 : State} {s : State} (hk : s0.Keeps s) :
    s0.Keeps (State.fenceAll s) := by
  unfold State.fenceAll
  dsimp only
  repeat' first
    | intro _
    | with_reducible exact hk
    | with_reducible assumption
    | with_reducible apply State.fenceOne_keeps
    | with_reducible apply forAll_keeps
    | simp only [State.Keeps.upd_iff]

theorem execFence_keeps {s0 : State} {s : State} (hk : s0.Keeps s) :
    Res.Keeps s0 (execFence s) := by
  unfold execFence
  repeat' first
    | with_reducible exact hk
    | with_reducible apply Res.Keeps.ofNext
    | with_reducible apply State.fenceAll_keeps

theorem State.addTransients_keeps {s0 : State} {s : State} {k : TestKind} {res : Nat} {w0 : Nat} (hk : s0.Keeps s) :
    s0.Keeps (State.addTransients s k res w0).1 := by
  induction w0 generalizing s k res with
  | zero => exact hk
  | succ _ ih =>
    unfold State.addTransients
    dsimp only
    repeat' first
      | with_reducible exact hk
      | with_reducible apply State.addTransient_keeps
      | with_reducible apply ih

theorem execSelftestDone_keeps {s0 : State} {kind : Fin 8} {res : BitVec 18} {pass : Bool} {word : Word} {s : State} (hk : s0.Keeps s) :
    Res.Keeps s0 (execSelftestDone kind res pass word s) := by
  unfold execSelftestDone
  dsimp only
  repeat' first
    | with_reducible exact hk
    | with_reducible apply Res.Keeps.ofNext
    | with_reducible apply State.Keeps.ite
    | with_reducible apply State.Keeps.iteFst
    | with_reducible apply State.addTransients_keeps
    | with_reducible apply State.event_keeps
    | with_reducible apply State.finish_keeps
    | with_reducible apply State.markLasting_keeps
    | simp only [State.Keeps.upd_iff]
    | split

theorem execLadderStep_keeps {s0 : State} {step : Fin 6} {func : BitVec 8} {s : State} (hk : s0.Keeps s) :
    Res.Keeps s0 (execLadderStep step func s) := by
  unfold execLadderStep
  dsimp only
  repeat' first
    | with_reducible exact hk
    | with_reducible apply Res.Keeps.ofNext
    | with_reducible apply State.autoStep_keeps
    | with_reducible apply State.event_keeps
    | with_reducible apply State.funcReinit_keeps
    | with_reducible apply State.raiseCond_keeps
    | split

theorem State.releaseHeld_keeps {s0 : State} {s : State} (hk : s0.Keeps s) :
    s0.Keeps (State.releaseHeld s) := by
  unfold State.releaseHeld
  dsimp only
  repeat' first
    | with_reducible exact hk
    | with_reducible apply State.Keeps.ite
    | with_reducible apply State.clearCond_keeps
    | with_reducible apply State.takeStep_keeps
    | simp only [State.Keeps.upd_iff]
    | split

theorem execLadderHeldRelease_keeps {s0 : State} {s : State} (hk : s0.Keeps s) :
    Res.Keeps s0 (execLadderHeldRelease s) := by
  unfold execLadderHeldRelease
  repeat' first
    | with_reducible exact hk
    | with_reducible apply Res.Keeps.ofNext
    | with_reducible apply State.releaseHeld_keeps

theorem State.abandon_keeps {s0 : State} {s : State} {m : Master} {target : Nat} {addr : Word} (hk : s0.Keeps s) :
    s0.Keeps (State.abandon s m target addr) := by
  unfold State.abandon
  dsimp only
  repeat' first
    | with_reducible exact hk
    | with_reducible apply State.bump_keeps
    | with_reducible apply State.event_keeps
    | with_reducible apply State.set1_keeps
    | simp only [State.Keeps.upd_iff]

theorem State.cpStop_keeps {s0 : State} {s : State} {trap : Bool} (hk : s0.Keeps s) :
    s0.Keeps (State.cpStop s trap) := by
  unfold State.cpStop
  dsimp only
  repeat' first
    | with_reducible exact hk
    | with_reducible apply State.Keeps.ite
    | with_reducible apply State.event_keeps
    | with_reducible apply State.raiseCond_keeps
    | with_reducible apply State.servoLost_keeps
    | simp only [State.Keeps.upd_iff]

theorem execCpWatchdogExpiry_keeps {s0 : State} {s : State} (hk : s0.Keeps s) :
    Res.Keeps s0 (execCpWatchdogExpiry s) := by
  unfold execCpWatchdogExpiry
  repeat' first
    | with_reducible exact hk
    | with_reducible apply Res.Keeps.ofNext
    | with_reducible apply State.cpStop_keeps

theorem execCpTrap_keeps {s0 : State} {s : State} (hk : s0.Keeps s) :
    Res.Keeps s0 (execCpTrap s) := by
  unfold execCpTrap
  repeat' first
    | with_reducible exact hk
    | with_reducible apply Res.Keeps.ofNext
    | with_reducible apply State.cpStop_keeps

theorem State.cpRestart_keeps {s0 : State} {s : State} (hk : s0.Keeps s) :
    s0.Keeps (State.cpRestart s) := by
  unfold State.cpRestart
  dsimp only
  repeat' first
    | intro _
    | with_reducible exact hk
    | with_reducible assumption
    | with_reducible apply State.Keeps.ite
    | with_reducible apply State.autoStep_keeps
    | with_reducible apply State.clearCond_keeps
    | with_reducible apply State.eventP_keeps
    | with_reducible apply State.finish_keeps
    | with_reducible apply forAll_keeps
    | with_reducible apply State.setBytes_keeps
    | with_reducible apply State.set1_keeps
    | simp only [State.Keeps.upd_iff]

theorem execCpRestart_keeps {s0 : State} {s : State} (hk : s0.Keeps s) :
    Res.Keeps s0 (execCpRestart s) := by
  unfold execCpRestart
  repeat' first
    | with_reducible exact hk
    | with_reducible apply Res.Keeps.ofNext
    | with_reducible apply State.cpRestart_keeps

end Sys2Proof.Machine
end

