-- ==== Sys2Proof/Laws/KeepsAna.lean ====
section
/-! SUPPORT. What the operations of Machine/Ana.lean keep (`State.Keeps`): the queue and the canonical form of the stores. -/

namespace Sys2Proof.Machine

theorem State.setWalk_keeps {s0 : State} {s : State} {n : Nat} {w : GainWalk} (hk : s0.Keeps s) :
    s0.Keeps (State.setWalk s n w) := by
  unfold State.setWalk
  dsimp only
  repeat' first
    | with_reducible exact hk
    | simp only [State.Keeps.upd_iff]

theorem State.gainWrite_keeps {s0 : State} {s : State} {n : Nat} {g : Nat} {o : Option CmdRef} (hk : s0.Keeps s) :
    s0.Keeps (State.gainWrite s n g o) := by
  unfold State.gainWrite
  dsimp only
  repeat' first
    | with_reducible exact hk
    | with_reducible apply State.Keeps.ite
    | with_reducible apply State.ownerCancel_keeps
    | with_reducible apply State.ownerDone_keeps
    | with_reducible apply State.wr_keeps
    | with_reducible apply State.setWalk_keeps

theorem execAnaGainWrite_keeps {s0 : State} {m : Master} {n : Fin 8} {gain : BitVec 6} {s : State} (hk : s0.Keeps s) :
    Res.Keeps s0 (execAnaGainWrite m n gain s) := by
  unfold execAnaGainWrite
  repeat' first
    | with_reducible exact hk
    | with_reducible apply Res.Keeps.ofNext
    | with_reducible apply Res.Keeps.ite
    | with_reducible apply State.gainWrite_keeps
    | with_reducible apply State.refuseWrite_keeps

theorem State.gainTick_keeps {s0 : State} {s : State} (hk : s0.Keeps s) :
    s0.Keeps (State.gainTick s) := by
  unfold State.gainTick
  dsimp only
  repeat' first
    | intro _
    | with_reducible exact hk
    | with_reducible assumption
    | with_reducible apply State.Keeps.ite
    | with_reducible apply State.setWalk_keeps
    | with_reducible apply upTo_keeps

theorem State.gainStep_keeps {s0 : State} {s : State} {n : Nat} (hk : s0.Keeps s) :
    s0.Keeps (State.gainStep s n) := by
  unfold State.gainStep
  dsimp only
  repeat' first
    | with_reducible exact hk
    | with_reducible apply State.Keeps.ite
    | with_reducible apply State.ownerDone_keeps
    | with_reducible apply State.wr_keeps
    | with_reducible apply State.setWalk_keeps

theorem execGainStep_keeps {s0 : State} {n : Fin 8} {s : State} (hk : s0.Keeps s) :
    Res.Keeps s0 (execGainStep n s) := by
  unfold execGainStep
  repeat' first
    | with_reducible exact hk
    | with_reducible apply Res.Keeps.ofNext
    | with_reducible apply State.gainStep_keeps

theorem execGainStepTimeout_keeps {s0 : State} {n : Fin 8} {s : State} (hk : s0.Keeps s) :
    Res.Keeps s0 (execGainStepTimeout n s) := by
  unfold execGainStepTimeout
  repeat' first
    | with_reducible exact hk
    | with_reducible apply Res.Keeps.ofNext
    | with_reducible apply Res.Keeps.ite
    | with_reducible apply State.flagEvent_keeps
    | with_reducible apply State.gainStep_keeps

theorem execBiasStateChange_keeps {s0 : State} {n : Fin 8} {ua : BitVec 12} {s : State} (hk : s0.Keeps s) :
    Res.Keeps s0 (execBiasStateChange n ua s) := by
  unfold execBiasStateChange
  dsimp only
  repeat' first
    | with_reducible exact hk
    | with_reducible apply Res.Keeps.ofNext
    | with_reducible apply Res.Keeps.ite
    | with_reducible apply State.flagEvent_keeps
    | with_reducible apply State.wr_keeps

theorem State.setAout_keeps {s0 : State} {s : State} {n : Nat} {x : Aout} (hk : s0.Keeps s) :
    s0.Keeps (State.setAout s n x) := by
  unfold State.setAout
  dsimp only
  repeat' first
    | with_reducible exact hk
    | simp only [State.Keeps.upd_iff]

theorem State.setAoState_keeps {s0 : State} {s : State} {n : Nat} {st : Nat} (hk : s0.Keeps s) :
    s0.Keeps (State.setAoState s n st) := by
  unfold State.setAoState
  repeat' first
    | with_reducible exact hk
    | with_reducible apply State.wr_keeps

theorem State.aoClose_keeps {s0 : State} {s : State} {n : Nat} {pos : Nat} {g : Gate} (hk : s0.Keeps s) :
    s0.Keeps (State.aoClose s n pos g) := by
  unfold State.aoClose
  repeat' first
    | with_reducible exact hk
    | with_reducible apply State.setAoState_keeps
    | with_reducible apply State.setAout_keeps

theorem State.aoTickOne_keeps {s0 : State} {s : State} {n : Nat} (hk : s0.Keeps s) :
    s0.Keeps (State.aoTickOne s n) := by
  unfold State.aoTickOne
  dsimp only
  repeat' first
    | with_reducible exact hk
    | with_reducible apply State.Keeps.ite
    | with_reducible apply State.aoClose_keeps
    | with_reducible apply State.setAoState_keeps
    | with_reducible apply State.setAout_keeps

theorem State.aoTick_keeps {s0 : State} {s : State} (hk : s0.Keeps s) :
    s0.Keeps (State.aoTick s) := by
  unfold State.aoTick
  repeat' first
    | intro _
    | with_reducible exact hk
    | with_reducible assumption
    | with_reducible apply State.aoTickOne_keeps
    | with_reducible apply upTo_keeps

theorem execAoutGateCrossing_keeps {s0 : State} {n : Fin 8} {pos : Fin 32} {s : State} (hk : s0.Keeps s) :
    Res.Keeps s0 (execAoutGateCrossing n pos s) := by
  unfold execAoutGateCrossing
  dsimp only
  repeat' first
    | with_reducible exact hk
    | with_reducible apply Res.Keeps.ofNext
    | with_reducible apply Res.Keeps.ite
    | with_reducible apply State.aoClose_keeps
    | with_reducible apply State.setAoState_keeps
    | with_reducible apply State.setAout_keeps

theorem execAoutZcTimeout_keeps {s0 : State} {n : Fin 8} {s : State} (hk : s0.Keeps s) :
    Res.Keeps s0 (execAoutZcTimeout n s) := by
  unfold execAoutZcTimeout
  dsimp only
  repeat' first
    | with_reducible exact hk
    | with_reducible apply Res.Keeps.ofNext
    | with_reducible apply Res.Keeps.ite
    | with_reducible apply State.flagEvent_keeps
    | with_reducible apply State.setAout_keeps

theorem execAoutHoldEnd_keeps {s0 : State} {n : Fin 8} {s : State} (hk : s0.Keeps s) :
    Res.Keeps s0 (execAoutHoldEnd n s) := by
  unfold execAoutHoldEnd
  repeat' first
    | with_reducible exact hk
    | with_reducible apply Res.Keeps.ofNext
    | with_reducible apply Res.Keeps.ite
    | with_reducible apply State.setAoState_keeps

theorem State.aoDue_keeps {s0 : State} {s : State} {a : Word} (hk : s0.Keeps s) :
    s0.Keeps (State.aoDue s a) := by
  unfold State.aoDue
  repeat' first
    | intro _
    | with_reducible exact hk
    | with_reducible assumption
    | with_reducible apply State.Keeps.ite
    | with_reducible apply State.setAoState_keeps
    | with_reducible apply upTo_keeps

end Sys2Proof.Machine
end

