-- ==== Sys2Proof/Laws/KeepsSup.lean ====
section
/-! SUPPORT. What the operations of Machine/Sup.lean keep (`State.Keeps`): the queue and the canonical form of the stores. -/

namespace Sys2Proof.Machine

theorem State.setCinRun_keeps {s0 : State} {s : State} {n : Nat} {k : Nat} (hk : s0.Keeps s) :
    s0.Keeps (State.setCinRun s n k) := by
  unfold State.setCinRun
  dsimp only
  repeat' first
    | with_reducible exact hk
    | simp only [State.Keeps.upd_iff]

theorem State.wake_keeps {s0 : State} {s : State} (hk : s0.Keeps s) :
    s0.Keeps (State.wake s) := by
  unfold State.wake
  dsimp only
  repeat' first
    | with_reducible exact hk
    | with_reducible apply State.Keeps.ite
    | simp only [State.Keeps.upd_iff]

theorem State.cinDebounced_keeps {s0 : State} {s : State} {n : Nat} {code : Nat} {mayFault : Bool} (hk : s0.Keeps s) :
    s0.Keeps (State.cinDebounced s n code mayFault) := by
  unfold State.cinDebounced
  dsimp only
  repeat' first
    | with_reducible exact hk
    | with_reducible apply State.Keeps.ite
    | with_reducible apply State.cinToTriggers_keeps
    | with_reducible apply State.flagEvent_keeps
    | with_reducible apply State.wr_keeps
    | with_reducible apply State.wake_keeps
    | with_reducible apply State.set1_keeps

theorem State.cinSettle_keeps {s0 : State} {s : State} {n : Nat} (hk : s0.Keeps s) :
    s0.Keeps (State.cinSettle s n) := by
  unfold State.cinSettle
  repeat' first
    | with_reducible exact hk
    | with_reducible apply State.Keeps.ite
    | with_reducible apply State.cinDebounced_keeps

theorem execCinDebounceComplete_keeps {s0 : State} {n : Fin 16} {s : State} (hk : s0.Keeps s) :
    Res.Keeps s0 (execCinDebounceComplete n s) := by
  unfold execCinDebounceComplete
  repeat' first
    | with_reducible exact hk
    | with_reducible apply Res.Keeps.ofNext
    | with_reducible apply State.cinSettle_keeps

theorem execCinSample_keeps {s0 : State} {n : Fin 16} {ohms : BitVec 16} {isForeign : Bool} {s : State} (hk : s0.Keeps s) :
    Res.Keeps s0 (execCinSample n ohms isForeign s) := by
  unfold execCinSample
  dsimp only
  repeat' first
    | with_reducible exact hk
    | with_reducible apply Res.Keeps.ofNext
    | with_reducible apply Res.Keeps.ite
    | with_reducible apply State.cinDebounced_keeps
    | with_reducible apply State.cinSettle_keeps
    | with_reducible apply State.flagEvent_keeps
    | with_reducible apply State.wr_keeps
    | with_reducible apply State.setCinRun_keeps
    | with_reducible apply State.wrB_keeps

theorem State.cinDueAll_keeps {s0 : State} {s : State} (hk : s0.Keeps s) :
    s0.Keeps (State.cinDueAll s) := by
  unfold State.cinDueAll
  repeat' first
    | intro _
    | with_reducible exact hk
    | with_reducible assumption
    | with_reducible apply State.cinSettle_keeps
    | with_reducible apply upTo_keeps

theorem State.setDrv_keeps {s0 : State} {s : State} {n : Nat} {d : Drv} (hk : s0.Keeps s) :
    s0.Keeps (State.setDrv s n d) := by
  unfold State.setDrv
  dsimp only
  repeat' first
    | with_reducible exact hk
    | simp only [State.Keeps.upd_iff]

theorem State.drvUnlatch_keeps {s0 : State} {s : State} {n : Nat} (hk : s0.Keeps s) :
    s0.Keeps (State.drvUnlatch s n) := by
  unfold State.drvUnlatch
  dsimp only
  repeat' first
    | with_reducible exact hk
    | with_reducible apply State.Keeps.ite
    | with_reducible apply State.setDrv_keeps

theorem State.drvFaults_keeps {s0 : State} {s : State} {n : Nat} (hk : s0.Keeps s) :
    s0.Keeps (State.drvFaults s n) := by
  unfold State.drvFaults
  dsimp only
  repeat' first
    | with_reducible exact hk
    | with_reducible apply State.Keeps.ite
    | with_reducible apply State.flagEvent_keeps
    | with_reducible apply State.wr_keeps

theorem execDrvFaultDebounce_keeps {s0 : State} {n : Fin 16} {s : State} (hk : s0.Keeps s) :
    Res.Keeps s0 (execDrvFaultDebounce n s) := by
  unfold execDrvFaultDebounce
  repeat' first
    | with_reducible exact hk
    | with_reducible apply Res.Keeps.ofNext
    | with_reducible apply State.drvFaults_keeps

theorem State.drvSync_keeps {s0 : State} {s : State} (hk : s0.Keeps s) :
    s0.Keeps (State.drvSync s) := by
  unfold State.drvSync
  repeat' first
    | intro _
    | with_reducible exact hk
    | with_reducible assumption
    | with_reducible apply State.wr_keeps
    | with_reducible apply upTo_keeps
    | with_reducible apply State.wrB_keeps

theorem State.drvReturn_keeps {s0 : State} {s : State} (hk : s0.Keeps s) :
    s0.Keeps (State.drvReturn s) := by
  unfold State.drvReturn
  dsimp only
  repeat' first
    | intro _
    | with_reducible exact hk
    | with_reducible assumption
    | with_reducible apply State.Keeps.ite
    | with_reducible apply forAll_keeps
    | with_reducible apply State.setDrv_keeps
    | with_reducible apply State.wr_keeps

theorem execDrvSample_keeps {s0 : State} {currents : List (BitVec 10)} {low : BitVec 16} {s : State} (hk : s0.Keeps s) :
    Res.Keeps s0 (execDrvSample currents low s) := by
  unfold execDrvSample
  dsimp only
  repeat' first
    | intro _
    | with_reducible exact hk
    | with_reducible assumption
    | with_reducible apply Res.Keeps.ofNext
    | with_reducible apply State.drvFaults_keeps
    | with_reducible apply State.drvReturn_keeps
    | with_reducible apply State.drvSync_keeps
    | with_reducible apply State.drvUnlatch_keeps
    | with_reducible apply State.wr_keeps
    | with_reducible apply State.setDrv_keeps
    | with_reducible apply upTo_keeps

theorem execDrvOvercurrent_keeps {s0 : State} {n : Fin 16} {s : State} (hk : s0.Keeps s) :
    Res.Keeps s0 (execDrvOvercurrent n s) := by
  unfold execDrvOvercurrent
  dsimp only
  repeat' first
    | with_reducible exact hk
    | with_reducible apply Res.Keeps.ofNext
    | with_reducible apply Res.Keeps.ite
    | with_reducible apply State.flagEvent_keeps
    | with_reducible apply State.setDrv_keeps

theorem execDrvRetry_keeps {s0 : State} {n : Fin 16} {s : State} (hk : s0.Keeps s) :
    Res.Keeps s0 (execDrvRetry n s) := by
  unfold execDrvRetry
  dsimp only
  repeat' first
    | with_reducible exact hk
    | with_reducible apply Res.Keeps.ofNext
    | with_reducible apply State.setDrv_keeps

theorem execDrvTotalOverload_keeps {s0 : State} {s : State} (hk : s0.Keeps s) :
    Res.Keeps s0 (execDrvTotalOverload s) := by
  unfold execDrvTotalOverload
  dsimp only
  repeat' first
    | intro _
    | with_reducible exact hk
    | with_reducible assumption
    | with_reducible apply Res.Keeps.ofNext
    | with_reducible apply State.Keeps.ite
    | with_reducible apply State.flagEvent_keeps
    | with_reducible apply forAll_keeps
    | with_reducible apply State.setDrv_keeps

theorem State.gpioTick_keeps {s0 : State} {s : State} (hk : s0.Keeps s) :
    s0.Keeps (State.gpioTick s) := by
  unfold State.gpioTick
  dsimp only
  repeat' first
    | with_reducible exact hk
    | simp only [State.Keeps.upd_iff]

theorem State.setMon_keeps {s0 : State} {s : State} {m : Nat} {x : LineMon} (hk : s0.Keeps s) :
    s0.Keeps (State.setMon s m x) := by
  unfold State.setMon
  dsimp only
  repeat' first
    | with_reducible exact hk
    | simp only [State.Keeps.upd_iff]

theorem State.lsDecide_keeps {s0 : State} {s : State} {m : Nat} (hk : s0.Keeps s) :
    s0.Keeps (State.lsDecide s m) := by
  unfold State.lsDecide
  dsimp only
  repeat' first
    | with_reducible exact hk
    | with_reducible apply State.Keeps.ite
    | with_reducible apply State.flagEvent_keeps
    | with_reducible apply State.wr_keeps

theorem execLsFaultDeclared_keeps {s0 : State} {m : Fin 32} {s : State} (hk : s0.Keeps s) :
    Res.Keeps s0 (execLsFaultDeclared m s) := by
  unfold execLsFaultDeclared
  repeat' first
    | with_reducible exact hk
    | with_reducible apply Res.Keeps.ofNext
    | with_reducible apply State.lsDecide_keeps

theorem State.learnStart_keeps {s0 : State} {s : State} {m : Nat} {o : Option CmdRef} (hk : s0.Keeps s) :
    s0.Keeps (State.learnStart s m o) := by
  unfold State.learnStart
  dsimp only
  repeat' first
    | with_reducible exact hk
    | with_reducible apply State.ownerCancel_keeps
    | with_reducible apply State.wr_keeps
    | with_reducible apply State.setMon_keeps

theorem execLsLearnStart_keeps {s0 : State} {u0 : Master} {m : Fin 32} {s : State} (hk : s0.Keeps s) :
    Res.Keeps s0 (execLsLearnStart u0 m s) := by
  unfold execLsLearnStart
  repeat' first
    | with_reducible exact hk
    | with_reducible apply Res.Keeps.ofNext
    | with_reducible apply Res.Keeps.ite
    | with_reducible apply State.learnStart_keeps

theorem State.learnEnd_keeps {s0 : State} {s : State} {m : Nat} (hk : s0.Keeps s) :
    s0.Keeps (State.learnEnd s m) := by
  unfold State.learnEnd
  dsimp only
  repeat' first
    | with_reducible exact hk
    | with_reducible apply State.Keeps.ite
    | with_reducible apply State.Keeps.iteSnd
    | with_reducible apply State.drawFree_keeps
    | with_reducible apply State.finish_keeps
    | with_reducible apply State.setReg_keeps
    | with_reducible apply State.setMon_keeps
    | with_reducible apply State.wr_keeps
    | split

theorem execLsLearnDone_keeps {s0 : State} {m : Fin 32} {s : State} (hk : s0.Keeps s) :
    Res.Keeps s0 (execLsLearnDone m s) := by
  unfold execLsLearnDone
  repeat' first
    | with_reducible exact hk
    | with_reducible apply Res.Keeps.ofNext
    | with_reducible apply State.learnEnd_keeps

theorem execLsEstimate_keeps {s0 : State} {m : Fin 32} {cv : BitVec 25} {ci : BitVec 25} {s : State} (hk : s0.Keeps s) :
    Res.Keeps s0 (execLsEstimate m cv ci s) := by
  unfold execLsEstimate
  dsimp only
  repeat' first
    | with_reducible exact hk
    | with_reducible apply Res.Keeps.ofNext
    | with_reducible apply Res.Keeps.ite
    | with_reducible apply State.Keeps.ite
    | with_reducible apply State.Keeps.iteSnd
    | with_reducible apply State.drawFree_keeps
    | with_reducible apply State.learnEnd_keeps
    | with_reducible apply State.lsDecide_keeps
    | with_reducible apply State.setReg_keeps
    | with_reducible apply State.setMon_keeps
    | with_reducible apply State.wr_keeps
    | split

end Sys2Proof.Machine
end

