-- ==== Sys2Proof/Laws/KeepsVis.lean ====
section
/-! SUPPORT. What the operations of Machine/Vis.lean keep (`State.Keeps`): the queue and the canonical form of the stores. -/

namespace Sys2Proof.Machine

theorem State.setZone_keeps {s0 : State} {s : State} {z : Nat} {x : VisZone} (hk : s0.Keeps s) :
    s0.Keeps (State.setZone s z x) := by
  unfold State.setZone
  dsimp only
  repeat' first
    | with_reducible exact hk
    | simp only [State.Keeps.upd_iff]

theorem State.visWrite_keeps {s0 : State} {s : State} {os : Nat} {g : Nat} {tilt : Int} (hk : s0.Keeps s) :
    s0.Keeps (State.visWrite s os g tilt) := by
  unfold State.visWrite
  repeat' first
    | with_reducible exact hk
    | with_reducible apply State.setMemWord_keeps
    | split

theorem State.visShow_keeps {s0 : State} {s : State} {z : Nat} {e : VisEst} {micFault : Bool} (hk : s0.Keeps s) :
    s0.Keeps (State.visShow s z e micFault) := by
  unfold State.visShow
  dsimp only
  repeat' first
    | intro _
    | with_reducible exact hk
    | with_reducible assumption
    | with_reducible apply State.Keeps.ite
    | with_reducible apply State.flagEvent_keeps
    | with_reducible apply State.wr_keeps
    | with_reducible apply State.wrB_keeps
    | with_reducible apply upTo_keeps

theorem State.visUpdate_keeps {s0 : State} {s : State} {z : Nat} {e : VisEst} (hk : s0.Keeps s) :
    s0.Keeps (State.visUpdate s z e) := by
  unfold State.visUpdate
  dsimp only
  repeat' first
    | with_reducible exact hk
    | with_reducible apply State.Keeps.ite
    | with_reducible apply State.visShow_keeps
    | with_reducible apply State.setZone_keeps
    | with_reducible apply State.visWrite_keeps
    | with_reducible apply State.wr_keeps

theorem execVisUpdate_keeps {s0 : State} {z : Fin 32} {e : VisEst} {s : State} (hk : s0.Keeps s) :
    Res.Keeps s0 (execVisUpdate z e s) := by
  unfold execVisUpdate
  repeat' first
    | with_reducible exact hk
    | with_reducible apply Res.Keeps.ofNext
    | with_reducible apply State.Keeps.ite
    | with_reducible apply State.visUpdate_keeps

end Sys2Proof.Machine
end

