-- ==== Sys2Proof/Laws/KeepsPwr.lean ====
section
/-! SUPPORT. What the operations of Machine/Pwr.lean keep (`State.Keeps`): the queue and the canonical form of the stores. -/

namespace Sys2Proof.Machine

theorem State.setSquallCond_keeps {s0 : State} {s : State} {k : Nat} {on : Bool} (hk : s0.Keeps s) :
    s0.Keeps (State.setSquallCond s k on) := by
  unfold State.setSquallCond
  repeat' first
    | with_reducible exact hk
    | with_reducible apply State.wrB_keeps

theorem State.rerelease_keeps {s0 : State} {s : State} {a : Word} {m : Nat} {c : XptCol} (hk : s0.Keeps s) :
    s0.Keeps (State.rerelease s a m c) := by
  unfold State.rerelease
  dsimp only
  repeat' first
    | with_reducible exact hk
    | with_reducible apply State.Keeps.ite
    | with_reducible apply State.setCol_keeps
    | with_reducible apply State.setOcol_keeps

theorem State.shedColumn_keeps {s0 : State} {s : State} {a : Word} {level : Nat} {m : Nat} (hk : s0.Keeps s) :
    s0.Keeps (State.shedColumn s a level m) := by
  unfold State.shedColumn
  dsimp only
  repeat' first
    | with_reducible exact hk
    | with_reducible apply State.Keeps.ite
    | with_reducible apply State.rerelease_keeps
    | with_reducible apply State.setCol_keeps

theorem State.shedTick_keeps {s0 : State} {s : State} (hk : s0.Keeps s) :
    s0.Keeps (State.shedTick s) := by
  unfold State.shedTick
  dsimp only
  repeat' first
    | intro _
    | with_reducible exact hk
    | with_reducible assumption
    | with_reducible apply State.Keeps.ite
    | with_reducible apply forAll_keeps
    | with_reducible apply State.setCol_keeps

theorem State.setLevel_keeps {s0 : State} {s : State} {a : Word} {level : Nat} (hk : s0.Keeps s) :
    s0.Keeps (State.setLevel s a level) := by
  unfold State.setLevel
  dsimp only
  repeat' first
    | intro _
    | with_reducible exact hk
    | with_reducible assumption
    | with_reducible apply State.Keeps.ite
    | with_reducible apply State.autoMute_keeps
    | with_reducible apply State.drvSync_keeps
    | with_reducible apply forAll_keeps
    | with_reducible apply State.playShed_keeps
    | with_reducible apply State.requad_keeps
    | with_reducible apply State.reverseRecord_keeps
    | with_reducible apply State.wr_keeps
    | with_reducible apply State.shedColumn_keeps
    | with_reducible apply State.strmShed_keeps
    | with_reducible apply State.suspendSync_keeps
    | with_reducible apply upTo_keeps

theorem State.squallEnter_keeps {s0 : State} {s : State} {a : Word} {level : Nat} (hk : s0.Keeps s) :
    s0.Keeps (State.squallEnter s a level) := by
  unfold State.squallEnter
  dsimp only
  repeat' first
    | with_reducible exact hk
    | with_reducible apply State.Keeps.ite
    | with_reducible apply State.bump_keeps
    | with_reducible apply State.flagEvent_keeps
    | with_reducible apply State.goto_keeps
    | with_reducible apply State.wr_keeps
    | with_reducible apply State.setLevel_keeps

theorem State.squallLeave_keeps {s0 : State} {s : State} {a : Word} {dst : OpState} (hk : s0.Keeps s) :
    s0.Keeps (State.squallLeave s a dst) := by
  unfold State.squallLeave
  repeat' first
    | with_reducible exact hk
    | with_reducible apply State.flagEvent_keeps
    | with_reducible apply State.goto_keeps
    | with_reducible apply State.setLevel_keeps

theorem State.enterRun_keeps {s0 : State} {s : State} {a : Word} (hk : s0.Keeps s) :
    s0.Keeps (State.enterRun s a) := by
  unfold State.enterRun
  dsimp only
  repeat' first
    | with_reducible exact hk
    | with_reducible apply State.Keeps.ite
    | with_reducible apply State.goto_keeps
    | with_reducible apply State.setLevel_keeps
    | simp only [State.Keeps.upd_iff]

theorem State.runFromReady_keeps {s0 : State} {s : State} {a : Word} (hk : s0.Keeps s) :
    s0.Keeps (State.runFromReady s a) := by
  unfold State.runFromReady
  dsimp only
  repeat' first
    | intro _
    | with_reducible exact hk
    | with_reducible assumption
    | with_reducible apply State.Keeps.ite
    | with_reducible apply State.enterRun_keeps
    | with_reducible apply forAll_keeps
    | with_reducible apply State.setEnt_keeps

theorem State.takePlan_keeps {s0 : State} {s : State} {p : Plan} (hk : s0.Keeps s) :
    s0.Keeps (State.takePlan s p) := by
  unfold State.takePlan
  dsimp only
  repeat' first
    | with_reducible exact hk
    | with_reducible apply State.Keeps.ite
    | with_reducible apply State.setLevel_keeps
    | with_reducible apply State.squallEnter_keeps
    | with_reducible apply State.squallLeave_keeps
    | simp only [State.Keeps.upd_iff]

theorem State.squallTick_keeps {s0 : State} {s : State} (hk : s0.Keeps s) :
    s0.Keeps (State.squallTick s) := by
  unfold State.squallTick
  dsimp only
  repeat' first
    | with_reducible exact hk
    | with_reducible apply State.Keeps.ite
    | with_reducible apply State.takePlan_keeps
    | simp only [State.Keeps.upd_iff]
    | split

theorem State.systemStart_keeps {s0 : State} {s : State} (hk : s0.Keeps s) :
    s0.Keeps (State.systemStart s) := by
  unfold State.systemStart
  dsimp only
  repeat' first
    | with_reducible exact hk
    | with_reducible apply State.Keeps.ite
    | with_reducible apply State.runFromReady_keeps
    | simp only [State.Keeps.upd_iff]

theorem State.systemStop_keeps {s0 : State} {s : State} (hk : s0.Keeps s) :
    s0.Keeps (State.systemStop s) := by
  unfold State.systemStop
  dsimp only
  repeat' first
    | intro _
    | with_reducible exact hk
    | with_reducible assumption
    | with_reducible apply State.Keeps.ite
    | with_reducible apply State.commitPatch_keeps
    | with_reducible apply forAll_keeps
    | with_reducible apply State.goto_keeps
    | with_reducible apply State.squallLeave_keeps
    | simp only [State.Keeps.upd_iff]

theorem State.trigState_keeps {s0 : State} {s : State} (hk : s0.Keeps s) :
    s0.Keeps (State.trigState s) := by
  unfold State.trigState
  repeat' first
    | with_reducible exact hk
    | with_reducible apply State.Keeps.ite
    | with_reducible apply State.runFromReady_keeps
    | with_reducible apply State.wake_keeps

theorem State.nightfall_keeps {s0 : State} {s : State} {owner : Option CmdRef} (hk : s0.Keeps s) :
    s0.Keeps (State.nightfall s owner) := by
  unfold State.nightfall
  dsimp only
  repeat' first
    | intro _
    | with_reducible exact hk
    | with_reducible assumption
    | with_reducible apply State.Keeps.ite
    | with_reducible apply State.autoMute_keeps
    | with_reducible apply forAll_keeps
    | with_reducible apply State.goto_keeps
    | with_reducible apply State.playStop_keeps
    | with_reducible apply State.strmShed_keeps
    | simp only [State.Keeps.upd_iff]

theorem State.nightBypassStep_keeps {s0 : State} {s : State} {a : Word} {n : NfRun} (hk : s0.Keeps s) :
    s0.Keeps (State.nightBypassStep s a n) := by
  unfold State.nightBypassStep
  dsimp only
  repeat' first
    | with_reducible exact hk
    | with_reducible apply State.requad_keeps
    | simp only [State.Keeps.upd_iff]

theorem State.nightDuskStep_keeps {s0 : State} {s : State} {n : NfRun} (hk : s0.Keeps s) :
    s0.Keeps (State.nightDuskStep s n) := by
  unfold State.nightDuskStep
  dsimp only
  repeat' first
    | intro _
    | with_reducible exact hk
    | with_reducible assumption
    | with_reducible apply State.Keeps.ite
    | with_reducible apply State.duskTick_keeps
    | with_reducible apply State.finish_keeps
    | with_reducible apply forAll_keeps
    | with_reducible apply State.gateClose_keeps
    | with_reducible apply State.linkChange_keeps
    | with_reducible apply State.pairWr_keeps
    | with_reducible apply State.wr_keeps
    | simp only [State.Keeps.upd_iff]
    | split

theorem State.nightDue_keeps {s0 : State} {s : State} {a : Word} (hk : s0.Keeps s) :
    s0.Keeps (State.nightDue s a) := by
  unfold State.nightDue
  repeat' first
    | with_reducible exact hk
    | with_reducible apply State.Keeps.ite
    | with_reducible apply State.nightBypassStep_keeps
    | with_reducible apply State.nightDuskStep_keeps
    | split

theorem execNightfallBypass_keeps {s0 : State} {s : State} (hk : s0.Keeps s) :
    Res.Keeps s0 (execNightfallBypass s) := by
  unfold execNightfallBypass
  repeat' first
    | with_reducible exact hk
    | with_reducible apply Res.Keeps.ofNext
    | with_reducible apply State.Keeps.ite
    | with_reducible apply State.nightDue_keeps
    | split

theorem execNightfallDusk_keeps {s0 : State} {s : State} (hk : s0.Keeps s) :
    Res.Keeps s0 (execNightfallDusk s) := by
  unfold execNightfallDusk
  repeat' first
    | with_reducible exact hk
    | with_reducible apply Res.Keeps.ofNext
    | with_reducible apply State.Keeps.ite
    | with_reducible apply State.nightDue_keeps
    | split

theorem State.wakeGates_keeps {s0 : State} {s : State} {w : Word} (hk : s0.Keeps s) :
    s0.Keeps (State.wakeGates s w) := by
  unfold State.wakeGates
  dsimp only
  repeat' first
    | intro _
    | with_reducible exact hk
    | with_reducible assumption
    | with_reducible apply State.Keeps.ite
    | with_reducible apply forAll_keeps
    | with_reducible apply State.gateOpen_keeps
    | with_reducible apply State.pairWr_keeps
    | with_reducible apply State.wr_keeps
    | simp only [State.Keeps.upd_iff]
    | split

theorem State.wakeRun_keeps {s0 : State} {s : State} {a : Word} (hk : s0.Keeps s) :
    s0.Keeps (State.wakeRun s a) := by
  unfold State.wakeRun
  dsimp only
  repeat' first
    | intro _
    | with_reducible exact hk
    | with_reducible assumption
    | with_reducible apply State.enterRun_keeps
    | with_reducible apply State.finish_keeps
    | with_reducible apply forAll_keeps
    | with_reducible apply State.requad_keeps
    | with_reducible apply State.reverseRecord_keeps
    | with_reducible apply State.strmShed_keeps
    | simp only [State.Keeps.upd_iff]

theorem State.wakeDue_keeps {s0 : State} {s : State} {a : Word} (hk : s0.Keeps s) :
    s0.Keeps (State.wakeDue s a) := by
  unfold State.wakeDue
  repeat' first
    | with_reducible exact hk
    | with_reducible apply State.Keeps.ite
    | with_reducible apply State.wakeGates_keeps
    | with_reducible apply State.wakeRun_keeps
    | split

theorem execWakeEvent_keeps {s0 : State} {s : State} (hk : s0.Keeps s) :
    Res.Keeps s0 (execWakeEvent s) := by
  unfold execWakeEvent
  repeat' first
    | with_reducible exact hk
    | with_reducible apply Res.Keeps.ofNext
    | with_reducible apply State.wake_keeps

theorem execWakeGatesOpen_keeps {s0 : State} {s : State} (hk : s0.Keeps s) :
    Res.Keeps s0 (execWakeGatesOpen s) := by
  unfold execWakeGatesOpen
  repeat' first
    | with_reducible exact hk
    | with_reducible apply Res.Keeps.ofNext
    | with_reducible apply State.Keeps.ite
    | with_reducible apply State.wakeGates_keeps
    | split

theorem execWakeRun_keeps {s0 : State} {s : State} (hk : s0.Keeps s) :
    Res.Keeps s0 (execWakeRun s) := by
  unfold execWakeRun
  repeat' first
    | with_reducible exact hk
    | with_reducible apply Res.Keeps.ofNext
    | with_reducible apply State.Keeps.ite
    | with_reducible apply State.wakeRun_keeps
    | split

theorem execThermalSample_keeps {s0 : State} {t0 : BitVec 16} {t1 : BitVec 16} {t2 : BitVec 16} {t3 : BitVec 16} {t4 : BitVec 16} {s : State} (hk : s0.Keeps s) :
    Res.Keeps s0 (execThermalSample t0 t1 t2 t3 t4 s) := by
  unfold execThermalSample
  dsimp only
  repeat' first
    | with_reducible exact hk
    | with_reducible apply Res.Keeps.ofNext
    | with_reducible apply State.Keeps.ite
    | with_reducible apply State.flagEvent_keeps
    | with_reducible apply State.wr_keeps
    | with_reducible apply State.setSquallCond_keeps
    | simp only [State.Keeps.upd_iff]

theorem execThermalExitTimer_keeps {s0 : State} {hot2 : Bool} {s : State} (hk : s0.Keeps s) :
    Res.Keeps s0 (execThermalExitTimer hot2 s) := by
  unfold execThermalExitTimer
  dsimp only
  repeat' first
    | with_reducible exact hk
    | with_reducible apply Res.Keeps.ofNext
    | with_reducible apply State.Keeps.ite
    | with_reducible apply State.setSquallCond_keeps
    | simp only [State.Keeps.upd_iff]

theorem execSupplyLowTimer_keeps {s0 : State} {s : State} (hk : s0.Keeps s) :
    Res.Keeps s0 (execSupplyLowTimer s) := by
  unfold execSupplyLowTimer
  repeat' first
    | with_reducible exact hk
    | with_reducible apply Res.Keeps.ofNext
    | with_reducible apply State.Keeps.ite
    | with_reducible apply State.setSquallCond_keeps

theorem execSupplyClearTimer_keeps {s0 : State} {s : State} (hk : s0.Keeps s) :
    Res.Keeps s0 (execSupplyClearTimer s) := by
  unfold execSupplyClearTimer
  repeat' first
    | with_reducible exact hk
    | with_reducible apply Res.Keeps.ofNext
    | with_reducible apply State.Keeps.ite
    | with_reducible apply State.setSquallCond_keeps

theorem execBudgetExceeded_keeps {s0 : State} {s : State} (hk : s0.Keeps s) :
    Res.Keeps s0 (execBudgetExceeded s) := by
  unfold execBudgetExceeded
  repeat' first
    | with_reducible exact hk
    | with_reducible apply Res.Keeps.ofNext
    | with_reducible apply State.Keeps.ite
    | with_reducible apply State.setSquallCond_keeps

theorem State.budgetWritten_keeps {s0 : State} {s : State} (hk : s0.Keeps s) :
    s0.Keeps (State.budgetWritten s) := by
  unfold State.budgetWritten
  dsimp only
  repeat' first
    | with_reducible exact hk
    | with_reducible apply State.Keeps.ite
    | with_reducible apply State.setSquallCond_keeps

theorem execVsysSample_keeps {s0 : State} {mv : BitVec 16} {ma : BitVec 16} {p10 : BitVec 16} {s : State} (hk : s0.Keeps s) :
    Res.Keeps s0 (execVsysSample mv ma p10 s) := by
  unfold execVsysSample
  dsimp only
  repeat' first
    | with_reducible exact hk
    | with_reducible apply Res.Keeps.ofNext
    | with_reducible apply State.Keeps.ite
    | with_reducible apply State.flagEvent_keeps
    | with_reducible apply State.wr_keeps
    | simp only [State.Keeps.upd_iff]

theorem execVauxOvercurrent_keeps {s0 : State} {s : State} (hk : s0.Keeps s) :
    Res.Keeps s0 (execVauxOvercurrent s) := by
  unfold execVauxOvercurrent
  dsimp only
  repeat' first
    | with_reducible exact hk
    | with_reducible apply Res.Keeps.ofNext
    | with_reducible apply State.Keeps.ite
    | with_reducible apply State.flagEvent_keeps
    | with_reducible apply State.wr_keeps
    | simp only [State.Keeps.upd_iff]

theorem execVauxRetry_keeps {s0 : State} {ok : Bool} {ma : BitVec 16} {s : State} (hk : s0.Keeps s) :
    Res.Keeps s0 (execVauxRetry ok ma s) := by
  unfold execVauxRetry
  dsimp only
  repeat' first
    | with_reducible exact hk
    | with_reducible apply Res.Keeps.ofNext
    | with_reducible apply State.Keeps.ite
    | with_reducible apply State.wr_keeps
    | simp only [State.Keeps.upd_iff]

theorem execPwrTjMaxRead_keeps {s0 : State} {s : State} (hk : s0.Keeps s) :
    Res.Keeps s0 (execPwrTjMaxRead s) := by
  unfold execPwrTjMaxRead
  dsimp only
  repeat' first
    | with_reducible exact hk
    | with_reducible apply Res.Keeps.ofNext
    | with_reducible apply State.setReg_keeps
    | simp only [State.Keeps.upd_iff]

theorem State.faultHold_keeps {s0 : State} {s : State} (hk : s0.Keeps s) :
    s0.Keeps (State.faultHold s) := by
  unfold State.faultHold
  repeat' first
    | with_reducible exact hk
    | with_reducible apply State.Keeps.ite
    | with_reducible apply State.goto_keeps

end Sys2Proof.Machine
end

