-- ==== Sys2Proof/Laws/KeepsBoot.lean ====
section
/-! SUPPORT. What the operations of Machine/Boot.lean keep (`State.Keeps`): the queue and the canonical form of the stores. -/

namespace Sys2Proof.Machine

theorem State.mapBoot_keeps {s0 : State} {s : State} {f : BootState → BootState} (hk : s0.Keeps s) :
    s0.Keeps (State.mapBoot s f) := by
  unfold State.mapBoot
  repeat' first
    | with_reducible exact hk
    | simp only [State.Keeps.upd_iff]

theorem State.sampleStraps_keeps {s0 : State} {s : State} (hk : s0.Keeps s) :
    s0.Keeps (State.sampleStraps s) := by
  unfold State.sampleStraps
  dsimp only
  repeat' first
    | with_reducible exact hk
    | with_reducible apply State.Keeps.ite
    | with_reducible apply State.mapBoot_keeps
    | with_reducible apply State.wrB_keeps
    | with_reducible apply State.wr_keeps

theorem execPowerOn_keeps {s0 : State} {p : Straps} {s : State} (hk : s0.Keeps s) :
    Res.Keeps s0 (execPowerOn p s) := by
  unfold execPowerOn
  dsimp only
  repeat' first
    | with_reducible exact hk
    | with_reducible apply Res.Keeps.ofNext
    | with_reducible apply State.Keeps.ite
    | with_reducible apply State.mapBoot_keeps
    | with_reducible apply State.toBoot_keeps

theorem execVsysFall_keeps {s0 : State} {s : State} (hk : s0.Keeps s) :
    Res.Keeps s0 (execVsysFall s) := by
  unfold execVsysFall
  repeat' first
    | with_reducible exact hk
    | with_reducible apply Res.Keeps.ofNext
    | with_reducible apply State.mapBoot_keeps
    | with_reducible apply State.toOff_keeps

theorem execPorstNLow_keeps {s0 : State} {s : State} (hk : s0.Keeps s) :
    Res.Keeps s0 (execPorstNLow s) := by
  unfold execPorstNLow
  repeat' first
    | with_reducible exact hk
    | with_reducible apply Res.Keeps.ofNext
    | with_reducible apply State.mapBoot_keeps
    | with_reducible apply State.toOff_keeps

theorem execPorstNRelease_keeps {s0 : State} {p : Straps} {s : State} (hk : s0.Keeps s) :
    Res.Keeps s0 (execPorstNRelease p s) := by
  unfold execPorstNRelease
  dsimp only
  repeat' first
    | with_reducible exact hk
    | with_reducible apply Res.Keeps.ofNext
    | with_reducible apply State.Keeps.ite
    | with_reducible apply State.mapBoot_keeps
    | with_reducible apply State.toBoot_keeps
    | with_reducible apply State.sampleStraps_keeps
    | with_reducible apply State.wr_keeps

theorem execRegulatorCutoff_keeps {s0 : State} {s : State} (hk : s0.Keeps s) :
    Res.Keeps s0 (execRegulatorCutoff s) := by
  unfold execRegulatorCutoff
  repeat' first
    | with_reducible exact hk
    | with_reducible apply Res.Keeps.ofNext
    | with_reducible apply State.Keeps.ite
    | with_reducible apply State.mapBoot_keeps
    | with_reducible apply State.toOff_keeps

theorem execRegulatorRestart_keeps {s0 : State} {p : Straps} {s : State} (hk : s0.Keeps s) :
    Res.Keeps s0 (execRegulatorRestart p s) := by
  unfold execRegulatorRestart
  repeat' first
    | with_reducible exact hk
    | with_reducible apply Res.Keeps.ofNext
    | with_reducible apply State.Keeps.ite
    | with_reducible apply State.mapBoot_keeps
    | with_reducible apply State.toBoot_keeps

theorem State.bootStep_keeps {s0 : State} {s : State} {step : Nat} (hk : s0.Keeps s) :
    s0.Keeps (State.bootStep s step) := by
  unfold State.bootStep
  repeat' first
    | with_reducible exact hk
    | with_reducible apply State.mapBoot_keeps

theorem execTwpcInPulse_keeps {s0 : State} {ms : BitVec 16} {s : State} (hk : s0.Keeps s) :
    Res.Keeps s0 (execTwpcInPulse ms s) := by
  unfold execTwpcInPulse
  repeat' first
    | with_reducible exact hk
    | with_reducible apply Res.Keeps.ofNext
    | with_reducible apply State.Keeps.ite
    | with_reducible apply State.event_keeps
    | with_reducible apply State.mapBoot_keeps
    | with_reducible apply State.railsOff_keeps

theorem execTwpcRailOffEnd_keeps {s0 : State} {s : State} (hk : s0.Keeps s) :
    Res.Keeps s0 (execTwpcRailOffEnd s) := by
  unfold execTwpcRailOffEnd
  dsimp only
  repeat' first
    | with_reducible exact hk
    | with_reducible apply Res.Keeps.ofNext
    | with_reducible apply State.Keeps.ite
    | with_reducible apply State.mapBoot_keeps
    | with_reducible apply State.toBoot_keeps
    | with_reducible apply State.wr_keeps
    | simp only [State.Keeps.upd_iff]

theorem State.clockTrip_keeps {s0 : State} {s : State} {cause : Nat} (hk : s0.Keeps s) :
    s0.Keeps (State.clockTrip s cause) := by
  unfold State.clockTrip
  dsimp only
  repeat' first
    | with_reducible exact hk
    | with_reducible apply State.Keeps.ite
    | with_reducible apply State.bump_keeps
    | with_reducible apply State.event_keeps
    | with_reducible apply State.goto_keeps
    | with_reducible apply State.wr_keeps
    | with_reducible apply State.set1_keeps
    | with_reducible apply State.setReg_keeps
    | simp only [State.Keeps.upd_iff]

theorem execRailsInRegulation_keeps {s0 : State} {s : State} (hk : s0.Keeps s) :
    Res.Keeps s0 (execRailsInRegulation s) := by
  unfold execRailsInRegulation
  repeat' first
    | with_reducible exact hk
    | with_reducible apply Res.Keeps.ofNext
    | with_reducible apply State.Keeps.ite
    | with_reducible apply State.bootStep_keeps
    | with_reducible apply State.wrB_keeps

theorem execIrcQualified_keeps {s0 : State} {s : State} (hk : s0.Keeps s) :
    Res.Keeps s0 (execIrcQualified s) := by
  unfold execIrcQualified
  repeat' first
    | with_reducible exact hk
    | with_reducible apply Res.Keeps.ofNext
    | with_reducible apply State.Keeps.ite
    | with_reducible apply State.bootStep_keeps
    | with_reducible apply State.sampleStraps_keeps
    | with_reducible apply State.wr_keeps

theorem execCrystalQualified_keeps {s0 : State} {s : State} (hk : s0.Keeps s) :
    Res.Keeps s0 (execCrystalQualified s) := by
  unfold execCrystalQualified
  repeat' first
    | with_reducible exact hk
    | with_reducible apply Res.Keeps.ofNext
    | with_reducible apply State.Keeps.ite
    | with_reducible apply State.bootStep_keeps
    | with_reducible apply State.wr_keeps

theorem execCrystalQualTimeout_keeps {s0 : State} {s : State} (hk : s0.Keeps s) :
    Res.Keeps s0 (execCrystalQualTimeout s) := by
  unfold execCrystalQualTimeout
  repeat' first
    | with_reducible exact hk
    | with_reducible apply Res.Keeps.ofNext
    | with_reducible apply State.Keeps.ite
    | with_reducible apply State.clockTrip_keeps

theorem execRootPllLock_keeps {s0 : State} {s : State} (hk : s0.Keeps s) :
    Res.Keeps s0 (execRootPllLock s) := by
  unfold execRootPllLock
  repeat' first
    | with_reducible exact hk
    | with_reducible apply Res.Keeps.ofNext
    | with_reducible apply State.Keeps.ite
    | with_reducible apply State.bootStep_keeps
    | with_reducible apply State.wr_keeps

theorem execPllLockTimeout_keeps {s0 : State} {s : State} (hk : s0.Keeps s) :
    Res.Keeps s0 (execPllLockTimeout s) := by
  unfold execPllLockTimeout
  repeat' first
    | with_reducible exact hk
    | with_reducible apply Res.Keeps.ofNext
    | with_reducible apply State.Keeps.ite
    | with_reducible apply State.clockTrip_keeps

theorem execIrcStop_keeps {s0 : State} {s : State} (hk : s0.Keeps s) :
    Res.Keeps s0 (execIrcStop s) := by
  unfold execIrcStop
  repeat' first
    | with_reducible exact hk
    | with_reducible apply Res.Keeps.ofNext
    | with_reducible apply State.Keeps.ite
    | with_reducible apply State.wr_keeps

theorem execIrcPeriodicCheck_keeps {s0 : State} {ok : Bool} {s : State} (hk : s0.Keeps s) :
    Res.Keeps s0 (execIrcPeriodicCheck ok s) := by
  unfold execIrcPeriodicCheck
  repeat' first
    | with_reducible exact hk
    | with_reducible apply Res.Keeps.ofNext
    | with_reducible apply State.Keeps.ite
    | with_reducible apply State.clockTrip_keeps

theorem execClockSupervisorTrip_keeps {s0 : State} {cause : BitVec 4} {s : State} (hk : s0.Keeps s) :
    Res.Keeps s0 (execClockSupervisorTrip cause s) := by
  unfold execClockSupervisorTrip
  dsimp only
  repeat' first
    | with_reducible exact hk
    | with_reducible apply Res.Keeps.ofNext
    | with_reducible apply Res.Keeps.fault
    | with_reducible apply Res.Keeps.ite
    | with_reducible apply State.Keeps.ite
    | with_reducible apply State.bump_keeps
    | with_reducible apply State.clockTrip_keeps
    | with_reducible apply State.mapBoot_keeps
    | with_reducible apply State.wr_keeps
    | with_reducible apply State.set1_keeps

theorem execClockWaitRetry_keeps {s0 : State} {ok : Bool} {s : State} (hk : s0.Keeps s) :
    Res.Keeps s0 (execClockWaitRetry ok s) := by
  unfold execClockWaitRetry
  dsimp only
  repeat' first
    | with_reducible exact hk
    | with_reducible apply Res.Keeps.ofNext
    | with_reducible apply State.Keeps.ite
    | with_reducible apply State.bootState_keeps
    | with_reducible apply State.bump_keeps
    | with_reducible apply State.flagEvent_keeps
    | with_reducible apply State.mapBoot_keeps
    | with_reducible apply State.wr_keeps

theorem execDramTrained_keeps {s0 : State} {ok : Bool} {s : State} (hk : s0.Keeps s) :
    Res.Keeps s0 (execDramTrained ok s) := by
  unfold execDramTrained
  repeat' first
    | with_reducible exact hk
    | with_reducible apply Res.Keeps.ofNext
    | with_reducible apply State.Keeps.ite
    | with_reducible apply State.bootStep_keeps
    | with_reducible apply State.goto_keeps

theorem State.setFwMeta_keeps {s0 : State} {s : State} {k : Nat} {x : FwMeta} (hk : s0.Keeps s) :
    s0.Keeps (State.setFwMeta s k x) := by
  unfold State.setFwMeta
  dsimp only
  repeat' first
    | with_reducible exact hk
    | simp only [State.Keeps.upd_iff]

theorem State.recovery_keeps {s0 : State} {s : State} (hk : s0.Keeps s) :
    s0.Keeps (State.recovery s) := by
  unfold State.recovery
  repeat' first
    | with_reducible exact hk
    | with_reducible apply State.wr_keeps

theorem State.fwStart_keeps {s0 : State} {s : State} {k : Nat} (hk : s0.Keeps s) :
    s0.Keeps (State.fwStart s k) := by
  unfold State.fwStart
  dsimp only
  repeat' first
    | with_reducible exact hk
    | with_reducible apply State.Keeps.ite
    | with_reducible apply State.bootStep_keeps
    | with_reducible apply State.setFwMeta_keeps
    | with_reducible apply State.setBytes_keeps
    | with_reducible apply State.wr_keeps
    | simp only [State.Keeps.upd_iff]

theorem State.fwTry_keeps {s0 : State} {s : State} {ks : List Nat} (hk : s0.Keeps s) :
    s0.Keeps (State.fwTry s ks) := by
  induction ks generalizing s with
  | nil => unfold State.fwTry; exact State.recovery_keeps hk
  | cons k ks ih =>
    unfold State.fwTry
    split
    · apply State.Keeps.ite
      · simp only [State.Keeps.upd_iff]
        exact hk
      · exact State.fwStart_keeps hk
    · exact ih (State.mapBoot_keeps (State.set1_keeps (State.event_keeps hk)))

theorem execFirmwareLoad_keeps {s0 : State} {s : State} (hk : s0.Keeps s) :
    Res.Keeps s0 (execFirmwareLoad s) := by
  unfold execFirmwareLoad
  repeat' first
    | with_reducible exact hk
    | with_reducible apply Res.Keeps.ofNext
    | with_reducible apply State.Keeps.ite
    | with_reducible apply State.fwTry_keeps
    | with_reducible apply State.recovery_keeps

theorem State.loadTable_keeps {s0 : State} {s : State} (hk : s0.Keeps s) :
    s0.Keeps (State.loadTable s) := by
  unfold State.loadTable
  dsimp only
  repeat' first
    | intro _
    | with_reducible exact hk
    | with_reducible assumption
    | with_reducible apply State.Keeps.ite
    | with_reducible apply State.wr_keeps
    | with_reducible apply State.flagEvent_keeps
    | with_reducible apply forAll_keeps
    | with_reducible apply State.raiseCond_keeps
    | with_reducible apply State.setReg_keeps
    | simp only [State.Keeps.upd_iff]
    | split

theorem State.bootSlot_keeps {s0 : State} {s : State} {k : Nat} (hk : s0.Keeps s) :
    s0.Keeps (State.bootSlot s k).1 := by
  unfold State.bootSlot
  repeat' first
    | with_reducible exact hk
    | with_reducible apply State.checkSlot_keeps
    | with_reducible apply State.loadImage_keeps
    | with_reducible apply State.queuePatch_keeps
    | with_reducible refine State.Keeps.fst (by assumption) ?_
    | split

theorem State.ready_keeps {s0 : State} {s : State} (hk : s0.Keeps s) :
    s0.Keeps (State.ready s) := by
  unfold State.ready
  dsimp only
  repeat' first
    | intro _
    | with_reducible exact hk
    | with_reducible assumption
    | with_reducible apply State.Keeps.ite
    | with_reducible apply State.bootStep_keeps
    | with_reducible apply State.drawFree_keeps
    | with_reducible apply State.event_keeps
    | with_reducible apply forAll_keeps
    | with_reducible apply State.goto_keeps
    | with_reducible apply State.mapBoot_keeps
    | with_reducible apply State.msgConds_keeps
    | with_reducible apply State.ptpRestart_keeps
    | with_reducible apply State.setReg_keeps
    | with_reducible apply State.setAstate_keeps
    | with_reducible apply State.setFwMeta_keeps

theorem execBootImageLoad_keeps {s0 : State} {s : State} (hk : s0.Keeps s) :
    Res.Keeps s0 (execBootImageLoad s) := by
  unfold execBootImageLoad
  dsimp only
  repeat' first
    | with_reducible exact hk
    | with_reducible apply Res.Keeps.ofNext
    | with_reducible apply State.Keeps.ite
    | with_reducible apply State.bootSlot_keeps
    | with_reducible apply State.event_keeps
    | with_reducible apply State.goto_keeps
    | with_reducible apply State.loadTable_keeps
    | with_reducible apply State.ready_keeps
    | with_reducible refine State.Keeps.fst (by assumption) ?_
    | split

theorem execHeadLoadDone_keeps {s0 : State} {m : Fin 8192} {s : State} (hk : s0.Keeps s) :
    Res.Keeps s0 (execHeadLoadDone m s) := by
  unfold execHeadLoadDone
  repeat' first
    | with_reducible exact hk
    | with_reducible apply Res.Keeps.ofNext
    | with_reducible apply State.Keeps.ite
    | with_reducible apply State.mapBoot_keeps

theorem State.recovGo_keeps {s0 : State} {s : State} {v : Word} (hk : s0.Keeps s) :
    s0.Keeps (State.recovGo s v) := by
  unfold State.recovGo
  dsimp only
  repeat' first
    | with_reducible exact hk
    | with_reducible apply State.Keeps.ite
    | with_reducible apply State.wr_keeps
    | with_reducible apply State.wrB_keeps

theorem execSecRecovGo_keeps {s0 : State} {v : Word} {s : State} (hk : s0.Keeps s) :
    Res.Keeps s0 (execSecRecovGo v s) := by
  unfold execSecRecovGo
  repeat' first
    | with_reducible exact hk
    | with_reducible apply Res.Keeps.ofNext
    | with_reducible apply State.recovGo_keeps

theorem State.recovProgram_keeps {s0 : State} {s : State} (hk : s0.Keeps s) :
    s0.Keeps (State.recovProgram s) := by
  unfold State.recovProgram
  dsimp only
  repeat' first
    | with_reducible exact hk
    | with_reducible apply State.Keeps.ite
    | with_reducible apply State.setImgSlot_keeps
    | with_reducible apply State.setFwMeta_keeps
    | simp only [State.Keeps.upd_iff]

theorem execRecoveryCheckDone_keeps {s0 : State} {s : State} (hk : s0.Keeps s) :
    Res.Keeps s0 (execRecoveryCheckDone s) := by
  unfold execRecoveryCheckDone
  dsimp only
  repeat' first
    | with_reducible exact hk
    | with_reducible apply Res.Keeps.ofNext
    | with_reducible apply State.Keeps.ite
    | with_reducible apply State.fwTry_keeps
    | with_reducible apply State.recovProgram_keeps
    | with_reducible apply State.wr_keeps

end Sys2Proof.Machine
end

