-- ==== Sys2Proof/Laws/KeepsSec.lean ====
section
/-! SUPPORT. What the operations of Machine/Sec.lean keep (`State.Keeps`): the queue and the canonical form of the stores. -/

namespace Sys2Proof.Machine

theorem State.zeroReplay_keeps {s0 : State} {s : State} {k : Nat} (hk : s0.Keeps s) :
    s0.Keeps (State.zeroReplay s k) := by
  unfold State.zeroReplay
  dsimp only
  repeat' first
    | with_reducible exact hk
    | simp only [State.Keeps.upd_iff]

theorem execSecAkeyCommit_keeps {s0 : State} {s : State} (hk : s0.Keeps s) :
    Res.Keeps s0 (execSecAkeyCommit s) := by
  unfold execSecAkeyCommit
  dsimp only
  repeat' first
    | with_reducible exact hk
    | with_reducible apply Res.Keeps.ofNext
    | with_reducible apply State.zeroReplay_keeps
    | with_reducible apply State.wr_keeps
    | simp only [State.Keeps.upd_iff]

theorem State.wpSet_keeps {s0 : State} {s : State} {on : Bool} {cred : List Byte} (hk : s0.Keeps s) :
    s0.Keeps (State.wpSet s on cred).1 := by
  unfold State.wpSet
  dsimp only
  repeat' first
    | with_reducible exact hk
    | with_reducible apply State.Keeps.ite
    | with_reducible apply State.Keeps.iteFst
    | with_reducible apply State.drawFree_keeps
    | with_reducible apply State.flagEvent_keeps
    | with_reducible apply State.wr_keeps
    | with_reducible apply State.setReg_keeps
    | simp only [State.Keeps.upd_iff]

theorem execWpLockoutEnd_keeps {s0 : State} {s : State} (hk : s0.Keeps s) :
    Res.Keeps s0 (execWpLockoutEnd s) := by
  unfold execWpLockoutEnd
  dsimp only
  repeat' first
    | with_reducible exact hk
    | with_reducible apply Res.Keeps.ofNext
    | with_reducible apply State.wr_keeps
    | simp only [State.Keeps.upd_iff]

theorem State.dropAuth_keeps {s0 : State} {s : State} (hk : s0.Keeps s) :
    s0.Keeps (State.dropAuth s) := by
  unfold State.dropAuth
  repeat' first
    | with_reducible exact hk
    | with_reducible apply State.bump_keeps

theorem State.dropReplay_keeps {s0 : State} {s : State} (hk : s0.Keeps s) :
    s0.Keeps (State.dropReplay s) := by
  unfold State.dropReplay
  repeat' first
    | with_reducible exact hk
    | with_reducible apply State.bump_keeps

theorem State.mgmtCheck_keeps {s0 : State} {s : State} {src : Word} {bytes : List Byte} (hk : s0.Keeps s) :
    s0.Keeps (State.mgmtCheck s src bytes).1 := by
  unfold State.mgmtCheck
  dsimp only
  repeat' first
    | with_reducible exact hk
    | with_reducible apply State.Keeps.iteFst
    | with_reducible apply State.dropAuth_keeps
    | with_reducible apply State.dropReplay_keeps
    | with_reducible apply State.flagEvent_keeps
    | with_reducible apply State.sendMgmt_keeps
    | simp only [State.Keeps.upd_iff]

end Sys2Proof.Machine
end

