-- ==== Sys2Proof/Laws/KeepsAbort.lean ====
section
/-! SUPPORT. What the operations of Machine/Abort.lean keep (`State.Keeps`): the queue and the canonical form of the stores. -/

namespace Sys2Proof.Machine

theorem State.dropCommit_keeps {s0 : State} {s : State} {r : CmdRef} (hk : s0.Keeps s) :
    s0.Keeps (State.dropCommit s r) := by
  unfold State.dropCommit
  dsimp only
  repeat' first
    | with_reducible exact hk
    | with_reducible apply State.Keeps.ite
    | with_reducible apply State.disarm_keeps
    | with_reducible apply State.wr_keeps
    | simp only [State.Keeps.upd_iff]

theorem State.undo_keeps {s0 : State} {s : State} {r : CmdRef} (hk : s0.Keeps s) :
    s0.Keeps (State.undo s r) := by
  unfold State.undo
  dsimp only
  repeat' first
    | with_reducible exact hk
    | with_reducible apply State.dropCommit_keeps
    | simp only [State.Keeps.upd_iff]

theorem State.withdraw_keeps {s0 : State} {s : State} {r : CmdRef} {status : Nat} (hk : s0.Keeps s) :
    s0.Keeps (State.withdraw s r status) := by
  unfold State.withdraw
  repeat' first
    | with_reducible exact hk
    | with_reducible apply State.finish_keeps
    | with_reducible apply State.undo_keeps

theorem State.stopRunning_keeps {s0 : State} {s : State} {r : CmdRef} {status : Nat} (hk : s0.Keeps s) :
    s0.Keeps (State.stopRunning s r status) := by
  unfold State.stopRunning
  repeat' first
    | intro _
    | with_reducible exact hk
    | with_reducible assumption
    | with_reducible apply State.finish_keeps
    | with_reducible apply forAll_keeps
    | with_reducible apply State.playStop_keeps
    | with_reducible apply State.wr_keeps
    | split

theorem State.dropFetched_keeps {s0 : State} {s : State} {r : CmdRef} (hk : s0.Keeps s) :
    s0.Keeps (State.dropFetched s r) := by
  unfold State.dropFetched
  dsimp only
  repeat' first
    | with_reducible exact hk
    | with_reducible apply State.Keeps.ite
    | simp only [State.Keeps.upd_iff]

theorem State.takeAbort_keeps {s0 : State} {s : State} {a : AbortReq} (hk : s0.Keeps s) :
    s0.Keeps (State.takeAbort s a) := by
  unfold State.takeAbort
  dsimp only
  repeat' first
    | with_reducible exact hk
    | with_reducible apply State.Keeps.ite
    | with_reducible apply State.complete_keeps
    | with_reducible apply State.dropFetched_keeps
    | with_reducible apply State.stopRunning_keeps
    | with_reducible apply State.withdraw_keeps
    | simp only [State.Keeps.upd_iff]
    | split

theorem State.abortTick_keeps {s0 : State} {s : State} (hk : s0.Keeps s) :
    s0.Keeps (State.abortTick s) := by
  unfold State.abortTick
  dsimp only
  repeat' first
    | intro _
    | with_reducible exact hk
    | with_reducible assumption
    | with_reducible apply forAll_keeps
    | with_reducible apply State.takeAbort_keeps
    | simp only [State.Keeps.upd_iff]

theorem State.drainTick_keeps {s0 : State} {s : State} (hk : s0.Keeps s) :
    s0.Keeps (State.drainTick s) := by
  unfold State.drainTick
  dsimp only
  repeat' first
    | intro _
    | with_reducible exact hk
    | with_reducible assumption
    | with_reducible apply State.drainDone_keeps
    | with_reducible apply forAll_keeps
    | with_reducible apply State.stopRunning_keeps
    | with_reducible apply upTo_keeps
    | simp only [State.Keeps.upd_iff]

theorem State.ringDisable_keeps {s0 : State} {s : State} {n : Nat} (hk : s0.Keeps s) :
    s0.Keeps (State.ringDisable s n) := by
  unfold State.ringDisable
  dsimp only
  repeat' first
    | intro _
    | with_reducible exact hk
    | with_reducible assumption
    | with_reducible apply State.Keeps.ite
    | with_reducible apply State.complete_keeps
    | with_reducible apply State.drainDone_keeps
    | with_reducible apply State.dropFetched_keeps
    | with_reducible apply forAll_keeps
    | with_reducible apply State.wr_keeps
    | with_reducible apply State.withdraw_keeps
    | simp only [State.Keeps.upd_iff]

theorem execCmdRingDisable_keeps {s0 : State} {n : Fin 16} {s : State} (hk : s0.Keeps s) :
    Res.Keeps s0 (execCmdRingDisable n s) := by
  unfold execCmdRingDisable
  repeat' first
    | with_reducible exact hk
    | with_reducible apply Res.Keeps.ofNext
    | with_reducible apply State.ringDisable_keeps

end Sys2Proof.Machine
end

