-- ==== Sys2Proof/Laws/KeepsRoute.lean ====
section
/-! SUPPORT. What the operations of Machine/Route.lean keep (`State.Keeps`): the queue and the canonical form of the stores. -/

namespace Sys2Proof.Machine

theorem State.colRampEnd_keeps {s0 : State} {s : State} {m : Nat} (hk : s0.Keeps s) :
    s0.Keeps (State.colRampEnd s m) := by
  unfold State.colRampEnd
  dsimp only
  repeat' first
    | with_reducible exact hk
    | with_reducible apply State.Keeps.ite
    | with_reducible apply State.setCol_keeps

theorem execXptRampEnd_keeps {s0 : State} {m : Fin 1024} {s : State} (hk : s0.Keeps s) :
    Res.Keeps s0 (execXptRampEnd m s) := by
  unfold execXptRampEnd
  repeat' first
    | with_reducible exact hk
    | with_reducible apply Res.Keeps.ofNext
    | with_reducible apply State.colRampEnd_keeps

theorem execXptCopyDone_keeps {s0 : State} {m : Fin 1024} {s : State} (hk : s0.Keeps s) :
    Res.Keeps s0 (execXptCopyDone m s) := by
  unfold execXptCopyDone
  repeat' first
    | with_reducible exact hk
    | with_reducible apply Res.Keeps.ofNext
    | with_reducible apply State.Keeps.ite
    | with_reducible apply State.copyCol_keeps

theorem State.xptDue_keeps {s0 : State} {s : State} (hk : s0.Keeps s) :
    s0.Keeps (State.xptDue s) := by
  unfold State.xptDue
  repeat' first
    | intro _
    | with_reducible exact hk
    | with_reducible assumption
    | with_reducible apply State.Keeps.ite
    | with_reducible apply State.colRampEnd_keeps
    | with_reducible apply State.copyCol_keeps
    | with_reducible apply forAll_keeps

theorem State.meterDue_keeps {s0 : State} {s : State} (hk : s0.Keeps s) :
    s0.Keeps (State.meterDue s) := by
  unfold State.meterDue
  dsimp only
  repeat' first
    | with_reducible exact hk
    | with_reducible apply State.Keeps.ite
    | with_reducible apply State.latchMeters_keeps
    | simp only [State.Keeps.upd_iff]

theorem execMeterWindowEnd_keeps {s0 : State} {s : State} (hk : s0.Keeps s) :
    Res.Keeps s0 (execMeterWindowEnd s) := by
  unfold execMeterWindowEnd
  repeat' first
    | with_reducible exact hk
    | with_reducible apply Res.Keeps.ofNext
    | with_reducible apply State.meterDue_keeps

theorem State.meterTick_keeps {s0 : State} {s : State} (hk : s0.Keeps s) :
    s0.Keeps (State.meterTick s) := by
  unfold State.meterTick
  dsimp only
  repeat' first
    | intro _
    | with_reducible exact hk
    | with_reducible assumption
    | with_reducible apply State.Keeps.ite
    | with_reducible apply State.wr_keeps
    | with_reducible apply upTo_keeps
    | simp only [State.Keeps.upd_iff]

theorem State.mtrCfg_keeps {s0 : State} {s : State} {win : Nat} (hk : s0.Keeps s) :
    s0.Keeps (State.mtrCfg s win) := by
  unfold State.mtrCfg
  dsimp only
  repeat' first
    | with_reducible exact hk
    | with_reducible apply State.Keeps.ite
    | with_reducible apply State.wr_keeps
    | simp only [State.Keeps.upd_iff]

theorem execPatchMtrCfgWrite_keeps {s0 : State} {win : BitVec 4} {s : State} (hk : s0.Keeps s) :
    Res.Keeps s0 (execPatchMtrCfgWrite win s) := by
  unfold execPatchMtrCfgWrite
  repeat' first
    | with_reducible exact hk
    | with_reducible apply Res.Keeps.ofNext
    | with_reducible apply State.mtrCfg_keeps

theorem State.mtrClr_keeps {s0 : State} {s : State} (hk : s0.Keeps s) :
    s0.Keeps (State.mtrClr s) := by
  unfold State.mtrClr
  dsimp only
  repeat' first
    | with_reducible exact hk
    | simp only [State.Keeps.upd_iff]

theorem execPatchMtrClr_keeps {s0 : State} {s : State} (hk : s0.Keeps s) :
    Res.Keeps s0 (execPatchMtrClr s) := by
  unfold execPatchMtrClr
  repeat' first
    | with_reducible exact hk
    | with_reducible apply Res.Keeps.ofNext
    | with_reducible apply State.mtrClr_keeps

theorem State.captureEnd_keeps {s0 : State} {s : State} {n : Nat} (hk : s0.Keeps s) :
    s0.Keeps (State.captureEnd s n) := by
  unfold State.captureEnd
  repeat' first
    | with_reducible exact hk
    | with_reducible apply State.Keeps.ite
    | with_reducible apply State.captureDone_keeps

theorem execCaptureDone_keeps {s0 : State} {n : Fin 4} {s : State} (hk : s0.Keeps s) :
    Res.Keeps s0 (execCaptureDone n s) := by
  unfold execCaptureDone
  repeat' first
    | with_reducible exact hk
    | with_reducible apply Res.Keeps.ofNext
    | with_reducible apply State.captureEnd_keeps

theorem State.fadeOutEnd_keeps {s0 : State} {s : State} {k : Nat} (hk : s0.Keeps s) :
    s0.Keeps (State.fadeOutEnd s k) := by
  unfold State.fadeOutEnd
  repeat' first
    | with_reducible exact hk
    | with_reducible apply State.Keeps.ite
    | with_reducible apply State.patchFadeOutEnd_keeps

theorem execPatchFadeOutEnd_keeps {s0 : State} {k : Fin 2056} {s : State} (hk : s0.Keeps s) :
    Res.Keeps s0 (execPatchFadeOutEnd k s) := by
  unfold execPatchFadeOutEnd
  repeat' first
    | with_reducible exact hk
    | with_reducible apply Res.Keeps.ofNext
    | with_reducible apply State.fadeOutEnd_keeps

theorem State.fadeEnd_keeps {s0 : State} {s : State} {k : Nat} (hk : s0.Keeps s) :
    s0.Keeps (State.fadeEnd s k) := by
  unfold State.fadeEnd
  repeat' first
    | with_reducible exact hk
    | with_reducible apply State.Keeps.ite
    | with_reducible apply State.patchSteady_keeps

theorem execPatchFadeEnd_keeps {s0 : State} {k : Fin 2056} {s : State} (hk : s0.Keeps s) :
    Res.Keeps s0 (execPatchFadeEnd k s) := by
  unfold execPatchFadeEnd
  repeat' first
    | with_reducible exact hk
    | with_reducible apply Res.Keeps.ofNext
    | with_reducible apply State.fadeEnd_keeps

theorem State.patchDue_keeps {s0 : State} {s : State} (hk : s0.Keeps s) :
    s0.Keeps (State.patchDue s) := by
  unfold State.patchDue
  repeat' first
    | intro _
    | with_reducible exact hk
    | with_reducible assumption
    | with_reducible apply State.Keeps.ite
    | with_reducible apply State.fadeEnd_keeps
    | with_reducible apply State.fadeOutEnd_keeps
    | with_reducible apply forAll_keeps

theorem State.xptPush_keeps {s0 : State} {s : State} (hk : s0.Keeps s) :
    s0.Keeps (State.xptPush s) := by
  unfold State.xptPush
  repeat' first
    | with_reducible exact hk
    | with_reducible apply State.Keeps.ite
    | with_reducible apply State.pushXpt_keeps
    | with_reducible apply State.set1_keeps

theorem execXptQpush_keeps {s0 : State} {master : Master} {s : State} (hk : s0.Keeps s) :
    Res.Keeps s0 (execXptQpush master s) := by
  unfold execXptQpush
  repeat' first
    | with_reducible exact hk
    | with_reducible apply Res.Keeps.ofNext
    | with_reducible apply State.Keeps.ite
    | with_reducible apply State.wpEvent_keeps
    | with_reducible apply State.xptPush_keeps

theorem State.patchPush_keeps {s0 : State} {s : State} (hk : s0.Keeps s) :
    s0.Keeps (State.patchPush s) := by
  unfold State.patchPush
  dsimp only
  repeat' first
    | with_reducible exact hk
    | with_reducible apply State.Keeps.ite
    | with_reducible apply State.set1_keeps
    | simp only [State.Keeps.upd_iff]

theorem execPatchPush_keeps {s0 : State} {master : Master} {s : State} (hk : s0.Keeps s) :
    Res.Keeps s0 (execPatchPush master s) := by
  unfold execPatchPush
  repeat' first
    | with_reducible exact hk
    | with_reducible apply Res.Keeps.ofNext
    | with_reducible apply State.Keeps.ite
    | with_reducible apply State.patchPush_keeps
    | with_reducible apply State.wpEvent_keeps

theorem State.capArm_keeps {s0 : State} {s : State} {n : Nat} (hk : s0.Keeps s) :
    s0.Keeps (State.capArm s n) := by
  unfold State.capArm
  repeat' first
    | with_reducible exact hk
    | with_reducible apply State.Keeps.ite
    | with_reducible apply State.armCapture_keeps

theorem execXptCapArm_keeps {s0 : State} {n : Fin 4} {s : State} (hk : s0.Keeps s) :
    Res.Keeps s0 (execXptCapArm n s) := by
  unfold execXptCapArm
  repeat' first
    | with_reducible exact hk
    | with_reducible apply Res.Keeps.ofNext
    | with_reducible apply State.capArm_keeps

theorem State.xptClrSat_keeps {s0 : State} {s : State} (hk : s0.Keeps s) :
    s0.Keeps (State.xptClrSat s) := by
  unfold State.xptClrSat
  repeat' first
    | with_reducible exact hk
    | with_reducible apply State.setReg_keeps

theorem State.xptClrEcc_keeps {s0 : State} {s : State} (hk : s0.Keeps s) :
    s0.Keeps (State.xptClrEcc s) := by
  unfold State.xptClrEcc
  repeat' first
    | with_reducible exact hk
    | with_reducible apply State.setReg_keeps

theorem State.xptClrBlk_keeps {s0 : State} {s : State} (hk : s0.Keeps s) :
    s0.Keeps (State.xptClrBlk s) := by
  unfold State.xptClrBlk
  repeat' first
    | with_reducible exact hk
    | with_reducible apply State.setReg_keeps

theorem execXptCntClrSat_keeps {s0 : State} {s : State} (hk : s0.Keeps s) :
    Res.Keeps s0 (execXptCntClrSat s) := by
  unfold execXptCntClrSat
  repeat' first
    | with_reducible exact hk
    | with_reducible apply Res.Keeps.ofNext
    | with_reducible apply State.xptClrSat_keeps

theorem execXptCntClrEcc_keeps {s0 : State} {s : State} (hk : s0.Keeps s) :
    Res.Keeps s0 (execXptCntClrEcc s) := by
  unfold execXptCntClrEcc
  repeat' first
    | with_reducible exact hk
    | with_reducible apply Res.Keeps.ofNext
    | with_reducible apply State.xptClrEcc_keeps

theorem execXptCntClrBlk_keeps {s0 : State} {s : State} (hk : s0.Keeps s) :
    Res.Keeps s0 (execXptCntClrBlk s) := by
  unfold execXptCntClrBlk
  repeat' first
    | with_reducible exact hk
    | with_reducible apply Res.Keeps.ofNext
    | with_reducible apply State.xptClrBlk_keeps

theorem State.patchClrSinks_keeps {s0 : State} {s : State} (hk : s0.Keeps s) :
    s0.Keeps (State.patchClrSinks s) := by
  unfold State.patchClrSinks
  repeat' first
    | intro _
    | with_reducible exact hk
    | with_reducible assumption
    | with_reducible apply State.setReg_keeps
    | with_reducible apply upTo_keeps

theorem State.patchClrTotal_keeps {s0 : State} {s : State} (hk : s0.Keeps s) :
    s0.Keeps (State.patchClrTotal s) := by
  unfold State.patchClrTotal
  repeat' first
    | with_reducible exact hk
    | with_reducible apply State.setReg_keeps

theorem execPatchCntClrSinks_keeps {s0 : State} {s : State} (hk : s0.Keeps s) :
    Res.Keeps s0 (execPatchCntClrSinks s) := by
  unfold execPatchCntClrSinks
  repeat' first
    | with_reducible exact hk
    | with_reducible apply Res.Keeps.ofNext
    | with_reducible apply State.patchClrSinks_keeps

theorem execPatchCntClrTotal_keeps {s0 : State} {s : State} (hk : s0.Keeps s) :
    Res.Keeps s0 (execPatchCntClrTotal s) := by
  unfold execPatchCntClrTotal
  repeat' first
    | with_reducible exact hk
    | with_reducible apply Res.Keeps.ofNext
    | with_reducible apply State.patchClrTotal_keeps

end Sys2Proof.Machine
end

