-- ==== Sys2Proof/Laws/KeepsRegAccess.lean ====
section
/-! SUPPORT. What the operations of Machine/RegAccess.lean keep (`State.Keeps`): the queue and the canonical form of the stores. -/

namespace Sys2Proof.Machine

theorem State.sysReset_keeps {s0 : State} {s : State} {v : Word} (hk : s0.Keeps s) :
    s0.Keeps (State.sysReset s v) := by
  unfold State.sysReset
  repeat' first
    | with_reducible exact hk
    | with_reducible apply State.Keeps.ite
    | with_reducible apply State.flagEvent_keeps
    | with_reducible apply State.mapBoot_keeps

theorem execSysResetWrite_keeps {s0 : State} {v : Word} {s : State} (hk : s0.Keeps s) :
    Res.Keeps s0 (execSysResetWrite v s) := by
  unfold execSysResetWrite
  repeat' first
    | with_reducible exact hk
    | with_reducible apply Res.Keeps.ofNext
    | with_reducible apply State.sysReset_keeps

theorem State.wdogKick_keeps {s0 : State} {s : State} {m : Master} {v : Nat} (hk : s0.Keeps s) :
    s0.Keeps (State.wdogKick s m v) := by
  unfold State.wdogKick
  dsimp only
  repeat' first
    | with_reducible exact hk
    | with_reducible apply State.Keeps.ite
    | with_reducible apply State.flagEvent_keeps
    | simp only [State.Keeps.upd_iff]

theorem execSysWdogKick_keeps {s0 : State} {master : Master} {v : BitVec 16} {s : State} (hk : s0.Keeps s) :
    Res.Keeps s0 (execSysWdogKick master v s) := by
  unfold execSysWdogKick
  repeat' first
    | with_reducible exact hk
    | with_reducible apply Res.Keeps.ofNext
    | with_reducible apply State.wdogKick_keeps

theorem State.sysRemap_keeps {s0 : State} {s : State} {v : Word} (hk : s0.Keeps s) :
    s0.Keeps (State.sysRemap s v) := by
  unfold State.sysRemap
  repeat' first
    | with_reducible exact hk
    | with_reducible apply State.Keeps.ite
    | with_reducible apply State.wr_keeps

theorem execSysRemapWrite_keeps {s0 : State} {v : Word} {s : State} (hk : s0.Keeps s) :
    Res.Keeps s0 (execSysRemapWrite v s) := by
  unfold execSysRemapWrite
  repeat' first
    | with_reducible exact hk
    | with_reducible apply Res.Keeps.ofNext
    | with_reducible apply State.sysRemap_keeps

theorem State.memDusk_keeps {s0 : State} {s : State} {m : Master} {req : Nat} (hk : s0.Keeps s) :
    s0.Keeps (State.memDusk s m req).1 := by
  unfold State.memDusk
  repeat' first
    | with_reducible exact hk
    | with_reducible apply State.Keeps.iteFst
    | with_reducible apply State.duskRequest_keeps

theorem execMemDuskWrite_keeps {s0 : State} {master : Master} {req : BitVec 5} {s : State} (hk : s0.Keeps s) :
    Res.Keeps s0 (execMemDuskWrite master req s) := by
  unfold execMemDuskWrite
  dsimp only
  repeat' first
    | with_reducible exact hk
    | with_reducible apply Res.Keeps.ofNext
    | with_reducible apply State.Keeps.ite
    | with_reducible apply State.memDusk_keeps
    | with_reducible apply State.wpEvent_keeps

theorem State.engClrOverrun_keeps {s0 : State} {s : State} (hk : s0.Keeps s) :
    s0.Keeps (State.engClrOverrun s) := by
  unfold State.engClrOverrun
  repeat' first
    | with_reducible exact hk
    | with_reducible apply State.setReg_keeps

theorem execEngCntClrOverrun_keeps {s0 : State} {s : State} (hk : s0.Keeps s) :
    Res.Keeps s0 (execEngCntClrOverrun s) := by
  unfold execEngCntClrOverrun
  repeat' first
    | with_reducible exact hk
    | with_reducible apply Res.Keeps.ofNext
    | with_reducible apply State.engClrOverrun_keeps

theorem State.takeReg_keeps {s0 : State} {s : State} {a : Nat} {leave : Word} (hk : s0.Keeps s) :
    s0.Keeps (State.takeReg s a leave) := by
  unfold State.takeReg
  dsimp only
  repeat' first
    | with_reducible exact hk
    | with_reducible apply State.setReg_keeps
    | simp only [State.Keeps.upd_iff]

theorem execEngMarginMinRead_keeps {s0 : State} {s : State} (hk : s0.Keeps s) :
    Res.Keeps s0 (execEngMarginMinRead s) := by
  unfold execEngMarginMinRead
  repeat' first
    | with_reducible exact hk
    | with_reducible apply Res.Keeps.ofNext
    | with_reducible apply State.takeReg_keeps

theorem State.cluClrSat_keeps {s0 : State} {s : State} {n : Nat} (hk : s0.Keeps s) :
    s0.Keeps (State.cluClrSat s n) := by
  unfold State.cluClrSat
  repeat' first
    | intro _
    | with_reducible exact hk
    | with_reducible assumption
    | with_reducible apply State.setReg_keeps
    | with_reducible apply upTo_keeps

theorem execCluCntClrSat_keeps {s0 : State} {n : Fin 4} {s : State} (hk : s0.Keeps s) :
    Res.Keeps s0 (execCluCntClrSat n s) := by
  unfold execCluCntClrSat
  repeat' first
    | with_reducible exact hk
    | with_reducible apply Res.Keeps.ofNext
    | with_reducible apply State.cluClrSat_keeps

theorem execCluLoadRead_keeps {s0 : State} {n : Fin 4} {k : Fin 8} {s : State} (hk : s0.Keeps s) :
    Res.Keeps s0 (execCluLoadRead n k s) := by
  unfold execCluLoadRead
  dsimp only
  repeat' first
    | with_reducible exact hk
    | with_reducible apply Res.Keeps.ofNext
    | with_reducible apply State.Keeps.ite
    | with_reducible apply State.takeReg_keeps
    | with_reducible apply State.unavail_keeps
    | simp only [State.Keeps.upd_iff]

theorem State.busClrLk_keeps {s0 : State} {s : State} (hk : s0.Keeps s) :
    s0.Keeps (State.busClrLk s) := by
  unfold State.busClrLk
  repeat' first
    | with_reducible exact hk
    | with_reducible apply State.setReg_keeps

theorem State.busClrEv_keeps {s0 : State} {s : State} (hk : s0.Keeps s) :
    s0.Keeps (State.busClrEv s) := by
  unfold State.busClrEv
  repeat' first
    | with_reducible exact hk
    | with_reducible apply State.setReg_keeps

theorem State.busClrErr_keeps {s0 : State} {s : State} (hk : s0.Keeps s) :
    s0.Keeps (State.busClrErr s) := by
  unfold State.busClrErr
  repeat' first
    | with_reducible exact hk
    | with_reducible apply State.setReg_keeps
    | with_reducible apply State.wr_keeps

theorem execBusCntClrLk_keeps {s0 : State} {s : State} (hk : s0.Keeps s) :
    Res.Keeps s0 (execBusCntClrLk s) := by
  unfold execBusCntClrLk
  repeat' first
    | with_reducible exact hk
    | with_reducible apply Res.Keeps.ofNext
    | with_reducible apply State.busClrLk_keeps

theorem execBusCntClrEv_keeps {s0 : State} {s : State} (hk : s0.Keeps s) :
    Res.Keeps s0 (execBusCntClrEv s) := by
  unfold execBusCntClrEv
  repeat' first
    | with_reducible exact hk
    | with_reducible apply Res.Keeps.ofNext
    | with_reducible apply State.busClrEv_keeps

theorem execBusCntClrErr_keeps {s0 : State} {s : State} (hk : s0.Keeps s) :
    Res.Keeps s0 (execBusCntClrErr s) := by
  unfold execBusCntClrErr
  repeat' first
    | with_reducible exact hk
    | with_reducible apply Res.Keeps.ofNext
    | with_reducible apply State.busClrErr_keeps

theorem execBusWaitRead_keeps {s0 : State} {t : Fin 10} {s : State} (hk : s0.Keeps s) :
    Res.Keeps s0 (execBusWaitRead t s) := by
  unfold execBusWaitRead
  repeat' first
    | with_reducible exact hk
    | with_reducible apply Res.Keeps.ofNext
    | with_reducible apply State.takeReg_keeps

theorem execCmdPendRead_keeps {s0 : State} {s : State} (hk : s0.Keeps s) :
    Res.Keeps s0 (execCmdPendRead s) := by
  unfold execCmdPendRead
  repeat' first
    | with_reducible exact hk
    | with_reducible apply Res.Keeps.ofNext
    | with_reducible apply State.takeReg_keeps

theorem State.flagRefusal_keeps {s0 : State} {s : State} {addr : Nat} (hk : s0.Keeps s) :
    s0.Keeps (State.flagRefusal s addr) := by
  unfold State.flagRefusal
  repeat' first
    | with_reducible exact hk
    | with_reducible apply State.set1_keeps
    | split

theorem State.storeFields_keeps {s0 : State} {s : State} {m : Master} {addr : Nat} {v : Word} {fs : List FieldDef} (hk : s0.Keeps s) :
    s0.Keeps (State.storeFields s m addr v fs).1 := by
  unfold State.storeFields
  dsimp only
  repeat' first
    | intro _
    | with_reducible exact hk
    | with_reducible assumption
    | with_reducible apply State.Keeps.iteFst
    | with_reducible apply State.wr_keeps
    | with_reducible apply State.Keeps.foldlFst
    | split

theorem resState_keeps {s0 : State} {s : State} {r : Res} (hk : s0.Keeps s) (hr : Res.Keeps s0 r) : s0.Keeps (resState s r) := by
  unfold resState
  split
  · exact hr.next _ rfl
  · exact hk

theorem State.onBit_keeps {s0 : State} {s : State} {v : Word} {i : Nat} {f : State → State} (hk : s0.Keeps s) (h_f : ∀ (y0 : State), s0.Keeps y0 → s0.Keeps (f y0)) :
    s0.Keeps (State.onBit s v i f) := by
  unfold State.onBit
  repeat' first
    | with_reducible exact hk
    | with_reducible apply State.Keeps.ite
    | with_reducible apply h_f

theorem State.ptpConfigured_keeps {s0 : State} {s : State} {old : State} (hk : s0.Keeps s) :
    s0.Keeps (State.ptpConfigured s old) := by
  unfold State.ptpConfigured
  dsimp only
  repeat' first
    | with_reducible exact hk
    | with_reducible apply State.Keeps.ite
    | with_reducible apply State.ptpRestart_keeps
    | with_reducible apply State.wr_keeps
    | with_reducible apply State.setReg_keeps

theorem State.decCtrl_keeps {s0 : State} {s : State} {m : Master} {n : Nat} {v : Word} (hk : s0.Keeps s) :
    s0.Keeps (State.decCtrl s m n v) := by
  unfold State.decCtrl
  dsimp only
  repeat' first
    | with_reducible exact hk
    | with_reducible apply State.Keeps.ite
    | with_reducible apply execDecStart_keeps
    | with_reducible apply execDecStop_keeps
    | with_reducible apply resState_keeps

theorem State.spCtrlWrite_keeps {s0 : State} {s : State} {m : Master} {n : Nat} {v : Word} (hk : s0.Keeps s) :
    s0.Keeps (State.spCtrlWrite s m n v) := by
  unfold State.spCtrlWrite
  dsimp only
  repeat' first
    | with_reducible exact hk
    | with_reducible apply State.Keeps.ite
    | with_reducible apply execSpMute_keeps
    | with_reducible apply execSpStart_keeps
    | with_reducible apply execSpStop_keeps
    | with_reducible apply execSpUnmute_keeps
    | with_reducible apply resState_keeps

theorem State.globalAction_keeps {s0 : State} {s : State} {old : State} {m : Master} {addr : Nat} {v : Word} (hk : s0.Keeps s) :
    s0.Keeps (State.globalAction s old m addr v) := by
  unfold State.globalAction
  dsimp only
  repeat' first
    | intro _
    | with_reducible exact hk
    | with_reducible assumption
    | with_reducible apply State.Keeps.ite
    | with_reducible apply State.busClrErr_keeps
    | with_reducible apply State.busClrEv_keeps
    | with_reducible apply State.busClrLk_keeps
    | with_reducible apply State.engClrOverrun_keeps
    | with_reducible apply State.mtrClr_keeps
    | with_reducible apply State.patchClrSinks_keeps
    | with_reducible apply State.patchClrTotal_keeps
    | with_reducible apply State.patchPush_keeps
    | with_reducible apply State.xptClrBlk_keeps
    | with_reducible apply State.xptClrEcc_keeps
    | with_reducible apply State.xptClrSat_keeps
    | with_reducible apply State.xptPush_keeps
    | with_reducible apply State.budgetWritten_keeps
    | with_reducible apply State.capArm_keeps
    | with_reducible apply execMemCntClrConf_keeps
    | with_reducible apply execMemCntClrDlq_keeps
    | with_reducible apply execMemCntClrDram_keeps
    | with_reducible apply execMemCntClrSram_keeps
    | with_reducible apply execSecAkeyCommit_keeps
    | with_reducible apply State.onBit_keeps
    | with_reducible apply State.ptpConfigured_keeps
    | with_reducible apply resState_keeps
    | with_reducible apply State.sysReset_keeps
    | with_reducible apply State.wdogKick_keeps

theorem State.arrayAction_keeps {s0 : State} {s : State} {m : Master} {addr : Nat} {v : Word} (hk : s0.Keeps s) :
    s0.Keeps (State.arrayAction s m addr v) := by
  unfold State.arrayAction
  dsimp only
  repeat' first
    | intro _
    | with_reducible exact hk
    | with_reducible assumption
    | with_reducible apply State.Keeps.ite
    | with_reducible apply State.cluClrSat_keeps
    | with_reducible apply State.decCtrl_keeps
    | with_reducible apply State.drvUnlatch_keeps
    | with_reducible apply execSpMaskCommit_keeps
    | with_reducible apply State.onBit_keeps
    | with_reducible apply resState_keeps
    | with_reducible apply State.ringDisable_keeps
    | with_reducible apply State.ringEnable_keeps
    | with_reducible apply State.spCtrlWrite_keeps
    | split

/-- What an optional answer keeps. -/
structure OptKeeps (s0 : State) (o : Option (State × Bool)) : Prop where
  val : ∀ x, o = some x → s0.Keeps x.1

theorem OptKeeps.ofSome {s0 : State} {x : State × Bool} (h : s0.Keeps x.1) : OptKeeps s0 (some x) := by
  constructor
  intro y e
  cases e
  exact h

theorem OptKeeps.ofNone {s0 : State} : OptKeeps s0 none := by
  constructor
  intro y e
  cases e

theorem OptKeeps.ite {s0 : State} {c : Prop} [Decidable c] {x y : Option (State × Bool)} (h : OptKeeps s0 x) (k : OptKeeps s0 y) :
    OptKeeps s0 (if c then x else y) := by
  split
  · exact h
  · exact k

theorem State.ownWrite_keeps {s0 : State} {s : State} {m : Master} {addr : Nat} {v : Word} (hk : s0.Keeps s) :
    OptKeeps s0 (State.ownWrite s m addr v) := by
  unfold State.ownWrite
  dsimp only
  repeat' first
    | with_reducible exact hk
    | with_reducible assumption
    | with_reducible apply OptKeeps.ite
    | with_reducible apply OptKeeps.ofNone
    | with_reducible apply OptKeeps.ofSome
    | with_reducible apply resState_keeps
    | with_reducible apply State.flagRefusal_keeps
    | with_reducible apply execClkGateReqWrite_keeps
    | with_reducible apply execRefSelWrite_keeps
    | with_reducible apply execOvrArmWrite_keeps
    | with_reducible apply execOvrCommitWrite_keeps
    | with_reducible apply State.memDusk_keeps
    | with_reducible apply State.mtrCfg_keeps
    | with_reducible apply execCmdDoorbell_keeps
    | with_reducible apply execCmdCdbWrite_keeps
    | with_reducible apply State.genCfgPut_keeps
    | with_reducible apply State.onBit_keeps
    | with_reducible apply execLsLearnStart_keeps
    | with_reducible apply State.setReg_keeps
    | with_reducible apply State.recovGo_keeps
    | intro _

theorem State.anaInWrite_keeps {s0 : State} {s : State} {m : Master} {addr : Nat} {v : Word} {fs : List FieldDef} (hk : s0.Keeps s) :
    s0.Keeps (State.anaInWrite s m addr v fs).1 := by
  unfold State.anaInWrite
  dsimp only
  repeat' first
    | with_reducible exact hk
    | with_reducible apply State.Keeps.iteFst
    | with_reducible apply State.gainWrite_keeps
    | with_reducible apply State.storeFields_keeps

theorem State.regPut_keeps {s0 : State} {s : State} {m : Master} {addr : Nat} {v : Word} (hk : s0.Keeps s) :
    s0.Keeps (State.regPut s m addr v).1 := by
  unfold State.regPut
  split
  · exact hk
  · split
    · rename_i e
      exact (State.ownWrite_keeps hk).val _ e
    · split
      · exact State.flagRefusal_keeps hk
      · split
        rename_i r _ _ _ _ s1 bad e
        have h1 : s0.Keeps s1 := State.Keeps.fst e
          (State.Keeps.iteFst (State.anaInWrite_keeps hk) (State.storeFields_keeps hk))
        have h2 := State.arrayAction_keeps (m := m) (addr := addr) (v := v)
          (State.globalAction_keeps (old := s) (m := m) (addr := addr) (v := v) h1)
        exact State.Keeps.ite (State.flagRefusal_keeps h2) h2

theorem State.regWrite_keeps {s0 : State} {s : State} {m : Master} {addr : Nat} {v : Word} (hk : s0.Keeps s) :
    s0.Keeps (State.regWrite s m addr v).1 := by
  unfold State.regWrite
  dsimp only
  repeat' first
    | with_reducible exact hk
    | with_reducible apply State.Keeps.ite
    | with_reducible apply State.regPut_keeps
    | with_reducible apply State.wpEvent_keeps

theorem State.aliasPut_keeps {s0 : State} {s : State} {m : Master} {addr : Nat} {v : Word} {group : Bool} (hk : s0.Keeps s) :
    s0.Keeps (State.aliasPut s m addr v group).1 := by
  unfold State.aliasPut
  dsimp only
  repeat' first
    | intro _
    | with_reducible exact hk
    | with_reducible assumption
    | with_reducible apply State.Keeps.ite
    | with_reducible apply State.Keeps.iteFst
    | with_reducible apply State.regPut_keeps
    | with_reducible apply State.wpEvent_keeps
    | with_reducible apply State.Keeps.foldlFst
    | split

theorem State.regWriteAny_keeps {s0 : State} {s : State} {m : Master} {addr : Nat} {v : Word} (hk : s0.Keeps s) :
    s0.Keeps (State.regWriteAny s m addr v).1 := by
  unfold State.regWriteAny
  dsimp only
  repeat' first
    | with_reducible exact hk
    | with_reducible apply State.Keeps.iteFst
    | with_reducible apply State.aliasPut_keeps
    | with_reducible apply State.regWrite_keeps

theorem State.regReadFx_keeps {s0 : State} {s : State} {addr : Nat} (hk : s0.Keeps s) :
    s0.Keeps (State.regReadFx s addr) := by
  unfold State.regReadFx
  dsimp only
  repeat' first
    | with_reducible exact hk
    | with_reducible apply State.Keeps.ite
    | with_reducible apply execBusWaitRead_keeps
    | with_reducible apply execCluLoadRead_keeps
    | with_reducible apply execCmdPendRead_keeps
    | with_reducible apply execDecFifoRead_keeps
    | with_reducible apply execEngMarginMinRead_keeps
    | with_reducible apply execFlashcSuspRead_keeps
    | with_reducible apply execMemDramRtRead_keeps
    | with_reducible apply execPtpDtimeLoRead_keeps
    | with_reducible apply execPtpStepLoRead_keeps
    | with_reducible apply execPwrTjMaxRead_keeps
    | with_reducible apply resState_keeps
    | simp only [State.Keeps.upd_iff]

end Sys2Proof.Machine
end

