-- ==== Sys2Proof/Laws/KeepsBus.lean ====
section
/-! SUPPORT. What the operations of Machine/Bus.lean keep (`State.Keeps`): the queue and the canonical form of the stores. -/

namespace Sys2Proof.Machine

theorem State.busRecord_keeps {s0 : State} {s : State} {m : Master} {target : Nat} {write : Bool} {addr : Nat} {resp : Nat} (hk : s0.Keeps s) :
    s0.Keeps (State.busRecord s m target write addr resp) := by
  unfold State.busRecord
  dsimp only
  repeat' first
    | with_reducible exact hk
    | with_reducible apply State.Keeps.ite
    | with_reducible apply State.bump_keeps
    | with_reducible apply State.set1_keeps
    | with_reducible apply State.unavail_keeps
    | with_reducible apply State.setReg_keeps

theorem State.putBeat_keeps {s0 : State} {s : State} {a : Nat} {b : Beat} (hk : s0.Keeps s) :
    s0.Keeps (State.putBeat s a b) := by
  unfold State.putBeat
  repeat' first
    | intro _
    | with_reducible exact hk
    | with_reducible assumption
    | with_reducible apply State.Keeps.ite
    | with_reducible apply State.setByte_keeps
    | with_reducible apply upTo_keeps

theorem State.sramRead_keeps {s0 : State} {s : State} {m : Nat} {a : Nat} {b : Beat} (hk : s0.Keeps s) :
    s0.Keeps (State.sramRead s m a b).1 := by
  unfold State.sramRead
  dsimp only
  repeat' first
    | with_reducible exact hk
    | with_reducible apply State.Keeps.ite
    | with_reducible apply State.Keeps.iteFst
    | with_reducible apply State.eccUe_keeps

theorem State.sramWrite_keeps {s0 : State} {s : State} {m : Nat} {a : Nat} {b : Beat} (hk : s0.Keeps s) :
    s0.Keeps (State.sramWrite s m a b).1 := by
  unfold State.sramWrite
  dsimp only
  repeat' first
    | intro _
    | with_reducible exact hk
    | with_reducible assumption
    | with_reducible apply State.Keeps.ite
    | with_reducible apply State.eccUe_keeps
    | with_reducible apply State.laneWritten_keeps
    | with_reducible apply State.putBeat_keeps
    | with_reducible apply upTo_keeps
    | simp only [State.Keeps.upd_iff]
    | split

theorem State.coefPut_keeps {s0 : State} {s : State} {idx : Nat} {ws : List (Option Word)} (hk : s0.Keeps s) :
    s0.Keeps (State.coefPut s idx ws).1 := by
  unfold State.coefPut
  dsimp only
  repeat' first
    | intro _
    | with_reducible exact hk
    | with_reducible assumption
    | with_reducible apply State.Keeps.iteFst
    | with_reducible apply State.blockedWrite_keeps
    | with_reducible apply State.setGain_keeps
    | with_reducible apply upTo_keeps
    | split

theorem State.coefBeat_keeps {s0 : State} {s : State} {a : Nat} {b : Beat} (hk : s0.Keeps s) :
    s0.Keeps (State.coefBeat s a b).1 := by
  unfold State.coefBeat
  dsimp only
  repeat' first
    | with_reducible exact hk
    | with_reducible apply State.coefPut_keeps

theorem State.regBeat_keeps {s0 : State} {s : State} {m : Master} {write : Bool} {a : Nat} {b : Beat} (hk : s0.Keeps s) :
    s0.Keeps (State.regBeat s m write a b).1 := by
  unfold State.regBeat
  dsimp only
  repeat' first
    | with_reducible exact hk
    | with_reducible apply State.Keeps.iteFst
    | with_reducible apply State.regReadFx_keeps
    | with_reducible apply State.regWriteAny_keeps
    | split

theorem State.flashBeat_keeps {s0 : State} {s : State} {m : Master} {write : Bool} {a : Nat} {b : Beat} (hk : s0.Keeps s) :
    s0.Keeps (State.flashBeat s m write a b).1 := by
  unfold State.flashBeat
  dsimp only
  repeat' first
    | intro _
    | with_reducible exact hk
    | with_reducible assumption
    | with_reducible apply State.Keeps.ite
    | with_reducible apply State.Keeps.iteFst
    | with_reducible apply State.regReadFx_keeps
    | with_reducible apply State.regWriteAny_keeps
    | with_reducible apply upTo_keeps
    | with_reducible apply State.Keeps.foldlFst

theorem State.doBeat_keeps {s0 : State} {s : State} {m : Master} {write : Bool} {t : Nat} {a : Nat} {b : Beat} (hk : s0.Keeps s) :
    s0.Keeps (State.doBeat s m write t a b).1 := by
  unfold State.doBeat
  dsimp only
  repeat' first
    | with_reducible exact hk
    | with_reducible apply State.Keeps.iteFst
    | with_reducible apply State.coefBeat_keeps
    | with_reducible apply State.dramUe_keeps
    | with_reducible apply State.flashBeat_keeps
    | with_reducible apply State.putBeat_keeps
    | with_reducible apply State.regBeat_keeps
    | with_reducible apply State.sramRead_keeps
    | with_reducible apply State.sramWrite_keeps
    | split

theorem State.doBeats_keeps {s0 : State} {s : State} {m : Master} {write : Bool} {t : Nat} {w0 : Nat} {w1 : List Beat} (hk : s0.Keeps s) :
    s0.Keeps (State.doBeats s m write t w0 w1) := by
  induction w1 generalizing s m write t w0 with
  | nil => exact hk
  | cons _ _ ih =>
    unfold State.doBeats
    dsimp only
    repeat' first
      | with_reducible exact hk
      | with_reducible apply State.busRecord_keeps
      | with_reducible apply State.doBeat_keeps
      | with_reducible apply ih
      | simp only [State.Keeps.upd_iff]

theorem State.failBeats_keeps {s0 : State} {s : State} {m : Master} {write : Bool} {t : Nat} {r : Nat} {w0 : Nat} {w1 : Nat} (hk : s0.Keeps s) :
    s0.Keeps (State.failBeats s m write t r w0 w1) := by
  induction w1 generalizing s m write t r w0 with
  | zero => exact hk
  | succ _ ih =>
    unfold State.failBeats
    dsimp only
    repeat' first
      | with_reducible exact hk
      | with_reducible apply State.busRecord_keeps
      | with_reducible apply ih
      | simp only [State.Keeps.upd_iff]

theorem State.lockStep_keeps {s0 : State} {s : State} {b : Burst} {t : Nat} (hk : s0.Keeps s) :
    s0.Keeps (State.lockStep s b t) := by
  unfold State.lockStep
  dsimp only
  repeat' first
    | with_reducible exact hk
    | with_reducible apply State.Keeps.ite
    | with_reducible apply State.bump_keeps
    | with_reducible apply State.event_keeps
    | with_reducible apply State.set1_keeps
    | simp only [State.Keeps.upd_iff]
    | split

theorem State.grant_keeps {s0 : State} {s : State} {t : Nat} {waited : Nat} (hk : s0.Keeps s) :
    s0.Keeps (State.grant s t waited) := by
  unfold State.grant
  dsimp only
  repeat' first
    | with_reducible exact hk
    | with_reducible apply State.Keeps.ite
    | with_reducible apply State.bump_keeps
    | with_reducible apply State.wr_keeps
    | simp only [State.Keeps.upd_iff]

theorem State.burst_keeps {s0 : State} {s : State} {b : Burst} (hk : s0.Keeps s) :
    s0.Keeps (State.burst s b) := by
  unfold State.burst
  dsimp only
  repeat' first
    | with_reducible exact hk
    | with_reducible apply State.Keeps.ite
    | with_reducible apply State.doBeats_keeps
    | with_reducible apply State.failBeats_keeps
    | with_reducible apply State.grant_keeps
    | with_reducible apply State.lockStep_keeps
    | simp only [State.Keeps.upd_iff]
    | split

theorem execBusBurst_keeps {s0 : State} {b : Burst} {s : State} (hk : s0.Keeps s) :
    Res.Keeps s0 (execBusBurst b s) := by
  unfold execBusBurst
  repeat' first
    | with_reducible exact hk
    | with_reducible apply Res.Keeps.ofNext
    | with_reducible apply Res.Keeps.fault
    | with_reducible apply Res.Keeps.ite
    | with_reducible apply State.burst_keeps

theorem State.busTimeout_keeps {s0 : State} {s : State} {m : Master} {t : Nat} {write : Bool} {addr : Nat} {beats : Nat} (hk : s0.Keeps s) :
    s0.Keeps (State.busTimeout s m t write addr beats) := by
  unfold State.busTimeout
  dsimp only
  repeat' first
    | with_reducible exact hk
    | with_reducible apply State.Keeps.ite
    | with_reducible apply State.funcReinit_keeps
    | with_reducible apply State.bump_keeps
    | with_reducible apply State.event_keeps
    | with_reducible apply State.failBeats_keeps
    | with_reducible apply State.set1_keeps
    | simp only [State.Keeps.upd_iff]

theorem execBusTimeout_keeps {s0 : State} {master : Master} {target : Fin 10} {write : Bool} {addr : Word} {beats : Fin 17} {s : State} (hk : s0.Keeps s) :
    Res.Keeps s0 (execBusTimeout master target write addr beats s) := by
  unfold execBusTimeout
  repeat' first
    | with_reducible exact hk
    | with_reducible apply Res.Keeps.ofNext
    | with_reducible apply Res.Keeps.fault
    | with_reducible apply Res.Keeps.ite
    | with_reducible apply State.busTimeout_keeps

theorem execBusAbandon_keeps {s0 : State} {master : Master} {target : Fin 10} {addr : Word} {s : State} (hk : s0.Keeps s) :
    Res.Keeps s0 (execBusAbandon master target addr s) := by
  unfold execBusAbandon
  repeat' first
    | with_reducible exact hk
    | with_reducible apply Res.Keeps.ofNext
    | with_reducible apply State.abandon_keeps

theorem State.busWord_keeps {s0 : State} {s : State} {m : Master} {addr : Nat} {v : Word} (hk : s0.Keeps s) :
    s0.Keeps (State.busWord s m addr v).1 := by
  unfold State.busWord
  repeat' first
    | with_reducible exact hk
    | with_reducible apply State.Keeps.iteFst
    | with_reducible apply State.busRecord_keeps
    | with_reducible apply State.regWriteAny_keeps
    | split

theorem State.matrixWrite_keeps {s0 : State} {s : State} {m : Master} {addr : Nat} {v : Word} (hk : s0.Keeps s) :
    s0.Keeps (State.matrixWrite s m addr v) := by
  unfold State.matrixWrite
  dsimp only
  repeat' first
    | with_reducible exact hk
    | with_reducible apply State.Keeps.ite
    | with_reducible apply State.busWord_keeps
    | simp only [State.Keeps.upd_iff]

theorem execRegisterWrite_keeps {s0 : State} {master : Master} {addr : Word} {v : Word} {s : State} (hk : s0.Keeps s) :
    Res.Keeps s0 (execRegisterWrite master addr v s) := by
  unfold execRegisterWrite
  repeat' first
    | with_reducible exact hk
    | with_reducible apply Res.Keeps.ofNext
    | with_reducible apply State.matrixWrite_keeps

theorem execBroadcastAliasWrite_keeps {s0 : State} {master : Master} {addr : Word} {v : Word} {s : State} (hk : s0.Keeps s) :
    Res.Keeps s0 (execBroadcastAliasWrite master addr v s) := by
  unfold execBroadcastAliasWrite
  repeat' first
    | with_reducible exact hk
    | with_reducible apply Res.Keeps.ofNext
    | with_reducible apply Res.Keeps.fault
    | with_reducible apply Res.Keeps.ite
    | with_reducible apply State.matrixWrite_keeps

theorem execGroupAliasWrite_keeps {s0 : State} {master : Master} {addr : Word} {v : Word} {s : State} (hk : s0.Keeps s) :
    Res.Keeps s0 (execGroupAliasWrite master addr v s) := by
  unfold execGroupAliasWrite
  repeat' first
    | with_reducible exact hk
    | with_reducible apply Res.Keeps.ofNext
    | with_reducible apply Res.Keeps.fault
    | with_reducible apply Res.Keeps.ite
    | with_reducible apply State.matrixWrite_keeps

theorem execCoefShadowWrite_keeps {s0 : State} {master : Master} {addr : Word} {words : List Word} {s : State} (hk : s0.Keeps s) :
    Res.Keeps s0 (execCoefShadowWrite master addr words s) := by
  unfold execCoefShadowWrite
  dsimp only
  repeat' first
    | with_reducible exact hk
    | with_reducible apply Res.Keeps.ofNext
    | with_reducible apply Res.Keeps.fault
    | with_reducible apply Res.Keeps.ite
    | with_reducible apply State.busRecord_keeps
    | with_reducible apply State.coefPut_keeps

end Sys2Proof.Machine
end

