-- ==== Sys2Proof/Laws/KeepsQspi.lean ====
section
/-! SUPPORT. What the operations of Machine/Qspi.lean keep (`State.Keeps`): the queue and the canonical form of the stores. -/

namespace Sys2Proof.Machine

theorem State.mapSpi_keeps {s0 : State} {s : State} {f : PortState → PortState} (hk : s0.Keeps s) :
    s0.Keeps (State.mapSpi s f) := by
  unfold State.mapSpi
  repeat' first
    | with_reducible exact hk
    | simp only [State.Keeps.upd_iff]

theorem execRdsr_keeps {s0 : State} {s : State} (hk : s0.Keeps s) :
    Res.Keeps s0 (execRdsr s) := by
  unfold execRdsr
  dsimp only
  repeat' first
    | with_reducible exact hk
    | with_reducible apply Res.Keeps.ofNext
    | with_reducible apply State.drawFree_keeps
    | with_reducible apply State.mapSpi_keeps

theorem execClsr_keeps {s0 : State} {s : State} (hk : s0.Keeps s) :
    Res.Keeps s0 (execClsr s) := by
  unfold execClsr
  repeat' first
    | with_reducible exact hk
    | with_reducible apply Res.Keeps.ofNext
    | with_reducible apply State.mapSpi_keeps

theorem execRdid_keeps {s0 : State} {s : State} (hk : s0.Keeps s) :
    Res.Keeps s0 (execRdid s) := by
  unfold execRdid
  repeat' first
    | with_reducible exact hk
    | with_reducible apply Res.Keeps.ofNext
    | with_reducible apply State.mapSpi_keeps

theorem State.portRead_keeps {s0 : State} {s : State} {a : Nat} (hk : s0.Keeps s) :
    s0.Keeps (State.portRead s a).1 := by
  unfold State.portRead
  repeat' first
    | with_reducible exact hk
    | with_reducible apply State.Keeps.iteFst
    | with_reducible apply State.busRecord_keeps
    | with_reducible apply State.regReadFx_keeps
    | split

theorem State.portReads_keeps {s0 : State} {s : State} {w0 : Nat} {w1 : Nat} (hk : s0.Keeps s) :
    s0.Keeps (State.portReads s w0 w1).1 := by
  induction w1 generalizing s w0 with
  | zero => exact hk
  | succ _ ih =>
    unfold State.portReads
    dsimp only
    repeat' first
      | with_reducible exact hk
      | with_reducible apply State.Keeps.iteFst
      | with_reducible apply State.mapSpi_keeps
      | with_reducible apply State.portRead_keeps
      | with_reducible apply ih

theorem State.portStart_keeps {s0 : State} {s : State} {a : Nat} {n : Nat} {ready : Bool} (hk : s0.Keeps s) :
    s0.Keeps (State.portStart s a n ready) := by
  unfold State.portStart
  dsimp only
  repeat' first
    | with_reducible exact hk
    | with_reducible apply State.Keeps.ite
    | with_reducible apply State.mapSpi_keeps
    | with_reducible apply State.portRead_keeps
    | with_reducible apply State.portReads_keeps

theorem State.portTransfer_keeps {s0 : State} {s : State} {addr : Word} {n : Nat} {ready : Bool} (hk : s0.Keeps s) :
    s0.Keeps (State.portTransfer s addr n ready) := by
  unfold State.portTransfer
  dsimp only
  repeat' first
    | with_reducible exact hk
    | with_reducible apply State.Keeps.ite
    | with_reducible apply State.mapSpi_keeps
    | with_reducible apply State.portReads_keeps
    | with_reducible apply State.portStart_keeps
    | split

theorem execRead_keeps {s0 : State} {addr : Word} {words : BitVec 8} {ready : Bool} {s : State} (hk : s0.Keeps s) :
    Res.Keeps s0 (execRead addr words ready s) := by
  unfold execRead
  repeat' first
    | with_reducible exact hk
    | with_reducible apply Res.Keeps.ofNext
    | with_reducible apply State.portTransfer_keeps

theorem execReadQ_keeps {s0 : State} {addr : Word} {words : BitVec 8} {ready : Bool} {s : State} (hk : s0.Keeps s) :
    Res.Keeps s0 (execReadQ addr words ready s) := by
  unfold execReadQ
  repeat' first
    | with_reducible exact hk
    | with_reducible apply Res.Keeps.ofNext
    | with_reducible apply State.portTransfer_keeps

theorem execReadQio_keeps {s0 : State} {addr : Word} {words : BitVec 8} {ready : Bool} {s : State} (hk : s0.Keeps s) :
    Res.Keeps s0 (execReadQio addr words ready s) := by
  unfold execReadQio
  repeat' first
    | with_reducible exact hk
    | with_reducible apply Res.Keeps.ofNext
    | with_reducible apply State.portTransfer_keeps

theorem State.portWrite_keeps {s0 : State} {s : State} {addr : Word} {bytes : List Byte} (hk : s0.Keeps s) :
    s0.Keeps (State.portWrite s addr bytes) := by
  unfold State.portWrite
  repeat' first
    | with_reducible exact hk
    | with_reducible apply State.Keeps.ite
    | with_reducible apply State.mapSpi_keeps

theorem execWrite_keeps {s0 : State} {addr : Word} {bytes : List Byte} {s : State} (hk : s0.Keeps s) :
    Res.Keeps s0 (execWrite addr bytes s) := by
  unfold execWrite
  repeat' first
    | with_reducible exact hk
    | with_reducible apply Res.Keeps.ofNext
    | with_reducible apply State.portWrite_keeps

theorem execWriteQ_keeps {s0 : State} {addr : Word} {bytes : List Byte} {s : State} (hk : s0.Keeps s) :
    Res.Keeps s0 (execWriteQ addr bytes s) := by
  unfold execWriteQ
  repeat' first
    | with_reducible exact hk
    | with_reducible apply Res.Keeps.ofNext
    | with_reducible apply State.portWrite_keeps

theorem execWriteQio_keeps {s0 : State} {addr : Word} {bytes : List Byte} {s : State} (hk : s0.Keeps s) :
    Res.Keeps s0 (execWriteQio addr bytes s) := by
  unfold execWriteQio
  repeat' first
    | with_reducible exact hk
    | with_reducible apply Res.Keeps.ofNext
    | with_reducible apply State.portWrite_keeps

theorem State.flushWord_keeps {s0 : State} {s : State} {a : Nat} {w : Word} (hk : s0.Keeps s) :
    s0.Keeps (State.flushWord s a w).1 := by
  unfold State.flushWord
  dsimp only
  repeat' first
    | with_reducible exact hk
    | with_reducible apply State.Keeps.ite
    | with_reducible apply State.Keeps.iteFst
    | with_reducible apply State.busWord_keeps
    | with_reducible apply State.laneWritten_keeps
    | with_reducible apply State.setMemWord_keeps

theorem State.flushWords_keeps {s0 : State} {s : State} {w0 : Nat} {w1 : List Word} (hk : s0.Keeps s) :
    s0.Keeps (State.flushWords s w0 w1) := by
  induction w1 generalizing s w0 with
  | nil => exact hk
  | cons _ _ ih =>
    unfold State.flushWords
    dsimp only
    repeat' first
      | with_reducible exact hk
      | with_reducible apply State.Keeps.ite
      | with_reducible apply State.flushWord_keeps
      | with_reducible apply State.mapSpi_keeps
      | with_reducible apply ih

theorem execQspiWriteFlush_keeps {s0 : State} {s : State} (hk : s0.Keeps s) :
    Res.Keeps s0 (execQspiWriteFlush s) := by
  unfold execQspiWriteFlush
  dsimp only
  repeat' first
    | with_reducible exact hk
    | with_reducible apply Res.Keeps.ofNext
    | with_reducible apply State.flushWords_keeps
    | with_reducible apply State.mapSpi_keeps
    | split

theorem execOtpKey_keeps {s0 : State} {slot : Fin 3} {hash : BitVec 256} {s : State} (hk : s0.Keeps s) :
    Res.Keeps s0 (execOtpKey slot hash s) := by
  unfold execOtpKey
  dsimp only
  repeat' first
    | with_reducible exact hk
    | with_reducible apply Res.Keeps.ofNext
    | with_reducible apply State.Keeps.ite
    | simp only [State.Keeps.upd_iff]

theorem execExtest_keeps {s0 : State} {s : State} (hk : s0.Keeps s) :
    Res.Keeps s0 (execExtest s) := by
  unfold execExtest
  repeat' first
    | with_reducible exact hk
    | with_reducible apply Res.Keeps.ofNext
    | with_reducible apply State.Keeps.ite
    | with_reducible apply State.mapSpi_keeps

theorem execBypass_keeps {s0 : State} {s : State} (hk : s0.Keeps s) :
    Res.Keeps s0 (execBypass s) := by
  unfold execBypass
  repeat' first
    | with_reducible exact hk
    | with_reducible apply Res.Keeps.ofNext
    | with_reducible apply State.mapSpi_keeps

theorem execIdcode_keeps {s0 : State} {s : State} (hk : s0.Keeps s) :
    Res.Keeps s0 (execIdcode s) := by
  unfold execIdcode
  repeat' first
    | with_reducible exact hk
    | with_reducible apply Res.Keeps.ofNext
    | with_reducible apply State.mapSpi_keeps

theorem execDebugHalt_keeps {s0 : State} {s : State} (hk : s0.Keeps s) :
    Res.Keeps s0 (execDebugHalt s) := by
  unfold execDebugHalt
  repeat' first
    | with_reducible exact hk
    | with_reducible apply Res.Keeps.ofNext
    | with_reducible apply State.Keeps.ite
    | with_reducible apply State.mapSpi_keeps

end Sys2Proof.Machine
end

