-- ==== Sys2Proof/Laws/KeepsOpKit.lean ====
section
/-! SUPPORT. What the operations of Machine/OpKit.lean keep (`State.Keeps`): the queue and the canonical form of the stores. -/

namespace Sys2Proof.Machine

/-- What the decision and the commit of an opcode keep. -/
structure OpRow.Keeps (r : OpRow) : Prop where
  decide : ∀ {s0 s : State} {c : Cmd} {ts : List Nat} {a : Word}, s0.Keeps s → Verdict.Keeps s0 (r.decide c ts a s)
  commit : ∀ {s0 s : State} {o : Outst}, s0.Keeps s → s0.Keeps (r.commit o s)

theorem noCommit_keeps {s0 s : State} {o : Outst} (hk : s0.Keeps s) : s0.Keeps (noCommit o s) := hk

theorem checked_keeps {s0 : State} {l : List Fail} {v : Verdict} (hv : Verdict.Keeps s0 v) : Verdict.Keeps s0 (checked l v) := by
  unfold checked
  split
  · exact Verdict.Keeps.refuse
  · exact hv

theorem eachOf_keeps {s0 : State} {ts : List Nat} {f : Nat → List Fail} {v : Verdict} (hv : Verdict.Keeps s0 v) :
    Verdict.Keeps s0 (eachOf ts f v) := by
  unfold eachOf
  split
  · exact Verdict.Keeps.refuse
  · exact hv

theorem waits_keeps {s0 : State} {s : State} (hk : s0.Keeps s) :
    Verdict.Keeps s0 (waits s) := by
  unfold waits
  repeat' first
    | with_reducible exact hk
    | with_reducible apply Verdict.Keeps.timed

theorem answers_keeps {s0 : State} {ws : List Word} {s : State} (hk : s0.Keeps s) :
    Verdict.Keeps s0 (answers ws s) := by
  unfold answers
  repeat' first
    | with_reducible exact hk
    | with_reducible apply Verdict.Keeps.reply

theorem State.doneWith_keeps {s0 : State} {s : State} {o : Outst} {ws : List Word} (hk : s0.Keeps s) :
    s0.Keeps (State.doneWith s o ws) := by
  unfold State.doneWith
  repeat' first
    | with_reducible exact hk
    | with_reducible apply State.finish_keeps

theorem State.doneNow_keeps {s0 : State} {s : State} {o : Outst} (hk : s0.Keeps s) :
    s0.Keeps (State.doneNow s o) := by
  unfold State.doneNow
  repeat' first
    | with_reducible exact hk
    | with_reducible apply State.finish_keeps

theorem State.failNow_keeps {s0 : State} {s : State} {o : Outst} {st : Nat} {d : Nat} {obj : Option Nat} (hk : s0.Keeps s) :
    s0.Keeps (State.failNow s o st d obj) := by
  unfold State.failNow
  dsimp only
  repeat' first
    | with_reducible exact hk
    | with_reducible apply State.finish_keeps

theorem State.commitUnless_keeps {s0 : State} {s : State} {o : Outst} {l : List Fail} {go : State → State} (hk : s0.Keeps s) (h_go : ∀ (y0 : State), s0.Keeps y0 → s0.Keeps (go y0)) :
    s0.Keeps (State.commitUnless s o l go) := by
  unfold State.commitUnless
  repeat' first
    | with_reducible exact hk
    | with_reducible apply State.failNow_keeps
    | with_reducible apply h_go
    | split

theorem State.commitEach_keeps {s0 : State} {s : State} {o : Outst} {f : Nat → List Fail} {go : State → State} (hk : s0.Keeps s) (h_go : ∀ (y0 : State), s0.Keeps y0 → s0.Keeps (go y0)) :
    s0.Keeps (State.commitEach s o f go) := by
  unfold State.commitEach
  repeat' first
    | with_reducible exact hk
    | with_reducible apply State.failNow_keeps
    | with_reducible apply h_go
    | split

theorem State.waitFor_keeps {s0 : State} {s : State} {o : Outst} {n : Nat} (hk : s0.Keeps s) :
    s0.Keeps (State.waitFor s o n) := by
  unfold State.waitFor
  repeat' first
    | with_reducible exact hk
    | with_reducible apply State.mapOut_keeps

theorem State.runsOn_keeps {s0 : State} {s : State} {o : Outst} (hk : s0.Keeps s) :
    s0.Keeps (State.runsOn s o) := by
  unfold State.runsOn
  repeat' first
    | with_reducible exact hk
    | with_reducible apply State.mapOut_keeps

theorem State.startAll_keeps {s0 : State} {s : State} {o : Outst} {f : Nat → State → State} (hk : s0.Keeps s) (h_f : ∀ (y0 : Nat) (y1 : State), s0.Keeps y1 → s0.Keeps (f y0 y1)) :
    s0.Keeps (State.startAll s o f) := by
  unfold State.startAll
  repeat' first
    | intro _
    | with_reducible exact hk
    | with_reducible assumption
    | with_reducible apply forAll_keeps
    | with_reducible apply State.waitFor_keeps
    | with_reducible apply h_f

theorem State.putCfg_keeps {s0 : State} {s : State} {addr : Nat} {w : Word} (hk : s0.Keeps s) :
    s0.Keeps (State.putCfg s addr w) := by
  unfold State.putCfg
  dsimp only
  repeat' first
    | with_reducible exact hk
    | with_reducible apply State.setReg_keeps

theorem State.putCfgs_keeps {s0 : State} {s : State} {c : Cmd} {w0 : Nat} {w1 : List Nat} (hk : s0.Keeps s) :
    s0.Keeps (State.putCfgs s c w0 w1) := by
  induction w1 generalizing s c w0 with
  | nil => exact hk
  | cons _ _ ih =>
    unfold State.putCfgs
    repeat' first
      | with_reducible exact hk
      | with_reducible apply State.putCfg_keeps
      | with_reducible apply ih

end Sys2Proof.Machine
end

