-- ==== Sys2Proof/Laws/KeepsOpLog.lean ====
section
/-! SUPPORT. What the operations of Machine/OpLog.lean keep (`State.Keeps`): the queue and the canonical form of the stores. -/

namespace Sys2Proof.Machine

theorem logReadDecide_keeps {s0 : State} {c : Cmd} {u0 : List Nat} {u1 : Word} {s : State} (hk : s0.Keeps s) :
    Verdict.Keeps s0 (logReadDecide c u0 u1 s) := by
  unfold logReadDecide
  dsimp only
  repeat' first
    | with_reducible exact hk
    | with_reducible apply Verdict.Keeps.reply
    | with_reducible apply Verdict.Keeps.ite
    | with_reducible apply answers_keeps
    | with_reducible apply checked_keeps

theorem opLogRead_keeps : opLogRead.Keeps :=
  ⟨@fun s0 s c ts a h => (show Verdict.Keeps s0 (logReadDecide c ts a s) from logReadDecide_keeps h),
    @fun s0 s o h => (show s0.Keeps (noCommit o s) from noCommit_keeps h)⟩

theorem logMarkDecide_keeps {s0 : State} {u0 : Cmd} {u1 : List Nat} {u2 : Word} {s : State} (hk : s0.Keeps s) :
    Verdict.Keeps s0 (logMarkDecide u0 u1 u2 s) := by
  unfold logMarkDecide
  repeat' first
    | with_reducible exact hk
    | with_reducible apply waits_keeps

theorem logMarkCommit_keeps {s0 : State} {o : Outst} {s : State} (hk : s0.Keeps s) :
    s0.Keeps (logMarkCommit o s) := by
  unfold logMarkCommit
  dsimp only
  repeat' first
    | with_reducible exact hk
    | with_reducible apply State.Keeps.ite
    | with_reducible apply State.doneWith_keeps
    | with_reducible apply State.drawFree_keeps
    | with_reducible apply State.event_keeps

theorem opLogMark_keeps : opLogMark.Keeps :=
  ⟨@fun s0 s c ts a h => (show Verdict.Keeps s0 (logMarkDecide c ts a s) from logMarkDecide_keeps h),
    @fun s0 s o h => (show s0.Keeps (logMarkCommit o s) from logMarkCommit_keeps h)⟩

end Sys2Proof.Machine
end

