-- ==== Sys2Proof/Laws/KeepsOpStrip.lean ====
section
/-! SUPPORT. What the operations of Machine/OpStrip.lean keep (`State.Keeps`): the queue and the canonical form of the stores. -/

namespace Sys2Proof.Machine

theorem State.paramEach_keeps {s0 : State} {s : State} {c : Cmd} {ts : List Nat} {detail : Nat} {f : Nat → List Fail} {v : Verdict} (hk : s0.Keeps s) (h_v : Verdict.Keeps s0 v) :
    Verdict.Keeps s0 (State.paramEach s c ts detail f v) := by
  unfold State.paramEach
  dsimp only
  repeat' first
    | with_reducible assumption
    | with_reducible apply Verdict.Keeps.refuse
    | with_reducible apply Verdict.Keeps.ite
    | with_reducible apply eachOf_keeps

theorem paramWriteDecide_keeps {s0 : State} {c : Cmd} {ts : List Nat} {u0 : Word} {s : State} (hk : s0.Keeps s) :
    Verdict.Keeps s0 (paramWriteDecide c ts u0 s) := by
  unfold paramWriteDecide
  repeat' first
    | with_reducible exact hk
    | with_reducible apply Verdict.Keeps.refuse
    | with_reducible apply State.paramEach_keeps
    | with_reducible apply waits_keeps
    | split

theorem paramWriteCommit_keeps {s0 : State} {o : Outst} {s : State} (hk : s0.Keeps s) :
    s0.Keeps (paramWriteCommit o s) := by
  unfold paramWriteCommit
  dsimp only
  repeat' first
    | intro _
    | with_reducible exact hk
    | with_reducible assumption
    | with_reducible apply State.commitEach_keeps
    | with_reducible apply State.doneNow_keeps
    | with_reducible apply forAll_keeps
    | with_reducible apply State.paramWrite_keeps
    | split

theorem opParamWrite_keeps : opParamWrite.Keeps :=
  ⟨@fun s0 s c ts a h => (show Verdict.Keeps s0 (paramWriteDecide c ts a s) from paramWriteDecide_keeps h),
    @fun s0 s o h => (show s0.Keeps (paramWriteCommit o s) from paramWriteCommit_keeps h)⟩

theorem paramSwapDecide_keeps {s0 : State} {c : Cmd} {ts : List Nat} {a : Word} {s : State} (hk : s0.Keeps s) :
    Verdict.Keeps s0 (paramSwapDecide c ts a s) := by
  unfold paramSwapDecide
  dsimp only
  repeat' first
    | intro _
    | with_reducible exact hk
    | with_reducible assumption
    | with_reducible apply Verdict.Keeps.timed
    | with_reducible apply forAll_keeps
    | with_reducible apply State.paramEach_keeps
    | with_reducible apply State.paramPend_keeps

theorem paramSwapCommit_keeps {s0 : State} {u0 : Outst} {s : State} (hk : s0.Keeps s) :
    s0.Keeps (paramSwapCommit u0 s) := by
  unfold paramSwapCommit
  repeat' first
    | with_reducible exact hk

theorem opParamSwap_keeps : opParamSwap.Keeps :=
  ⟨@fun s0 s c ts a h => (show Verdict.Keeps s0 (paramSwapDecide c ts a s) from paramSwapDecide_keeps h),
    @fun s0 s o h => (show s0.Keeps (paramSwapCommit o s) from paramSwapCommit_keeps h)⟩

theorem paramReadDecide_keeps {s0 : State} {c : Cmd} {ts : List Nat} {u0 : Word} {s : State} (hk : s0.Keeps s) :
    Verdict.Keeps s0 (paramReadDecide c ts u0 s) := by
  unfold paramReadDecide
  dsimp only
  repeat' first
    | with_reducible exact hk
    | with_reducible apply Verdict.Keeps.refuse
    | with_reducible apply answers_keeps
    | split

theorem opParamRead_keeps : opParamRead.Keeps :=
  ⟨@fun s0 s c ts a h => (show Verdict.Keeps s0 (paramReadDecide c ts a s) from paramReadDecide_keeps h),
    @fun s0 s o h => (show s0.Keeps (noCommit o s) from noCommit_keeps h)⟩

theorem startsJob_keeps {s0 : State} {l : List Fail} {s : State} (hk : s0.Keeps s) :
    Verdict.Keeps s0 (startsJob l s) := by
  unfold startsJob
  repeat' first
    | with_reducible exact hk
    | with_reducible apply Verdict.Keeps.job
    | with_reducible apply checked_keeps

theorem imgWriteDecide_keeps {s0 : State} {c : Cmd} {u0 : List Nat} {u1 : Word} {s : State} (hk : s0.Keeps s) :
    Verdict.Keeps s0 (imgWriteDecide c u0 u1 s) := by
  unfold imgWriteDecide
  repeat' first
    | with_reducible exact hk
    | with_reducible apply startsJob_keeps

theorem imgWriteJob_keeps {s0 : State} {c : Cmd} {s : State} (hk : s0.Keeps s) :
    s0.Keeps (imgWriteJob c s).1 := by
  unfold imgWriteJob
  dsimp only
  repeat' first
    | with_reducible exact hk
    | with_reducible apply State.checkSlot_keeps
    | with_reducible apply State.setImgSlot_keeps
    | with_reducible refine State.Keeps.fst (by assumption) ?_
    | split

theorem opImgWrite_keeps : opImgWrite.Keeps :=
  ⟨@fun s0 s c ts a h => (show Verdict.Keeps s0 (imgWriteDecide c ts a s) from imgWriteDecide_keeps h),
    @fun s0 s o h => (show s0.Keeps (noCommit o s) from noCommit_keeps h)⟩

theorem fwWriteDecide_keeps {s0 : State} {c : Cmd} {u0 : List Nat} {u1 : Word} {s : State} (hk : s0.Keeps s) :
    Verdict.Keeps s0 (fwWriteDecide c u0 u1 s) := by
  unfold fwWriteDecide
  repeat' first
    | with_reducible exact hk
    | with_reducible apply startsJob_keeps

theorem fwWriteJob_keeps {s0 : State} {c : Cmd} {s : State} (hk : s0.Keeps s) :
    s0.Keeps (fwWriteJob c s).1 := by
  unfold fwWriteJob
  dsimp only
  repeat' first
    | with_reducible exact hk
    | with_reducible apply State.setFwMeta_keeps
    | simp only [State.Keeps.upd_iff]
    | split

theorem opFwWrite_keeps : opFwWrite.Keeps :=
  ⟨@fun s0 s c ts a h => (show Verdict.Keeps s0 (fwWriteDecide c ts a s) from fwWriteDecide_keeps h),
    @fun s0 s o h => (show s0.Keeps (noCommit o s) from noCommit_keeps h)⟩

theorem imgActivateDecide_keeps {s0 : State} {c : Cmd} {u0 : List Nat} {a : Word} {s : State} (hk : s0.Keeps s) :
    Verdict.Keeps s0 (imgActivateDecide c u0 a s) := by
  unfold imgActivateDecide
  dsimp only
  repeat' first
    | with_reducible exact hk
    | with_reducible apply Verdict.Keeps.refuse
    | with_reducible apply Verdict.Keeps.reply
    | with_reducible apply Verdict.Keeps.timedAt
    | with_reducible apply State.checkSlot_keeps
    | with_reducible apply checked_keeps
    | with_reducible apply State.setAct_keeps
    | with_reducible refine State.Keeps.fst (by assumption) ?_
    | split

theorem imgActivateCommit_keeps {s0 : State} {o : Outst} {s : State} (hk : s0.Keeps s) :
    s0.Keeps (imgActivateCommit o s) := by
  unfold imgActivateCommit
  repeat' first
    | with_reducible exact hk
    | with_reducible apply State.Keeps.ite
    | with_reducible apply State.failNow_keeps
    | with_reducible apply State.setAct_keeps
    | split

theorem opImgActivate_keeps : opImgActivate.Keeps :=
  ⟨@fun s0 s c ts a h => (show Verdict.Keeps s0 (imgActivateDecide c ts a s) from imgActivateDecide_keeps h),
    @fun s0 s o h => (show s0.Keeps (imgActivateCommit o s) from imgActivateCommit_keeps h)⟩

theorem imgPinDecide_keeps {s0 : State} {c : Cmd} {u0 : List Nat} {u1 : Word} {s : State} (hk : s0.Keeps s) :
    Verdict.Keeps s0 (imgPinDecide c u0 u1 s) := by
  unfold imgPinDecide
  repeat' first
    | with_reducible exact hk
    | with_reducible apply checked_keeps
    | with_reducible apply waits_keeps

theorem imgPinCommit_keeps {s0 : State} {o : Outst} {s : State} (hk : s0.Keeps s) :
    s0.Keeps (imgPinCommit o s) := by
  unfold imgPinCommit
  dsimp only
  repeat' first
    | intro _
    | with_reducible exact hk
    | with_reducible assumption
    | with_reducible apply State.commitUnless_keeps
    | with_reducible apply State.doneNow_keeps
    | simp only [State.Keeps.upd_iff]

theorem opImgPin_keeps : opImgPin.Keeps :=
  ⟨@fun s0 s c ts a h => (show Verdict.Keeps s0 (imgPinDecide c ts a s) from imgPinDecide_keeps h),
    @fun s0 s o h => (show s0.Keeps (imgPinCommit o s) from imgPinCommit_keeps h)⟩

theorem imgStatusDecide_keeps {s0 : State} {u0 : Cmd} {u1 : List Nat} {u2 : Word} {s : State} (hk : s0.Keeps s) :
    Verdict.Keeps s0 (imgStatusDecide u0 u1 u2 s) := by
  unfold imgStatusDecide
  dsimp only
  repeat' first
    | with_reducible exact hk
    | with_reducible apply Verdict.Keeps.reply

theorem opImgStatus_keeps : opImgStatus.Keeps :=
  ⟨@fun s0 s c ts a h => (show Verdict.Keeps s0 (imgStatusDecide c ts a s) from imgStatusDecide_keeps h),
    @fun s0 s o h => (show s0.Keeps (noCommit o s) from noCommit_keeps h)⟩

end Sys2Proof.Machine
end

