-- ==== Sys2Proof/Laws/KeepsOpMem.lean ====
section
/-! SUPPORT. What the operations of Machine/OpMem.lean keep (`State.Keeps`): the queue and the canonical form of the stores. -/

namespace Sys2Proof.Machine

theorem selftestDecide_keeps {s0 : State} {c : Cmd} {u0 : List Nat} {u1 : Word} {s : State} (hk : s0.Keeps s) :
    Verdict.Keeps s0 (selftestDecide c u0 u1 s) := by
  unfold selftestDecide
  repeat' first
    | with_reducible exact hk
    | with_reducible apply checked_keeps
    | with_reducible apply waits_keeps

theorem selftestCommit_keeps {s0 : State} {o : Outst} {s : State} (hk : s0.Keeps s) :
    s0.Keeps (selftestCommit o s) := by
  unfold selftestCommit
  dsimp only
  repeat' first
    | intro _
    | with_reducible exact hk
    | with_reducible assumption
    | with_reducible apply State.Keeps.ite
    | with_reducible apply State.commitUnless_keeps
    | with_reducible apply State.laneStandIn_keeps
    | simp only [State.Keeps.upd_iff]

theorem opSelftest_keeps : opSelftest.Keeps :=
  ⟨@fun s0 s c ts a h => (show Verdict.Keeps s0 (selftestDecide c ts a s) from selftestDecide_keeps h),
    @fun s0 s o h => (show s0.Keeps (selftestCommit o s) from selftestCommit_keeps h)⟩

theorem memReadDecide_keeps {s0 : State} {c : Cmd} {u0 : List Nat} {u1 : Word} {s : State} (hk : s0.Keeps s) :
    Verdict.Keeps s0 (memReadDecide c u0 u1 s) := by
  unfold memReadDecide
  dsimp only
  repeat' first
    | with_reducible exact hk
    | with_reducible apply startsJob_keeps

theorem memReadJob_keeps {s0 : State} {c : Cmd} {s : State} (hk : s0.Keeps s) :
    s0.Keeps (memReadJob c s).1 := by
  unfold memReadJob
  repeat' first
    | with_reducible exact hk
    | split

theorem opMemRead_keeps : opMemRead.Keeps :=
  ⟨@fun s0 s c ts a h => (show Verdict.Keeps s0 (memReadDecide c ts a s) from memReadDecide_keeps h),
    @fun s0 s o h => (show s0.Keeps (noCommit o s) from noCommit_keeps h)⟩

theorem memDuskDecide_keeps {s0 : State} {c : Cmd} {u0 : List Nat} {u1 : Word} {s : State} (hk : s0.Keeps s) :
    Verdict.Keeps s0 (memDuskDecide c u0 u1 s) := by
  unfold memDuskDecide
  repeat' first
    | with_reducible exact hk
    | with_reducible apply checked_keeps
    | with_reducible apply waits_keeps

theorem memDuskCommit_keeps {s0 : State} {o : Outst} {s : State} (hk : s0.Keeps s) :
    s0.Keeps (memDuskCommit o s) := by
  unfold memDuskCommit
  dsimp only
  repeat' first
    | with_reducible exact hk
    | with_reducible apply State.Keeps.ite
    | with_reducible apply State.doneNow_keeps
    | with_reducible apply State.duskRequest_keeps
    | with_reducible apply State.failNow_keeps

theorem opMemDusk_keeps : opMemDusk.Keeps :=
  ⟨@fun s0 s c ts a h => (show Verdict.Keeps s0 (memDuskDecide c ts a s) from memDuskDecide_keeps h),
    @fun s0 s o h => (show s0.Keeps (memDuskCommit o s) from memDuskCommit_keeps h)⟩

theorem wispConfigDecide_keeps {s0 : State} {c : Cmd} {u0 : List Nat} {u1 : Word} {s : State} (hk : s0.Keeps s) :
    Verdict.Keeps s0 (wispConfigDecide c u0 u1 s) := by
  unfold wispConfigDecide
  repeat' first
    | with_reducible exact hk
    | with_reducible apply checked_keeps
    | with_reducible apply waits_keeps

theorem wispConfigCommit_keeps {s0 : State} {o : Outst} {s : State} (hk : s0.Keeps s) :
    s0.Keeps (wispConfigCommit o s) := by
  unfold wispConfigCommit
  repeat' first
    | with_reducible exact hk
    | with_reducible apply State.doneNow_keeps
    | with_reducible apply State.putCfg_keeps

theorem opWispConfig_keeps : opWispConfig.Keeps :=
  ⟨@fun s0 s c ts a h => (show Verdict.Keeps s0 (wispConfigDecide c ts a s) from wispConfigDecide_keeps h),
    @fun s0 s o h => (show s0.Keeps (wispConfigCommit o s) from wispConfigCommit_keeps h)⟩

end Sys2Proof.Machine
end

