-- ==== Sys2Proof/Laws/KeepsOpRoute.lean ====
section
/-! SUPPORT. What the operations of Machine/OpRoute.lean keep (`State.Keeps`): the queue and the canonical form of the stores. -/

namespace Sys2Proof.Machine

theorem patchInDecide_keeps {s0 : State} {c : Cmd} {ts : List Nat} {u0 : Word} {s : State} (hk : s0.Keeps s) :
    Verdict.Keeps s0 (patchInDecide c ts u0 s) := by
  unfold patchInDecide
  dsimp only
  repeat' first
    | with_reducible exact hk
    | with_reducible apply eachOf_keeps
    | with_reducible apply waits_keeps

theorem patchInCommit_keeps {s0 : State} {o : Outst} {s : State} (hk : s0.Keeps s) :
    s0.Keeps (patchInCommit o s) := by
  unfold patchInCommit
  repeat' first
    | intro _
    | with_reducible exact hk
    | with_reducible assumption
    | with_reducible apply State.commitEach_keeps
    | with_reducible apply State.commitPatch_keeps
    | with_reducible apply State.startAll_keeps

theorem opPatchIn_keeps : opPatchIn.Keeps :=
  ⟨@fun s0 s c ts a h => (show Verdict.Keeps s0 (patchInDecide c ts a s) from patchInDecide_keeps h),
    @fun s0 s o h => (show s0.Keeps (patchInCommit o s) from patchInCommit_keeps h)⟩

theorem sinkSetDecide_keeps {s0 : State} {c : Cmd} {u0 : List Nat} {u1 : Word} {s : State} (hk : s0.Keeps s) :
    Verdict.Keeps s0 (sinkSetDecide c u0 u1 s) := by
  unfold sinkSetDecide
  dsimp only
  repeat' first
    | with_reducible exact hk
    | with_reducible apply checked_keeps
    | with_reducible apply waits_keeps

theorem sinkSetCommit_keeps {s0 : State} {o : Outst} {s : State} (hk : s0.Keeps s) :
    s0.Keeps (sinkSetCommit o s) := by
  unfold sinkSetCommit
  dsimp only
  repeat' first
    | intro _
    | with_reducible exact hk
    | with_reducible assumption
    | with_reducible apply State.commitPatch_keeps
    | with_reducible apply State.commitUnless_keeps

theorem opSinkSet_keeps : opSinkSet.Keeps :=
  ⟨@fun s0 s c ts a h => (show Verdict.Keeps s0 (sinkSetDecide c ts a s) from sinkSetDecide_keeps h),
    @fun s0 s o h => (show s0.Keeps (sinkSetCommit o s) from sinkSetCommit_keeps h)⟩

theorem State.putGains_keeps {s0 : State} {s : State} {m : Nat} {w0 : Nat} {w1 : List Word} (hk : s0.Keeps s) :
    s0.Keeps (State.putGains s m w0 w1) := by
  induction w1 generalizing s m w0 with
  | nil => exact hk
  | cons _ _ ih =>
    unfold State.putGains
    repeat' first
      | with_reducible exact hk
      | with_reducible apply State.setGain_keeps
      | with_reducible apply ih

theorem State.commitGains_keeps {s0 : State} {s : State} {o : Outst} {m : Nat} {n : Nat} {gs : List Word} (hk : s0.Keeps s) :
    s0.Keeps (State.commitGains s o m n gs) := by
  unfold State.commitGains
  repeat' first
    | intro _
    | with_reducible exact hk
    | with_reducible assumption
    | with_reducible apply State.commitUnless_keeps
    | with_reducible apply State.doneNow_keeps
    | with_reducible apply State.putGains_keeps

theorem xptNodeDecide_keeps {s0 : State} {u0 : Cmd} {ts : List Nat} {u1 : Word} {s : State} (hk : s0.Keeps s) :
    Verdict.Keeps s0 (xptNodeDecide u0 ts u1 s) := by
  unfold xptNodeDecide
  repeat' first
    | with_reducible exact hk
    | with_reducible apply checked_keeps
    | with_reducible apply waits_keeps

theorem xptNodeCommit_keeps {s0 : State} {o : Outst} {s : State} (hk : s0.Keeps s) :
    s0.Keeps (xptNodeCommit o s) := by
  unfold xptNodeCommit
  repeat' first
    | with_reducible exact hk
    | with_reducible apply State.commitGains_keeps

theorem opXptNode_keeps : opXptNode.Keeps :=
  ⟨@fun s0 s c ts a h => (show Verdict.Keeps s0 (xptNodeDecide c ts a s) from xptNodeDecide_keeps h),
    @fun s0 s o h => (show s0.Keeps (xptNodeCommit o s) from xptNodeCommit_keeps h)⟩

theorem xptColDecide_keeps {s0 : State} {c : Cmd} {ts : List Nat} {u0 : Word} {s : State} (hk : s0.Keeps s) :
    Verdict.Keeps s0 (xptColDecide c ts u0 s) := by
  unfold xptColDecide
  repeat' first
    | with_reducible exact hk
    | with_reducible apply checked_keeps
    | with_reducible apply waits_keeps

theorem xptColCommit_keeps {s0 : State} {o : Outst} {s : State} (hk : s0.Keeps s) :
    s0.Keeps (xptColCommit o s) := by
  unfold xptColCommit
  repeat' first
    | with_reducible exact hk
    | with_reducible apply State.commitGains_keeps

theorem opXptCol_keeps : opXptCol.Keeps :=
  ⟨@fun s0 s c ts a h => (show Verdict.Keeps s0 (xptColDecide c ts a s) from xptColDecide_keeps h),
    @fun s0 s o h => (show s0.Keeps (xptColCommit o s) from xptColCommit_keeps h)⟩

theorem xptEntryDecide_keeps {s0 : State} {op : Nat} {len : Nat} {c : Cmd} {ts : List Nat} {a : Word} {s : State} (hk : s0.Keeps s) :
    Verdict.Keeps s0 (xptEntryDecide op len c ts a s) := by
  unfold xptEntryDecide
  dsimp only
  repeat' first
    | with_reducible exact hk
    | with_reducible apply Verdict.Keeps.refuse
    | with_reducible apply Verdict.Keeps.timed
    | with_reducible apply Verdict.Keeps.ite
    | with_reducible apply State.pushXpt_keeps
    | split

theorem xptSwapDecide_keeps {s0 : State} {c : Cmd} {ts : List Nat} {a : Word} {s : State} (hk : s0.Keeps s) :
    Verdict.Keeps s0 (xptSwapDecide c ts a s) := by
  unfold xptSwapDecide
  repeat' first
    | with_reducible exact hk
    | with_reducible apply Verdict.Keeps.refuse
    | with_reducible apply xptEntryDecide_keeps
    | split

theorem xptCommit_keeps {s0 : State} {u0 : Outst} {s : State} (hk : s0.Keeps s) :
    s0.Keeps (xptCommit u0 s) := by
  unfold xptCommit
  repeat' first
    | with_reducible exact hk

theorem opXptSwap_keeps : opXptSwap.Keeps :=
  ⟨@fun s0 s c ts a h => (show Verdict.Keeps s0 (xptSwapDecide c ts a s) from xptSwapDecide_keeps h),
    @fun s0 s o h => (show s0.Keeps (xptCommit o s) from xptCommit_keeps h)⟩

theorem opXptCopy_keeps : opXptCopy.Keeps :=
  ⟨@fun s0 s c ts a h => (show Verdict.Keeps s0 (xptEntryDecide 1 1 c ts a s) from xptEntryDecide_keeps h),
    @fun s0 s o h => (show s0.Keeps (xptCommit o s) from xptCommit_keeps h)⟩

theorem xptReadDecide_keeps {s0 : State} {c : Cmd} {ts : List Nat} {u0 : Word} {s : State} (hk : s0.Keeps s) :
    Verdict.Keeps s0 (xptReadDecide c ts u0 s) := by
  unfold xptReadDecide
  dsimp only
  repeat' first
    | with_reducible exact hk
    | with_reducible apply answers_keeps
    | with_reducible apply checked_keeps

theorem opXptRead_keeps : opXptRead.Keeps :=
  ⟨@fun s0 s c ts a h => (show Verdict.Keeps s0 (xptReadDecide c ts a s) from xptReadDecide_keeps h),
    @fun s0 s o h => (show s0.Keeps (noCommit o s) from noCommit_keeps h)⟩

theorem meterReadDecide_keeps {s0 : State} {c : Cmd} {u0 : List Nat} {u1 : Word} {s : State} (hk : s0.Keeps s) :
    Verdict.Keeps s0 (meterReadDecide c u0 u1 s) := by
  unfold meterReadDecide
  dsimp only
  repeat' first
    | with_reducible exact hk
    | with_reducible apply answers_keeps
    | with_reducible apply checked_keeps

theorem opMeterRead_keeps : opMeterRead.Keeps :=
  ⟨@fun s0 s c ts a h => (show Verdict.Keeps s0 (meterReadDecide c ts a s) from meterReadDecide_keeps h),
    @fun s0 s o h => (show s0.Keeps (noCommit o s) from noCommit_keeps h)⟩

theorem captureDecide_keeps {s0 : State} {c : Cmd} {u0 : List Nat} {u1 : Word} {s : State} (hk : s0.Keeps s) :
    Verdict.Keeps s0 (captureDecide c u0 u1 s) := by
  unfold captureDecide
  repeat' first
    | with_reducible exact hk
    | with_reducible apply checked_keeps
    | with_reducible apply waits_keeps

theorem captureCommit_keeps {s0 : State} {o : Outst} {s : State} (hk : s0.Keeps s) :
    s0.Keeps (captureCommit o s) := by
  unfold captureCommit
  dsimp only
  repeat' first
    | intro _
    | with_reducible exact hk
    | with_reducible assumption
    | with_reducible apply State.commitUnless_keeps
    | with_reducible apply State.setReg_keeps
    | with_reducible apply State.setCap_keeps
    | with_reducible apply State.wr_keeps

theorem opCapture_keeps : opCapture.Keeps :=
  ⟨@fun s0 s c ts a h => (show Verdict.Keeps s0 (captureDecide c ts a s) from captureDecide_keeps h),
    @fun s0 s o h => (show s0.Keeps (captureCommit o s) from captureCommit_keeps h)⟩

end Sys2Proof.Machine
end

