-- ==== Sys2Proof/Laws/KeepsOpMsg.lean ====
section
/-! SUPPORT. What the operations of Machine/OpMsg.lean keep (`State.Keeps`): the queue and the canonical form of the stores. -/

namespace Sys2Proof.Machine

theorem msgWriteDecide_keeps {s0 : State} {c : Cmd} {u0 : List Nat} {u1 : Word} {s : State} (hk : s0.Keeps s) :
    Verdict.Keeps s0 (msgWriteDecide c u0 u1 s) := by
  unfold msgWriteDecide
  repeat' first
    | with_reducible exact hk
    | with_reducible apply startsJob_keeps

theorem msgWriteJob_keeps {s0 : State} {c : Cmd} {s : State} (hk : s0.Keeps s) :
    s0.Keeps (msgWriteJob c s).1 := by
  unfold msgWriteJob
  dsimp only
  repeat' first
    | with_reducible exact hk
    | with_reducible apply State.Keeps.iteFst
    | with_reducible apply State.drawFree_keeps
    | with_reducible apply State.msgChanged_keeps
    | with_reducible apply State.setMsg_keeps
    | simp only [State.Keeps.upd_iff]
    | split

theorem opMsgWrite_keeps : opMsgWrite.Keeps :=
  ⟨@fun s0 s c ts a h => (show Verdict.Keeps s0 (msgWriteDecide c ts a s) from msgWriteDecide_keeps h),
    @fun s0 s o h => (show s0.Keeps (noCommit o s) from noCommit_keeps h)⟩

theorem chainWriteDecide_keeps {s0 : State} {c : Cmd} {u0 : List Nat} {u1 : Word} {s : State} (hk : s0.Keeps s) :
    Verdict.Keeps s0 (chainWriteDecide c u0 u1 s) := by
  unfold chainWriteDecide
  repeat' first
    | with_reducible exact hk
    | with_reducible apply checked_keeps
    | with_reducible apply waits_keeps

theorem chainWriteCommit_keeps {s0 : State} {o : Outst} {s : State} (hk : s0.Keeps s) :
    s0.Keeps (chainWriteCommit o s) := by
  unfold chainWriteCommit
  dsimp only
  repeat' first
    | intro _
    | with_reducible exact hk
    | with_reducible assumption
    | with_reducible apply State.commitUnless_keeps
    | with_reducible apply State.doneNow_keeps
    | simp only [State.Keeps.upd_iff]

theorem opChainWrite_keeps : opChainWrite.Keeps :=
  ⟨@fun s0 s c ts a h => (show Verdict.Keeps s0 (chainWriteDecide c ts a s) from chainWriteDecide_keeps h),
    @fun s0 s o h => (show s0.Keeps (chainWriteCommit o s) from chainWriteCommit_keeps h)⟩

theorem playStartDecide_keeps {s0 : State} {c : Cmd} {u0 : List Nat} {u1 : Word} {s : State} (hk : s0.Keeps s) :
    Verdict.Keeps s0 (playStartDecide c u0 u1 s) := by
  unfold playStartDecide
  repeat' first
    | with_reducible exact hk
    | with_reducible apply checked_keeps
    | with_reducible apply waits_keeps

theorem playStartCommit_keeps {s0 : State} {o : Outst} {s : State} (hk : s0.Keeps s) :
    s0.Keeps (playStartCommit o s) := by
  unfold playStartCommit
  dsimp only
  repeat' first
    | with_reducible exact hk
    | with_reducible apply State.Keeps.ite
    | with_reducible apply State.failNow_keeps
    | with_reducible apply State.interim_keeps
    | with_reducible apply State.playBegin_keeps
    | with_reducible apply State.playRefused_keeps
    | with_reducible apply State.runsOn_keeps
    | split

theorem opPlayStart_keeps : opPlayStart.Keeps :=
  ⟨@fun s0 s c ts a h => (show Verdict.Keeps s0 (playStartDecide c ts a s) from playStartDecide_keeps h),
    @fun s0 s o h => (show s0.Keeps (playStartCommit o s) from playStartCommit_keeps h)⟩

theorem playStopDecide_keeps {s0 : State} {u0 : Cmd} {u1 : List Nat} {u2 : Word} {s : State} (hk : s0.Keeps s) :
    Verdict.Keeps s0 (playStopDecide u0 u1 u2 s) := by
  unfold playStopDecide
  repeat' first
    | with_reducible exact hk
    | with_reducible apply waits_keeps

theorem playStopCommit_keeps {s0 : State} {o : Outst} {s : State} (hk : s0.Keeps s) :
    s0.Keeps (playStopCommit o s) := by
  unfold playStopCommit
  repeat' first
    | intro _
    | with_reducible exact hk
    | with_reducible assumption
    | with_reducible apply State.doneNow_keeps
    | with_reducible apply forAll_keeps
    | with_reducible apply State.playStop_keeps

theorem opPlayStop_keeps : opPlayStop.Keeps :=
  ⟨@fun s0 s c ts a h => (show Verdict.Keeps s0 (playStopDecide c ts a s) from playStopDecide_keeps h),
    @fun s0 s o h => (show s0.Keeps (playStopCommit o s) from playStopCommit_keeps h)⟩

theorem genConfigDecide_keeps {s0 : State} {c : Cmd} {ts : List Nat} {u0 : Word} {s : State} (hk : s0.Keeps s) :
    Verdict.Keeps s0 (genConfigDecide c ts u0 s) := by
  unfold genConfigDecide
  repeat' first
    | with_reducible exact hk
    | with_reducible apply eachOf_keeps
    | with_reducible apply waits_keeps

theorem genConfigCommit_keeps {s0 : State} {o : Outst} {s : State} (hk : s0.Keeps s) :
    s0.Keeps (genConfigCommit o s) := by
  unfold genConfigCommit
  repeat' first
    | intro _
    | with_reducible exact hk
    | with_reducible assumption
    | with_reducible apply State.commitEach_keeps
    | with_reducible apply State.doneNow_keeps
    | with_reducible apply forAll_keeps
    | with_reducible apply State.putCfgs_keeps

theorem opGenConfig_keeps : opGenConfig.Keeps :=
  ⟨@fun s0 s c ts a h => (show Verdict.Keeps s0 (genConfigDecide c ts a s) from genConfigDecide_keeps h),
    @fun s0 s o h => (show s0.Keeps (genConfigCommit o s) from genConfigCommit_keeps h)⟩

theorem genCtrlDecide_keeps {s0 : State} {c : Cmd} {ts : List Nat} {u0 : Word} {s : State} (hk : s0.Keeps s) :
    Verdict.Keeps s0 (genCtrlDecide c ts u0 s) := by
  unfold genCtrlDecide
  repeat' first
    | with_reducible exact hk
    | with_reducible apply eachOf_keeps
    | with_reducible apply waits_keeps

theorem genCtrlCommit_keeps {s0 : State} {o : Outst} {s : State} (hk : s0.Keeps s) :
    s0.Keeps (genCtrlCommit o s) := by
  unfold genCtrlCommit
  dsimp only
  repeat' first
    | intro _
    | with_reducible exact hk
    | with_reducible assumption
    | with_reducible apply State.Keeps.ite
    | with_reducible apply State.doneNow_keeps
    | with_reducible apply forAll_keeps
    | with_reducible apply State.genEnds_keeps
    | with_reducible apply State.mapOut_keeps
    | with_reducible apply State.setReg_keeps
    | with_reducible apply State.wr_keeps

theorem opGenCtrl_keeps : opGenCtrl.Keeps :=
  ⟨@fun s0 s c ts a h => (show Verdict.Keeps s0 (genCtrlDecide c ts a s) from genCtrlDecide_keeps h),
    @fun s0 s o h => (show s0.Keeps (genCtrlCommit o s) from genCtrlCommit_keeps h)⟩

theorem visConfigDecide_keeps {s0 : State} {c : Cmd} {u0 : List Nat} {u1 : Word} {s : State} (hk : s0.Keeps s) :
    Verdict.Keeps s0 (visConfigDecide c u0 u1 s) := by
  unfold visConfigDecide
  dsimp only
  repeat' first
    | with_reducible exact hk
    | with_reducible apply checked_keeps
    | with_reducible apply waits_keeps

theorem visConfigCommit_keeps {s0 : State} {o : Outst} {s : State} (hk : s0.Keeps s) :
    s0.Keeps (visConfigCommit o s) := by
  unfold visConfigCommit
  repeat' first
    | intro _
    | with_reducible exact hk
    | with_reducible assumption
    | with_reducible apply State.commitUnless_keeps
    | with_reducible apply State.doneNow_keeps
    | with_reducible apply State.putCfgs_keeps

theorem opVisConfig_keeps : opVisConfig.Keeps :=
  ⟨@fun s0 s c ts a h => (show Verdict.Keeps s0 (visConfigDecide c ts a s) from visConfigDecide_keeps h),
    @fun s0 s o h => (show s0.Keeps (visConfigCommit o s) from visConfigCommit_keeps h)⟩

end Sys2Proof.Machine
end

