-- ==== Sys2Proof/Laws/KeepsOpNet.lean ====
section
/-! SUPPORT. What the operations of Machine/OpNet.lean keep (`State.Keeps`): the queue and the canonical form of the stores. -/

namespace Sys2Proof.Machine

theorem netConfigDecide_keeps {s0 : State} {c : Cmd} {u0 : List Nat} {u1 : Word} {s : State} (hk : s0.Keeps s) :
    Verdict.Keeps s0 (netConfigDecide c u0 u1 s) := by
  unfold netConfigDecide
  dsimp only
  repeat' first
    | with_reducible exact hk
    | with_reducible apply checked_keeps
    | with_reducible apply waits_keeps

theorem netConfigCommit_keeps {s0 : State} {o : Outst} {s : State} (hk : s0.Keeps s) :
    s0.Keeps (netConfigCommit o s) := by
  unfold netConfigCommit
  dsimp only
  repeat' first
    | intro _
    | with_reducible exact hk
    | with_reducible assumption
    | with_reducible apply State.commitUnless_keeps
    | with_reducible apply State.doneNow_keeps
    | with_reducible apply State.putCfgs_keeps

theorem opNetConfig_keeps : opNetConfig.Keeps :=
  ⟨@fun s0 s c ts a h => (show Verdict.Keeps s0 (netConfigDecide c ts a s) from netConfigDecide_keeps h),
    @fun s0 s o h => (show s0.Keeps (netConfigCommit o s) from netConfigCommit_keeps h)⟩

theorem State.putWords_keeps {s0 : State} {s : State} {c : Cmd} {w0 : Nat} {w1 : List Nat} (hk : s0.Keeps s) :
    s0.Keeps (State.putWords s c w0 w1) := by
  induction w1 generalizing s c w0 with
  | nil => exact hk
  | cons _ _ ih =>
    unfold State.putWords
    repeat' first
      | with_reducible exact hk
      | with_reducible apply State.setReg_keeps
      | with_reducible apply ih

theorem strmTxSetupDecide_keeps {s0 : State} {c : Cmd} {ts : List Nat} {u0 : Word} {s : State} (hk : s0.Keeps s) :
    Verdict.Keeps s0 (strmTxSetupDecide c ts u0 s) := by
  unfold strmTxSetupDecide
  repeat' first
    | with_reducible exact hk
    | with_reducible apply Verdict.Keeps.refuse
    | with_reducible apply Verdict.Keeps.ite
    | with_reducible apply checked_keeps
    | with_reducible apply waits_keeps

theorem strmTxSetupCommit_keeps {s0 : State} {o : Outst} {s : State} (hk : s0.Keeps s) :
    s0.Keeps (strmTxSetupCommit o s) := by
  unfold strmTxSetupCommit
  dsimp only
  repeat' first
    | intro _
    | with_reducible exact hk
    | with_reducible assumption
    | with_reducible apply State.commitUnless_keeps
    | with_reducible apply State.doneNow_keeps
    | with_reducible apply State.putWords_keeps

theorem opStrmTxSetup_keeps : opStrmTxSetup.Keeps :=
  ⟨@fun s0 s c ts a h => (show Verdict.Keeps s0 (strmTxSetupDecide c ts a s) from strmTxSetupDecide_keeps h),
    @fun s0 s o h => (show s0.Keeps (strmTxSetupCommit o s) from strmTxSetupCommit_keeps h)⟩

theorem strmRxSetupDecide_keeps {s0 : State} {c : Cmd} {ts : List Nat} {u0 : Word} {s : State} (hk : s0.Keeps s) :
    Verdict.Keeps s0 (strmRxSetupDecide c ts u0 s) := by
  unfold strmRxSetupDecide
  repeat' first
    | with_reducible exact hk
    | with_reducible apply Verdict.Keeps.refuse
    | with_reducible apply Verdict.Keeps.ite
    | with_reducible apply checked_keeps
    | with_reducible apply waits_keeps

theorem State.putLeg_keeps {s0 : State} {s : State} {c : Cmd} {k : Nat} {i : Nat} (hk : s0.Keeps s) :
    s0.Keeps (State.putLeg s c k i) := by
  unfold State.putLeg
  dsimp only
  repeat' first
    | with_reducible exact hk
    | with_reducible apply State.setReg_keeps

theorem strmRxSetupCommit_keeps {s0 : State} {o : Outst} {s : State} (hk : s0.Keeps s) :
    s0.Keeps (strmRxSetupCommit o s) := by
  unfold strmRxSetupCommit
  dsimp only
  repeat' first
    | intro _
    | with_reducible exact hk
    | with_reducible assumption
    | with_reducible apply State.commitUnless_keeps
    | with_reducible apply State.doneNow_keeps
    | with_reducible apply State.putLeg_keeps
    | with_reducible apply State.putWords_keeps
    | with_reducible apply upTo_keeps

theorem opStrmRxSetup_keeps : opStrmRxSetup.Keeps :=
  ⟨@fun s0 s c ts a h => (show Verdict.Keeps s0 (strmRxSetupDecide c ts a s) from strmRxSetupDecide_keeps h),
    @fun s0 s o h => (show s0.Keeps (strmRxSetupCommit o s) from strmRxSetupCommit_keeps h)⟩

theorem strmCtrlDecide_keeps {s0 : State} {c : Cmd} {ts : List Nat} {u0 : Word} {s : State} (hk : s0.Keeps s) :
    Verdict.Keeps s0 (strmCtrlDecide c ts u0 s) := by
  unfold strmCtrlDecide
  repeat' first
    | with_reducible exact hk
    | with_reducible apply eachOf_keeps
    | with_reducible apply waits_keeps

theorem strmCtrlCommit_keeps {s0 : State} {o : Outst} {s : State} (hk : s0.Keeps s) :
    s0.Keeps (strmCtrlCommit o s) := by
  unfold strmCtrlCommit
  dsimp only
  repeat' first
    | intro _
    | with_reducible exact hk
    | with_reducible assumption
    | with_reducible apply State.Keeps.ite
    | with_reducible apply State.commitEach_keeps
    | with_reducible apply State.failNow_keeps
    | with_reducible apply State.flagEvent_keeps
    | with_reducible apply State.startAll_keeps
    | with_reducible apply State.setStrm_keeps
    | split

theorem opStrmCtrl_keeps : opStrmCtrl.Keeps :=
  ⟨@fun s0 s c ts a h => (show Verdict.Keeps s0 (strmCtrlDecide c ts a s) from strmCtrlDecide_keeps h),
    @fun s0 s o h => (show s0.Keeps (strmCtrlCommit o s) from strmCtrlCommit_keeps h)⟩

theorem strmTagDecide_keeps {s0 : State} {c : Cmd} {u0 : List Nat} {u1 : Word} {s : State} (hk : s0.Keeps s) :
    Verdict.Keeps s0 (strmTagDecide c u0 u1 s) := by
  unfold strmTagDecide
  repeat' first
    | with_reducible exact hk
    | with_reducible apply checked_keeps
    | with_reducible apply waits_keeps

theorem strmTagCommit_keeps {s0 : State} {o : Outst} {s : State} (hk : s0.Keeps s) :
    s0.Keeps (strmTagCommit o s) := by
  unfold strmTagCommit
  repeat' first
    | intro _
    | with_reducible exact hk
    | with_reducible assumption
    | with_reducible apply State.commitUnless_keeps
    | with_reducible apply State.doneNow_keeps
    | with_reducible apply State.putCfg_keeps

theorem opStrmTag_keeps : opStrmTag.Keeps :=
  ⟨@fun s0 s c ts a h => (show Verdict.Keeps s0 (strmTagDecide c ts a s) from strmTagDecide_keeps h),
    @fun s0 s o h => (show s0.Keeps (strmTagCommit o s) from strmTagCommit_keeps h)⟩

theorem sapReadDecide_keeps {s0 : State} {c : Cmd} {u0 : List Nat} {u1 : Word} {s : State} (hk : s0.Keeps s) :
    Verdict.Keeps s0 (sapReadDecide c u0 u1 s) := by
  unfold sapReadDecide
  repeat' first
    | with_reducible exact hk
    | with_reducible apply Verdict.Keeps.reply
    | with_reducible apply checked_keeps

theorem opSapRead_keeps : opSapRead.Keeps :=
  ⟨@fun s0 s c ts a h => (show Verdict.Keeps s0 (sapReadDecide c ts a s) from sapReadDecide_keeps h),
    @fun s0 s o h => (show s0.Keeps (noCommit o s) from noCommit_keeps h)⟩

end Sys2Proof.Machine
end

