-- ==== Sys2Proof/Laws/KeepsOpTwin.lean ====
section
/-! SUPPORT. What the operations of Machine/OpTwin.lean keep (`State.Keeps`): the queue and the canonical form of the stores. -/

namespace Sys2Proof.Machine

theorem twinChecked_keeps {s0 : State} {c : Cmd} {s : State} {l : List Fail} (hk : s0.Keeps s) :
    Verdict.Keeps s0 (twinChecked c s l) := by
  unfold twinChecked
  repeat' first
    | with_reducible exact hk
    | with_reducible apply Verdict.Keeps.ite
    | with_reducible apply checked_keeps
    | with_reducible apply waits_keeps

theorem State.twinCommit_keeps {s0 : State} {s : State} {o : Outst} {l : List Fail} {go : State → State} (hk : s0.Keeps s) (h_go : ∀ (y0 : State), s0.Keeps y0 → s0.Keeps (go y0)) :
    s0.Keeps (State.twinCommit s o l go) := by
  unfold State.twinCommit
  repeat' first
    | intro _
    | with_reducible exact hk
    | with_reducible assumption
    | with_reducible apply State.Keeps.ite
    | with_reducible apply State.commitUnless_keeps
    | with_reducible apply h_go

theorem attachDecide_keeps {s0 : State} {c : Cmd} {u0 : List Nat} {u1 : Word} {s : State} (hk : s0.Keeps s) :
    Verdict.Keeps s0 (attachDecide c u0 u1 s) := by
  unfold attachDecide
  repeat' first
    | with_reducible exact hk
    | with_reducible apply twinChecked_keeps

theorem attachCommit_keeps {s0 : State} {o : Outst} {s : State} (hk : s0.Keeps s) :
    s0.Keeps (attachCommit o s) := by
  unfold attachCommit
  dsimp only
  repeat' first
    | intro _
    | with_reducible exact hk
    | with_reducible assumption
    | with_reducible apply State.twinCommit_keeps
    | with_reducible apply State.wr_keeps
    | simp only [State.Keeps.upd_iff]

theorem opPairAttach_keeps : opPairAttach.Keeps :=
  ⟨@fun s0 s c ts a h => (show Verdict.Keeps s0 (attachDecide c ts a s) from attachDecide_keeps h),
    @fun s0 s o h => (show s0.Keeps (attachCommit o s) from attachCommit_keeps h)⟩

theorem detachDecide_keeps {s0 : State} {c : Cmd} {u0 : List Nat} {u1 : Word} {s : State} (hk : s0.Keeps s) :
    Verdict.Keeps s0 (detachDecide c u0 u1 s) := by
  unfold detachDecide
  repeat' first
    | with_reducible exact hk
    | with_reducible apply twinChecked_keeps

theorem detachCommit_keeps {s0 : State} {o : Outst} {s : State} (hk : s0.Keeps s) :
    s0.Keeps (detachCommit o s) := by
  unfold detachCommit
  repeat' first
    | intro _
    | with_reducible exact hk
    | with_reducible assumption
    | with_reducible apply State.Keeps.ite
    | with_reducible apply State.doneNow_keeps
    | with_reducible apply State.leaveLockstep_keeps
    | with_reducible apply State.twinCommit_keeps

theorem opPairDetach_keeps : opPairDetach.Keeps :=
  ⟨@fun s0 s c ts a h => (show Verdict.Keeps s0 (detachDecide c ts a s) from detachDecide_keeps h),
    @fun s0 s o h => (show s0.Keeps (detachCommit o s) from detachCommit_keeps h)⟩

theorem yieldDecide_keeps {s0 : State} {c : Cmd} {u0 : List Nat} {u1 : Word} {s : State} (hk : s0.Keeps s) :
    Verdict.Keeps s0 (yieldDecide c u0 u1 s) := by
  unfold yieldDecide
  repeat' first
    | with_reducible exact hk
    | with_reducible apply twinChecked_keeps

theorem yieldCommit_keeps {s0 : State} {o : Outst} {s : State} (hk : s0.Keeps s) :
    s0.Keeps (yieldCommit o s) := by
  unfold yieldCommit
  dsimp only
  repeat' first
    | intro _
    | with_reducible exact hk
    | with_reducible assumption
    | with_reducible apply State.Keeps.ite
    | with_reducible apply State.commitUnless_keeps
    | with_reducible apply State.doneNow_keeps
    | simp only [State.Keeps.upd_iff]

theorem opPairYield_keeps : opPairYield.Keeps :=
  ⟨@fun s0 s c ts a h => (show Verdict.Keeps s0 (yieldDecide c ts a s) from yieldDecide_keeps h),
    @fun s0 s o h => (show s0.Keeps (yieldCommit o s) from yieldCommit_keeps h)⟩

theorem reclaimDecide_keeps {s0 : State} {c : Cmd} {u0 : List Nat} {u1 : Word} {s : State} (hk : s0.Keeps s) :
    Verdict.Keeps s0 (reclaimDecide c u0 u1 s) := by
  unfold reclaimDecide
  repeat' first
    | with_reducible exact hk
    | with_reducible apply twinChecked_keeps

theorem reclaimCommit_keeps {s0 : State} {o : Outst} {s : State} (hk : s0.Keeps s) :
    s0.Keeps (reclaimCommit o s) := by
  unfold reclaimCommit
  repeat' first
    | intro _
    | with_reducible exact hk
    | with_reducible assumption
    | with_reducible apply State.Keeps.ite
    | with_reducible apply State.doneNow_keeps
    | with_reducible apply State.promoteHome_keeps
    | with_reducible apply State.twinCommit_keeps

theorem opPairReclaim_keeps : opPairReclaim.Keeps :=
  ⟨@fun s0 s c ts a h => (show Verdict.Keeps s0 (reclaimDecide c ts a s) from reclaimDecide_keeps h),
    @fun s0 s o h => (show s0.Keeps (reclaimCommit o s) from reclaimCommit_keeps h)⟩

theorem pairConfigDecide_keeps {s0 : State} {c : Cmd} {u0 : List Nat} {u1 : Word} {s : State} (hk : s0.Keeps s) :
    Verdict.Keeps s0 (pairConfigDecide c u0 u1 s) := by
  unfold pairConfigDecide
  repeat' first
    | with_reducible exact hk
    | with_reducible apply checked_keeps
    | with_reducible apply waits_keeps

theorem pairConfigCommit_keeps {s0 : State} {o : Outst} {s : State} (hk : s0.Keeps s) :
    s0.Keeps (pairConfigCommit o s) := by
  unfold pairConfigCommit
  repeat' first
    | with_reducible exact hk
    | with_reducible apply State.doneNow_keeps
    | with_reducible apply State.putCfgs_keeps

theorem opPairConfig_keeps : opPairConfig.Keeps :=
  ⟨@fun s0 s c ts a h => (show Verdict.Keeps s0 (pairConfigDecide c ts a s) from pairConfigDecide_keeps h),
    @fun s0 s o h => (show s0.Keeps (pairConfigCommit o s) from pairConfigCommit_keeps h)⟩

theorem twpcPulseDecide_keeps {s0 : State} {c : Cmd} {u0 : List Nat} {u1 : Word} {s : State} (hk : s0.Keeps s) :
    Verdict.Keeps s0 (twpcPulseDecide c u0 u1 s) := by
  unfold twpcPulseDecide
  repeat' first
    | with_reducible exact hk
    | with_reducible apply twinChecked_keeps

theorem twpcPulseCommit_keeps {s0 : State} {o : Outst} {s : State} (hk : s0.Keeps s) :
    s0.Keeps (twpcPulseCommit o s) := by
  unfold twpcPulseCommit
  repeat' first
    | intro _
    | with_reducible exact hk
    | with_reducible assumption
    | with_reducible apply State.Keeps.ite
    | with_reducible apply State.commitUnless_keeps
    | with_reducible apply State.doneNow_keeps
    | with_reducible apply State.pulse_keeps

theorem opTwpcPulse_keeps : opTwpcPulse.Keeps :=
  ⟨@fun s0 s c ts a h => (show Verdict.Keeps s0 (twpcPulseDecide c ts a s) from twpcPulseDecide_keeps h),
    @fun s0 s o h => (show s0.Keeps (twpcPulseCommit o s) from twpcPulseCommit_keeps h)⟩

theorem pairReadDecide_keeps {s0 : State} {u0 : Cmd} {u1 : List Nat} {u2 : Word} {s : State} (hk : s0.Keeps s) :
    Verdict.Keeps s0 (pairReadDecide u0 u1 u2 s) := by
  unfold pairReadDecide
  repeat' first
    | with_reducible exact hk
    | with_reducible apply answers_keeps

theorem opPairRead_keeps : opPairRead.Keeps :=
  ⟨@fun s0 s c ts a h => (show Verdict.Keeps s0 (pairReadDecide c ts a s) from pairReadDecide_keeps h),
    @fun s0 s o h => (show s0.Keeps (noCommit o s) from noCommit_keeps h)⟩

end Sys2Proof.Machine
end

