-- ==== Sys2Proof/Laws/KeepsOpOvr.lean ====
section
/-! SUPPORT. What the operations of Machine/OpOvr.lean keep (`State.Keeps`): the queue and the canonical form of the stores. -/

namespace Sys2Proof.Machine

theorem State.tellTrig_keeps {s0 : State} {s : State} {t : Nat} {on : Bool} (hk : s0.Keeps s) :
    s0.Keeps (State.tellTrig s t on) := by
  unfold State.tellTrig
  dsimp only
  repeat' first
    | with_reducible exact hk
    | with_reducible apply State.Keeps.ite
    | simp only [State.Keeps.upd_iff]

theorem State.awaitTrig_keeps {s0 : State} {s : State} {c : Cmd} {t : Nat} (hk : s0.Keeps s) :
    s0.Keeps (State.awaitTrig s c t) := by
  unfold State.awaitTrig
  repeat' first
    | with_reducible exact hk
    | with_reducible apply State.setOut_keeps

theorem ovrAssertDecide_keeps {s0 : State} {c : Cmd} {ts : List Nat} {u0 : Word} {s : State} (hk : s0.Keeps s) :
    Verdict.Keeps s0 (ovrAssertDecide c ts u0 s) := by
  unfold ovrAssertDecide
  dsimp only
  repeat' first
    | with_reducible exact hk
    | with_reducible apply Verdict.Keeps.refuse
    | with_reducible apply Verdict.Keeps.reply
    | with_reducible apply Verdict.Keeps.silent
    | with_reducible apply Verdict.Keeps.ite
    | with_reducible apply answers_keeps
    | with_reducible apply State.awaitTrig_keeps
    | with_reducible apply State.latch_keeps
    | with_reducible apply State.tellTrig_keeps

theorem opOvrAssert_keeps : opOvrAssert.Keeps :=
  ⟨@fun s0 s c ts a h => (show Verdict.Keeps s0 (ovrAssertDecide c ts a s) from ovrAssertDecide_keeps h),
    @fun s0 s o h => (show s0.Keeps (noCommit o s) from noCommit_keeps h)⟩

theorem ovrReleaseDecide_keeps {s0 : State} {c : Cmd} {ts : List Nat} {u0 : Word} {s : State} (hk : s0.Keeps s) :
    Verdict.Keeps s0 (ovrReleaseDecide c ts u0 s) := by
  unfold ovrReleaseDecide
  dsimp only
  repeat' first
    | with_reducible exact hk
    | with_reducible apply Verdict.Keeps.silent
    | with_reducible apply Verdict.Keeps.ite
    | with_reducible apply answers_keeps
    | with_reducible apply State.awaitTrig_keeps
    | with_reducible apply State.latch_keeps
    | with_reducible apply State.tellTrig_keeps

theorem opOvrRelease_keeps : opOvrRelease.Keeps :=
  ⟨@fun s0 s c ts a h => (show Verdict.Keeps s0 (ovrReleaseDecide c ts a s) from ovrReleaseDecide_keeps h),
    @fun s0 s o h => (show s0.Keeps (noCommit o s) from noCommit_keeps h)⟩

theorem ovrStageDecide_keeps {s0 : State} {c : Cmd} {u0 : List Nat} {u1 : Word} {s : State} (hk : s0.Keeps s) :
    Verdict.Keeps s0 (ovrStageDecide c u0 u1 s) := by
  unfold ovrStageDecide
  repeat' first
    | with_reducible exact hk
    | with_reducible apply checked_keeps
    | with_reducible apply waits_keeps

theorem ovrStageCommit_keeps {s0 : State} {o : Outst} {s : State} (hk : s0.Keeps s) :
    s0.Keeps (ovrStageCommit o s) := by
  unfold ovrStageCommit
  dsimp only
  repeat' first
    | intro _
    | with_reducible exact hk
    | with_reducible assumption
    | with_reducible apply State.commitUnless_keeps
    | with_reducible apply State.doneNow_keeps
    | with_reducible apply State.setReg_keeps
    | with_reducible apply upTo_keeps

theorem opOvrStage_keeps : opOvrStage.Keeps :=
  ⟨@fun s0 s c ts a h => (show Verdict.Keeps s0 (ovrStageDecide c ts a s) from ovrStageDecide_keeps h),
    @fun s0 s o h => (show s0.Keeps (ovrStageCommit o s) from ovrStageCommit_keeps h)⟩

theorem ovrStageMaskDecide_keeps {s0 : State} {c : Cmd} {u0 : List Nat} {u1 : Word} {s : State} (hk : s0.Keeps s) :
    Verdict.Keeps s0 (ovrStageMaskDecide c u0 u1 s) := by
  unfold ovrStageMaskDecide
  repeat' first
    | with_reducible exact hk
    | with_reducible apply checked_keeps
    | with_reducible apply waits_keeps

theorem ovrStageMaskCommit_keeps {s0 : State} {o : Outst} {s : State} (hk : s0.Keeps s) :
    s0.Keeps (ovrStageMaskCommit o s) := by
  unfold ovrStageMaskCommit
  dsimp only
  repeat' first
    | intro _
    | with_reducible exact hk
    | with_reducible assumption
    | with_reducible apply State.commitUnless_keeps
    | with_reducible apply State.doneNow_keeps
    | with_reducible apply State.setReg_keeps
    | with_reducible apply upTo_keeps

theorem opOvrStageMask_keeps : opOvrStageMask.Keeps :=
  ⟨@fun s0 s c ts a h => (show Verdict.Keeps s0 (ovrStageMaskDecide c ts a s) from ovrStageMaskDecide_keeps h),
    @fun s0 s o h => (show s0.Keeps (ovrStageMaskCommit o s) from ovrStageMaskCommit_keeps h)⟩

theorem ovrArmDecide_keeps {s0 : State} {c : Cmd} {u0 : List Nat} {u1 : Word} {s : State} (hk : s0.Keeps s) :
    Verdict.Keeps s0 (ovrArmDecide c u0 u1 s) := by
  unfold ovrArmDecide
  repeat' first
    | with_reducible exact hk
    | with_reducible apply checked_keeps
    | with_reducible apply waits_keeps

theorem ovrArmCommit_keeps {s0 : State} {o : Outst} {s : State} (hk : s0.Keeps s) :
    s0.Keeps (ovrArmCommit o s) := by
  unfold ovrArmCommit
  dsimp only
  repeat' first
    | with_reducible exact hk
    | with_reducible apply State.Keeps.ite
    | with_reducible apply State.arm_keeps
    | with_reducible apply State.doneWith_keeps
    | with_reducible apply State.failNow_keeps
    | with_reducible apply State.keyFail_keeps

theorem opOvrArm_keeps : opOvrArm.Keeps :=
  ⟨@fun s0 s c ts a h => (show Verdict.Keeps s0 (ovrArmDecide c ts a s) from ovrArmDecide_keeps h),
    @fun s0 s o h => (show s0.Keeps (ovrArmCommit o s) from ovrArmCommit_keeps h)⟩

theorem ovrCommitDecide_keeps {s0 : State} {c : Cmd} {u0 : List Nat} {a : Word} {s : State} (hk : s0.Keeps s) :
    Verdict.Keeps s0 (ovrCommitDecide c u0 a s) := by
  unfold ovrCommitDecide
  dsimp only
  repeat' first
    | with_reducible exact hk
    | with_reducible apply Verdict.Keeps.refuse
    | with_reducible apply Verdict.Keeps.reply
    | with_reducible apply Verdict.Keeps.timed
    | with_reducible apply State.commitFail_keeps
    | with_reducible apply State.commitPend_keeps
    | split

theorem opOvrCommit_keeps : opOvrCommit.Keeps :=
  ⟨@fun s0 s c ts a h => (show Verdict.Keeps s0 (ovrCommitDecide c ts a s) from ovrCommitDecide_keeps h),
    @fun s0 s o h => (show s0.Keeps (noCommit o s) from noCommit_keeps h)⟩

theorem ovrColclassDecide_keeps {s0 : State} {c : Cmd} {u0 : List Nat} {u1 : Word} {s : State} (hk : s0.Keeps s) :
    Verdict.Keeps s0 (ovrColclassDecide c u0 u1 s) := by
  unfold ovrColclassDecide
  repeat' first
    | with_reducible exact hk
    | with_reducible apply checked_keeps
    | with_reducible apply waits_keeps

theorem ovrColclassCommit_keeps {s0 : State} {o : Outst} {s : State} (hk : s0.Keeps s) :
    s0.Keeps (ovrColclassCommit o s) := by
  unfold ovrColclassCommit
  dsimp only
  repeat' first
    | intro _
    | with_reducible exact hk
    | with_reducible assumption
    | with_reducible apply State.doneNow_keeps
    | with_reducible apply forAll_keeps
    | with_reducible apply State.wr_keeps

theorem opOvrColclass_keeps : opOvrColclass.Keeps :=
  ⟨@fun s0 s c ts a h => (show Verdict.Keeps s0 (ovrColclassDecide c ts a s) from ovrColclassDecide_keeps h),
    @fun s0 s o h => (show s0.Keeps (ovrColclassCommit o s) from ovrColclassCommit_keeps h)⟩

theorem ovrReadDecide_keeps {s0 : State} {u0 : Cmd} {ts : List Nat} {u1 : Word} {s : State} (hk : s0.Keeps s) :
    Verdict.Keeps s0 (ovrReadDecide u0 ts u1 s) := by
  unfold ovrReadDecide
  dsimp only
  repeat' first
    | with_reducible exact hk
    | with_reducible apply answers_keeps

theorem opOvrRead_keeps : opOvrRead.Keeps :=
  ⟨@fun s0 s c ts a h => (show Verdict.Keeps s0 (ovrReadDecide c ts a s) from ovrReadDecide_keeps h),
    @fun s0 s o h => (show s0.Keeps (noCommit o s) from noCommit_keeps h)⟩

end Sys2Proof.Machine
end

