-- ==== Sys2Proof/Laws/KeepsOpPort.lean ====
section
/-! SUPPORT. What the operations of Machine/OpPort.lean keep (`State.Keeps`): the queue and the canonical form of the stores. -/

namespace Sys2Proof.Machine

theorem spConfigDecide_keeps {s0 : State} {c : Cmd} {ts : List Nat} {u0 : Word} {s : State} (hk : s0.Keeps s) :
    Verdict.Keeps s0 (spConfigDecide c ts u0 s) := by
  unfold spConfigDecide
  repeat' first
    | with_reducible exact hk
    | with_reducible apply eachOf_keeps
    | with_reducible apply waits_keeps

theorem spConfigCommit_keeps {s0 : State} {o : Outst} {s : State} (hk : s0.Keeps s) :
    s0.Keeps (spConfigCommit o s) := by
  unfold spConfigCommit
  repeat' first
    | intro _
    | with_reducible exact hk
    | with_reducible assumption
    | with_reducible apply State.commitEach_keeps
    | with_reducible apply State.doneNow_keeps
    | with_reducible apply forAll_keeps
    | with_reducible apply State.putCfgs_keeps

theorem opSpConfig_keeps : opSpConfig.Keeps :=
  ⟨@fun s0 s c ts a h => (show Verdict.Keeps s0 (spConfigDecide c ts a s) from spConfigDecide_keeps h),
    @fun s0 s o h => (show s0.Keeps (spConfigCommit o s) from spConfigCommit_keeps h)⟩

theorem spCtrlDecide_keeps {s0 : State} {c : Cmd} {ts : List Nat} {u0 : Word} {s : State} (hk : s0.Keeps s) :
    Verdict.Keeps s0 (spCtrlDecide c ts u0 s) := by
  unfold spCtrlDecide
  repeat' first
    | with_reducible exact hk
    | with_reducible apply eachOf_keeps
    | with_reducible apply waits_keeps

theorem spCtrlCommit_keeps {s0 : State} {o : Outst} {s : State} (hk : s0.Keeps s) :
    s0.Keeps (spCtrlCommit o s) := by
  unfold spCtrlCommit
  dsimp only
  repeat' first
    | intro _
    | with_reducible exact hk
    | with_reducible assumption
    | with_reducible apply State.commitEach_keeps
    | with_reducible apply State.failNow_keeps
    | with_reducible apply State.flagEvent_keeps
    | with_reducible apply State.setPort_keeps
    | with_reducible apply State.startAll_keeps
    | split

theorem opSpCtrl_keeps : opSpCtrl.Keeps :=
  ⟨@fun s0 s c ts a h => (show Verdict.Keeps s0 (spCtrlDecide c ts a s) from spCtrlDecide_keeps h),
    @fun s0 s o h => (show s0.Keeps (spCtrlCommit o s) from spCtrlCommit_keeps h)⟩

theorem spMaskDecide_keeps {s0 : State} {u0 : Cmd} {ts : List Nat} {u1 : Word} {s : State} (hk : s0.Keeps s) :
    Verdict.Keeps s0 (spMaskDecide u0 ts u1 s) := by
  unfold spMaskDecide
  repeat' first
    | with_reducible exact hk
    | with_reducible apply eachOf_keeps
    | with_reducible apply waits_keeps

theorem spMaskCommit_keeps {s0 : State} {o : Outst} {s : State} (hk : s0.Keeps s) :
    s0.Keeps (spMaskCommit o s) := by
  unfold spMaskCommit
  repeat' first
    | intro _
    | with_reducible exact hk
    | with_reducible assumption
    | with_reducible apply State.commitEach_keeps
    | with_reducible apply State.setReg_keeps
    | with_reducible apply State.spMaskCommit_keeps
    | with_reducible apply State.startAll_keeps

theorem opSpMask_keeps : opSpMask.Keeps :=
  ⟨@fun s0 s c ts a h => (show Verdict.Keeps s0 (spMaskDecide c ts a s) from spMaskDecide_keeps h),
    @fun s0 s o h => (show s0.Keeps (spMaskCommit o s) from spMaskCommit_keeps h)⟩

theorem decConfigDecide_keeps {s0 : State} {c : Cmd} {ts : List Nat} {u0 : Word} {s : State} (hk : s0.Keeps s) :
    Verdict.Keeps s0 (decConfigDecide c ts u0 s) := by
  unfold decConfigDecide
  repeat' first
    | with_reducible exact hk
    | with_reducible apply eachOf_keeps
    | with_reducible apply waits_keeps

theorem State.decCommit_keeps {s0 : State} {s : State} {o : Outst} {f : Nat → State → State} (hk : s0.Keeps s) (h_f : ∀ (y0 : Nat) (y1 : State), s0.Keeps y1 → s0.Keeps (f y0 y1)) :
    s0.Keeps (State.decCommit s o f) := by
  unfold State.decCommit
  repeat' first
    | intro _
    | with_reducible exact hk
    | with_reducible assumption
    | with_reducible apply State.commitEach_keeps
    | with_reducible apply State.doneNow_keeps
    | with_reducible apply forAll_keeps
    | with_reducible apply h_f

theorem decConfigCommit_keeps {s0 : State} {o : Outst} {s : State} (hk : s0.Keeps s) :
    s0.Keeps (decConfigCommit o s) := by
  unfold decConfigCommit
  repeat' first
    | intro _
    | with_reducible exact hk
    | with_reducible assumption
    | with_reducible apply State.decCommit_keeps
    | with_reducible apply State.putCfgs_keeps

theorem opDecConfig_keeps : opDecConfig.Keeps :=
  ⟨@fun s0 s c ts a h => (show Verdict.Keeps s0 (decConfigDecide c ts a s) from decConfigDecide_keeps h),
    @fun s0 s o h => (show s0.Keeps (decConfigCommit o s) from decConfigCommit_keeps h)⟩

theorem decTapsDecide_keeps {s0 : State} {c : Cmd} {ts : List Nat} {u0 : Word} {s : State} (hk : s0.Keeps s) :
    Verdict.Keeps s0 (decTapsDecide c ts u0 s) := by
  unfold decTapsDecide
  repeat' first
    | with_reducible exact hk
    | with_reducible apply eachOf_keeps
    | with_reducible apply waits_keeps

theorem decTapsCommit_keeps {s0 : State} {o : Outst} {s : State} (hk : s0.Keeps s) :
    s0.Keeps (decTapsCommit o s) := by
  unfold decTapsCommit
  dsimp only
  repeat' first
    | intro _
    | with_reducible exact hk
    | with_reducible assumption
    | with_reducible apply State.decCommit_keeps
    | with_reducible apply State.putCfgs_keeps

theorem opDecTaps_keeps : opDecTaps.Keeps :=
  ⟨@fun s0 s c ts a h => (show Verdict.Keeps s0 (decTapsDecide c ts a s) from decTapsDecide_keeps h),
    @fun s0 s o h => (show s0.Keeps (decTapsCommit o s) from decTapsCommit_keeps h)⟩

theorem decCtrlDecide_keeps {s0 : State} {c : Cmd} {ts : List Nat} {u0 : Word} {s : State} (hk : s0.Keeps s) :
    Verdict.Keeps s0 (decCtrlDecide c ts u0 s) := by
  unfold decCtrlDecide
  repeat' first
    | with_reducible exact hk
    | with_reducible apply eachOf_keeps
    | with_reducible apply waits_keeps

theorem decCtrlCommit_keeps {s0 : State} {o : Outst} {s : State} (hk : s0.Keeps s) :
    s0.Keeps (decCtrlCommit o s) := by
  unfold decCtrlCommit
  dsimp only
  repeat' first
    | intro _
    | with_reducible exact hk
    | with_reducible assumption
    | with_reducible apply State.Keeps.ite
    | with_reducible apply State.commitEach_keeps
    | with_reducible apply State.decBad_keeps
    | with_reducible apply State.decPutStart_keeps
    | with_reducible apply State.decPutStop_keeps
    | with_reducible apply State.failNow_keeps
    | with_reducible apply State.startAll_keeps
    | split

theorem opDecCtrl_keeps : opDecCtrl.Keeps :=
  ⟨@fun s0 s c ts a h => (show Verdict.Keeps s0 (decCtrlDecide c ts a s) from decCtrlDecide_keeps h),
    @fun s0 s o h => (show s0.Keeps (decCtrlCommit o s) from decCtrlCommit_keeps h)⟩

theorem decClockDecide_keeps {s0 : State} {c : Cmd} {u0 : List Nat} {u1 : Word} {s : State} (hk : s0.Keeps s) :
    Verdict.Keeps s0 (decClockDecide c u0 u1 s) := by
  unfold decClockDecide
  repeat' first
    | with_reducible exact hk
    | with_reducible apply checked_keeps
    | with_reducible apply waits_keeps

theorem decClockCommit_keeps {s0 : State} {o : Outst} {s : State} (hk : s0.Keeps s) :
    s0.Keeps (decClockCommit o s) := by
  unfold decClockCommit
  repeat' first
    | intro _
    | with_reducible exact hk
    | with_reducible assumption
    | with_reducible apply State.commitUnless_keeps
    | with_reducible apply State.doneNow_keeps
    | with_reducible apply State.putCfgs_keeps

theorem opDecClock_keeps : opDecClock.Keeps :=
  ⟨@fun s0 s c ts a h => (show Verdict.Keeps s0 (decClockDecide c ts a s) from decClockDecide_keeps h),
    @fun s0 s o h => (show s0.Keeps (decClockCommit o s) from decClockCommit_keeps h)⟩

theorem anaInDecide_keeps {s0 : State} {c : Cmd} {ts : List Nat} {u0 : Word} {s : State} (hk : s0.Keeps s) :
    Verdict.Keeps s0 (anaInDecide c ts u0 s) := by
  unfold anaInDecide
  repeat' first
    | with_reducible exact hk
    | with_reducible apply eachOf_keeps
    | with_reducible apply waits_keeps

theorem anaInCommit_keeps {s0 : State} {o : Outst} {s : State} (hk : s0.Keeps s) :
    s0.Keeps (anaInCommit o s) := by
  unfold anaInCommit
  repeat' first
    | intro _
    | with_reducible exact hk
    | with_reducible assumption
    | with_reducible apply State.gainWrite_keeps
    | with_reducible apply State.putCfgs_keeps
    | with_reducible apply State.startAll_keeps

theorem opAnaIn_keeps : opAnaIn.Keeps :=
  ⟨@fun s0 s c ts a h => (show Verdict.Keeps s0 (anaInDecide c ts a s) from anaInDecide_keeps h),
    @fun s0 s o h => (show s0.Keeps (anaInCommit o s) from anaInCommit_keeps h)⟩

theorem anaOutDecide_keeps {s0 : State} {c : Cmd} {ts : List Nat} {u0 : Word} {s : State} (hk : s0.Keeps s) :
    Verdict.Keeps s0 (anaOutDecide c ts u0 s) := by
  unfold anaOutDecide
  repeat' first
    | with_reducible exact hk
    | with_reducible apply eachOf_keeps
    | with_reducible apply waits_keeps

theorem anaOutCommit_keeps {s0 : State} {o : Outst} {s : State} (hk : s0.Keeps s) :
    s0.Keeps (anaOutCommit o s) := by
  unfold anaOutCommit
  repeat' first
    | intro _
    | with_reducible exact hk
    | with_reducible assumption
    | with_reducible apply State.doneNow_keeps
    | with_reducible apply forAll_keeps
    | with_reducible apply State.putCfg_keeps

theorem opAnaOut_keeps : opAnaOut.Keeps :=
  ⟨@fun s0 s c ts a h => (show Verdict.Keeps s0 (anaOutDecide c ts a s) from anaOutDecide_keeps h),
    @fun s0 s o h => (show s0.Keeps (anaOutCommit o s) from anaOutCommit_keeps h)⟩

theorem asrcReadDecide_keeps {s0 : State} {u0 : Cmd} {ts : List Nat} {u1 : Word} {s : State} (hk : s0.Keeps s) :
    Verdict.Keeps s0 (asrcReadDecide u0 ts u1 s) := by
  unfold asrcReadDecide
  dsimp only
  repeat' first
    | with_reducible exact hk
    | with_reducible apply answers_keeps
    | with_reducible apply checked_keeps

theorem opAsrcRead_keeps : opAsrcRead.Keeps :=
  ⟨@fun s0 s c ts a h => (show Verdict.Keeps s0 (asrcReadDecide c ts a s) from asrcReadDecide_keeps h),
    @fun s0 s o h => (show s0.Keeps (noCommit o s) from noCommit_keeps h)⟩

end Sys2Proof.Machine
end

