-- ==== Sys2Proof/Laws/KeepsOpSec.lean ====
section
/-! SUPPORT. What the operations of Machine/OpSec.lean keep (`State.Keeps`): the queue and the canonical form of the stores. -/

namespace Sys2Proof.Machine

theorem secStatusDecide_keeps {s0 : State} {u0 : Cmd} {u1 : List Nat} {u2 : Word} {s : State} (hk : s0.Keeps s) :
    Verdict.Keeps s0 (secStatusDecide u0 u1 u2 s) := by
  unfold secStatusDecide
  dsimp only
  repeat' first
    | with_reducible exact hk
    | with_reducible apply answers_keeps

theorem opSecStatus_keeps : opSecStatus.Keeps :=
  ⟨@fun s0 s c ts a h => (show Verdict.Keeps s0 (secStatusDecide c ts a s) from secStatusDecide_keeps h),
    @fun s0 s o h => (show s0.Keeps (noCommit o s) from noCommit_keeps h)⟩

theorem keyRevokeDecide_keeps {s0 : State} {c : Cmd} {u0 : List Nat} {u1 : Word} {s : State} (hk : s0.Keeps s) :
    Verdict.Keeps s0 (keyRevokeDecide c u0 u1 s) := by
  unfold keyRevokeDecide
  repeat' first
    | with_reducible exact hk
    | with_reducible apply checked_keeps
    | with_reducible apply waits_keeps

theorem keyRevokeCommit_keeps {s0 : State} {o : Outst} {s : State} (hk : s0.Keeps s) :
    s0.Keeps (keyRevokeCommit o s) := by
  unfold keyRevokeCommit
  dsimp only
  repeat' first
    | intro _
    | with_reducible exact hk
    | with_reducible assumption
    | with_reducible apply State.commitUnless_keeps
    | with_reducible apply State.doneNow_keeps
    | with_reducible apply State.wr_keeps

theorem opKeyRevoke_keeps : opKeyRevoke.Keeps :=
  ⟨@fun s0 s c ts a h => (show Verdict.Keeps s0 (keyRevokeDecide c ts a s) from keyRevokeDecide_keeps h),
    @fun s0 s o h => (show s0.Keeps (keyRevokeCommit o s) from keyRevokeCommit_keeps h)⟩

theorem mgmtKeyDecide_keeps {s0 : State} {c : Cmd} {u0 : List Nat} {u1 : Word} {s : State} (hk : s0.Keeps s) :
    Verdict.Keeps s0 (mgmtKeyDecide c u0 u1 s) := by
  unfold mgmtKeyDecide
  repeat' first
    | with_reducible exact hk
    | with_reducible apply checked_keeps
    | with_reducible apply waits_keeps

theorem mgmtKeyCommit_keeps {s0 : State} {o : Outst} {s : State} (hk : s0.Keeps s) :
    s0.Keeps (mgmtKeyCommit o s) := by
  unfold mgmtKeyCommit
  dsimp only
  repeat' first
    | with_reducible exact hk
    | with_reducible apply State.Keeps.ite
    | with_reducible apply State.doneNow_keeps
    | with_reducible apply State.zeroReplay_keeps
    | simp only [State.Keeps.upd_iff]

theorem opMgmtKey_keeps : opMgmtKey.Keeps :=
  ⟨@fun s0 s c ts a h => (show Verdict.Keeps s0 (mgmtKeyDecide c ts a s) from mgmtKeyDecide_keeps h),
    @fun s0 s o h => (show s0.Keeps (mgmtKeyCommit o s) from mgmtKeyCommit_keeps h)⟩

theorem jtagLockDecide_keeps {s0 : State} {c : Cmd} {u0 : List Nat} {u1 : Word} {s : State} (hk : s0.Keeps s) :
    Verdict.Keeps s0 (jtagLockDecide c u0 u1 s) := by
  unfold jtagLockDecide
  repeat' first
    | with_reducible exact hk
    | with_reducible apply checked_keeps
    | with_reducible apply waits_keeps

theorem jtagLockCommit_keeps {s0 : State} {o : Outst} {s : State} (hk : s0.Keeps s) :
    s0.Keeps (jtagLockCommit o s) := by
  unfold jtagLockCommit
  repeat' first
    | with_reducible exact hk
    | with_reducible apply State.doneNow_keeps
    | with_reducible apply State.wr_keeps

theorem opJtagLock_keeps : opJtagLock.Keeps :=
  ⟨@fun s0 s c ts a h => (show Verdict.Keeps s0 (jtagLockDecide c ts a s) from jtagLockDecide_keeps h),
    @fun s0 s o h => (show s0.Keeps (jtagLockCommit o s) from jtagLockCommit_keeps h)⟩

theorem wpSetDecide_keeps {s0 : State} {c : Cmd} {u0 : List Nat} {u1 : Word} {s : State} (hk : s0.Keeps s) :
    Verdict.Keeps s0 (wpSetDecide c u0 u1 s) := by
  unfold wpSetDecide
  repeat' first
    | with_reducible exact hk
    | with_reducible apply checked_keeps
    | with_reducible apply waits_keeps

theorem wpSetCommit_keeps {s0 : State} {o : Outst} {s : State} (hk : s0.Keeps s) :
    s0.Keeps (wpSetCommit o s) := by
  unfold wpSetCommit
  dsimp only
  repeat' first
    | with_reducible exact hk
    | with_reducible apply State.finish_keeps
    | with_reducible apply State.wpSet_keeps

theorem opWpSet_keeps : opWpSet.Keeps :=
  ⟨@fun s0 s c ts a h => (show Verdict.Keeps s0 (wpSetDecide c ts a s) from wpSetDecide_keeps h),
    @fun s0 s o h => (show s0.Keeps (wpSetCommit o s) from wpSetCommit_keeps h)⟩

end Sys2Proof.Machine
end

