-- ==== Sys2Proof/Laws/KeepsOpSup.lean ====
section
/-! SUPPORT. What the operations of Machine/OpSup.lean keep (`State.Keeps`): the queue and the canonical form of the stores. -/

namespace Sys2Proof.Machine

theorem cinConfigDecide_keeps {s0 : State} {c : Cmd} {ts : List Nat} {u0 : Word} {s : State} (hk : s0.Keeps s) :
    Verdict.Keeps s0 (cinConfigDecide c ts u0 s) := by
  unfold cinConfigDecide
  repeat' first
    | with_reducible exact hk
    | with_reducible apply eachOf_keeps
    | with_reducible apply waits_keeps

theorem cinConfigCommit_keeps {s0 : State} {o : Outst} {s : State} (hk : s0.Keeps s) :
    s0.Keeps (cinConfigCommit o s) := by
  unfold cinConfigCommit
  repeat' first
    | intro _
    | with_reducible exact hk
    | with_reducible assumption
    | with_reducible apply State.doneNow_keeps
    | with_reducible apply forAll_keeps
    | with_reducible apply State.putCfg_keeps

theorem opCinConfig_keeps : opCinConfig.Keeps :=
  ⟨@fun s0 s c ts a h => (show Verdict.Keeps s0 (cinConfigDecide c ts a s) from cinConfigDecide_keeps h),
    @fun s0 s o h => (show s0.Keeps (cinConfigCommit o s) from cinConfigCommit_keeps h)⟩

theorem cinThrDecide_keeps {s0 : State} {c : Cmd} {u0 : List Nat} {u1 : Word} {s : State} (hk : s0.Keeps s) :
    Verdict.Keeps s0 (cinThrDecide c u0 u1 s) := by
  unfold cinThrDecide
  dsimp only
  repeat' first
    | with_reducible exact hk
    | with_reducible apply checked_keeps
    | with_reducible apply waits_keeps

theorem cinThrCommit_keeps {s0 : State} {o : Outst} {s : State} (hk : s0.Keeps s) :
    s0.Keeps (cinThrCommit o s) := by
  unfold cinThrCommit
  dsimp only
  repeat' first
    | with_reducible exact hk
    | with_reducible apply State.doneNow_keeps
    | with_reducible apply State.putCfgs_keeps

theorem opCinThr_keeps : opCinThr.Keeps :=
  ⟨@fun s0 s c ts a h => (show Verdict.Keeps s0 (cinThrDecide c ts a s) from cinThrDecide_keeps h),
    @fun s0 s o h => (show s0.Keeps (cinThrCommit o s) from cinThrCommit_keeps h)⟩

theorem drvConfigDecide_keeps {s0 : State} {c : Cmd} {ts : List Nat} {u0 : Word} {s : State} (hk : s0.Keeps s) :
    Verdict.Keeps s0 (drvConfigDecide c ts u0 s) := by
  unfold drvConfigDecide
  repeat' first
    | with_reducible exact hk
    | with_reducible apply eachOf_keeps
    | with_reducible apply waits_keeps

theorem drvConfigCommit_keeps {s0 : State} {o : Outst} {s : State} (hk : s0.Keeps s) :
    s0.Keeps (drvConfigCommit o s) := by
  unfold drvConfigCommit
  repeat' first
    | intro _
    | with_reducible exact hk
    | with_reducible assumption
    | with_reducible apply State.doneNow_keeps
    | with_reducible apply State.drvUnlatch_keeps
    | with_reducible apply forAll_keeps
    | with_reducible apply State.putCfg_keeps

theorem opDrvConfig_keeps : opDrvConfig.Keeps :=
  ⟨@fun s0 s c ts a h => (show Verdict.Keeps s0 (drvConfigDecide c ts a s) from drvConfigDecide_keeps h),
    @fun s0 s o h => (show s0.Keeps (drvConfigCommit o s) from drvConfigCommit_keeps h)⟩

theorem gpioConfigDecide_keeps {s0 : State} {c : Cmd} {u0 : List Nat} {u1 : Word} {s : State} (hk : s0.Keeps s) :
    Verdict.Keeps s0 (gpioConfigDecide c u0 u1 s) := by
  unfold gpioConfigDecide
  repeat' first
    | with_reducible exact hk
    | with_reducible apply checked_keeps
    | with_reducible apply waits_keeps

theorem gpioConfigCommit_keeps {s0 : State} {o : Outst} {s : State} (hk : s0.Keeps s) :
    s0.Keeps (gpioConfigCommit o s) := by
  unfold gpioConfigCommit
  repeat' first
    | with_reducible exact hk
    | with_reducible apply State.doneNow_keeps
    | with_reducible apply State.putCfgs_keeps

theorem opGpioConfig_keeps : opGpioConfig.Keeps :=
  ⟨@fun s0 s c ts a h => (show Verdict.Keeps s0 (gpioConfigDecide c ts a s) from gpioConfigDecide_keeps h),
    @fun s0 s o h => (show s0.Keeps (gpioConfigCommit o s) from gpioConfigCommit_keeps h)⟩

theorem lsConfigDecide_keeps {s0 : State} {c : Cmd} {u0 : List Nat} {u1 : Word} {s : State} (hk : s0.Keeps s) :
    Verdict.Keeps s0 (lsConfigDecide c u0 u1 s) := by
  unfold lsConfigDecide
  dsimp only
  repeat' first
    | with_reducible exact hk
    | with_reducible apply checked_keeps
    | with_reducible apply waits_keeps

theorem lsConfigCommit_keeps {s0 : State} {o : Outst} {s : State} (hk : s0.Keeps s) :
    s0.Keeps (lsConfigCommit o s) := by
  unfold lsConfigCommit
  repeat' first
    | with_reducible exact hk
    | with_reducible apply State.doneNow_keeps
    | with_reducible apply State.putCfgs_keeps

theorem opLsConfig_keeps : opLsConfig.Keeps :=
  ⟨@fun s0 s c ts a h => (show Verdict.Keeps s0 (lsConfigDecide c ts a s) from lsConfigDecide_keeps h),
    @fun s0 s o h => (show s0.Keeps (lsConfigCommit o s) from lsConfigCommit_keeps h)⟩

theorem lsLearnDecide_keeps {s0 : State} {c : Cmd} {u0 : List Nat} {u1 : Word} {s : State} (hk : s0.Keeps s) :
    Verdict.Keeps s0 (lsLearnDecide c u0 u1 s) := by
  unfold lsLearnDecide
  repeat' first
    | with_reducible exact hk
    | with_reducible apply checked_keeps
    | with_reducible apply waits_keeps

theorem lsLearnCommit_keeps {s0 : State} {o : Outst} {s : State} (hk : s0.Keeps s) :
    s0.Keeps (lsLearnCommit o s) := by
  unfold lsLearnCommit
  dsimp only
  repeat' first
    | intro _
    | with_reducible exact hk
    | with_reducible assumption
    | with_reducible apply State.commitUnless_keeps
    | with_reducible apply State.learnStart_keeps

theorem opLsLearn_keeps : opLsLearn.Keeps :=
  ⟨@fun s0 s c ts a h => (show Verdict.Keeps s0 (lsLearnDecide c ts a s) from lsLearnDecide_keeps h),
    @fun s0 s o h => (show s0.Keeps (lsLearnCommit o s) from lsLearnCommit_keeps h)⟩

theorem supReadDecide_keeps {s0 : State} {u0 : Cmd} {u1 : List Nat} {u2 : Word} {s : State} (hk : s0.Keeps s) :
    Verdict.Keeps s0 (supReadDecide u0 u1 u2 s) := by
  unfold supReadDecide
  repeat' first
    | with_reducible exact hk
    | with_reducible apply answers_keeps

theorem opSupRead_keeps : opSupRead.Keeps :=
  ⟨@fun s0 s c ts a h => (show Verdict.Keeps s0 (supReadDecide c ts a s) from supReadDecide_keeps h),
    @fun s0 s o h => (show s0.Keeps (noCommit o s) from noCommit_keeps h)⟩

end Sys2Proof.Machine
end

