-- ==== Sys2Proof/Laws/KeepsOpSys.lean ====
section
/-! SUPPORT. What the operations of Machine/OpSys.lean keep (`State.Keeps`): the queue and the canonical form of the stores. -/

namespace Sys2Proof.Machine

theorem opNop_keeps : opNop.Keeps :=
  ⟨@fun s0 s _ _ _ h => (show Verdict.Keeps s0 (answers [] s) from answers_keeps h), @fun s0 s o h => (show s0.Keeps (noCommit o s) from noCommit_keeps h)⟩

theorem opSysInfo_keeps : opSysInfo.Keeps :=
  ⟨@fun s0 s _ _ _ h => (show Verdict.Keeps s0 (answers (sysInfoWords s) s) from answers_keeps h),
    @fun s0 s o h => (show s0.Keeps (noCommit o s) from noCommit_keeps h)⟩

theorem abortDecide_keeps {s0 : State} {c : Cmd} {u0 : List Nat} {u1 : Word} {s : State} (hk : s0.Keeps s) :
    Verdict.Keeps s0 (abortDecide c u0 u1 s) := by
  unfold abortDecide
  dsimp only
  repeat' first
    | with_reducible exact hk
    | with_reducible apply Verdict.Keeps.reply
    | with_reducible apply Verdict.Keeps.silent
    | with_reducible apply Verdict.Keeps.ite
    | with_reducible apply checked_keeps
    | simp only [State.Keeps.upd_iff]

theorem opAbort_keeps : opAbort.Keeps :=
  ⟨@fun s0 s c ts a h => (show Verdict.Keeps s0 (abortDecide c ts a s) from abortDecide_keeps h),
    @fun s0 s o h => (show s0.Keeps (noCommit o s) from noCommit_keeps h)⟩

theorem sysStateDecide_keeps {s0 : State} {c : Cmd} {u0 : List Nat} {u1 : Word} {s : State} (hk : s0.Keeps s) :
    Verdict.Keeps s0 (sysStateDecide c u0 u1 s) := by
  unfold sysStateDecide
  repeat' first
    | with_reducible exact hk
    | with_reducible apply checked_keeps
    | with_reducible apply waits_keeps

theorem State.partnerSquall_keeps {s0 : State} {s : State} {on : Bool} (hk : s0.Keeps s) :
    s0.Keeps (State.partnerSquall s on) := by
  unfold State.partnerSquall
  repeat' first
    | with_reducible exact hk
    | with_reducible apply State.Keeps.ite
    | with_reducible apply State.wr_keeps

theorem State.followWish_keeps {s0 : State} {s : State} (hk : s0.Keeps s) :
    s0.Keeps (State.followWish s) := by
  unfold State.followWish
  repeat' first
    | with_reducible exact hk
    | with_reducible apply State.takePlan_keeps
    | split

theorem State.commandSquall_keeps {s0 : State} {s : State} {on : Bool} (hk : s0.Keeps s) :
    s0.Keeps (State.commandSquall s on) := by
  unfold State.commandSquall
  repeat' first
    | with_reducible exact hk
    | with_reducible apply State.followWish_keeps
    | with_reducible apply State.partnerSquall_keeps
    | with_reducible apply State.setSquallCond_keeps

theorem State.commitSysState_keeps {s0 : State} {s : State} {changed : Bool} {o : Outst} (hk : s0.Keeps s) :
    s0.Keeps (State.commitSysState s changed o) := by
  unfold State.commitSysState
  dsimp only
  repeat' first
    | with_reducible exact hk
    | with_reducible apply State.Keeps.ite
    | with_reducible apply State.commandSquall_keeps
    | with_reducible apply State.doneNow_keeps
    | with_reducible apply State.failNow_keeps
    | with_reducible apply State.nightfall_keeps
    | with_reducible apply State.systemStart_keeps
    | with_reducible apply State.systemStop_keeps
    | with_reducible apply State.wake_keeps

theorem opSysState_keeps : opSysState.Keeps :=
  ⟨@fun s0 s c ts a h => (show Verdict.Keeps s0 (sysStateDecide c ts a s) from sysStateDecide_keeps h),
    @fun s0 s o h => (show s0.Keeps (s.commitSysState false o) from State.commitSysState_keeps h)⟩

theorem sysResetDecide_keeps {s0 : State} {c : Cmd} {u0 : List Nat} {u1 : Word} {s : State} (hk : s0.Keeps s) :
    Verdict.Keeps s0 (sysResetDecide c u0 u1 s) := by
  unfold sysResetDecide
  repeat' first
    | with_reducible exact hk
    | with_reducible apply checked_keeps
    | with_reducible apply waits_keeps

theorem sysResetCommit_keeps {s0 : State} {o : Outst} {s : State} (hk : s0.Keeps s) :
    s0.Keeps (sysResetCommit o s) := by
  unfold sysResetCommit
  repeat' first
    | with_reducible exact hk
    | with_reducible apply State.Keeps.ite
    | with_reducible apply State.deviceReset_keeps
    | with_reducible apply State.failNow_keeps

theorem opSysReset_keeps : opSysReset.Keeps :=
  ⟨@fun s0 s c ts a h => (show Verdict.Keeps s0 (sysResetDecide c ts a s) from sysResetDecide_keeps h),
    @fun s0 s o h => (show s0.Keeps (sysResetCommit o s) from sysResetCommit_keeps h)⟩

theorem groupDefDecide_keeps {s0 : State} {c : Cmd} {ts : List Nat} {u0 : Word} {s : State} (hk : s0.Keeps s) :
    Verdict.Keeps s0 (groupDefDecide c ts u0 s) := by
  unfold groupDefDecide
  dsimp only
  repeat' first
    | with_reducible exact hk
    | with_reducible apply checked_keeps
    | with_reducible apply waits_keeps

theorem groupDefCommit_keeps {s0 : State} {o : Outst} {s : State} (hk : s0.Keeps s) :
    s0.Keeps (groupDefCommit o s) := by
  unfold groupDefCommit
  dsimp only
  repeat' first
    | intro _
    | with_reducible exact hk
    | with_reducible assumption
    | with_reducible apply State.doneNow_keeps
    | with_reducible apply State.setReg_keeps
    | with_reducible apply upTo_keeps
    | simp only [State.Keeps.upd_iff]

theorem opGroupDef_keeps : opGroupDef.Keeps :=
  ⟨@fun s0 s c ts a h => (show Verdict.Keeps s0 (groupDefDecide c ts a s) from groupDefDecide_keeps h),
    @fun s0 s o h => (show s0.Keeps (groupDefCommit o s) from groupDefCommit_keeps h)⟩

theorem groupReadDecide_keeps {s0 : State} {u0 : Cmd} {ts : List Nat} {u1 : Word} {s : State} (hk : s0.Keeps s) :
    Verdict.Keeps s0 (groupReadDecide u0 ts u1 s) := by
  unfold groupReadDecide
  dsimp only
  repeat' first
    | with_reducible exact hk
    | with_reducible apply answers_keeps

theorem opGroupRead_keeps : opGroupRead.Keeps :=
  ⟨@fun s0 s c ts a h => (show Verdict.Keeps s0 (groupReadDecide c ts a s) from groupReadDecide_keeps h),
    @fun s0 s o h => (show s0.Keeps (noCommit o s) from noCommit_keeps h)⟩

theorem State.readRegs_keeps {s0 : State} {s : State} {w0 : List Nat} (hk : s0.Keeps s) :
    s0.Keeps (State.readRegs s w0).2 := by
  induction w0 generalizing s with
  | nil => exact hk
  | cons _ _ ih =>
    unfold State.readRegs
    dsimp only
    repeat' first
      | with_reducible exact hk
      | with_reducible apply State.regReadFx_keeps
      | with_reducible apply ih

theorem regReadDecide_keeps {s0 : State} {c : Cmd} {u0 : List Nat} {u1 : Word} {s : State} (hk : s0.Keeps s) :
    Verdict.Keeps s0 (regReadDecide c u0 u1 s) := by
  unfold regReadDecide
  dsimp only
  repeat' first
    | with_reducible exact hk
    | with_reducible apply answers_keeps
    | with_reducible apply checked_keeps
    | with_reducible apply State.readRegs_keeps

theorem opRegRead_keeps : opRegRead.Keeps :=
  ⟨@fun s0 s c ts a h => (show Verdict.Keeps s0 (regReadDecide c ts a s) from regReadDecide_keeps h),
    @fun s0 s o h => (show s0.Keeps (noCommit o s) from noCommit_keeps h)⟩

theorem regWriteDecide_keeps {s0 : State} {c : Cmd} {u0 : List Nat} {u1 : Word} {s : State} (hk : s0.Keeps s) :
    Verdict.Keeps s0 (regWriteDecide c u0 u1 s) := by
  unfold regWriteDecide
  repeat' first
    | with_reducible exact hk
    | with_reducible apply checked_keeps
    | with_reducible apply waits_keeps

theorem State.commitRegs_keeps {s0 : State} {s : State} {o : Outst} {ws : List (Nat × Word)} {reply : List Word} (hk : s0.Keeps s) :
    s0.Keeps (State.commitRegs s o ws reply) := by
  unfold State.commitRegs
  repeat' first
    | intro _
    | with_reducible exact hk
    | with_reducible assumption
    | with_reducible apply State.commitUnless_keeps
    | with_reducible apply State.doneWith_keeps
    | with_reducible apply forAll_keeps
    | with_reducible apply State.regWriteAny_keeps

theorem regWriteCommit_keeps {s0 : State} {o : Outst} {s : State} (hk : s0.Keeps s) :
    s0.Keeps (regWriteCommit o s) := by
  unfold regWriteCommit
  repeat' first
    | with_reducible exact hk
    | with_reducible apply State.commitRegs_keeps

theorem opRegWrite_keeps : opRegWrite.Keeps :=
  ⟨@fun s0 s c ts a h => (show Verdict.Keeps s0 (regWriteDecide c ts a s) from regWriteDecide_keeps h),
    @fun s0 s o h => (show s0.Keeps (regWriteCommit o s) from regWriteCommit_keeps h)⟩

theorem regRmwDecide_keeps {s0 : State} {c : Cmd} {u0 : List Nat} {u1 : Word} {s : State} (hk : s0.Keeps s) :
    Verdict.Keeps s0 (regRmwDecide c u0 u1 s) := by
  unfold regRmwDecide
  repeat' first
    | with_reducible exact hk
    | with_reducible apply checked_keeps
    | with_reducible apply waits_keeps

theorem regRmwCommit_keeps {s0 : State} {o : Outst} {s : State} (hk : s0.Keeps s) :
    s0.Keeps (regRmwCommit o s) := by
  unfold regRmwCommit
  dsimp only
  repeat' first
    | with_reducible exact hk
    | with_reducible apply State.commitRegs_keeps

theorem opRegRmw_keeps : opRegRmw.Keeps :=
  ⟨@fun s0 s c ts a h => (show Verdict.Keeps s0 (regRmwDecide c ts a s) from regRmwDecide_keeps h),
    @fun s0 s o h => (show s0.Keeps (regRmwCommit o s) from regRmwCommit_keeps h)⟩

end Sys2Proof.Machine
end

