-- ==== Sys2Proof/Laws/KeepsOpTime.lean ====
section
/-! SUPPORT. What the operations of Machine/OpTime.lean keep (`State.Keeps`): the queue and the canonical form of the stores. -/

namespace Sys2Proof.Machine

theorem ptpConfigDecide_keeps {s0 : State} {c : Cmd} {u0 : List Nat} {u1 : Word} {s : State} (hk : s0.Keeps s) :
    Verdict.Keeps s0 (ptpConfigDecide c u0 u1 s) := by
  unfold ptpConfigDecide
  repeat' first
    | with_reducible exact hk
    | with_reducible apply checked_keeps
    | with_reducible apply waits_keeps

theorem ptpConfigCommit_keeps {s0 : State} {o : Outst} {s : State} (hk : s0.Keeps s) :
    s0.Keeps (ptpConfigCommit o s) := by
  unfold ptpConfigCommit
  dsimp only
  repeat' first
    | with_reducible exact hk
    | with_reducible apply State.Keeps.ite
    | with_reducible apply State.doneNow_keeps
    | with_reducible apply State.ptpRestart_keeps
    | with_reducible apply State.putCfgs_keeps

theorem opPtpConfig_keeps : opPtpConfig.Keeps :=
  ⟨@fun s0 s c ts a h => (show Verdict.Keeps s0 (ptpConfigDecide c ts a s) from ptpConfigDecide_keeps h),
    @fun s0 s o h => (show s0.Keeps (ptpConfigCommit o s) from ptpConfigCommit_keeps h)⟩

theorem ptpRestepDecide_keeps {s0 : State} {u0 : Cmd} {u1 : List Nat} {u2 : Word} {s : State} (hk : s0.Keeps s) :
    Verdict.Keeps s0 (ptpRestepDecide u0 u1 u2 s) := by
  unfold ptpRestepDecide
  repeat' first
    | with_reducible exact hk
    | with_reducible apply waits_keeps

theorem ptpRestepCommit_keeps {s0 : State} {o : Outst} {s : State} (hk : s0.Keeps s) :
    s0.Keeps (ptpRestepCommit o s) := by
  unfold ptpRestepCommit
  repeat' first
    | intro _
    | with_reducible exact hk
    | with_reducible assumption
    | with_reducible apply State.commitUnless_keeps
    | with_reducible apply State.stepTime_keeps

theorem opPtpRestep_keeps : opPtpRestep.Keeps :=
  ⟨@fun s0 s c ts a h => (show Verdict.Keeps s0 (ptpRestepDecide c ts a s) from ptpRestepDecide_keeps h),
    @fun s0 s o h => (show s0.Keeps (ptpRestepCommit o s) from ptpRestepCommit_keeps h)⟩

theorem timeReadDecide_keeps {s0 : State} {u0 : Cmd} {u1 : List Nat} {u2 : Word} {s : State} (hk : s0.Keeps s) :
    Verdict.Keeps s0 (timeReadDecide u0 u1 u2 s) := by
  unfold timeReadDecide
  dsimp only
  repeat' first
    | with_reducible exact hk
    | with_reducible apply answers_keeps

theorem opTimeRead_keeps : opTimeRead.Keeps :=
  ⟨@fun s0 s c ts a h => (show Verdict.Keeps s0 (timeReadDecide c ts a s) from timeReadDecide_keeps h),
    @fun s0 s o h => (show s0.Keeps (noCommit o s) from noCommit_keeps h)⟩

theorem refSelectDecide_keeps {s0 : State} {c : Cmd} {u0 : List Nat} {u1 : Word} {s : State} (hk : s0.Keeps s) :
    Verdict.Keeps s0 (refSelectDecide c u0 u1 s) := by
  unfold refSelectDecide
  repeat' first
    | with_reducible exact hk
    | with_reducible apply checked_keeps
    | with_reducible apply waits_keeps

theorem refSelectCommit_keeps {s0 : State} {o : Outst} {s : State} (hk : s0.Keeps s) :
    s0.Keeps (refSelectCommit o s) := by
  unfold refSelectCommit
  repeat' first
    | intro _
    | with_reducible exact hk
    | with_reducible assumption
    | with_reducible apply State.commitUnless_keeps
    | with_reducible apply State.doneNow_keeps
    | with_reducible apply State.wr_keeps

theorem opRefSelect_keeps : opRefSelect.Keeps :=
  ⟨@fun s0 s c ts a h => (show Verdict.Keeps s0 (refSelectDecide c ts a s) from refSelectDecide_keeps h),
    @fun s0 s o h => (show s0.Keeps (refSelectCommit o s) from refSelectCommit_keeps h)⟩

theorem refConfigDecide_keeps {s0 : State} {c : Cmd} {u0 : List Nat} {u1 : Word} {s : State} (hk : s0.Keeps s) :
    Verdict.Keeps s0 (refConfigDecide c u0 u1 s) := by
  unfold refConfigDecide
  repeat' first
    | with_reducible exact hk
    | with_reducible apply checked_keeps
    | with_reducible apply waits_keeps

theorem refConfigCommit_keeps {s0 : State} {o : Outst} {s : State} (hk : s0.Keeps s) :
    s0.Keeps (refConfigCommit o s) := by
  unfold refConfigCommit
  repeat' first
    | with_reducible exact hk
    | with_reducible apply State.doneNow_keeps
    | with_reducible apply State.putCfgs_keeps

theorem opRefConfig_keeps : opRefConfig.Keeps :=
  ⟨@fun s0 s c ts a h => (show Verdict.Keeps s0 (refConfigDecide c ts a s) from refConfigDecide_keeps h),
    @fun s0 s o h => (show s0.Keeps (refConfigCommit o s) from refConfigCommit_keeps h)⟩

end Sys2Proof.Machine
end

