-- ==== Sys2Proof/Laws/KeepsServe.lean ====
section
/-! SUPPORT. What the operations of Machine/Serve.lean keep (`State.Keeps`): the queue and the canonical form of the stores. -/

namespace Sys2Proof.Machine

theorem sysOps_keep : ∀ r ∈ sysOps, r.Keeps := by
  intro r h
  simp only [sysOps, List.mem_cons, List.not_mem_nil, or_false] at h
  rcases h with rfl | rfl | rfl | rfl | rfl | rfl | rfl | rfl | rfl | rfl
  · exact opNop_keeps
  · exact opSysInfo_keeps
  · exact opAbort_keeps
  · exact opSysState_keeps
  · exact opSysReset_keeps
  · exact opGroupDef_keeps
  · exact opGroupRead_keeps
  · exact opRegRead_keeps
  · exact opRegWrite_keeps
  · exact opRegRmw_keeps

theorem routeOps_keep : ∀ r ∈ routeOps, r.Keeps := by
  intro r h
  simp only [routeOps, List.mem_cons, List.not_mem_nil, or_false] at h
  rcases h with rfl | rfl | rfl | rfl | rfl | rfl | rfl | rfl | rfl
  · exact opPatchIn_keeps
  · exact opSinkSet_keeps
  · exact opXptNode_keeps
  · exact opXptCol_keeps
  · exact opXptSwap_keeps
  · exact opXptCopy_keeps
  · exact opXptRead_keeps
  · exact opMeterRead_keeps
  · exact opCapture_keeps

theorem stripOps_keep : ∀ r ∈ stripOps, r.Keeps := by
  intro r h
  simp only [stripOps, List.mem_cons, List.not_mem_nil, or_false] at h
  rcases h with rfl | rfl | rfl | rfl | rfl | rfl | rfl | rfl
  · exact opParamWrite_keeps
  · exact opParamSwap_keeps
  · exact opParamRead_keeps
  · exact opImgWrite_keeps
  · exact opImgActivate_keeps
  · exact opImgPin_keeps
  · exact opImgStatus_keeps
  · exact opFwWrite_keeps

theorem portOps_keep : ∀ r ∈ portOps, r.Keeps := by
  intro r h
  simp only [portOps, List.mem_cons, List.not_mem_nil, or_false] at h
  rcases h with rfl | rfl | rfl | rfl | rfl | rfl | rfl | rfl | rfl | rfl
  · exact opSpConfig_keeps
  · exact opSpCtrl_keeps
  · exact opSpMask_keeps
  · exact opDecConfig_keeps
  · exact opDecTaps_keeps
  · exact opDecCtrl_keeps
  · exact opDecClock_keeps
  · exact opAnaIn_keeps
  · exact opAnaOut_keeps
  · exact opAsrcRead_keeps

theorem netOps_keep : ∀ r ∈ netOps, r.Keeps := by
  intro r h
  simp only [netOps, List.mem_cons, List.not_mem_nil, or_false] at h
  rcases h with rfl | rfl | rfl | rfl | rfl | rfl | rfl | rfl | rfl | rfl | rfl
  · exact opNetConfig_keeps
  · exact opStrmTxSetup_keeps
  · exact opStrmRxSetup_keeps
  · exact opStrmCtrl_keeps
  · exact opStrmTag_keeps
  · exact opSapRead_keeps
  · exact opPtpConfig_keeps
  · exact opPtpRestep_keeps
  · exact opRefSelect_keeps
  · exact opRefConfig_keeps
  · exact opTimeRead_keeps

theorem msgOps_keep : ∀ r ∈ msgOps, r.Keeps := by
  intro r h
  simp only [msgOps, List.mem_cons, List.not_mem_nil, or_false] at h
  rcases h with rfl | rfl | rfl | rfl | rfl | rfl | rfl
  · exact opMsgWrite_keeps
  · exact opChainWrite_keeps
  · exact opPlayStart_keeps
  · exact opPlayStop_keeps
  · exact opGenConfig_keeps
  · exact opGenCtrl_keeps
  · exact opVisConfig_keeps

theorem supOps_keep : ∀ r ∈ supOps, r.Keeps := by
  intro r h
  simp only [supOps, List.mem_cons, List.not_mem_nil, or_false] at h
  rcases h with rfl | rfl | rfl | rfl | rfl | rfl | rfl | rfl | rfl | rfl | rfl | rfl | rfl | rfl
  · exact opCinConfig_keeps
  · exact opCinThr_keeps
  · exact opDrvConfig_keeps
  · exact opLsConfig_keeps
  · exact opLsLearn_keeps
  · exact opSupRead_keeps
  · exact opGpioConfig_keeps
  · exact opPairAttach_keeps
  · exact opPairDetach_keeps
  · exact opPairYield_keeps
  · exact opPairReclaim_keeps
  · exact opPairConfig_keeps
  · exact opTwpcPulse_keeps
  · exact opPairRead_keeps

theorem testOps_keep : ∀ r ∈ testOps, r.Keeps := by
  intro r h
  simp only [testOps, List.mem_cons, List.not_mem_nil, or_false] at h
  rcases h with rfl | rfl | rfl | rfl | rfl | rfl | rfl | rfl | rfl | rfl | rfl
  · exact opSelftest_keeps
  · exact opMemRead_keeps
  · exact opMemDusk_keeps
  · exact opWispConfig_keeps
  · exact opSecStatus_keeps
  · exact opKeyRevoke_keeps
  · exact opMgmtKey_keeps
  · exact opJtagLock_keeps
  · exact opWpSet_keeps
  · exact opLogRead_keeps
  · exact opLogMark_keeps

theorem ovrOps_keep : ∀ r ∈ ovrOps, r.Keeps := by
  intro r h
  simp only [ovrOps, List.mem_cons, List.not_mem_nil, or_false] at h
  rcases h with rfl | rfl | rfl | rfl | rfl | rfl | rfl | rfl
  · exact opOvrAssert_keeps
  · exact opOvrRelease_keeps
  · exact opOvrStage_keeps
  · exact opOvrStageMask_keeps
  · exact opOvrArm_keeps
  · exact opOvrCommit_keeps
  · exact opOvrColclass_keeps
  · exact opOvrRead_keeps

theorem opTable_keeps (r : OpRow) (h : r ∈ opTable) : r.Keeps := by
  simp only [opTable, List.mem_append] at h
  rcases h with (((((((h | h) | h) | h) | h) | h) | h) | h) | h
  · exact sysOps_keep r h
  · exact routeOps_keep r h
  · exact stripOps_keep r h
  · exact portOps_keep r h
  · exact netOps_keep r h
  · exact msgOps_keep r h
  · exact supOps_keep r h
  · exact testOps_keep r h
  · exact ovrOps_keep r h

/-- Every row of the opcode table keeps what `State.Keeps` says. -/
theorem opFind_keeps {op : Nat} {r : OpRow} (h : opFind op = some r) : r.Keeps :=
  opTable_keeps r (List.mem_of_find?_eq_some h)

theorem State.tell_keeps {s0 : State} {s : State} {r : LinkRec} (hk : s0.Keeps s) :
    s0.Keeps (State.tell s r) := by
  unfold State.tell
  dsimp only
  repeat' first
    | with_reducible exact hk
    | simp only [State.Keeps.upd_iff]

theorem State.forward_keeps {s0 : State} {s : State} {before : State} {c : Cmd} (hk : s0.Keeps s) :
    s0.Keeps (State.forward s before c) := by
  unfold State.forward
  dsimp only
  repeat' first
    | with_reducible exact hk
    | with_reducible apply State.Keeps.ite
    | with_reducible apply State.mapOut_keeps
    | with_reducible apply State.tell_keeps
    | split

theorem State.decideRow_keeps {s0 : State} {s : State} {r : OpRow} {c : Cmd} (hk : s0.Keeps s) (hr : r.Keeps) :
    s0.Keeps (State.decideRow s r c) := by
  have h := State.decideWith_keeps (sp := r.spec) (fn := r.decide) (c := c) hk (fun _ _ => hr.decide hk)
  exact State.Keeps.ite h (State.forward_keeps h)

theorem State.serveByLead_keeps {s0 : State} {s : State} {r : OpRow} {c : Cmd} (hk : s0.Keeps s) :
    s0.Keeps (State.serveByLead s r c) := by
  unfold State.serveByLead
  dsimp only
  repeat' first
    | with_reducible exact hk
    | with_reducible apply State.Keeps.ite
    | with_reducible apply State.cmdFault_keeps
    | with_reducible apply State.complete_keeps
    | with_reducible apply State.setOut_keeps
    | with_reducible apply State.tell_keeps
    | split

theorem State.serve_keeps {s0 : State} {s : State} {c : Cmd} (hk : s0.Keeps s) : s0.Keeps (State.serve s c) := by
  unfold State.serve
  split
  · exact State.Keeps.ite (State.complete_keeps (State.cmdFault_keeps hk)) (State.complete_keeps hk)
  · rename_i r e
    apply State.Keeps.ite (State.serveByLead_keeps hk)
    apply State.Keeps.ite
    · simp only [State.Keeps.upd_iff]
      exact hk
    · exact State.decideRow_keeps hk (opFind_keeps e)

theorem State.r0Refuse_keeps {s0 : State} {s : State} {c : Cmd} (hk : s0.Keeps s) :
    s0.Keeps (State.r0Refuse s c) := by
  unfold State.r0Refuse
  repeat' first
    | with_reducible exact hk
    | with_reducible apply State.complete_keeps
    | with_reducible apply State.set1_keeps

theorem State.r0Push_keeps {s0 : State} {s : State} {c : Cmd} (hk : s0.Keeps s) :
    s0.Keeps (State.r0Push s c) := by
  unfold State.r0Push
  dsimp only
  repeat' first
    | with_reducible exact hk
    | with_reducible apply State.Keeps.ite
    | with_reducible apply State.r0Refuse_keeps
    | simp only [State.Keeps.upd_iff]

theorem State.r0Decode_keeps {s0 : State} {s : State} {c : Cmd} (hk : s0.Keeps s) :
    s0.Keeps (State.r0Decode s c) := by
  unfold State.r0Decode
  repeat' first
    | with_reducible exact hk
    | with_reducible apply State.Keeps.ite
    | with_reducible apply State.r0Push_keeps
    | with_reducible apply State.serve_keeps

theorem State.arrive_keeps {s0 : State} {s : State} {c : Cmd} (hk : s0.Keeps s) :
    s0.Keeps (State.arrive s c) := by
  unfold State.arrive
  dsimp only
  repeat' first
    | with_reducible exact hk
    | with_reducible apply State.Keeps.ite
    | with_reducible apply State.r0Decode_keeps
    | with_reducible apply State.serve_keeps
    | simp only [State.Keeps.upd_iff]

theorem State.opcodeRow_keeps {s0 : State} {s : State} {r : OpRow} {c0 : Cmd} (hk : s0.Keeps s) :
    s0.Keeps (State.opcodeRow s r c0) := by
  unfold State.opcodeRow
  dsimp only
  repeat' first
    | with_reducible exact hk
    | with_reducible apply State.Keeps.ite
    | with_reducible apply State.arrive_keeps
    | with_reducible apply State.countFetch_keeps
    | with_reducible apply State.wr_keeps

theorem execNop_keeps {s0 : State} {c : Cmd} {s : State} (hk : s0.Keeps s) :
    Res.Keeps s0 (execNop c s) := by
  unfold execNop
  repeat' first
    | with_reducible exact hk
    | with_reducible apply Res.Keeps.ofNext
    | with_reducible apply State.opcodeRow_keeps

theorem execSysInfo_keeps {s0 : State} {c : Cmd} {s : State} (hk : s0.Keeps s) :
    Res.Keeps s0 (execSysInfo c s) := by
  unfold execSysInfo
  repeat' first
    | with_reducible exact hk
    | with_reducible apply Res.Keeps.ofNext
    | with_reducible apply State.opcodeRow_keeps

theorem execAbort_keeps {s0 : State} {c : Cmd} {s : State} (hk : s0.Keeps s) :
    Res.Keeps s0 (execAbort c s) := by
  unfold execAbort
  repeat' first
    | with_reducible exact hk
    | with_reducible apply Res.Keeps.ofNext
    | with_reducible apply State.opcodeRow_keeps

theorem execSysState_keeps {s0 : State} {c : Cmd} {s : State} (hk : s0.Keeps s) :
    Res.Keeps s0 (execSysState c s) := by
  unfold execSysState
  repeat' first
    | with_reducible exact hk
    | with_reducible apply Res.Keeps.ofNext
    | with_reducible apply State.opcodeRow_keeps

theorem execSysReset_keeps {s0 : State} {c : Cmd} {s : State} (hk : s0.Keeps s) :
    Res.Keeps s0 (execSysReset c s) := by
  unfold execSysReset
  repeat' first
    | with_reducible exact hk
    | with_reducible apply Res.Keeps.ofNext
    | with_reducible apply State.opcodeRow_keeps

theorem execGroupDef_keeps {s0 : State} {c : Cmd} {s : State} (hk : s0.Keeps s) :
    Res.Keeps s0 (execGroupDef c s) := by
  unfold execGroupDef
  repeat' first
    | with_reducible exact hk
    | with_reducible apply Res.Keeps.ofNext
    | with_reducible apply State.opcodeRow_keeps

theorem execGroupRead_keeps {s0 : State} {c : Cmd} {s : State} (hk : s0.Keeps s) :
    Res.Keeps s0 (execGroupRead c s) := by
  unfold execGroupRead
  repeat' first
    | with_reducible exact hk
    | with_reducible apply Res.Keeps.ofNext
    | with_reducible apply State.opcodeRow_keeps

theorem execRegRead_keeps {s0 : State} {c : Cmd} {s : State} (hk : s0.Keeps s) :
    Res.Keeps s0 (execRegRead c s) := by
  unfold execRegRead
  repeat' first
    | with_reducible exact hk
    | with_reducible apply Res.Keeps.ofNext
    | with_reducible apply State.opcodeRow_keeps

theorem execRegWrite_keeps {s0 : State} {c : Cmd} {s : State} (hk : s0.Keeps s) :
    Res.Keeps s0 (execRegWrite c s) := by
  unfold execRegWrite
  repeat' first
    | with_reducible exact hk
    | with_reducible apply Res.Keeps.ofNext
    | with_reducible apply State.opcodeRow_keeps

theorem execRegRmw_keeps {s0 : State} {c : Cmd} {s : State} (hk : s0.Keeps s) :
    Res.Keeps s0 (execRegRmw c s) := by
  unfold execRegRmw
  repeat' first
    | with_reducible exact hk
    | with_reducible apply Res.Keeps.ofNext
    | with_reducible apply State.opcodeRow_keeps

theorem execPatchIn_keeps {s0 : State} {c : Cmd} {s : State} (hk : s0.Keeps s) :
    Res.Keeps s0 (execPatchIn c s) := by
  unfold execPatchIn
  repeat' first
    | with_reducible exact hk
    | with_reducible apply Res.Keeps.ofNext
    | with_reducible apply State.opcodeRow_keeps

theorem execSinkSet_keeps {s0 : State} {c : Cmd} {s : State} (hk : s0.Keeps s) :
    Res.Keeps s0 (execSinkSet c s) := by
  unfold execSinkSet
  repeat' first
    | with_reducible exact hk
    | with_reducible apply Res.Keeps.ofNext
    | with_reducible apply State.opcodeRow_keeps

theorem execXptNode_keeps {s0 : State} {c : Cmd} {s : State} (hk : s0.Keeps s) :
    Res.Keeps s0 (execXptNode c s) := by
  unfold execXptNode
  repeat' first
    | with_reducible exact hk
    | with_reducible apply Res.Keeps.ofNext
    | with_reducible apply State.opcodeRow_keeps

theorem execXptCol_keeps {s0 : State} {c : Cmd} {s : State} (hk : s0.Keeps s) :
    Res.Keeps s0 (execXptCol c s) := by
  unfold execXptCol
  repeat' first
    | with_reducible exact hk
    | with_reducible apply Res.Keeps.ofNext
    | with_reducible apply State.opcodeRow_keeps

theorem execXptSwap_keeps {s0 : State} {c : Cmd} {s : State} (hk : s0.Keeps s) :
    Res.Keeps s0 (execXptSwap c s) := by
  unfold execXptSwap
  repeat' first
    | with_reducible exact hk
    | with_reducible apply Res.Keeps.ofNext
    | with_reducible apply State.opcodeRow_keeps

theorem execXptCopy_keeps {s0 : State} {c : Cmd} {s : State} (hk : s0.Keeps s) :
    Res.Keeps s0 (execXptCopy c s) := by
  unfold execXptCopy
  repeat' first
    | with_reducible exact hk
    | with_reducible apply Res.Keeps.ofNext
    | with_reducible apply State.opcodeRow_keeps

theorem execXptRead_keeps {s0 : State} {c : Cmd} {s : State} (hk : s0.Keeps s) :
    Res.Keeps s0 (execXptRead c s) := by
  unfold execXptRead
  repeat' first
    | with_reducible exact hk
    | with_reducible apply Res.Keeps.ofNext
    | with_reducible apply State.opcodeRow_keeps

theorem execMeterRead_keeps {s0 : State} {c : Cmd} {s : State} (hk : s0.Keeps s) :
    Res.Keeps s0 (execMeterRead c s) := by
  unfold execMeterRead
  repeat' first
    | with_reducible exact hk
    | with_reducible apply Res.Keeps.ofNext
    | with_reducible apply State.opcodeRow_keeps

theorem execCapture_keeps {s0 : State} {c : Cmd} {s : State} (hk : s0.Keeps s) :
    Res.Keeps s0 (execCapture c s) := by
  unfold execCapture
  repeat' first
    | with_reducible exact hk
    | with_reducible apply Res.Keeps.ofNext
    | with_reducible apply State.opcodeRow_keeps

theorem execParamWrite_keeps {s0 : State} {c : Cmd} {s : State} (hk : s0.Keeps s) :
    Res.Keeps s0 (execParamWrite c s) := by
  unfold execParamWrite
  repeat' first
    | with_reducible exact hk
    | with_reducible apply Res.Keeps.ofNext
    | with_reducible apply State.opcodeRow_keeps

theorem execParamSwap_keeps {s0 : State} {c : Cmd} {s : State} (hk : s0.Keeps s) :
    Res.Keeps s0 (execParamSwap c s) := by
  unfold execParamSwap
  repeat' first
    | with_reducible exact hk
    | with_reducible apply Res.Keeps.ofNext
    | with_reducible apply State.opcodeRow_keeps

theorem execParamRead_keeps {s0 : State} {c : Cmd} {s : State} (hk : s0.Keeps s) :
    Res.Keeps s0 (execParamRead c s) := by
  unfold execParamRead
  repeat' first
    | with_reducible exact hk
    | with_reducible apply Res.Keeps.ofNext
    | with_reducible apply State.opcodeRow_keeps

theorem execImgWrite_keeps {s0 : State} {c : Cmd} {s : State} (hk : s0.Keeps s) :
    Res.Keeps s0 (execImgWrite c s) := by
  unfold execImgWrite
  repeat' first
    | with_reducible exact hk
    | with_reducible apply Res.Keeps.ofNext
    | with_reducible apply State.opcodeRow_keeps

theorem execImgActivate_keeps {s0 : State} {c : Cmd} {s : State} (hk : s0.Keeps s) :
    Res.Keeps s0 (execImgActivate c s) := by
  unfold execImgActivate
  repeat' first
    | with_reducible exact hk
    | with_reducible apply Res.Keeps.ofNext
    | with_reducible apply State.opcodeRow_keeps

theorem execImgPin_keeps {s0 : State} {c : Cmd} {s : State} (hk : s0.Keeps s) :
    Res.Keeps s0 (execImgPin c s) := by
  unfold execImgPin
  repeat' first
    | with_reducible exact hk
    | with_reducible apply Res.Keeps.ofNext
    | with_reducible apply State.opcodeRow_keeps

theorem execImgStatus_keeps {s0 : State} {c : Cmd} {s : State} (hk : s0.Keeps s) :
    Res.Keeps s0 (execImgStatus c s) := by
  unfold execImgStatus
  repeat' first
    | with_reducible exact hk
    | with_reducible apply Res.Keeps.ofNext
    | with_reducible apply State.opcodeRow_keeps

theorem execFwWrite_keeps {s0 : State} {c : Cmd} {s : State} (hk : s0.Keeps s) :
    Res.Keeps s0 (execFwWrite c s) := by
  unfold execFwWrite
  repeat' first
    | with_reducible exact hk
    | with_reducible apply Res.Keeps.ofNext
    | with_reducible apply State.opcodeRow_keeps

theorem execSpConfig_keeps {s0 : State} {c : Cmd} {s : State} (hk : s0.Keeps s) :
    Res.Keeps s0 (execSpConfig c s) := by
  unfold execSpConfig
  repeat' first
    | with_reducible exact hk
    | with_reducible apply Res.Keeps.ofNext
    | with_reducible apply State.opcodeRow_keeps

theorem execSpCtrl_keeps {s0 : State} {c : Cmd} {s : State} (hk : s0.Keeps s) :
    Res.Keeps s0 (execSpCtrl c s) := by
  unfold execSpCtrl
  repeat' first
    | with_reducible exact hk
    | with_reducible apply Res.Keeps.ofNext
    | with_reducible apply State.opcodeRow_keeps

theorem execSpMask_keeps {s0 : State} {c : Cmd} {s : State} (hk : s0.Keeps s) :
    Res.Keeps s0 (execSpMask c s) := by
  unfold execSpMask
  repeat' first
    | with_reducible exact hk
    | with_reducible apply Res.Keeps.ofNext
    | with_reducible apply State.opcodeRow_keeps

theorem execDecConfig_keeps {s0 : State} {c : Cmd} {s : State} (hk : s0.Keeps s) :
    Res.Keeps s0 (execDecConfig c s) := by
  unfold execDecConfig
  repeat' first
    | with_reducible exact hk
    | with_reducible apply Res.Keeps.ofNext
    | with_reducible apply State.opcodeRow_keeps

theorem execDecTaps_keeps {s0 : State} {c : Cmd} {s : State} (hk : s0.Keeps s) :
    Res.Keeps s0 (execDecTaps c s) := by
  unfold execDecTaps
  repeat' first
    | with_reducible exact hk
    | with_reducible apply Res.Keeps.ofNext
    | with_reducible apply State.opcodeRow_keeps

theorem execDecCtrl_keeps {s0 : State} {c : Cmd} {s : State} (hk : s0.Keeps s) :
    Res.Keeps s0 (execDecCtrl c s) := by
  unfold execDecCtrl
  repeat' first
    | with_reducible exact hk
    | with_reducible apply Res.Keeps.ofNext
    | with_reducible apply State.opcodeRow_keeps

theorem execDecClock_keeps {s0 : State} {c : Cmd} {s : State} (hk : s0.Keeps s) :
    Res.Keeps s0 (execDecClock c s) := by
  unfold execDecClock
  repeat' first
    | with_reducible exact hk
    | with_reducible apply Res.Keeps.ofNext
    | with_reducible apply State.opcodeRow_keeps

theorem execAnaIn_keeps {s0 : State} {c : Cmd} {s : State} (hk : s0.Keeps s) :
    Res.Keeps s0 (execAnaIn c s) := by
  unfold execAnaIn
  repeat' first
    | with_reducible exact hk
    | with_reducible apply Res.Keeps.ofNext
    | with_reducible apply State.opcodeRow_keeps

theorem execAnaOut_keeps {s0 : State} {c : Cmd} {s : State} (hk : s0.Keeps s) :
    Res.Keeps s0 (execAnaOut c s) := by
  unfold execAnaOut
  repeat' first
    | with_reducible exact hk
    | with_reducible apply Res.Keeps.ofNext
    | with_reducible apply State.opcodeRow_keeps

theorem execAsrcRead_keeps {s0 : State} {c : Cmd} {s : State} (hk : s0.Keeps s) :
    Res.Keeps s0 (execAsrcRead c s) := by
  unfold execAsrcRead
  repeat' first
    | with_reducible exact hk
    | with_reducible apply Res.Keeps.ofNext
    | with_reducible apply State.opcodeRow_keeps

theorem execNetConfig_keeps {s0 : State} {c : Cmd} {s : State} (hk : s0.Keeps s) :
    Res.Keeps s0 (execNetConfig c s) := by
  unfold execNetConfig
  repeat' first
    | with_reducible exact hk
    | with_reducible apply Res.Keeps.ofNext
    | with_reducible apply State.opcodeRow_keeps

theorem execStrmTxSetup_keeps {s0 : State} {c : Cmd} {s : State} (hk : s0.Keeps s) :
    Res.Keeps s0 (execStrmTxSetup c s) := by
  unfold execStrmTxSetup
  repeat' first
    | with_reducible exact hk
    | with_reducible apply Res.Keeps.ofNext
    | with_reducible apply State.opcodeRow_keeps

theorem execStrmRxSetup_keeps {s0 : State} {c : Cmd} {s : State} (hk : s0.Keeps s) :
    Res.Keeps s0 (execStrmRxSetup c s) := by
  unfold execStrmRxSetup
  repeat' first
    | with_reducible exact hk
    | with_reducible apply Res.Keeps.ofNext
    | with_reducible apply State.opcodeRow_keeps

theorem execStrmCtrl_keeps {s0 : State} {c : Cmd} {s : State} (hk : s0.Keeps s) :
    Res.Keeps s0 (execStrmCtrl c s) := by
  unfold execStrmCtrl
  repeat' first
    | with_reducible exact hk
    | with_reducible apply Res.Keeps.ofNext
    | with_reducible apply State.opcodeRow_keeps

theorem execStrmTag_keeps {s0 : State} {c : Cmd} {s : State} (hk : s0.Keeps s) :
    Res.Keeps s0 (execStrmTag c s) := by
  unfold execStrmTag
  repeat' first
    | with_reducible exact hk
    | with_reducible apply Res.Keeps.ofNext
    | with_reducible apply State.opcodeRow_keeps

theorem execSapRead_keeps {s0 : State} {c : Cmd} {s : State} (hk : s0.Keeps s) :
    Res.Keeps s0 (execSapRead c s) := by
  unfold execSapRead
  repeat' first
    | with_reducible exact hk
    | with_reducible apply Res.Keeps.ofNext
    | with_reducible apply State.opcodeRow_keeps

theorem execPtpConfig_keeps {s0 : State} {c : Cmd} {s : State} (hk : s0.Keeps s) :
    Res.Keeps s0 (execPtpConfig c s) := by
  unfold execPtpConfig
  repeat' first
    | with_reducible exact hk
    | with_reducible apply Res.Keeps.ofNext
    | with_reducible apply State.opcodeRow_keeps

theorem execPtpRestep_keeps {s0 : State} {c : Cmd} {s : State} (hk : s0.Keeps s) :
    Res.Keeps s0 (execPtpRestep c s) := by
  unfold execPtpRestep
  repeat' first
    | with_reducible exact hk
    | with_reducible apply Res.Keeps.ofNext
    | with_reducible apply State.opcodeRow_keeps

theorem execRefSelect_keeps {s0 : State} {c : Cmd} {s : State} (hk : s0.Keeps s) :
    Res.Keeps s0 (execRefSelect c s) := by
  unfold execRefSelect
  repeat' first
    | with_reducible exact hk
    | with_reducible apply Res.Keeps.ofNext
    | with_reducible apply State.opcodeRow_keeps

theorem execRefConfig_keeps {s0 : State} {c : Cmd} {s : State} (hk : s0.Keeps s) :
    Res.Keeps s0 (execRefConfig c s) := by
  unfold execRefConfig
  repeat' first
    | with_reducible exact hk
    | with_reducible apply Res.Keeps.ofNext
    | with_reducible apply State.opcodeRow_keeps

theorem execTimeRead_keeps {s0 : State} {c : Cmd} {s : State} (hk : s0.Keeps s) :
    Res.Keeps s0 (execTimeRead c s) := by
  unfold execTimeRead
  repeat' first
    | with_reducible exact hk
    | with_reducible apply Res.Keeps.ofNext
    | with_reducible apply State.opcodeRow_keeps

theorem execMsgWrite_keeps {s0 : State} {c : Cmd} {s : State} (hk : s0.Keeps s) :
    Res.Keeps s0 (execMsgWrite c s) := by
  unfold execMsgWrite
  repeat' first
    | with_reducible exact hk
    | with_reducible apply Res.Keeps.ofNext
    | with_reducible apply State.opcodeRow_keeps

theorem execChainWrite_keeps {s0 : State} {c : Cmd} {s : State} (hk : s0.Keeps s) :
    Res.Keeps s0 (execChainWrite c s) := by
  unfold execChainWrite
  repeat' first
    | with_reducible exact hk
    | with_reducible apply Res.Keeps.ofNext
    | with_reducible apply State.opcodeRow_keeps

theorem execPlayStart_keeps {s0 : State} {c : Cmd} {s : State} (hk : s0.Keeps s) :
    Res.Keeps s0 (execPlayStart c s) := by
  unfold execPlayStart
  repeat' first
    | with_reducible exact hk
    | with_reducible apply Res.Keeps.ofNext
    | with_reducible apply State.opcodeRow_keeps

theorem execPlayStop_keeps {s0 : State} {c : Cmd} {s : State} (hk : s0.Keeps s) :
    Res.Keeps s0 (execPlayStop c s) := by
  unfold execPlayStop
  repeat' first
    | with_reducible exact hk
    | with_reducible apply Res.Keeps.ofNext
    | with_reducible apply State.opcodeRow_keeps

theorem execGenConfig_keeps {s0 : State} {c : Cmd} {s : State} (hk : s0.Keeps s) :
    Res.Keeps s0 (execGenConfig c s) := by
  unfold execGenConfig
  repeat' first
    | with_reducible exact hk
    | with_reducible apply Res.Keeps.ofNext
    | with_reducible apply State.opcodeRow_keeps

theorem execGenCtrl_keeps {s0 : State} {c : Cmd} {s : State} (hk : s0.Keeps s) :
    Res.Keeps s0 (execGenCtrl c s) := by
  unfold execGenCtrl
  repeat' first
    | with_reducible exact hk
    | with_reducible apply Res.Keeps.ofNext
    | with_reducible apply State.opcodeRow_keeps

theorem execVisConfig_keeps {s0 : State} {c : Cmd} {s : State} (hk : s0.Keeps s) :
    Res.Keeps s0 (execVisConfig c s) := by
  unfold execVisConfig
  repeat' first
    | with_reducible exact hk
    | with_reducible apply Res.Keeps.ofNext
    | with_reducible apply State.opcodeRow_keeps

theorem execCinConfig_keeps {s0 : State} {c : Cmd} {s : State} (hk : s0.Keeps s) :
    Res.Keeps s0 (execCinConfig c s) := by
  unfold execCinConfig
  repeat' first
    | with_reducible exact hk
    | with_reducible apply Res.Keeps.ofNext
    | with_reducible apply State.opcodeRow_keeps

theorem execCinThr_keeps {s0 : State} {c : Cmd} {s : State} (hk : s0.Keeps s) :
    Res.Keeps s0 (execCinThr c s) := by
  unfold execCinThr
  repeat' first
    | with_reducible exact hk
    | with_reducible apply Res.Keeps.ofNext
    | with_reducible apply State.opcodeRow_keeps

theorem execDrvConfig_keeps {s0 : State} {c : Cmd} {s : State} (hk : s0.Keeps s) :
    Res.Keeps s0 (execDrvConfig c s) := by
  unfold execDrvConfig
  repeat' first
    | with_reducible exact hk
    | with_reducible apply Res.Keeps.ofNext
    | with_reducible apply State.opcodeRow_keeps

theorem execLsConfig_keeps {s0 : State} {c : Cmd} {s : State} (hk : s0.Keeps s) :
    Res.Keeps s0 (execLsConfig c s) := by
  unfold execLsConfig
  repeat' first
    | with_reducible exact hk
    | with_reducible apply Res.Keeps.ofNext
    | with_reducible apply State.opcodeRow_keeps

theorem execLsLearn_keeps {s0 : State} {c : Cmd} {s : State} (hk : s0.Keeps s) :
    Res.Keeps s0 (execLsLearn c s) := by
  unfold execLsLearn
  repeat' first
    | with_reducible exact hk
    | with_reducible apply Res.Keeps.ofNext
    | with_reducible apply State.opcodeRow_keeps

theorem execSupRead_keeps {s0 : State} {c : Cmd} {s : State} (hk : s0.Keeps s) :
    Res.Keeps s0 (execSupRead c s) := by
  unfold execSupRead
  repeat' first
    | with_reducible exact hk
    | with_reducible apply Res.Keeps.ofNext
    | with_reducible apply State.opcodeRow_keeps

theorem execGpioConfig_keeps {s0 : State} {c : Cmd} {s : State} (hk : s0.Keeps s) :
    Res.Keeps s0 (execGpioConfig c s) := by
  unfold execGpioConfig
  repeat' first
    | with_reducible exact hk
    | with_reducible apply Res.Keeps.ofNext
    | with_reducible apply State.opcodeRow_keeps

theorem execPairAttach_keeps {s0 : State} {c : Cmd} {s : State} (hk : s0.Keeps s) :
    Res.Keeps s0 (execPairAttach c s) := by
  unfold execPairAttach
  repeat' first
    | with_reducible exact hk
    | with_reducible apply Res.Keeps.ofNext
    | with_reducible apply State.opcodeRow_keeps

theorem execPairDetach_keeps {s0 : State} {c : Cmd} {s : State} (hk : s0.Keeps s) :
    Res.Keeps s0 (execPairDetach c s) := by
  unfold execPairDetach
  repeat' first
    | with_reducible exact hk
    | with_reducible apply Res.Keeps.ofNext
    | with_reducible apply State.opcodeRow_keeps

theorem execPairYield_keeps {s0 : State} {c : Cmd} {s : State} (hk : s0.Keeps s) :
    Res.Keeps s0 (execPairYield c s) := by
  unfold execPairYield
  repeat' first
    | with_reducible exact hk
    | with_reducible apply Res.Keeps.ofNext
    | with_reducible apply State.opcodeRow_keeps

theorem execPairReclaim_keeps {s0 : State} {c : Cmd} {s : State} (hk : s0.Keeps s) :
    Res.Keeps s0 (execPairReclaim c s) := by
  unfold execPairReclaim
  repeat' first
    | with_reducible exact hk
    | with_reducible apply Res.Keeps.ofNext
    | with_reducible apply State.opcodeRow_keeps

theorem execPairConfig_keeps {s0 : State} {c : Cmd} {s : State} (hk : s0.Keeps s) :
    Res.Keeps s0 (execPairConfig c s) := by
  unfold execPairConfig
  repeat' first
    | with_reducible exact hk
    | with_reducible apply Res.Keeps.ofNext
    | with_reducible apply State.opcodeRow_keeps

theorem execTwpcPulse_keeps {s0 : State} {c : Cmd} {s : State} (hk : s0.Keeps s) :
    Res.Keeps s0 (execTwpcPulse c s) := by
  unfold execTwpcPulse
  repeat' first
    | with_reducible exact hk
    | with_reducible apply Res.Keeps.ofNext
    | with_reducible apply State.opcodeRow_keeps

theorem execPairRead_keeps {s0 : State} {c : Cmd} {s : State} (hk : s0.Keeps s) :
    Res.Keeps s0 (execPairRead c s) := by
  unfold execPairRead
  repeat' first
    | with_reducible exact hk
    | with_reducible apply Res.Keeps.ofNext
    | with_reducible apply State.opcodeRow_keeps

theorem execSelftest_keeps {s0 : State} {c : Cmd} {s : State} (hk : s0.Keeps s) :
    Res.Keeps s0 (execSelftest c s) := by
  unfold execSelftest
  repeat' first
    | with_reducible exact hk
    | with_reducible apply Res.Keeps.ofNext
    | with_reducible apply State.opcodeRow_keeps

theorem execMemRead_keeps {s0 : State} {c : Cmd} {s : State} (hk : s0.Keeps s) :
    Res.Keeps s0 (execMemRead c s) := by
  unfold execMemRead
  repeat' first
    | with_reducible exact hk
    | with_reducible apply Res.Keeps.ofNext
    | with_reducible apply State.opcodeRow_keeps

theorem execMemDusk_keeps {s0 : State} {c : Cmd} {s : State} (hk : s0.Keeps s) :
    Res.Keeps s0 (execMemDusk c s) := by
  unfold execMemDusk
  repeat' first
    | with_reducible exact hk
    | with_reducible apply Res.Keeps.ofNext
    | with_reducible apply State.opcodeRow_keeps

theorem execWispConfig_keeps {s0 : State} {c : Cmd} {s : State} (hk : s0.Keeps s) :
    Res.Keeps s0 (execWispConfig c s) := by
  unfold execWispConfig
  repeat' first
    | with_reducible exact hk
    | with_reducible apply Res.Keeps.ofNext
    | with_reducible apply State.opcodeRow_keeps

theorem execSecStatus_keeps {s0 : State} {c : Cmd} {s : State} (hk : s0.Keeps s) :
    Res.Keeps s0 (execSecStatus c s) := by
  unfold execSecStatus
  repeat' first
    | with_reducible exact hk
    | with_reducible apply Res.Keeps.ofNext
    | with_reducible apply State.opcodeRow_keeps

theorem execKeyRevoke_keeps {s0 : State} {c : Cmd} {s : State} (hk : s0.Keeps s) :
    Res.Keeps s0 (execKeyRevoke c s) := by
  unfold execKeyRevoke
  repeat' first
    | with_reducible exact hk
    | with_reducible apply Res.Keeps.ofNext
    | with_reducible apply State.opcodeRow_keeps

theorem execMgmtKey_keeps {s0 : State} {c : Cmd} {s : State} (hk : s0.Keeps s) :
    Res.Keeps s0 (execMgmtKey c s) := by
  unfold execMgmtKey
  repeat' first
    | with_reducible exact hk
    | with_reducible apply Res.Keeps.ofNext
    | with_reducible apply State.opcodeRow_keeps

theorem execJtagLock_keeps {s0 : State} {c : Cmd} {s : State} (hk : s0.Keeps s) :
    Res.Keeps s0 (execJtagLock c s) := by
  unfold execJtagLock
  repeat' first
    | with_reducible exact hk
    | with_reducible apply Res.Keeps.ofNext
    | with_reducible apply State.opcodeRow_keeps

theorem execWpSet_keeps {s0 : State} {c : Cmd} {s : State} (hk : s0.Keeps s) :
    Res.Keeps s0 (execWpSet c s) := by
  unfold execWpSet
  repeat' first
    | with_reducible exact hk
    | with_reducible apply Res.Keeps.ofNext
    | with_reducible apply State.opcodeRow_keeps

theorem execLogRead_keeps {s0 : State} {c : Cmd} {s : State} (hk : s0.Keeps s) :
    Res.Keeps s0 (execLogRead c s) := by
  unfold execLogRead
  repeat' first
    | with_reducible exact hk
    | with_reducible apply Res.Keeps.ofNext
    | with_reducible apply State.opcodeRow_keeps

theorem execLogMark_keeps {s0 : State} {c : Cmd} {s : State} (hk : s0.Keeps s) :
    Res.Keeps s0 (execLogMark c s) := by
  unfold execLogMark
  repeat' first
    | with_reducible exact hk
    | with_reducible apply Res.Keeps.ofNext
    | with_reducible apply State.opcodeRow_keeps

theorem execOvrAssert_keeps {s0 : State} {c : Cmd} {s : State} (hk : s0.Keeps s) :
    Res.Keeps s0 (execOvrAssert c s) := by
  unfold execOvrAssert
  repeat' first
    | with_reducible exact hk
    | with_reducible apply Res.Keeps.ofNext
    | with_reducible apply State.opcodeRow_keeps

theorem execOvrRelease_keeps {s0 : State} {c : Cmd} {s : State} (hk : s0.Keeps s) :
    Res.Keeps s0 (execOvrRelease c s) := by
  unfold execOvrRelease
  repeat' first
    | with_reducible exact hk
    | with_reducible apply Res.Keeps.ofNext
    | with_reducible apply State.opcodeRow_keeps

theorem execOvrStage_keeps {s0 : State} {c : Cmd} {s : State} (hk : s0.Keeps s) :
    Res.Keeps s0 (execOvrStage c s) := by
  unfold execOvrStage
  repeat' first
    | with_reducible exact hk
    | with_reducible apply Res.Keeps.ofNext
    | with_reducible apply State.opcodeRow_keeps

theorem execOvrStageMask_keeps {s0 : State} {c : Cmd} {s : State} (hk : s0.Keeps s) :
    Res.Keeps s0 (execOvrStageMask c s) := by
  unfold execOvrStageMask
  repeat' first
    | with_reducible exact hk
    | with_reducible apply Res.Keeps.ofNext
    | with_reducible apply State.opcodeRow_keeps

theorem execOvrArm_keeps {s0 : State} {c : Cmd} {s : State} (hk : s0.Keeps s) :
    Res.Keeps s0 (execOvrArm c s) := by
  unfold execOvrArm
  repeat' first
    | with_reducible exact hk
    | with_reducible apply Res.Keeps.ofNext
    | with_reducible apply State.opcodeRow_keeps

theorem execOvrCommit_keeps {s0 : State} {c : Cmd} {s : State} (hk : s0.Keeps s) :
    Res.Keeps s0 (execOvrCommit c s) := by
  unfold execOvrCommit
  repeat' first
    | with_reducible exact hk
    | with_reducible apply Res.Keeps.ofNext
    | with_reducible apply State.opcodeRow_keeps

theorem execOvrColclass_keeps {s0 : State} {c : Cmd} {s : State} (hk : s0.Keeps s) :
    Res.Keeps s0 (execOvrColclass c s) := by
  unfold execOvrColclass
  repeat' first
    | with_reducible exact hk
    | with_reducible apply Res.Keeps.ofNext
    | with_reducible apply State.opcodeRow_keeps

theorem execOvrRead_keeps {s0 : State} {c : Cmd} {s : State} (hk : s0.Keeps s) :
    Res.Keeps s0 (execOvrRead c s) := by
  unfold execOvrRead
  repeat' first
    | with_reducible exact hk
    | with_reducible apply Res.Keeps.ofNext
    | with_reducible apply State.opcodeRow_keeps

end Sys2Proof.Machine
end

