-- ==== Sys2Proof/Laws/KeepsDecide.lean ====
section
/-! SUPPORT. What the operations of Machine/Decide.lean keep (`State.Keeps`): the queue and the canonical form of the stores. -/

namespace Sys2Proof.Machine

theorem State.noteServed_keeps {s0 : State} {s : State} {n : Nat} (hk : s0.Keeps s) :
    s0.Keeps (State.noteServed s n) := by
  unfold State.noteServed
  dsimp only
  repeat' first
    | with_reducible exact hk
    | simp only [State.Keeps.upd_iff]

theorem State.takeHead_keeps {s0 : State} {s : State} {n : Nat} (hk : s0.Keeps s) :
    s0.Keeps (State.takeHead s n).2 := by
  unfold State.takeHead
  dsimp only
  repeat' first
    | with_reducible exact hk
    | with_reducible apply State.Keeps.iteSnd
    | simp only [State.Keeps.upd_iff]
    | split

theorem State.decideNext_keeps {s0 : State} {s : State} (hk : s0.Keeps s) :
    s0.Keeps (State.decideNext s) := by
  unfold State.decideNext
  repeat' first
    | with_reducible exact hk
    | with_reducible apply State.Keeps.ite
    | with_reducible apply State.noteServed_keeps
    | with_reducible apply State.takeHead_keeps
    | with_reducible apply State.serve_keeps
    | with_reducible refine State.Keeps.snd (by assumption) ?_
    | split

theorem execCommandDecision_keeps {s0 : State} {s : State} (hk : s0.Keeps s) :
    Res.Keeps s0 (execCommandDecision s) := by
  unfold execCommandDecision
  repeat' first
    | with_reducible exact hk
    | with_reducible apply Res.Keeps.ofNext
    | with_reducible apply State.decideNext_keeps

theorem execRing0Decode_keeps {s0 : State} {s : State} (hk : s0.Keeps s) :
    Res.Keeps s0 (execRing0Decode s) := by
  unfold execRing0Decode
  repeat' first
    | with_reducible exact hk
    | with_reducible apply Res.Keeps.ofNext
    | with_reducible apply State.Keeps.ite
    | with_reducible apply State.fetchHead_keeps
    | with_reducible apply State.r0Decode_keeps
    | with_reducible refine State.Keeps.snd (by assumption) ?_
    | split

theorem runJob_keeps {s0 : State} {c : Cmd} {s : State} (hk : s0.Keeps s) :
    s0.Keeps (runJob c s).1 := by
  unfold runJob
  repeat' first
    | with_reducible exact hk
    | with_reducible apply fwWriteJob_keeps
    | with_reducible apply imgWriteJob_keeps
    | with_reducible apply memReadJob_keeps
    | with_reducible apply msgWriteJob_keeps
    | split

theorem State.endJob_keeps {s0 : State} {s : State} {c : Cmd} (hk : s0.Keeps s) :
    s0.Keeps (State.endJob s c) := by
  unfold State.endJob
  dsimp only
  repeat' first
    | with_reducible exact hk
    | with_reducible apply State.Keeps.ite
    | with_reducible apply State.finish_keeps
    | with_reducible apply State.ownerDone_keeps
    | with_reducible apply runJob_keeps
    | simp only [State.Keeps.upd_iff]

theorem execBackgroundJobDone_keeps {s0 : State} {ring : Fin 16} {tag : BitVec 16} {s : State} (hk : s0.Keeps s) :
    Res.Keeps s0 (execBackgroundJobDone ring tag s) := by
  unfold execBackgroundJobDone
  repeat' first
    | with_reducible exact hk
    | with_reducible apply Res.Keeps.ofNext
    | with_reducible apply State.Keeps.ite
    | with_reducible apply State.endJob_keeps
    | split

theorem State.takeMgmt_keeps {s0 : State} {s : State} {c : Cmd} (hk : s0.Keeps s) :
    s0.Keeps (State.takeMgmt s c) := by
  unfold State.takeMgmt
  dsimp only
  repeat' first
    | with_reducible exact hk
    | with_reducible apply State.Keeps.ite
    | with_reducible apply State.answer_keeps
    | with_reducible apply State.r0Decode_keeps
    | simp only [State.Keeps.upd_iff]

theorem execMgmtDatagramReceived_keeps {s0 : State} {netb : Bool} {src : Word} {bytes : List Byte} {s : State} (hk : s0.Keeps s) :
    Res.Keeps s0 (execMgmtDatagramReceived netb src bytes s) := by
  unfold execMgmtDatagramReceived
  repeat' first
    | with_reducible exact hk
    | with_reducible apply Res.Keeps.ofNext
    | with_reducible apply State.Keeps.ite
    | with_reducible apply State.mgmtCheck_keeps
    | with_reducible apply State.takeMgmt_keeps
    | with_reducible refine State.Keeps.fst (by assumption) ?_
    | split

theorem State.ack_keeps {s0 : State} {s : State} {r : CmdRef} {st : Nat} {d : Nat} (hk : s0.Keeps s) :
    s0.Keeps (State.ack s r st d) := by
  unfold State.ack
  repeat' first
    | with_reducible exact hk
    | with_reducible apply State.tell_keeps

theorem State.abortAt_keeps {s0 : State} {s : State} {c : Cmd} {a : Word} (hk : s0.Keeps s) :
    s0.Keeps (State.abortAt s c a) := by
  unfold State.abortAt
  dsimp only
  repeat' first
    | with_reducible exact hk
    | simp only [State.Keeps.upd_iff]

theorem State.follow_keeps {s0 : State} {s : State} {c0 : Cmd} {a : Word} (hk : s0.Keeps s) :
    s0.Keeps (State.follow s c0 a) := by
  unfold State.follow
  extract_lets c
  split
  · exact State.ack_keeps hk
  · rename_i r e
    split
    · exact State.ack_keeps hk
    · rename_i ts _
      have h := (opFind_keeps e).decide (c := c) (ts := ts) (a := a) hk
      split <;> rename_i f <;> rw [f] at h
      · exact State.ack_keeps hk
      · exact State.ack_keeps h
      · exact State.ack_keeps (State.abortAt_keeps h)
      · apply State.Keeps.ite (State.ack_keeps hk)
        apply State.ack_keeps
        simp only [State.Keeps.upd_iff]
        exact State.setOut_keeps h
      · exact State.Keeps.ite (State.ack_keeps hk) (State.ack_keeps (State.accept_keeps h))
      · exact State.Keeps.ite (State.ack_keeps hk) (State.ack_keeps (State.accept_keeps h))

theorem State.followOrLeave_keeps {s0 : State} {s : State} {c : Cmd} {a : Word} (hk : s0.Keeps s) :
    s0.Keeps (State.followOrLeave s c a) := by
  unfold State.followOrLeave
  dsimp only
  repeat' first
    | with_reducible exact hk
    | with_reducible apply State.Keeps.ite
    | with_reducible apply State.attachFail_keeps
    | with_reducible apply State.follow_keeps
    | with_reducible apply State.leaveLockstep_keeps

theorem State.partnerRefuses_keeps {s0 : State} {s : State} {r : CmdRef} {st : Nat} {d : Nat} (hk : s0.Keeps s) :
    s0.Keeps (State.partnerRefuses s r st d) := by
  unfold State.partnerRefuses
  dsimp only
  repeat' first
    | with_reducible exact hk
    | with_reducible apply State.Keeps.ite
    | with_reducible apply State.finish_keeps
    | with_reducible apply State.undo_keeps
    | simp only [State.Keeps.upd_iff]
    | split

theorem State.partnerDone_keeps {s0 : State} {s : State} {r : CmdRef} {st : Nat} {d : Nat} {a : Word} {reply : List Byte} (hk : s0.Keeps s) :
    s0.Keeps (State.partnerDone s r st d a reply) := by
  unfold State.partnerDone
  repeat' first
    | with_reducible exact hk
    | with_reducible apply State.Keeps.ite
    | with_reducible apply State.finish_keeps
    | with_reducible apply State.interim_keeps
    | with_reducible apply State.mapOut_keeps
    | with_reducible apply State.ownerDone_keeps
    | split

theorem State.trigRecord_keeps {s0 : State} {s : State} {t : Nat} {on : Bool} {latched : Word} (hk : s0.Keeps s) :
    s0.Keeps (State.trigRecord s t on latched) := by
  unfold State.trigRecord
  dsimp only
  repeat' first
    | with_reducible exact hk
    | with_reducible apply State.Keeps.ite
    | with_reducible apply State.latchFor_keeps

theorem State.goRecord_keeps {s0 : State} {s : State} {st : Nat} {level : Nat} {a : Word} (hk : s0.Keeps s) :
    s0.Keeps (State.goRecord s st level a) := by
  unfold State.goRecord
  dsimp only
  repeat' first
    | with_reducible exact hk
    | with_reducible apply State.Keeps.ite
    | with_reducible apply State.wake_keeps
    | simp only [State.Keeps.upd_iff]

theorem State.hearRec_keeps {s0 : State} {s : State} {r : LinkRec} (hk : s0.Keeps s) :
    s0.Keeps (State.hearRec s r) := by
  unfold State.hearRec
  dsimp only
  repeat' first
    | with_reducible exact hk
    | with_reducible apply State.Keeps.ite
    | with_reducible apply State.followOrLeave_keeps
    | with_reducible apply State.goRecord_keeps
    | with_reducible apply State.partnerDone_keeps
    | with_reducible apply State.partnerRefuses_keeps
    | with_reducible apply State.r0Push_keeps
    | with_reducible apply State.trigRecord_keeps
    | with_reducible apply State.twinRequest_keeps
    | with_reducible apply State.wr_keeps
    | simp only [State.Keeps.upd_iff]
    | split

theorem execCmdFrame_keeps {s0 : State} {recs : List LinkRec} {s : State} (hk : s0.Keeps s) :
    Res.Keeps s0 (execCmdFrame recs s) := by
  unfold execCmdFrame
  repeat' first
    | intro _
    | with_reducible exact hk
    | with_reducible assumption
    | with_reducible apply Res.Keeps.ofNext
    | with_reducible apply State.Keeps.ite
    | with_reducible apply forAll_keeps
    | with_reducible apply State.hearRec_keeps

end Sys2Proof.Machine
end

