-- ==== Sys2Proof/Laws/KeepsEngine.lean ====
section
/-! SUPPORT. What the operations of Machine/Engine.lean keep (`State.Keeps`): the queue and the canonical form of the stores. -/

namespace Sys2Proof.Machine

theorem State.mapEng_keeps {s0 : State} {s : State} {f : EngState → EngState} (hk : s0.Keeps s) :
    s0.Keeps (State.mapEng s f) := by
  unfold State.mapEng
  repeat' first
    | with_reducible exact hk
    | simp only [State.Keeps.upd_iff]

theorem State.decStage_keeps {s0 : State} {s : State} {caps : List SrcSample} (hk : s0.Keeps s) :
    s0.Keeps (State.decStage s caps) := by
  unfold State.decStage
  dsimp only
  repeat' first
    | intro _
    | with_reducible exact hk
    | with_reducible assumption
    | with_reducible apply State.Keeps.ite
    | with_reducible apply State.decOutput_keeps
    | with_reducible apply forAll_keeps

theorem State.playStage_keeps {s0 : State} {s : State} {w0 : List Nat} (hk : s0.Keeps s) :
    s0.Keeps (State.playStage s w0).1 := by
  induction w0 generalizing s with
  | nil => exact hk
  | cons _ _ ih =>
    unfold State.playStage
    dsimp only
    repeat' first
      | with_reducible exact hk
      | with_reducible apply State.playBlock_keeps
      | with_reducible apply ih

theorem State.genStage_keeps {s0 : State} {s : State} {w0 : List Nat} (hk : s0.Keeps s) :
    s0.Keeps (State.genStage s w0).1 := by
  induction w0 generalizing s with
  | nil => exact hk
  | cons _ _ ih =>
    unfold State.genStage
    dsimp only
    repeat' first
      | with_reducible exact hk
      | with_reducible apply State.genBlock_keeps
      | with_reducible apply ih

theorem State.rxStage_keeps {s0 : State} {s : State} {w0 : List Nat} (hk : s0.Keeps s) :
    s0.Keeps (State.rxStage s w0).1 := by
  induction w0 generalizing s with
  | nil => exact hk
  | cons _ _ ih =>
    unfold State.rxStage
    dsimp only
    repeat' first
      | with_reducible exact hk
      | with_reducible apply State.rxAsyncOpen_keeps
      | with_reducible apply State.rxBlock_keeps
      | with_reducible apply ih

theorem State.captureStage_keeps {s0 : State} {s : State} {caps : List SrcSample} (hk : s0.Keeps s) :
    s0.Keeps (State.captureStage s caps) := by
  unfold State.captureStage
  dsimp only
  repeat' first
    | with_reducible exact hk
    | with_reducible apply State.decStage_keeps
    | with_reducible apply State.genStage_keeps
    | with_reducible apply State.mapEng_keeps
    | with_reducible apply State.playStage_keeps
    | with_reducible apply State.rxStage_keeps

theorem State.dlqDue_keeps {s0 : State} {s : State} (hk : s0.Keeps s) :
    s0.Keeps (State.dlqDue s) := by
  unfold State.dlqDue
  dsimp only
  repeat' first
    | intro _
    | with_reducible exact hk
    | with_reducible assumption
    | with_reducible apply forAll_keeps
    | with_reducible apply State.runXfer_keeps
    | simp only [State.Keeps.upd_iff]

theorem State.dueBefore_keeps {s0 : State} {s : State} {a : Word} (hk : s0.Keeps s) :
    s0.Keeps (State.dueBefore s a) := by
  unfold State.dueBefore
  dsimp only
  repeat' first
    | intro _
    | with_reducible exact hk
    | with_reducible assumption
    | with_reducible apply State.Keeps.ite
    | with_reducible apply State.actDue_keeps
    | with_reducible apply State.aoDue_keeps
    | with_reducible apply State.captureEnd_keeps
    | with_reducible apply State.cinDueAll_keeps
    | with_reducible apply State.commitStops_keeps
    | with_reducible apply State.decDue_keeps
    | with_reducible apply State.meterDue_keeps
    | with_reducible apply State.nightDue_keeps
    | with_reducible apply State.patchDue_keeps
    | with_reducible apply State.planeDue_keeps
    | with_reducible apply State.planeRamps_keeps
    | with_reducible apply State.playDue_keeps
    | with_reducible apply State.resolve_keeps
    | with_reducible apply State.stepTick_keeps
    | with_reducible apply State.takeCommit_keeps
    | with_reducible apply State.wakeDue_keeps
    | with_reducible apply State.spDue_keeps
    | with_reducible apply State.strmOff_keeps
    | with_reducible apply State.syncDue_keeps
    | with_reducible apply upTo_keeps
    | with_reducible apply State.xptDue_keeps

theorem State.commitWith_keeps {s0 : State} {s : State} {o : Outst} {f : Outst → State → State} (hk : s0.Keeps s) (h_f : ∀ (y0 : Outst) (y1 : State), s0.Keeps y1 → s0.Keeps (f y0 y1)) :
    s0.Keeps (State.commitWith s o f) := by
  unfold State.commitWith
  repeat' first
    | with_reducible exact hk
    | with_reducible apply State.Keeps.ite
    | with_reducible apply State.mapOut_keeps
    | with_reducible apply State.pendSync_keeps
    | with_reducible apply h_f
    | split

theorem rowCommit_keeps {s0 : State} {o : Outst} {s : State} (hk : s0.Keeps s) : s0.Keeps (rowCommit o s) := by
  unfold rowCommit
  split
  · rename_i r e
    exact (opFind_keeps e).commit hk
  · exact hk

theorem State.commitCmds_keeps {s0 : State} {s : State} (hk : s0.Keeps s) :
    s0.Keeps (State.commitCmds s) := by
  unfold State.commitCmds
  dsimp only
  repeat' first
    | intro _
    | with_reducible exact hk
    | with_reducible assumption
    | with_reducible apply State.commitWith_keeps
    | with_reducible apply forAll_keeps
    | with_reducible apply rowCommit_keeps

theorem State.commitStates_keeps {s0 : State} {s : State} {before : OpState} (hk : s0.Keeps s) :
    s0.Keeps (State.commitStates s before) := by
  unfold State.commitStates
  dsimp only
  repeat' first
    | intro _
    | with_reducible exact hk
    | with_reducible assumption
    | with_reducible apply State.commitSysState_keeps
    | with_reducible apply State.commitWith_keeps
    | with_reducible apply forAll_keeps

theorem State.dueDone_keeps {s0 : State} {s : State} (hk : s0.Keeps s) :
    s0.Keeps (State.dueDone s) := by
  unfold State.dueDone
  dsimp only
  repeat' first
    | intro _
    | with_reducible exact hk
    | with_reducible assumption
    | with_reducible apply State.finish_keeps
    | with_reducible apply forAll_keeps

theorem State.partnerTick_keeps {s0 : State} {s : State} (hk : s0.Keeps s) :
    s0.Keeps (State.partnerTick s) := by
  unfold State.partnerTick
  dsimp only
  repeat' first
    | intro _
    | with_reducible exact hk
    | with_reducible assumption
    | with_reducible apply State.Keeps.ite
    | with_reducible apply State.finish_keeps
    | with_reducible apply forAll_keeps
    | with_reducible apply State.mapOut_keeps

theorem State.commits_keeps {s0 : State} {s : State} {before : OpState} (hk : s0.Keeps s) :
    s0.Keeps (State.commits s before) := by
  unfold State.commits
  dsimp only
  repeat' first
    | with_reducible exact hk
    | with_reducible apply State.actTick_keeps
    | with_reducible apply State.aoTick_keeps
    | with_reducible apply State.commitCmds_keeps
    | with_reducible apply State.commitPatchQueues_keeps
    | with_reducible apply State.commitStates_keeps
    | with_reducible apply State.commitXptQueue_keeps
    | with_reducible apply State.decTick_keeps
    | with_reducible apply State.duskTick_keeps
    | with_reducible apply State.fenceAll_keeps
    | with_reducible apply State.gainTick_keeps
    | with_reducible apply State.genTick_keeps
    | with_reducible apply State.gpioTick_keeps
    | with_reducible apply State.linkTick_keeps
    | with_reducible apply State.netTick_keeps
    | with_reducible apply State.paramTick_keeps
    | with_reducible apply State.ptpTick_keeps
    | with_reducible apply State.refTick_keeps
    | with_reducible apply State.regrade_keeps
    | with_reducible apply State.reinitTick_keeps
    | with_reducible apply State.releaseHeld_keeps
    | with_reducible apply State.spTick_keeps
    | with_reducible apply State.squallTick_keeps
    | with_reducible apply State.trigState_keeps
    | with_reducible apply State.spareTick_keeps
    | with_reducible apply State.tmrTick_keeps
    | with_reducible apply State.trkTick_keeps

theorem State.emitStage_keeps {s0 : State} {s : State} {os : SMap Word} (hk : s0.Keeps s) :
    s0.Keeps (State.emitStage s os) := by
  unfold State.emitStage
  dsimp only
  repeat' first
    | intro _
    | with_reducible exact hk
    | with_reducible assumption
    | with_reducible apply State.Keeps.ite
    | with_reducible apply State.bump_keeps
    | with_reducible apply State.mapEng_keeps
    | with_reducible apply upTo_keeps

theorem State.fillArea_keeps {s0 : State} {s : State} {d : DispRec} {f : Nat → Nat → Word} (hk : s0.Keeps s) :
    s0.Keeps (State.fillArea s d f) := by
  unfold State.fillArea
  repeat' first
    | with_reducible exact hk
    | with_reducible apply State.setMemWords_keeps

theorem State.fillQuads_keeps {s0 : State} {s : State} {outq : Bool} {f : Nat → Nat → Word} (hk : s0.Keeps s) :
    s0.Keeps (State.fillQuads s outq f) := by
  unfold State.fillQuads
  repeat' first
    | intro _
    | with_reducible exact hk
    | with_reducible assumption
    | with_reducible apply State.fillArea_keeps
    | with_reducible apply forAll_keeps

theorem State.fabric_keeps {s0 : State} {s : State} {xi : SMap Word} {os : SMap Word} (hk : s0.Keeps s) :
    s0.Keeps (State.fabric s xi os) := by
  unfold State.fabric
  dsimp only
  repeat' first
    | with_reducible exact hk
    | with_reducible apply State.emitStage_keeps
    | with_reducible apply State.fillQuads_keeps
    | with_reducible apply State.mapEng_keeps

theorem State.coefError_keeps {s0 : State} {s : State} {e : CoefErr} (hk : s0.Keeps s) :
    s0.Keeps (State.coefError s e) := by
  unfold State.coefError
  dsimp only
  repeat' first
    | with_reducible exact hk
    | with_reducible apply State.Keeps.ite
    | with_reducible apply State.bump_keeps
    | with_reducible apply State.event_keeps
    | with_reducible apply State.setGain_keeps
    | with_reducible apply State.startTest_keeps

theorem State.laneError_keeps {s0 : State} {s : State} {e : LaneErr} (hk : s0.Keeps s) :
    s0.Keeps (State.laneError s e) := by
  unfold State.laneError
  dsimp only
  repeat' first
    | with_reducible exact hk
    | with_reducible apply State.event_keeps
    | with_reducible apply State.laneStandIn_keeps
    | with_reducible apply State.set1_keeps
    | with_reducible apply State.startTest_keeps

theorem State.xptStage_keeps {s0 : State} {s : State} {lanes : List LaneErr} {errs : List CoefErr} (hk : s0.Keeps s) :
    s0.Keeps (State.xptStage s lanes errs) := by
  unfold State.xptStage
  dsimp only
  repeat' first
    | intro _
    | with_reducible exact hk
    | with_reducible assumption
    | with_reducible apply State.coefError_keeps
    | with_reducible apply State.countXptSat_keeps
    | with_reducible apply forAll_keeps
    | with_reducible apply State.laneError_keeps
    | with_reducible apply State.mapEng_keeps
    | with_reducible apply upTo_keeps

theorem State.watch_keeps {s0 : State} {s : State} (hk : s0.Keeps s) :
    s0.Keeps (State.watch s) := by
  unfold State.watch
  dsimp only
  repeat' first
    | intro _
    | with_reducible exact hk
    | with_reducible assumption
    | with_reducible apply State.captureBlock_keeps
    | with_reducible apply forAll_keeps
    | with_reducible apply State.meterPoint_keeps
    | with_reducible apply State.txCollect_keeps
    | with_reducible apply upTo_keeps

theorem State.riseCycle_keeps {s0 : State} {s : State} (hk : s0.Keeps s) :
    s0.Keeps (State.riseCycle s) := by
  unfold State.riseCycle
  dsimp only
  repeat' first
    | with_reducible exact hk
    | with_reducible apply State.Keeps.ite
    | with_reducible apply State.setReg_keeps
    | simp only [State.Keeps.upd_iff]

theorem State.passTime_keeps {s0 : State} {s : State} {elapsed : Word} (hk : s0.Keeps s) :
    s0.Keeps (State.passTime s elapsed) := by
  unfold State.passTime
  dsimp only
  repeat' first
    | with_reducible exact hk
    | with_reducible apply State.advanceTime_keeps
    | simp only [State.Keeps.upd_iff]

theorem State.newCycle_keeps {s0 : State} {s : State} (hk : s0.Keeps s) :
    s0.Keeps (State.newCycle s) := by
  unfold State.newCycle
  dsimp only
  repeat' first
    | with_reducible exact hk
    | with_reducible apply State.mapEng_keeps
    | with_reducible apply State.meterTick_keeps
    | with_reducible apply State.quadTick_keeps
    | with_reducible apply State.shedTick_keeps
    | simp only [State.Keeps.upd_iff]

theorem State.tickFrom_keeps {s0 : State} {s : State} {before : OpState} {xi : SMap Word} {os : SMap Word} {lanes : List LaneErr} {errs : List CoefErr} {elapsed : Word} (hk : s0.Keeps s) :
    s0.Keeps (State.tickFrom s before xi os lanes errs elapsed) := by
  unfold State.tickFrom
  dsimp only
  repeat' first
    | with_reducible exact hk
    | with_reducible apply State.Keeps.ite
    | with_reducible apply State.abortTick_keeps
    | with_reducible apply State.commits_keeps
    | with_reducible apply State.drainTick_keeps
    | with_reducible apply State.dueDone_keeps
    | with_reducible apply State.fabric_keeps
    | with_reducible apply State.newCycle_keeps
    | with_reducible apply State.pairTick_keeps
    | with_reducible apply State.partnerTick_keeps
    | with_reducible apply State.passTime_keeps
    | with_reducible apply State.regrade_keeps
    | with_reducible apply State.riseCycle_keeps
    | with_reducible apply State.watch_keeps
    | with_reducible apply State.xptStage_keeps

theorem State.clearSent_keeps {s0 : State} {s : State} (hk : s0.Keeps s) :
    s0.Keeps (State.clearSent s) := by
  unfold State.clearSent
  dsimp only
  repeat' first
    | with_reducible exact hk
    | simp only [State.Keeps.upd_iff]

theorem State.tick_keeps {s0 : State} {s : State} {caps : List SrcSample} {lanes : List LaneErr} {errs : List CoefErr} {elapsed : Word} (hk : s0.Keeps s) :
    s0.Keeps (State.tick s caps lanes errs elapsed) := by
  unfold State.tick
  dsimp only
  repeat' first
    | with_reducible exact hk
    | with_reducible apply State.Keeps.ite
    | with_reducible apply State.captureStage_keeps
    | with_reducible apply State.clearSent_keeps
    | with_reducible apply State.dlqDue_keeps
    | with_reducible apply State.dueBefore_keeps
    | with_reducible apply State.pairDue_keeps
    | with_reducible apply State.tickFrom_keeps

theorem State.restartAlone_keeps {s0 : State} {s : State} (hk : s0.Keeps s) :
    s0.Keeps (State.restartAlone s) := by
  unfold State.restartAlone
  dsimp only
  repeat' first
    | with_reducible exact hk
    | with_reducible apply State.Keeps.ite
    | with_reducible apply State.setAstate_keeps
    | with_reducible apply State.wr_keeps
    | simp only [State.Keeps.upd_iff]

theorem State.stopTick_keeps {s0 : State} {s : State} {x : Activation} (hk : s0.Keeps s) :
    s0.Keeps (State.stopTick s x) := by
  unfold State.stopTick
  dsimp only
  repeat' first
    | intro _
    | with_reducible exact hk
    | with_reducible assumption
    | with_reducible apply forAll_keeps
    | with_reducible apply State.mapOut_keeps
    | with_reducible apply State.pendSync_keeps
    | with_reducible apply State.restartAlone_keeps
    | with_reducible apply State.setAct_keeps
    | with_reducible apply State.withdraw_keeps
    | split

theorem State.fullRefused_keeps {s0 : State} {s : State} {x : Activation} (hk : s0.Keeps s) :
    s0.Keeps (State.fullRefused s x) := by
  unfold State.fullRefused
  dsimp only
  repeat' first
    | with_reducible exact hk
    | with_reducible apply State.finish_keeps
    | with_reducible apply State.setAct_keeps
    | split

theorem State.resetCmds_keeps {s0 : State} {s : State} {w0 : List Outst} (hk : s0.Keeps s) :
    s0.Keeps (State.resetCmds s w0) := by
  induction w0 generalizing s with
  | nil => exact hk
  | cons _ _ ih =>
    unfold State.resetCmds
    repeat' first
      | with_reducible exact hk
      | with_reducible apply State.Keeps.ite
      | with_reducible apply sysResetCommit_keeps
      | with_reducible apply ih

theorem State.outrank_keeps {s0 : State} {s : State} {a : Word} (hk : s0.Keeps s) :
    s0.Keeps (State.outrank s a) := by
  unfold State.outrank
  dsimp only
  repeat' first
    | with_reducible exact hk
    | with_reducible apply State.Keeps.ite
    | with_reducible apply State.deviceReset_keeps
    | with_reducible apply State.faultHold_keeps
    | with_reducible apply State.resetCmds_keeps
    | split

theorem execEngineTick_keeps {s0 : State} {caps : List SrcSample} {lanes : List LaneErr} {errs : List CoefErr} {elapsed : Word} {s : State} (hk : s0.Keeps s) :
    Res.Keeps s0 (execEngineTick caps lanes errs elapsed s) := by
  unfold execEngineTick
  dsimp only
  repeat' first
    | with_reducible exact hk
    | with_reducible apply Res.Keeps.ofNext
    | with_reducible apply State.Keeps.ite
    | with_reducible apply State.fullRefused_keeps
    | with_reducible apply State.outrank_keeps
    | with_reducible apply State.stopTick_keeps
    | with_reducible apply State.tick_keeps
    | split

theorem State.restartTick_keeps {s0 : State} {s : State} {x : Activation} {im : Image} (hk : s0.Keeps s) :
    s0.Keeps (State.restartTick s x im) := by
  unfold State.restartTick
  dsimp only
  repeat' first
    | with_reducible exact hk
    | with_reducible apply State.clearSent_keeps
    | with_reducible apply State.finish_keeps
    | with_reducible apply State.loadImage_keeps
    | with_reducible apply State.queuePatch_keeps
    | with_reducible apply State.tickFrom_keeps
    | split

theorem execImgRestartTick_keeps {s0 : State} {s : State} (hk : s0.Keeps s) :
    Res.Keeps s0 (execImgRestartTick s) := by
  unfold execImgRestartTick
  repeat' first
    | with_reducible exact hk
    | with_reducible apply Res.Keeps.ofNext
    | with_reducible apply State.Keeps.ite
    | with_reducible apply State.restartTick_keeps
    | split

theorem State.putMargin_keeps {s0 : State} {s : State} {unit : Nat} {margin : Nat} (hk : s0.Keeps s) :
    s0.Keeps (State.putMargin s unit margin) := by
  unfold State.putMargin
  dsimp only
  repeat' first
    | with_reducible exact hk
    | with_reducible apply State.Keeps.ite
    | with_reducible apply State.event_keeps
    | with_reducible apply State.wr_keeps
    | with_reducible apply State.set1_keeps
    | simp only [State.Keeps.upd_iff]

theorem State.putLoad_keeps {s0 : State} {s : State} {core : Nat} {time : Nat} (hk : s0.Keeps s) :
    s0.Keeps (State.putLoad s core time) := by
  unfold State.putLoad
  dsimp only
  repeat' first
    | with_reducible exact hk
    | with_reducible apply State.Keeps.ite
    | with_reducible apply State.wr_keeps

theorem execStripCompletion_keeps {s0 : State} {unit : Fin 33} {time : Nat} {s : State} (hk : s0.Keeps s) :
    Res.Keeps s0 (execStripCompletion unit time s) := by
  unfold execStripCompletion
  dsimp only
  repeat' first
    | with_reducible exact hk
    | with_reducible apply Res.Keeps.ofNext
    | with_reducible apply State.Keeps.ite
    | with_reducible apply State.mapEng_keeps
    | with_reducible apply State.putLoad_keeps
    | with_reducible apply State.putMargin_keeps

theorem State.countOverrun_keeps {s0 : State} {s : State} {u : Nat} (hk : s0.Keeps s) :
    s0.Keeps (State.countOverrun s u).1 := by
  unfold State.countOverrun
  dsimp only
  repeat' first
    | with_reducible exact hk
    | simp only [State.Keeps.upd_iff]

theorem State.overrunTests_keeps {s0 : State} {s : State} {k : TestKind} {rs : List Nat} {lasting : Bool} (hk : s0.Keeps s) :
    s0.Keeps (State.overrunTests s k rs lasting) := by
  unfold State.overrunTests
  repeat' first
    | intro _
    | with_reducible exact hk
    | with_reducible assumption
    | with_reducible apply State.Keeps.ite
    | with_reducible apply forAll_keeps
    | with_reducible apply State.markLasting_keeps
    | with_reducible apply State.startTest_keeps

theorem State.overrun_keeps {s0 : State} {s : State} {l : LateUnit} (hk : s0.Keeps s) :
    s0.Keeps (State.overrun s l) := by
  unfold State.overrun
  dsimp only
  repeat' first
    | intro _
    | with_reducible exact hk
    | with_reducible assumption
    | with_reducible apply State.Keeps.ite
    | with_reducible apply State.bump_keeps
    | with_reducible apply State.countOverrun_keeps
    | with_reducible apply State.event_keeps
    | with_reducible apply forAll_keeps
    | with_reducible apply State.initQuadRegion_keeps
    | with_reducible apply State.mapEng_keeps
    | with_reducible apply State.overrunTests_keeps
    | with_reducible apply State.putMargin_keeps
    | with_reducible apply State.setCore_keeps
    | with_reducible apply State.set1_keeps
    | with_reducible apply State.wr_keeps
    | split

theorem execEngineDeadline_keeps {s0 : State} {late : List LateUnit} {wispFail : List (Fin 6)} {s : State} (hk : s0.Keeps s) :
    Res.Keeps s0 (execEngineDeadline late wispFail s) := by
  unfold execEngineDeadline
  dsimp only
  repeat' first
    | intro _
    | with_reducible exact hk
    | with_reducible assumption
    | with_reducible apply Res.Keeps.ofNext
    | with_reducible apply State.Keeps.ite
    | with_reducible apply forAll_keeps
    | with_reducible apply State.overrun_keeps
    | with_reducible apply State.wispGuard_keeps

end Sys2Proof.Machine
end

