-- ==== Sys2Proof/Laws/PerInstr.lean ====
section
/-! SUPPORT. One law per command: a command that comes as a packet (R390) has a 16-bit opcode, and is well formed exactly where its
packet is. -/

namespace Sys2Proof.Laws.Packet

open Sys2Proof Machine

/-- What the family says of one command. -/
def Statement (i : Instr) : Prop := ∀ op c, i.packet = some (op, c) → op < 65536 ∧ i.wf = Cmd.wf op c

theorem powerOn (x0) : Statement (.powerOn x0) := fun _ _ h => nomatch h

theorem vsysFall : Statement (.vsysFall) := fun _ _ h => nomatch h

theorem porstNLow : Statement (.porstNLow) := fun _ _ h => nomatch h

theorem porstNRelease (x0) : Statement (.porstNRelease x0) := fun _ _ h => nomatch h

theorem regulatorCutoff : Statement (.regulatorCutoff) := fun _ _ h => nomatch h

theorem regulatorRestart (x0) : Statement (.regulatorRestart x0) := fun _ _ h => nomatch h

theorem railsInRegulation : Statement (.railsInRegulation) := fun _ _ h => nomatch h

theorem ircQualified : Statement (.ircQualified) := fun _ _ h => nomatch h

theorem crystalQualified : Statement (.crystalQualified) := fun _ _ h => nomatch h

theorem crystalQualTimeout : Statement (.crystalQualTimeout) := fun _ _ h => nomatch h

theorem rootPllLock : Statement (.rootPllLock) := fun _ _ h => nomatch h

theorem pllLockTimeout : Statement (.pllLockTimeout) := fun _ _ h => nomatch h

theorem ircStop : Statement (.ircStop) := fun _ _ h => nomatch h

theorem ircPeriodicCheck (x0) : Statement (.ircPeriodicCheck x0) := fun _ _ h => nomatch h

theorem clockSupervisorTrip (x0) : Statement (.clockSupervisorTrip x0) := fun _ _ h => nomatch h

theorem clockWaitRetry (x0) : Statement (.clockWaitRetry x0) := fun _ _ h => nomatch h

theorem afterglowOutOfRange (x0) : Statement (.afterglowOutOfRange x0) := fun _ _ h => nomatch h

theorem dramTrained (x0) : Statement (.dramTrained x0) := fun _ _ h => nomatch h

theorem firmwareLoad : Statement (.firmwareLoad) := fun _ _ h => nomatch h

theorem bootImageLoad : Statement (.bootImageLoad) := fun _ _ h => nomatch h

theorem headLoadDone (x0) : Statement (.headLoadDone x0) := fun _ _ h => nomatch h

theorem secRecovGo (x0) : Statement (.secRecovGo x0) := fun _ _ h => nomatch h

theorem recoveryCheckDone : Statement (.recoveryCheckDone) := fun _ _ h => nomatch h

theorem engineTick (x0) (x1) (x2) (x3) : Statement (.engineTick x0 x1 x2 x3) := fun _ _ h => nomatch h

theorem dispatchRecord (x0) (x1) (x2) : Statement (.dispatchRecord x0 x1 x2) := fun _ _ h => nomatch h

theorem stripCompletion (x0) (x1) : Statement (.stripCompletion x0 x1) := fun _ _ h => nomatch h

theorem engineDeadline (x0) (x1) : Statement (.engineDeadline x0 x1) := fun _ _ h => nomatch h

theorem wispAbandon (x0) : Statement (.wispAbandon x0) := fun _ _ h => nomatch h

theorem wispRestoreDone (x0) : Statement (.wispRestoreDone x0) := fun _ _ h => nomatch h

theorem eccWriteback (x0) : Statement (.eccWriteback x0) := fun _ _ h => nomatch h

theorem slotNop (x0) : Statement (.slotNop x0) := fun _ _ h => nomatch h

theorem vadd (x0) (x1) (x2) (x3) : Statement (.vadd x0 x1 x2 x3) := fun _ _ h => nomatch h

theorem vaddm (x0) (x1) (x2) (x3) : Statement (.vaddm x0 x1 x2 x3) := fun _ _ h => nomatch h

theorem vsub (x0) (x1) (x2) (x3) : Statement (.vsub x0 x1 x2 x3) := fun _ _ h => nomatch h

theorem vsubm (x0) (x1) (x2) (x3) : Statement (.vsubm x0 x1 x2 x3) := fun _ _ h => nomatch h

theorem vneg (x0) (x1) (x2) : Statement (.vneg x0 x1 x2) := fun _ _ h => nomatch h

theorem vabs (x0) (x1) (x2) : Statement (.vabs x0 x1 x2) := fun _ _ h => nomatch h

theorem vmin (x0) (x1) (x2) (x3) : Statement (.vmin x0 x1 x2 x3) := fun _ _ h => nomatch h

theorem vmax (x0) (x1) (x2) (x3) : Statement (.vmax x0 x1 x2 x3) := fun _ _ h => nomatch h

theorem vand (x0) (x1) (x2) (x3) : Statement (.vand x0 x1 x2 x3) := fun _ _ h => nomatch h

theorem vor (x0) (x1) (x2) (x3) : Statement (.vor x0 x1 x2 x3) := fun _ _ h => nomatch h

theorem vxor (x0) (x1) (x2) (x3) : Statement (.vxor x0 x1 x2 x3) := fun _ _ h => nomatch h

theorem vpick (x0) (x1) (x2) (x3) : Statement (.vpick x0 x1 x2 x3) := fun _ _ h => nomatch h

theorem vcgt (x0) (x1) (x2) (x3) : Statement (.vcgt x0 x1 x2 x3) := fun _ _ h => nomatch h

theorem vceq (x0) (x1) (x2) (x3) : Statement (.vceq x0 x1 x2 x3) := fun _ _ h => nomatch h

theorem vshl (x0) (x1) (x2) (x3) : Statement (.vshl x0 x1 x2 x3) := fun _ _ h => nomatch h

theorem vsra (x0) (x1) (x2) (x3) : Statement (.vsra x0 x1 x2 x3) := fun _ _ h => nomatch h

theorem vsrar (x0) (x1) (x2) (x3) : Statement (.vsrar x0 x1 x2 x3) := fun _ _ h => nomatch h

theorem vsrl (x0) (x1) (x2) (x3) : Statement (.vsrl x0 x1 x2 x3) := fun _ _ h => nomatch h

theorem vspl (x0) (x1) (x2) (x3) : Statement (.vspl x0 x1 x2 x3) := fun _ _ h => nomatch h

theorem vidx (x0) (x1) : Statement (.vidx x0 x1) := fun _ _ h => nomatch h

theorem vhsum (x0) (x1) (x2) : Statement (.vhsum x0 x1 x2) := fun _ _ h => nomatch h

theorem vhmax (x0) (x1) (x2) : Statement (.vhmax x0 x1 x2) := fun _ _ h => nomatch h

theorem vhmin (x0) (x1) (x2) : Statement (.vhmin x0 x1 x2) := fun _ _ h => nomatch h

theorem vhmaxi (x0) (x1) (x2) : Statement (.vhmaxi x0 x1 x2) := fun _ _ h => nomatch h

theorem vhmini (x0) (x1) (x2) : Statement (.vhmini x0 x1 x2) := fun _ _ h => nomatch h

theorem vsmax (x0) (x1) (x2) : Statement (.vsmax x0 x1 x2) := fun _ _ h => nomatch h

theorem vsmin (x0) (x1) (x2) : Statement (.vsmin x0 x1 x2) := fun _ _ h => nomatch h

theorem vsmaxa (x0) (x1) (x2) : Statement (.vsmaxa x0 x1 x2) := fun _ _ h => nomatch h

theorem vmul (x0) (x1) (x2) (x3) (x4) : Statement (.vmul x0 x1 x2 x3 x4) := fun _ _ h => nomatch h

theorem mac (x0) (x1) (x2) (x3) : Statement (.mac x0 x1 x2 x3) := fun _ _ h => nomatch h

theorem msu (x0) (x1) (x2) (x3) : Statement (.msu x0 x1 x2 x3) := fun _ _ h => nomatch h

theorem mul (x0) (x1) (x2) (x3) : Statement (.mul x0 x1 x2 x3) := fun _ _ h => nomatch h

theorem aset (x0) (x1) (x2) (x3) : Statement (.aset x0 x1 x2 x3) := fun _ _ h => nomatch h

theorem alo (x0) (x1) (x2) : Statement (.alo x0 x1 x2) := fun _ _ h => nomatch h

theorem amov (x0) (x1) (x2) : Statement (.amov x0 x1 x2) := fun _ _ h => nomatch h

theorem aadd (x0) (x1) (x2) : Statement (.aadd x0 x1 x2) := fun _ _ h => nomatch h

theorem aclr (x0) (x1) : Statement (.aclr x0 x1) := fun _ _ h => nomatch h

theorem ext (x0) (x1) (x2) (x3) (x4) : Statement (.ext x0 x1 x2 x3 x4) := fun _ _ h => nomatch h

theorem extl (x0) (x1) (x2) (x3) : Statement (.extl x0 x1 x2 x3) := fun _ _ h => nomatch h

theorem vld (x0) (x1) (x2) (x3) (x4) : Statement (.vld x0 x1 x2 x3 x4) := fun _ _ h => nomatch h

theorem vst (x0) (x1) (x2) : Statement (.vst x0 x1 x2) := fun _ _ h => nomatch h

theorem vldb (x0) (x1) (x2) : Statement (.vldb x0 x1 x2) := fun _ _ h => nomatch h

theorem atadd (x0) (x1) (x2) : Statement (.atadd x0 x1 x2) := fun _ _ h => nomatch h

theorem atswp (x0) (x1) (x2) : Statement (.atswp x0 x1 x2) := fun _ _ h => nomatch h

theorem pmod (x0) (x1) : Statement (.pmod x0 x1) := fun _ _ h => nomatch h

theorem pld (x0) (x1) (x2) : Statement (.pld x0 x1 x2) := fun _ _ h => nomatch h

theorem mld (x0) (x1) (x2) : Statement (.mld x0 x1 x2) := fun _ _ h => nomatch h

theorem cnop (x0) : Statement (.cnop x0) := fun _ _ h => nomatch h

theorem loopOp (x0) (x1) (x2) (x3) : Statement (.loopOp x0 x1 x2 x3) := fun _ _ h => nomatch h

theorem loopPassEnd (x0) (x1) : Statement (.loopPassEnd x0 x1) := fun _ _ h => nomatch h

theorem setlc (x0) (x1) (x2) : Statement (.setlc x0 x1 x2) := fun _ _ h => nomatch h

theorem setlcr (x0) (x1) (x2) (x3) : Statement (.setlcr x0 x1 x2 x3) := fun _ _ h => nomatch h

theorem brf (x0) (x1) (x2) : Statement (.brf x0 x1 x2) := fun _ _ h => nomatch h

theorem paddi (x0) (x1) (x2) : Statement (.paddi x0 x1 x2) := fun _ _ h => nomatch h

theorem setm (x0) (x1) (x2) (x3) : Statement (.setm x0 x1 x2 x3) := fun _ _ h => nomatch h

theorem pmov (x0) (x1) (x2) : Statement (.pmov x0 x1 x2) := fun _ _ h => nomatch h

theorem setw (x0) (x1) (x2) (x3) : Statement (.setw x0 x1 x2 x3) := fun _ _ h => nomatch h

theorem bindOp (x0) (x1) (x2) : Statement (.bindOp x0 x1 x2) := fun _ _ h => nomatch h

theorem setidx (x0) (x1) : Statement (.setidx x0 x1) := fun _ _ h => nomatch h

theorem dlq (x0) (x1) : Statement (.dlq x0 x1) := fun _ _ h => nomatch h

theorem endOp (x0) : Statement (.endOp x0) := fun _ _ h => nomatch h

theorem dlqTransferDone (x0) : Statement (.dlqTransferDone x0) := fun _ _ h => nomatch h

theorem xptCopyDone (x0) : Statement (.xptCopyDone x0) := fun _ _ h => nomatch h

theorem xptRampEnd (x0) : Statement (.xptRampEnd x0) := fun _ _ h => nomatch h

theorem coefShadowWrite (x0) (x1) (x2) : Statement (.coefShadowWrite x0 x1 x2) := fun _ _ h => nomatch h

theorem captureDone (x0) : Statement (.captureDone x0) := fun _ _ h => nomatch h

theorem meterWindowEnd : Statement (.meterWindowEnd) := fun _ _ h => nomatch h

theorem patchFadeOutEnd (x0) : Statement (.patchFadeOutEnd x0) := fun _ _ h => nomatch h

theorem patchFadeEnd (x0) : Statement (.patchFadeEnd x0) := fun _ _ h => nomatch h

theorem cinSample (x0) (x1) (x2) : Statement (.cinSample x0 x1 x2) := fun _ _ h => nomatch h

theorem cinDebounceComplete (x0) : Statement (.cinDebounceComplete x0) := fun _ _ h => nomatch h

theorem triggerAssertion (x0) : Statement (.triggerAssertion x0) := fun _ _ h => nomatch h

theorem triggerRelease (x0) : Statement (.triggerRelease x0) := fun _ _ h => nomatch h

theorem ovrForceRampEnd (x0) : Statement (.ovrForceRampEnd x0) := fun _ _ h => nomatch h

theorem ovrReleaseRampEnd (x0) : Statement (.ovrReleaseRampEnd x0) := fun _ _ h => nomatch h

theorem ovrCrcCheck (x0) (x1) : Statement (.ovrCrcCheck x0 x1) := fun _ _ h => nomatch h

theorem ovrArmExpiry : Statement (.ovrArmExpiry) := fun _ _ h => nomatch h

theorem ovrKeyLockoutEnd : Statement (.ovrKeyLockoutEnd) := fun _ _ h => nomatch h

theorem ovrCommitTakeEffect : Statement (.ovrCommitTakeEffect) := fun _ _ h => nomatch h

theorem imgRestartTick : Statement (.imgRestartTick) := fun _ _ h => nomatch h

theorem imgDipBypass : Statement (.imgDipBypass) := fun _ _ h => nomatch h

theorem imgSwitchTick (x0) : Statement (.imgSwitchTick x0) := fun _ _ h => nomatch h

theorem imgActivateComplete : Statement (.imgActivateComplete) := fun _ _ h => nomatch h

theorem paramSyncDone (x0) (x1) : Statement (.paramSyncDone x0 x1) := fun _ _ h => nomatch h

theorem backgroundJobDone (x0) (x1) : Statement (.backgroundJobDone x0 x1) := fun _ _ h => nomatch h

theorem decStart (x0) (x1) : Statement (.decStart x0 x1) := fun _ _ h => nomatch h

theorem decStop (x0) (x1) : Statement (.decStop x0 x1) := fun _ _ h => nomatch h

theorem decSettleEnd (x0) : Statement (.decSettleEnd x0) := fun _ _ h => nomatch h

theorem decStopEnd (x0) : Statement (.decStopEnd x0) := fun _ _ h => nomatch h

theorem decStrobe (x0) : Statement (.decStrobe x0) := fun _ _ h => nomatch h

theorem decTimerStrobe (x0) : Statement (.decTimerStrobe x0) := fun _ _ h => nomatch h

theorem decWindowEnd (x0) (x1) : Statement (.decWindowEnd x0 x1) := fun _ _ h => nomatch h

theorem decFifoRead (x0) : Statement (.decFifoRead x0) := fun _ _ h => nomatch h

theorem trackerEdgesSeen (x0) (x1) : Statement (.trackerEdgesSeen x0 x1) := fun _ _ h => nomatch h

theorem trackerLock (x0) (x1) : Statement (.trackerLock x0 x1) := fun _ _ h => nomatch h

theorem trackerEdgeLoss (x0) : Statement (.trackerEdgeLoss x0) := fun _ _ h => nomatch h

theorem trackerRatioJump (x0) (x1) : Statement (.trackerRatioJump x0 x1) := fun _ _ h => nomatch h

theorem trackerRange (x0) (x1) : Statement (.trackerRange x0 x1) := fun _ _ h => nomatch h

theorem trackerRangeExit (x0) (x1) : Statement (.trackerRangeExit x0 x1) := fun _ _ h => nomatch h

theorem spStart (x0) (x1) : Statement (.spStart x0 x1) := fun _ _ h => nomatch h

theorem spStop (x0) (x1) : Statement (.spStop x0 x1) := fun _ _ h => nomatch h

theorem spMute (x0) (x1) : Statement (.spMute x0 x1) := fun _ _ h => nomatch h

theorem spUnmute (x0) (x1) : Statement (.spUnmute x0 x1) := fun _ _ h => nomatch h

theorem spMaskCommit (x0) (x1) : Statement (.spMaskCommit x0 x1) := fun _ _ h => nomatch h

theorem spMaskTakeEffect (x0) : Statement (.spMaskTakeEffect x0) := fun _ _ h => nomatch h

theorem spFrameAligned (x0) (x1) : Statement (.spFrameAligned x0 x1) := fun _ _ h => nomatch h

theorem spDataTick (x0) : Statement (.spDataTick x0) := fun _ _ h => nomatch h

theorem spSlotCrossing (x0) (x1) (x2) : Statement (.spSlotCrossing x0 x1 x2) := fun _ _ h => nomatch h

theorem spZcTimeout (x0) (x1) : Statement (.spZcTimeout x0 x1) := fun _ _ h => nomatch h

theorem spLeadOutEnd (x0) : Statement (.spLeadOutEnd x0) := fun _ _ h => nomatch h

theorem spUnderrun (x0) (x1) : Statement (.spUnderrun x0 x1) := fun _ _ h => nomatch h

theorem spOverrun (x0) (x1) : Statement (.spOverrun x0 x1) := fun _ _ h => nomatch h

theorem spSlip (x0) (x1) : Statement (.spSlip x0 x1) := fun _ _ h => nomatch h

theorem spGlitch (x0) : Statement (.spGlitch x0) := fun _ _ h => nomatch h

theorem spLost (x0) : Statement (.spLost x0) := fun _ _ h => nomatch h

theorem spRealign (x0) : Statement (.spRealign x0) := fun _ _ h => nomatch h

theorem anaGainWrite (x0) (x1) (x2) : Statement (.anaGainWrite x0 x1 x2) := fun _ _ h => nomatch h

theorem gainStep (x0) : Statement (.gainStep x0) := fun _ _ h => nomatch h

theorem gainStepTimeout (x0) : Statement (.gainStepTimeout x0) := fun _ _ h => nomatch h

theorem biasStateChange (x0) (x1) : Statement (.biasStateChange x0 x1) := fun _ _ h => nomatch h

theorem aoutGateCrossing (x0) (x1) : Statement (.aoutGateCrossing x0 x1) := fun _ _ h => nomatch h

theorem aoutHoldEnd (x0) : Statement (.aoutHoldEnd x0) := fun _ _ h => nomatch h

theorem drvSample (x0) (x1) : Statement (.drvSample x0 x1) := fun _ _ h => nomatch h

theorem drvFaultDebounce (x0) : Statement (.drvFaultDebounce x0) := fun _ _ h => nomatch h

theorem drvOvercurrent (x0) : Statement (.drvOvercurrent x0) := fun _ _ h => nomatch h

theorem drvRetry (x0) : Statement (.drvRetry x0) := fun _ _ h => nomatch h

theorem drvTotalOverload : Statement (.drvTotalOverload) := fun _ _ h => nomatch h

theorem lsEstimate (x0) (x1) (x2) : Statement (.lsEstimate x0 x1 x2) := fun _ _ h => nomatch h

theorem lsFaultDeclared (x0) : Statement (.lsFaultDeclared x0) := fun _ _ h => nomatch h

theorem lsLearnStart (x0) (x1) : Statement (.lsLearnStart x0 x1) := fun _ _ h => nomatch h

theorem lsLearnDone (x0) : Statement (.lsLearnDone x0) := fun _ _ h => nomatch h

theorem playerFirstSample (x0) : Statement (.playerFirstSample x0) := fun _ _ h => nomatch h

theorem chainStepAdvance (x0) : Statement (.chainStepAdvance x0) := fun _ _ h => nomatch h

theorem playerUnderrun (x0) : Statement (.playerUnderrun x0) := fun _ _ h => nomatch h

theorem scanVerify (x0) (x1) : Statement (.scanVerify x0 x1) := fun _ _ h => nomatch h

theorem scanPhaseEnd : Statement (.scanPhaseEnd) := fun _ _ h => nomatch h

theorem genEnableWrite (x0) (x1) (x2) : Statement (.genEnableWrite x0 x1 x2) := fun _ _ h => nomatch h

theorem genSegmentEnd (x0) : Statement (.genSegmentEnd x0) := fun _ _ h => nomatch h

theorem visUpdate (x0) (x1) : Statement (.visUpdate x0 x1) := fun _ _ h => nomatch h

theorem streamPacketReceived (x0) : Statement (.streamPacketReceived x0) := fun _ _ h => nomatch h

theorem streamPacketTransmit (x0) : Statement (.streamPacketTransmit x0) := fun _ _ h => nomatch h

theorem streamTxStopEnd (x0) : Statement (.streamTxStopEnd x0) := fun _ _ h => nomatch h

theorem streamRxTimeout (x0) : Statement (.streamRxTimeout x0) := fun _ _ h => nomatch h

theorem legDown (x0) : Statement (.legDown x0) := fun _ _ h => nomatch h

theorem linkSpeedChange (x0) (x1) : Statement (.linkSpeedChange x0 x1) := fun _ _ h => nomatch h

theorem igmpQueryReceived (x0) (x1) : Statement (.igmpQueryReceived x0 x1) := fun _ _ h => nomatch h

theorem igmpReportRepeat : Statement (.igmpReportRepeat) := fun _ _ h => nomatch h

theorem sapAnnounce (x0) : Statement (.sapAnnounce x0) := fun _ _ h => nomatch h

theorem sapAnnounceReceived (x0) (x1) (x2) : Statement (.sapAnnounceReceived x0 x1 x2) := fun _ _ h => nomatch h

theorem sapEntryAgeOut (x0) : Statement (.sapEntryAgeOut x0) := fun _ _ h => nomatch h

theorem mgmtDatagramReceived (x0) (x1) (x2) : Statement (.mgmtDatagramReceived x0 x1 x2) := fun _ _ h => nomatch h

theorem ptpMessageReceived (x0) (x1) (x2) : Statement (.ptpMessageReceived x0 x1 x2) := fun _ _ h => nomatch h

theorem ptpMessageSend (x0) (x1) (x2) : Statement (.ptpMessageSend x0 x1 x2) := fun _ _ h => nomatch h

theorem announceTimeout (x0) : Statement (.announceTimeout x0) := fun _ _ h => nomatch h

theorem servoStep : Statement (.servoStep) := fun _ _ h => nomatch h

theorem autoRestep : Statement (.autoRestep) := fun _ _ h => nomatch h

theorem refMeasurement (x0) (x1) : Statement (.refMeasurement x0 x1) := fun _ _ h => nomatch h

theorem refPresenceChange (x0) (x1) : Statement (.refPresenceChange x0 x1) := fun _ _ h => nomatch h

theorem refLock (x0) : Statement (.refLock x0) := fun _ _ h => nomatch h

theorem refPullDone : Statement (.refPullDone) := fun _ _ h => nomatch h

theorem refOutlierClear (x0) : Statement (.refOutlierClear x0) := fun _ _ h => nomatch h

theorem refSelWrite (x0) (x1) : Statement (.refSelWrite x0 x1) := fun _ _ h => nomatch h

theorem ceilingFrameReceived (x0) : Statement (.ceilingFrameReceived x0) := fun _ _ h => nomatch h

theorem ceilingFrameRetry (x0) : Statement (.ceilingFrameRetry x0) := fun _ _ h => nomatch h

theorem pairLineLost (x0) : Statement (.pairLineLost x0) := fun _ _ h => nomatch h

theorem pairLineRecover (x0) : Statement (.pairLineRecover x0) := fun _ _ h => nomatch h

theorem beaconSend (x0) : Statement (.beaconSend x0) := fun _ _ h => nomatch h

theorem beaconReceived (x0) (x1) (x2) : Statement (.beaconReceived x0 x1 x2) := fun _ _ h => nomatch h

theorem beaconHeartbeatLost : Statement (.beaconHeartbeatLost) := fun _ _ h => nomatch h

theorem partnerSilence : Statement (.partnerSilence) := fun _ _ h => nomatch h

theorem handoverTick : Statement (.handoverTick) := fun _ _ h => nomatch h

theorem driveSenseProbe (x0) (x1) : Statement (.driveSenseProbe x0 x1) := fun _ _ h => nomatch h

theorem driveTaken (x0) : Statement (.driveTaken x0) := fun _ _ h => nomatch h

theorem driveConflict (x0) : Statement (.driveConflict x0) := fun _ _ h => nomatch h

theorem twpcAutoPulse : Statement (.twpcAutoPulse) := fun _ _ h => nomatch h

theorem twpcInPulse (x0) : Statement (.twpcInPulse x0) := fun _ _ h => nomatch h

theorem twpcRailOffEnd : Statement (.twpcRailOffEnd) := fun _ _ h => nomatch h

theorem twpcHoldLapse : Statement (.twpcHoldLapse) := fun _ _ h => nomatch h

theorem sundogLanesLock (x0) (x1) : Statement (.sundogLanesLock x0 x1) := fun _ _ h => nomatch h

theorem sundogLinkUp : Statement (.sundogLinkUp) := fun _ _ h => nomatch h

theorem linkDown : Statement (.linkDown) := fun _ _ h => nomatch h

theorem cycleOpen (x0) : Statement (.cycleOpen x0) := fun _ _ h => nomatch h

theorem input (x0) (x1) (x2) (x3) : Statement (.input x0 x1 x2 x3) := fun _ _ h => nomatch h

theorem stateFrame (x0) (x1) (x2) : Statement (.stateFrame x0 x1 x2) := fun _ _ h => nomatch h

theorem cmdFrame (x0) : Statement (.cmdFrame x0) := fun _ _ h => nomatch h

theorem sig (x0) : Statement (.sig x0) := fun _ _ h => nomatch h

theorem cycleClose (x0) (x1) : Statement (.cycleClose x0 x1) := fun _ _ h => nomatch h

theorem bulk (x0) : Statement (.bulk x0) := fun _ _ h => nomatch h

theorem sundogAck (x0) : Statement (.sundogAck x0) := fun _ _ h => nomatch h

theorem pairVerdict : Statement (.pairVerdict) := fun _ _ h => nomatch h

theorem pairDecision : Statement (.pairDecision) := fun _ _ h => nomatch h

theorem attachStart (x0) : Statement (.attachStart x0) := fun _ _ h => nomatch h

theorem bulkCopyComplete (x0) (x1) : Statement (.bulkCopyComplete x0 x1) := fun _ _ h => nomatch h

theorem cutoverTick : Statement (.cutoverTick) := fun _ _ h => nomatch h

theorem standbyPromotion : Statement (.standbyPromotion) := fun _ _ h => nomatch h

theorem reclaimPromotion : Statement (.reclaimPromotion) := fun _ _ h => nomatch h

theorem cmdDoorbell (x0) (x1) : Statement (.cmdDoorbell x0 x1) := fun _ _ h => nomatch h

theorem cmdCdbWrite (x0) (x1) : Statement (.cmdCdbWrite x0 x1) := fun _ _ h => nomatch h

theorem cmdRingEnable (x0) : Statement (.cmdRingEnable x0) := fun _ _ h => nomatch h

theorem cmdRingDisable (x0) : Statement (.cmdRingDisable x0) := fun _ _ h => nomatch h

theorem ringDrainDone (x0) : Statement (.ringDrainDone x0) := fun _ _ h => nomatch h

theorem commandFetch (x0) : Statement (.commandFetch x0) := fun _ _ h => nomatch h

theorem commandDecision : Statement (.commandDecision) := fun _ _ h => nomatch h

theorem ring0Decode : Statement (.ring0Decode) := fun _ _ h => nomatch h

theorem cpWatchdogExpiry : Statement (.cpWatchdogExpiry) := fun _ _ h => nomatch h

theorem cpTrap : Statement (.cpTrap) := fun _ _ h => nomatch h

theorem cpRestart : Statement (.cpRestart) := fun _ _ h => nomatch h

theorem sysWdogKick (x0) (x1) : Statement (.sysWdogKick x0 x1) := fun _ _ h => nomatch h

theorem sysResetWrite (x0) : Statement (.sysResetWrite x0) := fun _ _ h => nomatch h

theorem sysRemapWrite (x0) : Statement (.sysRemapWrite x0) := fun _ _ h => nomatch h

theorem duskExitReady (x0) : Statement (.duskExitReady x0) := fun _ _ h => nomatch h

theorem memDuskWrite (x0) (x1) : Statement (.memDuskWrite x0 x1) := fun _ _ h => nomatch h

theorem scrubPass : Statement (.scrubPass) := fun _ _ h => nomatch h

theorem selftestDone (x0) (x1) (x2) (x3) : Statement (.selftestDone x0 x1 x2 x3) := fun _ _ h => nomatch h

theorem fence : Statement (.fence) := fun _ _ h => nomatch h

theorem ladderStep (x0) (x1) : Statement (.ladderStep x0 x1) := fun _ _ h => nomatch h

theorem ladderHeldRelease : Statement (.ladderHeldRelease) := fun _ _ h => nomatch h

theorem funcRestart (x0) : Statement (.funcRestart x0) := fun _ _ h => nomatch h

theorem logFlush : Statement (.logFlush) := fun _ _ h => nomatch h

theorem flashOperationDone (x0) (x1) (x2) : Statement (.flashOperationDone x0 x1 x2) := fun _ _ h => nomatch h

theorem busBurst (x0) : Statement (.busBurst x0) := fun _ _ h => nomatch h

theorem busTimeout (x0) (x1) (x2) (x3) (x4) : Statement (.busTimeout x0 x1 x2 x3 x4) := fun _ _ h => nomatch h

theorem busAbandon (x0) (x1) (x2) : Statement (.busAbandon x0 x1 x2) := fun _ _ h => nomatch h

theorem clkGateReqWrite (x0) (x1) : Statement (.clkGateReqWrite x0 x1) := fun _ _ h => nomatch h

theorem gateQuiescent (x0) : Statement (.gateQuiescent x0) := fun _ _ h => nomatch h

theorem gateQuiesceTimeout (x0) : Statement (.gateQuiesceTimeout x0) := fun _ _ h => nomatch h

theorem thermalSample (x0) (x1) (x2) (x3) (x4) : Statement (.thermalSample x0 x1 x2 x3 x4) := fun _ _ h => nomatch h

theorem thermalExitTimer (x0) : Statement (.thermalExitTimer x0) := fun _ _ h => nomatch h

theorem supplyLowTimer : Statement (.supplyLowTimer) := fun _ _ h => nomatch h

theorem supplyClearTimer : Statement (.supplyClearTimer) := fun _ _ h => nomatch h

theorem budgetExceeded : Statement (.budgetExceeded) := fun _ _ h => nomatch h

theorem vauxOvercurrent : Statement (.vauxOvercurrent) := fun _ _ h => nomatch h

theorem vauxRetry (x0) (x1) : Statement (.vauxRetry x0 x1) := fun _ _ h => nomatch h

theorem nightfallBypass : Statement (.nightfallBypass) := fun _ _ h => nomatch h

theorem nightfallDusk : Statement (.nightfallDusk) := fun _ _ h => nomatch h

theorem wakeEvent : Statement (.wakeEvent) := fun _ _ h => nomatch h

theorem wakeGatesOpen : Statement (.wakeGatesOpen) := fun _ _ h => nomatch h

theorem wakeRun : Statement (.wakeRun) := fun _ _ h => nomatch h

theorem wpLockoutEnd : Statement (.wpLockoutEnd) := fun _ _ h => nomatch h

theorem secAkeyCommit : Statement (.secAkeyCommit) := fun _ _ h => nomatch h

theorem xptQpush (x0) : Statement (.xptQpush x0) := fun _ _ h => nomatch h

theorem xptCntClrSat : Statement (.xptCntClrSat) := fun _ _ h => nomatch h

theorem xptCntClrEcc : Statement (.xptCntClrEcc) := fun _ _ h => nomatch h

theorem xptCntClrBlk : Statement (.xptCntClrBlk) := fun _ _ h => nomatch h

theorem xptCapArm (x0) : Statement (.xptCapArm x0) := fun _ _ h => nomatch h

theorem patchPush (x0) : Statement (.patchPush x0) := fun _ _ h => nomatch h

theorem patchCntClrSinks : Statement (.patchCntClrSinks) := fun _ _ h => nomatch h

theorem patchCntClrTotal : Statement (.patchCntClrTotal) := fun _ _ h => nomatch h

theorem patchMtrClr : Statement (.patchMtrClr) := fun _ _ h => nomatch h

theorem patchMtrCfgWrite (x0) : Statement (.patchMtrCfgWrite x0) := fun _ _ h => nomatch h

theorem ovrArmWrite (x0) (x1) : Statement (.ovrArmWrite x0 x1) := fun _ _ h => nomatch h

theorem ovrCommitWrite (x0) (x1) : Statement (.ovrCommitWrite x0 x1) := fun _ _ h => nomatch h

theorem engCntClrOverrun : Statement (.engCntClrOverrun) := fun _ _ h => nomatch h

theorem engMarginMinRead : Statement (.engMarginMinRead) := fun _ _ h => nomatch h

theorem cluCntClrSat (x0) : Statement (.cluCntClrSat x0) := fun _ _ h => nomatch h

theorem cluLoadRead (x0) (x1) : Statement (.cluLoadRead x0 x1) := fun _ _ h => nomatch h

theorem memCntClrDlq : Statement (.memCntClrDlq) := fun _ _ h => nomatch h

theorem memCntClrConf : Statement (.memCntClrConf) := fun _ _ h => nomatch h

theorem memCntClrDram : Statement (.memCntClrDram) := fun _ _ h => nomatch h

theorem memCntClrSram : Statement (.memCntClrSram) := fun _ _ h => nomatch h

theorem memDramRtRead : Statement (.memDramRtRead) := fun _ _ h => nomatch h

theorem busCntClrLk : Statement (.busCntClrLk) := fun _ _ h => nomatch h

theorem busCntClrEv : Statement (.busCntClrEv) := fun _ _ h => nomatch h

theorem busCntClrErr : Statement (.busCntClrErr) := fun _ _ h => nomatch h

theorem busWaitRead (x0) : Statement (.busWaitRead x0) := fun _ _ h => nomatch h

theorem cmdPendRead : Statement (.cmdPendRead) := fun _ _ h => nomatch h

theorem flashcSuspRead : Statement (.flashcSuspRead) := fun _ _ h => nomatch h

theorem pwrTjMaxRead : Statement (.pwrTjMaxRead) := fun _ _ h => nomatch h

theorem ptpDtimeLoRead : Statement (.ptpDtimeLoRead) := fun _ _ h => nomatch h

theorem ptpStepLoRead : Statement (.ptpStepLoRead) := fun _ _ h => nomatch h

theorem broadcastAliasWrite (x0) (x1) (x2) : Statement (.broadcastAliasWrite x0 x1 x2) := fun _ _ h => nomatch h

theorem groupAliasWrite (x0) (x1) (x2) : Statement (.groupAliasWrite x0 x1 x2) := fun _ _ h => nomatch h

theorem registerWrite (x0) (x1) (x2) : Statement (.registerWrite x0 x1 x2) := fun _ _ h => nomatch h

theorem rdsr : Statement (.rdsr) := fun _ _ h => nomatch h

theorem clsr : Statement (.clsr) := fun _ _ h => nomatch h

theorem rdid : Statement (.rdid) := fun _ _ h => nomatch h

theorem read (x0) (x1) (x2) : Statement (.read x0 x1 x2) := fun _ _ h => nomatch h

theorem readQ (x0) (x1) (x2) : Statement (.readQ x0 x1 x2) := fun _ _ h => nomatch h

theorem readQio (x0) (x1) (x2) : Statement (.readQio x0 x1 x2) := fun _ _ h => nomatch h

theorem write (x0) (x1) : Statement (.write x0 x1) := fun _ _ h => nomatch h

theorem writeQ (x0) (x1) : Statement (.writeQ x0 x1) := fun _ _ h => nomatch h

theorem writeQio (x0) (x1) : Statement (.writeQio x0 x1) := fun _ _ h => nomatch h

theorem qspiWriteFlush : Statement (.qspiWriteFlush) := fun _ _ h => nomatch h

theorem otpKey (x0) (x1) : Statement (.otpKey x0 x1) := fun _ _ h => nomatch h

theorem extest : Statement (.extest) := fun _ _ h => nomatch h

theorem bypass : Statement (.bypass) := fun _ _ h => nomatch h

theorem idcode : Statement (.idcode) := fun _ _ h => nomatch h

theorem nop (c : Cmd) : Statement (.nop c) := by
  intro op d h
  cases h
  exact ⟨by decide, rfl⟩

theorem sysInfo (c : Cmd) : Statement (.sysInfo c) := by
  intro op d h
  cases h
  exact ⟨by decide, rfl⟩

theorem abort (c : Cmd) : Statement (.abort c) := by
  intro op d h
  cases h
  exact ⟨by decide, rfl⟩

theorem sysState (c : Cmd) : Statement (.sysState c) := by
  intro op d h
  cases h
  exact ⟨by decide, rfl⟩

theorem sysReset (c : Cmd) : Statement (.sysReset c) := by
  intro op d h
  cases h
  exact ⟨by decide, rfl⟩

theorem groupDef (c : Cmd) : Statement (.groupDef c) := by
  intro op d h
  cases h
  exact ⟨by decide, rfl⟩

theorem groupRead (c : Cmd) : Statement (.groupRead c) := by
  intro op d h
  cases h
  exact ⟨by decide, rfl⟩

theorem regRead (c : Cmd) : Statement (.regRead c) := by
  intro op d h
  cases h
  exact ⟨by decide, rfl⟩

theorem regWrite (c : Cmd) : Statement (.regWrite c) := by
  intro op d h
  cases h
  exact ⟨by decide, rfl⟩

theorem regRmw (c : Cmd) : Statement (.regRmw c) := by
  intro op d h
  cases h
  exact ⟨by decide, rfl⟩

theorem patchIn (c : Cmd) : Statement (.patchIn c) := by
  intro op d h
  cases h
  exact ⟨by decide, rfl⟩

theorem sinkSet (c : Cmd) : Statement (.sinkSet c) := by
  intro op d h
  cases h
  exact ⟨by decide, rfl⟩

theorem xptNode (c : Cmd) : Statement (.xptNode c) := by
  intro op d h
  cases h
  exact ⟨by decide, rfl⟩

theorem xptCol (c : Cmd) : Statement (.xptCol c) := by
  intro op d h
  cases h
  exact ⟨by decide, rfl⟩

theorem xptSwap (c : Cmd) : Statement (.xptSwap c) := by
  intro op d h
  cases h
  exact ⟨by decide, rfl⟩

theorem xptCopy (c : Cmd) : Statement (.xptCopy c) := by
  intro op d h
  cases h
  exact ⟨by decide, rfl⟩

theorem xptRead (c : Cmd) : Statement (.xptRead c) := by
  intro op d h
  cases h
  exact ⟨by decide, rfl⟩

theorem meterRead (c : Cmd) : Statement (.meterRead c) := by
  intro op d h
  cases h
  exact ⟨by decide, rfl⟩

theorem capture (c : Cmd) : Statement (.capture c) := by
  intro op d h
  cases h
  exact ⟨by decide, rfl⟩

theorem paramWrite (c : Cmd) : Statement (.paramWrite c) := by
  intro op d h
  cases h
  exact ⟨by decide, rfl⟩

theorem paramSwap (c : Cmd) : Statement (.paramSwap c) := by
  intro op d h
  cases h
  exact ⟨by decide, rfl⟩

theorem paramRead (c : Cmd) : Statement (.paramRead c) := by
  intro op d h
  cases h
  exact ⟨by decide, rfl⟩

theorem imgWrite (c : Cmd) : Statement (.imgWrite c) := by
  intro op d h
  cases h
  exact ⟨by decide, rfl⟩

theorem imgActivate (c : Cmd) : Statement (.imgActivate c) := by
  intro op d h
  cases h
  exact ⟨by decide, rfl⟩

theorem imgPin (c : Cmd) : Statement (.imgPin c) := by
  intro op d h
  cases h
  exact ⟨by decide, rfl⟩

theorem imgStatus (c : Cmd) : Statement (.imgStatus c) := by
  intro op d h
  cases h
  exact ⟨by decide, rfl⟩

theorem fwWrite (c : Cmd) : Statement (.fwWrite c) := by
  intro op d h
  cases h
  exact ⟨by decide, rfl⟩

theorem spConfig (c : Cmd) : Statement (.spConfig c) := by
  intro op d h
  cases h
  exact ⟨by decide, rfl⟩

theorem spCtrl (c : Cmd) : Statement (.spCtrl c) := by
  intro op d h
  cases h
  exact ⟨by decide, rfl⟩

theorem spMask (c : Cmd) : Statement (.spMask c) := by
  intro op d h
  cases h
  exact ⟨by decide, rfl⟩

theorem decConfig (c : Cmd) : Statement (.decConfig c) := by
  intro op d h
  cases h
  exact ⟨by decide, rfl⟩

theorem decTaps (c : Cmd) : Statement (.decTaps c) := by
  intro op d h
  cases h
  exact ⟨by decide, rfl⟩

theorem decCtrl (c : Cmd) : Statement (.decCtrl c) := by
  intro op d h
  cases h
  exact ⟨by decide, rfl⟩

theorem decClock (c : Cmd) : Statement (.decClock c) := by
  intro op d h
  cases h
  exact ⟨by decide, rfl⟩

theorem anaIn (c : Cmd) : Statement (.anaIn c) := by
  intro op d h
  cases h
  exact ⟨by decide, rfl⟩

theorem anaOut (c : Cmd) : Statement (.anaOut c) := by
  intro op d h
  cases h
  exact ⟨by decide, rfl⟩

theorem asrcRead (c : Cmd) : Statement (.asrcRead c) := by
  intro op d h
  cases h
  exact ⟨by decide, rfl⟩

theorem netConfig (c : Cmd) : Statement (.netConfig c) := by
  intro op d h
  cases h
  exact ⟨by decide, rfl⟩

theorem strmTxSetup (c : Cmd) : Statement (.strmTxSetup c) := by
  intro op d h
  cases h
  exact ⟨by decide, rfl⟩

theorem strmRxSetup (c : Cmd) : Statement (.strmRxSetup c) := by
  intro op d h
  cases h
  exact ⟨by decide, rfl⟩

theorem strmCtrl (c : Cmd) : Statement (.strmCtrl c) := by
  intro op d h
  cases h
  exact ⟨by decide, rfl⟩

theorem strmTag (c : Cmd) : Statement (.strmTag c) := by
  intro op d h
  cases h
  exact ⟨by decide, rfl⟩

theorem sapRead (c : Cmd) : Statement (.sapRead c) := by
  intro op d h
  cases h
  exact ⟨by decide, rfl⟩

theorem ptpConfig (c : Cmd) : Statement (.ptpConfig c) := by
  intro op d h
  cases h
  exact ⟨by decide, rfl⟩

theorem ptpRestep (c : Cmd) : Statement (.ptpRestep c) := by
  intro op d h
  cases h
  exact ⟨by decide, rfl⟩

theorem refSelect (c : Cmd) : Statement (.refSelect c) := by
  intro op d h
  cases h
  exact ⟨by decide, rfl⟩

theorem refConfig (c : Cmd) : Statement (.refConfig c) := by
  intro op d h
  cases h
  exact ⟨by decide, rfl⟩

theorem timeRead (c : Cmd) : Statement (.timeRead c) := by
  intro op d h
  cases h
  exact ⟨by decide, rfl⟩

theorem msgWrite (c : Cmd) : Statement (.msgWrite c) := by
  intro op d h
  cases h
  exact ⟨by decide, rfl⟩

theorem chainWrite (c : Cmd) : Statement (.chainWrite c) := by
  intro op d h
  cases h
  exact ⟨by decide, rfl⟩

theorem playStart (c : Cmd) : Statement (.playStart c) := by
  intro op d h
  cases h
  exact ⟨by decide, rfl⟩

theorem playStop (c : Cmd) : Statement (.playStop c) := by
  intro op d h
  cases h
  exact ⟨by decide, rfl⟩

theorem genConfig (c : Cmd) : Statement (.genConfig c) := by
  intro op d h
  cases h
  exact ⟨by decide, rfl⟩

theorem genCtrl (c : Cmd) : Statement (.genCtrl c) := by
  intro op d h
  cases h
  exact ⟨by decide, rfl⟩

theorem visConfig (c : Cmd) : Statement (.visConfig c) := by
  intro op d h
  cases h
  exact ⟨by decide, rfl⟩

theorem cinConfig (c : Cmd) : Statement (.cinConfig c) := by
  intro op d h
  cases h
  exact ⟨by decide, rfl⟩

theorem cinThr (c : Cmd) : Statement (.cinThr c) := by
  intro op d h
  cases h
  exact ⟨by decide, rfl⟩

theorem drvConfig (c : Cmd) : Statement (.drvConfig c) := by
  intro op d h
  cases h
  exact ⟨by decide, rfl⟩

theorem lsConfig (c : Cmd) : Statement (.lsConfig c) := by
  intro op d h
  cases h
  exact ⟨by decide, rfl⟩

theorem lsLearn (c : Cmd) : Statement (.lsLearn c) := by
  intro op d h
  cases h
  exact ⟨by decide, rfl⟩

theorem supRead (c : Cmd) : Statement (.supRead c) := by
  intro op d h
  cases h
  exact ⟨by decide, rfl⟩

theorem gpioConfig (c : Cmd) : Statement (.gpioConfig c) := by
  intro op d h
  cases h
  exact ⟨by decide, rfl⟩

theorem pairAttach (c : Cmd) : Statement (.pairAttach c) := by
  intro op d h
  cases h
  exact ⟨by decide, rfl⟩

theorem pairDetach (c : Cmd) : Statement (.pairDetach c) := by
  intro op d h
  cases h
  exact ⟨by decide, rfl⟩

theorem pairYield (c : Cmd) : Statement (.pairYield c) := by
  intro op d h
  cases h
  exact ⟨by decide, rfl⟩

theorem pairReclaim (c : Cmd) : Statement (.pairReclaim c) := by
  intro op d h
  cases h
  exact ⟨by decide, rfl⟩

theorem pairConfig (c : Cmd) : Statement (.pairConfig c) := by
  intro op d h
  cases h
  exact ⟨by decide, rfl⟩

theorem twpcPulse (c : Cmd) : Statement (.twpcPulse c) := by
  intro op d h
  cases h
  exact ⟨by decide, rfl⟩

theorem pairRead (c : Cmd) : Statement (.pairRead c) := by
  intro op d h
  cases h
  exact ⟨by decide, rfl⟩

theorem selftest (c : Cmd) : Statement (.selftest c) := by
  intro op d h
  cases h
  exact ⟨by decide, rfl⟩

theorem memRead (c : Cmd) : Statement (.memRead c) := by
  intro op d h
  cases h
  exact ⟨by decide, rfl⟩

theorem memDusk (c : Cmd) : Statement (.memDusk c) := by
  intro op d h
  cases h
  exact ⟨by decide, rfl⟩

theorem wispConfig (c : Cmd) : Statement (.wispConfig c) := by
  intro op d h
  cases h
  exact ⟨by decide, rfl⟩

theorem secStatus (c : Cmd) : Statement (.secStatus c) := by
  intro op d h
  cases h
  exact ⟨by decide, rfl⟩

theorem keyRevoke (c : Cmd) : Statement (.keyRevoke c) := by
  intro op d h
  cases h
  exact ⟨by decide, rfl⟩

theorem mgmtKey (c : Cmd) : Statement (.mgmtKey c) := by
  intro op d h
  cases h
  exact ⟨by decide, rfl⟩

theorem jtagLock (c : Cmd) : Statement (.jtagLock c) := by
  intro op d h
  cases h
  exact ⟨by decide, rfl⟩

theorem wpSet (c : Cmd) : Statement (.wpSet c) := by
  intro op d h
  cases h
  exact ⟨by decide, rfl⟩

theorem logRead (c : Cmd) : Statement (.logRead c) := by
  intro op d h
  cases h
  exact ⟨by decide, rfl⟩

theorem logMark (c : Cmd) : Statement (.logMark c) := by
  intro op d h
  cases h
  exact ⟨by decide, rfl⟩

theorem ovrAssert (c : Cmd) : Statement (.ovrAssert c) := by
  intro op d h
  cases h
  exact ⟨by decide, rfl⟩

theorem ovrRelease (c : Cmd) : Statement (.ovrRelease c) := by
  intro op d h
  cases h
  exact ⟨by decide, rfl⟩

theorem ovrStage (c : Cmd) : Statement (.ovrStage c) := by
  intro op d h
  cases h
  exact ⟨by decide, rfl⟩

theorem ovrStageMask (c : Cmd) : Statement (.ovrStageMask c) := by
  intro op d h
  cases h
  exact ⟨by decide, rfl⟩

theorem ovrArm (c : Cmd) : Statement (.ovrArm c) := by
  intro op d h
  cases h
  exact ⟨by decide, rfl⟩

theorem ovrCommit (c : Cmd) : Statement (.ovrCommit c) := by
  intro op d h
  cases h
  exact ⟨by decide, rfl⟩

theorem ovrColclass (c : Cmd) : Statement (.ovrColclass c) := by
  intro op d h
  cases h
  exact ⟨by decide, rfl⟩

theorem ovrRead (c : Cmd) : Statement (.ovrRead c) := by
  intro op d h
  cases h
  exact ⟨by decide, rfl⟩

theorem aoutZcTimeout (x0) : Statement (.aoutZcTimeout x0) := fun _ _ h => nomatch h

theorem streamUnitUnheard (x0) (x1) : Statement (.streamUnitUnheard x0 x1) := fun _ _ h => nomatch h

theorem arpRequestReceived (x0) (x1) : Statement (.arpRequestReceived x0 x1) := fun _ _ h => nomatch h

theorem refselChange (x0) : Statement (.refselChange x0) := fun _ _ h => nomatch h

theorem afterglowBackInRange (x0) : Statement (.afterglowBackInRange x0) := fun _ _ h => nomatch h

theorem vsysSample (x0) (x1) (x2) : Statement (.vsysSample x0 x1 x2) := fun _ _ h => nomatch h

theorem ppsOutPulse (x0) : Statement (.ppsOutPulse x0) := fun _ _ h => nomatch h

theorem debugHalt : Statement (.debugHalt) := fun _ _ h => nomatch h

end Sys2Proof.Laws.Packet
end

