-- ==== Sys2Proof/Tests/Slice0.lean ====
section
/-! SUPPORT. Tests of the model on small states: which operands are refused, states that meet the hypotheses of the statements, and values
worked out by hand from the rules. -/

namespace Sys2Proof.Tests

open Sys2Proof Sys2Proof.Machine

set_option maxRecDepth 100000
set_option Elab.async false

/-! ### Small states -/

/-- Reset, with some register fields set. -/
def W (l : List (Fld × Nat)) : State := l.foldl (fun s p => s.wr p.1 p.2) State.reset

/-- READY. -/
def ready : State := W [(SYS_STATE.state, 3)]

/-- RUN. -/
def run : State := W [(SYS_STATE.state, 4)]

/-- In step n of the boot. -/
def bootAt (n : Nat) : State := { State.reset with boot := { State.reset.boot with step := n } }

/-- A command that completes with this true of the next state. -/
def after (i : Instr) (s : State) (p : State → Bool) : Bool :=
  match exec i s with
  | .next t => p t
  | _ => false

/-- A command that stops. -/
def stops (i : Instr) (s : State) : Bool :=
  match exec i s with
  | .fault .illFormed => true
  | _ => false

/-- The first slot of a bundle on core 0. -/
def sl0 : Slot := ⟨0, true⟩

/-- Core 0 runs record 0, with these lanes (4 × register + lane) and accumulators. -/
def coreWith (v : SMap Word) (acc : SMap (BitVec 72)) : State :=
  State.reset.setCore 0 { coreDefault 0 with run := some 0, r := { (coreDefault 0).r with v := v, acc := acc } }

/-- n bytes of a number, lowest first. -/
def bytesOf : Nat → Nat → List Byte
  | 0, _ => []
  | n + 1, x => BitVec.ofNat 8 x :: bytesOf n (x / 256)

/-- Bytes at consecutive offsets. -/
def mapOf (l : List Byte) : SMap Byte := l.zipIdx.map (fun p => (p.2, p.1))

/-- An image with these regions and nothing else. -/
def imageOf (rs : List Region) : Image :=
  { length := 0, fi96 := false, b := 16, imageId := 1, version := 1, minStep := 0, keySlot := 0, patchApply := false, xptPresent := false
    squallNetB := false, squallAout := 0, fabs := [], recs := [], spans := [], code := [], regions := rs, init := [], blocks := []
    bounds := [], patch := [], xpt := [], digest := 0 }

/-! ### Ill-formed operands are refused -/

/-- One operand outside what the spec gives for each check of well-formedness, and what exec answers. -/
theorem test_illFormed_slots : ∀ i ∈ [Instr.vhmaxi sl0 0 1, .vhmini sl0 0 31, .vsmax sl0 1 0, .vsmin sl0 31 0, .vsmaxa sl0 3 0,
    .loopOp sl0 0 false 0, .brf sl0 7 1, .brf sl0 0 0], i.wf = false ∧ stops i State.reset = true := by decide +kernel

/-- A burst of n beats. -/
def burstOf (n : Nat) : Burst := ⟨.cp, false, 0, List.replicate n ⟨0, 0, false⟩, false, false, 0⟩

theorem test_illFormed_bus : ∀ i ∈ [Instr.busBurst (burstOf 0), .busBurst (burstOf 17), .busTimeout .cp 7 false 0 1,
    .busTimeout .cp 8 false 0 0, .coefShadowWrite .cp 0x30000000 [0, 0], .coefShadowWrite .cp 0x30000002 [0],
    .coefShadowWrite .cp 0x30000004 [0, 0, 0, 0], .coefShadowWrite .cp 0x2FFFFFFC [0], .coefShadowWrite .cp 0x30800000 [0],
    .broadcastAliasWrite .cp 0x40017FFC 0, .broadcastAliasWrite .cp 0x4001C000 0, .groupAliasWrite .cp 0x4001BFFC 0],
    i.wf = false ∧ stops i State.reset = true := by decide +kernel

theorem test_wellFormed_bus : ∀ i ∈ [Instr.busBurst (burstOf 1), .busBurst (burstOf 16), .busTimeout .cp 8 false 0 1,
    .coefShadowWrite .cp 0x30000000 [0], .coefShadowWrite .cp 0x307FFFFC [0], .coefShadowWrite .cp 0x307FFFF0 [0, 0, 0, 0],
    .broadcastAliasWrite .cp 0x40018000 0, .groupAliasWrite .cp 0x4001C000 0], i.wf = true := by decide +kernel

theorem test_illFormed_events : ∀ i ∈ [Instr.clockSupervisorTrip 0, .clockSupervisorTrip 7, .refPresenceChange 0 true, .refOutlierClear 0,
    .refMeasurement 0 ⟨0, 0, 0, 0, 0⟩, .sig []], i.wf = false ∧ stops i State.reset = true := by decide +kernel

/-- An estimator update with n transmission indices. -/
def estOf (n : Nat) : VisEst := ⟨false, 500, List.replicate n 500, 0, 0, 0, false⟩

theorem test_illFormed_estimate : (Instr.visUpdate 0 (estOf 6)).wf = false ∧ (Instr.visUpdate 0 (estOf 7)).wf = true ∧
    (Instr.visUpdate 0 (estOf 8)).wf = false := by decide +kernel

/-- A command of opcode op on ring 4. -/
def cmdOf (op : Nat) : Cmd := ⟨4, op, 4, 0, 1, 0, 0, 0, 0, 0, 0, 0, [], 0, .ring⟩

/-- A packet keeps its own opcode, its origin, its length, and a reply buffer only with xreply. -/
theorem test_illFormed_packet : (Instr.nop (cmdOf 0)).wf = true ∧ (Instr.nop (cmdOf 1)).wf = false ∧
    (Instr.nop { cmdOf 0 with origin := .lead .ring }).wf = false ∧ (Instr.nop { cmdOf 0 with len := 5 }).wf = false ∧
    (Instr.nop { cmdOf 0 with params := [0], len := 5 }).wf = true ∧ (Instr.nop { cmdOf 0 with xaddr := 4 }).wf = false ∧
    (Instr.nop { cmdOf 0 with xlen := 4 }).wf = false ∧ (Instr.nop { cmdOf 0 with flags := 16, len := 6, xaddr := 4, xlen := 4 }).wf = true := by
  decide +kernel

/-! ### The queue and the stores -/

/-- A command at the front of a queue, and an empty queue. -/
theorem witness_StepRunsFront : { run with pending := [.vsysFall, .scrubPass] }.pending = Instr.vsysFall :: [.scrubPass] ∧
    step { run with pending := [.vsysFall, .scrubPass] } = exec .vsysFall { run with pending := [.scrubPass] } ∧
    State.reset.pending = [] := ⟨rfl, rfl, rfl⟩

/-- A well-formed command, and an ill-formed one that is neither a packet nor an estimator update. -/
theorem witness_WellFormedCompletes : (Instr.scrubPass).wf = true ∧ (Instr.clockSupervisorTrip 7).wf = false ∧
    (Instr.clockSupervisorTrip 7).packet = none := by decide +kernel

/-- A canonical state that lists a register and a byte, and its step. -/
theorem witness_StepKeepsStored : SMap.wf resetWord (run.setByte 5 1).regs = true ∧ Memory.wf (run.setByte 5 1).mem = true ∧
    SMap.wf zeroWord run.coef = true ∧
    (match step { run.setByte 5 1 with pending := [.scrubPass] } with | .next t => Memory.wf t.mem && t.regs.length == 2 | _ => false) = true := by
  decide +kernel

/-- A packet with every header field at a value of its own. -/
def fullCmd : Cmd := ⟨15, 0x0100, 8, 16, 0xFFFF, 0, 3, 63, 0xFFFFFF, 0xFFFFFFFF, 0x80000000, 64, [7, 0xFFFFFFFF], 9, .ring⟩

theorem witness_PacketRoundTrip : (Instr.regRead fullCmd).packet = some (0x0100, fullCmd) ∧ (Instr.regRead fullCmd).wf = true ∧
    Cmd.ofWords 15 9 fullCmd.words = fullCmd := by decide +kernel

/-- Two bytes are stored in order; a fenced word keeps reading as before. -/
theorem witness_MemoryStores : (State.reset.setBytes 0x10000000 [1, 2]).byte 0x10000001 = 2 ∧ State.reset.flt.dead = [] ∧
    ({ State.reset with flt := { State.reset.flt with dead := [0x10000000] } }.setBytes 0x10000000 [1, 2]).byte 0x10000001 = 0 ∧
    Memory.wf [(1, 1)] = true ∧ Memory.wf [(1, 0)] = false ∧ Memory.wf [(2, 1), (1, 1)] = false := by decide +kernel
/-! ### Supply, boot and firmware -/

/-- A firmware container of one bundle of code, signed with the key of slot 0. -/
def fwBytes : SMap Byte := mapOf (bytesOf 320 0x6ea7884f11237f28a632a52df2ad749da72cff264cc802adfe0474f6a578776010a490523955cbc2c2d3452458fcdf97c4733469f187905f5cb67347f4244eb800000000000000000000000004030201000000000000000000000000000000100000000000000000000000000000000000000000000000000000000000000000000000000000000000000000000000000000000000000000000000000000000000000000000000000000000000000000000000000000000000000000000000000000000000000000000000000000000000000000000000000000000000000000442da9a716067956d91eaa02b93ad409490e87cd5e758ea6a331a1deb75ba846088bb9ff22ab291a74c86fc677ba897baadee370cc6129b82d170ba3fc26415c000000000000000000000000000000000000000100000140000000015746584c)

/-- In step 6 with that container in firmware slot k and its key's digest in OTP. -/
def fwState (k : Nat) : State :=
  { bootAt 6 with
    sec := { State.reset.sec with otp := [(0, 0xe6224afd0f5acff7bd2e7b15cd9d2c037a9f34863680f685afc1845386b50532)] }
    img := { State.reset.img with fw := [(k, ⟨.valid, fwBytes⟩)] } }

/-- Slot 0 is empty and fails; the container in slot 1 verifies. -/
theorem witness_BootRows_firmware : (fwState 1).fwOrder.find? (fun k => (fwState 1).fwFail ((fwState 1).fwAt k) = none) = some 1 := by
  decide +kernel

/-- The supply is off. -/
def supplyOff : State := { W [(SYS_STATE.state, 0)] with boot := { State.reset.boot with vsysOk := false, porstHigh := false } }

/-- The supply is there and PORST_N is low. -/
def porstLow : State := { W [(SYS_STATE.state, 0)] with boot := { State.reset.boot with porstHigh := false } }

def cutOff : State := { W [(SYS_STATE.state, 0)] with boot := { State.reset.boot with cutoff := true } }

/-- Straps: recovery, a pair member, unit B, reference 5. -/
def strapsB : Straps := ⟨1, true, true, 5⟩

theorem witness_SupplyRows : supplyOff.boot.vsysOk = false ∧ State.reset.boot.vsysOk = true ∧
    porstLow.boot.porstHigh = false ∧ porstLow.boot.vsysOk = true ∧ porstLow.boot.cutoff = false ∧ porstLow.op = .off ∧
    State.reset.op ≠ .off ∧ cutOff.boot.cutoff = true ∧
    after (.porstNRelease strapsB) porstLow (fun t => t.op = .boot && t.boot.step = 2 && t.rd REF_STATUS.pins = 5) = true ∧
    after (.regulatorRestart strapsB) cutOff (fun t => t.rd SYS_RST_CAUSE.cause = 7) = true := by decide +kernel

/-- The steps of the boot up to DRAM training, each from the state that its event belongs to. -/
theorem witness_ClockStartUp : (∀ n, n < 9 → (bootAt n).op = .boot) ∧ (∀ n, n < 9 → (bootAt n).boot.step = n) ∧ (bootAt 1).pair.railOff = false ∧
    after .railsInRegulation (bootAt 1) (fun t => t.boot.step = 2) = true ∧
    after .ircQualified { bootAt 2 with boot := { (bootAt 2).boot with pins := strapsB } }
      (fun t => t.boot.step = 3 && t.rd SYS_STATE.twin = 1 && t.rd SYS_STATE.unit = 1 && t.rd SYS_STATE.bootsel = 1) = true ∧
    after .ircQualified { bootAt 2 with boot := { (bootAt 2).boot with pins := strapsB, sampled := true } }
      (fun t => t.boot.step = 3 && t.rd SYS_STATE.twin = 0) = true ∧
    after .crystalQualified (bootAt 3) (fun t => t.boot.step = 4) = true ∧ after .rootPllLock (bootAt 4) (fun t => t.boot.step = 5) = true ∧
    ((bootAt 5).wr CLK_STATUS.pll_lock 1).pllRuns = true ∧ after (.dramTrained true) (bootAt 5) (fun t => t.boot.step = 6) = true ∧
    after (.dramTrained false) (bootAt 5) (fun t => t.op = .faultHold) = true := by decide +kernel

theorem witness_ClockFailures : after .crystalQualTimeout (bootAt 2) (fun t => t.op = .clockWait) = true ∧
    after .pllLockTimeout (bootAt 4) (fun t => t.op = .clockWait) = true ∧
    (W [(SYS_STATE.state, 4), (CLK_STATUS.pll_lock, 1), (CLK_STATUS.irc_run, 0)]).pllRuns = true ∧
    (W [(SYS_STATE.state, 4), (CLK_STATUS.pll_lock, 1), (CLK_STATUS.irc_run, 0)]).isSet CLK_STATUS.irc_run = false ∧
    (∀ x : BitVec 4, x = 1 ∨ x = 6 → 1 ≤ x.toNat ∧ x.toNat ≤ 6 ∧ after (.clockSupervisorTrip x) run (fun t => t.op = .clockWait && t.rd CLK_STATUS.cause = x.toNat) = true) ∧
    run.op ≠ .off ∧ run.op ≠ .clockWait ∧ run.op ≠ .faultHold ∧ (W [(SYS_STATE.state, 2)]).op = .clockWait ∧
    after (.clockWaitRetry true) (W [(SYS_STATE.state, 2)]) (fun t => t.op = .boot && t.boot.step = 3) = true ∧
    after (.clockWaitRetry false) (W [(SYS_STATE.state, 2)]) (fun t => t.boot.retries = 1) = true := by decide +kernel

/-- Step 6 with BOOTSEL 1; step 6 with both firmware slots empty; step 7 with both image slots empty. -/
theorem witness_BootRows : (bootAt 6).rd SEC_RECOV.state = 0 ∧ ((bootAt 6).wr SYS_STATE.bootsel 1).rd SYS_STATE.bootsel = 1 ∧
    (bootAt 6).rd SYS_STATE.bootsel = 0 ∧ (bootAt 6).flt.dead = [] ∧
    (bootAt 6).fwOrder.all (fun k => (bootAt 6).fwFail ((bootAt 6).fwAt k) ≠ none) = true ∧
    after .firmwareLoad (bootAt 6) (fun t => t.rd SEC_RECOV.state = 1 && t.isSet SEC_STATUS.fw_fallback) = true := by decide +kernel

/-- An alarm message in entry 5 of the directory. -/
def alarmMsg : State := { ready with msg := { ready.msg with dir := [(5, { msgDefault 5 with valid := true, alarm := true })] } }

def listening : State := W [(SYS_STATE.state, 1), (SEC_RECOV.state, 1)]

def pairRun : State := W [(SYS_STATE.state, 4), (SYS_STATE.twin, 1)]

def railsOff : State := { pairRun with pair := { pairRun.pair with railOff := true } }

theorem witness_BootRows_others : alarmMsg.engineRuns = true ∧ (alarmMsg.msgEntry 5).valid = true ∧ (alarmMsg.msgEntry 5).alarm = true ∧
    5 ∉ alarmMsg.boot.heads ∧ (0b111 : Word).getLsbD 2 = true ∧ listening.rd SEC_RECOV.state = 1 ∧
    ((listening.setReg SEC_RECOV_LEN 0x2000000).reg SEC_RECOV_LEN).toNat ≤ 0x2000000 ∧
    0x2000000 < ((listening.setReg SEC_RECOV_LEN 0x2000001).reg SEC_RECOV_LEN).toNat ∧
    after (.secRecovGo 7) (listening.setReg SEC_RECOV_LEN 0x2000000) (fun t => t.rd SEC_RECOV.state = 2) = true ∧
    pairRun.twin = true ∧ pairRun.op ≠ .off ∧ pairRun.pair.hold = false ∧
    after (.twpcInPulse 19) pairRun (fun t => t.op = .run) = true ∧ after (.twpcInPulse 20) pairRun (fun t => t.op = .boot && t.pair.railOff) = true ∧
    after .twpcRailOffEnd railsOff (fun t => t.op = .boot && t.rd SYS_RST_CAUSE.cause = 6) = true := by decide +kernel

/-- A container of kind 0 in the recovery window that is all zeros fails its form. -/
theorem witness_BootRows_recovery : (W [(SEC_RECOV.state, 2)]).rd SEC_RECOV.state = 2 ∧ (W [(SEC_RECOV.state, 2)]).recovResult ≠ stDone := by
  decide +kernel

/-! ### Gains and the watchdog -/

/-- A ramp of 8 samples from 0 to unity: the first, the last but one and the last gain; a tie rounds to even; saturation. -/
theorem witness_ScaleAndRamp : rampGain 0 0x10000000 8 1 = 0x02000000 ∧ rampGain 0 0x10000000 8 7 = 0x0E000000 ∧
    rampGain 0 0x10000000 8 8 = 0x10000000 ∧ rampGain 5 5 1 1 = 5 ∧ scale 0x7FFFFFFF 0x20000000 = 0x7FFFFFFF ∧
    scale 1 0x08000000 = 0 ∧ scale 3 0x08000000 = 2 ∧ scale 0x80000000 0xF0000000 = 0x7FFFFFFF := by decide +kernel

theorem witness_WatchdogKick : run.rd LOG_STAGED.count < stagingSize ∧ run.log.lostNew = 0 ∧ (.mdma ≠ Master.cp ∨ (0x6B1C : BitVec 16) ≠ 0x6B1C) ∧
    stagingSize ≤ (run.wr LOG_STAGED.count stagingSize).rd LOG_STAGED.count ∧
    after (.sysWdogKick .cp 0x6B1D) run (fun t => t.isSet SYS_STATUS.kick_bad && t.rd LOG_STAGED.count = 1) = true ∧
    after (.sysWdogKick .mdma 0x6B1C) (run.wr LOG_STAGED.count stagingSize) (fun t => t.log.lostNew = 1) = true := by decide +kernel

/-! ### DSP cores -/

/-- V0 holds the greatest word, 1, −3 and the least word; V1 holds 1, 2, 3 and −1. -/
def lanes : State := coreWith [(0, 0x7FFFFFFF), (1, 1), (2, 0xFFFFFFFD), (3, 0x80000000), (4, 1), (5, 2), (6, 3), (7, 0xFFFFFFFF)] []

/-- A core that runs a record meets the hypothesis of the slot statements. -/
theorem witness_SaturatingLaneOps : (lanes.core 0).run.isSome = true := by decide +kernel

theorem witness_PlainLaneOps : (lanes.core 0).run.isSome = true := witness_SaturatingLaneOps

theorem witness_AccumulatorOps : (lanes.core 0).run.isSome = true := witness_SaturatingLaneOps

/-- The four lanes of Vd on core 0 after an operation. -/
def lanesAfter (i : Instr) (s : State) (d : Nat) (l : List Word) : Bool :=
  after i s (fun t => (List.range 4).map (vNow t 0 d) == l)

theorem test_saturating : lanesAfter (.vadd sl0 2 0 1) lanes 2 [0x7FFFFFFF, 3, 0, 0x80000000] = true ∧
    after (.vadd sl0 2 0 1) lanes (fun t => t.rd (CLU_CORE_SAT.count 0 0) = 2) = true ∧
    lanesAfter (.vsub sl0 2 0 1) lanes 2 [0x7FFFFFFE, 0xFFFFFFFF, 0xFFFFFFFA, 0x80000001] = true ∧
    lanesAfter (.vneg sl0 2 0) lanes 2 [0x80000001, 0xFFFFFFFF, 3, 0x7FFFFFFF] = true ∧
    lanesAfter (.vabs sl0 2 0) lanes 2 [0x7FFFFFFF, 1, 3, 0x7FFFFFFF] = true ∧
    lanesAfter (.vshl sl0 2 0 1) lanes 2 [0x7FFFFFFF, 2, 0xFFFFFFFA, 0x80000000] = true ∧
    lanesAfter (.vhsum sl0 2 0) lanes 2 [0xFFFFFFFD, 0, 0, 0] = true ∧
    lanesAfter (.vmul sl0 2 0 1 3) lanes 2 [0, 0, 0, 0] = true ∧
    lanesAfter (.vmul sl0 2 0 0 0) lanes 2 [0x7FFFFFFF, 0, 0, 0x7FFFFFFF] = true := by decide +kernel

theorem test_lanes : lanesAfter (.vaddm sl0 2 0 1) lanes 2 [0x80000000, 3, 0, 0x7FFFFFFF] = true ∧
    lanesAfter (.vsubm sl0 2 1 0) lanes 2 [0x80000002, 1, 6, 0x7FFFFFFF] = true ∧
    lanesAfter (.vmin sl0 2 0 1) lanes 2 [1, 1, 0xFFFFFFFD, 0x80000000] = true ∧
    lanesAfter (.vmax sl0 2 0 1) lanes 2 [0x7FFFFFFF, 2, 3, 0xFFFFFFFF] = true ∧
    lanesAfter (.vcgt sl0 2 0 1) lanes 2 [0xFFFFFFFF, 0, 0, 0] = true ∧
    lanesAfter (.vceq sl0 2 0 0) lanes 2 [0xFFFFFFFF, 0xFFFFFFFF, 0xFFFFFFFF, 0xFFFFFFFF] = true ∧
    lanesAfter (.vpick sl0 0 1 2) lanes 0 [0, 0, 3, 0xFFFFFFFF] = true ∧
    lanesAfter (.vsra sl0 2 0 1) lanes 2 [0x3FFFFFFF, 0, 0xFFFFFFFE, 0xC0000000] = true ∧
    lanesAfter (.vsrar sl0 2 0 1) lanes 2 [0x40000000, 0, 0xFFFFFFFE, 0xC0000000] = true ∧
    lanesAfter (.vsrl sl0 2 0 31) lanes 2 [0, 0, 1, 1] = true ∧ lanesAfter (.vspl sl0 2 0 3) lanes 2 (List.replicate 4 0x80000000) = true := by
  decide +kernel

/-- The best lane and its number; on a tie the lowest lane; a running search replaces a lane and its index where it is better. -/
theorem witness_SearchOps : lanesAfter (.vhmax sl0 2 0) lanes 2 [0x7FFFFFFF, 0, 0, 0] = true ∧
    lanesAfter (.vhmin sl0 2 0) lanes 2 [0x80000000, 3, 0, 0] = true ∧ lanesAfter (.vhmax sl0 2 3) lanes 2 [0, 0, 0, 0] = true ∧
    lanesAfter (.vhmaxi sl0 2 0) lanes 2 [0x7FFFFFFF, 1, 0, 0] = true ∧ lanesAfter (.vhmini sl0 2 0) lanes 2 [0x80000000, 0xFFFFFFFF, 3, 0] = true ∧
    lanesAfter (.vsmax sl0 2 0) lanes 2 [0x7FFFFFFF, 1, 0, 0] = true ∧ lanesAfter (.vsmin sl0 2 0) lanes 2 [0, 0, 0xFFFFFFFD, 0x80000000] = true ∧
    lanesAfter (.vsmaxa sl0 2 0) lanes 2 [0x7FFFFFFF, 1, 3, 0x7FFFFFFF] = true ∧ (30 : Fin 32).val % 2 = 0 ∧
    (∀ l, l < 4 → (lanes.issue sl0 |>.v sl0 0 l).toInt ≤ (lanes.issue sl0 |>.v sl0 0 0).toInt) ∧
    (∀ l, l < 4 → (lanes.issue sl0 |>.v sl0 0 3).toInt ≤ (lanes.issue sl0 |>.v sl0 0 l).toInt) := by decide +kernel

/-- ACC0 lane 0 at the greatest value. -/
def accTop : State := coreWith [(0, 1), (4, 1)] [(0, 0x7FFFFFFFFFFFFFFFFF)]

theorem test_accumulators :
    after (.mac sl0 0 0 1) accTop (fun t => accNow t 0 0 0 = 0x800000000000000000 && t.isSet (CLU_CORE_FLAG.acc_ovf 0 0)) = true ∧
    after (.msu sl0 0 0 1) accTop (fun t => accNow t 0 0 0 = 0x7FFFFFFFFFFFFFFFFE && !t.isSet (CLU_CORE_FLAG.acc_ovf 0 0)) = true ∧
    after (.aadd sl0 1 0) accTop (fun t => accNow t 0 1 0 = 0x7FFFFFFFFFFFFFFFFF) = true ∧
    after (.alo sl0 0 0) accTop (fun t => accNow t 0 0 0 = 0x7FFFFFFFFF00000001) = true ∧
    after (.aclr sl0 0) accTop (fun t => accNow t 0 0 0 = 0) = true ∧
    lanesAfter (.ext sl0 2 0 40 false) accTop 2 [0x7FFFFFFF, 0, 0, 0] = true ∧
    lanesAfter (.extl sl0 2 0 40) accTop 2 [0x7FFFFFFF, 0, 0, 0] = true := by decide +kernel

/-- Ties go to the even neighbour, on both sides of zero. -/
theorem witness_RoundConvergent : roundConv 3 1 = 2 ∧ roundConv 1 1 = 0 ∧ roundConv (-3) 1 = -2 ∧ roundConv 5 2 = 1 ∧
    2 * (roundConv 3 1 * 2 ^ 1 - 3) = 2 ^ 1 ∧ 2 * (roundConv 1 1 * 2 ^ 1 - 1) = -(2 ^ 1) := by decide +kernel

/-- P3 holds an address, M1 an offset, and window 0 is bound to no pointer. -/
def atPtr (p : Nat) : State :=
  State.reset.setCore 0 { coreDefault 0 with run := some 0, r := { (coreDefault 0).r with p := [(3, BitVec.ofNat 24 p)], m := [(1, 4)] } }

/-- [P3] and [P3] with post-modification by M1. -/
def accP3 : MemAcc := ⟨3, 0, 1, 0, false⟩
def accP3M1 : MemAcc := ⟨3, 1, 1, 0, false⟩

/-- The last address below the reserved range, and the first in it. -/
theorem witness_LoadOps : ((atPtr 0x1FBFFF).core 0).run.isSome = true ∧
    ((atPtr 0x1FBFFF).issue sl0).opAddr sl0 accP3 / 16 * 16 < 0x1FC000 ∧ 0x1FC000 ≤ ((atPtr 0x1FC000).issue sl0).opAddr sl0 accP3 / 16 * 16 ∧
    ((atPtr 0x1FBFFF).issue sl0).opAddr sl0 accP3 / 4 * 4 < 0x1FC000 ∧ 0x1FC000 ≤ ((atPtr 0x1FC000).issue sl0).opAddr sl0 accP3 / 4 * 4 ∧
    accP3M1.mode = 1 ∧ ({ accP3 with mode := 2 } : MemAcc).mode = 2 ∧
    after (.vldb sl0 5 accP3M1) ((atPtr 0x104).setMemWord (spAddr 0 0x104) 9) (fun t => vNow t 0 5 3 = 9 && pNow t 0 3 = 0x108) = true ∧
    lanesAfter (.vld sl0 5 accP3 2 0) ((atPtr 0x104).setMemWord (spAddr 0 0x104) 9) 5 [0, 0, 0, 0] = true ∧
    lanesAfter (.vld sl0 5 accP3 1 0) ((atPtr 0x104).setMemWord (spAddr 0 0x104) 9) 5 [0, 9, 0, 0] = true ∧
    after (.vld sl0 5 accP3 0 0) (atPtr 0x1FC000) (fun t => t.isSet (CLU_CORE_FLAG.prog_fault 0 0)) = true := by decide +kernel

theorem witness_StoreOps : (atPtr 0x100).flt.dead = [] ∧ ((atPtr 0x1FBFF0).issue sl0).opAddr sl0 accP3 / 16 * 16 < 0x1FC000 ∧
    after (.vst sl0 0 accP3) ((atPtr 0x1FBFF0).setCore 0 { (atPtr 0x1FBFF0).core 0 with r := { ((atPtr 0x1FBFF0).core 0).r with v := [(2, 7)] } })
      (fun t => t.memWord (spAddr 0 0x1FBFF8) = 7) = true ∧
    after (.atadd sl0 0 accP3) ((atPtr 0x100).setMemWord (spAddr 0 0x100) 5) (fun t => vNow t 0 0 0 = 5 && t.memWord (spAddr 0 0x100) = 5) = true ∧
    after (.vst sl0 0 accP3) (atPtr 0x1FC000) (fun t => t.mem = [] && t.isSet (CLU_CORE_FLAG.prog_fault 0 0)) = true := by decide +kernel

/-- The ends of a window of 64 bytes at 0x1000. -/
theorem witness_CircularWindow : advance 0x103F 1 (some (0x1000, 64)) = 0x1000 ∧ advance 0x1000 (-1) (some (0x1000, 64)) = 0x103F ∧
    advance 0x1000 64 (some (0x1000, 64)) = 0x1000 ∧ advance 0 (-1) none = 0xFFFFFF ∧ 0x1000 + 64 ≤ 2 ^ 24 := by decide +kernel

/-- In the last bundle of a body of loop counter 1, at its last pass and before it. -/
def looping (n : Nat) : State :=
  State.reset.setCore 0 { coreDefault 0 with run := some 0, pc := 9, loops := [⟨1, 5, 9, true⟩], r := { (coreDefault 0).r with lc := [(1, n)] } }

/-- Quad 0 of the input side runs on core 0. -/
def quadZero : Quad :=
  ⟨⟨0, false, false, false, 0, 0, 4, 0x10, 0x20, 1, 0⟩, false, .clean, none, 0, true, none, none, none, none, false, false⟩

def withQuad (q : Quad) (s : State) : State := { s with img := { s.img with quads := [(0, q)] } }

theorem witness_ControlOps : ((looping 1).core 0).loops = [⟨1, 5, 9, true⟩] ∧ ((looping 1).core 0).pc = 9 ∧
    after (.loopPassEnd 0 1) (looping 1) (fun t => (t.core 0).loops = [] && (t.core 0).r.idx = 1) = true ∧
    after (.loopPassEnd 0 1) (looping 2) (fun t => (t.core 0).next = 5 && SMap.get (fun _ => 0) (t.core 0).r.lc 1 = 1) = true ∧
    (2047 : Fin 2048).val ≠ 0 ∧ (6 : Fin 8).val ≠ 7 ∧
    after (.brf sl0 6 2047) lanes (fun t => (t.core 0).next = (lanes.issue sl0 |>.core 0).next) = true ∧
    after (.brf sl0 5 2047) lanes (fun t => (t.core 0).next = 2047) = true ∧
    (lanes.core 0).run = some 0 ∧ SMap.find (withQuad quadZero lanes).img.quads 0 = some quadZero ∧ (withQuad quadZero lanes).crossing quadZero = false ∧
    after (.endOp sl0) (withQuad quadZero lanes) (fun t => (t.core 0).run = none) = true ∧
    after (.setlc sl0 0 0) lanes (fun t => SMap.get (fun _ => 0) (t.core 0).r.lc 0 = 4096) = true ∧
    after (.setm sl0 2 (-1) true) lanes (fun t => mNow t 0 2 = 0xFFFFF0) = true := by decide +kernel

/-- V0 asks for 16 bytes from DRAM 0x100 to scratchpad 0x200. -/
def dlqState : State :=
  { coreWith [(0, 0x100), (1, 0x200), (2, 16), (3, 1)] [] with img := { State.reset.img with running := some (imageOf [⟨1, 0, 0, true, 0, 0x1000, 0⟩]) } }

def dlqFull : State := dlqState.setCore 0 { dlqState.core 0 with dlqUsed := 64 }

theorem witness_DispatchAndTransfers : SMap.find (withQuad quadZero ready).img.quads 0 = some quadZero ∧ ((withQuad quadZero ready).core 0).run = none ∧
    ready.engineRuns = true ∧ quadZero.oldRec = none ∧ quadZero.disp.core = 0 ∧ quadZero.prog = true ∧
    after (.dispatchRecord 0 false 0) (withQuad quadZero ready) (fun t => (t.core 0).pc = 4 && pNow t 0 1 = 0x200) = true ∧
    (dlqState.core 0).dlqUsed < 64 ∧ (dlqState.core 0).dlqBytes + 16 ≤ 1024 * dlqState.blk ∧ dlqState.poolOk 0x100 16 = true ∧ 0x200 + 16 ≤ 0x1FC000 ∧
    after (.dlq sl0 0) dlqState (fun t => t.dsp.dlq = [⟨0, 0x100, 0x200, 16, true⟩]) = true ∧
    64 ≤ (dlqFull.core 0).dlqUsed ∧ after (.dlq sl0 0) dlqFull (fun t => t.dsp.dlq = [] && t.isSet MEM_STATUS.dlq_drop) = true ∧
    (∀ b : Bool, after (.dlqTransferDone 0) { State.reset with dsp := { State.reset.dsp with dlq := [⟨0, 0x100, 0x200, 16, b⟩] } } (fun t => t.dsp.dlq = []) = true) ∧
    (State.reset.core 0).run = none := by decide +kernel

/-! ### Engine, memories, counters -/

/-- A flash controller that reads for the log, with a program waiting. -/
def flashBusy : State := { run with ms := { run.ms with flash := [⟨1, 3, .log⟩, ⟨2, 4, .config⟩], waking := [0, 4], wisp := [(0, ⟨0, false⟩), (5, ⟨9, true⟩)], writeback := [16, 32] } }

/-- One unit has signalled. -/
def unitDone : State := { run.wr MEM_WISP_CFG.enable 0 with eng := { run.eng with doneUnits := [31] } }

theorem witness_MarginsAndDeadline : unitDone.engineRuns = true ∧ 0 ∉ unitDone.eng.doneUnits ∧ (31 : Fin 33).val ∈ unitDone.eng.doneUnits ∧
    unitDone.tickStopped = false ∧ unitDone.rd MEM_WISP_CFG.enable = 0 ∧ (⟨0, [5]⟩ : LateUnit).unit.val ∉ unitDone.eng.doneUnits ∧
    (∀ u ∈ [(⟨31, [5]⟩ : LateUnit)], u.unit.val ∈ unitDone.eng.doneUnits) ∧
    after (.stripCompletion 0 5000) unitDone (fun t => t.rd ENG_MARGIN_MIN.unit = 0 && t.eng.doneUnits = [0, 31]) = true ∧
    after (.engineDeadline [⟨0, [5]⟩] []) unitDone (fun t => t.isSet ENG_STATUS.overrun && t.rd ENG_OVERRUN_CNT.count = 1) = true := by decide +kernel

theorem witness_MemoryRows : SMap.find flashBusy.ms.wisp 0 = some ⟨0, false⟩ ∧ SMap.find flashBusy.ms.wisp 5 = some ⟨9, true⟩ ∧
    (4 : Fin 5).val ∈ flashBusy.ms.waking ∧ flashBusy.ms.flash = [⟨1, 3, .log⟩, ⟨2, 4, .config⟩] ∧ flashBusy.ms.suspended = none ∧
    after (.flashOperationDone 0 true false) flashBusy (fun t => t.ms.flash = [⟨2, 4, .config⟩] && t.rd FLASHC_STATUS.op = 2 && t.isSet FLASHC_STATUS.uncorr) = true ∧
    after (.wispRestoreDone 0) (flashBusy.wr (MEM_WISP_POS.region 0) 2047) (fun t => t.rd (MEM_WISP_POS.region 0) = 0 && t.rd (MEM_WISP_POS.passes 0) = 1) = true ∧
    after (.wispRestoreDone 0) (flashBusy.wr (MEM_WISP_POS.region 0) 2046) (fun t => t.rd (MEM_WISP_POS.region 0) = 2047 && t.rd (MEM_WISP_POS.passes 0) = 0) = true ∧
    after (.eccWriteback 16) flashBusy (fun t => t.ms.writeback = [32]) = true ∧
    after (.duskExitReady 4) flashBusy (fun t => t.ms.waking = [0]) = true := by decide +kernel

theorem witness_CounterRows : run.gated (CLU_CORE_LOAD 3 7) = false ∧
    (run.wr CLK_GATE_STAT.closed 8).gated (CLU_CORE_LOAD 3 7) = true ∧
    after (.cluLoadRead 3 7) ((run.wr CLK_GATE_STAT.closed 8).wr (CLU_CORE_LOAD.cycles 3 7) 9) (fun t => t.lastRead = 0 && t.rd (CLU_CORE_LOAD.cycles 3 7) = 9) = true ∧
    after (.cluLoadRead 3 7) (run.wr (CLU_CORE_LOAD.cycles 3 7) 9) (fun t => t.lastRead = 9 && t.rd (CLU_CORE_LOAD.cycles 3 7) = 0) = true ∧
    after .busCntClrErr (run.setReg BUS_ERRCNT 5) (fun t => t.reg BUS_ERRCNT = 0) = true := by decide +kernel

/-! ### Power and clocks -/

theorem witness_SupplyAndTemperature : run.op ≠ .off ∧ run.pwr.sensors = [] ∧
    ([(1300 : BitVec 16), 1300, 1300, 0xFFFF].all (fun x => decide (x.toInt ≤ (1350 : BitVec 16).toInt))) = true ∧ 1350 ≤ (1350 : BitVec 16).toInt ∧
    after (.thermalSample 1450 1300 1300 1300 0xFFFF) run (fun t => t.pwr.hot2) = true ∧
    run.tj < run.exitTj ∧ run.tj < 1400 ∧
    after (.vsysSample 8999 0 0) run (fun t => t.isSet PWR_STATUS.vsys_low) = true ∧ after (.vsysSample 9000 0 0) run (fun t => !t.isSet PWR_STATUS.vsys_low) = true ∧
    after (.vsysSample 36501 0 0) run (fun t => t.isSet PWR_STATUS.vsys_high) = true := by decide +kernel

/-- The squall threshold at 10 V with 9 V on the supply; a budget of 5 W with 6 W drawn; VAUX on. -/
def lowSupply : State := W [(SYS_STATE.state, 4), (PWR_CFG.squall_v, 100), (PWR_MEAS0.vsys, 9000), (PWR_BUDGET.budget, 5000), (PWR_MEAS1.pin, 6000), (PWR_VAUX.on, 1)]

def auxTripped : State := { run with pwr := { run.pwr with auxOff := true } }

theorem witness_SupplyAndTemperature_timers : lowSupply.rd PWR_CFG.squall_v ≠ 0 ∧ lowSupply.rd PWR_MEAS0.vsys < 100 * lowSupply.rd PWR_CFG.squall_v ∧
    100 * (lowSupply.wr PWR_MEAS0.vsys 11000).rd PWR_CFG.squall_v + 1000 ≤ (lowSupply.wr PWR_MEAS0.vsys 11000).rd PWR_MEAS0.vsys ∧
    lowSupply.rd PWR_BUDGET.budget ≠ 0 ∧ lowSupply.rd PWR_BUDGET.budget < lowSupply.rd PWR_MEAS1.pin ∧ lowSupply.isSet PWR_VAUX.on = true ∧
    auxTripped.pwr.auxOff = true ∧ after .supplyLowTimer lowSupply (fun t => t.rd ⟨PWR_STATUS, 27, 1⟩ = 1) = true ∧
    after .budgetExceeded lowSupply (fun t => t.rd ⟨PWR_STATUS, 28, 1⟩ = 1) = true ∧
    after .vauxOvercurrent lowSupply (fun t => t.pwr.auxOff && !t.isSet PWR_VAUX.on) = true ∧
    after (.vauxRetry true 65) auxTripped (fun t => t.isSet PWR_VAUX.on && t.rd PWR_VAUX.ma = 65) = true := by decide +kernel

/-- A NIGHTFALL entry at tick 10 with stage n done, in cycle c. -/
def entering (n : Nat) (c : Word) : State :=
  { run.setReg ENG_CYCLE c with pwr := { run.pwr with nf := some ⟨10, n, none, 0, 0, 0⟩ } }

def asleep : State := W [(SYS_STATE.state, 6)]

def waking (n : Nat) (c : Word) : State := { asleep.setReg ENG_CYCLE c with pwr := { asleep.pwr with wake := some ⟨n, 10⟩ } }

theorem witness_NightfallRows : (entering 1 10).pwr.nf = some ⟨10, 1, none, 0, 0, 0⟩ ∧ later32 (10 + 1) ((entering 1 10).cycle + 1) = false ∧
    later32 (10 + 2) ((entering 2 11).cycle + 1) = false ∧ asleep.op = .nightfall ∧ asleep.pwr.wake = none ∧ asleep.isSet PAIR_STATUS.synced_pair = false ∧
    (waking 1 5).pwr.wake = some ⟨1, 10⟩ ∧ later32 ((waking 2 10).cycle + 1) 10 = true ∧
    after .nightfallBypass (entering 1 10) (fun t => t.pwr.nf = some ⟨10, 2, none, 0, 0, 0⟩) = true ∧
    after .wakeEvent asleep (fun t => t.pwr.wake.isSome) = true ∧ after .wakeGatesOpen (waking 1 5) (fun t => t.pwr.wake = some ⟨2, 6⟩) = true ∧
    after .wakeRun (waking 2 10) (fun t => t.op = .run && t.pwr.wake = none) = true := by decide +kernel

/-- A serial port that streams uses gate 6. -/
def portBusy : State := run.wr (SP_STATUS.state 15) 5

theorem witness_GatesAndClock : run.rd CLK_GATE_REQ.req = 0 ∧ run.rd CLK_GATE_STAT.pend = 0 ∧ run.gateInUse 0 = false ∧ run.gateInUse 9 = false ∧
    portBusy.gateInUse 6 = true ∧ after (.clkGateReqWrite .cp 64) portBusy (fun t => t.isSet CLK_STATUS.gate_refused) = true ∧
    after (.clkGateReqWrite .cp 512) run (fun t => t.rd CLK_GATE_STAT.pend = 512) = true ∧
    (W [(CLK_GATE_REQ.req, 512), (CLK_GATE_STAT.closed, 512)]).rd CLK_GATE_REQ.req = 2 ^ 9 ∧
    (W [(CLK_GATE_REQ.req, 512), (CLK_GATE_STAT.pend, 512)]).rd CLK_GATE_STAT.pend / 2 ^ 9 % 2 = 1 ∧
    after (.gateQuiescent 9) (W [(CLK_GATE_REQ.req, 512), (CLK_GATE_STAT.pend, 512)]) (fun t => t.rd CLK_GATE_STAT.closed = 512) = true := by decide +kernel

/-! ### Rings -/

/-- Ring 4 runs, with 16 slots. -/
def ringRuns : State := W [(SYS_STATE.state, 4), (CMD_RING_STAT.state 4, 1)]

/-- Ring 4 is OFF with a command ring at 0x10100000 and a completion ring at 0x10100400. -/
def ringReady : State := (run.setReg (CMD_RING_CBASE 4) 0x10100000).setReg (CMD_RING_PBASE 4) 0x10100400

theorem witness_RingRows : ringRuns.ringRun 4 = true ∧ later16 (BitVec.ofNat 16 (ringRuns.rd (CMD_RING_DB.pi 4))) 16 = false ∧
    (16 - BitVec.ofNat 16 (ringRuns.rd (CMD_RING_CI.ci 4))).toNat ≤ ringRuns.ringSize 4 ∧
    after (.cmdDoorbell 4 16) ringRuns (fun t => t.rd (CMD_RING_DB.pi 4) = 16) = true ∧
    after (.cmdDoorbell 4 17) ringRuns (fun t => t.rd (CMD_RING_DB.pi 4) = 0 && (t.reg CMD_VIOL).toNat / 65536 % 256 = 1) = true ∧
    run.ringRun 4 = false ∧ after (.cmdDoorbell 4 5) run (fun t => t.reg CMD_VIOL = 0x84040005) = true ∧
    later16 (BitVec.ofNat 16 ((ringRuns.wr (CMD_RING_DB.pi 4) 3).rd (CMD_RING_DB.pi 4))) 2 = true ∧
    after (.cmdDoorbell 4 2) (ringRuns.wr (CMD_RING_DB.pi 4) 3) (fun t => t.reg CMD_VIOL = 0x84020002) = true ∧
    later16 (BitVec.ofNat 16 (ringRuns.rd (CMD_RING_CDB.cci 4))) 0 = false ∧ later16 0 (BitVec.ofNat 16 (ringRuns.rd (CMD_RING_CI.cpi 4))) = false ∧
    later16 1 (BitVec.ofNat 16 (ringRuns.rd (CMD_RING_CI.cpi 4))) = true ∧ after (.cmdCdbWrite 4 1) ringRuns (fun t => t.reg CMD_VIOL = 0x84030001) = true ∧
    ringReady.ringOff 4 = true ∧ ringReady.ringConfigOk 4 = true ∧ run.ringOff 4 = true ∧ run.ringConfigOk 4 = false ∧ ringRuns.ringOff 4 = false ∧
    after (.cmdRingEnable 4) ringReady (fun t => t.ringRun 4) = true ∧
    after (.cmdRingEnable 4) run (fun t => t.isSet (CMD_RING_STAT.cfg_bad 4) && t.ringOff 4) = true := by decide +kernel

theorem witness_RingRows_disable : ringRuns.q.outst = [] ∧ ringRuns.q.fetched = [] ∧ ringRuns.q.ring0q = [] ∧ ringRuns.q.nightWait = [] ∧
    ringRuns.q.abortMarks = [] ∧ ringRuns.q.aborts = [] ∧ ringRuns.outstanding 4 = 0 ∧ (ringRuns.wr (CMD_RING_STAT.outstanding 4) 2).outstanding 4 ≠ 0 ∧
    after (.cmdRingDisable 4) (ringRuns.wr (CMD_RING_STAT.outstanding 4) 2) (fun t => t.ringDraining 4) = true ∧
    after (.cmdRingDisable 4) ringRuns (fun t => t.ringOff 4) = true ∧ (run.wr (CMD_RING_STAT.state 4) 2).ringDraining 4 = true ∧
    (run.wr (CMD_RING_STAT.state 4) 2).outstanding 4 = 0 ∧ after (.ringDrainDone 4) (run.wr (CMD_RING_STAT.state 4) 2) (fun t => t.ringOff 4) = true := by decide +kernel

/-- A NOP submitted in slot 0 of ring n, whose rings lie at 0x10100000 and 0x10100400. -/
def submittedOn (n op : Nat) : State :=
  ((((W [(SYS_STATE.state, 4), (CMD_RING_STAT.state n, 1), (CMD_RING_DB.pi n, 1)]).setReg (CMD_RING_CBASE n) 0x10100000).setReg
    (CMD_RING_PBASE n) 0x10100400).setMemWord 0x10100000 (BitVec.ofNat 32 (0x04000000 + op)))

/-- That packet as fetched. -/
def fetchedOf (n : Fin 16) (op : Nat) : Cmd := ⟨n, op, 4, 0, 0, 0, 0, 0, 0, 0, 0, 0, [], 0, .ring⟩

theorem witness_FetchAndDecision : (submittedOn 4 0).headCmd 4 = some (fetchedOf 4 0, 1) ∧ (submittedOn 4 0).hasRoom 4 = true ∧
    (submittedOn 4 0).cpDown = false ∧ (submittedOn 4 0).engineRuns = true ∧ (submittedOn 4 0).q.fetched = [] ∧ (submittedOn 4 0).q.abortMarks = [] ∧
    (submittedOn 4 0).rd (CMD_RING_CFG.size 4) ≤ 4 ∧ (fetchedOf 4 0).fence = false ∧ run.submitted 4 = 0 ∧
    after (.commandFetch 4) (submittedOn 4 0) (fun t => t.q.fetched = [fetchedOf 4 0] && t.rd (CMD_RING_CI.ci 4) = 1 && t.outstanding 4 = 1) = true ∧
    opFind 0xFFFF = none ∧
    after .commandDecision { submittedOn 4 0 with q := { (submittedOn 4 0).q with fetched := [fetchedOf 4 0xFFFF] } } (fun t => (t.memWord 0x10100400).toNat / 65536 % 256 = 0x40) = true ∧
    (submittedOn 0 0).headCmd 0 = some (fetchedOf 0 0, 1) ∧ (submittedOn 0 0).hasRoom 0 = true ∧ isTrigOp 0 = false ∧ (submittedOn 0 0).q.ring0q.length < 32 ∧
    after .ring0Decode (submittedOn 0 0) (fun t => t.q.ring0q = [fetchedOf 0 0] && t.outstanding 0 = 1) = true ∧
    ({ run with spi := { run.spi with halted := true } } : State).cpDown = true := by decide +kernel

/-! ### Command processor and faults -/

def stopped : State := { run with flt := { run.flt with cpStopped := true }, img := (fwState 0).img }

/-- A player runs a chain of class 5: an alarm path is active. -/
def alarmRun : PlayRun := ⟨0, 5, none, none, 0, 0, false, 0, .enter, 0, 0, 0, 0, []⟩

def alarmPlays : State := { run with msg := { run.msg with players := [(0, ⟨some alarmRun, none, false, []⟩)] } }

def syncedRun : State := W [(SYS_STATE.state, 4), (SYS_STATE.twin, 1), (PAIR_STATUS.synced_pair, 1)]

theorem witness_ProcessorRows : run.flt.cpStopped = false ∧ stopped.flt.cpStopped = true ∧
    (stopped.flt.reinits.filter (fun x => since stopped.cycle x < stopped.cyclesOfS 600)).length < 2 ∧
    after .cpRestart stopped (fun t => t.isSet CMD_STATUS.wd && !t.flt.cpStopped) = true ∧
    (0xA55B0000 : Word).toNat / 65536 ≠ 0xA55A ∧ (0xA55A0001 : Word).toNat / 65536 = 0xA55A ∧ (0xA55A0001 : Word).getLsbD 1 = false ∧
    (0xA55A0002 : Word).getLsbD 1 = true ∧ alarmPlays.alarmPath = true ∧ run.alarmPath = false ∧
    after (.sysResetWrite 0xA55A0001) alarmPlays (fun t => t.isSet SYS_STATUS.rst_refused && t.boot.resetReq = none) = true ∧
    after (.sysResetWrite 0xA55A0003) alarmPlays (fun t => t.boot.resetReq = some 3) = true ∧
    after (.sysResetWrite 0xA55A0000) run (fun t => t.boot.resetReq = some 2) = true ∧
    run.pairLocked .hb = false ∧ run.duskOk 0 = true ∧ run.duskOk 15 = true ∧ run.duskOk 16 = false ∧ syncedRun.pairLocked .hb = true ∧
    after (.memDuskWrite .cp 16) run (fun t => t.isSet MEM_STATUS.dusk_refused) = true := by decide +kernel

/-- A test of lane 5 that waits for its end; lane 5 marked lasting-faulty; a word of a bank; a word of system SRAM; a spare in use. -/
def testing (e : Nat) : State := { run with flt := { run.flt with tests := [⟨.lane, 5, 0, e, none⟩] } }
def lasting (k : TestKind) (res word : Nat) : State := { run with flt := { run.flt with lasting := [(k, res, word)] } }
def noSpares (s : State) : State := { s with flt := { s.flt with spares := (List.range 16).map (fun i => (64, 0x10000000 + 256 * i)) } }
def holding : State := { alarmPlays with flt := { run.flt with held := [⟨.warm, 2⟩] } }
def flashHeld : State := { run with flt := { run.flt with inReset := [6] } }

theorem witness_FaultRows : (testing 0).flt.tests = [⟨kindOf 0, (5 : BitVec 18).toNat, 0, 0, none⟩] ∧ run.flt.tests = [] ∧
    after (.selftestDone 0 5 true 0) (testing 0) (fun t => t.flt.tests = [] && t.flt.lasting = []) = true ∧
    after (.selftestDone 0 5 false 0) (testing 0) (fun t => t.flt.lasting = [(.lane, 5, 0)]) = true ∧
    (lasting .lane 127 0).flt.lasting = [(.lane, 127, 0)] ∧ (lasting .lane 127 0).laneFenced 127 = false ∧
    after .fence (lasting .lane 127 0) (fun t => t.laneFenced 127 && !t.laneFenced 126) = true ∧
    ((lasting .bank 40960 0).flt.spares.filter (fun x => x.1 = 40960 / 8192 * 16)).length < 16 ∧ 40960 / 8192 < 6 ∧
    32768 / 8192 = 4 ∧ 16 ≤ ((noSpares (lasting .bank 32768 0x10000000)).flt.spares.filter (fun x => x.1 = 64 + 0x10000000 / 16 % 16)).length ∧
    after .fence (noSpares (lasting .bank 32768 0x10000000)) (fun t => t.flt.dead = [0x10000000]) = true ∧
    run.flt.lasting = [] ∧ run.flt.ladder = [] ∧ alarmPlays.holdsOff = true ∧ run.holdsOff = false ∧
    after (.ladderStep 1 6) run (fun t => t.flt.inReset = [6]) = true ∧ after (.ladderStep 2 0) alarmPlays (fun t => t.op = .run && t.flt.held = [⟨.warm, 0⟩]) = true ∧
    after (.ladderStep 2 0) run (fun t => t.op = .boot && t.rd SYS_RST_CAUSE.cause = 4) = true ∧
    after (.ladderStep 3 0) run (fun t => t.op = .boot && t.rd SYS_RST_CAUSE.cause = 5) = true ∧
    holding.holdsOff = true ∧ ({ run with flt := { run.flt with held := [⟨.warm, 2⟩] } } : State).holdsOff = false ∧
    after .ladderHeldRelease { run with flt := { run.flt with held := [⟨.warm, 2⟩] } } (fun t => t.op = .boot) = true ∧
    flashHeld.held 6 = true ∧ run.held 6 = false := by decide +kernel

/-- Nothing is fenced on a state without fenced words. -/
theorem witness_FaultRows_dead : ∀ x, deadAt (noSpares (lasting .bank 32768 0x10000000)).flt.dead x = false := fun _ => rfl

/-! ### Bus, registers, host port, TAP -/

/-- One beat to DRAM with the strobes of bytes 0 and 15. -/
def oneBeat (m : Master) (w : Bool) (a : Word) : Burst := ⟨m, w, a, [⟨0x8001, 0xAA0000000000000000000000000000BB, false⟩], false, false, 0⟩

theorem witness_BusRows : after (.busBurst (oneBeat .cp true 0x80000010)) run (fun t => t.byte 0x80000010 = 0xBB && t.byte 0x8000001F = 0xAA && t.mem.length = 2 && t.bus.lastResp = [0]) = true ∧
    SMap.find run.bus.lock 8 = none ∧ SMap.find run.bus.lock 1 = none ∧ run.flt.dead = [] ∧ run.ms.poisoned = [] ∧ run.bus.timeouts = [] ∧
    0x10000000 ≤ (0x101FFFFF : Word).toNat ∧ (0x101FFFFF : Word).toNat < 0x10200000 ∧ (0xF7FFFFFF : Word).toNat < 0xF8000000 ∧
    (oneBeat .cp true 0x80000010).master ≠ .hb ∧ targetOf (run.burstAddr (oneBeat .cp false 0x50000000)) = none ∧
    after (.busBurst (oneBeat .cp false 0x50000000)) run (fun t => t.bus.lastResp = [2]) = true ∧
    after (.busBurst (oneBeat .cp false 0x10000000)) (run.setByte 0x10000001 9) (fun t => t.bus.lastResp = [0] && t.bus.lastData.getD 1 0 = 9) = true ∧
    after (.busBurst (oneBeat .hb true 0x10000000)) run (fun t => t.bus.lastResp = [1] && t.mem = []) = true ∧
    after (.busTimeout .cp 8 true 0x80000000 16) run (fun t => t.bus.lastResp.length = 16 && t.bus.timeouts = [(8, 0)]) = true ∧
    0 < run.cyclesOfMs 60000 ∧
    after (.busTimeout .cp 9 true 0x40440000 1) { run with bus := { run.bus with timeouts := [(9, 0), (9, 0)] } } (fun t => t.flt.inReset = [6] && t.bus.timeouts = []) = true := by decide +kernel

theorem witness_RegisterWrites : run.hbWrites (wordAddr 0x80000000) = false ∧ syncedRun.synced = true ∧ syncedRun.engineRuns = true ∧
    (1 : Word).toNat % 64 ≠ (syncedRun.reg (ANA_OUT_CFG 7)).toNat % 64 ∧
    after (.registerWrite .hb (BitVec.ofNat 32 (ANA_OUT_CFG 7)) 1) syncedRun (fun t => t.isSet (ANA_STATUS.wr_refused 7)) = true ∧
    ((run.setReg ANA_GRPSEL0 1).reg ANA_GRPSEL0).getLsbD 0 = true ∧ ((run.setReg ANA_GRPSEL0 1).reg ANA_GRPSEL0).getLsbD 1 = false ∧
    after (.groupAliasWrite .cp 0x4013C010 1) (run.setReg ANA_GRPSEL0 1) (fun t => t.reg (ANA_OUT_CFG 0) = 1 && t.reg (ANA_OUT_CFG 1) = run.reg (ANA_OUT_CFG 1)) = true ∧
    run.inDusk 5 = false ∧ run.shadowOpen true 1023 = true ∧ run.shadowOpen false 1023 = false ∧
    after (.coefShadowWrite .cp (BitVec.ofNat 32 (0x30000000 + 4 * coefIdx true 1023 1023)) [7]) run (fun t => t.gain true 1023 1023 = 7 && t.coef.length = 1) = true ∧
    after (.coefShadowWrite .cp (BitVec.ofNat 32 (0x30000000 + 4 * coefIdx false 1023 1023)) [7]) run (fun t => t.coef = [] && t.isSet XPT_STATUS.wr_blocked) = true ∧
    after (.coefShadowWrite .mdma (BitVec.ofNat 32 (0x30000000 + 4 * coefIdx true 0 4)) [1, 2, 3, 4]) run (fun t => t.gain true 0 6 = 3) = true := by decide +kernel

def buffered : State := { run with spi := { run.spi with wbuf := some (0x101FFFFC, [1, 2, 3, 4]) } }

theorem witness_HostPort : (0x101FFFFC : Word).toNat % 4 = 0 ∧ 0x10100000 ≤ (0x101FFFFC : Word).toNat ∧ (0x101FFFFC : Word).toNat + 4 * 1 ≤ 0x10200000 ∧
    run.spi.latch = none ∧ run.spi.wbuf = none ∧ run.hbReads 0x80000000 = false ∧ [(1 : Byte), 2, 3, 4].length ≤ 64 ∧
    after (.read 0x101FFFFC 1 true) (run.setByte 0x101FFFFC 9) (fun t => t.spi.out.getD 1 0 = 9 && t.spi.out.length = 5) = true ∧
    after (.read 0x80000000 1 true) run (fun t => t.spi.err && t.spi.out.tail = [0xFF, 0xFF, 0xFF, 0xFF]) = true ∧
    buffered.spi.wbuf = some (0x101FFFFC, [1, 2, 3, 4]) ∧ (0x101FFFFC : Word).toNat + [(1 : Byte), 2, 3, 4].length ≤ 0x10200000 ∧
    after .qspiWriteFlush buffered (fun t => t.byte 0x101FFFFF = 4 && t.spi.wbuf = none) = true ∧
    after (.write 0x10100002 [1]) run (fun t => t.spi.err) = true := by decide +kernel

def strapTwo : State := W [(SYS_STATE.state, 1), (SYS_STATE.bootsel, 2)]

def mgmtOn : State := W [(SYS_STATE.state, 4), (SEC_MGMT_CFG.en, 1), (SEC_MGMT_CFG.ports, 3), (⟨NET_CFG 0, 31, 1⟩, 1), (⟨NET_CFG 1, 31, 1⟩, 1), (NET_STATUS.link 0, 2), (NET_STATUS.link 1, 2)]

theorem witness_KeysAndTap : strapTwo.isSet SEC_STATUS.jtag_locked = false ∧ SMap.get (fun _ => (0 : BitVec 256)) strapTwo.sec.otp 2 = 0 ∧
    after (.otpKey 2 5) strapTwo (fun t => t.sec.otp = [(2, 5)]) = true ∧ (strapTwo.wr SEC_STATUS.jtag_locked 1).isSet SEC_STATUS.jtag_locked = true ∧
    SMap.get (fun _ => (0 : BitVec 256)) (fwState 0).sec.otp 0 ≠ 0 ∧ strapTwo.op = .boot ∧ strapTwo.rd SYS_STATE.bootsel = 2 ∧ run.op ≠ .boot ∧
    after .extest strapTwo (fun t => t.spi.extest) = true ∧ (run.wr SEC_MGMT_CFG.en 0).isSet SEC_MGMT_CFG.en = false ∧ mgmtOn.mgmtOpen false = true ∧ mgmtOn.mgmtOpen true = true ∧
    after (.mgmtDatagramReceived true 1 (List.replicate 35 0)) mgmtOn (fun t => t.rd SEC_MGMT_CNT.auth = 1) = true := by decide +kernel

/-! ### Fabric -/

def withCol (c : XptCol) : State := { run.setReg ENG_CYCLE 9 with xpt := { run.xpt with cols := [(1023, c)] } }
def withCap (c : CapState) : State := { run with xpt := { run.xpt with caps := [(3, c)] } }
def withEnt (e : PatchEnt) : State := { run.setReg ENG_CYCLE 9 with patch := { run.patch with ents := [(2055, e)] } }
def metering (win : Nat) : State := { run with xpt := { run.xpt with mtrStarted := true, mtrWin := win } }

/-- A column whose ramp of 10 cycles began at 0: at tick 10 it ends; of 11 cycles it goes on. -/
theorem witness_FabricEnds : ((withCol ⟨true, 0, 10, false, none, [], none⟩).col 1023).rampLen ≠ 0 ∧
    10 ≤ since ((withCol ⟨true, 0, 10, false, none, [], none⟩).cycle + 1) 0 ∧ since ((withCol ⟨true, 0, 11, false, none, [], none⟩).cycle + 1) 0 < 11 ∧
    after (.xptRampEnd 1023) (withCol ⟨true, 0, 10, false, none, [], none⟩) (fun t => (t.col 1023).rampLen = 0) = true ∧
    ((withCol ⟨true, 0, 0, true, none, [], none⟩).col 1023).copying = true ∧ (run.col 0).copying = false ∧ run.flt.dead = [] ∧
    after (.xptCopyDone 1023) ((withCol ⟨true, 0, 0, true, none, [], none⟩).setGain true 1023 5 7) (fun t => t.gain false 1023 5 = 7) = true ∧
    (metering 0).xpt.mtrStarted = true ∧ ((metering 0).cycle + 1).toNat % 2 ^ (metering 0).xpt.mtrWin = 0 ∧
    ((metering 1).cycle + 1).toNat % 2 ^ (metering 1).xpt.mtrWin ≠ 0 ∧ run.xpt.mtrStarted = false ∧
    ((withCap ⟨true, 0, 512, none⟩).cap 3).armed = true ∧ 512 ≤ ((withCap ⟨true, 0, 512, none⟩).cap 3).count ∧ ((withCap ⟨true, 0, 511, none⟩).cap 3).count < 512 ∧
    after (.captureDone 3) (withCap ⟨true, 0, 512, none⟩) (fun t => !(t.cap 3).armed) = true := by decide +kernel

theorem witness_FabricEnds_patch : ((withEnt ⟨4, true, false, .fadeOut, 0, 10, some (some 77), none, none, none⟩).ent 2055).phase = .fadeOut ∧
    10 ≤ since ((withEnt ⟨4, true, false, .fadeOut, 0, 10, some (some 77), none, none, none⟩).cycle + 1) 0 ∧
    after (.patchFadeOutEnd 2055) (withEnt ⟨4, true, false, .fadeOut, 0, 10, some (some 77), none, none, none⟩)
      (fun t => (t.ent 2055).sel = 77 && (t.ent 2055).phase = .fadeIn) = true ∧
    after (.patchFadeOutEnd 2055) (withEnt ⟨4, true, false, .fadeOut, 0, 10, some none, none, none, none⟩) (fun t => !(t.ent 2055).connected) = true ∧
    ((withEnt ⟨4, true, false, .fadeIn, 0, 10, none, none, none, none⟩).ent 2055).phase ≠ .fadeOut ∧
    ((withEnt ⟨4, true, false, .fadeIn, 0, 10, none, none, none, none⟩).ent 2055).phase ≠ .steady ∧ (run.ent 0).phase = .steady ∧
    after (.patchFadeEnd 2055) (withEnt ⟨4, true, false, .fadeIn, 0, 10, none, none, none, none⟩) (fun t => (t.ent 2055).phase = .steady) = true := by decide +kernel

/-- A full swap queue and a full request queue. -/
def queuesFull : State := { run with
  xpt := { run.xpt with queue := List.replicate 32 ⟨0, 0, 0, 0, 1, none⟩ }
  patch := { run.patch with queue := List.replicate 64 ⟨0, 0, 1, 0, 0, none, none⟩ } }

theorem witness_FabricPushes : syncedRun.pairLocked .hb = true ∧ run.pairLocked .cp = false ∧ run.rd XPT_QENT1.op ≤ 1 ∧ run.rd XPT_QENT1.scope ≤ 2 ∧
    run.rd XPT_QENT1.scope ≠ 1 ∧ run.xpt.queue.length < 32 ∧ 32 ≤ queuesFull.xpt.queue.length ∧ 64 ≤ queuesFull.patch.queue.length ∧
    2 < (run.wr XPT_QENT1.scope 3).rd XPT_QENT1.scope ∧ (run.wr XPT_QENT1.scope 1).rd XPT_QENT1.scope = 1 ∧
    64 ≤ ((run.wr XPT_QENT1.scope 1).wr XPT_QENT1.target 64).rd XPT_QENT1.target ∧ ((run.wr XPT_QENT1.scope 1).wr XPT_QENT1.target 63).rd XPT_QENT1.target < 64 ∧
    after (.xptQpush .cp) ((run.wr XPT_QENT1.scope 1).wr XPT_QENT1.target 64) (fun t => t.isSet XPT_STATUS.bad_entry) = true ∧
    after (.xptQpush .cp) (run.wr XPT_QENT1.ramp 4) (fun t => t.xpt.queue = [⟨0, 0, 0, 0, 5, none⟩]) = true ∧
    validReq (run.rd PATCH_REQ1.op) (run.rd PATCH_REQ1.entry) (run.rd PATCH_REQ2.value) = true ∧
    run.patchProtected (run.rd PATCH_REQ1.op) (run.rd PATCH_REQ1.entry) = false ∧ run.patch.queue.length < 64 ∧
    after (.patchPush .cp) run (fun t => t.patch.queue.length = 1) = true ∧ after (.patchPush .cp) queuesFull (fun t => t.isSet PATCH_STATUS.q_full) = true ∧
    validReq ((run.wr PATCH_REQ1.op 7).rd PATCH_REQ1.op) 0 0 = false ∧ (run.cap 3).armed = false ∧ ((withCap ⟨true, 0, 5, none⟩).cap 3).armed = true ∧
    after (.xptCapArm 3) run (fun t => (t.cap 3).start = run.cycle + 1 && (t.cap 3).armed) = true ∧
    run.rd PATCH_MTR_CFG.win ≠ (9 : BitVec 4).toNat ∧ after (.patchMtrCfgWrite 9) (metering 3) (fun t => !t.xpt.mtrStarted && t.rd PATCH_MTR_CFG.win = 9) = true := by decide +kernel

/-! ### The override plane -/

/-- Trigger 63 is enabled, covers column 5 of its group and is due to change at tick 9. -/
def trigDueAt (want : Bool) : State :=
  let s := ((run.setReg ENG_CYCLE 8).setReg (OVR_LIVE 63 0) 0x80000000).setReg (OVR_LMASK 0 0) 32
  { s with ovr := { s.ovr with trigs := [(63, { trigDefault 63 with sched := [(9, want)], asserted := !want })]
                               cols := if want then [] else [(5, ⟨some 63, none, 0, 0, [], []⟩)] } }

def withOcol (c : OvrCol) : State := { run.setReg ENG_CYCLE 9 with ovr := { run.ovr with cols := [(1023, c)] } }

theorem witness_TriggersAndRamps : ((trigDueAt true).trig 63).sched = [(9, true)] ∧ later32 9 ((trigDueAt true).cycle + 1) = false ∧
    (trigDueAt true).tPlayEn 63 = false ∧ (trigDueAt true).tGenEn 63 = false ∧ (trigDueAt true).q.outst = [] ∧
    (∀ j, j < 64 → ((trigDueAt true).trig j).asserted = false) ∧ (trigDueAt true).covers 63 5 = true ∧ (trigDueAt true).covers 63 6 = false ∧
    ((trigDueAt true).ocol 5).holder = none ∧ after (.triggerAssertion 63) (trigDueAt true) (fun t => (t.ocol 5).holder = some 63 && (t.trig 63).asserted) = true ∧
    run.trigDue 63 true = false ∧ run.trigDue 63 false = false ∧ ((trigDueAt false).trig 63).sched = [(9, false)] ∧ (trigDueAt false).tRelStop 63 = false ∧
    (∀ j, j < 64 → j ≠ 63 → ((trigDueAt false).trig j).asserted = false) ∧ ((trigDueAt false).ocol 5).holder = some 63 := by decide +kernel

theorem witness_TriggersAndRamps_ends : ((withOcol ⟨some 1, none, 0, 10, [], []⟩).ocol 1023).holder.isSome = true ∧
    10 ≤ since ((withOcol ⟨some 1, none, 0, 10, [], []⟩).cycle + 1) 0 ∧ since ((withOcol ⟨some 1, none, 0, 11, [], []⟩).cycle + 1) 0 < 11 ∧
    after (.ovrForceRampEnd 1023) (withOcol ⟨some 1, none, 0, 10, [], []⟩) (fun t => t.ocol 1023 = ⟨some 1, none, 0, 0, [], []⟩) = true ∧
    ((withOcol ⟨none, some 1, 0, 10, [], []⟩).ocol 1023).releasing.isSome = true ∧
    after (.ovrReleaseRampEnd 1023) (withOcol ⟨none, some 1, 0, 10, [], []⟩) (fun t => t.ovr.cols = []) = true ∧ (run.ocol 0).holder = none ∧ (run.ocol 0).releasing = none := by decide +kernel

def armed : State := W [(SYS_STATE.state, 4), (OVR_STATUS.armed, 1)]
def twoFails : State := { run with ovr := { run.ovr with keyFails := [0, 0] } }

theorem witness_ArmAndCommit : run.isSet OVR_STATUS.key_lockout = false ∧ run.isSet OVR_STATUS.commit_pend = false ∧ (0xA1A6 : BitVec 16) ≠ 0xA1A5 ∧
    (run.ovr.keyFails.filter (fun c => since run.cycle c ≤ run.cyclesOfMs 10000)).length < 2 ∧
    2 ≤ (twoFails.ovr.keyFails.filter (fun c => since twoFails.cycle c ≤ twoFails.cyclesOfMs 10000)).length ∧
    after (.ovrArmWrite .cp 0xA1A6) twoFails (fun t => t.isSet OVR_STATUS.key_lockout) = true ∧
    after (.ovrArmWrite .cp 0xA1A6) run (fun t => t.isSet OVR_STATUS.key_fail && !t.isSet OVR_STATUS.key_lockout) = true ∧
    (run.wr OVR_STATUS.key_lockout 1).isSet OVR_STATUS.key_lockout = true ∧ armed.isSet OVR_STATUS.armed = true ∧ armed.isSet OVR_STATUS.commit_pend = false ∧
    after .ovrArmExpiry armed (fun t => t.isSet OVR_STATUS.expired && !t.isSet OVR_STATUS.armed) = true ∧
    (0 : BitVec 16).toNat ≠ (armed.rd OVR_ARM.chal).xor 0x5A5A ∧ armed.commitCheck 0 0 = .badResp ∧
    (armed.setReg (ovrStageAddr 7 0) 0x80000040).commitCheck 0x5A5A 0 = .entry 7 := by decide +kernel

/-- A trigger of class 5 is asserted. -/
theorem witness_ArmAndCommit_busy : ({ armed.setReg (OVR_LIVE 0 0) 0xA8000000 with ovr := { armed.ovr with trigs := [(0, { trigDefault 0 with asserted := true })] } } : State).commitCheck
    0x5A5A 0 = .busy := by decide +kernel

def commitDue : State := { (armed.setReg ENG_CYCLE 8).wr OVR_STATUS.commit_pend 1 with ovr := { armed.ovr with commitAt := some 9 } }

theorem witness_ArmAndCommit_effect : commitDue.ovr.commitAt = some 9 ∧ later32 9 (commitDue.cycle + 1) = false ∧ commitDue.ovr.commitBy = none ∧
    commitDue.isSet OVR_STATUS.commit_pend = true ∧ run.ovr.commitAt = none ∧ later32 9 (({ run with ovr := commitDue.ovr } : State).cycle + 1) = true := by decide +kernel

/-! ### Images -/

/-- An image without regions running, quad 0 with its shadow being synced, and an activation. -/
def activating (x : Activation) : State :=
  { run.setReg ENG_CYCLE 9 with img := { run.img with running := some (imageOf []),
                                                      quads := [(0, { quadZero with shadow := .syncing })], act := some x } }

def dipAct (begun loaded switched : Bool) : Activation := ⟨0, .dip, 10, 0, 10, begun, loaded, switched, none⟩

theorem witness_ImageSteps : (dipAct true false false).bypassDue ((activating (dipAct true false false)).cycle + 1) = true ∧
    (dipAct true false false).bypassDue 9 = false ∧ (dipAct true true false).switchDue 10 = true ∧ (dipAct true true false).switchDue 9 = false ∧
    (dipAct true true true).completeDue 20 = true ∧ (dipAct true true true).completeDue 19 = false ∧ (⟨0, .seamless, 10, 0, 9, true, true, true, none⟩ : Activation).completeDue 10 = true ∧
    (dipAct true true false).mode = .dip ∧
    (activating (dipAct true true false)).img.running = some (imageOf []) ∧ run.img.act = none ∧ run.tickStopped = false ∧
    (activating ⟨0, .full, 10, 0, 10, true, true, false, none⟩).tickStopped = true ∧ (activating (dipAct true true false)).engineRuns = true ∧
    SMap.find (activating (dipAct true true false)).img.quads 0 = some { quadZero with shadow := .syncing } ∧
    after (.imgSwitchTick false) (activating (dipAct true true false)) (fun t => t.img.act = none) = true ∧
    after .imgActivateComplete (activating ⟨0, .seamless, 10, 0, 9, true, true, true, none⟩) (fun t => t.img.act = none && t.img.oldImage = none) = true ∧
    after (.paramSyncDone false 0) (activating (dipAct true true false)) (fun t => (SMap.find t.img.quads 0).any (fun q => q.shadow = .clean)) = true := by decide +kernel

/-- A job of ring 4 and tag 1. -/
def withJob : State := { run with q := { run.q with jobs := [⟨cmdOf 0x0303⟩] } }

theorem witness_ImageSteps_jobs : withJob.cpDown = false ∧ (withJob.q.jobs.find? (fun j => j.cmd.ring = 4 && j.cmd.tag = 1)) = some ⟨cmdOf 0x0303⟩ ∧
    (∀ j ∈ run.q.jobs, ¬(j.cmd.ring = 4 ∧ j.cmd.tag = 1)) ∧ after (.backgroundJobDone 4 1) withJob (fun t => t.q.jobs = []) = true := by decide +kernel

/-! ### Decimation, trackers, serial ports -/

/-- Channel 39 in a state; channel 0 with its PDM clock on. -/
def decIn (st : Nat) : State := W [(SYS_STATE.state, 4), (DEC_STATUS.state 39, st)]
def decPdm : State := W [(SYS_STATE.state, 4), (DEC_PDMCLK.en, 1)]
def decCh (s : State) (n : Nat) (c : DecChan) : State := { s with dec := { s.dec with chans := [(n, c)] } }

/-- An SCS channel of order 3 and ratio 8 with its FIFO, running; 24 bits that are all one saturate it. -/
def scs (fifo : List Word) : State :=
  decCh (W [(SYS_STATE.state, 4), (DEC_STATUS.state 5, 2), (DEC_CFG.mode 5, 1), (DEC_CFG.order 5, 0), (DEC_CFG.ratio 5, 0), (DEC_CFG.fifo_en 5, 1), (DEC_STROBE.src 5, 2), (DEC_STROBE.timer 5, 3)])
    5 ⟨[], [], none, 0, false, fifo, true, 0⟩

theorem witness_DecimationRows : run.gated (DEC_CTRL 39) = false ∧ (run.wr CLK_GATE_STAT.closed 16).gated (DEC_FIFO 39) = true ∧ run.pairLocked .cp = false ∧
    syncedRun.pairLocked .hb = true ∧ decPdm.decState 0 = 0 ∧ (decPdm.wr (DEC_CFG.mode 0) 2).decRefusal 0 = some stBadParam ∧ run.decRefusal 0 = some stBadSequence ∧
    (W [(SYS_STATE.state, 4), (DEC_PDMCLK.en, 1), (DEC_CFG.mode 0, 1)]).decRefusal 0 = none ∧ (decIn 2).decState 39 ≠ 0 ∧
    ((decIn 1).setReg ENG_CYCLE 4).decSettleDue 39 (((decIn 1).setReg ENG_CYCLE 4).cycle + 1) = true ∧ ((decIn 1).setReg ENG_CYCLE 3).decSettleDue 39 (((decIn 1).setReg ENG_CYCLE 3).cycle + 1) = false ∧
    (decIn 3).decStopDue 39 ((decIn 3).cycle + 1) = true ∧ (decIn 2).decStopDue 39 ((decIn 2).cycle + 1) = false ∧
    after (.decStopEnd 39) (decIn 3) (fun t => t.decState 39 = 0) = true ∧
    after (.decStart .cp 0) (decPdm.wr (DEC_CFG.mode 0) 2) (fun t => t.isSet (DEC_STATUS.cfg_bad 0)) = true ∧
    (scs []).decScs 5 = true ∧ (scs []).decState 5 ≠ 0 ∧ (scs []).decN 5 * (scs []).decR 5 = 24 ∧ (scs []).isSet (DEC_CFG.fifo_en 5) = true ∧
    ((scs []).dch 5).fifo.length < 256 ∧ 256 ≤ ((scs (List.replicate 256 0)).dch 5).fifo.length ∧
    after (.decWindowEnd 5 (List.replicate 24 true)) (scs []) (fun t => t.isSet (DEC_STATUS.sat 5) && (t.dch 5).out = 0x7FFFFF && (t.dch 5).fifo = [0x807FFFFF]) = true ∧
    after (.decWindowEnd 5 (List.replicate 24 true)) (scs (List.replicate 256 0)) (fun t => t.isSet (DEC_STATUS.fifo_ovf 5)) = true ∧
    (scs []).rd (DEC_STROBE.src 5) ≠ 0 ∧ (scs []).rd (DEC_STROBE.timer 5) = 3 ∧ after (.decStrobe 5) (scs []) (fun t => t.isSet (DEC_STATUS.abort 5)) = true ∧
    bitOf (({ scs [] with dec := { (scs []).dec with tmr := [(3, 0x80000000)] } } : State).tmrWord 3) 31 = true ∧ bitOf (run.tmrWord 3) 31 = false ∧
    after (.decFifoRead 5) (scs [7, 8]) (fun t => t.lastRead = 7 && (t.dch 5).fifo = [8]) = true := by decide +kernel

/-- Tracker 63 claimed, in a state. -/
def trk (st : Nat) : State := W [(SYS_STATE.state, 4), (ASRC_TRK_CFG.dir 63, 1), (ASRC_TRK_STATE.state 63, st)]

theorem witness_TrackerRows : (∀ st, st < 4 → (trk st).trkClaimed 63 = true ∧ (trk st).trkState 63 = st) ∧ run.trkClaimed 63 = false ∧
    after (.trackerEdgesSeen 63 5) (trk 0) (fun t => (t.track 63).next = some (1, 5)) = true ∧
    after (.trackerRange 63 5) (trk 2) (fun t => (t.track 63).next = some (3, 5)) = true := by decide +kernel

/-- Port 15 in a state: privileged, transmitting slots 0 and 1, slave. -/
def portIn (st : Nat) : State :=
  (W [(SYS_STATE.state, 4), (SP_STATUS.state 15, st), (SP_CFG.priv 15, 1), (SP_CFG.tx_en 15, 1), (SP_CFG.master 15, 0), (SP_FRAME.slots 15, 1)]).setReg (SP_TXMASK_ACT 15) 3

def portWith (s : State) (p : SpPort) : State := { s.setReg ENG_CYCLE 9 with sp := [(15, p)] }
def idlePort : SpPort := spDefault 15

theorem witness_PortActions : run.gated (SP_CTRL 15) = false ∧ run.spState 15 = 0 ∧ (portIn 3).spState 15 ≠ 0 ∧ (run.port 15).maskOwner = none ∧
    after (.spMaskCommit .cp 15) ((portIn 3).setReg (SP_TXMASK 15) 5) (fun t => (t.port 15).masks = some (5, (portIn 3).reg (SP_RXMASK 15)) && t.reg (SP_TXMASK_ACT 15) = 3) = true ∧
    ((portWith (portIn 3) { idlePort with masks := some (1, 2) }).port 15).masks = some (1, 2) ∧ (portIn 3).spState 15 ≠ 6 ∧ (portIn 6).spState 15 = 6 ∧
    after (.spMaskTakeEffect 15) (portWith (portIn 3) { idlePort with masks := some (1, 2) }) (fun t => t.reg (SP_TXMASK_ACT 15) = 1 && t.reg (SP_RXMASK_ACT 15) = 2) = true ∧
    (portWith (portIn 1) { idlePort with dataTick := some 10 }).spDataDue 15 ((portWith (portIn 1) idlePort).cycle + 1) = true ∧
    (portWith (portIn 1) { idlePort with dataTick := some 11 }).spDataDue 15 ((portWith (portIn 1) idlePort).cycle + 1) = false ∧
    after (.spDataTick 15) (portWith (portIn 1) { idlePort with dataTick := some 10 }) (fun t => t.spState 15 = 2) = true ∧
    (portWith (portIn 5) { idlePort with leadEnd := some 10 }).spLeadDue 15 ((portWith (portIn 5) idlePort).cycle + 1) = true ∧
    (portWith (portIn 5) { idlePort with leadEnd := some 11 }).spLeadDue 15 ((portWith (portIn 5) idlePort).cycle + 1) = false ∧
    after (.spLeadOutEnd 15) (portWith (portIn 5) { idlePort with leadEnd := some 10 }) (fun t => t.spState 15 = 0) = true := by decide +kernel

theorem witness_PortActions_gates : 1 ∈ (portIn 3).spWait 15 ∧ 2 ∉ (portIn 3).spWait 15 ∧ (15 : Fin 32).val < (portIn 3).blk ∧ (portIn 3).blk ≤ (16 : Fin 32).val ∧
    (portIn 3).crossingAt (spSink 15 1) 15 = true ∧
    after (.spSlotCrossing 15 1 15) (portIn 3) (fun t => (t.port 15).gate 1 = ⟨true, run.cycle, 15, false⟩) = true ∧
    after (.spZcTimeout 15 1) (portIn 3) (fun t => t.isSet (SP_STATUS.zc_timeout 15)) = true ∧
    (portIn 3).spMaster 15 = false ∧ ((portIn 3).wr (SP_CFG.master 15) 1).spMaster 15 = true ∧ ((portIn 3).port 15).aligned = false ∧
    ({ portIn 3 with eng := { (portIn 3).eng with emit := [(smp (spSink 15 1) 0, 1)] } } : State).crossingAt (spSink 15 1) 0 = false ∧
    after (.spFrameAligned 15 7) (portIn 1) (fun t => (t.port 15).aligned && t.rd (SP_SLACK.offset 15) = 7) = true := by decide +kernel

theorem witness_PortFrames : ((portIn 3).wr (SP_CFG.sync 15) 1).spSync 15 = true ∧ ((portIn 3).wr (SP_CFG.sync 15) 1).spLeadOf 15 = none ∧
    after (.spUnderrun 15 true) (portIn 3) (fun t => t.isSet (SP_STATUS.tx_ins 15) && t.rd (SP_SLIPCNT.inserted 15) = 1) = true ∧
    after (.spOverrun 15 false) (portIn 3) (fun t => t.isSet (SP_STATUS.rx_drop 15) && t.rd (SP_SLIPCNT.dropped 15) = 1) = true ∧
    after (.spSlip 15 true) ((portIn 3).wr (SP_CFG.sync 15) 1) (fun t => t.rd (SP_SLACK.offset 15) = 256) = true ∧
    after (.spGlitch 15) (portIn 3) (fun t => t.isSet (SP_STATUS.glitch 15) && t.rd (SP_SLIPCNT.inserted 15) = 2) = true ∧
    after (.spLost 15) (portIn 3) (fun t => t.spState 15 = 6 && (t.port 15).prev = 3) = true ∧
    ((portWith (portIn 6) { idlePort with prev := 3 }).port 15).prev < 8 ∧
    after (.spRealign 15) (portWith (portIn 6) { idlePort with prev := 3 }) (fun t => t.spState 15 = 3 && (t.port 15).aligned) = true := by decide +kernel

/-! ### Analog, contacts, drivers, lines -/

/-- Input 7 at gain 59 with a step due to its target; bias on with limits 100 and 2000. -/
def anaIn (target : Nat) : State :=
  { W [(SYS_STATE.state, 4), (ANA_IN_STAT.gain_now 7, 59), (ANA_IN_CFG.gain 7, target), (ANA_IN_CFG.bias_en 7, 1), (ANA_IN_CFG.bsup_en 7, 1), (ANA_BIAS_THR.open_ua 7, 100), (ANA_BIAS_THR.short_ua 7, 2000)] with
    field := { run.field with walks := [(7, ⟨true, none⟩)] } }

/-- Output 7 in a state with its gate. -/
def anaOut (st : Nat) (isOpen : Bool) : State :=
  { W [(SYS_STATE.state, 4), (ANA_OUT_STAT.state 7, st), (ANA_OUT_CFG.hold 7, 1)] with field := { run.field with aouts := [(7, ⟨⟨isOpen, 0, 0, false⟩, 0, 0⟩)] } }

theorem witness_AnalogRows : ((anaIn 63).walk 7).owner = none ∧ ((anaIn 63).walk 7).due = true ∧ (run.walk 7).due = false ∧
    syncedRun.rd (ANA_IN_CFG.gain 7) ≠ (63 : BitVec 6).toNat ∧
    after (.gainStep 7) (anaIn 63) (fun t => t.rd (ANA_IN_STAT.gain_now 7) = 60) = true ∧ after (.gainStep 7) (anaIn 58) (fun t => t.rd (ANA_IN_STAT.gain_now 7) = 58) = true ∧
    after (.gainStepTimeout 7) (anaIn 63) (fun t => t.isSet (ANA_STATUS.gain_to 7)) = true ∧
    (anaIn 63).isSet (ANA_IN_CFG.bias_en 7) = true ∧ (anaIn 63).isSet (ANA_IN_CFG.bsup_en 7) = true ∧ (run.wr (ANA_IN_CFG.bsup_en 7) 0).isSet (ANA_IN_CFG.bsup_en 7) = false ∧
    after (.biasStateChange 7 99) (anaIn 63) (fun t => t.rd (ANA_IN_STAT.bias_state 7) = 1 && t.isSet (ANA_STATUS.bias_fault 7)) = true ∧
    after (.biasStateChange 7 2000) (anaIn 63) (fun t => t.rd (ANA_IN_STAT.bias_state 7) = 0) = true ∧ after (.biasStateChange 7 2001) (anaIn 63) (fun t => t.rd (ANA_IN_STAT.bias_state 7) = 2) = true ∧
    (15 : Fin 32).val < run.blk ∧ run.blk ≤ (16 : Fin 32).val ∧ run.crossingAt (aoSink 7) 15 = true ∧
    after (.aoutGateCrossing 7 15) (anaOut 2 false) (fun t => t.aoState 7 = 3) = true ∧ after (.aoutGateCrossing 7 15) (anaOut 4 true) (fun t => t.aoState 7 = 5) = true ∧
    run.aoWaits 7 = false ∧ (anaOut 2 false).aoWaits 7 = true ∧ after (.aoutZcTimeout 7) (anaOut 2 false) (fun t => t.isSet (ANA_STATUS.zc_timeout 7)) = true ∧
    ((anaOut 5 false).setReg ENG_CYCLE 2).aoHoldDue 7 3 = true ∧ ((anaOut 5 false).setReg ENG_CYCLE 1).aoHoldDue 7 2 = false ∧
    after (.aoutHoldEnd 7) ((anaOut 5 false).setReg ENG_CYCLE 2) (fun t => t.aoState 7 = 0) = true := by decide +kernel

/-- Contact 15 uses set 0 with limits 100, 1000 and 5000; its code has been equal for 8 samples. -/
def contact (raw st : Nat) : State :=
  { W [(SYS_STATE.state, 4), (SUP_CIN_CFG.en 15, 1), (SUP_CIN_CFG.sup_en 15, 1), (SUP_CIN_CFG.thr_set 15, 0), (SUP_CIN_CFG.deb 15, 8), (SUP_CIN_THR0.sa 0, 100), (SUP_CIN_THR0.an 0, 1000),
      (SUP_CIN_THR1.no 0, 5000), (SUP_CIN_STAT.raw 15, raw), (SUP_CIN_STAT.state 15, st)] with field := { run.field with cinRun := [(15, 8)] } }

theorem witness_ContactsDriversLines_contacts : (contact 1 1).cinDue 15 = false ∧ (contact 1 1).isSet (SUP_CIN_CFG.en 15) = true ∧ (contact 1 1).thrValid ((contact 1 1).rd (SUP_CIN_CFG.thr_set 15)) = true ∧
    after (.cinSample 15 5000 false) (contact 1 1) (fun t => t.rd (SUP_CIN_STAT.raw 15) = 0 && t.cinRun 15 = 1) = true ∧
    after (.cinSample 15 4999 false) (contact 1 1) (fun t => t.rd (SUP_CIN_STAT.raw 15) = 1 && t.cinRun 15 = 9) = true ∧
    after (.cinSample 15 999 false) (contact 1 1) (fun t => t.rd (SUP_CIN_STAT.raw 15) = 2) = true ∧ after (.cinSample 15 99 false) (contact 1 1) (fun t => t.rd (SUP_CIN_STAT.raw 15) = 3) = true ∧
    after (.cinSample 15 99 true) (contact 1 1) (fun t => t.rd (SUP_CIN_STAT.raw 15) = 0) = true ∧ ((contact 1 1).wr (SUP_CIN_CFG.en 15) 0).isSet (SUP_CIN_CFG.en 15) = false ∧
    (contact 3 1).cinDue 15 = true ∧ (contact 3 1).isSet (SUP_CIN_CFG.sup_en 15) = true ∧ (contact 3 1).rd (SUP_CIN_STAT.raw 15) = 3 ∧
    after (.cinDebounceComplete 15) (contact 3 1) (fun t => t.rd (SUP_CIN_STAT.state 15) = 3 && t.isSet SUP_STATUS.cin_fault) = true := by decide +kernel

/-- Driver 15 on, with this current, and with trips in the last 10 s. -/
def driving (ma : Nat) (trips : List Word) : State :=
  { W [(SYS_STATE.state, 4), (SUP_DRV_CFG.on 15, 1), (SUP_DRV_CFG.deb 15, 8), (SUP_DRV_STAT.current 15, ma), (SUP_DRV_STAT.current 14, ma), (SUP_DRV_CFG.on 14, 1), (SUP_DRV_CFG.on 13, 1), (SUP_DRV_STAT.current 13, ma),
      (SUP_DRV_CFG.on 12, 1), (SUP_DRV_STAT.current 12, ma), (SUP_DRV_CFG.on 11, 1), (SUP_DRV_STAT.current 11, ma)] with
    field := { run.field with drvs := [(15, { drvDefault 15 with trips := trips, wireBad := 8 })] } }

theorem witness_ContactsDriversLines_drivers : (driving 0 []).drvConducts 15 = true ∧ run.drvConducts 15 = false ∧
    after (.drvOvercurrent 15) (driving 0 []) (fun t => (t.drv 15).retry && !(t.drv 15).latched) = true ∧
    after (.drvOvercurrent 15) (driving 0 [0, 0]) (fun t => (t.drv 15).latched) = true ∧ (driving 1000 []).drvTotal ≤ 5000 ∧ 5000 < (driving 1001 []).drvTotal ∧
    after .drvTotalOverload (driving 1001 []) (fun t => t.drvTotal ≤ 5000 && t.isSet SUP_STATUS.drv_shed) = true ∧
    (driving 0 []).isSet (SUP_DRV_STAT.wire_break 15) = false ∧ (driving 0 []).drvDeb 15 ≤ ((driving 0 []).drv 15).wireBad ∧
    after (.drvFaultDebounce 15) (driving 0 []) (fun t => t.isSet (SUP_DRV_STAT.wire_break 15)) = true ∧
    ((driving 0 []).wr (SUP_DRV_STAT.wire_break 15) 1).isSet (SUP_DRV_STAT.wire_break 15) = true ∧
    8 ≤ (({ driving 0 [] with field := { run.field with drvs := [(15, { drvDefault 15 with wireGood := 8 })] } } : State).drv 15).wireGood := by decide +kernel

/-- Monitor 31 with its record; the factor of its impedance is 1. -/
def line (m : LineMon) : State := { W [(SYS_STATE.state, 4), (SUP_LS_CFG.en 31, 1), (SUP_LS_KZ.kz 31, 1), (SUP_LS_DET.det_s 31, 2)] with field := { run.field with mons := [(31, m)] } }

theorem witness_ContactsDriversLines_lines : ((line (monDefault 31)).mon 31).learn = none ∧ ((line (monDefault 31)).mon 31).count < (line (monDefault 31)).lsDet 31 ∧ (line (monDefault 31)).monRuns 31 = true ∧
    (16383 : BitVec 25).toNat < 2 ^ 14 ∧ 2 ^ 14 ≤ (16384 : BitVec 25).toNat ∧ zOf ((line (monDefault 31)).rd (SUP_LS_KZ.kz 31)) (65536 : BitVec 25).toNat (1 : BitVec 25).toNat = some 100 ∧
    after (.lsEstimate 31 16383 1) (line (monDefault 31)) (fun t => t.reg (SUP_LS_Z 31) = 0xFFFFFFFF && (t.mon 31).cond = 3) = true ∧
    after (.lsEstimate 31 65536 1) (line (monDefault 31)) (fun t => t.reg (SUP_LS_Z 31) = 100) = true ∧
    (line ⟨3, 2, none, 0, false, none⟩).lsDet 31 ≤ ((line ⟨3, 2, none, 0, false, none⟩).mon 31).count ∧ ((line ⟨3, 2, none, 0, false, none⟩).mon 31).cond ≠ 0 ∧
    ¬((line ⟨3, 2, none, 0, false, none⟩).rd (SUP_LS_STAT.state 31) = 3) ∧
    after (.lsFaultDeclared 31) (line ⟨3, 2, none, 0, false, none⟩) (fun t => t.rd (SUP_LS_STAT.fault 31) = 3 && t.isSet SUP_STATUS.ls_fault) = true ∧
    after (.lsLearnStart .cp 31) (line (monDefault 31)) (fun t => t.rd (SUP_LS_STAT.state 31) = 1) = true ∧
    ((line ⟨0, 0, some 9, 900, false, none⟩).mon 31).learn.isSome = true ∧ ((line ⟨0, 0, some 9, 900, false, none⟩).mon 31).learn ≠ some 10 ∧
    ((line ⟨0, 0, some 10, 1000, false, none⟩).mon 31).learn = some 10 ∧
    after (.lsLearnDone 31) (line ⟨0, 0, some 10, 1000, false, none⟩) (fun t => t.reg (SUP_LS_REF 31) = 100 && t.rd (SUP_LS_STAT.state 31) = 2) = true := by decide +kernel

/-! ### Players, generators, zones, the tick -/

/-- Message 3 holds 4 samples and plays; chain 0 is that message twice, then a silence of 1 ms. -/
def playing (r : PlayRun) : State :=
  { run.setReg ENG_CYCLE 9 with msg := { run.msg with
      dir := [(3, { msgDefault 3 with valid := true, length := 4, data := mapOf (List.replicate 12 0) })]
      chains := [(0, [⟨1, 2, 3, 0⟩, ⟨2, 0, 1, 0⟩])]
      players := [(63, ⟨some r, none, false, []⟩)] } }

def notBegun : PlayRun := ⟨0, 2, none, none, 10, 0, false, 0, .enter, 0, 0, 0, 0, []⟩
def inPlay : PlayRun := ⟨0, 2, none, none, 9, 0, true, 0, .play, 4, 2, 3, 0, []⟩
def inSilence : PlayRun := ⟨0, 2, none, none, 9, 0, true, 1, .silence, 16, 0, 0, 0, []⟩

theorem witness_PlayersGeneratorsZones_players : ((playing notBegun).player 63).run = some notBegun ∧ notBegun.begun = false ∧ later32 10 ((playing notBegun).cycle + 1) = false ∧
    ((playing notBegun).chainStep 0 0).kind = 1 ∧ (playing notBegun).msgToPlay 3 = some 3 ∧ 0 < (playing notBegun).playLen 3 ∧ run.playFirstDue 63 1 = false ∧
    after (.playerFirstSample 63) (playing notBegun) (fun t => (t.player 63).run = some { notBegun with begun := true, seg := .play, msg := 3, left := 4, plays := 2 }) = true ∧
    inPlay.live (playing inPlay).cycle = true ∧ inPlay.left ≤ (playing inPlay).blk - ((playing inPlay).player 63).part.length ∧
    after (.chainStepAdvance 63) (playing inPlay) (fun t => (t.player 63).run = some { inPlay with seg := .gap, left := 0, pos := 4 }) = true ∧
    inSilence.left ≤ (playing inSilence).blk ∧ after (.chainStepAdvance 63) (playing inSilence) (fun t => (t.player 63).part.length = 16) = true ∧ (run.player 63).run = none ∧
    after (.playerUnderrun 63) (playing inPlay) (fun t => (t.player 63).starved && t.rd (MSG_CNT.underrun 63) = 1) = true ∧
    after (.scanVerify (.data 3) false) (playing inPlay) (fun t => (t.msgEntry 3).bad) = true ∧ ((playing inPlay).msgEntry 3).valid = true ∧ ((playing inPlay).msgEntry 3).bad = false := by decide +kernel

/-- Generator 31 runs a pattern of type 5 whose segment of 1 ms has 4 samples left. -/
def gen31 (type : Nat) : State :=
  { W [(SYS_STATE.state, 4), (GEN_CFG.en 31, 1), (GEN_CFG.type 31, type), (GEN_SEG_DUR.dur 31 0, 1)] with msg := { run.msg with gens := [(31, { genDefault 31 with on := true, pos := 44 })] } }

theorem witness_PlayersGeneratorsZones_generators : getFld (GEN_CFG.type 31) 0x50000000 < 6 ∧ run.isSet (GEN_CFG.en 31) = false ∧ (gen31 5).isSet (GEN_CFG.en 31) = true ∧
    syncedRun.genCfgWord 31 0x80000000 ≠ syncedRun.reg (GEN_CFG 31) ∧ after (.genEnableWrite .hb 31 0x80000000) syncedRun (fun t => t.isSet MSG_STATUS.wr_refused) = true ∧
    getFld (GEN_CFG.nseg 31) 7 ≠ (gen31 5).rd (GEN_CFG.nseg 31) ∧ after (.genEnableWrite .cp 31 7) (gen31 5) (fun t => t.isSet MSG_STATUS.wr_refused && t.rd (GEN_CFG.nseg 31) = 0) = true ∧
    ((gen31 5).gen 31).on = true ∧ 4 ≤ (gen31 5).rd (GEN_CFG.type 31) ∧ ((gen31 5).gen 31).pos < (gen31 5).segLen 31 0 ∧ (gen31 5).segLen 31 0 - 44 ≤ (gen31 5).blk ∧
    (gen31 3).rd (GEN_CFG.type 31) < 4 ∧ (run.gen 31).on = false := by decide +kernel

/-- Zone 31 on, in the cycle before its update; its microphone is a running decimation channel. -/
def zone31 : State := (W [(SYS_STATE.state, 4), (VIS_CFG.en 31, 1), (VIS_MIC.source 31, 0x4000), (DEC_STATUS.state 0, 2)]).setReg ENG_CYCLE 30

theorem witness_PlayersGeneratorsZones_zones : zone31.isSet (VIS_CFG.en 31) = true ∧ zone31.gateShut 8 = false ∧ zone31.visShed 31 = false ∧ zone31.visDue 31 (zone31.cycle + 1) = true ∧
    zone31.visDue 31 zone31.cycle = false ∧ (run.wr CLK_GATE_STAT.closed 256).gateShut 8 = true ∧ (run.wr (VIS_CFG.en 31) 0).isSet (VIS_CFG.en 31) = false ∧
    zone31.micStopped (zone31.rd (VIS_MIC.source 31)) = false := by decide +kernel

/-- The tick's hypotheses hold in RUN; outside it no tick runs. -/
theorem witness_EngineTick : run.engineRuns = true ∧ run.img.act = none ∧ run.boot.resetReq = none ∧ run.q.outst = [] ∧ State.reset.engineRuns = false := by decide +kernel

/-! ### Streams, links, time, references -/

/-- Both ports up; leg 3 of receive stream 0 (6 samples of 1 channel, 3 bytes) on port A, group 0xEF000001, UDP port 5004; stream running. -/
def receiving : State :=
  ((mgmtOn.setReg (STRM_LEG_CFG 3) 0xA000138C).setReg (STRM_LEG_GRP 3) 0xEF000001).wr (stState false 0) 2 |>.wr (stPtime false 0) 0 |>.wr (stL16 false 0) 0 |>.wr (stNch false 0) 0

def packet : StreamPkt :=
  { netb := false, dst := 0xEF000001, src := 9, udp := 5004, fcsOk := true, buffer := true, ipOk := true, udpOk := true, version := 2
    pt := BitVec.ofNat 7 (fieldOf (receiving.reg (STRM_RX_OFS 0)) 22 16), seq := 1, ts := 0, twoByte := false, ext := []
    payload := [0, 0, 1] ++ List.replicate 15 0, slack := 20 }

theorem witness_StreamsLinksDiscovery_packets : receiving.portOn (b2n packet.netb) = true ∧ run.portOn 0 = false ∧ receiving.legOf packet = some 3 ∧ receiving.legOf { packet with udp := 5005 } = none ∧
    receiving.reg (STRM_LEG_SRC 3) = 0 ∧ packet.payload.length = receiving.chans false 0 * receiving.pktLen false 0 * receiving.sampleBytes false 0 ∧
    receiving.pktTag packet = some none ∧ receiving.isSet (stMode false 0) = false ∧ receiving.isSet (stAsync false 0) = false ∧ 20 ≤ sval packet.slack ∧
    sval packet.slack + ((receiving.pktLen false 0 - 1) * 1000000 / receiving.rate false 0 : Nat) ≤ 100000 ∧ packet.seq ∉ (receiving.strm false 0).seqs ∧
    after (.streamPacketReceived packet) receiving (fun t => (t.strm false 0).seqs = [1] && (SMap.find (t.strm false 0).ring 0) = some (0, [fromPcm24 1])) = true ∧
    after (.streamPacketReceived { packet with fcsOk := false }) receiving (fun t => t.reg (NET_CNT_FCS 0) = 1) = true ∧
    after (.streamPacketReceived { packet with buffer := false }) receiving (fun t => t.reg (NET_CNT_OVF 0) = 1) = true := by decide +kernel

/-- Transmit stream 127 in a state, with 6 samples waiting. -/
def sending (st n : Nat) : State :=
  let s := ((mgmtOn.wr (stState true 127) st).wr (stPtime true 127) 0).wr (stAsync true 127) 0
  { s with net := { s.net with strms := [(127, { strmDefault 0 with buf := List.replicate n (0, 0, [0]) })] } }

theorem witness_StreamsLinksDiscovery_sends : (sending 2 6).pktLen true 127 ≠ 0 ∧ (sending 2 6).strmState true 127 = 2 ∧ (sending 2 6).isSet (stAsync true 127) = false ∧
    (sending 2 6).pktLen true 127 ≤ ((sending 2 6).strm true 127).buf.length ∧ (run.strmState true 127) < 2 ∧
    after (.streamPacketTransmit 127) (sending 2 6) (fun t => t.rd ⟨STRM_TX_SEQ 127, 0, 16⟩ = 1 && (t.strm true 127).buf = []) = true ∧
    (sending 3 0).txStopDue 127 ((sending 3 0).cycle + 1) = true ∧ (sending 2 0).txStopDue 127 1 = false ∧
    after (.streamTxStopEnd 127) (sending 3 0) (fun t => t.strmState true 127 = 0) = true ∧ receiving.strmState false 0 = 2 ∧ run.strmState false 0 ≠ 2 ∧
    after (.streamRxTimeout 0) receiving (fun t => t.shRd (stState false 0) = 1) = true := by decide +kernel

theorem witness_StreamsLinksDiscovery_links : (receiving.shReg (STRM_LEG_CFG 3)).getLsbD 29 = true ∧ (run.shReg (STRM_LEG_CFG 3)).getLsbD 29 = false ∧
    after (.legDown 3) receiving (fun t => t.isSet STRM_STATUS.leg_down) = true ∧ run.rd (NET_STATUS.link 0) = 0 ∧
    after (.linkSpeedChange false 2) run (fun t => t.rd (NET_STATUS.link 0) = 2 && t.rd (PTP_PHY.egress 0) = 184) = true ∧
    after (.linkSpeedChange true 1) run (fun t => t.rd (PTP_PHY.ingress 1) = 1216) = true ∧
    after (.igmpQueryReceived false true) receiving (fun t => t.net.sent = [.igmp 0 true false 0xEF000001 0] && t.net.v2 = [0]) = true ∧
    after (.arpRequestReceived false 5) (receiving.setReg (NET_IP 0) 5) (fun t => t.net.sent = [.arp 0 5]) = true ∧ run.flt.cpStopped = false ∧ run.net.sap.length < 256 ∧
    after (.sapAnnounceReceived 5 [1] false) run (fun t => t.net.sap = [⟨5, [1]⟩]) = true := by decide +kernel

/-- The PTP engine on both ports, port 1 a master; a step of −5 ns at tick 10. -/
def ptpState : State :=
  let s := (((mgmtOn.setReg ENG_CYCLE 9).wr PTP_CFG.en 1).wr PTP_CFG.ports 3).wr (ptpPortF 1) 6
  { s with ptp := { s.ptp with step := some (10, -5, false, none), dtime := 100 } }

/-- Diverged, with four equal measurements and automatic re-step. -/
def diverged : State :=
  let s := (run.wr PTP_CFG.auto_restep 1).wr PTP_STATUS.servo 4
  { s with ptp := { s.ptp with meas := [7, 7, 7, 7] } }

theorem witness_TimeAndReferences_time : ptpState.ptpOn 0 = true ∧ ptpState.portOn 0 = true ∧ (0 : BitVec 8).toNat = ptpState.rd PTP_CFG.domain ∧ (1 : BitVec 8).toNat ≠ ptpState.rd PTP_CFG.domain ∧
    (run.wr PTP_CFG.en 0).ptpOn 0 = false ∧ ptpState.flt.cpStopped = false ∧ ptpState.ptpState 1 = 6 ∧
    after (.ptpMessageReceived 0 0 .broken) ptpState (fun t => t.rd PTP_CNT.bad = 1) = true ∧
    after (.ptpMessageReceived 0 0 (.sync 3 true 0 0 1000)) ptpState (fun t => (t.ptpPort 0).sync = some (3, 1000 + (ptpState.rd (PTP_PHY.ingress 0) : Int), 0)) = true ∧
    after (.ptpMessageSend 1 .announce 0) ptpState (fun t => t.net.sent = [.ptp 1 2 0]) = true ∧
    ptpState.ptp.step = some (10, -5, false, none) ∧ later32 10 (ptpState.cycle + 1) = false ∧
    after .servoStep ptpState (fun t => t.ptp.dtime = 95 && t.servo = 2 && t.isSet PTP_STATUS.stepped && t.reg PTP_STEP_LO = 0xFFFFFFFB) = true ∧ run.ptp.step = none ∧
    later32 10 ((ptpState.setReg ENG_CYCLE 8).cycle + 1) = true ∧
    diverged.isSet PTP_CFG.auto_restep = true ∧ diverged.servo = 4 ∧ diverged.stable4 = true ∧ diverged.alarmPath = false ∧ run.stable4 = false ∧
    after .autoRestep diverged (fun t => t.ptp.step = some (1, -7, true, none)) = true ∧
    after .ptpDtimeLoRead { run with ptp := { run.ptp with dtime := 0x500000000 } } (fun t => t.reg PTP_DTIME_HI = 5) = true := by decide +kernel

/-- Monitor 2 enabled in a state; the clock about to lock. -/
def monIn (st : Nat) : State := W [(SYS_STATE.state, 4), (REF_MON.en 2, 1), (REF_MON.state 2, st), (REF_STATUS.pins, 7)]

def locking : State := { run with ref := { run.ref with mcNext := some mcLocked } }

theorem witness_TimeAndReferences_references : locking.ref.mcNext = some mcLocked ∧ locking.mc ≠ mcLocked ∧ run.ref.mcNext ≠ some mcLocked ∧
    after (.refLock 0) locking (fun t => t.mc = mcLocked && t.isSet REF_STATUS.locked) = true ∧
    (run.wr REF_STATUS.pull_busy 1).isSet REF_STATUS.pull_busy = true ∧ run.isSet REF_STATUS.pull_busy = false ∧
    (monIn 0).isSet (REF_MON.en 2) = true ∧ (monIn 0).refPresent 2 true = true ∧ (monIn 2).refPresent 2 false = false ∧ (monIn 0).monState 2 = 0 ∧ (monIn 4).monState 2 = 4 ∧
    (run.wr (REF_MON.en 2) 0).isSet (REF_MON.en 2) = false ∧
    after (.refPresenceChange 2 true) (monIn 0) (fun t => t.monState 2 = 1) = true ∧ after (.refPresenceChange 2 false) (monIn 2) (fun t => t.monState 2 = 0) = true ∧
    after (.refOutlierClear 2) (monIn 4) (fun t => t.monState 2 = 1) = true ∧ after (.refMeasurement 2 ⟨5, 0, 0, 0, 0⟩) (monIn 2) (fun t => t.rd (REF_MON.ppb 2) = 5) = true ∧
    (monIn 0).rd REF_STATUS.pins = 7 ∧ after (.refSelWrite .cp 6) (monIn 0) (fun t => t.rd REF_SEL.sel = 6) = true ∧ (5 : Fin 8).val ≠ (run.wr REF_STATUS.pins 3).rd REF_SEL.sel ∧
    (run.wr REF_STATUS.pins 3).rd REF_STATUS.pins ≠ 7 ∧ after (.refSelWrite .cp 5) (run.wr REF_STATUS.pins 3) (fun t => t.isSet REF_STATUS.wr_refused) = true ∧
    after (.refselChange 5) (monIn 0) (fun t => t.isSet REF_STATUS.pin_chg && t.boot.pins.refsel = 5) = true ∧
    ({ run with ref := { run.ref with ppsSeen := true } } : State).ref.ppsSeen = true ∧ (499999999 : Word).toNat < 500000000 ∧ run.ref.ppsSeen = false ∧
    after (.ppsOutPulse 499999999) { run with ref := { run.ref with ppsSeen := true } } (fun t => t.ref.ppsCount = 0) = true ∧
    after (.ppsOutPulse 500000000) { run with ref := { run.ref with ppsSeen := true } } (fun t => t.ref.ppsCount = 1) = true := by decide +kernel

/-! ### The pair -/

/-- A pair member in RUN with an attach state and a link state. -/
def member (astate link : Nat) (f : PairState → PairState) : State :=
  let s := W [(SYS_STATE.state, 4), (SYS_STATE.twin, 1), (PAIR_STATUS.astate, astate), (PAIR_LINK.state, link), (SYS_STATE.grade, 7)]
  { s with pair := f s.pair }

def same (p : PairState) : PairState := p

/-- A frame of the other unit with a good CRC, one of the unit itself, and one with a bad CRC. -/
def frameOf (claim : BitVec 16) (bad : Byte) : CeilFrame := ⟨1, claim, 0, 0, frameCrc claim 0 0 ^^^ bad, false⟩
def theirs : BitVec 16 := 0xE000
def own : BitVec 16 := 0xE400

theorem witness_PairPaths : run.twin = false ∧ (member 1 0 same).twin = true ∧ frameCrc theirs 0 0 = (frameOf theirs 0).crc ∧ frameCrc theirs 0 0 ≠ (frameOf theirs 1).crc ∧
    (member 1 0 same).ownUnit theirs = false ∧ (member 1 0 same).ownUnit own = true ∧ (member 1 0 same).pair.busLost = false ∧
    after (.ceilingFrameReceived (frameOf theirs 0)) (member 1 0 same) (fun t => t.partnerClaim = some theirs) = true ∧
    1 ∈ (member 1 0 (fun p => { p with lostArb := [1] })).pair.lostArb ∧ 1 ∉ (member 1 0 same).pair.lostArb ∧ 1 ∉ (member 1 0 same).pair.linesLost ∧
    after (.pairLineLost 1) (member 1 0 same) (fun t => t.pair.linesLost = [1] && !t.pair.busLost) = true ∧
    after (.pairLineLost 1) (member 1 0 (fun p => { p with linesLost := [0], claims := [(0, 5)] })) (fun t => t.pair.busLost && t.pair.claims = []) = true ∧
    (member 1 0 (fun p => { p with linesLost := [0, 1], busLost := true })).pair.linesLost = [0, 1] ∧
    after (.pairLineRecover 1) (member 1 0 (fun p => { p with linesLost := [0, 1], busLost := true, silent := true })) (fun t => t.pair.linesLost = [0] && !t.pair.silent) = true ∧
    (member 1 0 (fun p => { p with busLost := true })).silentNow = true ∧ (member 1 2 (fun p => { p with busLost := true })).silentNow = false ∧
    after .partnerSilence (member 1 0 (fun p => { p with busLost := true, claims := [(2, 5)] })) (fun t => t.pair.silent && t.pair.claims = []) = true ∧
    (member 1 0 same).pair.beaconLost = false ∧ after .beaconHeartbeatLost (member 1 0 same) (fun t => t.pair.beaconLost) = true := by decide +kernel

/-- A member with both network ports up, and a beacon that the partner could have sent. -/
def beaconing : State :=
  let s := W [(SYS_STATE.state, 4), (SYS_STATE.twin, 1), (⟨NET_CFG 0, 31, 1⟩, 1), (NET_STATUS.link 0, 2)]
  { s with pair := { s.pair with silent := true } }

def beaconHead : List Byte := leBytes 4 0x4250584C ++ [1, 2] ++ leBytes 2 7 ++ leBytes 2 theirs.toNat ++ List.replicate 14 0

theorem witness_PairBeacons : beaconing.portOn 0 = true ∧ beaconHead.length = 24 ∧ (beaconHead ++ beaconing.beaconTag beaconHead).length = 40 ∧
    (beaconHead ++ beaconing.beaconTag beaconHead).drop 24 = beaconing.beaconTag ((beaconHead ++ beaconing.beaconTag beaconHead).take 24) ∧
    leNat ((beaconHead ++ beaconing.beaconTag beaconHead).take 4) = 0x4250584C ∧
    beaconing.ownUnit (BitVec.ofNat 16 (leNat (((beaconHead ++ beaconing.beaconTag beaconHead).drop 8).take 2))) = false ∧ beaconing.pair.silent = true ∧
    after (.beaconReceived false [] true) beaconing (fun t => t.pair.beaconDrops = 1) = true := by decide +kernel

/-- A role change is due at tick 1; every solo pin of a LEAD is taken or not. -/
theorem witness_PairRoles : (member 3 2 (fun p => { p with role := some (1, true), mdtime := 77 })).pair.role = some (1, true) ∧ later32 1 ((member 3 2 same).cycle + 1) = false ∧
    after .handoverTick (member 3 2 (fun p => { p with role := some (1, true), mdtime := 77 })) (fun t => t.astate = 4 && t.ptp.dtime = 77) = true ∧
    after .handoverTick (member 4 2 (fun p => { p with role := some (1, false), pstate := 3 })) (fun t => t.astate = 3 && t.pair.role = none) = true ∧
    (member 4 2 same).pair.role = none ∧ later32 2 ((member 3 2 same).cycle + 1) = true ∧ (member 4 2 same).astate = 4 ∧ SharedOut.wclk ∉ (member 4 2 same).pair.taken ∧
    after (.driveSenseProbe .wclk (some false)) (member 4 2 same) (fun t => t.pair.taken = [.wclk]) = true ∧ (member 5 2 same).astate = 5 ∧
    ((member 5 2 same).wr PAIR_STATUS.synced_pair 1).synced = true ∧ (member 4 2 (fun p => { p with free := true })).drivesPin .wclk = true ∧
    ((member 5 2 same).wr PAIR_STATUS.synced_pair 1).drivesPin .wclk = false ∧
    after (.driveConflict .wclk) ((member 5 2 same).wr PAIR_STATUS.synced_pair 1) (fun t => t.pair.drvDiff) = true := by decide +kernel

/-- The unit wins with grade 7, the partner is silent. -/
def mayPower : State := (member 4 0 (fun p => { p with silent := true })).wr PAIR_CLAIM.own 0xE400

theorem witness_PairPower : mayPower.mayPulse = true ∧ mayPower.pair.silent = true ∧ ((mayPower.pulsesIn 3600).filter (fun p => p.2)).length < 3 ∧ mayPower.pulsesIn 60 = [] ∧
    run.mayPulse = false ∧ ({ mayPower with pair := { mayPower.pair with pulses := [(0, true)] } } : State).pulsesIn 60 ≠ [] ∧ claimGrade 0x3FFF = 1 := by decide +kernel

/-- Attach states with the link ACTIVE; a frame of the partner in its cycle 9. -/
def openOf (claim : BitVec 16) : CycleOpen := ⟨9, claim, 4, 7, none, 5, false⟩

theorem witness_MirrorLink : (member 4 0 same).pairRd PAIR_LINK.state = 0 ∧ (member 4 0 same).lanesNeeded ≤ ((member 4 0 same).goodLanes 7).length ∧ ((member 4 0 same).goodLanes 3).length < (member 4 0 same).lanesNeeded ∧
    after (.sundogLanesLock 7 20) (member 4 0 same) (fun t => t.pairRd PAIR_LINK.state = 1 && t.pairRd PAIR_LINK.latency = 20) = true ∧ (member 4 1 same).pairRd PAIR_LINK.state = 1 ∧
    after .sundogLinkUp ((member 4 1 same).wr (REF_MON.en 6) 1) (fun t => t.monState 6 = 1) = true ∧ ((member 4 1 same).wr (REF_MON.en 6) 1).monState 6 = 0 ∧
    after .linkDown (member 4 2 same) (fun t => t.pairRd PAIR_LINK.state = 0) = true ∧
    after (.cycleOpen (openOf theirs)) (member 3 2 same) (fun t => t.pair.pcycle = 9 && t.pair.mdtime = 5 && t.partnerClaim = some theirs) = true ∧
    (member 3 2 same).inLockstep = true ∧ (member 3 2 same).linkUp = true ∧ (member 1 2 same).inLockstep = false ∧ (member 1 1 same).linkUp = false ∧
    after (.cycleClose 9 32) (member 3 2 (fun p => { p with pcycle := 9 })) (fun t => t.pair.closed = some 32) = true ∧
    after (.input 0 31 [1] (some [2])) (member 3 2 same) (fun t => t.pair.mirrorPos = [31] && t.pair.mirrorBias = [2]) = true ∧
    (List.replicate 16 (0 : BitVec 64)).length = 16 ∧ (member 3 2 same).compares = true ∧ (member 1 2 same).compares = false ∧ (member 3 2 same).engineRuns = true ∧
    after (.cmdFrame [.power 5 true]) (member 3 2 same) (fun t => t.rd PWR_STATUS.pcond = 5 && t.pwr.phot2) = true := by decide +kernel

/-- An image with one region whose bytes are compared. -/
def comparing : State :=
  let s := member 3 2 same
  { s with img := { s.img with running := some (imageOf [⟨5, 0, 0, false, 0, 64, 0⟩]) } }

theorem witness_MirrorLink_state : comparing.img.running = some (imageOf [⟨5, 0, 0, false, 0, 64, 0⟩]) ∧
    (imageOf [⟨5, 0, 0, false, 0, 64, 0⟩]).regions.find? (fun r => r.id = (5 : BitVec 16).toNat) = some ⟨5, 0, 0, false, 0, 64, 0⟩ ∧
    after (.stateFrame 5 0 [1]) comparing (fun t => t.pair.stateDiff = some 5) = true ∧ after (.stateFrame 5 0 [0]) comparing (fun t => t.pair.stateDiff = none) = true := by decide +kernel

def mismatched (a : Nat) (mine theirs : Option (Bool × Bool)) (c : Word) : State := (member a 2 (fun p => { p with mis := some ⟨0, mine, theirs⟩ })).setReg ENG_CYCLE c

theorem witness_MirrorLink_mismatch : 9 ≤ since ((mismatched 4 none none 8).cycle + 1) 0 ∧ since ((mismatched 4 none none 7).cycle + 1) 0 < 9 ∧
    10 ≤ since ((mismatched 4 none none 9).cycle + 1) 0 ∧ since ((mismatched 4 none none 8).cycle + 1) 0 < 10 ∧ (mismatched 4 none none 9).astate = 4 ∧
    after .pairDecision (mismatched 4 (some (true, false)) (some (false, false)) 9) (fun t => t.rd PAIR_MISMATCH.decision = 3 && t.pair.demoted) = true ∧
    after .pairDecision (mismatched 4 (some (false, false)) (some (true, false)) 9) (fun t => t.rd PAIR_MISMATCH.decision = 2) = true ∧
    after .pairDecision (mismatched 4 (some (true, true)) (some (true, true)) 9) (fun t => t.rd PAIR_MISMATCH.decision = 4) = true ∧ run.pair.mis = none := by decide +kernel

/-- What the partner must show for an attach to go on. -/
def peer (s : State) : PeerInfo := ⟨0, true, s.reg OVR_LIVE_CRC, s.rd PAIR_HOME.home_b = 1, s.fwVersion, 7⟩

def attaching (x : Attach) (a : Nat) : State := member a 2 (fun p => { p with attach := some x })

theorem witness_MirrorLink_attach : (member 4 2 (fun p => { p with pstate := 1 })).attachReady = true ∧ ((member 4 2 same).wr PAIR_CFG.auto_attach 1).autoAttach = true ∧
    (member 4 2 (fun p => { p with pstate := 1 })).attachCheck (peer (member 4 2 same)) = none ∧
    (member 4 2 (fun p => { p with pstate := 1 })).attachCheck { peer (member 4 2 same) with tablesSame := false } = some 2 ∧ run.attachReady = false ∧
    ((member 4 2 same).wr PAIR_CFG.auto_attach 0).autoAttach = false ∧ (member 4 2 same).pair.attachCmd = none ∧ (member 2 2 same).astate = 2 ∧
    after (.bulk (.mem 0x10000000 [7])) (member 2 2 same) (fun t => t.byte 0x10000000 = 7) = true ∧ after (.bulk (.reg 0x40000010 7)) (member 2 2 same) (fun t => t.reg 0x40000010 = 7) = true ∧
    after (.bulk (.mem 0x10000000 [7])) (member 3 2 same) (fun t => t.astate = 1) = true ∧
    (attaching ⟨true, none, 0⟩ 4).pair.attach = some ⟨true, none, 0⟩ ∧ later32 (attaching ⟨true, none, 0⟩ 4).cycle 8 = false ∧ 8 ≤ since 8 (attaching ⟨true, none, 0⟩ 4).cycle ∧
    after (.bulkCopyComplete 8 3) (attaching ⟨true, none, 0⟩ 4) (fun t => t.pair.attach = some ⟨true, some 8, 3⟩) = true ∧ later32 1 ((attaching ⟨false, some 1, 4⟩ 2).cycle + 1) = false ∧
    after .cutoverTick (attaching ⟨false, some 1, 4⟩ 2) (fun t => t.astate = 3 && t.op = .run) = true ∧ run.pair.attach = none := by decide +kernel

/-- A standby away from home whose regions have matched for 16 cycles; one at home due to reclaim. -/
def standby (home n : Nat) : State :=
  (((member 3 2 same).wr PAIR_HOME.home_b home).setReg PAIR_MATCH (BitVec.ofNat 32 n)).wr PAIR_CFG.reclaim_en 1

theorem witness_MirrorLink_promotion : (standby 1 16).isHome = false ∧ (standby 0 16).isHome = true ∧ 16 ≤ ((standby 1 16).reg PAIR_MATCH).toNat ∧ ((standby 1 15).reg PAIR_MATCH).toNat < 16 ∧
    after .standbyPromotion (standby 1 16) (fun t => t.astate = 5) = true ∧ (standby 0 999).reclaimDue 0xFFFFFFFF = false ∧ ((standby 0 1000).setReg ENG_CYCLE 0xFFFFFFF0).reclaimDue 0xFFFFFFF1 = true ∧
    after .reclaimPromotion ((standby 0 1000).setReg ENG_CYCLE 0xFFFFFFF0) (fun t => t.astate = 5 && !t.pair.withheld) = true := by decide +kernel

/-! ### Commands of the rings -/

/-- A command at the head of its running ring, with nothing dead and no command queued. -/
def atB (s : State) (c : Cmd) : Bool :=
  c.origin == .ring && s.engineRuns && s.op != .nightfall && s.ringRun c.ring.val && decide (s.rd (CMD_RING_CFG.size c.ring.val) ≤ 4)
    && s.hasRoom c.ring.val && (!c.fence || s.outstanding c.ring.val == 0) && !s.cpDown && s.q.fetched.isEmpty && s.q.ring0q.isEmpty
    && s.flt.dead.isEmpty

theorem at_of (s : State) (c : Cmd) (h : atB s c = true) : AtHead s c := by
  simp only [atB, Bool.and_eq_true, beq_iff_eq, decide_eq_true_eq, Bool.not_eq_true', List.isEmpty_iff, bne_iff_ne, Bool.or_eq_true] at h
  obtain ⟨⟨⟨⟨⟨⟨⟨⟨⟨⟨h1, h2⟩, h3⟩, h4⟩, h5⟩, h6⟩, h7⟩, h8⟩, h9⟩, h10⟩, h11⟩ := h
  refine ⟨h1, h2, h3, h4, h5, h6, fun hf => ?_, h8, ⟨by simp [h9], fun _ => h10⟩, fun x _ _ => ?_⟩
  · rcases h7 with h7 | h7
    · simp [hf] at h7
    · exact h7
  · rw [h11]; rfl

/-- The header passes its checks. -/
def headB (s : State) (c : Cmd) (p : OpSpec) : Bool :=
  c.op == p.op && decide (p.lo + (if c.xreply then 2 else 0) ≤ c.len.toNat)
    && decide (c.len.toNat ≤ min 64 (p.hi + (if c.xreply then 2 else 0))) && decide (c.flags.toNat < 32) && c.resv == 0
    && decide (p.rlo ≤ c.ring.val) && decide (c.ring.val ≤ p.rhi) && !s.tagTaken c && replyBufOk c

theorem head_of (s : State) (c : Cmd) (p : OpSpec) (h : headB s c p = true) : HeadOk s c p := by
  simp only [headB, Bool.and_eq_true, beq_iff_eq, decide_eq_true_eq, Bool.not_eq_true'] at h
  obtain ⟨⟨⟨⟨⟨⟨⟨⟨h1, h2⟩, h3⟩, h4⟩, h5⟩, h6⟩, h7⟩, h8⟩, h9⟩ := h
  exact ⟨h1, ⟨h2, h3⟩, h4, h5, ⟨h6, h7⟩, h8, h9⟩

/-- One object. -/
def oneB (c : Cmd) (p : OpSpec) : Bool :=
  c.scope == 0 && (c.cls.toNat == p.cls || c.cls.toNat == p.cls2) && classHas c.cls.toNat c.index.toNat

theorem one_of (c : Cmd) (p : OpSpec) (h : oneB c p = true) : OneTarget c p := by
  simp only [oneB, Bool.and_eq_true, beq_iff_eq, Bool.or_eq_true] at h
  exact ⟨h.1.1, h.1.2, h.2⟩

/-- A state that meets the hypotheses of a command on one object. -/
def readyB (s : State) (c : Cmd) (p : OpSpec) : Bool := atB s c && !s.inLockstep && !s.forwards && headB s c p && oneB c p

theorem ready_of (s : State) (c : Cmd) (p : OpSpec) (h : readyB s c p = true) : Ready s c p := by
  simp only [readyB, Bool.and_eq_true, Bool.not_eq_true'] at h
  exact ⟨at_of s c h.1.1.1.1, ⟨h.1.1.1.2, h.1.1.2⟩, head_of s c p h.1.2, one_of c p h.2⟩

/-- Whether the parameters lie in their masks. -/
def maskB (c : Cmd) (k : Nat) (ms : List Nat) : Bool := (List.range ms.length).all (fun j => within (c.p (k + j)) (ms.getD j 0))

theorem masks_of (c : Cmd) (k : Nat) (ms : List Nat) (h : maskB c k ms = true) : InMasks c k ms := by
  intro j hj
  simp only [maskB, List.all_eq_true, List.mem_range] at h
  exact h j hj

/-- The earliest apply cycle holds. -/
def applyB (s : State) (c : Cmd) : Bool :=
  match applyOf c s with
  | .ok a => a == s.earliest
  | .error _ => false

/-- A command of an opcode on object k, with parameters, at the earliest cycle, on the opcode's first ring. -/
def cmdFor (r : OpRow) (k : Nat) (ps : List Nat) : Cmd :=
  { ring := Fin.ofNat 16 r.spec.rlo, op := r.spec.op, len := BitVec.ofNat 8 (4 + ps.length), flags := 0, tag := 1, resv := 0, scope := 0
    cls := BitVec.ofNat 6 r.spec.cls, index := BitVec.ofNat 24 k, apply := 0, xaddr := 0, xlen := 0, params := ps.map (BitVec.ofNat 32), slot := 0
    origin := .ring }

/-- RUN with every ring running. -/
def live : State :=
  W ((SYS_STATE.state, 4) :: (List.range 16).flatMap (fun n => [(CMD_RING_STAT.state n, 1), (CMD_RING_PBASE.addr n, 0x10100400 + 0x400 * n)]))

/-- live with more fields set. -/
def liveW (l : List (Fld × Nat)) : State := l.foldl (fun s p => s.wr p.1 p.2) live

/-- A command passes its checks, and its condition holds. -/
def goes (s : State) (r : OpRow) (c : Cmd) (cond : Bool) : Bool := readyB s c r.spec && applyB s c && cond

/-- A command goes and is accepted. -/
def waitsOn (i : Cmd → Instr) (s : State) (r : OpRow) (c : Cmd) (cond : Bool) : Bool :=
  goes s r c cond && after (i c) s (fun t => t.q.outst.map (fun o => (o.cmd, o.apply, o.due.isNone)) == [(c, s.earliest, true)])

/-- Slot 0 is VALID. -/
def slotGood : State := live.setImgSlot 0 { live.imgSlot 0 with state := .valid }

/-- The running image gives quad 0 a program and a parameter of one word, id 7. -/
def strips : State :=
  let im := { imageOf [] with blocks := [⟨false, 0, 1, 0, 0, [], [⟨7, 0, 1, 0, 0⟩]⟩] }
  { live with img := { live.img with running := some im, quads := [(0, { quadZero with disp := { quadZero.disp with bypass := false } })] } }

/-- Chain 0 is a gap and an end. -/
def chained : State := { live with msg := { live.msg with chains := [(0, [⟨2, 0, 1, 0⟩])] } }

/-- A pair member with these roles, the link up. -/
def paired (astate pstate : Nat) : State :=
  let s := liveW [(SYS_STATE.twin, 1), (SYS_STATE.grade, 7), (PAIR_STATUS.astate, astate), (PAIR_CLAIM.own, 0xE400), (PAIR_LINK.state, 2)]
  let t := { s with pair := { s.pair with pstate := pstate } }
  t

theorem witness_TimedCommands :
    (let c := cmdFor opSysState 0 [4]; waitsOn .sysState live opSysState c (decide ((c.p 0).toNat ≤ 5))) ∧
    (let c := cmdFor opSysReset 0 [0xA55A0001]; waitsOn .sysReset live opSysReset c (decide ((c.p 0).toNat / 2 * 2 = 0xA55A0000))) ∧
    (let c := cmdFor opGroupDef 63 (2 :: 3 :: List.replicate 31 0); waitsOn .groupDef live opGroupDef c (decide (2 ≤ (c.p 0).toNat ∧ (c.p 0).toNat ≤ 15 ∧
      (c.p 0).toNat ≠ 5) && !live.groupPending 63 && (List.range 1024).all (fun j => !(c.p (1 + j / 32)).getLsbD (j % 32) || classHas (c.p 0).toNat j))) ∧
    (let c := cmdFor opRegWrite 0 [SYS_ID, 1]; waitsOn .regWrite live opRegWrite c (decide ((c.p 0).toNat % 4 = 0) &&
      (List.range (c.params.length - 1)).all (fun j => regAssigned ((c.p 0).toNat + 4 * j) && !regClosed ((c.p 0).toNat + 4 * j)))) ∧
    (let c := cmdFor opRegRmw 0 [SYS_ID, 1, 1]; waitsOn .regRmw live opRegRmw c (decide ((c.p 0).toNat % 4 = 0) && regAssigned (c.p 0).toNat && !regClosed (c.p 0).toNat)) ∧
    (let c := cmdFor opPatchIn 1023 [0x4000]; waitsOn .patchIn live opPatchIn c (decide ((c.p 0).toNat < 2 ^ 22) && validSource ((c.p 0).toNat % 65536) &&
      !live.patchProtected 0 1023 && !live.synced)) ∧
    (let w := putFld PATCH_REQ1.op 0 2; let c := cmdFor opSinkSet 0 [w.toNat, 0];
     waitsOn .sinkSet live opSinkSet c (maskB c 0 [cfgMask PATCH_REQ1, if getFld PATCH_REQ1.op (c.p 0) = 1 then 0x3FF else 0] &&
      decide (1 ≤ getFld PATCH_REQ1.op (c.p 0) ∧ getFld PATCH_REQ1.op (c.p 0) ≤ 4 ∧ getFld PATCH_REQ1.entry (c.p 0) < 1032) &&
      !live.patchProtected (getFld PATCH_REQ1.op (c.p 0)) (getFld PATCH_REQ1.entry (c.p 0)))) ∧
    (let c := cmdFor opXptNode 1048575 [0x40000000]; waitsOn .xptNode live opXptNode c (!live.inDusk 4 && !live.colShed (c.index.toNat / 1024))) ∧
    (let c := cmdFor opXptCol 1023 [1022, 1, 2]; waitsOn .xptCol live opXptCol c (decide ((c.p 0).toNat + (c.params.length - 1) ≤ 1024 ∧ (c.p 0).toNat < 1024) &&
      !live.inDusk 4 && !live.colShed 1023)) ∧
    (let c := cmdFor opCapture 0 [0xE00003FF]; waitsOn .capture live opCapture c (maskB c 0 [0xF00003FF] && decide (fieldOf (c.p 0) 29 28 ≠ 3) &&
      !live.capTaken (fieldOf (c.p 0) 31 30))) ∧
    (let c := cmdFor opParamWrite 3 [7, 9]; waitsOn .paramWrite strips opParamWrite c (decide ((c.p 0).toNat < 2 ^ 24) && firstOf (strips.paramWriteChecks c 3) == none)) ∧
    (let c := cmdFor opImgPin 0 [0]; waitsOn .imgPin slotGood opImgPin c (decide ((c.p 0).toNat ≤ 1) && (slotGood.imgSlot (c.p 0).toNat).state == .valid)) := by
  decide +kernel

theorem witness_TimedCommands_ports :
    (let c := cmdFor opSpConfig 15 [0, 0, 0, 0, 0]; waitsOn .spConfig live opSpConfig c (maskB c 0 (spRegs 15 |>.map cfgMask) && !live.objDown 6 15)) ∧
    (let c := cmdFor opSpCtrl 15 [3]; waitsOn .spCtrl live opSpCtrl c (decide ((c.p 0).toNat ≤ 3) && !live.objDown 6 15)) ∧
    (let c := cmdFor opSpMask 15 [0xFFFFFFFF, 0xFFFFFFFF]; waitsOn .spMask live opSpMask c (!live.objDown 6 15)) ∧
    (let c := cmdFor opDecConfig 31 [0, 0, 0, 0]; waitsOn .decConfig live opDecConfig c (maskB c 0 (decRegs 31 |>.map cfgMask) && !live.objDown 0x0A 31)) ∧
    (let c := cmdFor opDecTaps 31 [95, 5]; waitsOn .decTaps live opDecTaps c (decide ((c.p 0).toNat + (c.params.length - 1) ≤ 96) && !live.objDown 0x0A 31)) ∧
    (let c := cmdFor opDecCtrl 31 [1]; waitsOn .decCtrl live opDecCtrl c (decide ((c.p 0).toNat ≤ 1) && !live.objDown 0x0A 31)) ∧
    (let c := cmdFor opDecClock 0 [0, 0, 0, 0, 0]; waitsOn .decClock live opDecClock c (maskB c 0 (decClockRegs.map cfgMask) && !live.gateShut 4)) ∧
    (let c := cmdFor opAnaIn 7 [0, 0]; waitsOn .anaIn live opAnaIn c (maskB c 0 [cfgMask (ANA_IN_CFG 7), cfgMask (ANA_BIAS_THR 7)])) ∧
    (let c := cmdFor opAnaOut 7 [0]; waitsOn .anaOut live opAnaOut c (maskB c 0 [cfgMask (ANA_OUT_CFG 7)])) ∧
    (let c := cmdFor opNetConfig 0 [1, 0, 0, 0, 0, 0, 0]; waitsOn .netConfig live opNetConfig c (maskB c 0 (1 :: (netRegs (fieldOf (c.p 0) 0 0)).map cfgMask) && !live.portDown (c.p 0).toNat)) ∧
    (let c := cmdFor opStrmTxSetup 127 (List.replicate 7 0); waitsOn .strmTxSetup live opStrmTxSetup c (maskB c 0 txMasks && decide (c.index.toNat < 256))) ∧
    (let c := cmdFor opStrmRxSetup 256 (List.replicate 16 0); waitsOn .strmRxSetup live opStrmRxSetup c (maskB c 0 rxMasks && decide (256 ≤ c.index.toNat))) ∧
    (let c := cmdFor opStrmCtrl 383 [1]; waitsOn .strmCtrl live opStrmCtrl c (decide ((c.p 0).toNat ≤ 1))) ∧
    (let c := cmdFor opStrmTag 0 [15]; waitsOn .strmTag live opStrmTag c (decide ((c.p 0).toNat ≤ 15))) ∧
    (let c := cmdFor opPtpConfig 0 (List.replicate 7 0); waitsOn .ptpConfig live opPtpConfig c (maskB c 0 (ptpRegs.map cfgMask) && decide (getFld PTP_CFG.profile (c.p 0) ≠ 3) && ptpIntvOk c)) ∧
    (let c := cmdFor opPtpRestep 0 []; waitsOn .ptpRestep live opPtpRestep c true) ∧
    (let c := cmdFor opRefSelect 0 [6]; waitsOn .refSelect live opRefSelect c (decide ((c.p 0).toNat ≤ 6))) := by
  decide +kernel

theorem witness_TimedCommands_media :
    (let c := cmdFor opChainWrite 0 (4095 :: List.replicate 32 0); waitsOn .chainWrite live opChainWrite c (decide ((c.p 0).toNat < 4096) &&
      (List.range 16).all (fun j => (chainStepOf c j).ok && decide ((c.p (2 + 2 * j)).toNat < 65536)))) ∧
    (let c := cmdFor opPlayStart 0 [0x50000]; waitsOn .playStart chained opPlayStart c (maskB c 0 [0x70FFF] && (decide (fieldOf (c.p 0) 18 16 < 5) || decide (c.ring.val < 4)) &&
      chained.chainOk 0)) ∧
    (let c := cmdFor opPlayStop 0 []; waitsOn .playStop live opPlayStop c true) ∧
    (let c := cmdFor opGenCtrl 0 [7, 0, 0]; waitsOn .genCtrl live opGenCtrl c (decide ((c.p 0).toNat ≤ 7))) ∧
    (let c := cmdFor opCinConfig 15 [0]; waitsOn .cinConfig live opCinConfig c (maskB c 0 [cfgMask (SUP_CIN_CFG 15)])) ∧
    (let c := cmdFor opDrvConfig 7 [0]; waitsOn .drvConfig live opDrvConfig c (maskB c 0 [cfgMask (SUP_DRV_CFG 7)])) ∧
    (let c := cmdFor opGpioConfig 0 [0, 0, 0]; waitsOn .gpioConfig live opGpioConfig c (maskB c 0 (gpioRegs.map cfgMask))) ∧
    (let c := cmdFor opLsLearn 0 [31]; waitsOn .lsLearn live opLsLearn c (decide ((c.p 0).toNat < 32))) ∧
    (let c := cmdFor opPairConfig 0 [0, 0, 0, 0]; waitsOn .pairConfig live opPairConfig c (maskB c 0 (pairRegs.map cfgMask))) ∧
    (let c := cmdFor opPairAttach 0 []; let s := paired 1 4; waitsOn .pairAttach s opPairAttach c (s.twin && s.linkUp && s.attachable)) ∧
    (let c := cmdFor opPairYield 0 []; let s := (let t := paired 4 1; { t with pair := { t.pair with claims := [(0, 0xE000)] } });
     waitsOn .pairYield s opPairYield c (s.twin && s.mayYield)) ∧
    (let c := cmdFor opTwpcPulse 0 []; let s := paired 4 1; waitsOn .twpcPulse s opTwpcPulse c s.mayPulse) ∧
    (let c := cmdFor opSelftest 0 [0]; waitsOn .selftest live opSelftest c (decide ((c.p 0).toNat < 2 ^ 24 ∧ (c.p 0).toNat / 16 % 16 = 0 ∧ (c.p 0).toNat % 16 ≤ 7) &&
      testResOk (selftestKind c) (selftestRes c))) ∧
    (let c := cmdFor opMemDusk 0 [0]; waitsOn .memDusk live opMemDusk c (maskB c 0 [cfgMask MEM_DUSK])) ∧
    (let c := cmdFor opWispConfig 0 [0]; waitsOn .wispConfig live opWispConfig c (maskB c 0 [cfgMask MEM_WISP_CFG])) ∧
    (let c := cmdFor opKeyRevoke 0 [2, 0x4B564552]; waitsOn .keyRevoke live opKeyRevoke c (decide ((c.p 0).toNat ≤ 2) && c.p 1 == 0x4B564552)) ∧
    (let c := cmdFor opMgmtKey 0 (1 :: List.replicate 8 0); waitsOn .mgmtKey live opMgmtKey c (decide ((c.p 0).toNat ≤ 1))) ∧
    (let c := cmdFor opJtagLock 0 [0x4A544C4B]; waitsOn .jtagLock live opJtagLock c (c.p 0 == 0x4A544C4B)) ∧
    (let c := cmdFor opWpSet 0 (1 :: List.replicate 4 0); waitsOn .wpSet live opWpSet c (decide ((c.p 0).toNat ≤ 1))) ∧
    (let c := cmdFor opLogMark 0 [0, 0, 0, 0]; waitsOn .logMark live opLogMark c true) ∧
    (let c := cmdFor opOvrStage 63 (List.replicate 16 0); waitsOn .ovrStage live opOvrStage c (maskB c 0 ((List.range 16).map (fun k => 0xFFFFFFFF - ovrReserved k)) &&
      !live.isSet OVR_STATUS.armed)) ∧
    (let c := cmdFor opOvrStageMask 0 (63 :: List.replicate 32 1); waitsOn .ovrStageMask live opOvrStageMask c (decide ((c.p 0).toNat < 64) && !live.isSet OVR_STATUS.armed)) ∧
    (let c := cmdFor opOvrArm 0 [65535]; waitsOn .ovrArm live opOvrArm c (decide ((c.p 0).toNat < 65536))) ∧
    (let c := cmdFor opOvrColclass 1023 [7]; waitsOn .ovrColclass live opOvrColclass c (decide ((c.p 0).toNat ≤ 7))) := by
  decide +kernel

/-- A later cycle is held in the pending table. -/
theorem witness_TimedCommands_later : (let c := { cmdFor opSpMask 15 [1, 2] with apply := 9 }
    readyB live c opSpMask.spec && (match applyOf c live with | .ok a => a == 9 | .error _ => false) && live.pendFree c.ring.val && !live.objDown 6 15 &&
      after (.spMask c) live (fun t => t.q.outst.map (fun o => (o.apply, o.holds)) == [(9, true)] && t.rd CMD_PEND.free == 1023)) := by decide +kernel

/-- A command is fetched, or waits, in the ways of R389. -/
theorem witness_RingArrival : (let c := cmdFor opMemRead 0 [0, 16]
    let i := Instr.memRead c
    let full := liveW [(CMD_RING_STAT.outstanding 4, 16)]
    let busy := liveW [(CMD_RING_STAT.outstanding 4, 1)]
    let down : State := { live with flt := { live.flt with cpStopped := true } }
    i.packet == some (opMemRead.spec.op, c) && c.op == opMemRead.spec.op && c.origin == .ring && c.ring == 4 &&
      !State.reset.engineRuns && after i State.reset (fun t => t.q.outst.isEmpty && t.rd (CMD_RING_CI.cpi 4) == 0) &&
      !run.ringRun 4 && after i run (fun t => t.q.outst.isEmpty && t.rd (CMD_RING_CI.cpi 4) == 0) &&
      full.engineRuns && full.ringRun 4 && !full.hasRoom 4 && after i full (fun t => t.rd (CMD_RING_STAT.cq_stall 4) == 1) &&
      busy.hasRoom 4 && busy.engineRuns && busy.ringRun 4 && busy.outstanding 4 != 0 && (let f := { c with flags := 0x08 }
        f.fence && after (.memRead f) busy (fun t => t.rd (CMD_RING_CI.cpi 4) == 0)) &&
      down.engineRuns && down.ringRun 4 && down.hasRoom 4 && !c.fence && down.cpDown && decide (down.rd (CMD_RING_CFG.size 4) ≤ 4) &&
      after i down (fun t => t.q.fetched == [c]) &&
      (let d := { cmdFor opNop 0 [] with ring := 0 }
       !isTrigOp opNop.spec.op && decide (down.q.ring0q.length < 32) && down.hasRoom 0 && down.ringRun 0 && after (.nop d) down (fun t => t.q.ring0q == [d]))) := by
  decide +kernel

/-- Each check of R540 is the first that fails somewhere. -/
theorem witness_PacketChecks : (let c := cmdFor opNop 0 []
    let st (c : Cmd) (n : Nat) : Bool := after (.nop c) live (fun t => (t.memWord (live.entryAddr c.ring.val)).toNat / 65536 % 256 == n)
    let p := opNop.spec
    let taken : State := { live with q := { live.q with outst := [⟨c, 9, .waiting, false, 1, none, [0], []⟩] } }
    readyB live c p && st c 0 && st { c with len := 3 } 0x43 && st { c with len := 65 } 0x43 &&
      (let e := { cmdFor opOvrAssert 0 [] with ring := 15 }
       decide (opOvrAssert.spec.rhi < 15) && after (.ovrAssert e) live (fun t => (t.memWord (live.entryAddr 15)).toNat / 65536 % 256 == 0x50)) &&
      st { c with len := 5, params := [0] } 0x43 && decide (p.hi < 5) &&
      taken.tagTaken c && after (.nop c) taken (fun t => t.isSet CMD_STATUS.viol && (t.memWord (live.entryAddr 0)).toNat / 65536 % 256 == 0x44) &&
      (let e := { c with cls := 2 }
       (targetsOf p e live).isNone && st e 0x41) &&
      (let e := { c with flags := 0x10, len := 6, xaddr := 1, xlen := 16 }
       e.xreply && !replyBufOk e && (targetsOf p e live).isSome && st e 0x42)) := by decide +kernel

/-- A command passes its checks and is answered at once, with this true of the next state. -/
def answersNow (i : Cmd → Instr) (s : State) (r : OpRow) (c : Cmd) (cond : Bool) (p : State → Bool) : Bool :=
  readyB s c r.spec && cond && after (i c) s (fun t => t.rd (CMD_RING_CI.cpi c.ring.val) == s.rd (CMD_RING_CI.cpi c.ring.val) + 1 &&
    (t.memWord (s.entryAddr c.ring.val)).toNat / 65536 % 256 == 0 && p t)

/-- The first reply word. -/
def reply0 (s : State) (c : Cmd) (t : State) : Word := t.memWord (s.entryAddr c.ring.val + 16)

theorem witness_ReadCommands :
    (let c := cmdFor opNop 0 []; answersNow .nop live opNop c true (fun _ => true)) ∧
    (let c := cmdFor opSysInfo 0 []; answersNow .sysInfo live opSysInfo c true (fun t => reply0 live c t == live.reg SYS_ID)) ∧
    (let c := cmdFor opPairRead 0 []; answersNow .pairRead live opPairRead c true (fun t => reply0 live c t == live.reg PAIR_STATUS)) ∧
    (let c := cmdFor opGroupRead 63 []; answersNow .groupRead live opGroupRead c true (fun t => reply0 live c t == 0)) ∧
    (let c := cmdFor opXptRead 1023 [1, 1023 * 65536 + 1]; answersNow .xptRead live opXptRead c (!live.inDusk 4) (fun t => reply0 live c t == live.gain ((live.col 1023).bank != true) 1023 1023)) ∧
    (let c := cmdFor opMeterRead 0 [2047, 1]; answersNow .meterRead live opMeterRead c true (fun t => reply0 live c t == live.reg (PATCH_MTR_PEAK 2047))) ∧
    (let c := cmdFor opAsrcRead 5 []; let s := liveW [(ASRC_CH.used 5, 1)]; answersNow .asrcRead s opAsrcRead c (!s.gateShut 5 && s.isSet (ASRC_CH.used 5)) (fun t => reply0 s c t == s.reg (ASRC_CH 5))) ∧
    (let c := cmdFor opTimeRead 0 []; answersNow .timeRead live opTimeRead c live.ptp.stepTick.isNone (fun _ => true)) ∧
    (let c := cmdFor opImgStatus 0 []; let s := { live with img := { live.img with running := some (imageOf []) } }
     answersNow .imgStatus s opImgStatus c s.img.running.isSome (fun t => t.memWord (s.entryAddr 0 + 20) == 1)) ∧
    (let c := cmdFor opSupRead 0 []; answersNow .supRead live opSupRead c true (fun t => reply0 live c t == live.reg SUP_STATUS)) ∧
    (let c := cmdFor opSecStatus 0 []; answersNow .secStatus live opSecStatus c true (fun _ => true)) ∧
    (let c := cmdFor opLogRead 0 [0, 2048]; answersNow .logRead live opLogRead c (!c.xreply && !later32 live.logOldest 0) (fun t => reply0 live c t == live.logOldest)) ∧
    (let c := cmdFor opOvrRead 63 []; answersNow .ovrRead live opOvrRead c true (fun _ => true)) ∧
    (let c := cmdFor opSapRead 0 [255]; answersNow .sapRead live opSapRead c (decide (live.net.sap.length ≤ 256)) (fun t => reply0 live c t == 0)) ∧
    (let c := cmdFor opParamRead 3 [7]; answersNow .paramRead strips opParamRead c (!strips.bypassStrip 2 3 && !strips.shedStrip 2 3 && !strips.stripDown 2 3 && (strips.paramOf 2 3 7).isSome)
      (fun t => reply0 strips c t == 0x100)) := by decide +kernel

/-- A refusal with a status, at once. -/
def refusedWith (n : Nat) (i : Cmd → Instr) (s : State) (r : OpRow) (c : Cmd) (cond : Bool) : Bool :=
  readyB s c r.spec && cond && after (i c) s (fun t => (t.memWord (s.entryAddr c.ring.val)).toNat / 65536 % 256 == n && t.q.outst == s.q.outst)

theorem witness_TimedWithCondition :
    (let thr (sa an no : Nat) : Cmd := cmdFor opCinThr 0 [0, (putFld (SUP_CIN_THR0.an 0) (putFld (SUP_CIN_THR0.sa 0) 0 sa) an).toNat, (putFld (SUP_CIN_THR1.no 0) 0 no).toNat]
     let m (c : Cmd) : Bool := maskB c 0 [1, cfgMask (SUP_CIN_THR0 0), cfgMask (SUP_CIN_THR1 0)]
     waitsOn .cinThr live opCinThr (thr 1 2 3) (m (thr 1 2 3)) && refusedWith 0x42 .cinThr live opCinThr (thr 1 1 3) (m (thr 1 1 3))) ∧
    (let c := cmdFor opRefConfig 0 [0, 0, (putFld REF_TOL.hard 0 1).toNat, 0, 0, 0, 0, 0]
     waitsOn .refConfig live opRefConfig c (maskB c 0 (refRegs.map cfgMask) && !live.outOfRange REF_TOL (c.p 2) 0 && !live.outOfRange REF_WCLK_OFS (c.p 5) 0 &&
      !live.outOfRange REF_PPS_OFS (c.p 6) 0 && !live.outOfRange REF_FRM_OFS (c.p 7) 0)) ∧
    (let c := cmdFor opLsConfig 0 [31, 0, 0, 0, 0, 0]; waitsOn .lsConfig live opLsConfig c (maskB c 0 (31 :: (lsRegs 0).map cfgMask) && !live.synced)) ∧
    (let c := cmdFor opVisConfig 0 [31, 0, 0, 0, 0, 0, 0]; waitsOn .visConfig live opVisConfig c (maskB c 0 (31 :: (visRegs 0).map cfgMask) && !live.synced && live.visEnableOk (c.p 1))) ∧
    (let c := cmdFor opVisConfig 0 [31, (putFld (VIS_CFG.lift_en 0) 0 1).toNat, 0, 0, 0, 0, 0]
     refusedWith 0x42 .visConfig live opVisConfig c (maskB c 0 (31 :: (visRegs 0).map cfgMask) && !live.synced && !live.visEnableOk (c.p 1))) ∧
    (let c := cmdFor opGenConfig 7 (List.replicate 28 0)
     waitsOn .genConfig live opGenConfig c (within (c.p 0) (0x7FFFFFFF &&& cfgMask (GEN_CFG 7)) && maskB c 1 (((genRegs 7).drop 1).map cfgMask) && decide (getFld (GEN_CFG.type 7) (c.p 0) < 6))) := by
  decide +kernel

/-- Trigger 63 takes assertions of ring 0; with them asserted. -/
def trig63 : State := { live with regs := (live.setReg (OVR_LIVE 63 0) 0x80000000 |>.setReg (OVR_LIVE 63 1) 0x40000000).regs }

def trig63On : State := trig63.setTrig 63 { trig63.trig 63 with ring0 := true }

/-- The plane armed. -/
def planeArmed : State := liveW [(OVR_STATUS.armed, 1), (OVR_ARM.chal, 7)]

/-- A command of ring 3 is outstanding. -/
def oneOut : State := { live with q := { live.q with outst := [⟨{ cmdFor opNop 0 [] with ring := 3, tag := 5 }, 9, .waiting, false, 1, none, [0], []⟩] } }

theorem witness_CommandsWithQueues :
    (let c := cmdFor opXptSwap 1023 [1023]; goes live opXptSwap c (decide ((c.p 0).toNat < 1024) && !live.inDusk 4 && !live.colShed 1023 && !live.colSkips 1023 live.earliest &&
      decide (live.xpt.queue.length < 32)) && after (.xptSwap c) live (fun t => t.xpt.queue.map (fun e => (e.op, e.len)) == [(0, 1024)])) ∧
    (let c := cmdFor opXptCopy 1023 []; goes live opXptCopy c (!live.inDusk 4 && !live.colShed 1023 && !live.colSkips 1023 live.earliest && decide (live.xpt.queue.length < 32)) &&
      after (.xptCopy c) live (fun t => t.xpt.queue.map (fun e => (e.op, e.len)) == [(1, 1)])) ∧
    (let c := cmdFor opXptCopy 1023 []; let s := { live with xpt := { live.xpt with queue := [⟨live.earliest, 1, 0, 1023, 1, none⟩] } }
     s.colSkips 1023 s.earliest && refusedWith 0x10 .xptCopy s opXptCopy c (applyB s c && !s.inDusk 4 && !s.colShed 1023)) ∧
    (let c := cmdFor opParamSwap 3 []; goes strips opParamSwap c (!strips.bypassStrip 2 3 && !strips.shedStrip 2 3 && !strips.stripDown 2 3 && strips.shadowFree 2 3) &&
      after (.paramSwap c) strips (fun t => t.shadowOf 2 3 == .pending)) ∧
    (let c := cmdFor opImgActivate 0 [0x1FB]; refusedWith 0x44 .imgActivate live opImgActivate c (applyB live c && decide ((c.p 0).toNat < 512 ∧ fieldOf (c.p 0) 2 1 ≠ 3) &&
      live.img.act.isNone && (live.imgSlot (fieldOf (c.p 0) 0 0)).state != .valid)) ∧
    (let c := cmdFor opImgWrite 0 [0x40000001, 0x101FFFF0, 16, 0]; goes live opImgWrite c (firstOf (chunkChecks c 1) == none && !live.slotClosed 1 && !live.held 6 && decide (live.q.jobs.length < 8)) &&
      after (.imgWrite c) live (fun t => t.q.jobs == [⟨c⟩])) ∧
    (let c := cmdFor opFwWrite 0 [0x40000001, 0x101FFFF0, 16, 0]; goes live opFwWrite c (firstOf (chunkChecks c 1) == none && fieldOf (c.p 0) 0 0 != live.img.fwRun) &&
      after (.fwWrite c) live (fun t => t.q.jobs == [⟨c⟩])) ∧
    (let c := cmdFor opMsgWrite 0 [0x40001FFF, 0x101FFFF0, 16, 0]; goes live opMsgWrite c (firstOf (chunkChecks c 0x1FFF) == none && firstOf (live.msgChecks c) == none) &&
      after (.msgWrite c) live (fun t => t.q.jobs == [⟨c⟩])) ∧
    (let c := { cmdFor opMemRead 0 [0x20000000, 65536] with flags := 0x10, len := 8, xaddr := 0x10100000, xlen := 65536 }
     goes live opMemRead c (c.xreply && readable (c.p 0).toNat (c.p 1).toNat && !live.padDown (c.p 0).toNat) && after (.memRead c) live (fun t => t.q.jobs == [⟨c⟩])) ∧
    (let c := cmdFor opAbort 0 [3 * 65536 + 5]; (oneOut.findFetched ⟨3, 5, .ring⟩).isNone && (oneOut.findOut ⟨3, 5, .ring⟩).isSome &&
      goes oneOut opAbort c (c.ring != 3) && after (.abort c) oneOut (fun t => t.q.aborts.length == 1)) ∧
    (let c := cmdFor opAbort 0 [15 * 65536 + 5]; refusedWith 0x20 .abort oneOut opAbort c (applyB oneOut c && (oneOut.findOut ⟨15, 5, .ring⟩).isNone &&
      (oneOut.findSubmitted 15 5).isNone && (oneOut.findFetched ⟨15, 5, .ring⟩).isNone)) ∧
    (let c := cmdFor opOvrAssert 63 []; goes trig63 opOvrAssert c (!trig63.synced && trig63.tEnable 63 && trig63.tRing0En 63 && !(trig63.trig 63).suspended && !(trig63.trig 63).ring0) &&
      after (.ovrAssert c) trig63 (fun t => (t.trig 63).ring0)) ∧
    (let c := cmdFor opOvrAssert 63 []; refusedWith 0x50 .ovrAssert live opOvrAssert c (applyB live c && !live.tEnable 63)) ∧
    (let c := cmdFor opOvrRelease 63 []; goes trig63On opOvrRelease c (!trig63On.synced && (trig63On.trig 63).ring0) && after (.ovrRelease c) trig63On (fun t => !(t.trig 63).ring0)) ∧
    (let c := cmdFor opRegRead 0 [SYS_ID, 1]; answersNow .regRead live opRegRead c (c.p 0 == BitVec.ofNat 32 SYS_ID && c.p 1 == 1) (fun t => reply0 live c t == live.reg SYS_ID)) := by decide +kernel

/-- A staging area that the checks pass commits; its CRC is given by name. -/
theorem witness_CommandsWithQueues_commit : ∃ c : Cmd, goes planeArmed opOvrCommit c (decide ((c.p 0).toNat < 65536) && planeArmed.isSet OVR_STATUS.armed &&
    !planeArmed.isSet OVR_STATUS.commit_pend) = true ∧ planeArmed.commitCheck ((c.p 0).extractLsb' 0 16) (c.p 1) = .pass := by
  refine ⟨{ cmdFor opOvrCommit 0 [0x5A5D, 0] with params := [0x5A5D, planeArmed.stagingCrc] }, by decide +kernel, ?_⟩
  have h1 : ¬ ((0x5A5D : Word).extractLsb' 0 16 ≠ BitVec.ofNat 16 (planeArmed.rd OVR_ARM.chal) ^^^ 0x5A5A) := by decide +kernel
  have h2 : ¬ (planeArmed.assertedList.any (fun t => planeArmed.tClass t ≥ 5)) = true := by decide +kernel
  have h3 : planeArmed.firstBadEntry = none := by decide +kernel
  show planeArmed.commitCheck ((0x5A5D : Word).extractLsb' 0 16) planeArmed.stagingCrc = .pass
  unfold State.commitCheck
  rw [if_neg h1, if_neg h2, h3]
  exact if_pos rfl

/-- Group 63 holds two objects of a class. -/
def grouped (k : Nat) : State := { live with q := { live.q with groups := [(63, [k, 0, 7])] } }

/-- A command of a group or of all. -/
def withScope (r : OpRow) (n k : Nat) (ps : List Nat) : Cmd := { cmdFor r k ps with scope := BitVec.ofNat 2 n }

/-- A command is accepted for these objects. -/
def waitsFor (i : Cmd → Instr) (s : State) (r : OpRow) (c : Cmd) (ts : List Nat) (f : Nat → Bool) : Bool :=
  atB s c && applyB s c && !s.inLockstep && !s.forwards && headB s c r.spec && c.scope != 0 && targetsOf r.spec c s == some ts && ts.all f &&
    after (i c) s (fun t => t.q.outst.map (fun o => (o.cmd, o.objs)) == [(c, ts)])

theorem witness_GroupAndPairCommands :
    waitsFor .strmCtrl (grouped 7) opStrmCtrl (withScope opStrmCtrl 1 63 [1]) [0, 7] (fun _ => true) ∧
    waitsFor .playStop live opPlayStop (withScope opPlayStop 2 0 []) (List.range 64) (fun _ => true) ∧
    waitsFor .genCtrl (grouped 9) opGenCtrl (withScope opGenCtrl 1 63 [7, 0, 0]) [0, 7] (fun _ => true) ∧
    waitsFor .ovrColclass (grouped 4) opOvrColclass (withScope opOvrColclass 1 63 [7]) [0, 7] (fun _ => true) ∧
    waitsFor .spMask live opSpMask (withScope opSpMask 2 0 [1, 2]) (List.range 16) (fun k => !live.objDown 6 k) ∧
    waitsFor .spCtrl (grouped 6) opSpCtrl (withScope opSpCtrl 1 63 [3]) [0, 7] (fun k => !live.objDown 6 k) ∧
    waitsFor .decCtrl (grouped 0x0A) opDecCtrl (withScope opDecCtrl 1 63 [1]) [0, 7] (fun k => !live.objDown 0x0A k) ∧
    waitsFor .cinConfig (grouped 0x0D) opCinConfig (withScope opCinConfig 1 63 [0]) [0, 7] (fun k => within 0 (cfgMask (SUP_CIN_CFG k))) ∧
    waitsFor .drvConfig (grouped 0x0E) opDrvConfig (withScope opDrvConfig 1 63 [0]) [0, 7] (fun k => within 0 (cfgMask (SUP_DRV_CFG k))) ∧
    waitsFor .anaOut (grouped 0x0C) opAnaOut (withScope opAnaOut 1 63 [0]) [0, 7] (fun k => within 0 (cfgMask (ANA_OUT_CFG k))) ∧
    (let s : State := { live with flt := { live.flt with inReset := [19] } }
     let c := withScope opSpMask 2 0 [1, 2]
     targetsOf opSpMask.spec c s == some ([0, 1, 2] ++ 3 :: (List.range 12).map (· + 4)) && [0, 1, 2].all (fun j => !s.objDown 6 j) && s.objDown 6 3 && atB s c && applyB s c &&
      headB s c opSpMask.spec && after (.spMask c) s (fun t => (t.memWord (s.entryAddr 0)).toNat / 65536 % 256 == 0x30 && t.memWord (s.entryAddr 0 + 16) == 3)) ∧
    (let c := { cmdFor opPlayStart 0 [0x50000] with index := 0xFF }
     atB chained c && applyB chained c && headB chained c opPlayStart.spec && c.cls == 8 && maskB c 0 [0x70FFF] && decide (c.ring.val < 4) && chained.chainOk 0 &&
      after (.playStart c) chained (fun t => t.q.outst.map (fun o => o.objs) == [[0xFF]])) := by decide +kernel

/-- What the LEAD of a pair accepts goes on the link too; a unit in lockstep takes no command of its own. -/
theorem witness_GroupAndPairCommands_link :
    (let s := paired 4 3
     let go (r : OpRow) (i : Cmd → Instr) (c : Cmd) (cond : Bool) : Bool := atB s c && applyB s c && !s.inLockstep && s.forwards && headB s c r.spec && oneB c r.spec && cond &&
      after (i c) s (fun t => t.q.outst.map (fun o => o.cmd) == [c] && t.pair.link == s.pair.link ++ [.fwd c s.earliest])
     go opPairDetach .pairDetach (cmdFor opPairDetach 0 []) (s.linkUp && s.oneFollows) && go opPlayStop .playStop (cmdFor opPlayStop 63 []) true &&
      (let c := cmdFor opPairConfig 0 [0, 0, 0, 0]
       go opPairConfig .pairConfig c (maskB c 0 (pairRegs.map cfgMask))) && go opLogMark .logMark (cmdFor opLogMark 0 [0, 0, 0, 0]) true &&
      (let r : State := (s.wr PAIR_HOME.home_b 1).setReg PAIR_MATCH 16
       let c := cmdFor opPairReclaim 0 []
       atB r c && applyB r c && !r.inLockstep && r.forwards && headB r c opPairReclaim.spec && oneB c opPairReclaim.spec && r.linkUp && r.mayReclaim &&
        after (.pairReclaim c) r (fun t => t.pair.link.length == 1)) &&
      (let f := paired 3 4
       let c := cmdFor opSpMask 0 [0, 0]
       atB f c && applyB f c && f.inLockstep && headB f c opSpMask.spec && oneB c opSpMask.spec && after (.spMask c) f (fun t => t.pair.link == f.pair.link ++ [.serve c]))) := by
  decide +kernel

/-- A command at its commit. -/
def outOf (c : Cmd) (objs : List Nat) : Outst := ⟨c, 2, .waiting, false, 1, none, objs, []⟩

theorem witness_CommitEffects :
    (live.flt.dead = [] ∧ live.inDusk 4 = false ∧ live.colOpen 1023 = true ∧
      (opXptNode.commit (outOf (cmdFor opXptNode 1048575 [5]) [1048575]) live).gain (!(live.col 1023).bank) 1023 1023 = 5) ∧
    ((live.setCol 1023 { live.col 1023 with copying := true }).colOpen 1023 = false) ∧
    ((opXptCol.commit (outOf (cmdFor opXptCol 1023 [1022, 1, 2]) [1023]) live).gain (!(live.col 1023).bank) 1023 1023 = 2) ∧
    ((live.cap 3).armed = false ∧ ((opCapture.commit (outOf (cmdFor opCapture 0 [0xE00003FF]) [0]) live).cap 3).armed = true) ∧
    ((slotGood.imgSlot 0).state = .valid ∧ (slotGood.imgSlot 1).state ≠ .valid) ∧
    (live.keyLeft 2 = false ∧ (let s := { live with sec := { live.sec with otp := [(1, 5)] } }
      s.keyLeft 2 = true ∧ (opKeyRevoke.commit (outOf (cmdFor opKeyRevoke 0 [2, 0x4B564552]) [0]) s).slotRevoked 2 = true)) ∧
    ((W [(REF_STATUS.pins, 7)]).rd REF_STATUS.pins = 7 ∧ (W [(REF_STATUS.pins, 6)]).rd REF_STATUS.pins ≠ 7) ∧
    (live.chainInUse 4095 = false ∧ ((opChainWrite.commit (outOf (cmdFor opChainWrite 0 (4095 :: 2 :: List.replicate 31 0)) [0]) live).chainOf 4095).headD ⟨0, 0, 0, 0⟩ = ⟨2, 0, 0, 0⟩) ∧
    ((opGroupDef.commit (outOf (cmdFor opGroupDef 63 (4 :: 9 :: List.replicate 31 0)) [63]) live).groupOf 63 = (4, [0, 3])) ∧
    (live.isSet OVR_STATUS.armed = false ∧ (opOvrStage.commit (outOf (cmdFor opOvrStage 63 (List.replicate 16 3)) [63]) live).reg (ovrStageAddr 63 15) = 3) ∧
    ((opOvrStageMask.commit (outOf (cmdFor opOvrStageMask 0 (63 :: List.replicate 32 6)) [0]) live).reg (OVR_SMASK 63 31) = 6) ∧
    ((opOvrColclass.commit (outOf (cmdFor opOvrColclass 1023 [7]) [1023]) live).rd ⟨OVR_COLCLASS 127, 28, 3⟩ = 7) ∧
    ((opCinConfig.commit (outOf (cmdFor opCinConfig 15 [cfgMask (SUP_CIN_CFG 15)]) [15]) live).reg (SUP_CIN_CFG 15) &&& BitVec.ofNat 32 (cfgMask (SUP_CIN_CFG 15)) =
      BitVec.ofNat 32 (cfgMask (SUP_CIN_CFG 15))) ∧
    ((opAnaOut.commit (outOf (cmdFor opAnaOut 7 [cfgMask (ANA_OUT_CFG 7)]) [7]) live).reg (ANA_OUT_CFG 7) &&& BitVec.ofNat 32 (cfgMask (ANA_OUT_CFG 7)) =
      BitVec.ofNat 32 (cfgMask (ANA_OUT_CFG 7))) ∧
    ((opWispConfig.commit (outOf (cmdFor opWispConfig 0 [1]) [0]) live).reg MEM_WISP_CFG &&& 1 = 1) := by decide +kernel

end Sys2Proof.Tests
end

/-! ## The statements about every command

`exec_keeps` gathers what the laws of the single commands say of the queue and the stores; `exec_guarded` says when a command's meaning
answers a next state and when it stops. -/

namespace Sys2Proof.Machine

/-- Every command keeps the queue and the canonical stores: the dispatch of the laws of the commands. -/
theorem exec_keeps {s0 s : State} (hk : s0.Keeps s) (i : Instr) : Res.Keeps s0 (exec i s) :=
  match i with
  | .powerOn .. => execPowerOn_keeps hk
  | .vsysFall => execVsysFall_keeps hk
  | .porstNLow => execPorstNLow_keeps hk
  | .porstNRelease .. => execPorstNRelease_keeps hk
  | .regulatorCutoff => execRegulatorCutoff_keeps hk
  | .regulatorRestart .. => execRegulatorRestart_keeps hk
  | .railsInRegulation => execRailsInRegulation_keeps hk
  | .ircQualified => execIrcQualified_keeps hk
  | .crystalQualified => execCrystalQualified_keeps hk
  | .crystalQualTimeout => execCrystalQualTimeout_keeps hk
  | .rootPllLock => execRootPllLock_keeps hk
  | .pllLockTimeout => execPllLockTimeout_keeps hk
  | .ircStop => execIrcStop_keeps hk
  | .ircPeriodicCheck .. => execIrcPeriodicCheck_keeps hk
  | .clockSupervisorTrip .. => execClockSupervisorTrip_keeps hk
  | .clockWaitRetry .. => execClockWaitRetry_keeps hk
  | .afterglowOutOfRange .. => execAfterglowOutOfRange_keeps hk
  | .dramTrained .. => execDramTrained_keeps hk
  | .firmwareLoad => execFirmwareLoad_keeps hk
  | .bootImageLoad => execBootImageLoad_keeps hk
  | .headLoadDone .. => execHeadLoadDone_keeps hk
  | .secRecovGo .. => execSecRecovGo_keeps hk
  | .recoveryCheckDone => execRecoveryCheckDone_keeps hk
  | .engineTick .. => execEngineTick_keeps hk
  | .dispatchRecord .. => execDispatchRecord_keeps hk
  | .stripCompletion .. => execStripCompletion_keeps hk
  | .engineDeadline .. => execEngineDeadline_keeps hk
  | .wispAbandon .. => execWispAbandon_keeps hk
  | .wispRestoreDone .. => execWispRestoreDone_keeps hk
  | .eccWriteback .. => execEccWriteback_keeps hk
  | .slotNop .. => execSlotNop_keeps hk
  | .vadd .. => execVadd_keeps hk
  | .vaddm .. => execVaddm_keeps hk
  | .vsub .. => execVsub_keeps hk
  | .vsubm .. => execVsubm_keeps hk
  | .vneg .. => execVneg_keeps hk
  | .vabs .. => execVabs_keeps hk
  | .vmin .. => execVmin_keeps hk
  | .vmax .. => execVmax_keeps hk
  | .vand .. => execVand_keeps hk
  | .vor .. => execVor_keeps hk
  | .vxor .. => execVxor_keeps hk
  | .vpick .. => execVpick_keeps hk
  | .vcgt .. => execVcgt_keeps hk
  | .vceq .. => execVceq_keeps hk
  | .vshl .. => execVshl_keeps hk
  | .vsra .. => execVsra_keeps hk
  | .vsrar .. => execVsrar_keeps hk
  | .vsrl .. => execVsrl_keeps hk
  | .vspl .. => execVspl_keeps hk
  | .vidx .. => execVidx_keeps hk
  | .vhsum .. => execVhsum_keeps hk
  | .vhmax .. => execVhmax_keeps hk
  | .vhmin .. => execVhmin_keeps hk
  | .vhmaxi .. => execVhmaxi_keeps hk
  | .vhmini .. => execVhmini_keeps hk
  | .vsmax .. => execVsmax_keeps hk
  | .vsmin .. => execVsmin_keeps hk
  | .vsmaxa .. => execVsmaxa_keeps hk
  | .vmul .. => execVmul_keeps hk
  | .mac .. => execMac_keeps hk
  | .msu .. => execMsu_keeps hk
  | .mul .. => execMul_keeps hk
  | .aset .. => execAset_keeps hk
  | .alo .. => execAlo_keeps hk
  | .amov .. => execAmov_keeps hk
  | .aadd .. => execAadd_keeps hk
  | .aclr .. => execAclr_keeps hk
  | .ext .. => execExt_keeps hk
  | .extl .. => execExtl_keeps hk
  | .vld .. => execVld_keeps hk
  | .vst .. => execVst_keeps hk
  | .vldb .. => execVldb_keeps hk
  | .atadd .. => execAtadd_keeps hk
  | .atswp .. => execAtswp_keeps hk
  | .pmod .. => execPmod_keeps hk
  | .pld .. => execPld_keeps hk
  | .mld .. => execMld_keeps hk
  | .cnop .. => execCnop_keeps hk
  | .loopOp .. => execLoopOp_keeps hk
  | .loopPassEnd .. => execLoopPassEnd_keeps hk
  | .setlc .. => execSetlc_keeps hk
  | .setlcr .. => execSetlcr_keeps hk
  | .brf .. => execBrf_keeps hk
  | .paddi .. => execPaddi_keeps hk
  | .setm .. => execSetm_keeps hk
  | .pmov .. => execPmov_keeps hk
  | .setw .. => execSetw_keeps hk
  | .bindOp .. => execBindOp_keeps hk
  | .setidx .. => execSetidx_keeps hk
  | .dlq .. => execDlq_keeps hk
  | .endOp .. => execEndOp_keeps hk
  | .dlqTransferDone .. => execDlqTransferDone_keeps hk
  | .xptCopyDone .. => execXptCopyDone_keeps hk
  | .xptRampEnd .. => execXptRampEnd_keeps hk
  | .coefShadowWrite .. => execCoefShadowWrite_keeps hk
  | .captureDone .. => execCaptureDone_keeps hk
  | .meterWindowEnd => execMeterWindowEnd_keeps hk
  | .patchFadeOutEnd .. => execPatchFadeOutEnd_keeps hk
  | .patchFadeEnd .. => execPatchFadeEnd_keeps hk
  | .cinSample .. => execCinSample_keeps hk
  | .cinDebounceComplete .. => execCinDebounceComplete_keeps hk
  | .triggerAssertion .. => execTriggerAssertion_keeps hk
  | .triggerRelease .. => execTriggerRelease_keeps hk
  | .ovrForceRampEnd .. => execOvrForceRampEnd_keeps hk
  | .ovrReleaseRampEnd .. => execOvrReleaseRampEnd_keeps hk
  | .ovrCrcCheck .. => execOvrCrcCheck_keeps hk
  | .ovrArmExpiry => execOvrArmExpiry_keeps hk
  | .ovrKeyLockoutEnd => execOvrKeyLockoutEnd_keeps hk
  | .ovrCommitTakeEffect => execOvrCommitTakeEffect_keeps hk
  | .imgRestartTick => execImgRestartTick_keeps hk
  | .imgDipBypass => execImgDipBypass_keeps hk
  | .imgSwitchTick .. => execImgSwitchTick_keeps hk
  | .imgActivateComplete => execImgActivateComplete_keeps hk
  | .paramSyncDone .. => execParamSyncDone_keeps hk
  | .backgroundJobDone .. => execBackgroundJobDone_keeps hk
  | .decStart .. => execDecStart_keeps hk
  | .decStop .. => execDecStop_keeps hk
  | .decSettleEnd .. => execDecSettleEnd_keeps hk
  | .decStopEnd .. => execDecStopEnd_keeps hk
  | .decStrobe .. => execDecStrobe_keeps hk
  | .decTimerStrobe .. => execDecTimerStrobe_keeps hk
  | .decWindowEnd .. => execDecWindowEnd_keeps hk
  | .decFifoRead .. => execDecFifoRead_keeps hk
  | .trackerEdgesSeen .. => execTrackerEdgesSeen_keeps hk
  | .trackerLock .. => execTrackerLock_keeps hk
  | .trackerEdgeLoss .. => execTrackerEdgeLoss_keeps hk
  | .trackerRatioJump .. => execTrackerRatioJump_keeps hk
  | .trackerRange .. => execTrackerRange_keeps hk
  | .trackerRangeExit .. => execTrackerRangeExit_keeps hk
  | .spStart .. => execSpStart_keeps hk
  | .spStop .. => execSpStop_keeps hk
  | .spMute .. => execSpMute_keeps hk
  | .spUnmute .. => execSpUnmute_keeps hk
  | .spMaskCommit .. => execSpMaskCommit_keeps hk
  | .spMaskTakeEffect .. => execSpMaskTakeEffect_keeps hk
  | .spFrameAligned .. => execSpFrameAligned_keeps hk
  | .spDataTick .. => execSpDataTick_keeps hk
  | .spSlotCrossing .. => execSpSlotCrossing_keeps hk
  | .spZcTimeout .. => execSpZcTimeout_keeps hk
  | .spLeadOutEnd .. => execSpLeadOutEnd_keeps hk
  | .spUnderrun .. => execSpUnderrun_keeps hk
  | .spOverrun .. => execSpOverrun_keeps hk
  | .spSlip .. => execSpSlip_keeps hk
  | .spGlitch .. => execSpGlitch_keeps hk
  | .spLost .. => execSpLost_keeps hk
  | .spRealign .. => execSpRealign_keeps hk
  | .anaGainWrite .. => execAnaGainWrite_keeps hk
  | .gainStep .. => execGainStep_keeps hk
  | .gainStepTimeout .. => execGainStepTimeout_keeps hk
  | .biasStateChange .. => execBiasStateChange_keeps hk
  | .aoutGateCrossing .. => execAoutGateCrossing_keeps hk
  | .aoutHoldEnd .. => execAoutHoldEnd_keeps hk
  | .drvSample .. => execDrvSample_keeps hk
  | .drvFaultDebounce .. => execDrvFaultDebounce_keeps hk
  | .drvOvercurrent .. => execDrvOvercurrent_keeps hk
  | .drvRetry .. => execDrvRetry_keeps hk
  | .drvTotalOverload => execDrvTotalOverload_keeps hk
  | .lsEstimate .. => execLsEstimate_keeps hk
  | .lsFaultDeclared .. => execLsFaultDeclared_keeps hk
  | .lsLearnStart master _ => execLsLearnStart_keeps (u0 := master) hk
  | .lsLearnDone .. => execLsLearnDone_keeps hk
  | .playerFirstSample .. => execPlayerFirstSample_keeps hk
  | .chainStepAdvance .. => execChainStepAdvance_keeps hk
  | .playerUnderrun .. => execPlayerUnderrun_keeps hk
  | .scanVerify .. => execScanVerify_keeps hk
  | .scanPhaseEnd => execScanPhaseEnd_keeps hk
  | .genEnableWrite .. => execGenEnableWrite_keeps hk
  | .genSegmentEnd .. => execGenSegmentEnd_keeps hk
  | .visUpdate .. => execVisUpdate_keeps hk
  | .streamPacketReceived .. => execStreamPacketReceived_keeps hk
  | .streamPacketTransmit .. => execStreamPacketTransmit_keeps hk
  | .streamTxStopEnd .. => execStreamTxStopEnd_keeps hk
  | .streamRxTimeout .. => execStreamRxTimeout_keeps hk
  | .legDown .. => execLegDown_keeps hk
  | .linkSpeedChange .. => execLinkSpeedChange_keeps hk
  | .igmpQueryReceived .. => execIgmpQueryReceived_keeps hk
  | .igmpReportRepeat => execIgmpReportRepeat_keeps hk
  | .sapAnnounce .. => execSapAnnounce_keeps hk
  | .sapAnnounceReceived .. => execSapAnnounceReceived_keeps hk
  | .sapEntryAgeOut .. => execSapEntryAgeOut_keeps hk
  | .mgmtDatagramReceived .. => execMgmtDatagramReceived_keeps hk
  | .ptpMessageReceived .. => execPtpMessageReceived_keeps hk
  | .ptpMessageSend .. => execPtpMessageSend_keeps hk
  | .announceTimeout .. => execAnnounceTimeout_keeps hk
  | .servoStep => execServoStep_keeps hk
  | .autoRestep => execAutoRestep_keeps hk
  | .refMeasurement .. => execRefMeasurement_keeps hk
  | .refPresenceChange .. => execRefPresenceChange_keeps hk
  | .refLock .. => execRefLock_keeps hk
  | .refPullDone => execRefPullDone_keeps hk
  | .refOutlierClear .. => execRefOutlierClear_keeps hk
  | .refSelWrite .. => execRefSelWrite_keeps hk
  | .ceilingFrameReceived .. => execCeilingFrameReceived_keeps hk
  | .ceilingFrameRetry .. => execCeilingFrameRetry_keeps hk
  | .pairLineLost .. => execPairLineLost_keeps hk
  | .pairLineRecover .. => execPairLineRecover_keeps hk
  | .beaconSend .. => execBeaconSend_keeps hk
  | .beaconReceived netb _ _ => execBeaconReceived_keeps (_netb := netb) hk
  | .beaconHeartbeatLost => execBeaconHeartbeatLost_keeps hk
  | .partnerSilence => execPartnerSilence_keeps hk
  | .handoverTick => execHandoverTick_keeps hk
  | .driveSenseProbe .. => execDriveSenseProbe_keeps hk
  | .driveTaken .. => execDriveTaken_keeps hk
  | .driveConflict .. => execDriveConflict_keeps hk
  | .twpcAutoPulse => execTwpcAutoPulse_keeps hk
  | .twpcInPulse .. => execTwpcInPulse_keeps hk
  | .twpcRailOffEnd => execTwpcRailOffEnd_keeps hk
  | .twpcHoldLapse => execTwpcHoldLapse_keeps hk
  | .sundogLanesLock .. => execSundogLanesLock_keeps hk
  | .sundogLinkUp => execSundogLinkUp_keeps hk
  | .linkDown => execLinkDown_keeps hk
  | .cycleOpen .. => execCycleOpen_keeps hk
  | .input .. => execInput_keeps hk
  | .stateFrame .. => execStateFrame_keeps hk
  | .cmdFrame .. => execCmdFrame_keeps hk
  | .sig .. => execSig_keeps hk
  | .cycleClose .. => execCycleClose_keeps hk
  | .bulk .. => execBulk_keeps hk
  | .sundogAck .. => execSundogAck_keeps hk
  | .pairVerdict => execPairVerdict_keeps hk
  | .pairDecision => execPairDecision_keeps hk
  | .attachStart .. => execAttachStart_keeps hk
  | .bulkCopyComplete .. => execBulkCopyComplete_keeps hk
  | .cutoverTick => execCutoverTick_keeps hk
  | .standbyPromotion => execStandbyPromotion_keeps hk
  | .reclaimPromotion => execReclaimPromotion_keeps hk
  | .cmdDoorbell .. => execCmdDoorbell_keeps hk
  | .cmdCdbWrite .. => execCmdCdbWrite_keeps hk
  | .cmdRingEnable .. => execCmdRingEnable_keeps hk
  | .cmdRingDisable .. => execCmdRingDisable_keeps hk
  | .ringDrainDone .. => execRingDrainDone_keeps hk
  | .commandFetch .. => execCommandFetch_keeps hk
  | .commandDecision => execCommandDecision_keeps hk
  | .ring0Decode => execRing0Decode_keeps hk
  | .cpWatchdogExpiry => execCpWatchdogExpiry_keeps hk
  | .cpTrap => execCpTrap_keeps hk
  | .cpRestart => execCpRestart_keeps hk
  | .sysWdogKick .. => execSysWdogKick_keeps hk
  | .sysResetWrite .. => execSysResetWrite_keeps hk
  | .sysRemapWrite .. => execSysRemapWrite_keeps hk
  | .duskExitReady .. => execDuskExitReady_keeps hk
  | .memDuskWrite .. => execMemDuskWrite_keeps hk
  | .scrubPass => execScrubPass_keeps hk
  | .selftestDone .. => execSelftestDone_keeps hk
  | .fence => execFence_keeps hk
  | .ladderStep .. => execLadderStep_keeps hk
  | .ladderHeldRelease => execLadderHeldRelease_keeps hk
  | .funcRestart .. => execFuncRestart_keeps hk
  | .logFlush => execLogFlush_keeps hk
  | .flashOperationDone .. => execFlashOperationDone_keeps hk
  | .busBurst .. => execBusBurst_keeps hk
  | .busTimeout .. => execBusTimeout_keeps hk
  | .busAbandon .. => execBusAbandon_keeps hk
  | .clkGateReqWrite .. => execClkGateReqWrite_keeps hk
  | .gateQuiescent .. => execGateQuiescent_keeps hk
  | .gateQuiesceTimeout .. => execGateQuiesceTimeout_keeps hk
  | .thermalSample .. => execThermalSample_keeps hk
  | .thermalExitTimer .. => execThermalExitTimer_keeps hk
  | .supplyLowTimer => execSupplyLowTimer_keeps hk
  | .supplyClearTimer => execSupplyClearTimer_keeps hk
  | .budgetExceeded => execBudgetExceeded_keeps hk
  | .vauxOvercurrent => execVauxOvercurrent_keeps hk
  | .vauxRetry .. => execVauxRetry_keeps hk
  | .nightfallBypass => execNightfallBypass_keeps hk
  | .nightfallDusk => execNightfallDusk_keeps hk
  | .wakeEvent => execWakeEvent_keeps hk
  | .wakeGatesOpen => execWakeGatesOpen_keeps hk
  | .wakeRun => execWakeRun_keeps hk
  | .wpLockoutEnd => execWpLockoutEnd_keeps hk
  | .secAkeyCommit => execSecAkeyCommit_keeps hk
  | .xptQpush .. => execXptQpush_keeps hk
  | .xptCntClrSat => execXptCntClrSat_keeps hk
  | .xptCntClrEcc => execXptCntClrEcc_keeps hk
  | .xptCntClrBlk => execXptCntClrBlk_keeps hk
  | .xptCapArm .. => execXptCapArm_keeps hk
  | .patchPush .. => execPatchPush_keeps hk
  | .patchCntClrSinks => execPatchCntClrSinks_keeps hk
  | .patchCntClrTotal => execPatchCntClrTotal_keeps hk
  | .patchMtrClr => execPatchMtrClr_keeps hk
  | .patchMtrCfgWrite .. => execPatchMtrCfgWrite_keeps hk
  | .ovrArmWrite .. => execOvrArmWrite_keeps hk
  | .ovrCommitWrite .. => execOvrCommitWrite_keeps hk
  | .engCntClrOverrun => execEngCntClrOverrun_keeps hk
  | .engMarginMinRead => execEngMarginMinRead_keeps hk
  | .cluCntClrSat .. => execCluCntClrSat_keeps hk
  | .cluLoadRead .. => execCluLoadRead_keeps hk
  | .memCntClrDlq => execMemCntClrDlq_keeps hk
  | .memCntClrConf => execMemCntClrConf_keeps hk
  | .memCntClrDram => execMemCntClrDram_keeps hk
  | .memCntClrSram => execMemCntClrSram_keeps hk
  | .memDramRtRead => execMemDramRtRead_keeps hk
  | .busCntClrLk => execBusCntClrLk_keeps hk
  | .busCntClrEv => execBusCntClrEv_keeps hk
  | .busCntClrErr => execBusCntClrErr_keeps hk
  | .busWaitRead .. => execBusWaitRead_keeps hk
  | .cmdPendRead => execCmdPendRead_keeps hk
  | .flashcSuspRead => execFlashcSuspRead_keeps hk
  | .pwrTjMaxRead => execPwrTjMaxRead_keeps hk
  | .ptpDtimeLoRead => execPtpDtimeLoRead_keeps hk
  | .ptpStepLoRead => execPtpStepLoRead_keeps hk
  | .broadcastAliasWrite .. => execBroadcastAliasWrite_keeps hk
  | .groupAliasWrite .. => execGroupAliasWrite_keeps hk
  | .registerWrite .. => execRegisterWrite_keeps hk
  | .rdsr => execRdsr_keeps hk
  | .clsr => execClsr_keeps hk
  | .rdid => execRdid_keeps hk
  | .read .. => execRead_keeps hk
  | .readQ .. => execReadQ_keeps hk
  | .readQio .. => execReadQio_keeps hk
  | .write .. => execWrite_keeps hk
  | .writeQ .. => execWriteQ_keeps hk
  | .writeQio .. => execWriteQio_keeps hk
  | .qspiWriteFlush => execQspiWriteFlush_keeps hk
  | .otpKey .. => execOtpKey_keeps hk
  | .extest => execExtest_keeps hk
  | .bypass => execBypass_keeps hk
  | .idcode => execIdcode_keeps hk
  | .nop .. => execNop_keeps hk
  | .sysInfo .. => execSysInfo_keeps hk
  | .abort .. => execAbort_keeps hk
  | .sysState .. => execSysState_keeps hk
  | .sysReset .. => execSysReset_keeps hk
  | .groupDef .. => execGroupDef_keeps hk
  | .groupRead .. => execGroupRead_keeps hk
  | .regRead .. => execRegRead_keeps hk
  | .regWrite .. => execRegWrite_keeps hk
  | .regRmw .. => execRegRmw_keeps hk
  | .patchIn .. => execPatchIn_keeps hk
  | .sinkSet .. => execSinkSet_keeps hk
  | .xptNode .. => execXptNode_keeps hk
  | .xptCol .. => execXptCol_keeps hk
  | .xptSwap .. => execXptSwap_keeps hk
  | .xptCopy .. => execXptCopy_keeps hk
  | .xptRead .. => execXptRead_keeps hk
  | .meterRead .. => execMeterRead_keeps hk
  | .capture .. => execCapture_keeps hk
  | .paramWrite .. => execParamWrite_keeps hk
  | .paramSwap .. => execParamSwap_keeps hk
  | .paramRead .. => execParamRead_keeps hk
  | .imgWrite .. => execImgWrite_keeps hk
  | .imgActivate .. => execImgActivate_keeps hk
  | .imgPin .. => execImgPin_keeps hk
  | .imgStatus .. => execImgStatus_keeps hk
  | .fwWrite .. => execFwWrite_keeps hk
  | .spConfig .. => execSpConfig_keeps hk
  | .spCtrl .. => execSpCtrl_keeps hk
  | .spMask .. => execSpMask_keeps hk
  | .decConfig .. => execDecConfig_keeps hk
  | .decTaps .. => execDecTaps_keeps hk
  | .decCtrl .. => execDecCtrl_keeps hk
  | .decClock .. => execDecClock_keeps hk
  | .anaIn .. => execAnaIn_keeps hk
  | .anaOut .. => execAnaOut_keeps hk
  | .asrcRead .. => execAsrcRead_keeps hk
  | .netConfig .. => execNetConfig_keeps hk
  | .strmTxSetup .. => execStrmTxSetup_keeps hk
  | .strmRxSetup .. => execStrmRxSetup_keeps hk
  | .strmCtrl .. => execStrmCtrl_keeps hk
  | .strmTag .. => execStrmTag_keeps hk
  | .sapRead .. => execSapRead_keeps hk
  | .ptpConfig .. => execPtpConfig_keeps hk
  | .ptpRestep .. => execPtpRestep_keeps hk
  | .refSelect .. => execRefSelect_keeps hk
  | .refConfig .. => execRefConfig_keeps hk
  | .timeRead .. => execTimeRead_keeps hk
  | .msgWrite .. => execMsgWrite_keeps hk
  | .chainWrite .. => execChainWrite_keeps hk
  | .playStart .. => execPlayStart_keeps hk
  | .playStop .. => execPlayStop_keeps hk
  | .genConfig .. => execGenConfig_keeps hk
  | .genCtrl .. => execGenCtrl_keeps hk
  | .visConfig .. => execVisConfig_keeps hk
  | .cinConfig .. => execCinConfig_keeps hk
  | .cinThr .. => execCinThr_keeps hk
  | .drvConfig .. => execDrvConfig_keeps hk
  | .lsConfig .. => execLsConfig_keeps hk
  | .lsLearn .. => execLsLearn_keeps hk
  | .supRead .. => execSupRead_keeps hk
  | .gpioConfig .. => execGpioConfig_keeps hk
  | .pairAttach .. => execPairAttach_keeps hk
  | .pairDetach .. => execPairDetach_keeps hk
  | .pairYield .. => execPairYield_keeps hk
  | .pairReclaim .. => execPairReclaim_keeps hk
  | .pairConfig .. => execPairConfig_keeps hk
  | .twpcPulse .. => execTwpcPulse_keeps hk
  | .pairRead .. => execPairRead_keeps hk
  | .selftest .. => execSelftest_keeps hk
  | .memRead .. => execMemRead_keeps hk
  | .memDusk .. => execMemDusk_keeps hk
  | .wispConfig .. => execWispConfig_keeps hk
  | .secStatus .. => execSecStatus_keeps hk
  | .keyRevoke .. => execKeyRevoke_keeps hk
  | .mgmtKey .. => execMgmtKey_keeps hk
  | .jtagLock .. => execJtagLock_keeps hk
  | .wpSet .. => execWpSet_keeps hk
  | .logRead .. => execLogRead_keeps hk
  | .logMark .. => execLogMark_keeps hk
  | .ovrAssert .. => execOvrAssert_keeps hk
  | .ovrRelease .. => execOvrRelease_keeps hk
  | .ovrStage .. => execOvrStage_keeps hk
  | .ovrStageMask .. => execOvrStageMask_keeps hk
  | .ovrArm .. => execOvrArm_keeps hk
  | .ovrCommit .. => execOvrCommit_keeps hk
  | .ovrColclass .. => execOvrColclass_keeps hk
  | .ovrRead .. => execOvrRead_keeps hk
  | .aoutZcTimeout .. => execAoutZcTimeout_keeps hk
  | .streamUnitUnheard .. => execStreamUnitUnheard_keeps hk
  | .arpRequestReceived .. => execArpRequestReceived_keeps hk
  | .refselChange .. => execRefselChange_keeps hk
  | .afterglowBackInRange .. => execAfterglowBackInRange_keeps hk
  | .vsysSample .. => execVsysSample_keeps hk
  | .ppsOutPulse .. => execPpsOutPulse_keeps hk
  | .debugHalt => execDebugHalt_keeps hk

theorem step_nil {s : State} (h : s.pending = []) : step s = .next s := by
  unfold step
  rw [h]

theorem step_cons {s : State} {i : Instr} {rest : List Instr} (h : s.pending = i :: rest) :
    step s = exec i { s with pending := rest } := by
  unfold step
  rw [h]

/-- A change of the queue alone leaves the stores as they are held. -/
theorem State.Stored.withPending {s : State} (h : s.Stored) (l : List Instr) : ({ s with pending := l } : State).Stored :=
  ⟨h.regs, h.mem, h.coef⟩

/-- Settles O3: `exec_keeps` on the state whose queue has lost its front; an idle step changes nothing. -/
theorem stepKeepsStored : Obligations.StepKeepsStored := by
  intro s t hs ht
  cases hq : s.pending with
  | nil =>
    rw [step_nil hq] at ht
    cases ht
    exact ⟨hs, by rw [hq]; rfl⟩
  | cons i rest =>
    rw [step_cons hq] at ht
    have hk := (exec_keeps (.refl _) i).next t ht
    exact ⟨hk.stored (hs.withPending rest), hk.pending⟩

end Sys2Proof.Machine

namespace Sys2Proof

open Machine

/-- The meaning answers a next state. -/
def Machine.Res.Runs (r : Res) : Prop := ∃ t, r = .next t

theorem Machine.Res.Runs.next {t : State} : Res.Runs (.next t) := ⟨t, rfl⟩

theorem Machine.Res.Runs.ite {c : Prop} [Decidable c] {x y : Res} (hx : x.Runs) (hy : y.Runs) : Res.Runs (if c then x else y) := by
  split
  · exact hx
  · exact hy

/-- The meaning answers a next state if the check holds, and else stops with illFormed. -/
structure Machine.Res.Guarded (ok : Bool) (r : Res) : Prop where
  runs : ok = true → r.Runs
  stops : ok = false → r = .fault .illFormed

theorem Machine.Res.Guarded.ofRuns {r : Res} (h : r.Runs) : r.Guarded true := ⟨fun _ => h, fun e => nomatch e⟩

theorem Machine.Res.Guarded.ofPos {c : Prop} [Decidable c] {ok : Bool} {x : Res} (h : ok = true ↔ c) (hx : x.Runs) :
    Res.Guarded ok (if c then x else .fault .illFormed) :=
  ⟨fun e => by rwa [if_pos (h.mp e)], fun e => if_neg fun hc => by simp [h.mpr hc] at e⟩

theorem Machine.Res.Guarded.ofNeg {c : Prop} [Decidable c] {ok : Bool} {x : Res} (h : ok = false ↔ c) (hx : x.Runs) :
    Res.Guarded ok (if c then .fault .illFormed else x) :=
  ⟨fun e => by rwa [if_neg fun hc => by simp [h.mpr hc] at e], fun e => if_pos (h.mp e)⟩

/-- Whether a command runs on any operands: a packet does (R540 checks it in its meaning), and so does an update of an estimate. -/
def Instr.runsAlways (i : Instr) : Bool :=
  match i with
  | .visUpdate .. => true
  | _ => i.packet.isSome

/-- Whether a command's meaning takes its operands. -/
def Instr.taken (i : Instr) : Bool := i.runsAlways || i.wf

variable (s : State)

theorem flashOperationDone_runs (k : Nat) (u b : Bool) : Res.Runs (execFlashOperationDone k u b s) := by
  unfold execFlashOperationDone
  split
  · exact .next
  · exact .next

theorem loopPassEnd_runs (core : Fin 32) (k : Fin 4) : Res.Runs (execLoopPassEnd core k s) := by
  unfold execLoopPassEnd
  dsimp only
  split
  · exact .ite (.ite .next .next) .next
  · exact .next

theorem dispatchRecord_runs (core : Fin 32) (outq : Bool) (quad : Fin 256) : Res.Runs (execDispatchRecord core outq quad s) := by
  unfold execDispatchRecord
  dsimp only
  split
  · refine .ite .next ?_
    split
    · exact .ite .next .next
    · exact .ite .next .next
  · exact .next

theorem wispRestoreDone_runs (m : Fin 6) : Res.Runs (execWispRestoreDone m s) := by
  unfold execWispRestoreDone
  split
  · exact .ite .next (.ite .next .next)
  · exact .next

theorem spSlip_runs (n : Fin 16) (fast : Bool) : Res.Runs (execSpSlip n fast s) := by
  unfold execSpSlip
  refine .ite .next ?_
  split
  · exact .next
  · exact .ite .next .next

theorem decStart_runs (m : Master) (n : Fin 40) : Res.Runs (execDecStart m n s) := by
  unfold execDecStart
  refine .ite .next (.ite .next ?_)
  split
  · exact .ite .next .next
  · exact .next

theorem wispAbandon_runs (m : Fin 6) : Res.Runs (execWispAbandon m s) := by
  unfold execWispAbandon
  split
  · exact .next
  · exact .next

theorem dlqTransferDone_runs (core : Fin 32) : Res.Runs (execDlqTransferDone core s) := by
  unfold execDlqTransferDone
  split
  · exact .next
  · exact .next

theorem imgDipBypass_runs : Res.Runs (execImgDipBypass s) := by
  unfold execImgDipBypass
  split
  · exact .ite .next .next
  · exact .next

theorem imgSwitchTick_runs (loaded : Bool) : Res.Runs (execImgSwitchTick loaded s) := by
  unfold execImgSwitchTick
  split
  · exact .ite (.ite .next .next) .next
  · exact .next

theorem imgActivateComplete_runs : Res.Runs (execImgActivateComplete s) := by
  unfold execImgActivateComplete
  split
  · exact .ite .next .next
  · exact .next

theorem spMaskTakeEffect_runs (n : Fin 16) : Res.Runs (execSpMaskTakeEffect n s) := by
  unfold execSpMaskTakeEffect
  dsimp only
  split
  · exact .ite .next .next
  · exact .next

theorem lsEstimate_runs (m : Fin 32) (cv ci : BitVec 25) : Res.Runs (execLsEstimate m cv ci s) := by
  unfold execLsEstimate
  refine .ite .next ?_
  dsimp only
  split
  · exact .next
  · exact .next

theorem chainStepAdvance_runs (p : Fin 64) : Res.Runs (execChainStepAdvance p s) := by
  unfold execChainStepAdvance
  dsimp only
  split
  · exact .next
  · exact .ite .next .next

theorem playerUnderrun_runs (p : Fin 64) : Res.Runs (execPlayerUnderrun p s) := by
  unfold execPlayerUnderrun
  dsimp only
  split
  · exact .next
  · exact .ite .next .next

theorem scanVerify_runs (item : ScanItem) (ok : Bool) : Res.Runs (execScanVerify item ok s) := by
  cases item
  case head => exact .next
  case table => exact .next
  case data => exact .ite .next .next

/-- Every command answers a next state where its meaning takes its operands, and stops with illFormed where it does not. -/
theorem exec_guarded (i : Instr) : Res.Guarded i.taken (exec i s) := by
  cases i
  case vhmaxi => exact .ofPos beq_iff_eq .next
  case vhmini => exact .ofPos beq_iff_eq .next
  case vsmax => exact .ofPos beq_iff_eq .next
  case vsmin => exact .ofPos beq_iff_eq .next
  case vsmaxa => exact .ofPos beq_iff_eq .next
  case loopOp => exact .ofNeg (bne_eq_false_iff_eq) .next
  case brf sl c off => exact .ofNeg (ok := c.val != 7 && off.val != 0) (by simp [imp_iff_not_or]) .next
  case coefShadowWrite => exact .ofNeg (by simp [Instr.taken, Instr.runsAlways, Instr.packet, Instr.wf, imp_iff_not_or, or_assoc]) (.ite .next (.ite .next .next))
  case clockSupervisorTrip cause =>
    exact .ofNeg (ok := cause.toNat != 0 && decide (cause.toNat ≤ 6)) (by simp [imp_iff_not_or]) .next
  case refMeasurement => exact .ofNeg bne_eq_false_iff_eq .next
  case refPresenceChange => exact .ofNeg bne_eq_false_iff_eq .next
  case refOutlierClear => exact .ofNeg bne_eq_false_iff_eq .next
  case sig => exact .ofNeg beq_eq_false_iff_ne .next
  case broadcastAliasWrite => exact .ofNeg beq_eq_false_iff_ne .next
  case groupAliasWrite => exact .ofNeg beq_eq_false_iff_ne .next
  case busBurst b => exact .ofNeg (ok := !b.beats.isEmpty && decide (b.beats.length ≤ 16)) (by simp [imp_iff_not_or]) .next
  case busTimeout m target w a beats => exact .ofNeg (ok := decide (8 ≤ target.val) && beats.val != 0) (by simp [imp_iff_not_or]) .next
  case flashOperationDone => exact .ofRuns (flashOperationDone_runs ..)
  case loopPassEnd => exact .ofRuns (loopPassEnd_runs ..)
  case dispatchRecord => exact .ofRuns (dispatchRecord_runs ..)
  case wispRestoreDone => exact .ofRuns (wispRestoreDone_runs ..)
  case spSlip => exact .ofRuns (spSlip_runs ..)
  case decStart => exact .ofRuns (decStart_runs ..)
  case decSettleEnd | decStopEnd | decTimerStrobe | decWindowEnd | decFifoRead | spFrameAligned | spDataTick | spSlotCrossing | spZcTimeout | spLeadOutEnd | spUnderrun | spOverrun | spGlitch | spLost | spRealign | anaGainWrite | gainStepTimeout | aoutHoldEnd | aoutZcTimeout | lsLearnStart | genSegmentEnd | sapAnnounceReceived | duskExitReady | ptpMessageSend =>
    exact .ofRuns (.ite .next .next)
  case decStop | spMaskCommit | drvOvercurrent | ptpMessageReceived | announceTimeout =>
    exact .ofRuns (.ite .next (.ite .next .next))
  case aoutGateCrossing => exact .ofRuns (.ite (.ite .next .next) .next)
  case biasStateChange => exact .ofRuns (.ite .next (.ite .next (.ite .next .next)))
  case cinSample => exact .ofRuns (.ite (.ite .next .next) (.ite .next .next))
  case streamPacketTransmit => exact .ofRuns (.ite .next (.ite .next (.ite .next .next)))
  case wispAbandon => exact .ofRuns (wispAbandon_runs ..)
  case dlqTransferDone => exact .ofRuns (dlqTransferDone_runs ..)
  case imgDipBypass => exact .ofRuns (imgDipBypass_runs ..)
  case imgSwitchTick => exact .ofRuns (imgSwitchTick_runs ..)
  case imgActivateComplete => exact .ofRuns (imgActivateComplete_runs ..)
  case spMaskTakeEffect => exact .ofRuns (spMaskTakeEffect_runs ..)
  case lsEstimate => exact .ofRuns (lsEstimate_runs ..)
  case chainStepAdvance => exact .ofRuns (chainStepAdvance_runs ..)
  case playerUnderrun => exact .ofRuns (playerUnderrun_runs ..)
  case scanVerify => exact .ofRuns (scanVerify_runs ..)
  all_goals exact .ofRuns .next

theorem Instr.taken_of_wf {i : Instr} (h : i.wf = true) : i.taken = true := by simp [Instr.taken, h]

/-- Only an update of an estimate and the packets are taken with operands that are not well formed. -/
theorem Instr.taken_eq_wf {i : Instr} (hp : i.packet = none) (hv : ∀ z e, i ≠ .visUpdate z e) : i.taken = i.wf := by
  cases i
  case visUpdate z e => exact absurd rfl (hv z e)
  all_goals simp [Instr.taken, Instr.runsAlways, hp]

/-- Settles O2: `exec_guarded` for the outcome, `exec_keeps` for the queue. -/
theorem wellFormedCompletes : Obligations.WellFormedCompletes := by
  constructor
  · intro i s hwf
    obtain ⟨t, ht⟩ := (exec_guarded s i).runs (Instr.taken_of_wf hwf)
    exact ⟨t, ht, ((exec_keeps (.refl s) i).next t ht).pending⟩
  · intro i s hwf hp hv
    exact (exec_guarded s i).stops ((Instr.taken_eq_wf hp hv).trans hwf)

end Sys2Proof

namespace Sys2Proof.Machine

/-- Settles O4: the stores of the reset state list nothing, and an empty store is canonical. -/
theorem resetStored : Obligations.ResetStored :=
  ⟨⟨rfl, rfl, rfl⟩, rfl, fun _ => rfl, rfl, by decide⟩

end Sys2Proof.Machine

/-! ## Frames of register writes, and the counter rows -/

namespace Sys2Proof.Machine

variable {s t : State} {l : List Nat}

/-! ### What a register write leaves alone -/

theorem State.reg_withLastRead (s : State) (w : Word) (a : Nat) : ({ s with lastRead := w } : State).reg a = s.reg a := rfl

theorem State.isSet_withLastRead (s : State) (w : Word) (f : Fld) : ({ s with lastRead := w } : State).isSet f = s.isSet f := rfl

theorem State.OnlyRegs.refl (s : State) (l : List Nat) : s.OnlyRegs s l := ⟨fun _ _ => rfl, rfl⟩

theorem State.OnlyRegs.setReg (h : s.OnlyRegs t l) {a : Nat} (v : Word) (ha : a ∈ l := by simp) : s.OnlyRegs (t.setReg a v) l := by
  obtain ⟨hreg, hrest⟩ := h
  constructor
  · intro b hb
    rw [State.reg_setReg_other t v fun e : b = a => hb (e ▸ ha)]
    exact hreg b hb
  · unfold State.setReg
    rw [hrest]

theorem State.OnlyRegs.wr (h : s.OnlyRegs t l) {f : Fld} (v : Nat) (hf : f.addr ∈ l := by simp) : s.OnlyRegs (t.wr f v) l :=
  h.setReg _ hf

theorem State.OnlyRegs.set1 (h : s.OnlyRegs t l) {f : Fld} (hf : f.addr ∈ l := by simp) : s.OnlyRegs (t.set1 f) l := h.wr 1 hf

/-! ### Clearing a list of registers -/

/-- The registers of a list at 0. -/
def State.clearRegs (s : State) (l : List Nat) : State := l.foldl (fun t a => t.setReg a 0) s

/-- A loop that clears one register per pass clears the list of them. -/
theorem upTo_setReg_zero (n : Nat) (f : Nat → Nat) (s : State) :
    upTo n (fun k t => t.setReg (f k) 0) s = s.clearRegs ((List.range n).map f) := by
  unfold upTo State.clearRegs
  rw [List.foldl_map]

theorem State.reg_clearRegs (s : State) (l : List Nat) (a : Nat) : (s.clearRegs l).reg a = if a ∈ l then 0 else s.reg a := by
  induction l generalizing s with
  | nil => rfl
  | cons b l ih =>
    show ((s.setReg b 0).clearRegs l).reg a = _
    rw [ih, State.reg_setReg]
    by_cases hl : a ∈ l <;> by_cases hb : a = b <;> simp [hl, hb]

theorem State.clearRegs_rest (s : State) (l : List Nat) : s.clearRegs l = { s with regs := (s.clearRegs l).regs } := by
  induction l generalizing s with
  | nil => rfl
  | cons b l ih => exact ih (s.setReg b 0)

theorem State.clearRegs_onlyRegs (s : State) (l : List Nat) : s.OnlyRegs (s.clearRegs l) l :=
  ⟨fun a ha => by rw [State.reg_clearRegs, if_neg ha], State.clearRegs_rest s l⟩

/-- A command whose effect is to clear the registers of a list. -/
theorem Does.ofClearRegs {i : Instr} (h : exec i s = .next (s.clearRegs l)) :
    Does i s fun t => (∀ a ∈ l, t.reg a = 0) ∧ s.OnlyRegs t l :=
  ⟨_, h, fun a ha => by rw [State.reg_clearRegs, if_pos ha], State.clearRegs_onlyRegs s l⟩

/-- A command whose effect is to clear an array of registers. -/
theorem Does.ofClearArray {i : Instr} {n : Nat} {f : Nat → Nat} (h : exec i s = .next (upTo n (fun k t => t.setReg (f k) 0) s)) :
    Does i s fun t => (∀ k, k < n → t.reg (f k) = 0) ∧ s.OnlyRegs t ((List.range n).map f) := by
  obtain ⟨t, ht, hzero, honly⟩ := Does.ofClearRegs (h.trans (by rw [upTo_setReg_zero]))
  exact ⟨t, ht, fun k hk => hzero _ (List.mem_map_of_mem (List.mem_range.mpr hk)), honly⟩

/-! ### A read that takes a register's word -/

theorem State.takeReg_onlyRegs (s : State) (a : Nat) (v : Word) : s.OnlyRegs { s.takeReg a v with lastRead := s.lastRead } [a] :=
  (State.OnlyRegs.refl s [a]).setReg v

/-- A command that reads a register's word and leaves another one there. -/
theorem Does.ofTakeReg {i : Instr} {a : Nat} {v : Word} (h : exec i s = .next (s.takeReg a v)) :
    Does i s fun t => t.lastRead = s.reg a ∧ t.reg a = v ∧ s.OnlyRegs { t with lastRead := s.lastRead } [a] :=
  ⟨_, h, rfl, s.reg_setReg_same a v, s.takeReg_onlyRegs a v⟩

/-- A command that reads a register's word and leaves one of its fields at 0. -/
theorem Does.ofTakeFld {i : Instr} {f : Fld} (h : exec i s = .next (s.takeReg f.addr (putFld f (s.reg f.addr) 0)))
    (hf : f.lo + f.width ≤ 32) :
    Does i s fun t => t.lastRead = s.reg f.addr ∧ t.rd f = 0 ∧ (∀ g, f.apart g → t.rd g = s.rd g) ∧
      s.OnlyRegs { t with lastRead := s.lastRead } [f.addr] := by
  refine ⟨_, h, rfl, ?_, fun g hg => s.rd_wr_apart 0 hg hf, s.takeReg_onlyRegs _ _⟩
  exact (s.rd_wr_same f 0 hf).trans (Nat.zero_mod _)

theorem State.unavail_isSet (s : State) : s.unavail.isSet BUS_STATUS.unavail = true :=
  State.flagEvent_isSet _ _ 0 0 (by decide)

theorem State.unavail_reg (s : State) {a : Nat} (hlog : a ∉ logRegs) (hev : a ≠ BUS_EVCNT) (hst : a ≠ BUS_STATUS) :
    s.unavail.reg a = s.reg a := by
  unfold State.unavail
  rw [State.flagEvent_reg _ _ _ _ hlog hst]
  exact State.reg_wr_other _ _ hev

theorem exec_cluLoadRead_open {n : Fin 4} {k : Fin 8} (h : s.gated (CLU_CORE_LOAD n.val k.val) = false) :
    exec (.cluLoadRead n k) s = .next (s.takeReg (CLU_CORE_LOAD n.val k.val) 0) :=
  congrArg Host.Outcome.next (if_neg (by rw [h]; decide))

theorem exec_cluLoadRead_gated {n : Fin 4} {k : Fin 8} (h : s.gated (CLU_CORE_LOAD n.val k.val) = true) :
    exec (.cluLoadRead n k) s = .next { s.unavail with lastRead := 0 } :=
  congrArg Host.Outcome.next (if_pos h)

/-- A register of a cluster's core is neither one of the log nor one that a refused access counts in. -/
theorem CLU_CORE_LOAD_outside (n k : Nat) :
    CLU_CORE_LOAD n k ∉ logRegs ∧ CLU_CORE_LOAD n k ≠ BUS_EVCNT ∧ CLU_CORE_LOAD n k ≠ BUS_STATUS := by
  simp only [logRegs, List.mem_cons, List.not_mem_nil, or_false, CLU_CORE_LOAD, LOG_NEXT, LOG_STAGED, LOG_LOST, LOG_STATUS, BUS_EVCNT,
    BUS_STATUS]
  omega

/-- Settles O25: every clear is `State.clearRegs` of its counters, every read is `State.takeReg` of its register. -/
theorem counterRows : Obligations.CounterRows := by
  intro s
  refine ⟨?clears, ?sram, ?errors, ?sinks, ?cores, ?margin, ?load, ?gatedLoad, ?dram, ?wait, ?pend, ?susp, ?tj⟩
  case clears =>
    intro p hp
    refine .ofClearRegs ?_
    fin_cases hp <;> rfl
  case sram =>
    have hzero (a : Nat) (ha : a ∈ [MEM_SRAM_ECC, MEM_SP_ECC 0, MEM_SP_ECC 1, MEM_SP_ECC 2, MEM_SP_ECC 3]) :
        ((s.clearRegs [MEM_SRAM_ECC, MEM_SP_ECC 0, MEM_SP_ECC 1, MEM_SP_ECC 2, MEM_SP_ECC 3]).wr MEM_ECC_LAST.valid 0).reg a = 0 := by
      rw [State.reg_wr_other _ _ (by rintro rfl; revert ha; decide), State.reg_clearRegs, if_pos ha]
    refine ⟨_, rfl, hzero _ (by simp), ?_, State.rd_wr_same _ _ _, ?_⟩
    · intro n hn
      exact hzero _ (by interval_cases n <;> simp)
    · refine State.OnlyRegs.wr ?_ 0
      exact State.OnlyRegs.setReg (.setReg (.setReg (.setReg (.setReg (.refl s _) 0) 0) 0) 0) 0
  case errors =>
    refine ⟨_, rfl, ?_, State.rd_wr_same _ _ _, ((State.OnlyRegs.refl s _).setReg 0).wr 0⟩
    rw [State.busClrErr, State.reg_wr_other _ _ (by decide), State.reg_setReg_same]
  case sinks => exact .ofClearArray rfl
  case cores => exact fun n => .ofClearArray rfl
  case margin => exact .ofTakeReg rfl
  case load => exact fun n k hg => .ofTakeReg (exec_cluLoadRead_open hg)
  case gatedLoad =>
    intro n k hg
    obtain ⟨hlog, hcnt, hstat⟩ := CLU_CORE_LOAD_outside n.val k.val
    exact ⟨_, exec_cluLoadRead_gated hg, rfl, (s.unavail.isSet_withLastRead 0 _).trans s.unavail_isSet,
      (s.unavail.reg_withLastRead 0 _).trans (s.unavail_reg hlog hcnt hstat)⟩
  case dram => exact .ofTakeReg rfl
  case wait =>
    intro k
    obtain ⟨t, ht, hread, hmax, hother, honly⟩ := Does.ofTakeFld (s := s) (i := .busWaitRead k) (f := BUS_WAIT.max k.val) rfl (by simp)
    exact ⟨t, ht, hread, hmax, hother _ (.inr (.inl (by simp))), honly⟩
  case pend =>
    obtain ⟨t, ht, hread, hpeak, -, honly⟩ := Does.ofTakeFld (s := s) (i := .cmdPendRead) (f := CMD_PEND.peak) rfl (by decide)
    exact ⟨t, ht, hread, hpeak, honly⟩
  case susp =>
    obtain ⟨t, ht, hread, hworst, hother, honly⟩ := Does.ofTakeFld (s := s) (i := .flashcSuspRead) (f := FLASHC_SUSP.worst) rfl (by decide)
    exact ⟨t, ht, hread, hworst, hother _ (by decide), honly⟩
  case tj => exact ⟨_, rfl, rfl, s.reg_setReg_same PWR_TJ_MAX 0, rfl, s.takeReg_onlyRegs PWR_TJ_MAX 0⟩

end Sys2Proof.Machine

/-! ## Pushes, capture arm and meters of the fabric -/

namespace Sys2Proof.Machine

variable {s : State} {m : Master}

/-- What a value as wide as its field reads as. -/
theorem State.rd_wr_bitVec (s : State) (f : Fld) (w : BitVec f.width) (h : f.lo + f.width ≤ 32 := by decide) :
    (s.wr f w.toNat).rd f = w.toNat := by
  rw [State.rd_wr_same s f _ h, Nat.mod_eq_of_lt w.isLt]

/-- A write-protect event changes nothing but the log. -/
theorem State.wpEvent_onlyLogged (s : State) (m : Master) (a : Nat) : s.OnlyLogged (s.wpEvent m a) [] := s.event_onlyLogged _ _ _

/-! ### The swap queue -/

theorem exec_xptQpush_locked (h : s.pairLocked m = true) : exec (.xptQpush m) s = .next (s.wpEvent m XPT_QPUSH) :=
  congrArg Host.Outcome.next (if_pos h)

theorem exec_xptQpush_open (h : s.pairLocked m = false) : exec (.xptQpush m) s = .next s.xptPush :=
  congrArg Host.Outcome.next (if_neg (by rw [h]; decide))

theorem State.stagedXpt_ok : s.stagedXpt.ok = true ↔
    s.rd XPT_QENT1.op ≤ 1 ∧ s.rd XPT_QENT1.scope ≤ 2 ∧ (s.rd XPT_QENT1.scope ≠ 1 ∨ s.rd XPT_QENT1.target < 64) := by
  unfold XptEntry.ok
  simp only [Bool.and_eq_true, Bool.or_eq_true, decide_eq_true_eq, and_assoc]
  rfl

theorem State.xptPush_ok (h : s.stagedXpt.ok = true) : s.xptPush = s.pushXpt s.stagedXpt := if_pos h

theorem State.xptPush_bad (h : s.stagedXpt.ok = false) : s.xptPush = s.set1 XPT_STATUS.bad_entry := if_neg (by rw [h]; decide)

theorem State.pushXpt_room {e : XptEntry} (h : s.xpt.queue.length < 32) :
    s.pushXpt e = { s with xpt := { s.xpt with queue := s.xpt.queue ++ [e] } } := if_neg (by omega)

theorem State.pushXpt_full {e : XptEntry} (h : 32 ≤ s.xpt.queue.length) : s.pushXpt e = s.set1 XPT_STATUS.q_full := if_pos h

/-- A command that sets one status bit. -/
theorem Does.ofSet1 {i : Instr} {f : Fld} (h : exec i s = .next (s.set1 f)) (hf : f.lo + f.width ≤ 32 := by decide)
    (hw : 0 < f.width := by decide) : Does i s fun t => t.isSet f = true ∧ s.OnlyRegs t [f.addr] :=
  ⟨_, h, s.isSet_set1 f hf hw, (State.OnlyRegs.refl s _).set1⟩

/-! ### The patch queue -/

theorem exec_patchPush_locked (h : s.pairLocked m = true) : exec (.patchPush m) s = .next (s.wpEvent m PATCH_PUSH) :=
  congrArg Host.Outcome.next (if_pos h)

theorem exec_patchPush_open (h : s.pairLocked m = false) : exec (.patchPush m) s = .next s.patchPush :=
  congrArg Host.Outcome.next (if_neg (by rw [h]; decide))

/-- Whether the staged patch request may join the queue. -/
def State.patchTaken (s : State) : Bool :=
  validReq (s.rd PATCH_REQ1.op) (s.rd PATCH_REQ1.entry) (s.rd PATCH_REQ2.value)
    && !s.patchProtected (s.rd PATCH_REQ1.op) (s.rd PATCH_REQ1.entry)

theorem State.patchPush_bad (h : s.patchTaken = false) : s.patchPush = s.set1 PATCH_STATUS.bad_req :=
  if_pos (by simpa [State.patchTaken, State.stagedPatch, imp_iff_not_or] using h)

theorem State.patchPush_taken (h : s.patchTaken = true) : s.patchPush =
    if 64 ≤ s.patch.queue.length then s.set1 PATCH_STATUS.q_full
    else { s with patch := { s.patch with queue := s.patch.queue ++ [s.stagedPatch] } } :=
  if_neg (by simpa [State.patchTaken, State.stagedPatch] using h)

/-! ### Capture buffers and meters -/

@[simp] theorem State.cap_wr (s : State) (f : Fld) (v n : Nat) : (s.wr f v).cap n = s.cap n := rfl

@[simp] theorem State.cap_setCap_same (s : State) (n : Nat) (c : CapState) : (s.setCap n c).cap n = c := SMap.get_set_same _ _ _ _

theorem State.cap_setCap_other (s : State) {n k : Nat} (c : CapState) (h : k ≠ n) : (s.setCap n c).cap k = s.cap k :=
  SMap.get_set_other _ _ _ _ _ h

theorem State.armCapture_cap_same (s : State) (n : Nat) (a : Word) (o : Option CmdRef) :
    (s.armCapture n a o).cap n = ⟨true, if later32 a s.cycle then a else s.cycle + 1, 0, o⟩ := by
  unfold State.armCapture
  rw [State.cap_wr, State.cap_setCap_same]

theorem State.armCapture_cap_other (s : State) {n k : Nat} (a : Word) (o : Option CmdRef) (h : k ≠ n) :
    (s.armCapture n a o).cap k = s.cap k := by
  unfold State.armCapture
  rw [State.cap_wr, State.cap_setCap_other s _ h]

theorem State.armCapture_arm (s : State) (n : Nat) (a : Word) (o : Option CmdRef) : (s.armCapture n a o).rd (XPT_CAP_CFG.arm n) = 1 :=
  State.rd_wr_same _ (XPT_CAP_CFG.arm n) 1 (by simp)

/-- A register write beside an update of the crosspoint's part. -/
theorem State.OnlyRegs.setRegXpt (s : State) (x : XptState) (a : Nat) (v : Word) :
    s.OnlyRegs { ({ s with xpt := x } : State).setReg a v with xpt := s.xpt } [a] := (State.OnlyRegs.refl s [a]).setReg v

theorem State.armCapture_onlyRegs (s : State) (n : Nat) (a : Word) (o : Option CmdRef) :
    s.OnlyRegs { s.armCapture n a o with xpt := s.xpt } [XPT_CAP_CFG n] := State.OnlyRegs.setRegXpt s _ _ _

theorem exec_xptCapArm_idle {n : Fin 4} (h : (s.cap n.val).armed = false) :
    exec (.xptCapArm n) s = .next (s.armCapture n.val (s.reg (XPT_CAP_START n.val)) none) :=
  congrArg Host.Outcome.next (if_neg (by rw [h]; decide))

theorem exec_xptCapArm_armed {n : Fin 4} (h : (s.cap n.val).armed = true) : exec (.xptCapArm n) s = .next s :=
  congrArg Host.Outcome.next (if_pos h)

theorem exec_patchMtrCfgWrite_new {w : BitVec 4} (h : s.rd PATCH_MTR_CFG.win ≠ w.toNat) : exec (.patchMtrCfgWrite w) s =
    .next { s.wr PATCH_MTR_CFG.win w.toNat with xpt := { s.xpt with mtrStarted := false, mtrAcc := [] } } :=
  congrArg Host.Outcome.next (if_neg h)

theorem exec_patchMtrCfgWrite_old {w : BitVec 4} (h : s.rd PATCH_MTR_CFG.win = w.toNat) : exec (.patchMtrCfgWrite w) s = .next s :=
  congrArg Host.Outcome.next (if_pos h)

/-- Settles O38: the pushes by `exec_xptQpush_open` and `exec_patchPush_open` with the cases of the staged entry and of the room. -/
theorem fabricPushes : Obligations.FabricPushes := by
  intro s m
  refine ⟨?locked, ?xpt, ?xptBad, ?patch, ?patchBad, ?arm, fun n => exec_xptCapArm_armed, rfl, ?meter, fun w => exec_patchMtrCfgWrite_old⟩
  case locked =>
    intro hm
    exact ⟨⟨_, exec_xptQpush_locked hm, s.wpEvent_onlyLogged _ _⟩, ⟨_, exec_patchPush_locked hm, s.wpEvent_onlyLogged _ _⟩⟩
  case xpt =>
    intro hm hop hscope htarget
    have hpush := (exec_xptQpush_open hm).trans (congrArg _ (State.xptPush_ok (State.stagedXpt_ok.mpr ⟨hop, hscope, htarget⟩)))
    constructor
    · intro hroom
      rw [hpush, State.pushXpt_room hroom]
      rfl
    · intro hfull
      exact .ofSet1 (by rw [hpush, State.pushXpt_full hfull])
  case xptBad =>
    intro hm hbad
    refine .ofSet1 ?_
    rw [exec_xptQpush_open hm, State.xptPush_bad (Bool.eq_false_iff.mpr fun hok => ?_)]
    have := State.stagedXpt_ok.mp hok
    omega
  case patch =>
    intro hm hvalid hprot
    have hpush := (exec_patchPush_open hm).trans (congrArg _ (State.patchPush_taken (by simp [State.patchTaken, hvalid, hprot])))
    constructor
    · intro hroom
      rw [hpush, if_neg (by omega)]
      rfl
    · intro hfull
      exact .ofSet1 (by rw [hpush, if_pos hfull])
  case patchBad =>
    intro hm hbad
    refine .ofSet1 ?_
    rw [exec_patchPush_open hm, State.patchPush_bad]
    rcases hbad with h | h <;> simp [State.patchTaken, h]
  case arm =>
    intro n hn
    exact ⟨_, exec_xptCapArm_idle hn, s.armCapture_cap_same _ _ _, s.armCapture_arm _ _ _, fun k hk => s.armCapture_cap_other _ _ hk,
      s.armCapture_onlyRegs _ _ _⟩
  case meter =>
    intro w hw
    exact ⟨_, exec_patchMtrCfgWrite_new hw, s.rd_wr_bitVec PATCH_MTR_CFG.win w, rfl, (State.OnlyRegs.refl s _).wr (f := PATCH_MTR_CFG.win) _⟩

end Sys2Proof.Machine

/-! ## What a completion and the override plane's choice of holders leave alone

The completion of a command writes the ring registers, memory, the queues of Quigil and what goes to the partner or a manager. The plane's
choice of holders moves columns and patch entries, and completes commands; a port that stops releases its tracker. None of these touches a
register outside CMD, FLASHC and ASRC, a coefficient, a serial port, or a waiting commit of the plane. -/

namespace Sys2Proof.Machine

/-- A register of the blocks CMD, FLASHC and ASRC. -/
def followReg (a : Nat) : Prop := a / 0x10000 = 0x4006 ∨ a / 0x10000 = 0x4044 ∨ a / 0x10000 = 0x4012

/-- The registers of the other blocks, the coefficients, the serial ports and the plane's waiting commit are as before. -/
structure State.UnitsStay (s t : State) : Prop where
  reg : ∀ a, ¬ followReg a → t.reg a = s.reg a
  coef : t.coef = s.coef
  sp : t.sp = s.sp
  commitAt : t.ovr.commitAt = s.ovr.commitAt

variable {s0 s t : State}

theorem State.UnitsStay.refl (s : State) : s.UnitsStay s := ⟨fun _ _ => rfl, rfl, rfl, rfl⟩

/-- An update of other parts. -/
theorem State.UnitsStay.same (h : s0.UnitsStay s) (hr : t.regs = s.regs) (hc : t.coef = s.coef) (hs : t.sp = s.sp)
    (ho : t.ovr.commitAt = s.ovr.commitAt) : s0.UnitsStay t where
  reg a ha := by
    rw [← h.reg a ha]
    unfold State.reg
    rw [hr]
  coef := hc.trans h.coef
  sp := hs.trans h.sp
  commitAt := ho.trans h.commitAt

theorem State.UnitsStay.rd (h : s.UnitsStay t) (f : Fld) (hf : ¬ followReg f.addr) : t.rd f = s.rd f := by
  unfold State.rd
  rw [h.reg _ hf]

theorem State.UnitsStay.isSet (h : s.UnitsStay t) (f : Fld) (hf : ¬ followReg f.addr) : t.isSet f = s.isSet f := by
  unfold State.isSet
  rw [h.rd f hf]

theorem State.UnitsStay.setReg (h : s0.UnitsStay s) {a : Nat} (v : Word) (ha : followReg a) : s0.UnitsStay (s.setReg a v) where
  reg b hb := by
    rw [State.reg_setReg_other s v fun e : b = a => hb (e ▸ ha)]
    exact h.reg b hb
  coef := h.coef
  sp := h.sp
  commitAt := h.commitAt

theorem State.UnitsStay.wr (h : s0.UnitsStay s) {f : Fld} (v : Nat) (hf : followReg f.addr) : s0.UnitsStay (s.wr f v) := h.setReg _ hf

theorem State.UnitsStay.wrapInc (h : s0.UnitsStay s) {f : Fld} (k : Nat) (hf : followReg f.addr) : s0.UnitsStay (s.wrapInc f k) :=
  h.setReg _ hf

theorem State.UnitsStay.bump (h : s0.UnitsStay s) {f : Fld} (k : Nat) (hf : followReg f.addr) : s0.UnitsStay (s.bump f k) := h.setReg _ hf

theorem State.UnitsStay.setMemWords (h : s0.UnitsStay s) {a : Nat} {l : List Word} : s0.UnitsStay (s.setMemWords a l) :=
  h.same rfl rfl rfl rfl

theorem State.UnitsStay.ite {c : Prop} [Decidable c] (h : s0.UnitsStay s) (k : s0.UnitsStay t) : s0.UnitsStay (if c then s else t) := by
  split
  · exact h
  · exact k

theorem State.UnitsStay.forAll {α : Type} {l : List α} {f : α → State → State} (h : s0.UnitsStay s)
    (k : ∀ x ∈ l, ∀ t, s0.UnitsStay t → s0.UnitsStay (f x t)) : s0.UnitsStay (forAll l f s) := by
  induction l generalizing s with
  | nil => exact h
  | cons x l ih => exact ih (k x (by simp) s h) fun y hy => k y (List.mem_cons_of_mem x hy)

theorem State.UnitsStay.upTo {n : Nat} {f : Nat → State → State} (h : s0.UnitsStay s)
    (k : ∀ x t, s0.UnitsStay t → s0.UnitsStay (f x t)) : s0.UnitsStay (upTo n f s) := h.forAll fun x _ => k x

/-! ### Completions -/

theorem followReg_CMD_RING_CI (n : Fin 16) : followReg (CMD_RING_CI n) := by
  unfold followReg CMD_RING_CI
  omega

theorem followReg_CMD_RING_STAT (n : Fin 16) : followReg (CMD_RING_STAT n) := by
  unfold followReg CMD_RING_STAT
  omega

theorem followReg_CMD_PEND : followReg CMD_PEND := .inl (by decide)

variable {c : Cmd} {r : CmdRef} {o : Option CmdRef} {st d : Nat} {a : Word} {bs : List Byte}

theorem State.UnitsStay.writeEntry (h : s0.UnitsStay s) : s0.UnitsStay (s.writeEntry c st d a bs) := by
  unfold State.writeEntry
  refine State.UnitsStay.wrapInc (f := CMD_RING_CI.cpi c.ring.val) (.setMemWords (.ite ?_ h)) 1 (followReg_CMD_RING_CI _)
  exact h.same rfl rfl rfl rfl

theorem State.UnitsStay.mgmtEntry (h : s0.UnitsStay s) {src : Word} {alarm : Bool} : s0.UnitsStay (s.mgmtEntry src alarm c st d a bs) := by
  unfold State.mgmtEntry
  refine State.UnitsStay.same (s := if c.xreply && !bs.isEmpty then _ else s.drawFree.2) ?_ rfl rfl rfl rfl
  exact .ite (h.same rfl rfl rfl rfl) (h.same rfl rfl rfl rfl)

theorem State.UnitsStay.answer (h : s0.UnitsStay s) : s0.UnitsStay (s.answer c st d a bs) := by
  unfold State.answer
  split
  · exact h.writeEntry
  · exact h.mgmtEntry
  · exact h.same rfl rfl rfl rfl
  · exact h.same rfl rfl rfl rfl

theorem State.UnitsStay.complete (h : s0.UnitsStay s) : s0.UnitsStay (s.complete c st d a bs) := by
  unfold State.complete
  have hans : s0.UnitsStay (s.answer c st d a bs) := h.answer
  dsimp only
  split
  · exact hans.wr _ (followReg_CMD_RING_STAT _)
  · exact hans.same rfl rfl rfl rfl
  · exact hans
  · exact hans

theorem State.UnitsStay.pendSync (h : s0.UnitsStay s) : s0.UnitsStay s.pendSync := by
  unfold State.pendSync
  have hfree : s0.UnitsStay (s.wr CMD_PEND.free (1024 - s.pendUsed)) := h.wr _ followReg_CMD_PEND
  exact .ite (hfree.wr _ followReg_CMD_PEND) hfree

theorem State.UnitsStay.mapOut (h : s0.UnitsStay s) {f : Outst → Outst} : s0.UnitsStay (s.mapOut r f) := h.same rfl rfl rfl rfl

theorem State.UnitsStay.releaseAborts (h : s0.UnitsStay s) : s0.UnitsStay (s.releaseAborts r) := by
  unfold State.releaseAborts
  exact State.UnitsStay.forAll (h.same rfl rfl rfl rfl) fun _ _ _ k => k.complete

theorem State.UnitsStay.finish (h : s0.UnitsStay s) : s0.UnitsStay (s.finish r st d bs) := by
  unfold State.finish
  split
  · exact h
  · refine State.UnitsStay.releaseAborts (.pendSync (.complete ?_))
    exact h.same rfl rfl rfl rfl

theorem State.UnitsStay.ownerDone (h : s0.UnitsStay s) : s0.UnitsStay (s.ownerDone o) := by
  unfold State.ownerDone
  split
  · exact h
  · split
    · exact h
    · exact .ite h.finish h.mapOut

theorem State.UnitsStay.ownerCancel (h : s0.UnitsStay s) : s0.UnitsStay (s.ownerCancel o) := by
  unfold State.ownerCancel
  split
  · exact h
  · exact h.finish

theorem State.UnitsStay.ownerHeld (h : s0.UnitsStay s) : s0.UnitsStay (s.ownerHeld o) := by
  unfold State.ownerHeld
  split
  · exact h
  · split
    · exact h
    · exact State.UnitsStay.mapOut (.ite h h.answer)

/-! ### The override plane -/

theorem State.UnitsStay.commitPatch (h : s0.UnitsStay s) {q : PatchReq} : s0.UnitsStay (s.commitPatch q a) := by
  unfold State.commitPatch
  have hent {k : Nat} {e : PatchEnt} : s0.UnitsStay (s.setEnt k e) := h.same rfl rfl rfl rfl
  refine .ite (.ite hent.ownerCancel (.ownerHeld ?_)) (.ite hent.ownerDone hent)
  split
  · exact hent.ownerCancel
  · exact hent

theorem State.UnitsStay.setOcol (h : s0.UnitsStay s) {m : Nat} {x : OvrCol} : s0.UnitsStay (s.setOcol m x) := h.same rfl rfl rfl rfl

theorem State.UnitsStay.resolveCol (h : s0.UnitsStay s) {m : Nat} : s0.UnitsStay (s.resolveCol a m) := by
  unfold State.resolveCol
  dsimp only
  split
  · refine .ite h (State.UnitsStay.forAll (h.same rfl rfl rfl rfl) fun _ _ _ k => k.commitPatch)
  · exact h.setOcol
  · exact h

theorem State.UnitsStay.resolve (h : s0.UnitsStay s) : s0.UnitsStay (s.resolve a) := by
  unfold State.resolve
  exact .ite h (.forAll h fun _ _ _ k => k.resolveCol)

theorem State.UnitsStay.flashEnqueue (h : s0.UnitsStay s) {q : FlashReq} : s0.UnitsStay (s.flashEnqueue q) := by
  have hstat : followReg FLASHC_STATUS := .inr (.inl (by decide))
  have hsusp : followReg FLASHC_SUSP := .inr (.inl (by decide))
  unfold State.flashEnqueue
  split
  · exact (h.wr (f := FLASHC_STATUS.op) q.op hstat).same rfl rfl rfl rfl
  · refine .ite ?_ (h.same rfl rfl rfl rfl)
    refine State.UnitsStay.bump (f := FLASHC_SUSP.count) (.wr (f := FLASHC_STATUS.susp) (.wr (f := FLASHC_STATUS.op) ?_ 1 hstat) 1 hstat)
      1 hsusp
    exact h.same rfl rfl rfl rfl

theorem State.UnitsStay.cinReload (h : s0.UnitsStay s) : s0.UnitsStay (s.cinReload a) := by
  unfold State.cinReload
  refine h.upTo fun _ _ k => ?_
  dsimp only
  exact .ite k (.ite (k.same rfl rfl rfl rfl) (.ite (k.same rfl rfl rfl rfl) (k.same rfl rfl rfl rfl)))

end Sys2Proof.Machine

/-! ## Arming the override plane and committing its table -/

namespace Sys2Proof.Machine

variable {s t : State} {l : List Nat}

/-! ### What a logged change leaves alone -/

theorem State.OnlyLogged.refl (s : State) (l : List Nat) : s.OnlyLogged s l := ⟨fun _ _ => rfl, rfl⟩

theorem State.OnlyLogged.setReg (h : s.OnlyLogged t l) {a : Nat} (v : Word) (ha : a ∈ l := by simp) : s.OnlyLogged (t.setReg a v) l := by
  obtain ⟨hreg, hrest⟩ := h
  constructor
  · intro b hb
    rw [State.reg_setReg_other t v fun e : b = a => hb (e ▸ List.mem_append_left _ ha)]
    exact hreg b hb
  · exact State.rest_trans hrest (State.setReg_rest t a v)

theorem State.OnlyLogged.wr (h : s.OnlyLogged t l) {f : Fld} (v : Nat) (hf : f.addr ∈ l := by simp) : s.OnlyLogged (t.wr f v) l :=
  h.setReg _ hf

theorem State.OnlyLogged.event (h : s.OnlyLogged t l) (code : Nat) (p0 p1 : Word) : s.OnlyLogged (t.event code p0 p1) l := by
  obtain ⟨hreg, hrest⟩ := h
  constructor
  · intro b hb
    rw [State.event_reg t code p0 p1 fun hlog => hb (List.mem_append_right _ hlog)]
    exact hreg b hb
  · exact State.rest_trans hrest (State.event_rest t code p0 p1)

theorem State.OnlyLogged.flagEvent (h : s.OnlyLogged t l) {f : Fld} (i d : Nat) (hf : f.addr ∈ l := by simp) :
    s.OnlyLogged (t.flagEvent f i d) l :=
  (h.wr (f := f) 1 hf).event _ _ _

/-- The same beside an update of the plane's own part. -/
theorem State.OnlyLogged.withOvr (h : s.OnlyLogged t l) (x : OvrState) :
    s.OnlyLogged { ({ t with ovr := x } : State) with ovr := s.ovr } l :=
  ⟨h.1, congrArg (fun u : State => { u with ovr := s.ovr }) h.2⟩

theorem State.isSet_withOvr (s : State) (x : OvrState) (f : Fld) : ({ s with ovr := x } : State).isSet f = s.isSet f := rfl

/-! ### Flags after a write and after an event -/

/-- A read depends on the register map alone. -/
theorem State.reg_of_regs (h : t.regs = s.regs) (a : Nat) : t.reg a = s.reg a := by
  unfold State.reg
  rw [h]

theorem State.rd_of_regs (h : t.regs = s.regs) (f : Fld) : t.rd f = s.rd f := by
  unfold State.rd
  rw [State.reg_of_regs h]

theorem State.isSet_of_regs (h : t.regs = s.regs) (f : Fld) : t.isSet f = s.isSet f := by
  unfold State.isSet
  rw [State.rd_of_regs h]

theorem State.isSet_wr_zero (s : State) (f : Fld) (h : f.lo + f.width ≤ 32 := by decide) : (s.wr f 0).isSet f = false := by
  unfold State.isSet
  rw [State.rd_wr_same s f 0 h, Nat.zero_mod]
  rfl

theorem State.isSet_wr_apart (s : State) {f g : Fld} (v : Nat) (k : f.apart g) (h : f.lo + f.width ≤ 32 := by decide) :
    (s.wr f v).isSet g = s.isSet g := by
  unfold State.isSet
  rw [State.rd_wr_apart s v k h]

theorem State.rd_flagEvent_apart (s : State) {f g : Fld} (i d : Nat) (k : f.apart g) (hg : g.addr ∉ logRegs)
    (h : f.lo + f.width ≤ 32 := by decide) : (s.flagEvent f i d).rd g = s.rd g := by
  unfold State.flagEvent
  rw [State.event_rd _ _ _ _ hg]
  exact State.rd_wr_apart s 1 k h

theorem State.isSet_flagEvent_apart (s : State) {f g : Fld} (i d : Nat) (k : f.apart g) (hg : g.addr ∉ logRegs)
    (h : f.lo + f.width ≤ 32 := by decide) : (s.flagEvent f i d).isSet g = s.isSet g := by
  unfold State.isSet
  rw [State.rd_flagEvent_apart s i d k hg h]

/-! ### Arming -/

variable {m : Master} {key resp : BitVec 16}

theorem exec_ovrArmWrite_locked (h : s.pairLocked m = true) : exec (.ovrArmWrite m key) s = .next (s.wpEvent m OVR_ARM) :=
  congrArg Host.Outcome.next (if_pos h)

theorem exec_ovrArmWrite_open (h : s.pairLocked m = false) : exec (.ovrArmWrite m key) s = .next (s.armKey key) :=
  congrArg Host.Outcome.next (if_neg (by rw [h]; decide))

theorem State.armKey_lockedOut (h : s.isSet OVR_STATUS.key_lockout = true) : s.armKey key = s := if_pos h

theorem State.armKey_right (h : s.isSet OVR_STATUS.key_lockout = false) (hp : s.isSet OVR_STATUS.commit_pend = false) :
    s.armKey 0xA1A5 = s.arm := by
  unfold State.armKey
  rw [if_neg (by rw [h]; decide), if_pos rfl, if_neg (by rw [hp]; decide)]

theorem State.armKey_wrong (h : s.isSet OVR_STATUS.key_lockout = false) (hk : key ≠ 0xA1A5) : s.armKey key = s.keyFail := by
  unfold State.armKey
  rw [if_neg (by rw [h]; decide), if_neg hk]

/-- Arming but for its date: the challenge is drawn and shown. -/
def State.armed (s : State) : State :=
  (({ s with free := s.free + 1 } : State).wr OVR_STATUS.armed 1).wr OVR_ARM.chal ((Config.freeValue s.free).toNat % 65536)

theorem State.arm_eq (s : State) : s.arm = { s.armed with ovr := { s.armed.ovr with armedAt := s.armed.cycle } } := rfl

theorem State.armed_onlyRegs (s : State) : ({ s with free := s.free + 1 } : State).OnlyRegs s.armed [OVR_STATUS, OVR_ARM] :=
  ((State.OnlyRegs.refl _ _).wr (f := OVR_STATUS.armed) 1).wr (f := OVR_ARM.chal) _

theorem State.armed_cycle (s : State) : s.armed.cycle = s.cycle := s.armed_onlyRegs.1 ENG_CYCLE (by decide)

theorem State.armed_armed (s : State) : s.armed.isSet OVR_STATUS.armed = true :=
  (State.isSet_wr_apart _ _ (by decide)).trans (State.isSet_set1 _ OVR_STATUS.armed)

theorem State.armed_chal (s : State) : s.armed.rd OVR_ARM.chal = (Config.freeValue s.free).toNat % 65536 :=
  (State.rd_wr_same _ OVR_ARM.chal _).trans (Nat.mod_mod _ _)

theorem State.arm_regs (s : State) : s.arm.regs = s.armed.regs := by
  rw [State.arm_eq]

theorem State.arm_rest (s : State) :
    s.arm = { s with regs := s.arm.regs, free := s.free + 1, ovr := { s.ovr with armedAt := s.cycle } } := by
  rw [State.arm_eq, State.armed_cycle]
  exact congrArg (fun u : State => { u with ovr := { u.ovr with armedAt := s.cycle } }) s.armed_onlyRegs.2

/-- The key arms the plane with a fresh challenge. -/
theorem does_arm (hm : s.pairLocked m = false) (hl : s.isSet OVR_STATUS.key_lockout = false)
    (hp : s.isSet OVR_STATUS.commit_pend = false) : Does (.ovrArmWrite m 0xA1A5) s fun t =>
      t.isSet OVR_STATUS.armed = true ∧ t.rd OVR_ARM.chal = (Config.freeValue s.free).toNat % 65536 ∧
        s.RegsBut t [OVR_STATUS, OVR_ARM] ∧
        t = { s with regs := t.regs, free := s.free + 1, ovr := { s.ovr with armedAt := s.cycle } } := by
  refine ⟨s.arm, ?_, ?_, ?_, ?_, s.arm_rest⟩
  · rw [exec_ovrArmWrite_open hm, State.armKey_right hl hp]
  · exact (State.isSet_of_regs s.arm_regs _).trans s.armed_armed
  · exact (State.rd_of_regs s.arm_regs _).trans s.armed_chal
  · intro a ha
    exact (State.reg_of_regs s.arm_regs a).trans (s.armed_onlyRegs.1 a ha)

/-! ### Key failures -/

/-- The key failures that still count (R109). -/
def State.recentFails (s : State) : List Word := s.ovr.keyFails.filter (fun c => since s.cycle c ≤ s.cyclesOfMs 10000)

/-- The registers and the log after a key failure that is not the third within 10 s. -/
def State.keyFlag (s : State) : State := s.flagEvent OVR_STATUS.key_fail 0 0

theorem State.keyFail_few (h : s.recentFails.length < 2) :
    s.keyFail = { s.keyFlag with ovr := { s.ovr with keyFails := s.cycle :: s.recentFails } } := by
  unfold State.keyFail
  dsimp only
  rw [if_neg (by simp only [List.length_cons]; unfold State.recentFails at h; omega), State.flagEvent_ovr]
  rfl

theorem State.keyFail_many (h : 2 ≤ s.recentFails.length) :
    s.keyFail = { s.keyFlag.wr OVR_STATUS.key_lockout 1 with ovr := { s.ovr with keyFails := [] } } := by
  unfold State.keyFail
  dsimp only
  rw [if_pos (by simp only [List.length_cons]; unfold State.recentFails at h; omega), State.flagEvent_ovr]
  rfl

theorem State.keyFlag_onlyLogged (s : State) : s.OnlyLogged s.keyFlag [OVR_STATUS] :=
  (State.OnlyLogged.refl s _).flagEvent (f := OVR_STATUS.key_fail) 0 0

theorem State.keyFlag_key_fail (s : State) : s.keyFlag.isSet OVR_STATUS.key_fail = true := s.flagEvent_isSet OVR_STATUS.key_fail 0 0 (by decide)

theorem State.keyFlag_apart (s : State) {g : Fld} (h : OVR_STATUS.key_fail.apart g) (hg : g.addr ∉ logRegs) : s.keyFlag.isSet g = s.isSet g :=
  s.isSet_flagEvent_apart 0 0 h hg

theorem exec_ovrArmWrite_wrong (hm : s.pairLocked m = false) (hl : s.isSet OVR_STATUS.key_lockout = false) (hk : key ≠ 0xA1A5) :
    exec (.ovrArmWrite m key) s = .next s.keyFail := by
  rw [exec_ovrArmWrite_open hm, State.armKey_wrong hl hk]

/-- A wrong key that is not the third within 10 s is a failure and nothing more. -/
theorem does_keyFail_few (hm : s.pairLocked m = false) (hl : s.isSet OVR_STATUS.key_lockout = false) (hk : key ≠ 0xA1A5)
    (h : s.recentFails.length < 2) : Does (.ovrArmWrite m key) s fun t =>
      t.isSet OVR_STATUS.key_fail = true ∧ t.isSet OVR_STATUS.key_lockout = false ∧ t.isSet OVR_STATUS.armed = s.isSet OVR_STATUS.armed ∧
        s.OnlyLogged { t with ovr := s.ovr } [OVR_STATUS] := by
  refine ⟨_, (exec_ovrArmWrite_wrong hm hl hk).trans (congrArg _ (State.keyFail_few h)), ?_, ?_, ?_, s.keyFlag_onlyLogged.withOvr _⟩
  · rw [State.isSet_withOvr, State.keyFlag_key_fail]
  · rw [State.isSet_withOvr, State.keyFlag_apart s (by decide) (by decide), hl]
  · rw [State.isSet_withOvr, State.keyFlag_apart s (by decide) (by decide)]

/-- The third wrong key within 10 s locks arming. -/
theorem does_keyFail_many (hm : s.pairLocked m = false) (hl : s.isSet OVR_STATUS.key_lockout = false) (hk : key ≠ 0xA1A5)
    (h : 2 ≤ s.recentFails.length) : Does (.ovrArmWrite m key) s fun t =>
      t.isSet OVR_STATUS.key_fail = true ∧ t.isSet OVR_STATUS.key_lockout = true ∧ t.ovr = { s.ovr with keyFails := [] } ∧
        s.OnlyLogged { t with ovr := s.ovr } [OVR_STATUS] := by
  refine ⟨_, (exec_ovrArmWrite_wrong hm hl hk).trans (congrArg _ (State.keyFail_many h)), ?_, ?_, rfl,
    (s.keyFlag_onlyLogged.wr (f := OVR_STATUS.key_lockout) 1).withOvr _⟩
  · rw [State.isSet_withOvr, State.isSet_wr_apart s.keyFlag (f := OVR_STATUS.key_lockout) 1 (by decide), State.keyFlag_key_fail]
  · rw [State.isSet_withOvr]
    exact State.isSet_set1 s.keyFlag OVR_STATUS.key_lockout

/-! ### Expiry -/

theorem State.disarm_armed (s : State) : s.disarm.isSet OVR_STATUS.armed = false :=
  (State.isSet_wr_apart _ _ (by decide)).trans (s.isSet_wr_zero OVR_STATUS.armed)

@[simp] theorem State.disarm_ovr (s : State) : s.disarm.ovr = s.ovr := by
  rw [State.disarm, State.wr_ovr, State.wr_ovr]

theorem State.disarm_chal (s : State) : s.disarm.rd OVR_ARM.chal = 0 := State.rd_wr_same _ OVR_ARM.chal 0

/-- Disarming moves no other field of the status. -/
theorem State.isSet_disarm (s : State) {g : Fld} (ha : OVR_STATUS.armed.apart g) (hc : OVR_ARM.chal.apart g) :
    s.disarm.isSet g = s.isSet g :=
  (State.isSet_wr_apart _ 0 hc).trans (s.isSet_wr_apart 0 ha)

theorem State.OnlyLogged.disarm (h : s.OnlyLogged t [OVR_STATUS, OVR_ARM]) : s.OnlyLogged t.disarm [OVR_STATUS, OVR_ARM] :=
  (h.wr (f := OVR_STATUS.armed) 0).wr (f := OVR_ARM.chal) 0

/-- A failure that is flagged and ends the arm. -/
theorem State.flagDisarm_spec (s : State) (f : Fld) (d : Nat) (haddr : f.addr = OVR_STATUS) (hlo : 1 ≤ f.lo) (hw : f.width = 1)
    (hf : f.lo < 32) :
    (s.flagEvent f 0 d).disarm.isSet OVR_STATUS.armed = false ∧ (s.flagEvent f 0 d).disarm.isSet f = true ∧
      s.OnlyLogged (s.flagEvent f 0 d).disarm [OVR_STATUS, OVR_ARM] := by
  refine ⟨State.disarm_armed _, ?_, ?_⟩
  · rw [State.isSet_disarm _ (.inr (.inr hlo)) (.inl (by rw [haddr]; decide))]
    exact s.flagEvent_isSet f 0 d (by rw [haddr]; decide) (by omega) (by omega)
  · exact ((State.OnlyLogged.refl s _).flagEvent 0 d (by simp [haddr])).disarm

theorem exec_ovrArmExpiry_due (ha : s.isSet OVR_STATUS.armed = true) (hp : s.isSet OVR_STATUS.commit_pend = false) :
    exec .ovrArmExpiry s = .next (s.flagEvent OVR_STATUS.expired 0 0).disarm :=
  congrArg Host.Outcome.next (if_pos (by rw [ha, hp]; decide))

theorem exec_ovrArmExpiry_idle (h : s.isSet OVR_STATUS.armed = false ∨ s.isSet OVR_STATUS.commit_pend = true) :
    exec .ovrArmExpiry s = .next s :=
  congrArg Host.Outcome.next (if_neg (by rcases h with h | h <;> simp [h]))

/-! ### The commit's check -/

theorem exec_ovrCommitWrite_locked (h : s.pairLocked m = true) : exec (.ovrCommitWrite m resp) s = .next (s.wpEvent m OVR_COMMIT) :=
  congrArg Host.Outcome.next (if_pos h)

section

variable (hm : s.pairLocked m = false) (hp : s.isSet OVR_STATUS.commit_pend = false)
include hm hp

theorem exec_ovrCommitWrite_unarmed (ha : s.isSet OVR_STATUS.armed = false) : exec (.ovrCommitWrite m resp) s = .next s :=
  congrArg Host.Outcome.next
    ((if_neg (by rw [hm]; decide)).trans ((if_neg (by rw [hp]; decide)).trans (if_pos (by rw [ha]; decide))))

theorem exec_ovrCommitWrite_pass (ha : s.isSet OVR_STATUS.armed = true) (hc : s.commitCheck resp (s.reg OVR_CRC) = .pass) :
    exec (.ovrCommitWrite m resp) s = .next (s.commitPend (s.actionCycle (s.reg OVR_COMMIT_APPLY)) none) :=
  congrArg Host.Outcome.next ((if_neg (by rw [hm]; decide)).trans
    ((if_neg (by rw [hp]; decide)).trans ((if_neg (by rw [ha]; decide)).trans (by rw [hc]))))

theorem exec_ovrCommitWrite_fail (ha : s.isSet OVR_STATUS.armed = true) {c : CommitCheck}
    (hc : s.commitCheck resp (s.reg OVR_CRC) = c) (hne : c ≠ .pass) : exec (.ovrCommitWrite m resp) s = .next (s.commitFail c) := by
  refine congrArg Host.Outcome.next ((if_neg (by rw [hm]; decide)).trans
    ((if_neg (by rw [hp]; decide)).trans ((if_neg (by rw [ha]; decide)).trans ?_)))
  rw [hc]
  cases c with
  | pass => exact absurd rfl hne
  | _ => rfl

end

theorem State.keyFail_rest (s : State) : s.keyFail.isSet OVR_STATUS.key_fail = true ∧ s.keyFail.ovr.commitAt = s.ovr.commitAt := by
  by_cases h : s.recentFails.length < 2
  · rw [State.keyFail_few h]
    exact ⟨(State.isSet_withOvr s.keyFlag _ _).trans s.keyFlag_key_fail, rfl⟩
  · rw [State.keyFail_many (by omega), State.isSet_withOvr,
      State.isSet_wr_apart s.keyFlag (f := OVR_STATUS.key_lockout) 1 (by decide)]
    exact ⟨s.keyFlag_key_fail, rfl⟩

/-- A wrong response is a key failure that ends the arm. -/
theorem State.commitFail_badResp (s : State) : (s.commitFail .badResp).isSet OVR_STATUS.armed = false ∧
    (s.commitFail .badResp).isSet OVR_STATUS.key_fail = true ∧ (s.commitFail .badResp).ovr.commitAt = s.ovr.commitAt := by
  obtain ⟨hfail, hcommit⟩ := s.keyFail_rest
  rw [show s.commitFail .badResp = s.keyFail.disarm from rfl, State.disarm_ovr]
  exact ⟨State.disarm_armed _, (State.isSet_disarm s.keyFail (by decide) (by decide)).trans hfail, hcommit⟩

theorem State.commitCheck_badResp {crc : Word} (h : resp.toNat ≠ (s.rd OVR_ARM.chal).xor 0x5A5A) : s.commitCheck resp crc = .badResp := by
  refine if_pos fun e => h ?_
  have hlt : s.rd OVR_ARM.chal < 65536 := by
    unfold State.rd getFld
    exact BitVec.isLt _
  rw [e, BitVec.toNat_xor, BitVec.toNat_ofNat, Nat.mod_eq_of_lt hlt]
  rfl

theorem State.commitPend_spec (s : State) (a : Word) (o : Option CmdRef) : (s.commitPend a o).isSet OVR_STATUS.commit_pend = true ∧
    s.OnlyRegs { s.commitPend a o with ovr := s.ovr } [OVR_STATUS] ∧
    (s.commitPend a o).ovr = { s.ovr with commitAt := some a, commitBy := o } :=
  ⟨State.isSet_set1 s OVR_STATUS.commit_pend, (State.OnlyRegs.refl s _).wr (f := OVR_STATUS.commit_pend) 1, rfl⟩

end Sys2Proof.Machine

/-! ## A commit of the staging table takes effect -/

namespace Sys2Proof.Machine

variable {s t : State}

/-! ### Copying an array of registers -/

/-- One register takes the word of another. -/
def State.copyReg (s : State) (dst src : Nat) : State := if s.reg dst = s.reg src then s else s.setReg dst (s.reg src)

theorem State.reg_copyReg (s : State) (dst src a : Nat) : (s.copyReg dst src).reg a = if a = dst then s.reg src else s.reg a := by
  unfold State.copyReg
  split
  · next h => split <;> simp_all
  · exact State.reg_setReg s dst a (s.reg src)

/-- n registers from one address take the words of n registers from another, in ascending order. -/
def State.copyRegs (s : State) (dst src n : Nat) : State := upTo n (fun i t => t.copyReg (dst + 4 * i) (src + 4 * i)) s

theorem State.copyRegs_succ (s : State) (dst src n : Nat) :
    s.copyRegs dst src (n + 1) = (s.copyRegs dst src n).copyReg (dst + 4 * n) (src + 4 * n) := by
  unfold State.copyRegs upTo
  rw [List.range_succ, List.foldl_append]
  rfl

theorem State.reg_copyRegs_other (s : State) {dst src n a : Nat} (h : ∀ i, i < n → a ≠ dst + 4 * i) :
    (s.copyRegs dst src n).reg a = s.reg a := by
  induction n with
  | zero => rfl
  | succ n ih =>
    rw [State.copyRegs_succ, State.reg_copyReg, if_neg (h n (by omega))]
    exact ih fun i hi => h i (by omega)

/-- The copy, where no source lies among the targets. -/
theorem State.reg_copyRegs (s : State) {dst src n i : Nat} (h : dst + 4 * n ≤ src ∨ src + 4 * n ≤ dst) (hi : i < n) :
    (s.copyRegs dst src n).reg (dst + 4 * i) = s.reg (src + 4 * i) := by
  induction n with
  | zero => omega
  | succ n ih =>
    rw [State.copyRegs_succ, State.reg_copyReg]
    split
    · next e =>
      obtain rfl : i = n := by omega
      exact s.reg_copyRegs_other fun j hj => by omega
    · next e => exact ih (by omega) (by omega)

/-! ### The live table -/

/-- The registers once the live entries and masks have taken the staged ones. -/
def State.tableCopied (s : State) : State := (s.copyRegs 0x40221000 0x40220000 1024).copyRegs 0x40224000 0x40222000 2048

theorem State.tableCopied_entry (s : State) {i : Nat} (hi : i < 1024) :
    s.tableCopied.reg (0x40221000 + 4 * i) = s.reg (0x40220000 + 4 * i) := by
  unfold State.tableCopied
  rw [State.reg_copyRegs_other _ fun j hj => by omega, State.reg_copyRegs s (by omega) hi]

theorem State.tableCopied_mask (s : State) {i : Nat} (hi : i < 2048) :
    s.tableCopied.reg (0x40224000 + 4 * i) = s.reg (0x40222000 + 4 * i) := by
  unfold State.tableCopied
  rw [State.reg_copyRegs _ (by omega) hi, State.reg_copyRegs_other _ fun j hj => by omega]

theorem State.tableCopied_other (s : State) {a : Nat} (ha : a < 0x40221000 ∨ 0x40226000 ≤ a) : s.tableCopied.reg a = s.reg a := by
  unfold State.tableCopied
  rw [State.reg_copyRegs_other _ fun j hj => by omega, State.reg_copyRegs_other _ fun j hj => by omega]

/-- Equal entries and masks have equal bytes under the CRC. -/
theorem State.tableBytes_congr {e e' m m' : Nat} (he : ∀ i, i < 1024 → t.reg (e' + 4 * i) = s.reg (e + 4 * i))
    (hm : ∀ i, i < 2048 → t.reg (m' + 4 * i) = s.reg (m + 4 * i)) : t.tableBytes e' m' = s.tableBytes e m := by
  have hentries := List.map_congr_left (l := List.range 1024) fun i hi => he i (List.mem_range.mp hi)
  have hmasks := List.map_congr_left (l := List.range 2048) fun i hi => hm i (List.mem_range.mp hi)
  unfold State.tableBytes
  rw [hentries, hmasks]

theorem State.tableCopied_liveCrc (s : State) : s.tableCopied.liveCrc = s.stagingCrc :=
  congrArg crc32 (State.tableBytes_congr (fun _ => s.tableCopied_entry) (fun _ => s.tableCopied_mask))

theorem State.setReg_withOvr_regs (s : State) (x : OvrState) (a : Nat) (v : Word) :
    (({ s with ovr := x } : State).setReg a v).regs = (s.setReg a v).regs := rfl

theorem State.copyTable_regs (s : State) : s.copyTable.regs = (s.tableCopied.setReg OVR_LIVE_CRC s.tableCopied.liveCrc).regs := by
  unfold State.copyTable State.tableCopied State.copyRegs State.copyReg
  exact State.setReg_withOvr_regs _ _ _ _

theorem State.copyTable_reg (s : State) {a : Nat} (h : a ≠ OVR_LIVE_CRC) : s.copyTable.reg a = s.tableCopied.reg a :=
  (State.reg_of_regs s.copyTable_regs a).trans (State.reg_setReg_other _ _ h)

theorem State.copyTable_crc (s : State) : s.copyTable.reg OVR_LIVE_CRC = s.stagingCrc := by
  rw [State.reg_of_regs s.copyTable_regs, State.reg_setReg_same, State.tableCopied_liveCrc]

/-! ### The commit -/

/-- The state with the staged table live, the commit counted and the plane disarmed, before the flash and the columns follow. -/
def State.tableTaken (s : State) : State :=
  let s2 := (((s.copyTable.wrapInc OVR_GEN.count 1).disarm).wr OVR_STATUS.commit_pend 0).clearCond 13 0
  { s2 with ovr := { s2.ovr with commitAt := none, commitBy := none, storeLeft := 2 } }

/-- The registers after that. -/
def State.takenRegs (s : State) : State := ((s.copyTable.wrapInc OVR_GEN.count 1).disarm).wr OVR_STATUS.commit_pend 0

theorem State.tableTaken_regs (s : State) : s.tableTaken.regs = s.takenRegs.regs := rfl

theorem State.takenRegs_reg (s : State) {a : Nat} (h1 : a ≠ OVR_GEN) (h2 : a ≠ OVR_STATUS) (h3 : a ≠ OVR_ARM) :
    s.takenRegs.reg a = s.copyTable.reg a := by
  unfold State.takenRegs State.disarm State.wrapInc
  rw [State.reg_wr_other _ _ h2, State.reg_wr_other _ _ h3, State.reg_wr_other _ _ h2, State.reg_wr_other _ _ h1]

theorem State.takenRegs_flags (s : State) : s.takenRegs.isSet OVR_STATUS.armed = false ∧ s.takenRegs.isSet OVR_STATUS.commit_pend = false :=
  ⟨(State.isSet_wr_apart _ (f := OVR_STATUS.commit_pend) 0 (by decide)).trans (State.disarm_armed _),
    State.isSet_wr_zero _ OVR_STATUS.commit_pend⟩

theorem State.takenRegs_gen (s : State) : s.takenRegs.rd OVR_GEN.count = (s.rd OVR_GEN.count + 1) % 2 ^ OVR_GEN.count.width := by
  have hcopy : s.copyTable.rd OVR_GEN.count = s.rd OVR_GEN.count := by
    unfold State.rd
    rw [State.copyTable_reg s (by decide), State.tableCopied_other s (by decide)]
  unfold State.takenRegs State.disarm State.wrapInc
  rw [State.rd_wr_apart _ (f := OVR_STATUS.commit_pend) 0 (by decide), State.rd_wr_apart _ (f := OVR_ARM.chal) 0 (by decide),
    State.rd_wr_apart _ (f := OVR_STATUS.armed) 0 (by decide), State.rd_wr_same _ OVR_GEN.count, hcopy]

/-- A column that a trigger holds through the commit of `s` at tick `a` ramps anew where its targets differ. -/
def State.rampsAnew (s : State) (a : Word) (m : Nat) (u : State) : State :=
  let u1 := u.resolveCol a m
  let o := u1.ocol m
  if (s.ocol m).holder.isSome && (s.ocol m).holder = o.holder && targetsDiffer s u1 m then
    let len := match o.holder with
      | some t => u1.tLen t
      | none => o.len
    u1.setOcol m { o with start := a, len := len, fromG := s.rampFrom a m }
  else u1

theorem State.UnitsStay.rampsAnew {u v : State} (h : v.UnitsStay u) {a : Word} {m : Nat} : v.UnitsStay (s.rampsAnew a m u) := by
  unfold State.rampsAnew
  have hcol : v.UnitsStay (u.resolveCol a m) := h.resolveCol
  exact .ite hcol.setOcol hcol

/-- After the table is taken only the flash queue, the flags of contacts and the columns follow, and the completion of the command. -/
theorem State.tableTaken_unitsStay (s : State) (a : Word) : s.tableTaken.UnitsStay (s.takeCommit a) := by
  have htaken : s.tableTaken.UnitsStay s.tableTaken := .refl _
  have hresolved := htaken.flashEnqueue (q := ⟨2, 4, .ovrCopy⟩) |>.flashEnqueue (q := ⟨2, 4, .ovrCopy⟩) |>.cinReload (a := a)
    |>.forAll (l := s.planeCols) (f := s.rampsAnew a) (fun _ _ _ k => k.rampsAnew) |>.resolve (a := a)
  unfold State.takeCommit
  split
  · exact hresolved.finish
  · exact hresolved

/-- The block of the override plane's registers. -/
theorem not_followReg_of_ovr {a : Nat} (h : a / 0x10000 = 0x4022) : ¬ followReg a := by
  unfold followReg
  omega

theorem State.takeCommit_reg (s : State) (c : Word) {a : Nat} (ha : a / 0x10000 = 0x4022) : (s.takeCommit c).reg a = s.takenRegs.reg a :=
  ((s.tableTaken_unitsStay c).reg a (not_followReg_of_ovr ha)).trans (State.reg_of_regs s.tableTaken_regs a)

theorem State.takeCommit_isSet (s : State) (c : Word) (f : Fld) (hf : f.addr / 0x10000 = 0x4022) :
    (s.takeCommit c).isSet f = s.takenRegs.isSet f :=
  ((s.tableTaken_unitsStay c).isSet f (not_followReg_of_ovr hf)).trans (State.isSet_of_regs s.tableTaken_regs f)

theorem State.takeCommit_gen (s : State) (c : Word) :
    (s.takeCommit c).rd OVR_GEN.count = (s.rd OVR_GEN.count + 1) % 2 ^ OVR_GEN.count.width := by
  rw [(s.tableTaken_unitsStay c).rd _ (not_followReg_of_ovr (by decide)), State.rd_of_regs s.tableTaken_regs, State.takenRegs_gen]

theorem State.takeCommit_live (s : State) (c : Word) {k j : Nat} (hk : k < 64) (hj : j < 16) :
    (s.takeCommit c).live k j = s.reg (ovrStageAddr k j) := by
  have hlive : OVR_LIVE k j = 0x40221000 + 4 * (16 * k + j) := by unfold OVR_LIVE; omega
  have hstage : ovrStageAddr k j = 0x40220000 + 4 * (16 * k + j) := by unfold ovrStageAddr; omega
  unfold State.live
  rw [hlive, hstage, State.takeCommit_reg s c (by omega), State.takenRegs_reg s (by unfold OVR_GEN; omega) (by unfold OVR_STATUS; omega)
    (by unfold OVR_ARM; omega), State.copyTable_reg s (by unfold OVR_LIVE_CRC; omega), State.tableCopied_entry s (by omega)]

theorem State.takeCommit_mask (s : State) (c : Word) {g w : Nat} (hg : g < 64) (hw : w < 32) :
    (s.takeCommit c).reg (OVR_LMASK g w) = s.reg (OVR_SMASK g w) := by
  have hlive : OVR_LMASK g w = 0x40224000 + 4 * (32 * g + w) := by unfold OVR_LMASK; omega
  have hstage : OVR_SMASK g w = 0x40222000 + 4 * (32 * g + w) := by unfold OVR_SMASK; omega
  rw [hlive, hstage, State.takeCommit_reg s c (by omega), State.takenRegs_reg s (by unfold OVR_GEN; omega) (by unfold OVR_STATUS; omega)
    (by unfold OVR_ARM; omega), State.copyTable_reg s (by unfold OVR_LIVE_CRC; omega), State.tableCopied_mask s (by omega)]

theorem State.takeCommit_crc (s : State) (c : Word) : (s.takeCommit c).reg OVR_LIVE_CRC = s.stagingCrc := by
  rw [State.takeCommit_reg s c (by decide), State.takenRegs_reg s (by decide) (by decide) (by decide), State.copyTable_crc]

theorem State.commitDue_eq {a b : Word} (h : s.ovr.commitAt = some a) : s.commitDue b = !later32 a b := by
  unfold State.commitDue
  rw [h]

theorem State.commitDue_none {b : Word} (h : s.ovr.commitAt = none) : s.commitDue b = false := by
  unfold State.commitDue
  rw [h]

theorem exec_ovrCommitTakeEffect_due (h : s.commitDue (s.cycle + 1) = true) :
    exec .ovrCommitTakeEffect s = .next (s.takeCommit (s.cycle + 1)) :=
  congrArg Host.Outcome.next (if_pos h)

theorem exec_ovrCommitTakeEffect_idle (h : s.commitDue (s.cycle + 1) = false) : exec .ovrCommitTakeEffect s = .next s :=
  congrArg Host.Outcome.next (if_neg (by rw [h]; decide))

/-- Settles O40: the cases of `armKey`, of the commit's check, and of the commit's tick. -/
theorem armAndCommit : Obligations.ArmAndCommit := by
  intro s
  refine ⟨?locked, fun m => does_arm, ?wrongKey, ?lockedOut, ?expiry, fun h => exec_ovrArmExpiry_idle h, ?lockoutEnd, ?commit, ?unarmed,
    ?effect, ?noEffect⟩
  case locked =>
    intro m hm
    exact ⟨fun k => ⟨_, exec_ovrArmWrite_locked hm, s.wpEvent_onlyLogged _ _⟩, fun k => ⟨_, exec_ovrCommitWrite_locked hm, s.wpEvent_onlyLogged _ _⟩⟩
  case wrongKey =>
    intro m k hm hl hk
    exact ⟨does_keyFail_few hm hl hk, does_keyFail_many hm hl hk⟩
  case lockedOut =>
    intro m k hm hl
    rw [exec_ovrArmWrite_open hm, State.armKey_lockedOut hl]
  case expiry =>
    intro ha hp
    obtain ⟨harmed, hexpired, honly⟩ := s.flagDisarm_spec OVR_STATUS.expired 0 rfl (by decide) rfl (by decide)
    exact ⟨_, exec_ovrArmExpiry_due ha hp, harmed, hexpired, State.disarm_chal _, honly⟩
  case lockoutEnd =>
    exact ⟨_, rfl, s.isSet_wr_zero OVR_STATUS.key_lockout, (State.OnlyRegs.refl s _).wr (f := OVR_STATUS.key_lockout) 0⟩
  case commit =>
    intro m k hm hp ha
    constructor
    · intro hresp
      exact ⟨_, exec_ovrCommitWrite_fail hm hp ha (State.commitCheck_badResp hresp) (by decide), s.commitFail_badResp⟩
    · cases hc : s.commitCheck k (s.reg OVR_CRC) with
      | pass =>
        obtain ⟨hpend, honly, hovr⟩ := s.commitPend_spec (s.actionCycle (s.reg OVR_COMMIT_APPLY)) none
        exact ⟨_, exec_ovrCommitWrite_pass hm hp ha hc, hpend, honly, hovr⟩
      | badResp =>
        obtain ⟨harmed, hfail, -⟩ := s.commitFail_badResp
        exact ⟨_, exec_ovrCommitWrite_fail hm hp ha hc (by decide), harmed, hfail⟩
      | busy =>
        exact ⟨_, exec_ovrCommitWrite_fail hm hp ha hc (by decide), s.flagDisarm_spec OVR_STATUS.refused_busy 0 rfl (by decide) rfl (by decide)⟩
      | entry e =>
        exact ⟨_, exec_ovrCommitWrite_fail hm hp ha hc nofun, s.flagDisarm_spec OVR_STATUS.bad_entry e rfl (by decide) rfl (by decide)⟩
      | crc =>
        exact ⟨_, exec_ovrCommitWrite_fail hm hp ha hc (by decide), s.flagDisarm_spec OVR_STATUS.crc_fail 0 rfl (by decide) rfl (by decide)⟩
  case unarmed => exact fun m k hm hp ha => exec_ovrCommitWrite_unarmed hm hp ha
  case effect =>
    intro a hat hdue _
    obtain ⟨harmed, hpend⟩ := s.takenRegs_flags
    refine ⟨_, exec_ovrCommitTakeEffect_due (by rw [State.commitDue_eq hat, hdue]; rfl), ?_, ?_, ?_, s.takeCommit_gen _,
      fun k j => s.takeCommit_live _, fun g w => s.takeCommit_mask _, s.takeCommit_crc _⟩
    · rw [State.takeCommit_isSet s _ _ (by decide), harmed]
    · rw [State.takeCommit_isSet s _ _ (by decide), hpend]
    · exact (s.tableTaken_unitsStay _).commitAt
  case noEffect =>
    intro h
    refine exec_ovrCommitTakeEffect_idle ?_
    rcases h with h | ⟨a, hat, hlate⟩
    · exact State.commitDue_none h
    · rw [State.commitDue_eq hat, hlate]
      rfl

end Sys2Proof.Machine

/-! ## Scheduled actions, masks and gates of the serial ports -/

namespace Sys2Proof.Machine

variable {s t : State} {l : List Nat} {m : Master}

/-! ### Registers outside the log -/

/-- The log's registers lie in one block. -/
theorem not_mem_logRegs {a : Nat} (h : a / 0x10000 ≠ 0x4043) : a ∉ logRegs := by
  simp only [logRegs, LOG_NEXT, LOG_STAGED, LOG_LOST, LOG_STATUS, List.mem_cons, List.not_mem_nil, or_false]
  omega

/-- A refused write sets its flag and logs the event. -/
theorem Does.ofRefuseWrite {i : Instr} {f : Fld} (h : exec i s = .next (s.refuseWrite f m)) (hlog : f.addr ∉ logRegs)
    (hf : f.lo + f.width ≤ 32) (hw : 0 < f.width) : Does i s fun t => t.isSet f = true ∧ s.OnlyLogged t [f.addr] := by
  refine ⟨_, h, ?_, ((State.OnlyLogged.refl s _).wr (f := f) 1).event _ _ _⟩
  unfold State.isSet State.refuseWrite State.wpEvent
  rw [State.event_rd _ _ _ _ hlog]
  exact State.isSet_set1 s f hf hw

/-! ### A port's part -/

@[simp] theorem State.port_setPort_same (s : State) (n : Nat) (p : SpPort) : (s.setPort n p).port n = p := SMap.get_set_same _ _ _ _

theorem State.port_setPort_other (s : State) {n k : Nat} (p : SpPort) (h : k ≠ n) : (s.setPort n p).port k = s.port k :=
  SMap.get_set_other _ _ _ _ _ h

theorem State.port_of_sp (h : t.sp = s.sp) (n : Nat) : t.port n = s.port n := by
  unfold State.port
  rw [h]

theorem State.reg_setPort (s : State) (n : Nat) (p : SpPort) (a : Nat) : (s.setPort n p).reg a = s.reg a := rfl

theorem State.rd_setPort (s : State) (n : Nat) (p : SpPort) (f : Fld) : (s.setPort n p).rd f = s.rd f := rfl

theorem State.setPort_coef (s : State) (n : Nat) (p : SpPort) : (s.setPort n p).coef = s.coef := rfl

theorem State.setPort_wr (s : State) (n : Nat) (p : SpPort) (f : Fld) (v : Nat) : (s.setPort n p).wr f v = (s.wr f v).setPort n p := rfl

theorem State.OnlyRegs.setPort (h : s.OnlyRegs t l) (n : Nat) (p : SpPort) : s.OnlyRegs { t.setPort n p with sp := s.sp } l :=
  ⟨h.1, congrArg (fun u : State => { u with sp := s.sp }) h.2⟩

theorem State.OnlyLogged.ofSetPort {n : Nat} {p : SpPort} (h : (s.setPort n p).OnlyLogged t l) : s.OnlyLogged { t with sp := s.sp } l :=
  ⟨h.1, congrArg (fun u : State => { u with sp := s.sp }) h.2⟩

theorem SpPort.gate_set_same (p : SpPort) (k : Nat) (g : Gate) : ({ p with gates := SMap.set gateDefault p.gates k g } : SpPort).gate k = g :=
  SMap.get_set_same _ _ _ _

theorem SpPort.gate_set_other (p : SpPort) {k j : Nat} (g : Gate) (h : j ≠ k) :
    ({ p with gates := SMap.set gateDefault p.gates k g } : SpPort).gate j = p.gate j := SMap.get_set_other _ _ _ _ _ h

/-! ### Scheduled actions -/

section

variable {n : Nat} {f : Word → SpPort → SpPort}

theorem State.spCtrl_open (hg : s.gated (SP_CTRL n) = false) (hm : s.pairLocked m = false) :
    s.spCtrl m n f = s.setPort n (f (s.actionCycle (s.reg (SP_APPLY n))) (s.port n)) :=
  (if_neg (by rw [hg]; decide)).trans (if_neg (by rw [hm]; decide))

theorem State.spCtrl_locked (hg : s.gated (SP_CTRL n) = false) (hm : s.pairLocked m = true) :
    s.spCtrl m n f = s.refuseWrite (SP_STATUS.wr_refused n) m :=
  (if_neg (by rw [hg]; decide)).trans (if_pos hm)

end

variable {n : Fin 16}

theorem SP_STATUS_block (n : Fin 16) : SP_STATUS n.val / 0x10000 = 0x4010 := by
  unfold SP_STATUS
  omega

/-! ### Masks -/

/-- The masks in force. -/
def State.putMasks (s : State) (n : Nat) (tx rx : Word) : State := (s.setReg (SP_TXMASK_ACT n) tx).setReg (SP_RXMASK_ACT n) rx

theorem State.putMasks_tx (s : State) (n : Nat) (tx rx : Word) : (s.putMasks n tx rx).reg (SP_TXMASK_ACT n) = tx := by
  unfold State.putMasks
  rw [State.reg_setReg_other _ _ (by unfold SP_TXMASK_ACT SP_RXMASK_ACT; omega), State.reg_setReg_same]

theorem State.putMasks_rx (s : State) (n : Nat) (tx rx : Word) : (s.putMasks n tx rx).reg (SP_RXMASK_ACT n) = rx := State.reg_setReg_same _ _ _

theorem State.OnlyRegs.putMasks (h : s.OnlyRegs t l) {n : Nat} {tx rx : Word} (ht : SP_TXMASK_ACT n ∈ l) (hr : SP_RXMASK_ACT n ∈ l) :
    s.OnlyRegs (t.putMasks n tx rx) l := (h.setReg tx ht).setReg rx hr

theorem exec_spMaskCommit_open (hg : s.gated (SP_CTRL n.val) = false) (hm : s.pairLocked m = false) : exec (.spMaskCommit m n) s =
    .next (s.spMaskCommit n.val (s.reg (SP_TXMASK n.val)) (s.reg (SP_RXMASK n.val)) none) :=
  (if_neg (by rw [hg]; decide)).trans (if_neg (by rw [hm]; decide))

theorem exec_spMaskCommit_locked (hg : s.gated (SP_CTRL n.val) = false) (hm : s.pairLocked m = true) : exec (.spMaskCommit m n) s =
    .next (s.refuseWrite (SP_STATUS.wr_refused n.val) m) :=
  (if_neg (by rw [hg]; decide)).trans (if_pos hm)

theorem State.spMaskCommit_stopped {n : Nat} {tx rx : Word} (h : s.spState n = 0) : s.spMaskCommit n tx rx none = s.putMasks n tx rx := if_pos h

theorem State.spMaskCommit_waits {n : Nat} {tx rx : Word} (h : s.spState n ≠ 0) (ho : (s.port n).maskOwner = none) :
    s.spMaskCommit n tx rx none = (s.wr (SP_STATUS.commit_pend n) 1).setPort n { s.port n with masks := some (tx, rx), maskOwner := none } := by
  unfold State.spMaskCommit
  dsimp only
  rw [ho]
  exact if_neg h

/-- A waiting commit of masks at its frame boundary. -/
def State.masksTaken (s : State) (n : Nat) (tx rx : Word) : State :=
  ((s.putMasks n tx rx).wr (SP_STATUS.commit_pend n) 0).setPort n { s.port n with masks := none, maskOwner := none }

theorem exec_spMaskTakeEffect_due {tx rx : Word} (hw : (s.port n.val).masks = some (tx, rx)) (hs : s.spState n.val ≠ 6)
    (ho : (s.port n.val).maskOwner = none) : exec (.spMaskTakeEffect n) s = .next (s.masksTaken n.val tx rx) := by
  show execSpMaskTakeEffect n s = _
  unfold execSpMaskTakeEffect
  simp only [hw, ho]
  exact if_neg hs

theorem exec_spMaskTakeEffect_idle (h : (s.port n.val).masks = none ∨ s.spState n.val = 6) : exec (.spMaskTakeEffect n) s = .next s := by
  show execSpMaskTakeEffect n s = _
  unfold execSpMaskTakeEffect
  dsimp only
  split
  · next hw =>
    refine if_pos (h.resolve_left ?_)
    rw [hw]
    nofun
  · rfl

/-! ### Data tick -/

theorem exec_spDataTick_due (h : s.spDataDue n.val (s.cycle + 1) = true) : exec (.spDataTick n) s = .next (s.spData n.val (s.cycle + 1)) := by
  show execSpDataTick n s = _
  exact if_pos h

theorem exec_spDataTick_idle (h : s.spDataDue n.val (s.cycle + 1) = false) : exec (.spDataTick n) s = .next s := by
  show execSpDataTick n s = _
  exact if_neg (by rw [h]; decide)

theorem State.spData_spState (s : State) (n : Nat) (a : Word) : (s.spData n a).spState n = if s.spPriv n then 2 else 3 := by
  unfold State.spData State.spState State.setSpState
  rw [State.rd_setPort, State.rd_wr_same s _ _ (by simp)]
  split <;> rfl

theorem State.spData_onlyRegs (s : State) (n : Nat) (a : Word) : s.OnlyRegs { s.spData n a with sp := s.sp } [SP_STATUS n] := by
  unfold State.spData State.setSpState
  exact ((State.OnlyRegs.refl s [SP_STATUS n]).wr (f := SP_STATUS.state n) _).setPort _ _

theorem State.spData_port (s : State) (n : Nat) (a : Word) :
    (s.spData n a).port n = { s.port n with dataTick := some a, rampIn := some a } := by
  unfold State.spData
  rw [State.port_setPort_same]

theorem State.spData_port_other (s : State) {n k : Nat} (a : Word) (h : k ≠ n) : (s.spData n a).port k = s.port k := by
  unfold State.spData State.setSpState
  rw [State.port_setPort_other _ _ h]
  exact State.port_of_sp (State.wr_sp _ _ _) k

/-! ### The end of LEAD-OUT -/

/-- The registers with the masks in force that waited for no command. -/
def State.haltMasks (s : State) (n : Nat) : State :=
  match (s.port n).masks, (s.port n).maskOwner with
  | some (tx, rx), none => s.putMasks n tx rx
  | _, _ => s

/-- The port stopped with nothing scheduled, before commands complete and the tracker is released. -/
def State.portHalted (s : State) (n : Nat) : State :=
  (((s.haltMasks n).setSpState n spStopped).wr (SP_STATUS.commit_pend n) 0).setPort n { spDefault 0 with muteAt := none }

theorem exec_spLeadOutEnd_due (h : s.spLeadDue n.val (s.cycle + 1) = true) : exec (.spLeadOutEnd n) s = .next (s.spHalt n.val) := by
  show execSpLeadOutEnd n s = _
  exact if_pos h

theorem exec_spLeadOutEnd_idle (h : s.spLeadDue n.val (s.cycle + 1) = false) : exec (.spLeadOutEnd n) s = .next s := by
  show execSpLeadOutEnd n s = _
  exact if_neg (by rw [h]; decide)

theorem State.spTracker_lt {k tr : Nat} (h : s.spTracker k = some tr) : tr < 64 := by
  unfold State.spTracker at h
  obtain ⟨c, -, hc⟩ := List.exists_of_findSome?_eq_some h
  split at hc
  · cases hc
    exact BitVec.isLt _
  · cases hc

theorem followReg_ASRC_STATUS : followReg ASRC_STATUS := .inr (.inr (by decide))

theorem followReg_ASRC_CH {c : Nat} (h : c < 512) : followReg (ASRC_CH c) := by
  unfold followReg ASRC_CH
  omega

theorem followReg_ASRC_TRK {tr : Nat} (h : tr < 64) : followReg (ASRC_TRK_CFG tr) ∧ followReg (ASRC_TRK_STATE tr) ∧
    followReg (ASRC_TRK_RATIO tr) ∧ followReg (ASRC_TRK_UNLOCK tr) := by
  unfold followReg ASRC_TRK_CFG ASRC_TRK_STATE ASRC_TRK_RATIO ASRC_TRK_UNLOCK
  omega

theorem State.chansOf_lt {c tr : Nat} (h : c ∈ s.chansOf tr) : c < 512 := List.mem_range.mp (List.mem_filter.mp h).1

theorem State.UnitsStay.setTrack {s0 : State} (h : s0.UnitsStay s) (tr : Nat) (x : Track) : s0.UnitsStay (s.setTrack tr x) :=
  h.same rfl rfl rfl rfl

/-- A release of trackers writes registers of ASRC alone. -/
theorem State.UnitsStay.asrcRelease {s0 : State} (h : s0.UnitsStay s) {tr : Nat} (ht : tr < 64) (ids : List Nat) :
    s0.UnitsStay (s.asrcRelease tr ids) := by
  obtain ⟨hcfg, hstate, hratio, hunlock⟩ := followReg_ASRC_TRK ht
  unfold State.asrcRelease
  have hchans := h.forAll (l := (s.chansOf tr).filter fun c => ids.contains (s.rd (ASRC_CH.id c))) (f := fun c st => st.setReg (ASRC_CH c) 0)
    fun c hc u hu => hu.setReg 0 (followReg_ASRC_CH (State.chansOf_lt (List.mem_filter.mp hc).1))
  have hfree := hchans.wr (f := ASRC_STATUS.ch_free)
    (s.rd ASRC_STATUS.ch_free + ((s.chansOf tr).filter fun c => ids.contains (s.rd (ASRC_CH.id c))).length) followReg_ASRC_STATUS
  have hcleared := (((hfree.setReg 0 hcfg).setReg 0 hstate).setReg 0 hratio).setReg 0 hunlock
  exact .ite (hfree.wr (f := ASRC_TRK_STATE.nch tr) _ hstate)
    ((hcleared.setTrack tr _).wr (f := ASRC_STATUS.trk_free) _ followReg_ASRC_STATUS)

theorem State.UnitsStay.spRelease {s0 : State} (h : s0.UnitsStay s) {k : Nat} : s0.UnitsStay (s.spRelease k) := by
  unfold State.spRelease
  split
  · next tr htr => exact h.asrcRelease (State.spTracker_lt htr) _
  · exact h

/-- After the port has stopped only commands complete and its tracker is released. -/
theorem State.portHalted_unitsStay (s : State) (n : Nat) : (s.portHalted n).UnitsStay (s.spHalt n) := by
  have howner := (State.UnitsStay.refl (s.portHalted n)).ownerDone (o := (s.port n).owner) |>.spRelease (k := n)
  have hcancel := howner.forAll (l := (s.port n).starts ++ (s.port n).stops) (f := fun x st => st.ownerCancel x.2)
    (fun _ _ _ k => k.ownerCancel)
  have hmutes := (hcancel.ownerCancel (o := (s.port n).muteOwner) |>.ownerCancel (o := (s.port n).maskOwner)).forAll
    (l := (s.port n).mutes) (f := fun x st => st.ownerCancel x.2.2) (fun _ _ _ k => k.ownerCancel)
  exact hmutes.forAll fun _ _ _ k => k.finish

theorem not_followReg_of_sp {a : Nat} (h : a / 0x10000 = 0x4010) : ¬ followReg a := by
  unfold followReg
  omega

theorem State.haltMasks_none {n : Nat} {tx rx : Word} (hm : (s.port n).masks = some (tx, rx)) (ho : (s.port n).maskOwner = none) :
    s.haltMasks n = s.putMasks n tx rx := by
  unfold State.haltMasks
  rw [hm, ho]

theorem State.haltMasks_coef (s : State) (n : Nat) : (s.haltMasks n).coef = s.coef := by
  unfold State.haltMasks
  split <;> rfl

theorem State.haltMasks_sp (s : State) (n : Nat) : (s.haltMasks n).sp = s.sp := by
  unfold State.haltMasks
  split <;> rfl

theorem State.portHalted_reg (s : State) {n a : Nat} (h : a ≠ SP_STATUS n) : (s.portHalted n).reg a = (s.haltMasks n).reg a := by
  unfold State.portHalted State.setSpState
  rw [State.reg_setPort, State.reg_wr_other _ _ h, State.reg_wr_other _ _ h]

theorem State.portHalted_state (s : State) (n : Nat) : (s.portHalted n).spState n = 0 := by
  unfold State.portHalted State.setSpState State.spState
  rw [State.rd_setPort, State.rd_wr_apart _ 0 (.inr (.inr (by simp))) (by simp), State.rd_wr_same _ _ _ (by simp)]
  rfl

theorem State.portHalted_commit_pend (s : State) (n : Nat) : (s.portHalted n).isSet (SP_STATUS.commit_pend n) = false := by
  unfold State.portHalted State.isSet
  rw [State.rd_setPort]
  exact State.isSet_wr_zero _ (SP_STATUS.commit_pend n) (by simp)

theorem State.portHalted_port (s : State) (n : Nat) : (s.portHalted n).port n = spDefault 0 := State.port_setPort_same _ _ _

theorem State.portHalted_port_other (s : State) {n k : Nat} (h : k ≠ n) : (s.portHalted n).port k = s.port k := by
  unfold State.portHalted State.setSpState
  rw [State.port_setPort_other _ _ h]
  refine State.port_of_sp ?_ k
  rw [State.wr_sp, State.wr_sp, State.haltMasks_sp]

theorem State.portHalted_coef (s : State) (n : Nat) : (s.portHalted n).coef = s.coef := by
  unfold State.portHalted State.setSpState
  rw [State.setPort_coef, State.wr_coef, State.wr_coef, State.haltMasks_coef]

theorem SP_STATUS_ne_masks (n : Nat) : SP_TXMASK_ACT n ≠ SP_STATUS n ∧ SP_RXMASK_ACT n ≠ SP_STATUS n := by
  unfold SP_TXMASK_ACT SP_RXMASK_ACT SP_STATUS
  omega

theorem SP_masks_block (n : Fin 16) : SP_TXMASK_ACT n.val / 0x10000 = 0x4010 ∧ SP_RXMASK_ACT n.val / 0x10000 = 0x4010 := by
  unfold SP_TXMASK_ACT SP_RXMASK_ACT
  omega

/-- The masks that waited for no command are in force after the stop. -/
theorem State.spHalt_masks {tx rx : Word} (hm : (s.port n.val).masks = some (tx, rx)) (ho : (s.port n.val).maskOwner = none) :
    (s.spHalt n.val).reg (SP_TXMASK_ACT n.val) = tx ∧ (s.spHalt n.val).reg (SP_RXMASK_ACT n.val) = rx := by
  obtain ⟨htx, hrx⟩ := SP_masks_block n
  obtain ⟨hne, hne'⟩ := SP_STATUS_ne_masks n.val
  have hstay := s.portHalted_unitsStay n.val
  rw [hstay.reg _ (not_followReg_of_sp htx), hstay.reg _ (not_followReg_of_sp hrx), State.portHalted_reg s hne, State.portHalted_reg s hne',
    State.haltMasks_none hm ho]
  exact ⟨s.putMasks_tx _ _ _, s.putMasks_rx _ _ _⟩

/-- What stands after the end of LEAD-OUT. -/
theorem does_spLeadOutEnd (h : s.spLeadDue n.val (s.cycle + 1) = true) : Does (.spLeadOutEnd n) s fun t =>
    t.spState n.val = 0 ∧ t.isSet (SP_STATUS.commit_pend n.val) = false ∧ t.port n.val = spDefault 0 ∧
      (∀ k, k ≠ n.val → t.port k = s.port k) ∧
      (∀ tx rx, (s.port n.val).masks = some (tx, rx) → (s.port n.val).maskOwner = none →
        t.reg (SP_TXMASK_ACT n.val) = tx ∧ t.reg (SP_RXMASK_ACT n.val) = rx) ∧ s.SameCoefs t := by
  have hstay := s.portHalted_unitsStay n.val
  have hstatus := not_followReg_of_sp (SP_STATUS_block n)
  refine ⟨_, exec_spLeadOutEnd_due h, ?_, ?_, ?_, fun k hk => ?_, fun tx rx => State.spHalt_masks, ?_⟩
  · exact (hstay.rd (SP_STATUS.state n.val) hstatus).trans (s.portHalted_state n.val)
  · exact (hstay.isSet (SP_STATUS.commit_pend n.val) hstatus).trans (s.portHalted_commit_pend n.val)
  · exact (State.port_of_sp hstay.sp _).trans (s.portHalted_port n.val)
  · exact (State.port_of_sp hstay.sp k).trans (s.portHalted_port_other hk)
  · exact hstay.coef.trans (s.portHalted_coef n.val)

/-! ### Slot gates -/

/-- A port with one slot's gate put. -/
def SpPort.withGate (p : SpPort) (k : Nat) (g : Gate) : SpPort := { p with gates := SMap.set gateDefault p.gates k g }

theorem exec_spSlotCrossing_due {sl pos : Fin 32} (hw : sl.val ∈ s.spWait n.val) (hp : pos.val < s.blk)
    (hc : s.crossingAt (spSink n.val sl.val) pos.val = true) : exec (.spSlotCrossing n sl pos) s =
    .next (s.setPort n.val ((s.port n.val).withGate sl.val ⟨s.spWantOpen n.val, s.cycle, pos.val, false⟩)) := by
  show execSpSlotCrossing n sl pos s = _
  exact if_pos (by simp [hw, hp, hc])

theorem exec_spSlotCrossing_idle {sl pos : Fin 32}
    (h : sl.val ∉ s.spWait n.val ∨ s.blk ≤ pos.val ∨ s.crossingAt (spSink n.val sl.val) pos.val = false) :
    exec (.spSlotCrossing n sl pos) s = .next s := by
  show execSpSlotCrossing n sl pos s = _
  refine if_neg ?_
  rcases h with h | h | h <;> simp [h]

theorem exec_spZcTimeout_due {sl : Fin 32} (hw : sl.val ∈ s.spWait n.val) : exec (.spZcTimeout n sl) s =
    .next ((s.setPort n.val ((s.port n.val).withGate sl.val ⟨s.spWantOpen n.val, s.cycle + 1, 0, true⟩)).flagEvent
      (SP_STATUS.zc_timeout n.val) n.val sl.val) := by
  show execSpZcTimeout n sl s = _
  exact if_pos (by simp [hw])

theorem exec_spZcTimeout_idle {sl : Fin 32} (hw : sl.val ∉ s.spWait n.val) : exec (.spZcTimeout n sl) s = .next s := by
  show execSpZcTimeout n sl s = _
  exact if_neg (by simp [hw])

/-! ### Frame alignment -/

/-- The data tick of a port that has just aligned its frames. -/
def State.alignTick (s : State) (n : Nat) : Option Word :=
  if s.spState n = 1 ∧ (s.port n).dataTick = none then some (s.cycle + 1 + BitVec.ofNat 32 (s.spPre n)) else (s.port n).dataTick

theorem State.alignTick_eq (s : State) (n : Nat) : (if s.spState n = spClocking && (s.port n).dataTick.isNone then
    some (s.cycle + 1 + BitVec.ofNat 32 (s.spPre n)) else (s.port n).dataTick) = s.alignTick n := by
  unfold State.alignTick
  by_cases h : s.spState n = 1 <;> simp [h, spClocking]

theorem exec_spFrameAligned_due {v : BitVec 16} (hm : s.spMaster n.val = false) (hs : s.spState n.val ≠ 0)
    (ha : (s.port n.val).aligned = false) : exec (.spFrameAligned n v) s =
    .next ((s.setPort n.val { s.port n.val with aligned := true, dataTick := s.alignTick n.val }).wr (SP_SLACK.offset n.val) v.toNat) := by
  show execSpFrameAligned n v s = _
  have hidle : ¬ (s.spMaster n.val || s.spState n.val = spStopped || (s.port n.val).aligned) = true := by simp [hm, ha, hs, spStopped]
  rw [← State.alignTick_eq]
  exact if_neg hidle

theorem exec_spFrameAligned_idle {v : BitVec 16} (h : s.spMaster n.val = true ∨ s.spState n.val = 0 ∨ (s.port n.val).aligned = true) :
    exec (.spFrameAligned n v) s = .next s := by
  show execSpFrameAligned n v s = _
  refine if_pos ?_
  rcases h with h | h | h <;> simp [h, spStopped]

/-! ### The statement -/

theorem does_spFrameAligned {v : BitVec 16} (hm : s.spMaster n.val = false) (hs : s.spState n.val ≠ 0)
    (ha : (s.port n.val).aligned = false) : Does (.spFrameAligned n v) s fun t =>
      t.rd (SP_SLACK.offset n.val) = v.toNat ∧
        t.port n.val = { s.port n.val with aligned := true, dataTick := s.alignTick n.val } ∧ s.OnlyRegs { t with sp := s.sp } [SP_SLACK n.val] := by
  refine ⟨_, exec_spFrameAligned_due hm hs ha, ?_, ?_, ?_⟩
  · exact State.rd_wr_bitVec _ (SP_SLACK.offset n.val) v (by simp)
  · rw [State.port_of_sp (State.wr_sp _ _ _), State.port_setPort_same]
  · rw [State.setPort_wr]
    exact ((State.OnlyRegs.refl s _).wr (f := SP_SLACK.offset n.val) _).setPort _ _

theorem does_spZcTimeout {sl : Fin 32} (hw : sl.val ∈ s.spWait n.val) : Does (.spZcTimeout n sl) s fun t =>
    (t.port n.val).gate sl.val = ⟨s.spWantOpen n.val, s.cycle + 1, 0, true⟩ ∧ t.isSet (SP_STATUS.zc_timeout n.val) = true ∧
      s.OnlyLogged { t with sp := s.sp } [SP_STATUS n.val] := by
  refine ⟨_, exec_spZcTimeout_due hw, ?_, ?_, ?_⟩
  · rw [State.port_of_sp (State.flagEvent_sp _ _ _ _), State.port_setPort_same]
    exact SpPort.gate_set_same _ _ _
  · exact State.flagEvent_isSet _ (SP_STATUS.zc_timeout n.val) _ _ (not_mem_logRegs (by rw [SP_STATUS_block]; decide)) (by simp) (by simp)
  · exact ((State.OnlyLogged.refl _ _).flagEvent (f := SP_STATUS.zc_timeout n.val) _ _).ofSetPort

theorem does_spSlotCrossing {sl pos : Fin 32} (hw : sl.val ∈ s.spWait n.val) (hp : pos.val < s.blk)
    (hc : s.crossingAt (spSink n.val sl.val) pos.val = true) : Does (.spSlotCrossing n sl pos) s fun t =>
      (t.port n.val).gate sl.val = ⟨s.spWantOpen n.val, s.cycle, pos.val, false⟩ ∧
        (∀ j, j ≠ sl.val → (t.port n.val).gate j = (s.port n.val).gate j) ∧ (∀ k, k ≠ n.val → t.port k = s.port k) ∧ t = { s with sp := t.sp } := by
  refine ⟨_, exec_spSlotCrossing_due hw hp hc, ?_, fun j hj => ?_, fun k hk => s.port_setPort_other _ hk, rfl⟩
  · rw [State.port_setPort_same]
    exact SpPort.gate_set_same _ _ _
  · rw [State.port_setPort_same]
    exact SpPort.gate_set_other _ _ hj

theorem does_spMaskTakeEffect {tx rx : Word} (hw : (s.port n.val).masks = some (tx, rx)) (hs : s.spState n.val ≠ 6)
    (ho : (s.port n.val).maskOwner = none) : Does (.spMaskTakeEffect n) s fun t =>
      t.reg (SP_TXMASK_ACT n.val) = tx ∧ t.reg (SP_RXMASK_ACT n.val) = rx ∧ t.isSet (SP_STATUS.commit_pend n.val) = false ∧
        (t.port n.val).masks = none ∧ s.OnlyRegs { t with sp := s.sp } [SP_TXMASK_ACT n.val, SP_RXMASK_ACT n.val, SP_STATUS n.val] := by
  obtain ⟨hne, hne'⟩ := SP_STATUS_ne_masks n.val
  refine ⟨_, exec_spMaskTakeEffect_due hw hs ho, ?_, ?_, ?_, ?_, ?_⟩ <;> unfold State.masksTaken
  · rw [State.reg_setPort, State.reg_wr_other _ _ hne, State.putMasks_tx]
  · rw [State.reg_setPort, State.reg_wr_other _ _ hne', State.putMasks_rx]
  · unfold State.isSet
    rw [State.rd_setPort]
    exact State.isSet_wr_zero _ (SP_STATUS.commit_pend n.val) (by simp)
  · rw [State.port_setPort_same]
  · exact (((State.OnlyRegs.refl s _).putMasks (by simp) (by simp)).wr (f := SP_STATUS.commit_pend n.val) 0).setPort _ _

theorem does_spMaskCommit_waits (hg : s.gated (SP_CTRL n.val) = false) (hm : s.pairLocked m = false) (hs : s.spState n.val ≠ 0)
    (ho : (s.port n.val).maskOwner = none) : Does (.spMaskCommit m n) s fun t =>
      (t.port n.val).masks = some (s.reg (SP_TXMASK n.val), s.reg (SP_RXMASK n.val)) ∧ t.isSet (SP_STATUS.commit_pend n.val) = true ∧
        s.OnlyRegs { t with sp := s.sp } [SP_STATUS n.val] := by
  refine ⟨_, exec_spMaskCommit_open hg hm, ?_, ?_, ?_⟩ <;> rw [State.spMaskCommit_waits hs ho]
  · rw [State.port_setPort_same]
  · unfold State.isSet
    rw [State.rd_setPort]
    exact State.isSet_set1 s (SP_STATUS.commit_pend n.val) (by simp) (by simp)
  · exact ((State.OnlyRegs.refl s _).wr (f := SP_STATUS.commit_pend n.val) 1).setPort _ _

/-- A control write of a port that the synced pair refuses. -/
theorem does_refused (hg : s.gated (SP_CTRL n.val) = false) (hm : s.pairLocked m = true) :
    ∀ i ∈ [Instr.spStart m n, .spStop m n, .spMute m n, .spUnmute m n, .spMaskCommit m n], Does i s fun t =>
      t.isSet (SP_STATUS.wr_refused n.val) = true ∧ s.OnlyLogged t [SP_STATUS n.val] := by
  have hrefuse {i : Instr} (h : exec i s = .next (s.refuseWrite (SP_STATUS.wr_refused n.val) m)) := Does.ofRefuseWrite h
    (not_mem_logRegs (by rw [SP_STATUS_block]; decide)) (by simp) (by simp)
  simp only [List.forall_mem_cons, List.not_mem_nil, false_imp_iff, implies_true, and_true]
  exact ⟨hrefuse (congrArg Host.Outcome.next (State.spCtrl_locked hg hm)), hrefuse (congrArg Host.Outcome.next (State.spCtrl_locked hg hm)),
    hrefuse (congrArg Host.Outcome.next (State.spCtrl_locked hg hm)), hrefuse (congrArg Host.Outcome.next (State.spCtrl_locked hg hm)),
    hrefuse (exec_spMaskCommit_locked hg hm)⟩

/-- Settles O44: a case per clause; after the end of LEAD-OUT the completions and the tracker's release leave the ports' blocks alone. -/
theorem portActions : Obligations.PortActions := by
  intro s n
  refine ⟨?actions, fun m => does_refused, fun tx rx => does_spMaskTakeEffect, fun h => exec_spMaskTakeEffect_idle h, ?dataTick,
    fun h => exec_spDataTick_idle h, ?leadOut, fun h => exec_spLeadOutEnd_idle h, fun sl pos => does_spSlotCrossing,
    fun sl pos => exec_spSlotCrossing_idle, fun sl => does_spZcTimeout, fun sl => exec_spZcTimeout_idle, ?aligned,
    fun v => exec_spFrameAligned_idle⟩
  case actions =>
    intro m hg hm
    refine ⟨congrArg Host.Outcome.next (State.spCtrl_open hg hm), congrArg Host.Outcome.next (State.spCtrl_open hg hm),
      congrArg Host.Outcome.next (State.spCtrl_open hg hm), congrArg Host.Outcome.next (State.spCtrl_open hg hm), fun hs => ?_,
      does_spMaskCommit_waits hg hm⟩
    refine ⟨_, exec_spMaskCommit_open hg hm, ?_⟩
    rw [State.spMaskCommit_stopped hs]
    exact ⟨s.putMasks_tx _ _ _, s.putMasks_rx _ _ _, (State.OnlyRegs.refl s _).putMasks (by simp) (by simp)⟩
  case dataTick =>
    exact fun h => ⟨_, exec_spDataTick_due h, s.spData_spState _ _, s.spData_port _ _, s.spData_onlyRegs _ _,
      fun k hk => s.spData_port_other _ hk⟩
  case leadOut =>
    intro h
    obtain ⟨t, ht, hstate, hpend, hport, hother, hmasks, hcoef⟩ := does_spLeadOutEnd h
    refine ⟨t, ht, hstate, hpend, ?_, ?_, ?_, ?_, ?_, hother, hmasks, hcoef⟩ <;> rw [hport] <;> rfl
  case aligned =>
    intro v hm hs ha
    obtain ⟨t, ht, hslack, hport, honly⟩ := does_spFrameAligned (v := v) hm hs ha
    refine ⟨t, ht, hslack, ?_, ?_, honly⟩
    · rw [hport]
    · rw [hport]
      rfl

end Sys2Proof.Machine

/-! ## Gain walks, capsule supervision and output gates -/

namespace Sys2Proof.Machine

variable {s t : State} {l : List Nat} {m : Master} {n : Fin 8}

/-! ### The field part -/

/-- An update of the field part. -/
def State.withField (s : State) (x : FieldState) : State := { s with field := x }

theorem State.rd_withField (s : State) (x : FieldState) (f : Fld) : (s.withField x).rd f = s.rd f := rfl

theorem State.isSet_withField (s : State) (x : FieldState) (f : Fld) : (s.withField x).isSet f = s.isSet f := rfl

theorem State.OnlyRegs.withField (h : s.OnlyRegs t l) (x : FieldState) : s.OnlyRegs { t.withField x with field := s.field } l :=
  ⟨h.1, congrArg (fun u : State => { u with field := s.field }) h.2⟩

theorem State.OnlyLogged.withField (h : s.OnlyLogged t l) (x : FieldState) : s.OnlyLogged { t.withField x with field := s.field } l :=
  ⟨h.1, congrArg (fun u : State => { u with field := s.field }) h.2⟩

theorem State.OnlyLogged.ofWithField {x : FieldState} (h : (s.withField x).OnlyLogged t l) : s.OnlyLogged { t with field := s.field } l :=
  ⟨h.1, congrArg (fun u : State => { u with field := s.field }) h.2⟩

theorem State.walk_of_field (h : t.field = s.field) (k : Nat) : t.walk k = s.walk k := by
  unfold State.walk
  rw [h]

theorem State.aout_of_field (h : t.field = s.field) (k : Nat) : t.aout k = s.aout k := by
  unfold State.aout
  rw [h]

theorem State.walk_setWalk_same (s : State) (k : Nat) (w : GainWalk) : (s.setWalk k w).walk k = w := SMap.get_set_same _ _ _ _

theorem State.walk_setWalk_other (s : State) {k j : Nat} (w : GainWalk) (h : j ≠ k) : (s.setWalk k w).walk j = s.walk j :=
  SMap.get_set_other _ _ _ _ _ h

/-- A walk put as it stood. -/
theorem State.walk_setWalk_self (s : State) (k j : Nat) : (s.setWalk k (s.walk k)).walk j = s.walk j := by
  by_cases h : j = k
  · rw [h, State.walk_setWalk_same]
  · exact s.walk_setWalk_other _ h

theorem State.aout_setAout_same (s : State) (k : Nat) (x : Aout) : (s.setAout k x).aout k = x := SMap.get_set_same _ _ _ _

theorem State.aout_setAout_other (s : State) {k j : Nat} (x : Aout) (h : j ≠ k) : (s.setAout k x).aout j = s.aout j :=
  SMap.get_set_other _ _ _ _ _ h

theorem State.setAout_withField (s : State) (k : Nat) (x : Aout) :
    s.setAout k x = s.withField { s.field with aouts := SMap.set aoutDefault s.field.aouts k x } := rfl

theorem ANA_STATUS_not_mem_logRegs (n : Fin 8) : ANA_STATUS n.val ∉ logRegs := not_mem_logRegs (by unfold ANA_STATUS; omega)

theorem ANA_IN_STAT_not_mem_logRegs (n : Fin 8) : ANA_IN_STAT n.val ∉ logRegs := not_mem_logRegs (by unfold ANA_IN_STAT; omega)

theorem ANA_IN_CFG_not_mem_logRegs (n : Fin 8) : ANA_IN_CFG n.val ∉ logRegs := not_mem_logRegs (by unfold ANA_IN_CFG; omega)

/-- Configuration, state and flags of analog inputs are different registers. -/
theorem ANA_IN_apart (n k : Nat) : ANA_IN_CFG n ≠ ANA_IN_STAT k ∧ ANA_IN_STAT n ≠ ANA_STATUS k ∧ ANA_IN_CFG n ≠ ANA_STATUS k := by
  unfold ANA_IN_CFG ANA_IN_STAT ANA_STATUS
  omega

/-! ### Gain writes -/

theorem exec_anaGainWrite_open {g : BitVec 6} (hm : s.pairLocked m = false) :
    exec (.anaGainWrite m n g) s = .next (s.gainWrite n.val g.toNat none) := by
  show execAnaGainWrite m n g s = _
  exact if_neg (by simp [hm])

theorem exec_anaGainWrite_locked {g : BitVec 6} (hm : s.pairLocked m = true) (hg : s.rd (ANA_IN_CFG.gain n.val) ≠ g.toNat) :
    exec (.anaGainWrite m n g) s = .next (s.refuseWrite (ANA_STATUS.wr_refused n.val) m) := by
  show execAnaGainWrite m n g s = _
  exact if_pos (by simp [hm, hg])

/-- Where no command waits for a walk, a gain write sets its field and leaves every walk as it stood. -/
theorem State.gainWrite_free {k g : Nat} (ho : (s.walk k).owner = none) :
    ∃ x, s.gainWrite k g none = (s.wr (ANA_IN_CFG.gain k) g).withField x ∧
      ∀ j, ((s.wr (ANA_IN_CFG.gain k) g).withField x).walk j = s.walk j := by
  have hself : ({ s.walk k with owner := none } : GainWalk) = s.walk k := by rw [← ho]
  have hwr (j : Nat) : (s.wr (ANA_IN_CFG.gain k) g).walk j = s.walk j := State.walk_of_field (State.wr_field _ _ _) j
  have hset (j : Nat) : ((s.wr (ANA_IN_CFG.gain k) g).setWalk k (s.walk k)).walk j = s.walk j := by
    rw [← hwr k, State.walk_setWalk_self, hwr]
  unfold State.gainWrite
  dsimp only
  rw [hself, ho]
  simp only [State.ownerCancel, State.ownerDone, hset, hself]
  split
  · refine ⟨_, rfl, fun j => ?_⟩
    refine Eq.trans ?_ (hset j)
    have h := State.walk_setWalk_self ((s.wr (ANA_IN_CFG.gain k) g).setWalk k (s.walk k)) k j
    rw [hset k] at h
    exact h
  · exact ⟨_, rfl, hset⟩

theorem does_anaGainWrite {g : BitVec 6} (hm : s.pairLocked m = false) (ho : (s.walk n.val).owner = none) : Does (.anaGainWrite m n g) s fun t =>
    t.rd (ANA_IN_CFG.gain n.val) = g.toNat ∧ t.gainTarget n.val = min 60 g.toNat ∧
      t.rd (ANA_IN_STAT.gain_now n.val) = s.rd (ANA_IN_STAT.gain_now n.val) ∧
      (∀ j, t.walk j = s.walk j) ∧ s.OnlyRegs { t with field := s.field } [ANA_IN_CFG n.val] := by
  obtain ⟨x, hx, hwalk⟩ := State.gainWrite_free (g := g.toNat) ho
  have hgain : ((s.wr (ANA_IN_CFG.gain n.val) g.toNat).withField x).rd (ANA_IN_CFG.gain n.val) = g.toNat :=
    State.rd_wr_bitVec s (ANA_IN_CFG.gain n.val) g (by simp)
  refine ⟨_, (exec_anaGainWrite_open hm).trans (congrArg Host.Outcome.next hx), hgain, ?_, ?_, hwalk, ?_⟩
  · unfold State.gainTarget
    rw [hgain]
  · rw [State.rd_withField]
    exact State.rd_wr_apart s _ (.inl (ANA_IN_apart _ _).1.symm) (by simp)
  · exact ((State.OnlyRegs.refl s _).wr (f := ANA_IN_CFG.gain n.val) _).withField x

theorem does_anaGainWrite_locked {g : BitVec 6} (hm : s.pairLocked m = true) (hg : s.rd (ANA_IN_CFG.gain n.val) ≠ g.toNat) :
    Does (.anaGainWrite m n g) s fun t =>
      t.isSet (ANA_STATUS.wr_refused n.val) = true ∧ s.OnlyLogged t [(ANA_STATUS.wr_refused n.val).addr] :=
  Does.ofRefuseWrite (exec_anaGainWrite_locked hm hg) (ANA_STATUS_not_mem_logRegs n) (by simp) (by simp)

/-! ### Gain steps -/

/-- The gain in force after a step toward the target. -/
def State.gainNext (s : State) (k : Nat) : Nat :=
  if s.rd (ANA_IN_STAT.gain_now k) < s.gainTarget k then s.rd (ANA_IN_STAT.gain_now k) + 1
  else if s.gainTarget k < s.rd (ANA_IN_STAT.gain_now k) then s.rd (ANA_IN_STAT.gain_now k) - 1 else s.rd (ANA_IN_STAT.gain_now k)

theorem State.rd_lt (s : State) (f : Fld) : s.rd f < 2 ^ f.width := BitVec.isLt _

theorem State.gainNext_lt (s : State) (k : Nat) : s.gainNext k < 2 ^ 6 := by
  have hnow : s.rd (ANA_IN_STAT.gain_now k) < 2 ^ 6 := s.rd_lt (ANA_IN_STAT.gain_now k)
  have htgt : s.gainTarget k ≤ 60 := Nat.min_le_left _ _
  unfold State.gainNext
  split
  · omega
  · split <;> omega

theorem State.gainStep_idle {k : Nat} (h : (s.walk k).due = false) : s.gainStep k = s := if_pos (by rw [h]; rfl)

theorem State.setWalk_withField (s : State) (k : Nat) (w : GainWalk) :
    s.setWalk k w = s.withField { s.field with walks := SMap.set walkDefault s.field.walks k w } := rfl

theorem State.gainStep_eq {k : Nat} (hd : (s.walk k).due = true) : s.gainStep k = if s.gainNext k = s.gainTarget k then
    (((s.wr (ANA_IN_STAT.gain_now k) (s.gainNext k)).setWalk k { s.walk k with due := false }).setWalk k ⟨false, none⟩).ownerDone (s.walk k).owner
    else (s.wr (ANA_IN_STAT.gain_now k) (s.gainNext k)).setWalk k { s.walk k with due := false } := by
  unfold State.gainStep
  exact if_neg (by rw [hd]; decide)

/-- Two puts of a walk on any state. -/
theorem State.exists_withField_walk (s : State) (k : Nat) (v w : GainWalk) :
    ∃ x, (s.setWalk k v).setWalk k w = s.withField x ∧ (s.withField x).walk k = w :=
  ⟨_, rfl, State.walk_setWalk_same (s.setWalk k v) k w⟩

/-- A due step of a walk that no command waits for. -/
theorem State.gainStep_due {k : Nat} (hd : (s.walk k).due = true) (ho : (s.walk k).owner = none) :
    ∃ x, s.gainStep k = (s.wr (ANA_IN_STAT.gain_now k) (s.gainNext k)).withField x ∧
      (((s.wr (ANA_IN_STAT.gain_now k) (s.gainNext k)).withField x).walk k).due = false := by
  rw [State.gainStep_eq hd, ho]
  split
  · obtain ⟨x, hx, hwalk⟩ := (s.wr (ANA_IN_STAT.gain_now k) (s.gainNext k)).exists_withField_walk k { s.walk k with due := false } ⟨false, none⟩
    exact ⟨x, hx, congrArg GainWalk.due hwalk⟩
  · exact ⟨_, State.setWalk_withField _ _ _, congrArg GainWalk.due (State.walk_setWalk_same _ _ _)⟩

theorem State.rd_gainNow_gainNext (s : State) (x : FieldState) (k : Nat) :
    ((s.wr (ANA_IN_STAT.gain_now k) (s.gainNext k)).withField x).rd (ANA_IN_STAT.gain_now k) = s.gainNext k := by
  rw [State.rd_withField, State.rd_wr_same s _ _ (by simp)]
  exact Nat.mod_eq_of_lt (s.gainNext_lt k)

theorem does_gainStep (hd : (s.walk n.val).due = true) (ho : (s.walk n.val).owner = none) : Does (.gainStep n) s fun t =>
    t.rd (ANA_IN_STAT.gain_now n.val) = s.gainNext n.val ∧ (t.walk n.val).due = false ∧
      s.OnlyRegs { t with field := s.field } [ANA_IN_STAT n.val] := by
  obtain ⟨x, hx, hdue⟩ := State.gainStep_due hd ho
  exact ⟨_, congrArg Host.Outcome.next hx, s.rd_gainNow_gainNext x _, hdue,
    ((State.OnlyRegs.refl s _).wr (f := ANA_IN_STAT.gain_now n.val) _).withField x⟩

/-- The state with the timeout of a step flagged. -/
def State.gainFlag (s : State) (n : Fin 8) : State := s.flagEvent (ANA_STATUS.gain_to n.val) n.val 0

theorem State.gainFlag_walk (s : State) (n : Fin 8) (k : Nat) : (s.gainFlag n).walk k = s.walk k :=
  State.walk_of_field (State.flagEvent_field _ _ _ _) k

theorem State.gainFlag_gainNext (s : State) (n : Fin 8) : (s.gainFlag n).gainNext n.val = s.gainNext n.val := by
  obtain ⟨-, hstat, hcfg⟩ := ANA_IN_apart n.val n.val
  unfold State.gainNext State.gainTarget State.gainFlag
  rw [State.rd_flagEvent_apart s _ _ (.inl hstat) (ANA_IN_STAT_not_mem_logRegs n) (by simp),
    State.rd_flagEvent_apart s _ _ (.inl hcfg) (ANA_IN_CFG_not_mem_logRegs n) (by simp)]

theorem exec_gainStepTimeout_due (hd : (s.walk n.val).due = true) : exec (.gainStepTimeout n) s = .next ((s.gainFlag n).gainStep n.val) := by
  show execGainStepTimeout n s = _
  exact if_pos hd

theorem exec_gainStepTimeout_idle (hd : (s.walk n.val).due = false) : exec (.gainStepTimeout n) s = .next s := by
  show execGainStepTimeout n s = _
  exact if_neg (by rw [hd]; decide)

theorem does_gainStepTimeout (hd : (s.walk n.val).due = true) (ho : (s.walk n.val).owner = none) : Does (.gainStepTimeout n) s fun t =>
    t.rd (ANA_IN_STAT.gain_now n.val) = s.gainNext n.val ∧ (t.walk n.val).due = false ∧ t.isSet (ANA_STATUS.gain_to n.val) = true ∧
      s.OnlyLogged { t with field := s.field } [ANA_IN_STAT n.val, (ANA_STATUS.gain_to n.val).addr] := by
  have hwalk := s.gainFlag_walk n n.val
  obtain ⟨x, hx, hdue⟩ := State.gainStep_due (s := s.gainFlag n) (by rw [hwalk]; exact hd) (by rw [hwalk]; exact ho)
  refine ⟨_, (exec_gainStepTimeout_due hd).trans (congrArg Host.Outcome.next hx), ?_, hdue, ?_, ?_⟩
  · rw [State.rd_gainNow_gainNext, State.gainFlag_gainNext]
  · rw [State.isSet_withField, State.isSet_wr_apart _ _ (.inl (ANA_IN_apart _ _).2.1.symm) (by simp)]
    exact State.flagEvent_isSet s _ _ _ (ANA_STATUS_not_mem_logRegs n) (by simp) (by simp)
  · have hflag : s.OnlyLogged (s.gainFlag n) [ANA_IN_STAT n.val, (ANA_STATUS.gain_to n.val).addr] :=
      (State.OnlyLogged.refl s _).flagEvent (f := ANA_STATUS.gain_to n.val) _ _
    exact (hflag.wr (f := ANA_IN_STAT.gain_now n.val) _).withField x

/-! ### Capsule supervision -/

theorem exec_biasStateChange_idle {ua : BitVec 12} (h : s.isSet (ANA_IN_CFG.bias_en n.val) = false ∨ s.isSet (ANA_IN_CFG.bsup_en n.val) = false) :
    exec (.biasStateChange n ua) s = .next s := by
  show execBiasStateChange n ua s = _
  refine if_pos ?_
  rcases h with h | h <;> simp [h]

/-- The capsule's registers after a state has lasted: the current and the state. -/
def State.biasPut (s : State) (k ua c : Nat) : State := (s.wr (ANA_IN_STAT.bias_ua k) ua).wr (ANA_IN_STAT.bias_state k) c

theorem exec_biasStateChange_enabled {ua : BitVec 12} (hb : s.isSet (ANA_IN_CFG.bias_en n.val) = true)
    (hs : s.isSet (ANA_IN_CFG.bsup_en n.val) = true) : exec (.biasStateChange n ua) s =
    if s.biasClass n.val ua.toNat = s.rd (ANA_IN_STAT.bias_state n.val) then .next (s.wr (ANA_IN_STAT.bias_ua n.val) ua.toNat)
    else if s.biasClass n.val ua.toNat = 0 then .next (s.biasPut n.val ua.toNat (s.biasClass n.val ua.toNat))
    else .next ((s.biasPut n.val ua.toNat (s.biasClass n.val ua.toNat)).flagEvent (ANA_STATUS.bias_fault n.val) n.val
      (s.biasClass n.val ua.toNat)) := by
  show execBiasStateChange n ua s = _
  unfold execBiasStateChange
  exact if_neg (by simp [hb, hs])

theorem State.biasClass_lt (s : State) (k ua : Nat) : s.biasClass k ua < 2 ^ 2 := by
  unfold State.biasClass
  split
  · decide
  · split <;> decide

/-- What a lasting capsule state leaves in the status register of an input. -/
theorem State.biasPut_spec (s : State) (k : Nat) (ua : BitVec 12) {c : Nat} (hc : c < 2 ^ 2) :
    (s.biasPut k ua.toNat c).rd (ANA_IN_STAT.bias_ua k) = ua.toNat ∧ (s.biasPut k ua.toNat c).rd (ANA_IN_STAT.bias_state k) = c ∧
      (s.biasPut k ua.toNat c).rd (ANA_IN_STAT.gain_now k) = s.rd (ANA_IN_STAT.gain_now k) := by
  unfold State.biasPut
  refine ⟨?_, ?_, ?_⟩
  · rw [State.rd_wr_apart _ c (.inr (.inl (by simp))) (by simp)]
    exact State.rd_wr_bitVec s (ANA_IN_STAT.bias_ua k) ua (by simp)
  · rw [State.rd_wr_same _ _ _ (by simp)]
    exact Nat.mod_eq_of_lt hc
  · rw [State.rd_wr_apart _ c (.inr (.inl (by simp))) (by simp), State.rd_wr_apart s _ (.inr (.inr (by simp))) (by simp)]

theorem State.biasPut_onlyLogged (s : State) (k ua c : Nat) {l : List Nat} (h : ANA_IN_STAT k ∈ l) : s.OnlyLogged (s.biasPut k ua c) l :=
  ((State.OnlyLogged.refl s l).wr (f := ANA_IN_STAT.bias_ua k) ua h).wr (f := ANA_IN_STAT.bias_state k) c h

theorem does_biasStateChange {ua : BitVec 12} (hb : s.isSet (ANA_IN_CFG.bias_en n.val) = true)
    (hs : s.isSet (ANA_IN_CFG.bsup_en n.val) = true) : Does (.biasStateChange n ua) s fun t =>
      t.rd (ANA_IN_STAT.bias_ua n.val) = ua.toNat ∧ t.rd (ANA_IN_STAT.bias_state n.val) = s.biasClass n.val ua.toNat ∧
        (s.biasClass n.val ua.toNat ≠ 0 → s.biasClass n.val ua.toNat ≠ s.rd (ANA_IN_STAT.bias_state n.val) →
          t.isSet (ANA_STATUS.bias_fault n.val) = true) ∧
        t.rd (ANA_IN_STAT.gain_now n.val) = s.rd (ANA_IN_STAT.gain_now n.val) ∧
        s.OnlyLogged t [ANA_IN_STAT n.val, (ANA_STATUS.bias_fault n.val).addr] := by
  obtain ⟨hua, hstate, hgain⟩ := s.biasPut_spec n.val ua (s.biasClass_lt n.val ua.toNat)
  have honly := s.biasPut_onlyLogged n.val ua.toNat (s.biasClass n.val ua.toNat)
    (l := [ANA_IN_STAT n.val, (ANA_STATUS.bias_fault n.val).addr]) (by simp)
  have hexec := exec_biasStateChange_enabled (ua := ua) hb hs
  by_cases hsame : s.biasClass n.val ua.toNat = s.rd (ANA_IN_STAT.bias_state n.val)
  · refine ⟨_, hexec.trans (if_pos hsame), ?_, ?_, fun _ hne => absurd hsame hne, ?_, ?_⟩
    · exact State.rd_wr_bitVec s (ANA_IN_STAT.bias_ua n.val) ua (by simp)
    · rw [State.rd_wr_apart s _ (.inr (.inr (by simp))) (by simp), hsame]
    · exact State.rd_wr_apart s _ (.inr (.inr (by simp))) (by simp)
    · exact (State.OnlyLogged.refl s _).wr (f := ANA_IN_STAT.bias_ua n.val) _
  · by_cases hzero : s.biasClass n.val ua.toNat = 0
    · exact ⟨_, hexec.trans ((if_neg hsame).trans (if_pos hzero)), hua, hstate, fun hne => absurd hzero hne, hgain, honly⟩
    · have happart := (ANA_IN_apart n.val n.val).2.1
      refine ⟨_, hexec.trans ((if_neg hsame).trans (if_neg hzero)), ?_, ?_, fun _ _ => ?_, ?_, ?_⟩
      · rw [State.rd_flagEvent_apart _ _ _ (.inl happart) (ANA_IN_STAT_not_mem_logRegs n) (by simp), hua]
      · rw [State.rd_flagEvent_apart _ _ _ (.inl happart) (ANA_IN_STAT_not_mem_logRegs n) (by simp), hstate]
      · exact State.flagEvent_isSet _ _ _ _ (ANA_STATUS_not_mem_logRegs n) (by simp) (by simp)
      · rw [State.rd_flagEvent_apart _ _ _ (.inl happart) (ANA_IN_STAT_not_mem_logRegs n) (by simp), hgain]
      · exact honly.flagEvent (f := ANA_STATUS.bias_fault n.val) _ _

/-! ### Output gates -/

/-- An output in a state with its gate's part put. -/
def State.putAout (s : State) (k st : Nat) (x : Aout) : State := (s.wr (ANA_OUT_STAT.state k) st).setAout k x

theorem State.putAout_state (s : State) {k st : Nat} (x : Aout) (h : st < 2 ^ 3) : (s.putAout k st x).aoState k = st := by
  unfold State.putAout State.aoState
  rw [State.setAout_withField, State.rd_withField, State.rd_wr_same s _ _ (by simp)]
  exact Nat.mod_eq_of_lt h

theorem State.putAout_aout (s : State) (k st : Nat) (x : Aout) : (s.putAout k st x).aout k = x := State.aout_setAout_same _ _ _

theorem State.putAout_aout_other (s : State) {k j st : Nat} (x : Aout) (h : j ≠ k) : (s.putAout k st x).aout j = s.aout j := by
  unfold State.putAout
  rw [State.aout_setAout_other _ _ h]
  exact State.aout_of_field (State.wr_field _ _ _) j

theorem State.putAout_onlyRegs (s : State) (k st : Nat) (x : Aout) : s.OnlyRegs { s.putAout k st x with field := s.field } [ANA_OUT_STAT k] := by
  unfold State.putAout
  rw [State.setAout_withField]
  exact ((State.OnlyRegs.refl s _).wr (f := ANA_OUT_STAT.state k) st).withField _

theorem State.aoWaits_opening {k : Nat} (hs : s.aoState k = 2) (hg : (s.aout k).gate.isOpen = false) : s.aoWaits k = true := by
  simp [State.aoWaits, hs, hg, aoOpening]

theorem State.aoWaits_closing {k : Nat} (hs : s.aoState k = 4) (hg : (s.aout k).gate.isOpen = true) : s.aoWaits k = true := by
  simp [State.aoWaits, hs, hg, aoClosing]

theorem exec_aoutGateCrossing_due {p : Fin 32} (hw : s.aoWaits n.val = true) (hp : p.val < s.blk)
    (hc : s.crossingAt (aoSink n.val) p.val = true) : exec (.aoutGateCrossing n p) s =
    if s.aoState n.val = 2 then
      .next (s.putAout n.val 3 { s.aout n.val with gate := ⟨decide (s.aoState n.val = 2), s.cycle, p.val, false⟩ })
    else .next (s.putAout n.val 5 ⟨⟨decide (s.aoState n.val = 2), s.cycle, p.val, false⟩, s.cycle, p.val⟩) := by
  show execAoutGateCrossing n p s = _
  unfold execAoutGateCrossing
  refine if_pos ?_
  simp [hw, hp, hc]

theorem exec_aoutGateCrossing_opening {p : Fin 32} (hp : p.val < s.blk) (hc : s.crossingAt (aoSink n.val) p.val = true)
    (hs : s.aoState n.val = 2) (hg : (s.aout n.val).gate.isOpen = false) : exec (.aoutGateCrossing n p) s =
    .next (s.putAout n.val 3 { s.aout n.val with gate := ⟨true, s.cycle, p.val, false⟩ }) := by
  rw [exec_aoutGateCrossing_due (State.aoWaits_opening hs hg) hp hc, decide_eq_true hs]
  exact if_pos hs

theorem exec_aoutGateCrossing_closing {p : Fin 32} (hp : p.val < s.blk) (hc : s.crossingAt (aoSink n.val) p.val = true)
    (hs : s.aoState n.val = 4) (hg : (s.aout n.val).gate.isOpen = true) : exec (.aoutGateCrossing n p) s =
    .next (s.putAout n.val 5 ⟨⟨false, s.cycle, p.val, false⟩, s.cycle, p.val⟩) := by
  have hnot : decide (s.aoState n.val = 2) = false := decide_eq_false (by rw [hs]; decide)
  rw [exec_aoutGateCrossing_due (State.aoWaits_closing hs hg) hp hc, hnot]
  exact if_neg (by rw [hs]; decide)

theorem exec_aoutGateCrossing_idle {p : Fin 32}
    (h : s.aoWaits n.val = false ∨ s.blk ≤ p.val ∨ s.crossingAt (aoSink n.val) p.val = false) : exec (.aoutGateCrossing n p) s = .next s := by
  show execAoutGateCrossing n p s = _
  refine if_neg ?_
  rcases h with h | h | h <;> simp [h]

theorem exec_aoutZcTimeout_due (hw : s.aoWaits n.val = true) : exec (.aoutZcTimeout n) s =
    .next ((s.setAout n.val { s.aout n.val with gate := ⟨decide (s.aoState n.val = 2), s.cycle + 1, 0, true⟩ }).flagEvent
      (ANA_STATUS.zc_timeout n.val) n.val 0) := by
  show execAoutZcTimeout n s = _
  exact if_pos hw

theorem exec_aoutZcTimeout_idle (hw : s.aoWaits n.val = false) : exec (.aoutZcTimeout n) s = .next s := by
  show execAoutZcTimeout n s = _
  exact if_neg (by rw [hw]; decide)

theorem does_aoutZcTimeout (hw : s.aoWaits n.val = true) : Does (.aoutZcTimeout n) s fun t =>
    (t.aout n.val).gate = ⟨decide (s.aoState n.val = 2), s.cycle + 1, 0, true⟩ ∧ t.isSet (ANA_STATUS.zc_timeout n.val) = true ∧
      s.OnlyLogged { t with field := s.field } [(ANA_STATUS.zc_timeout n.val).addr] := by
  refine ⟨_, exec_aoutZcTimeout_due hw, ?_, ?_, ?_⟩
  · rw [State.aout_of_field (State.flagEvent_field _ _ _ _), State.aout_setAout_same]
  · exact State.flagEvent_isSet _ _ _ _ (ANA_STATUS_not_mem_logRegs n) (by simp) (by simp)
  · rw [State.setAout_withField]
    exact ((State.OnlyLogged.refl _ _).flagEvent (f := ANA_STATUS.zc_timeout n.val) _ _).ofWithField

theorem exec_aoutHoldEnd_due (h : s.aoHoldDue n.val (s.cycle + 1) = true) :
    exec (.aoutHoldEnd n) s = .next (s.wr (ANA_OUT_STAT.state n.val) 0) := by
  show execAoutHoldEnd n s = _
  exact if_pos h

theorem exec_aoutHoldEnd_idle (h : s.aoHoldDue n.val (s.cycle + 1) = false) : exec (.aoutHoldEnd n) s = .next s := by
  show execAoutHoldEnd n s = _
  exact if_neg (by rw [h]; decide)

theorem does_aoutHoldEnd (h : s.aoHoldDue n.val (s.cycle + 1) = true) : Does (.aoutHoldEnd n) s fun t =>
    t.aoState n.val = 0 ∧ s.OnlyRegs t [ANA_OUT_STAT n.val] :=
  ⟨_, exec_aoutHoldEnd_due h, State.rd_wr_same s (ANA_OUT_STAT.state n.val) 0 (by simp),
    (State.OnlyRegs.refl s _).wr (f := ANA_OUT_STAT.state n.val) 0⟩

/-! ### The statement -/

/-- Settles O46: a case per clause, each from the command's own lemmas. -/
theorem analogRows : Obligations.AnalogRows := by
  intro s n
  refine ⟨fun m g => does_anaGainWrite, fun m g => does_anaGainWrite_locked, fun hd ho => ⟨does_gainStep hd ho, does_gainStepTimeout hd ho⟩,
    ?noStep, fun hb hs ua => does_biasStateChange hb hs, fun ua => exec_biasStateChange_idle, ?gate, fun p => exec_aoutGateCrossing_idle,
    does_aoutZcTimeout, fun h => exec_aoutZcTimeout_idle h, does_aoutHoldEnd, fun h => exec_aoutHoldEnd_idle h⟩
  case noStep => exact fun hd => ⟨congrArg Host.Outcome.next (State.gainStep_idle hd), exec_gainStepTimeout_idle hd⟩
  case gate =>
    intro p hp hc
    constructor
    · exact fun hs hg => ⟨_, exec_aoutGateCrossing_opening hp hc hs hg, s.putAout_state _ (by decide), s.putAout_aout _ _ _,
        fun j hj => s.putAout_aout_other _ hj, s.putAout_onlyRegs _ _ _⟩
    · exact fun hs hg => ⟨_, exec_aoutGateCrossing_closing hp hc hs hg, s.putAout_state _ (by decide), s.putAout_aout _ _ _,
        fun j hj => s.putAout_aout_other _ hj, s.putAout_onlyRegs _ _ _⟩

end Sys2Proof.Machine

/-! ## The arrival of a packet on its ring -/

namespace Sys2Proof.Machine

variable {s : State} {i : Instr} {op : Nat} {c : Cmd} {r : OpRow}

/-- Every packet is served by the row of its opcode. -/
theorem exec_packet (h : i.packet = some (op, c)) : ∃ r, (∀ s, exec i s = .next (s.opcodeRow r c)) ∧ r.spec.op = op := by
  cases i
  all_goals cases h
  all_goals exact ⟨_, fun _ => rfl, rfl⟩

/-- The command with the opcode of its row and the origin of a ring. -/
theorem Cmd.withRow_self (h : c.op = r.spec.op) (ho : c.origin = .ring) : { c with op := r.spec.op, origin := .ring } = c := by
  cases c
  cases h
  cases ho
  rfl

/-! ### What a packet meets at its ring -/

/-- A fetched packet: its ring has room again and counts it outstanding. -/
def State.fetched (s : State) (c : Cmd) : State := (s.wr (CMD_RING_STAT.cq_stall c.ring.val) 0).countFetch c

section

variable (hop : c.op = r.spec.op) (ho : c.origin = .ring)
include hop ho

theorem State.opcodeRow_idle (h : s.engineRuns = false ∨ s.ringRun c.ring.val = false) : s.opcodeRow r c = s := by
  unfold State.opcodeRow
  rw [Cmd.withRow_self hop ho]
  exact if_pos (by rcases h with h | h <;> simp [h])

variable (hrun : s.engineRuns = true) (hring : s.ringRun c.ring.val = true)
include hrun hring

theorem State.opcodeRow_full (hroom : s.hasRoom c.ring.val = false) :
    s.opcodeRow r c = s.wr (CMD_RING_STAT.cq_stall c.ring.val) 1 := by
  unfold State.opcodeRow
  rw [Cmd.withRow_self hop ho]
  exact (if_neg (by simp [hrun, hring])).trans (if_pos (by simp [hroom]))

variable (hroom : s.hasRoom c.ring.val = true)
include hroom

theorem State.opcodeRow_fenced (hf : c.fence = true) (hout : s.outstanding c.ring.val ≠ 0) : s.opcodeRow r c = s := by
  unfold State.opcodeRow
  rw [Cmd.withRow_self hop ho]
  exact (if_neg (by simp [hrun, hring])).trans ((if_neg (by simp [hroom])).trans (if_pos (by simp [hf, hout])))

theorem State.opcodeRow_unfenced (hf : c.fence = false) : s.opcodeRow r c = (s.fetched c).arrive c := by
  unfold State.opcodeRow
  rw [Cmd.withRow_self hop ho]
  exact (if_neg (by simp [hrun, hring])).trans ((if_neg (by simp [hroom])).trans (if_neg (by simp [hf])))

end

/-! ### The fetch -/

theorem State.fetched_q (s : State) (c : Cmd) : (s.fetched c).q = s.q := by
  rw [State.fetched, State.countFetch, State.wr_q, State.wr_q]

theorem State.fetched_cpDown (s : State) (c : Cmd) : (s.fetched c).cpDown = s.cpDown := by
  rw [State.fetched, State.countFetch, State.cpDown, State.wr_flt, State.wr_flt, State.wr_spi, State.wr_spi, State.cpDown]

theorem State.fetched_onlyRegs (s : State) (c : Cmd) : s.OnlyRegs (s.fetched c) [CMD_RING_STAT c.ring.val] :=
  ((State.OnlyRegs.refl s _).wr (f := CMD_RING_STAT.cq_stall c.ring.val) 0 (List.mem_singleton_self _)).wr
    (f := CMD_RING_STAT.outstanding c.ring.val) _ (List.mem_singleton_self _)

theorem State.outstanding_wr_stall (s : State) (n v : Nat) : (s.wr (CMD_RING_STAT.cq_stall n) v).outstanding n = s.outstanding n :=
  s.rd_wr_apart v (.inr (.inr (by simp))) (by simp)

/-- A ring with room for one more outstanding command counts fewer than its field holds: it has at most 512 completion entries. -/
theorem State.outstanding_lt_of_hasRoom {n : Nat} (h : s.hasRoom n = true) (hsize : s.rd (CMD_RING_CFG.size n) ≤ 4) :
    s.outstanding n + 1 < 512 := by
  have hfree : 2 * (s.outstanding n + 1) ≤ s.freeEntries n := by simpa [State.hasRoom] using h
  have hring : s.ringSize n ≤ 256 := Nat.mul_le_mul_left 16 (Nat.pow_le_pow_right (by decide) hsize)
  unfold State.freeEntries at hfree
  omega

theorem State.fetched_outstanding (h : s.hasRoom c.ring.val = true) (hsize : s.rd (CMD_RING_CFG.size c.ring.val) ≤ 4) :
    (s.fetched c).outstanding c.ring.val = s.outstanding c.ring.val + 1 := by
  unfold State.fetched State.countFetch
  rw [State.outstanding_wr_stall]
  exact (State.rd_wr_same _ (CMD_RING_STAT.outstanding c.ring.val) _ (by simp)).trans
    (Nat.mod_eq_of_lt (State.outstanding_lt_of_hasRoom h hsize))

/-- The same beside an update of the commands that wait. -/
theorem State.OnlyRegs.withQ {t : State} {l : List Nat} (h : s.OnlyRegs t l) (x : QState) :
    s.OnlyRegs { ({ t with q := x } : State) with q := s.q } l :=
  ⟨h.1, congrArg (fun u : State => { u with q := s.q }) h.2⟩

/-! ### Where a fetched command waits while the command processor is stopped -/

section

variable {q : QState} (hq : s.q = q) (hd : s.cpDown = true)
include hq hd

theorem State.arrive_stopped (hn : c.ring.val ≠ 0) : s.arrive c = { s with q := { q with fetched := q.fetched ++ [c] } } := by
  subst hq
  exact (if_neg hn).trans (if_pos (by simp [hd]))

theorem State.arrive_stopped_zero (hn : c.ring.val = 0) (ht : isTrigOp c.op = false) (hlen : q.ring0q.length < 32) :
    s.arrive c = { s with q := { q with ring0q := q.ring0q ++ [c] } } := by
  subst hq
  unfold State.arrive State.r0Decode
  rw [if_pos hn, if_pos (by simp [hd]), if_neg (by simp [ht])]
  exact if_neg (by omega)

end

theorem State.outstanding_withQ (s : State) (x : QState) (n : Nat) : ({ s with q := x } : State).outstanding n = s.outstanding n := rfl

/-- Settles O53: the row of the opcode serves the packet; a case per condition that it meets at its ring. -/
theorem ringArrival : Obligations.RingArrival := by
  intro s i op c hpacket hop ho
  obtain ⟨r, hexec, hr⟩ := exec_packet hpacket
  have hrow : c.op = r.spec.op := hop.trans hr.symm
  refine ⟨fun hidle => ?idle, fun hrun hring hfull => ?full, fun hrun hring hroom hf hout => ?fenced,
    fun hrun hring hroom hf hd hsize hn => ?stopped, fun hrun hring hroom hf hd hsize hn ht hlen => ?zero⟩
  case idle => rw [hexec, State.opcodeRow_idle hrow ho hidle]
  case full =>
    refine ⟨_, (hexec s).trans (congrArg _ (State.opcodeRow_full hrow ho hrun hring hfull)), ?_, State.outstanding_wr_stall _ _ _, ?_⟩
    · exact State.rd_wr_same s (CMD_RING_STAT.cq_stall c.ring.val) 1 (by simp)
    · exact (State.OnlyRegs.refl s _).wr (f := CMD_RING_STAT.cq_stall c.ring.val) 1 (List.mem_singleton_self _)
  case fenced => rw [hexec, State.opcodeRow_fenced hrow ho hrun hring hroom hf hout]
  case stopped =>
    have harrive := State.arrive_stopped (s.fetched_q c) ((s.fetched_cpDown c).trans hd) hn
    have hcount := State.fetched_outstanding hroom hsize
    exact ⟨_, (hexec s).trans (congrArg _ ((State.opcodeRow_unfenced hrow ho hrun hring hroom hf).trans harrive)), rfl,
      (State.outstanding_withQ _ _ _).trans hcount, (s.fetched_onlyRegs c).withQ _⟩
  case zero =>
    have harrive := State.arrive_stopped_zero (s.fetched_q c) ((s.fetched_cpDown c).trans hd) hn (hop ▸ ht) hlen
    have hcount := State.fetched_outstanding hroom hsize
    have honly := s.fetched_onlyRegs c
    rw [hn] at hcount honly
    exact ⟨_, (hexec s).trans (congrArg _ ((State.opcodeRow_unfenced hrow ho hrun hring hroom hf).trans harrive)), rfl,
      (State.outstanding_withQ _ _ _).trans hcount, honly.withQ _⟩

end Sys2Proof.Machine

/-! ## What a boot and OFF leave, and the supply rows -/

namespace Sys2Proof.Machine

variable {s : State} {f : Fld} {cause step : Nat} {powerOn warm : Bool} {p : Straps}

/-! ### Words that a boot takes over -/

theorem State.reg_keepWords (s old : State) (l : List Nat) (a : Nat) :
    (s.keepWords old l).reg a = if a ∈ l then old.reg a else s.reg a := by
  induction l generalizing s with
  | nil => rfl
  | cons b l ih =>
    show ((s.setReg b (old.reg b)).keepWords old l).reg a = _
    rw [ih, State.reg_setReg]
    by_cases hl : a ∈ l <;> by_cases hb : a = b <;> simp [hl, hb]

theorem State.keepWords_rest (s old : State) (l : List Nat) : s.keepWords old l = { s with regs := (s.keepWords old l).regs } := by
  induction l generalizing s with
  | nil => rfl
  | cons b l ih => exact ih (s.setReg b (old.reg b))

/-- A part that no register write moves is not moved by taking words over. -/
theorem State.keepWords_part {α : Type} {g : State → α} (hg : ∀ t a v, g (t.setReg a v) = g t) (s old : State) (l : List Nat) :
    g (s.keepWords old l) = g s := by
  induction l generalizing s with
  | nil => rfl
  | cons b l ih => exact (ih (s.setReg b (old.reg b))).trans (hg _ _ _)

/-- Registers whose word a boot takes over from the state before it. -/
def bootWords (powerOn : Bool) : List Nat := LOG_NEXT :: if powerOn then flashWords else flashWords ++ poweredWords

/-- Fields that a boot writes beside those words. -/
def bootFlds : List Fld :=
  [LOG_LOST.count, LOG_STATUS.lost, CLK_STATUS.cause, SEC_STATUS.revoked, SEC_STATUS.jtag_locked, SEC_STATUS.akey_set, MSG_PIN.kib,
    SYS_STATE.unit, SYS_STATE.twin]

/-- Every other field is at its reset value. -/
theorem State.bootState_rd (hk : f.addr ∉ bootWords powerOn) (hf : ∀ g ∈ bootFlds, g.apart f) :
    (s.bootState powerOn warm).rd f = getFld f (resetWord f.addr) := by
  have hnext : f.addr ≠ LOG_NEXT := List.ne_of_not_mem_cons hk
  have hwords := List.not_mem_of_not_mem_cons hk
  have clk (x : State) (v : Nat) : (if powerOn = true then x else x.wr CLK_STATUS.cause v).rd f = x.rd f := by
    split
    · rfl
    · exact State.rd_wr_apart x v (hf CLK_STATUS.cause (by simp [bootFlds])) (by decide)
  have lost (x : State) : (if s.log.staged.length = 0 then x else x.set1 LOG_STATUS.lost).rd f = x.rd f := by
    split
    · rfl
    · exact State.rd_wr_apart x 1 (hf LOG_STATUS.lost (by simp [bootFlds])) (by decide)
  unfold State.bootState State.wrB
  dsimp only
  rw [State.rd_wr_apart _ _ (hf SYS_STATE.twin (by simp [bootFlds])) (by decide),
    State.rd_wr_apart _ _ (hf SYS_STATE.unit (by simp [bootFlds])) (by decide),
    State.rd_wr_apart _ _ (hf MSG_PIN.kib (by simp [bootFlds])) (by decide),
    State.rd_wr_apart _ _ (hf SEC_STATUS.akey_set (by simp [bootFlds])) (by decide),
    State.rd_wr_apart _ _ (hf SEC_STATUS.jtag_locked (by simp [bootFlds])) (by decide),
    State.rd_wr_apart _ _ (hf SEC_STATUS.revoked (by simp [bootFlds])) (by decide), clk, lost]
  unfold State.bump
  rw [State.rd_wr_apart _ _ (hf LOG_LOST.count (by simp [bootFlds])) (by decide), State.rd_setReg_other _ _ hnext]
  unfold State.rd
  rw [State.reg_keepWords, if_neg hwords]
  rfl

/-- What a boot starts with before its registers are written. -/
def State.bootHeld (s : State) (warm : Bool) : State :=
  { State.reset with
    pending := s.pending
    free := s.free
    mem := if warm then s.mem else []
    img := { State.reset.img with slots := s.img.slots, pinned := s.img.pinned, fw := s.img.fw, fwRun := s.img.fwRun }
    msg := { State.reset.msg with dir := s.msg.dir, chains := s.msg.chains }
    ovr := { State.reset.ovr with stored := s.ovr.stored }
    log := { State.reset.log with flash := s.log.flash, lostNew := s.log.lostNew + s.log.staged.length }
    flt := { State.reset.flt with ladder := s.flt.ladder }
    sec := { State.reset.sec with otp := s.sec.otp, akey := s.sec.akey, mkey := s.sec.mkey, fwMeta := s.sec.fwMeta }
    boot := { State.reset.boot with
      step := s.boot.step, porstHigh := s.boot.porstHigh, vsysOk := s.boot.vsysOk, pins := s.boot.pins, sampled := s.boot.sampled
      cutoff := s.boot.cutoff, retries := s.boot.retries }
    pair := { State.reset.pair with railOff := s.pair.railOff, pulses := [] } }

/-- A part that no register write moves is as a boot starts with it. -/
theorem State.bootState_part {α : Type} {g : State → α} (hg : ∀ t a v, g (t.setReg a v) = g t) (s : State) (powerOn warm : Bool) :
    g (s.bootState powerOn warm) = g (s.bootHeld warm) := by
  have wr (x : State) (h : Fld) (v : Nat) : g (x.wr h v) = g x := hg _ _ _
  have pick {c : Prop} [Decidable c] (x y : State) (h : g y = g x) : g (if c then x else y) = g x := by
    split
    · rfl
    · exact h
  unfold State.bootState State.wrB State.bump State.set1
  dsimp only
  rw [wr, wr, wr, wr, wr, wr, pick _ _ (wr _ _ _), pick _ _ (wr _ _ _), wr, hg, State.keepWords_part hg]
  rfl

theorem State.bootState_q : (s.bootState powerOn warm).q = State.reset.q := State.bootState_part (fun _ _ _ => rfl) s powerOn warm

theorem State.bootState_otp : (s.bootState powerOn warm).sec.otp = s.sec.otp :=
  State.bootState_part (g := fun t => t.sec.otp) (fun _ _ _ => rfl) s powerOn warm

theorem State.bootState_boot : (s.bootState powerOn warm).boot = (s.bootHeld warm).boot :=
  State.bootState_part (fun _ _ _ => rfl) s powerOn warm

/-! ### An update of the boot part -/

theorem State.rd_withBoot (s : State) (b : BootState) (f : Fld) : ({ s with boot := b } : State).rd f = s.rd f := rfl

theorem State.q_withBoot (s : State) (b : BootState) : ({ s with boot := b } : State).q = s.q := rfl

theorem State.op_mapBoot (s : State) (g : BootState → BootState) : (s.mapBoot g).op = s.op := rfl

theorem State.mapBoot_boot (s : State) (g : BootState → BootState) : (s.mapBoot g).boot = g s.boot := rfl

theorem State.mapBoot_q (s : State) (g : BootState → BootState) : (s.mapBoot g).q = s.q := rfl

theorem State.mapBoot_sec (s : State) (g : BootState → BootState) : (s.mapBoot g).sec = s.sec := rfl

/-! ### A reset to BOOT -/

/-- The rails and the ring epoch aside, a boot's fields are those of its start and its cause. -/
theorem State.toBoot_rd_start (hv : powerOn = false → PWR_VAUX.on.apart f) (he : 2 ≤ cause ∧ cause ≤ 6 → CMD_EPOCH.resets.apart f) :
    (s.toBoot cause powerOn warm step).rd f = ((s.bootState powerOn warm).wr SYS_RST_CAUSE.cause cause).rd f := by
  have vaux (x : State) (v : Nat) : (if powerOn = true then x else x.wr PWR_VAUX.on v).rd f = x.rd f := by
    split
    · rfl
    · exact State.rd_wr_apart _ _ (hv (Bool.eq_false_iff.mpr ‹_›)) (by decide)
  have epoch (x : State) : (if 2 ≤ cause && cause ≤ 6 then x.wrapInc CMD_EPOCH.resets 1 else x).rd f = x.rd f := by
    split
    · next h =>
      rw [Bool.and_eq_true, decide_eq_true_iff, decide_eq_true_iff] at h
      exact State.rd_wr_apart _ _ (he h) (by decide)
    · rfl
  unfold State.toBoot
  dsimp only
  rw [epoch, vaux, State.rd_withBoot]

/-- Every field but those a boot takes over or writes is at its reset value. -/
theorem State.toBoot_rd (hk : f.addr ∉ bootWords powerOn) (hf : ∀ g ∈ bootFlds, g.apart f) (hc : SYS_RST_CAUSE.cause.apart f)
    (hv : powerOn = false → PWR_VAUX.on.apart f) (he : 2 ≤ cause ∧ cause ≤ 6 → CMD_EPOCH.resets.apart f) :
    (s.toBoot cause powerOn warm step).rd f = getFld f (resetWord f.addr) :=
  (State.toBoot_rd_start hv he).trans ((State.rd_wr_apart _ _ hc (by decide)).trans (State.bootState_rd hk hf))

theorem State.toBoot_cause (h : cause < 16) : (s.toBoot cause powerOn warm step).rd SYS_RST_CAUSE.cause = cause :=
  (State.toBoot_rd_start (fun _ => by decide) (fun _ => by decide)).trans
    ((State.rd_wr_same _ SYS_RST_CAUSE.cause cause (by decide)).trans (Nat.mod_eq_of_lt h))

theorem State.toBoot_op : (s.toBoot cause powerOn warm step).op = .boot := by
  unfold State.op
  rw [State.toBoot_rd (by cases powerOn <;> decide) (by decide) (by decide) (fun _ => by decide) (fun _ => by decide)]
  decide

/-- Write protection is on after every boot. -/
theorem State.toBoot_wp_on : (s.toBoot cause powerOn warm step).rd SEC_STATUS.wp_on = 1 := by
  rw [State.toBoot_rd (by cases powerOn <;> decide) (by decide) (by decide) (fun _ => by decide) (fun _ => by decide)]
  decide

/-- A power-on starts the ring epoch at 0. -/
theorem State.toBoot_epoch : (s.toBoot 0 true warm step).rd CMD_EPOCH.resets = 0 := by
  rw [State.toBoot_rd (powerOn := true) (by decide) (by decide) (by decide) (by decide) (by decide)]
  decide

/-- A part that no register write moves is as the boot starts with it, at its step. -/
theorem State.toBoot_part {α : Type} {g : State → α} (hg : ∀ t a v, g (t.setReg a v) = g t) (s : State) (cause : Nat)
    (powerOn warm : Bool) (step : Nat) : g (s.toBoot cause powerOn warm step) =
      g { s.bootState powerOn warm with boot := { (s.bootState powerOn warm).boot with step := step } } := by
  have wr (x : State) (h : Fld) (v : Nat) : g (x.wr h v) = g x := hg _ _ _
  unfold State.toBoot State.wrapInc
  dsimp only
  have vaux (x : State) (v : Nat) : g (if powerOn = true then x else x.wr PWR_VAUX.on v) = g x := by
    split
    · rfl
    · exact wr _ _ _
  have start (x : State) (h : Fld) (v : Nat) (b : BootState) : g { x.wr h v with boot := b } = g { x with boot := b } :=
    hg { x with boot := b } h.addr (putFld h (x.reg h.addr) v)
  split
  · rw [wr, vaux, start, State.wr_boot]
  · rw [vaux, start, State.wr_boot]

theorem State.toBoot_q : (s.toBoot cause powerOn warm step).q = State.reset.q :=
  ((State.toBoot_part (fun _ _ _ => rfl) s cause powerOn warm step).trans (State.q_withBoot _ _)).trans State.bootState_q

theorem State.toBoot_boot : (s.toBoot cause powerOn warm step).boot = { (s.bootHeld warm).boot with step := step } := by
  rw [State.toBoot_part (g := State.boot) (fun _ _ _ => rfl), State.bootState_boot]

/-! ### OFF -/

theorem State.toOff_op : (s.toOff powerOn).op = .off := by
  unfold State.toOff State.op
  dsimp only
  rw [State.rd_withBoot, State.rd_wr_same _ SYS_STATE.state _ (by decide)]
  rfl

theorem State.toOff_q : (s.toOff powerOn).q = State.reset.q := by
  unfold State.toOff
  dsimp only
  rw [State.wr_q, State.bootState_q]

theorem State.toOff_otp : (s.toOff powerOn).sec.otp = s.sec.otp := by
  unfold State.toOff
  dsimp only
  rw [State.wr_sec, State.bootState_otp]

theorem State.toOff_boot : (s.toOff powerOn).boot = { (s.bootHeld false).boot with step := 0, sampled := false } := by
  unfold State.toOff
  dsimp only
  rw [State.wr_boot, State.bootState_boot]

/-! ### Sampling the straps -/

/-- Sampling moves the fields of the straps alone. -/
theorem State.sampleStraps_rd (ht : SYS_STATE.twin.apart f) (hu : SYS_STATE.unit.apart f) (hb : SYS_STATE.bootsel.apart f)
    (hp : REF_STATUS.pins.apart f) : s.sampleStraps.rd f = s.rd f := by
  unfold State.sampleStraps State.mapBoot State.wrB
  dsimp only
  rw [State.rd_withBoot, State.rd_wr_apart _ _ hp (by decide), State.rd_wr_apart _ _ hb (by decide)]
  split
  · rfl
  · rw [State.rd_wr_apart _ _ hu (by decide), State.rd_wr_apart _ _ ht (by decide)]

theorem State.sampleStraps_pins : s.sampleStraps.rd REF_STATUS.pins = s.boot.pins.refsel.val := by
  unfold State.sampleStraps State.mapBoot
  dsimp only
  rw [State.rd_withBoot, State.rd_wr_same _ REF_STATUS.pins _ (by decide)]
  exact Nat.mod_eq_of_lt s.boot.pins.refsel.isLt

theorem State.sampleStraps_bootsel : s.sampleStraps.rd SYS_STATE.bootsel = s.boot.pins.bootsel.val := by
  unfold State.sampleStraps State.mapBoot
  dsimp only
  rw [State.rd_withBoot, State.rd_wr_apart _ _ (by decide) (by decide),
    State.rd_wr_same _ SYS_STATE.bootsel _ (by decide)]
  exact Nat.mod_eq_of_lt s.boot.pins.bootsel.isLt

theorem State.sampleStraps_boot : s.sampleStraps.boot = { s.boot with sampled := true } := by
  unfold State.sampleStraps State.mapBoot
  dsimp only
  rw [State.wr_boot, State.wr_boot]
  split
  · rfl
  · rw [State.wrB_boot, State.wrB_boot]

/-! ### The rows -/

/-- The state with the supply up, PORST_N high and the straps as driven. -/
def State.supplied (s : State) (p : Straps) : State :=
  s.mapBoot fun b => { b with vsysOk := true, porstHigh := true, pins := p, cutoff := false, sampled := false }

theorem exec_powerOn_boot (h : s.boot.vsysOk = false) : exec (.powerOn p) s = .next ((s.supplied p).toBoot 0 true false 1) :=
  congrArg Host.Outcome.next (if_neg (by rw [h]; decide))

theorem exec_powerOn_idle (h : s.boot.vsysOk = true) : exec (.powerOn p) s = .next s := congrArg Host.Outcome.next (if_pos h)

theorem does_powerOn (h : s.boot.vsysOk = false) : Does (.powerOn p) s fun t =>
    t.op = .boot ∧ t.boot.step = 1 ∧ t.boot.vsysOk = true ∧ t.boot.porstHigh = true ∧ t.boot.pins = p
      ∧ t.rd SYS_RST_CAUSE.cause = 0 ∧ t.rd CMD_EPOCH.resets = 0 ∧ t.rd SEC_STATUS.wp_on = 1 ∧ t.q = State.reset.q := by
  exact ⟨_, exec_powerOn_boot h, State.toBoot_op, congrArg BootState.step State.toBoot_boot, congrArg BootState.vsysOk State.toBoot_boot,
    congrArg BootState.porstHigh State.toBoot_boot, congrArg BootState.pins State.toBoot_boot, State.toBoot_cause (by decide),
    State.toBoot_epoch, State.toBoot_wp_on, State.toBoot_q⟩

theorem does_vsysFall (s : State) : Does .vsysFall s fun t => t.op = .off ∧ t.boot.vsysOk = false ∧ t.boot.porstHigh = s.boot.porstHigh ∧
    t.q = State.reset.q ∧ t.sec.otp = s.sec.otp := by
  refine ⟨(s.toOff true).mapBoot fun b => { b with vsysOk := false, cutoff := false }, rfl, (State.op_mapBoot _ _).trans State.toOff_op,
    ?_, ?_, (State.mapBoot_q _ _).trans State.toOff_q, ?_⟩
  · rw [State.mapBoot_boot]
  · rw [State.mapBoot_boot, State.toOff_boot]
    rfl
  · rw [State.mapBoot_sec, State.toOff_otp]

theorem does_porstNLow (s : State) : Does .porstNLow s fun t => t.op = .off ∧ t.boot.porstHigh = false ∧ t.boot.vsysOk = s.boot.vsysOk ∧
    t.q = State.reset.q ∧ t.sec.otp = s.sec.otp := by
  refine ⟨(s.toOff false).mapBoot fun b => { b with porstHigh := false }, rfl, (State.op_mapBoot _ _).trans State.toOff_op,
    ?_, ?_, (State.mapBoot_q _ _).trans State.toOff_q, ?_⟩
  · rw [State.mapBoot_boot]
  · rw [State.mapBoot_boot, State.toOff_boot]
    rfl
  · rw [State.mapBoot_sec, State.toOff_otp]

/-- The state with PORST_N high and the straps as driven. -/
def State.porstUp (s : State) (p : Straps) : State := s.mapBoot fun b => { b with porstHigh := true, pins := p }

/-- The boot that begins as the internal reset releases (R326), before the straps are sampled. -/
def State.porstBoot (s : State) (p : Straps) : State := ((s.porstUp p).toBoot 1 false false 2).wr PWR_VAUX.on 1

theorem State.porstBoot_rd (h : PWR_VAUX.on.apart f) : (s.porstBoot p).rd f = ((s.porstUp p).toBoot 1 false false 2).rd f :=
  State.rd_wr_apart _ _ h (by decide)

theorem State.porstBoot_boot : (s.porstBoot p).boot = { ((s.porstUp p).bootHeld false).boot with step := 2 } := by
  rw [State.porstBoot, State.wr_boot, State.toBoot_boot]

theorem exec_porstNRelease_boot (hlow : s.boot.porstHigh = false) (hv : s.boot.vsysOk = true) (hc : s.boot.cutoff = false)
    (ho : s.op = .off) : exec (.porstNRelease p) s = .next (s.porstBoot p).sampleStraps := by
  have hup : ((s.porstUp p).boot.vsysOk && !(s.porstUp p).boot.cutoff && decide ((s.porstUp p).op = .off)) = true := by
    rw [State.porstUp, State.op_mapBoot, State.mapBoot_boot]
    simp [hv, hc, ho]
  exact congrArg Host.Outcome.next ((if_neg (by rw [hlow]; decide)).trans (if_pos hup))

theorem does_porstNRelease (hlow : s.boot.porstHigh = false) (hv : s.boot.vsysOk = true) (hc : s.boot.cutoff = false) (ho : s.op = .off) :
    Does (.porstNRelease p) s fun t =>
      t.op = .boot ∧ t.boot.step = 2 ∧ t.boot.porstHigh = true ∧ t.rd SYS_RST_CAUSE.cause = 1 ∧ t.rd PWR_VAUX.on = 1
        ∧ t.rd REF_STATUS.pins = p.refsel.val ∧ t.rd SYS_STATE.bootsel = p.bootsel.val ∧ t.rd SEC_STATUS.wp_on = 1 := by
  have hboot : (s.porstBoot p).sampleStraps.boot = { ((s.porstUp p).bootHeld false).boot with step := 2, sampled := true } := by
    rw [State.sampleStraps_boot, State.porstBoot_boot]
  refine ⟨_, exec_porstNRelease_boot hlow hv hc ho, ?op, congrArg BootState.step hboot, congrArg BootState.porstHigh hboot, ?cause, ?vaux, ?pins, ?bootsel, ?wp⟩
  case op =>
    unfold State.op
    rw [State.sampleStraps_rd (by decide) (by decide) (by decide) (by decide), State.porstBoot_rd (by decide)]
    exact State.toBoot_op
  case cause =>
    rw [State.sampleStraps_rd (by decide) (by decide) (by decide) (by decide), State.porstBoot_rd (by decide)]
    exact State.toBoot_cause (by decide)
  case vaux =>
    rw [State.sampleStraps_rd (by decide) (by decide) (by decide) (by decide)]
    exact State.rd_wr_same _ PWR_VAUX.on 1 (by decide)
  case pins =>
    rw [State.sampleStraps_pins, State.porstBoot_boot]
    rfl
  case bootsel =>
    rw [State.sampleStraps_bootsel, State.porstBoot_boot]
    rfl
  case wp =>
    rw [State.sampleStraps_rd (by decide) (by decide) (by decide) (by decide), State.porstBoot_rd (by decide)]
    exact State.toBoot_wp_on

theorem does_regulatorCutoff (h : s.op ≠ .off) : Does .regulatorCutoff s fun t =>
    t.op = .off ∧ t.boot.cutoff = true ∧ t.q = State.reset.q := by
  refine ⟨(s.toOff false).mapBoot fun b => { b with cutoff := true }, congrArg Host.Outcome.next (if_neg h),
    (State.op_mapBoot _ _).trans State.toOff_op, ?_, (State.mapBoot_q _ _).trans State.toOff_q⟩
  rw [State.mapBoot_boot]

/-- The state with the regulator on again. -/
def State.regulated (s : State) (p : Straps) : State :=
  s.mapBoot fun b => { b with cutoff := false, pins := p, vsysOk := true, porstHigh := true }

theorem exec_regulatorRestart_boot (h : s.boot.cutoff = true) :
    exec (.regulatorRestart p) s = .next ((s.regulated p).toBoot 7 false false 1) := congrArg Host.Outcome.next (if_pos h)

theorem does_regulatorRestart (h : s.boot.cutoff = true) : Does (.regulatorRestart p) s fun t =>
    t.op = .boot ∧ t.boot.step = 1 ∧ t.boot.cutoff = false ∧ t.boot.pins = p ∧ t.rd SYS_RST_CAUSE.cause = 7
      ∧ t.rd SEC_STATUS.wp_on = 1 := by
  exact ⟨_, exec_regulatorRestart_boot h, State.toBoot_op, congrArg BootState.step State.toBoot_boot, congrArg BootState.cutoff State.toBoot_boot,
    congrArg BootState.pins State.toBoot_boot, State.toBoot_cause (by decide), State.toBoot_wp_on⟩

/-- Settles O7: each row starts a boot by `State.toBoot` or goes to OFF by `State.toOff`. -/
theorem supplyRows : Obligations.SupplyRows := fun s _ =>
  ⟨does_powerOn, exec_powerOn_idle, does_vsysFall s, does_porstNLow s, does_porstNRelease, does_regulatorCutoff, does_regulatorRestart⟩

end Sys2Proof.Machine

/-! ## What the completion of a command leaves of the command processor -/

namespace Sys2Proof.Machine

/-- The fault unit's part and the background jobs are as before. -/
def State.ProcessorStays (s t : State) : Prop := t.flt = s.flt ∧ t.q.jobs = s.q.jobs

variable {s0 s t : State}

theorem State.ProcessorStays.refl (s : State) : s.ProcessorStays s := ⟨rfl, rfl⟩

/-- An update of other parts. -/
theorem State.ProcessorStays.same (h : s0.ProcessorStays s) (hf : t.flt = s.flt) (hj : t.q.jobs = s.q.jobs) : s0.ProcessorStays t :=
  ⟨hf.trans h.1, hj.trans h.2⟩

theorem State.ProcessorStays.setReg (h : s0.ProcessorStays s) (a : Nat) (v : Word) : s0.ProcessorStays (s.setReg a v) := h.same rfl rfl

theorem State.ProcessorStays.wr (h : s0.ProcessorStays s) (f : Fld) (v : Nat) : s0.ProcessorStays (s.wr f v) := h.setReg _ _

theorem State.ProcessorStays.ite {c : Prop} [Decidable c] (h : s0.ProcessorStays s) (k : s0.ProcessorStays t) :
    s0.ProcessorStays (if c then s else t) := by
  split
  · exact h
  · exact k

theorem State.ProcessorStays.forAll {α : Type} {f : α → State → State} (k : ∀ x t, s0.ProcessorStays t → s0.ProcessorStays (f x t))
    (l : List α) (h : s0.ProcessorStays s) : s0.ProcessorStays (forAll l f s) := by
  induction l generalizing s with
  | nil => exact h
  | cons x l ih => exact ih (k x s h)

variable {c : Cmd} {r : CmdRef} {st d : Nat} {a : Word} {bs : List Byte}

theorem State.ProcessorStays.answer (h : s0.ProcessorStays s) : s0.ProcessorStays (s.answer c st d a bs) := by
  unfold State.answer
  split
  · have hbuf : s0.ProcessorStays (if c.xreply && !bs.isEmpty then s.setBytes c.xaddr.toNat (bs.take c.xlen.toNat) else s) :=
      .ite (h.same rfl rfl) h
    exact (hbuf.same (State.setMemWords_flt _ _ _) (congrArg QState.jobs (State.setMemWords_q _ _ _))).setReg _ _
  · unfold State.mgmtEntry State.sendMgmt
    have hdraw : s0.ProcessorStays s.drawFree.2 := h.same rfl rfl
    have hbuf : s0.ProcessorStays (if c.xreply && !bs.isEmpty then s.drawFree.2.setBytes c.xaddr.toNat (bs.take c.xlen.toNat)
      else s.drawFree.2) := .ite (hdraw.same rfl rfl) hdraw
    exact hbuf.same rfl rfl
  · exact h.same rfl rfl
  · exact h.same rfl rfl

theorem State.ProcessorStays.complete (h : s0.ProcessorStays s) : s0.ProcessorStays (s.complete c st d a bs) := by
  have hans : s0.ProcessorStays (s.answer c st d a bs) := h.answer
  unfold State.complete
  dsimp only
  split
  · exact hans.wr _ _
  · exact hans.same rfl rfl
  · exact hans
  · exact hans

theorem State.ProcessorStays.pendSync (h : s0.ProcessorStays s) : s0.ProcessorStays s.pendSync := by
  unfold State.pendSync
  exact .ite ((h.wr _ _).wr _ _) (h.wr _ _)

theorem State.ProcessorStays.releaseAborts (h : s0.ProcessorStays s) : s0.ProcessorStays (s.releaseAborts r) := by
  unfold State.releaseAborts
  exact State.ProcessorStays.forAll (fun _ _ k => k.complete) _ (h.same rfl rfl)

theorem State.ProcessorStays.finish (h : s0.ProcessorStays s) : s0.ProcessorStays (s.finish r st d bs) := by
  unfold State.finish
  split
  · exact h
  · exact State.ProcessorStays.releaseAborts (.pendSync (.complete (h.same rfl rfl)))

end Sys2Proof.Machine

/-! ## The command processor's watchdog, trap and restart -/

namespace Sys2Proof.Machine

variable {s t : State} {l : List Nat}

/-! ### A condition of the grade -/

section

variable {α : Type} {g : State → α} (hreg : ∀ t a v, g (t.setReg a v) = g t) (hev : ∀ t k p q, g (State.event t k p q) = g t)
include hreg hev

/-- A part that neither a register write nor a log entry moves is not moved by the grade. -/
theorem State.regrade_part (s : State) : g s.regrade = g s := by
  unfold State.regrade
  dsimp only
  split
  · rfl
  · exact (hev _ _ _ _).trans (hreg _ _ _)

theorem State.raiseCond_part (hflt : ∀ t x, g { t with flt := x } = g t) (s : State) (cause res : Nat) :
    g (s.raiseCond cause res) = g s := by
  unfold State.raiseCond
  dsimp only
  split
  · rfl
  · split
    · exact (State.regrade_part hreg hev _).trans (hflt _ _)
    · exact hflt _ _

end

/-- A condition that has come into force is among the conditions, and nothing else of the fault unit's part changes. -/
theorem State.raiseCond_flt (s : State) (cause res : Nat) :
    ∃ cs, (s.raiseCond cause res).flt = { s.flt with conds := cs } ∧ (cause, res) ∈ cs := by
  unfold State.raiseCond
  dsimp only
  split
  · next h => exact ⟨_, rfl, h⟩
  · refine ⟨(cause, res) :: s.flt.conds, ?_, List.mem_cons_self⟩
    split
    · exact State.regrade_part (g := State.flt) (fun _ _ _ => rfl) State.event_flt _
    · rfl

/-! ### A servo without measurements -/

section

variable {α : Type} {g : State → α} (hreg : ∀ t a v, g (t.setReg a v) = g t) (href : ∀ t x, g { t with ref := x } = g t)
include hreg href

/-- A part that neither a register write nor the reference unit moves is not moved by a monitor. -/
theorem State.monGo_part (s : State) (k st : Nat) (mean : Word) : g (s.monGo k st mean) = g s := by
  unfold State.monGo
  dsimp only
  have hmon : g (((s.wr (REF_MON.state k) st).wr (REF_MON.count k) 0).setRefMon k { s.refMon k with good := 0, hardOut := 0 }) = g s :=
    (href _ _).trans ((hreg _ _ _).trans (hreg _ _ _))
  split
  · exact hmon
  · split
    · exact (href _ _).trans hmon
    · split
      · exact (href _ _).trans ((href _ _).trans hmon)
      · exact hmon

theorem State.refPresence_part (s : State) (k : Nat) (seen : Bool) : g (s.refPresence k seen) = g s := by
  unfold State.refPresence
  split
  · rfl
  · split
    · split
      · exact State.monGo_part hreg href _ _ _ _
      · rfl
    · split
      · rfl
      · exact State.monGo_part hreg href _ _ _ _

theorem State.servoLost_part (s : State) : g s.servoLost = g s := by
  have go (v : Nat) : g (s.servoGo v) = g s := (State.refPresence_part hreg href _ _ _).trans (hreg _ _ _)
  unfold State.servoLost
  split
  · exact go _
  · split
    · exact go _
    · rfl

end

/-! ### Stop -/

/-- The command processor marked as stopped now. -/
def State.cpMarked (s : State) (trap : Bool) : State :=
  { s with flt := { s.flt with cpStopped := true, cpSince := some s.cycle, cpTrap := trap } }

theorem State.cpStop_running (h : s.flt.cpStopped = false) (trap : Bool) :
    s.cpStop trap = ((s.cpMarked trap).raiseCond 7 0).servoLost.event 0x0004 2 7 := if_neg (by rw [h]; decide)

theorem State.cpStop_stopped (h : s.flt.cpStopped = true) (trap : Bool) : s.cpStop trap = s := if_pos h

/-- A part that a stop moves only in the fault unit and the reference unit. -/
theorem State.cpStop_part {α : Type} {g : State → α} (hreg : ∀ t a v, g (t.setReg a v) = g t)
    (hev : ∀ t k p q, g (State.event t k p q) = g t) (hflt : ∀ t x, g { t with flt := x } = g t)
    (href : ∀ t x, g { t with ref := x } = g t) (h : s.flt.cpStopped = false) (trap : Bool) : g (s.cpStop trap) = g s := by
  rw [State.cpStop_running h, hev, State.servoLost_part hreg href, State.raiseCond_part hreg hev hflt]
  exact hflt _ _

theorem State.cpStop_flt (h : s.flt.cpStopped = false) (trap : Bool) :
    ∃ cs, (s.cpStop trap).flt = { (s.cpMarked trap).flt with conds := cs } ∧ (7, 0) ∈ cs := by
  rw [State.cpStop_running h, State.event_flt, State.servoLost_part (g := State.flt) (fun _ _ _ => rfl) (fun _ _ => rfl)]
  exact State.raiseCond_flt _ 7 0

theorem does_cpStop {i : Instr} {trap : Bool} (hexec : exec i s = .next (s.cpStop trap)) (h : s.flt.cpStopped = false) :
    Does i s fun t => t.flt.cpStopped = true ∧ t.flt.cpSince = some s.cycle ∧ t.flt.cpTrap = trap ∧ (7, 0) ∈ t.flt.conds ∧ t.q = s.q ∧
      s.SameBytes t := by
  obtain ⟨cs, hflt, hmem⟩ := State.cpStop_flt h trap
  refine ⟨_, hexec, by rw [hflt]; rfl, by rw [hflt]; rfl, by rw [hflt]; rfl, by rw [hflt]; exact hmem, ?_, fun a => ?_⟩
  · exact State.cpStop_part (g := State.q) (fun _ _ _ => rfl) State.event_q (fun _ _ => rfl) (fun _ _ => rfl) h trap
  · have hm := State.cpStop_part (g := State.mem) (fun _ _ _ => rfl) State.event_mem (fun _ _ => rfl) (fun _ _ => rfl) h trap
    unfold State.byte
    rw [hm]

/-! ### Restart -/

/-- The code region as a restart leaves it (R482). -/
def State.cpCode (s : State) : State := if s.codeCrcNow = s.flt.codeCrc then s else s.setBytes 0x10000000 s.fwCode

/-- The re-initialisations of the last 10 min with this one (R482). -/
def State.cpReinits (s : State) : List Word := s.cycle :: s.flt.reinits.filter (fun c => since s.cycle c < s.cyclesOfS 600)

/-- The processor runs again, with no background job. -/
def State.cpResumed (s : State) : State :=
  { s with
    flt := { s.flt with cpStopped := false, cpSince := none, kick := s.cycle, reinits := s.cpReinits }
    q := { s.q with jobs := [] } }

/-- The background jobs complete FAULT, and the restart is flagged. -/
def State.cpFlagged (s : State) : State :=
  ((forAll s.q.jobs (fun j st => st.finish j.cmd.ref stFault 0 []) s.cpResumed).clearCond 7 0).set1 CMD_STATUS.wd

theorem State.cpRestart_running (h : s.flt.cpStopped = false) : s.cpRestart = s := if_pos (by rw [h]; decide)

theorem State.cpRestart_stopped (h : s.flt.cpStopped = true) : s.cpRestart =
    let u := s.cpCode.cpFlagged.eventP 0x0602 (some (b2n s.flt.cpTrap)) none
    if u.flt.reinits.length ≥ 3 then u.autoStep 3 7 else u := if_neg (by rw [h]; decide)

/-- A restart moves memory alone as it reloads code. -/
theorem State.cpCode_mem (s : State) : ∃ m, s.cpCode = { s with mem := m } := by
  unfold State.cpCode
  split
  · exact ⟨_, rfl⟩
  · exact ⟨_, rfl⟩

theorem State.cpFlagged_flt (s : State) : s.cpFlagged.flt = { s.cpResumed.flt with conds := s.flt.conds.filter (· != (7, 0)) } := by
  have hjobs := State.ProcessorStays.forAll (fun j _ k => State.ProcessorStays.finish (r := j.cmd.ref) (st := stFault) (d := 0) (bs := []) k)
    s.q.jobs (.refl s.cpResumed)
  rw [State.cpFlagged, State.set1_flt, State.clearCond, hjobs.1]
  rfl

theorem State.cpFlagged_jobs (s : State) : s.cpFlagged.q.jobs = [] := by
  have hjobs := State.ProcessorStays.forAll (fun j _ k => State.ProcessorStays.finish (r := j.cmd.ref) (st := stFault) (d := 0) (bs := []) k)
    s.q.jobs (.refl s.cpResumed)
  rw [State.cpFlagged, State.set1_q]
  exact hjobs.2

/-- An event of free parameters changes nothing of a part that neither a log entry nor a draw moves. -/
theorem State.eventP_part {α : Type} {g : State → α} (hev : ∀ t k p q, g (State.event t k p q) = g t)
    (hfree : ∀ t x, g { t with free := x } = g t) (s : State) (k : Nat) (p0 p1 : Option Nat) : g (s.eventP k p0 p1) = g s := by
  cases p0 <;> cases p1 <;> simp only [State.eventP, State.drawFree, hev, hfree]

theorem does_cpRestart (h : s.flt.cpStopped = true)
    (hfew : (s.flt.reinits.filter (fun x => since s.cycle x < s.cyclesOfS 600)).length < 2) : Does .cpRestart s fun t =>
      t.flt.cpStopped = false ∧ t.flt.cpSince = none ∧ t.flt.kick = s.cycle ∧ t.q.jobs = [] ∧ t.isSet CMD_STATUS.wd = true := by
  obtain ⟨m, hcode⟩ := s.cpCode_mem
  have hflt : (s.cpCode.cpFlagged.eventP 0x0602 (some (b2n s.flt.cpTrap)) none).flt =
      { s.cpResumed.flt with conds := s.flt.conds.filter (· != (7, 0)) } := by
    rw [State.eventP_part (g := State.flt) State.event_flt fun _ _ => rfl, State.cpFlagged_flt, hcode]
    rfl
  have hstay : s.cpRestart = s.cpCode.cpFlagged.eventP 0x0602 (some (b2n s.flt.cpTrap)) none := by
    rw [State.cpRestart_stopped h]
    refine if_neg ?_
    rw [hflt]
    show ¬ s.cpReinits.length ≥ 3
    unfold State.cpReinits
    rw [List.length_cons]
    omega
  refine ⟨_, congrArg Host.Outcome.next hstay, by rw [hflt]; rfl, by rw [hflt]; rfl, by rw [hflt]; rfl, ?jobs, ?wd⟩
  case jobs => rw [State.eventP_part (g := State.q) State.event_q fun _ _ => rfl, State.cpFlagged_jobs]
  case wd =>
    unfold State.isSet
    rw [State.eventP_part (g := fun t => t.rd CMD_STATUS.wd) (fun t k p q => State.event_rd t k p q (by decide)) fun _ _ => rfl]
    exact State.isSet_set1 _ CMD_STATUS.wd (by decide) (by decide)

/-! ### Kick, reset, remap -/

theorem exec_sysWdogKick_key : exec (.sysWdogKick .cp 0x6B1C) s = .next { s with flt := { s.flt with kick := s.cycle } } :=
  congrArg Host.Outcome.next (if_pos (by decide))

/-- A command whose effect is a flag with its event. -/
theorem Does.ofFlagEvent {i : Instr} {f : Fld} {k d : Nat} (h : exec i s = .next (s.flagEvent f k d)) (hlog : f.addr ∉ logRegs)
    (hf : f.lo + f.width ≤ 32) (hw : 0 < f.width) : Does i s fun t => t.isSet f = true ∧ s.OnlyLogged t [f.addr] :=
  ⟨_, h, s.flagEvent_isSet f k d hlog hf hw, (State.OnlyLogged.refl s _).flagEvent k d (List.mem_singleton_self _)⟩

theorem exec_sysWdogKick_bad {m : Master} {v : BitVec 16} (h : v ≠ 0x6B1C ∨ m ≠ .cp) :
    exec (.sysWdogKick m v) s = .next (s.flagEvent SYS_STATUS.kick_bad m.id v.toNat) := by
  refine congrArg Host.Outcome.next (if_neg ?_)
  rw [Bool.and_eq_true, decide_eq_true_iff, decide_eq_true_iff]
  rintro ⟨hv, hm⟩
  exact h.elim (fun k => k (BitVec.eq_of_toNat_eq hv)) fun k => k hm

/-- The key of a reset write is the word's upper half. -/
theorem fieldOf_key (v : Word) : fieldOf v 31 16 = v.toNat / 65536 := Nat.mod_eq_of_lt (by have := v.isLt; omega)

theorem exec_sysResetWrite_noKey {v : Word} (h : v.toNat / 65536 ≠ 0xA55A) :
    exec (.sysResetWrite v) s = .next (s.flagEvent SYS_STATUS.wr_refused 0 0) :=
  congrArg Host.Outcome.next (if_pos (by rwa [fieldOf_key]))

section

variable {v : Word} (hkey : v.toNat / 65536 = 0xA55A)
include hkey

theorem exec_sysResetWrite_alarm (hforce : v.getLsbD 1 = false) (ha : s.alarmPath = true) :
    exec (.sysResetWrite v) s = .next (s.flagEvent SYS_STATUS.rst_refused 0 0) :=
  congrArg Host.Outcome.next ((if_neg (by rw [fieldOf_key, hkey]; decide)).trans (if_pos (by rw [bitOf, hforce, ha]; rfl)))

theorem exec_sysResetWrite_taken (h : v.getLsbD 1 = true ∨ s.alarmPath = false) : exec (.sysResetWrite v) s =
    .next { s with boot := { s.boot with resetReq := some (if v.getLsbD 0 then 3 else 2) } } :=
  congrArg Host.Outcome.next ((if_neg (by rw [fieldOf_key, hkey]; decide)).trans
    (if_neg (by rcases h with h | h <;> simp [bitOf, h])))

end

theorem does_sysRemapWrite {v : Word} (h : v.getLsbD 0 = true) : Does (.sysRemapWrite v) s fun t =>
    t.rd SYS_REMAP.remap = 1 ∧ s.OnlyRegs t [SYS_REMAP] :=
  ⟨_, congrArg Host.Outcome.next (if_pos h), s.rd_wr_same SYS_REMAP.remap 1 (by decide),
    (State.OnlyRegs.refl s _).wr (f := SYS_REMAP.remap) 1 (List.mem_singleton_self _)⟩

theorem exec_sysRemapWrite_idle {v : Word} (h : v.getLsbD 0 = false) : exec (.sysRemapWrite v) s = .next s :=
  congrArg Host.Outcome.next (if_neg (by rw [bitOf, h]; decide))

/-! ### Dusk requests -/

section

variable {m : Master} {req : BitVec 5}

theorem exec_memDuskWrite_open (h : s.pairLocked m = false) : exec (.memDuskWrite m req) s = .next (s.duskRequest req.toNat) := by
  have hopen : s.memDusk m req.toNat = (s.duskRequest req.toNat, false) := if_neg (by rw [h]; decide)
  show execMemDuskWrite m req s = _
  unfold execMemDuskWrite
  rw [hopen]
  rfl

theorem does_memDuskWrite_taken (h : s.pairLocked m = false) (hok : s.duskOk req.toNat = true) : Does (.memDuskWrite m req) s fun t =>
    t.rd MEM_DUSK.req = req.toNat ∧ t.ms = { s.ms with duskWant := req.toNat } ∧ s.OnlyRegs { t with ms := s.ms } [MEM_DUSK] := by
  obtain ⟨hregs, hrest⟩ := (State.OnlyRegs.refl s [MEM_DUSK]).wr (f := MEM_DUSK.req) req.toNat (List.mem_singleton_self _)
  refine ⟨_, (exec_memDuskWrite_open h).trans (congrArg _ (if_pos hok)), ?_, rfl, hregs, congrArg (fun u : State => { u with ms := s.ms }) hrest⟩
  exact (s.rd_wr_same MEM_DUSK.req req.toNat (by decide)).trans (Nat.mod_eq_of_lt req.isLt)

theorem does_memDuskWrite_refused (h : s.pairLocked m = false) (hok : s.duskOk req.toNat = false) : Does (.memDuskWrite m req) s fun t =>
    t.isSet MEM_STATUS.dusk_refused = true ∧ s.OnlyRegs t [MEM_STATUS] :=
  ⟨_, (exec_memDuskWrite_open h).trans (congrArg _ (if_neg (by rw [hok]; decide))),
    s.isSet_set1 MEM_STATUS.dusk_refused (by decide) (by decide),
    (State.OnlyRegs.refl s _).set1 (f := MEM_STATUS.dusk_refused) (List.mem_singleton_self _)⟩

theorem does_memDuskWrite_locked (h : s.pairLocked m = true) : Does (.memDuskWrite m req) s fun t => s.OnlyLogged t [] := by
  have hlocked : s.memDusk m req.toNat = (s, req.toNat != s.rd MEM_DUSK.req) := if_pos h
  refine ⟨if req.toNat != s.rd MEM_DUSK.req then s.wpEvent m MEM_DUSK else s, ?_, ?_⟩
  · show execMemDuskWrite m req s = _
    unfold execMemDuskWrite
    rw [hlocked]
  · split
    · exact State.event_onlyLogged s _ _ _
    · exact State.OnlyLogged.refl s _

end

/-! ### The flush of the log -/

theorem State.OnlyRegs.setOldest (h : s.OnlyRegs t l) (es : List LogEntry) (hl : LOG_OLDEST ∈ l) :
    s.OnlyRegs (t.setOldest es) l := by
  cases es with
  | nil => exact h
  | cons e es => exact h.setReg e.seq hl

theorem State.setOldest_log (s : State) (es : List LogEntry) : (s.setOldest es).log = s.log := by
  cases es <;> rfl

theorem State.setOldest_rd (s : State) (es : List LogEntry) {f : Fld} (h : f.addr ≠ LOG_OLDEST) : (s.setOldest es).rd f = s.rd f := by
  cases es with
  | nil => rfl
  | cons e es => exact s.rd_setReg_other e.seq h

theorem State.OnlyRegs.ofWithLog {x : LogState} (h : ({ s with log := x } : State).OnlyRegs t l) : s.OnlyRegs { t with log := s.log } l :=
  ⟨h.1, congrArg (fun u : State => { u with log := s.log }) h.2⟩

/-- The state with every staged entry in flash. -/
def State.logFlushed (s : State) : State :=
  { s with log := { s.log with flash := logKept (s.log.flash ++ s.log.staged), staged := [] } }

theorem State.flushLog_eq (s : State) :
    s.flushLog = (s.logFlushed.wr LOG_STAGED.count 0).setOldest (logKept (s.log.flash ++ s.log.staged)) := rfl

theorem does_logFlush (s : State) : Does .logFlush s fun t =>
    t.log.staged = [] ∧ t.log.flash = logKept (s.log.flash ++ s.log.staged) ∧ t.rd LOG_STAGED.count = 0 ∧
      s.OnlyRegs { t with log := s.log } [LOG_STAGED, LOG_OLDEST] := by
  have hlog : s.flushLog.log = s.logFlushed.log := by rw [State.flushLog_eq, State.setOldest_log, State.wr_log]
  have honly : s.logFlushed.OnlyRegs s.flushLog [LOG_STAGED, LOG_OLDEST] := by
    rw [State.flushLog_eq]
    exact ((State.OnlyRegs.refl _ _).wr (f := LOG_STAGED.count) 0 (by decide)).setOldest _ (by decide)
  refine ⟨s.flushLog, rfl, by rw [hlog, State.logFlushed], by rw [hlog, State.logFlushed], ?_,
    honly.ofWithLog⟩
  rw [State.flushLog_eq, State.setOldest_rd _ _ (by decide), State.rd_wr_same _ LOG_STAGED.count _ (by decide)]
  rfl

/-! ### The statement -/

/-- Settles O31: a case per clause, each from the command's own lemmas. -/
theorem processorRows : Obligations.ProcessorRows := by
  intro s
  refine ⟨?stop, does_cpRestart, fun h => congrArg Host.Outcome.next (State.cpRestart_running h), exec_sysWdogKick_key,
    fun m v h => .ofFlagEvent (exec_sysWdogKick_bad h) (by decide) (by decide) (by decide),
    fun v h => .ofFlagEvent (exec_sysResetWrite_noKey h) (by decide) (by decide) (by decide),
    fun v hk hf ha => .ofFlagEvent (exec_sysResetWrite_alarm hk hf ha) (by decide) (by decide) (by decide), fun v => exec_sysResetWrite_taken,
    fun v => does_sysRemapWrite, fun v => exec_sysRemapWrite_idle,
    fun m req h => ⟨does_memDuskWrite_taken h, does_memDuskWrite_refused h⟩, fun m req => does_memDuskWrite_locked, does_logFlush s⟩
  case stop =>
    simp only [List.forall_mem_cons, List.not_mem_nil, false_imp_iff, implies_true, and_true]
    exact ⟨⟨does_cpStop rfl, fun h => congrArg Host.Outcome.next (State.cpStop_stopped h _)⟩,
      does_cpStop rfl, fun h => congrArg Host.Outcome.next (State.cpStop_stopped h _)⟩

end Sys2Proof.Machine

/-! ## Margins, loads and the deadline -/

namespace Sys2Proof.Machine

variable {s t : State} {l : List Nat}

/-! ### Margins -/

theorem State.OnlyRegs.toOnlyLogged (h : s.OnlyRegs t l) : s.OnlyLogged t l := by
  obtain ⟨hreg, hrest⟩ := h
  exact ⟨fun a ha => hreg a fun hl => ha (List.mem_append_left _ hl), by rw [hrest]⟩

theorem State.OnlyLogged.withLog (h : s.OnlyLogged t l) (x : LogState) : s.OnlyLogged { t with log := x } l :=
  ⟨h.1, State.rest_trans h.2 rfl⟩

/-- The smallest margin and its unit, where this margin is below the shown one (R46). -/
def State.minMargin (s : State) (unit margin : Nat) : State :=
  if margin < s.rd ENG_MARGIN_MIN.margin then (s.wr ENG_MARGIN_MIN.margin margin).wr ENG_MARGIN_MIN.unit unit else s

/-- The warning of a margin, with its event at most once in a second (R46). -/
def State.warnMargin (s : State) (unit margin : Nat) : State :=
  if margin < s.rd ENG_MARGIN_WARN.warn then
    let s2 := s.set1 ENG_STATUS.margin_low
    let quiet : Bool := match SMap.find s2.log.marginAt unit with
      | some c => decide (since s2.cycle (BitVec.ofNat 32 c - 1) < s2.cyclesOfMs 1000)
      | none => false
    if quiet then s2
    else
      let s3 := s2.event 0x3102 (BitVec.ofNat 32 unit) (BitVec.ofNat 32 margin)
      { s3 with log := { s3.log with marginAt := SMap.insert unit ((s3.cycle + 1).toNat) s3.log.marginAt } }
  else s

theorem State.warnMargin_idle {u m : Nat} (h : s.rd ENG_MARGIN_WARN.warn ≤ m) : s.warnMargin u m = s := if_neg (by omega)

/-- A warning is the flag alone, or the flag with an event whose time is noted in the log. -/
theorem State.warnMargin_cases {u m : Nat} (h : m < s.rd ENG_MARGIN_WARN.warn) :
    s.warnMargin u m = s.set1 ENG_STATUS.margin_low ∨ ∃ x, s.warnMargin u m =
      { (s.set1 ENG_STATUS.margin_low).event 0x3102 (BitVec.ofNat 32 u) (BitVec.ofNat 32 m) with log := x } := by
  unfold State.warnMargin
  rw [if_pos h]
  exact (Decidable.em _).imp (fun hquiet => if_pos hquiet) fun hquiet => ⟨_, if_neg hquiet⟩

theorem State.rd_withLog (s : State) (x : LogState) (f : Fld) : ({ s with log := x } : State).rd f = s.rd f := rfl

theorem State.warnMargin_rd {u m : Nat} (h : m < s.rd ENG_MARGIN_WARN.warn) {f : Fld} (hf : f.addr ∉ logRegs) :
    (s.warnMargin u m).rd f = (s.set1 ENG_STATUS.margin_low).rd f := by
  rcases State.warnMargin_cases (u := u) h with e | ⟨x, e⟩
  · rw [e]
  · rw [e, State.rd_withLog, State.event_rd _ _ _ _ hf]

theorem State.putMargin_eq (s : State) (u m : Nat) : s.putMargin u m = (s.minMargin u m).warnMargin u m := rfl

theorem State.OnlyLogged.minMargin (h : s.OnlyLogged t l) (u m : Nat) (hl : ENG_MARGIN_MIN ∈ l) :
    s.OnlyLogged (t.minMargin u m) l := by
  unfold State.minMargin
  split
  · exact (h.wr (f := ENG_MARGIN_MIN.margin) m hl).wr (f := ENG_MARGIN_MIN.unit) u hl
  · exact h

theorem State.OnlyLogged.warnMargin (h : s.OnlyLogged t l) (u m : Nat) (hl : ENG_STATUS ∈ l) :
    s.OnlyLogged (t.warnMargin u m) l := by
  have hlow : s.OnlyLogged (t.set1 ENG_STATUS.margin_low) l := h.wr (f := ENG_STATUS.margin_low) 1 hl
  by_cases hm : m < t.rd ENG_MARGIN_WARN.warn
  · rcases State.warnMargin_cases (u := u) hm with e | ⟨x, e⟩
    · rwa [e]
    · rw [e]
      exact (hlow.event _ _ _).withLog x
  · rwa [State.warnMargin_idle (by omega)]

theorem State.OnlyLogged.putMargin (h : s.OnlyLogged t l) (u m : Nat) (hmin : ENG_MARGIN_MIN ∈ l)
    (hst : ENG_STATUS ∈ l) : s.OnlyLogged (t.putMargin u m) l := by
  rw [State.putMargin_eq]
  exact (h.minMargin u m hmin).warnMargin u m hst

theorem State.warnMargin_reg (s : State) (u m : Nat) {a : Nat} (hlog : a ∉ logRegs) (hst : a ≠ ENG_STATUS) :
    (s.warnMargin u m).reg a = s.reg a :=
  ((State.OnlyLogged.refl s [ENG_STATUS]).warnMargin u m (by simp)).1 a (by simpa using ⟨hst, hlog⟩)

theorem State.putMargin_lower (s : State) {u m : Nat} (h : m < s.rd ENG_MARGIN_MIN.margin) (hu : u < 2 ^ 6) :
    (s.putMargin u m).rd ENG_MARGIN_MIN.margin = m ∧ (s.putMargin u m).rd ENG_MARGIN_MIN.unit = u := by
  have hm : m < 2 ^ 20 := h.trans (s.rd_lt ENG_MARGIN_MIN.margin)
  rw [State.putMargin_eq]
  unfold State.rd
  rw [State.warnMargin_reg _ u m (by decide) (by decide)]
  unfold State.minMargin
  rw [if_pos h]
  constructor
  · exact (State.rd_wr_apart _ (f := ENG_MARGIN_MIN.unit) (g := ENG_MARGIN_MIN.margin) u (by decide) (by decide)).trans
      ((State.rd_wr_same s ENG_MARGIN_MIN.margin m (by decide)).trans (Nat.mod_eq_of_lt hm))
  · exact (State.rd_wr_same _ ENG_MARGIN_MIN.unit u (by decide)).trans (Nat.mod_eq_of_lt hu)

theorem State.putMargin_higher (s : State) {u m : Nat} (h : s.rd ENG_MARGIN_MIN.margin ≤ m) :
    (s.putMargin u m).reg ENG_MARGIN_MIN = s.reg ENG_MARGIN_MIN := by
  rw [State.putMargin_eq, State.warnMargin_reg _ u m (by decide) (by decide)]
  unfold State.minMargin
  rw [if_neg (by omega)]

theorem State.putMargin_low (s : State) {u m : Nat} (h : m < s.rd ENG_MARGIN_WARN.warn) :
    (s.putMargin u m).isSet ENG_STATUS.margin_low = true := by
  have hwarn : (s.minMargin u m).rd ENG_MARGIN_WARN.warn = s.rd ENG_MARGIN_WARN.warn := by
    unfold State.rd
    rw [((State.OnlyLogged.refl s [ENG_MARGIN_MIN]).minMargin u m (by simp)).1 ENG_MARGIN_WARN (by decide)]
  rw [State.putMargin_eq]
  unfold State.isSet
  rw [State.warnMargin_rd (hwarn ▸ h) (by decide)]
  exact State.isSet_set1 _ ENG_STATUS.margin_low (by decide) (by decide)

/-- A margin sets no flag but its own. -/
theorem State.putMargin_overrun (s : State) (u m : Nat) : (s.putMargin u m).isSet ENG_STATUS.overrun = s.isSet ENG_STATUS.overrun := by
  have hlow (v : State) : (v.warnMargin u m).rd ENG_STATUS.overrun = v.rd ENG_STATUS.overrun := by
    by_cases hm : m < v.rd ENG_MARGIN_WARN.warn
    · rw [State.warnMargin_rd hm (by decide)]
      exact State.rd_wr_apart v (f := ENG_STATUS.margin_low) 1 (by decide) (by decide)
    · rw [State.warnMargin_idle (by omega)]
  unfold State.isSet
  rw [State.putMargin_eq, hlow]
  unfold State.rd
  rw [((State.OnlyLogged.refl s [ENG_MARGIN_MIN]).minMargin u m (by simp)).1 ENG_STATUS (by decide)]

/-! ### Loads -/

theorem CLU_CORE_LOAD_block {u : Nat} (h : u < 32) : CLU_CORE_LOAD (u / 8) (u % 8) / 0x10000 = 0x4030 := by
  unfold CLU_CORE_LOAD
  omega

theorem State.putLoad_onlyRegs (s : State) (u time : Nat) : s.OnlyRegs (s.putLoad u time) [CLU_CORE_LOAD (u / 8) (u % 8)] := by
  unfold State.putLoad
  dsimp only
  split
  · exact (State.OnlyRegs.refl s _).wr (f := CLU_CORE_LOAD.cycles (u / 8) (u % 8)) _ (List.mem_singleton_self _)
  · exact .refl s _

theorem State.putLoad_cycles (s : State) (u time : Nat) : (s.putLoad u time).rd (CLU_CORE_LOAD.cycles (u / 8) (u % 8)) =
    max (s.rd (CLU_CORE_LOAD.cycles (u / 8) (u % 8))) (min (time - 192 * s.blk) 0xFFFFF) := by
  unfold State.putLoad State.windowCycles
  dsimp only
  split
  · rw [State.rd_wr_same s (CLU_CORE_LOAD.cycles (u / 8) (u % 8)) _ (by simp)]
    show min _ 0xFFFFF % 2 ^ 20 = _
    omega
  · omega

/-! ### Completion -/

/-- The state with a unit's completion and its core's load recorded, before the margin. -/
def State.signalled (s : State) (unit time : Nat) : State :=
  let s1 := s.mapEng (fun e => { e with doneUnits := unit :: e.doneUnits })
  if unit < 32 then s1.putLoad unit time else s1

theorem exec_stripCompletion_first {unit : Fin 33} {time : Nat} (hr : s.engineRuns = true) (h : unit.val ∉ s.eng.doneUnits) :
    exec (.stripCompletion unit time) s =
      .next ((s.signalled unit.val time).putMargin unit.val (s.rd ENG_CT.ct - 2000 - time)) :=
  congrArg Host.Outcome.next (if_neg (by simpa [hr] using h))

theorem exec_stripCompletion_again {unit : Fin 33} {time : Nat} (h : unit.val ∈ s.eng.doneUnits) :
    exec (.stripCompletion unit time) s = .next s :=
  congrArg Host.Outcome.next (if_pos (by simpa using .inr h))

theorem State.signalled_eng (s : State) (u time : Nat) : (s.signalled u time).eng = { s.eng with doneUnits := u :: s.eng.doneUnits } := by
  unfold State.signalled
  dsimp only
  split
  · rw [(State.putLoad_onlyRegs _ u time).2]
    rfl
  · rfl

theorem State.signalled_mem (s : State) (u time : Nat) : (s.signalled u time).mem = s.mem := by
  unfold State.signalled
  dsimp only
  split
  · rw [(State.putLoad_onlyRegs _ u time).2]
    rfl
  · rfl

/-- Recording a completion touches registers of the cores' block alone. -/
theorem State.signalled_reg (s : State) {u a : Nat} (time : Nat) (ha : a / 0x10000 ≠ 0x4030) : (s.signalled u time).reg a = s.reg a := by
  unfold State.signalled
  dsimp only
  split
  · next hu => exact (State.putLoad_onlyRegs _ u time).1 a (by rintro (_ | ⟨_, ⟨⟩⟩); exact ha (CLU_CORE_LOAD_block hu))
  · rfl

theorem State.signalled_rd (s : State) {u : Nat} {f : Fld} (time : Nat) (hf : f.addr / 0x10000 ≠ 0x4030) :
    (s.signalled u time).rd f = s.rd f := by
  unfold State.rd
  rw [State.signalled_reg s time hf]

theorem does_stripCompletion {unit : Fin 33} {time : Nat} (hr : s.engineRuns = true) (h : unit.val ∉ s.eng.doneUnits) :
    Does (.stripCompletion unit time) s fun t =>
      let margin := s.rd ENG_CT.ct - 2000 - time
      t.eng = { s.eng with doneUnits := unit.val :: s.eng.doneUnits } ∧ s.SameBytes t ∧
        (margin < s.rd ENG_MARGIN_MIN.margin → t.rd ENG_MARGIN_MIN.margin = margin ∧ t.rd ENG_MARGIN_MIN.unit = unit.val) ∧
        (s.rd ENG_MARGIN_MIN.margin ≤ margin → t.reg ENG_MARGIN_MIN = s.reg ENG_MARGIN_MIN) ∧
        (margin < s.rd ENG_MARGIN_WARN.warn → t.isSet ENG_STATUS.margin_low = true) ∧
        (unit.val < 32 → t.rd (CLU_CORE_LOAD.cycles (unit.val / 8) (unit.val % 8))
          = max (s.rd (CLU_CORE_LOAD.cycles (unit.val / 8) (unit.val % 8))) (min (time - 192 * s.blk) 0xFFFFF)) := by
  have honly := (State.OnlyLogged.refl (s.signalled unit.val time) [ENG_MARGIN_MIN, ENG_STATUS]).putMargin unit.val
    (s.rd ENG_CT.ct - 2000 - time) (by simp) (by simp)
  refine ⟨_, exec_stripCompletion_first hr h, ?eng, ?bytes, ?lower, ?higher, ?low, ?load⟩
  case eng =>
    rw [honly.2]
    exact s.signalled_eng _ _
  case bytes =>
    intro a
    unfold State.byte
    rw [honly.2]
    exact congrArg (SMap.get memDefault · a) (s.signalled_mem _ _)
  case lower =>
    intro hm
    exact State.putMargin_lower _ (by rwa [State.signalled_rd s time (by decide)]) (by omega)
  case higher =>
    intro hm
    rw [State.putMargin_higher _ (by rwa [State.signalled_rd s time (by decide)]), State.signalled_reg s time (by decide)]
  case low =>
    intro hm
    exact State.putMargin_low _ (by rwa [State.signalled_rd s time (by decide)])
  case load =>
    intro hu
    have hblock := CLU_CORE_LOAD_block hu
    have hkeep := honly.1 (CLU_CORE_LOAD (unit.val / 8) (unit.val % 8)) (by
      intro hmem
      rcases List.mem_append.mp hmem with hmem | hmem
      · simp only [List.mem_cons, List.not_mem_nil, or_false, ENG_MARGIN_MIN, ENG_STATUS] at hmem
        omega
      · exact not_mem_logRegs (by omega) hmem)
    refine (congrArg (getFld (CLU_CORE_LOAD.cycles (unit.val / 8) (unit.val % 8))) hkeep).trans ?_
    show (s.signalled unit.val time).rd (CLU_CORE_LOAD.cycles (unit.val / 8) (unit.val % 8)) = _
    unfold State.signalled
    rw [if_pos hu]
    exact State.putLoad_cycles _ _ _

/-! ### Overruns -/

/-- Only registers of the cores' block and of the log may differ. -/
def State.CoreRegs (s t : State) : Prop := ∀ a, a / 0x10000 ≠ 0x4030 → a ∉ logRegs → t.reg a = s.reg a

theorem State.CoreRegs.same {u : State} (h : s.CoreRegs t) (hr : u.regs = t.regs) : s.CoreRegs u :=
  fun a ha hl => (State.reg_of_regs hr a).trans (h a ha hl)

theorem State.CoreRegs.event (h : s.CoreRegs t) (code : Nat) (p q : Word) : s.CoreRegs (t.event code p q) :=
  fun a ha hl => (State.event_reg t code p q hl).trans (h a ha hl)

theorem State.CoreRegs.wr (h : s.CoreRegs t) {f : Fld} (v : Nat) (hf : f.addr / 0x10000 = 0x4030) : s.CoreRegs (t.wr f v) :=
  fun a ha hl => (State.reg_wr_other t v fun e : a = f.addr => ha (e ▸ hf)).trans (h a ha hl)

theorem State.CoreRegs.ite {u : State} {c : Prop} [Decidable c] (h : s.CoreRegs t) (k : s.CoreRegs u) : s.CoreRegs (if c then t else u) := by
  split
  · exact h
  · exact k

theorem State.CoreRegs.forAll {α : Type} {xs : List α} {f : α → State → State} (h : s.CoreRegs t)
    (k : ∀ x u, s.CoreRegs u → s.CoreRegs (f x u)) : s.CoreRegs (forAll xs f t) := by
  induction xs generalizing t with
  | nil => exact h
  | cons x xs ih => exact ih (k x t h)

theorem State.CoreRegs.startTest (h : s.CoreRegs t) (k : TestKind) (res : Nat) : s.CoreRegs (t.startTest k res) := by
  unfold State.startTest
  exact .ite (h.same rfl) (.ite (.ite ((h.event _ _ _).same rfl) ((h.event _ _ _).same rfl)) (h.same rfl))

theorem State.CoreRegs.overrunTests (h : s.CoreRegs t) (k : TestKind) (rs : List Nat) (lasting : Bool) :
    s.CoreRegs (t.overrunTests k rs lasting) :=
  h.forAll fun _ _ hu => .ite ((hu.startTest k _).same rfl) (hu.startTest k _)

theorem State.CoreRegs.initQuadRegion (h : s.CoreRegs t) (d : DispRec) : s.CoreRegs (t.initQuadRegion d) := by
  unfold State.initQuadRegion
  split
  · split
    · exact h.same rfl
    · exact h
  · exact h

/-- An overrun counted and flagged, with the margin 0 recorded (R47). -/
def State.overrunShown (s : State) (u : Nat) (p : Word) : State :=
  (((s.bump ENG_OVERRUN_CNT.count 1).set1 ENG_STATUS.overrun).event 0x3101 (BitVec.ofNat 32 u) p).putMargin u 0

theorem State.overrunShown_flag (s : State) (u : Nat) (p : Word) : (s.overrunShown u p).isSet ENG_STATUS.overrun = true := by
  unfold State.overrunShown
  rw [State.putMargin_overrun]
  unfold State.isSet
  rw [State.event_rd _ _ _ _ (by decide)]
  exact State.isSet_set1 _ ENG_STATUS.overrun (by decide) (by decide)

theorem State.overrunShown_onlyLogged (s : State) (u : Nat) (p : Word) :
    s.OnlyLogged (s.overrunShown u p) [ENG_OVERRUN_CNT, ENG_STATUS, ENG_MARGIN_MIN] :=
  ((((State.OnlyLogged.refl s _).wr (f := ENG_OVERRUN_CNT.count) _ (by simp)).wr (f := ENG_STATUS.overrun) 1 (by simp)).event _ _ _).putMargin
    u 0 (by simp) (by simp)

theorem State.overrunShown_count (s : State) (u : Nat) (p : Word) : (s.overrunShown u p).rd ENG_OVERRUN_CNT.count =
    min (2 ^ ENG_OVERRUN_CNT.count.width - 1) (s.rd ENG_OVERRUN_CNT.count + 1) := by
  have hmargin (v : State) : (v.putMargin u 0).rd ENG_OVERRUN_CNT.count = v.rd ENG_OVERRUN_CNT.count := by
    unfold State.rd
    rw [((State.OnlyLogged.refl v [ENG_MARGIN_MIN, ENG_STATUS]).putMargin u 0 (by simp) (by simp)).1 ENG_OVERRUN_CNT (by decide)]
  unfold State.overrunShown
  rw [hmargin, State.event_rd _ _ _ _ (by decide)]
  refine (State.rd_wr_apart _ (f := ENG_STATUS.overrun) 1 (by decide) (by decide)).trans
    ((State.rd_wr_same s ENG_OVERRUN_CNT.count _ (by decide)).trans ?_)
  exact Nat.mod_eq_of_lt (Nat.lt_of_le_of_lt (Nat.min_le_left _ _) (by decide))

/-- What of a unit is unfinished: the quads of a core, or the columns of the crosspoint. -/
def State.lateItems (s : State) (l : LateUnit) : List Nat :=
  if l.unit.val < 32 then s.lateQuads l.unit.val l.items
  else (List.range 1024).filter (fun m => l.items.any (fun i => i.val = m))

/-- The second parameter of an overrun's event: how many items, and the first of them. -/
def lateWord (u : Nat) (items : List Nat) : Word :=
  let low := match items.head? with
    | some k => if u < 32 then (if k < 256 then k else 512 + k % 256) else k
    | none => 0
  BitVec.ofNat 32 (items.length * 2 ^ 16 + low)

/-- The state regions of quads are reset (R47). -/
def State.resetQuads (s : State) (items : List Nat) : State :=
  forAll items (fun k st => match SMap.find st.img.quads k with
    | some q => st.initQuadRegion q.disp
    | none => st) s

/-- A core's program stops unfinished: its quads deliver zeros and their regions are reset (R47). -/
def State.coreStopped (s : State) (u : Nat) (items : List Nat) : State :=
  let s4 := s.mapEng (fun e => { e with zeroed := e.zeroed ++ items })
  let s5 := s4.resetQuads items
  (s5.setCore u { s5.core u with run := none, loops := [] }).wr ⟨CLU_STATUS (u / 8), 16 + u % 8, 1⟩ 0

/-- What an overrun does once it is shown. -/
def State.overrunRest (s : State) (u : Nat) (items : List Nat) : State :=
  let (s3, third) := s.countOverrun u
  if u < 32 then (s3.coreStopped u items).overrunTests .core [u] third
  else
    let s4 := s3.mapEng (fun e => { e with xptOut := e.xptOut.filter (fun x => !items.contains (x.1 / 32)) })
    s4.overrunTests .lane ((List.range 128).filter (fun i => items.any (fun m => laneOf m = i))) third

theorem State.overrun_eq (s : State) (l : LateUnit) : s.overrun l =
    (s.overrunShown l.unit.val (lateWord l.unit.val (s.lateItems l))).overrunRest l.unit.val (s.lateItems l) := by
  unfold State.overrun
  dsimp only
  rw [← State.lateItems]
  generalize s.lateItems l = items
  unfold State.overrunRest State.coreStopped State.resetQuads State.overrunShown lateWord
  dsimp only <;> rfl

theorem State.CoreRegs.resetQuads (h : s.CoreRegs t) (items : List Nat) : s.CoreRegs (t.resetQuads items) := by
  refine h.forAll fun k u hu => ?_
  split
  · exact hu.initQuadRegion _
  · exact hu

theorem State.CoreRegs.coreStopped (h : s.CoreRegs t) {u : Nat} (hu : u < 32) (items : List Nat) : s.CoreRegs (t.coreStopped u items) := by
  have hquads : s.CoreRegs ((t.mapEng fun e => { e with zeroed := e.zeroed ++ items }).resetQuads items) :=
    State.CoreRegs.resetQuads (h.same (by rfl)) items
  refine State.CoreRegs.wr (f := ⟨CLU_STATUS (u / 8), 16 + u % 8, 1⟩) (hquads.same rfl) 0 ?_
  show CLU_STATUS (u / 8) / 0x10000 = 0x4030
  unfold CLU_STATUS
  omega

/-- Once the overrun is shown, only registers of the cores and of the log change. -/
theorem State.overrunRest_coreRegs (s : State) (u : Nat) (items : List Nat) : s.CoreRegs (s.overrunRest u items) := by
  have hcount : s.CoreRegs (s.countOverrun u).1 := fun _ _ _ => rfl
  unfold State.overrunRest
  dsimp only
  split
  · next hu => exact (hcount.coreStopped hu items).overrunTests _ _ _
  · exact (hcount.same (by rfl)).overrunTests _ _ _

/-! ### The deadline -/

theorem State.wispGuard_off (fails : List (Fin 6)) (h : s.rd MEM_WISP_CFG.enable = 0) : s.wispGuard fails = s :=
  List.foldl_fixed' (fun m => if_neg (by simp [h])) _

theorem exec_engineDeadline {late : List LateUnit} (hr : s.engineRuns = true) (ht : s.tickStopped = false) :
    exec (.engineDeadline late []) s = .next
      ((forAll (late.filter (fun u => !s.eng.doneUnits.contains u.unit.val)) (fun u st => st.overrun u) s).wispGuard []) :=
  congrArg Host.Outcome.next (if_neg (by simp [hr, ht]))

theorem does_engineDeadline (lu : LateUnit) (hr : s.engineRuns = true) (ht : s.tickStopped = false)
    (hu : lu.unit.val ∉ s.eng.doneUnits) (hw : s.rd MEM_WISP_CFG.enable = 0) : Does (.engineDeadline [lu] []) s fun t =>
      t.isSet ENG_STATUS.overrun = true ∧
        t.rd ENG_OVERRUN_CNT.count = min (2 ^ ENG_OVERRUN_CNT.count.width - 1) (s.rd ENG_OVERRUN_CNT.count + 1) := by
  obtain ⟨p, hcore⟩ : ∃ p, (s.overrunShown lu.unit.val p).CoreRegs (s.overrun lu) :=
    ⟨_, s.overrun_eq lu ▸ State.overrunRest_coreRegs _ _ _⟩
  have hrd (f : Fld) (hf : f.addr / 0x10000 ≠ 0x4030) (hl : f.addr ∉ logRegs) :
      (s.overrun lu).rd f = (s.overrunShown lu.unit.val p).rd f := by
    unfold State.rd
    rw [hcore f.addr hf hl]
  have hoff : (s.overrun lu).rd MEM_WISP_CFG.enable = 0 := by
    rw [hrd _ (by decide) (by decide)]
    unfold State.rd
    rw [(s.overrunShown_onlyLogged lu.unit.val p).1 MEM_WISP_CFG (by decide)]
    exact hw
  have hexec : exec (.engineDeadline [lu] []) s = .next (s.overrun lu) := by
    rw [exec_engineDeadline hr ht, List.filter_cons_of_pos (by simpa using hu)]
    exact congrArg Host.Outcome.next (State.wispGuard_off [] hoff)
  refine ⟨_, hexec, ?_, ?_⟩
  · unfold State.isSet
    rw [hrd _ (by decide) (by decide)]
    exact s.overrunShown_flag _ _
  · rw [hrd _ (by decide) (by decide)]
    exact s.overrunShown_count _ _

theorem exec_engineDeadline_allDone {late : List LateUnit} (hr : s.engineRuns = true) (ht : s.tickStopped = false)
    (hd : ∀ u ∈ late, u.unit.val ∈ s.eng.doneUnits) (hw : s.rd MEM_WISP_CFG.enable = 0) :
    exec (.engineDeadline late []) s = .next s := by
  rw [exec_engineDeadline hr ht, List.filter_eq_nil_iff.mpr fun u hu => by simpa using hd u hu]
  exact congrArg Host.Outcome.next (State.wispGuard_off [] hw)

/-- Settles O23: a completion records its load and then its margin; at the deadline only the late units change anything. -/
theorem marginsAndDeadline : Obligations.MarginsAndDeadline := fun _ hr =>
  ⟨fun _ _ h => does_stripCompletion hr h, fun _ _ h => exec_stripCompletion_again h, fun l ht hu hw => does_engineDeadline l hr ht hu hw,
    fun _ ht hd hw => exec_engineDeadline_allDone hr ht hd hw⟩

end Sys2Proof.Machine

/-! ## Players -/

namespace Sys2Proof.Machine

variable {s : State} {p : Nat} {r : PlayRun}

/-! ### Completions leave the message unit alone -/

theorem State.ite_msg {c : Prop} [Decidable c] {t u : State} (ht : t.msg = s.msg) (hu : u.msg = s.msg) :
    (if c then t else u).msg = s.msg := by
  split
  · exact ht
  · exact hu

theorem State.answer_msg (s : State) (c : Cmd) (st d : Nat) (a : Word) (bs : List Byte) : (s.answer c st d a bs).msg = s.msg := by
  unfold State.answer
  split
  · unfold State.writeEntry
    rw [State.wrapInc_msg, State.setMemWords_msg]
    exact State.ite_msg rfl rfl
  · unfold State.mgmtEntry State.sendMgmt
    exact State.ite_msg (s := s) (t := State.setBytes _ _ _) rfl rfl
  · rfl
  · rfl

theorem State.complete_msg (s : State) (c : Cmd) (st d : Nat) (a : Word) (bs : List Byte) : (s.complete c st d a bs).msg = s.msg := by
  unfold State.complete
  split
  · exact (State.wr_msg _ _ _).trans (s.answer_msg c st d a bs)
  · exact s.answer_msg c st d a bs
  · exact s.answer_msg c st d a bs
  · exact s.answer_msg c st d a bs

theorem State.pendSync_msg (s : State) : s.pendSync.msg = s.msg := State.ite_msg rfl rfl

theorem State.releaseAborts_msg (s : State) (c : CmdRef) : (s.releaseAborts c).msg = s.msg := by
  have hall (l : List AbortReq) (t : State) : (forAll l (fun a st => st.complete a.cmd stNotPending 0 st.cycle []) t).msg = t.msg := by
    induction l generalizing t with
    | nil => rfl
    | cons a l ih => exact (ih _).trans (State.complete_msg _ _ _ _ _ _)
  exact hall _ _

theorem State.finish_msg (s : State) (c : CmdRef) (st d : Nat) (bs : List Byte) : (s.finish c st d bs).msg = s.msg := by
  unfold State.finish
  split
  · rfl
  · rw [State.releaseAborts_msg, State.pendSync_msg, State.complete_msg]
    rfl

/-! ### A player's part -/

theorem State.player_setPlayer_same (s : State) (p : Nat) (x : Player) : (s.setPlayer p x).player p = x := SMap.get_set_same _ _ _ _

theorem State.player_setPlayer_other (s : State) {p q : Nat} (x : Player) (h : q ≠ p) : (s.setPlayer p x).player q = s.player q :=
  SMap.get_set_other _ _ _ _ _ h

theorem State.player_of_msg {t : State} (h : t.msg = s.msg) (q : Nat) : t.player q = s.player q := by
  unfold State.player
  rw [h]

/-- Showing a player writes registers alone. -/
theorem State.playSync_part {α : Type} {g : State → α} (hg : ∀ t a v, g (t.setReg a v) = g t) (s : State) (p : Nat) :
    g (s.playSync p) = g s := by
  have wr (x : State) (f : Fld) (v : Nat) : g (x.wr f v) = g x := hg _ _ _
  unfold State.playSync State.wrB
  dsimp only
  split
  · rw [wr, wr, wr, wr, wr, wr, wr, wr, wr]
  · rw [wr, wr, wr, wr, wr, wr, wr, wr, wr]

theorem State.playSync_msg (s : State) (p : Nat) : (s.playSync p).msg = s.msg := State.playSync_part (fun _ _ _ => rfl) s p

theorem State.playSync_coef (s : State) (p : Nat) : (s.playSync p).coef = s.coef := State.playSync_part (fun _ _ _ => rfl) s p

theorem State.playOver_goes (hr : (s.player p).run = some r) (hseg : r.seg ≠ .overs) : s.playOver p = s := by
  unfold State.playOver
  dsimp only
  rw [hr]
  exact if_neg hseg

/-- A chain that is over leaves its player IDLE. -/
theorem State.playOver_over (hr : (s.player p).run = some r) (hseg : r.seg = .overs) :
    ((s.playOver p).player p).run = none ∧ (∀ q, q ≠ p → (s.playOver p).player q = s.player q) ∧ (s.playOver p).coef = s.coef := by
  have hout : ∃ t : State, s.playOver p = t.playSync p ∧ t.msg = (s.setPlayer p { s.player p with run := none }).msg ∧ t.coef = s.coef := by
    unfold State.playOver
    dsimp only
    rw [hr]
    refine ⟨_, if_pos hseg, ?_, ?_⟩
    · split
      · exact State.finish_msg _ _ _ _ _
      · rfl
    · split
      · exact (State.UnitsStay.finish (.refl (s.setPlayer p { s.player p with run := none }))).coef
      · rfl
  obtain ⟨t, hover, hmsg, hcoef⟩ := hout
  have hplayer (q : Nat) : (s.playOver p).player q = (s.setPlayer p { s.player p with run := none }).player q := by
    rw [hover, State.player_of_msg (State.playSync_msg t p), State.player_of_msg hmsg]
  refine ⟨?_, fun q hq => ?_, ?_⟩
  · rw [hplayer, State.player_setPlayer_same]
  · rw [hplayer, State.player_setPlayer_other s _ hq]
  · rw [hover, State.playSync_coef, hcoef]

/-! ### Advances -/

/-- An advance of a chain changes the state only to report a step that names no message. -/
theorem State.playAdvance_state (s : State) (p : Nat) (r : PlayRun) : (s.playAdvance p r).1 = s ∨
    ∃ k v w, (s.playAdvance p r).1 = (s.set1 (MSG_STATE.step_bad p)).event k v w := by
  unfold State.playAdvance
  dsimp only
  split
  · exact .inl rfl
  · exact .inl rfl
  · exact .inl (by split_ifs <;> rfl)
  · exact .inl rfl
  · split_ifs
    · exact .inl rfl
    · split
      · exact .inl rfl
      · dsimp only
        exact .inr ⟨_, _, _, rfl⟩
    all_goals exact .inl rfl

/-- An advance keeps the run's chain, its class and its beginning. -/
theorem State.playAdvance_run (s : State) (p : Nat) (r : PlayRun) : (s.playAdvance p r).2.chain = r.chain ∧
    (s.playAdvance p r).2.cls = r.cls ∧ (s.playAdvance p r).2.begun = r.begun := by
  unfold State.playAdvance
  dsimp only
  split
  · exact ⟨rfl, rfl, rfl⟩
  · exact ⟨rfl, rfl, rfl⟩
  · split
    · exact ⟨rfl, rfl, rfl⟩
    · split
      · exact ⟨rfl, rfl, rfl⟩
      · exact ⟨rfl, rfl, rfl⟩
  · exact ⟨rfl, rfl, rfl⟩
  · split
    · exact ⟨rfl, rfl, rfl⟩
    · split
      · split
        · exact ⟨rfl, rfl, rfl⟩
        · exact ⟨rfl, rfl, rfl⟩
      · split
        · exact ⟨rfl, rfl, rfl⟩
        · split
          · split
            · exact ⟨rfl, rfl, rfl⟩
            · exact ⟨rfl, rfl, rfl⟩
          · exact ⟨rfl, rfl, rfl⟩

theorem State.playAdvance_frame (s : State) (p : Nat) (r : PlayRun) :
    (s.playAdvance p r).1.msg = s.msg ∧ (s.playAdvance p r).1.coef = s.coef := by
  obtain hsame | ⟨k, v, w, hevent⟩ := s.playAdvance_state p r
  · rw [hsame]
    exact ⟨rfl, rfl⟩
  · rw [hevent, State.event_msg, State.event_coef, State.set1_msg, State.set1_coef]
    exact ⟨rfl, rfl⟩

theorem State.playSettle_stays {n : Nat} (h : 0 < r.left) : s.playSettle p n r = (s, r) := by
  cases n with
  | zero => rfl
  | succ n => exact if_pos (by simp [h])

theorem State.playSettle_frame (s : State) (p n : Nat) (r : PlayRun) : (s.playSettle p n r).1.msg = s.msg ∧
    (s.playSettle p n r).1.coef = s.coef ∧ (s.playSettle p n r).2.chain = r.chain ∧ (s.playSettle p n r).2.cls = r.cls ∧
    (s.playSettle p n r).2.begun = r.begun := by
  induction n generalizing s r with
  | zero => exact ⟨rfl, rfl, rfl, rfl, rfl⟩
  | succ n ih =>
    unfold State.playSettle
    split
    · exact ⟨rfl, rfl, rfl, rfl, rfl⟩
    · obtain ⟨hmsg, hcoef⟩ := s.playAdvance_frame p r
      obtain ⟨hchain, hcls, hbegun⟩ := s.playAdvance_run p r
      obtain ⟨imsg, icoef, ichain, icls, ibegun⟩ := ih (s.playAdvance p r).1 (s.playAdvance p r).2
      exact ⟨imsg.trans hmsg, icoef.trans hcoef, ichain.trans hchain, icls.trans hcls, ibegun.trans hbegun⟩

theorem State.rd_bump_same (s : State) (f : Fld) (k : Nat) (h : f.lo + f.width ≤ 32) :
    (s.bump f k).rd f = min (2 ^ f.width - 1) (s.rd f + k) := by
  have hpos : 0 < 2 ^ f.width := Nat.two_pow_pos _
  unfold State.bump bumpTo
  rw [State.rd_wr_same s f _ h, Nat.mod_eq_of_lt (by omega)]

/-! ### The first sample -/

/-- The run of a player as its first sample falls due. -/
def PlayRun.begin (r : PlayRun) : PlayRun := { r with begun := true }

/-- The state with the run advanced to its first samples. -/
def State.playEntered (s : State) (p : Nat) (r : PlayRun) : State :=
  let x := s.playSettle p 64 r.begin
  (x.1.setPlayer p { s.player p with run := some x.2 }).playSync p

theorem State.playFirst_eq (hr : (s.player p).run = some r) : s.playFirst p = (s.playEntered p r).playOver p := by
  unfold State.playFirst State.playEntered PlayRun.begin
  dsimp only
  rw [hr]

theorem State.playEntered_player (s : State) (p q : Nat) (r : PlayRun) : (s.playEntered p r).player q =
    if q = p then { s.player p with run := some (s.playSettle p 64 r.begin).2 } else s.player q := by
  obtain ⟨hmsg, -⟩ := s.playSettle_frame p 64 r.begin
  unfold State.playEntered
  rw [State.player_of_msg (State.playSync_msg _ p)]
  split
  · next h => rw [h, State.player_setPlayer_same]
  · next h => rw [State.player_setPlayer_other _ _ h, State.player_of_msg hmsg]

theorem State.playEntered_coef (s : State) (p : Nat) (r : PlayRun) : (s.playEntered p r).coef = s.coef :=
  (State.playSync_coef _ p).trans (s.playSettle_frame p 64 r.begin).2.1

/-- A play step whose message can be played is entered at once. -/
theorem State.playSettle_enter {m : Nat} (hseg : r.seg = .enter) (hleft : r.left = 0) (hstep : r.step < 16)
    (hkind : (s.chainStep r.chain r.step).kind = 1) (hm : s.msgToPlay (s.chainStep r.chain r.step).arg = some m) (hlen : 0 < s.playLen m)
    (n : Nat) : s.playSettle p (n + 1) r =
      (s, { r with seg := .play, msg := m, left := s.playLen m, pos := 0, plays := (s.chainStep r.chain r.step).rep }) := by
  have hadv : s.playAdvance p r =
      (s, { r with seg := .play, msg := m, left := s.playLen m, pos := 0, plays := (s.chainStep r.chain r.step).rep }) := by
    unfold State.playAdvance
    simp only [hseg, hkind, hm, ge_iff_le, Nat.not_le.mpr hstep, if_false, if_true]
  have hgo : s.playSettle p (n + 1) r = (s.playAdvance p r).1.playSettle p n (s.playAdvance p r).2 := by
    refine if_neg ?_
    rw [hseg, hleft]
    decide
  rw [hgo, hadv]
  exact State.playSettle_stays hlen

theorem State.playFirstDue_eq (hr : (s.player p).run = some r) (a : Word) : s.playFirstDue p a = (!r.begun && !later32 r.firstAt a) := by
  unfold State.playFirstDue
  rw [hr]

theorem exec_playerFirstSample_due {p : Fin 64} (h : s.playFirstDue p.val (s.cycle + 1) = true) :
    exec (.playerFirstSample p) s = .next (s.playFirst p.val) := congrArg Host.Outcome.next (if_pos h)

theorem exec_playerFirstSample_idle {p : Fin 64} (h : s.playFirstDue p.val (s.cycle + 1) = false) :
    exec (.playerFirstSample p) s = .next s := congrArg Host.Outcome.next (if_neg (by rw [h]; decide))

theorem does_playerFirstSample {p : Fin 64} (hr : (s.player p.val).run = some r) (hb : r.begun = false)
    (hd : later32 r.firstAt (s.cycle + 1) = false) : Does (.playerFirstSample p) s fun t =>
      (∀ q, q ≠ p.val → t.player q = s.player q) ∧
        ((t.player p.val).run = none ∨ ∃ u, (t.player p.val).run = some u ∧ u.begun = true ∧ u.chain = r.chain ∧ u.cls = r.cls) ∧
        (∀ m, r.seg = .enter → r.left = 0 → r.step < 16 → (s.chainStep r.chain r.step).kind = 1 →
          s.msgToPlay (s.chainStep r.chain r.step).arg = some m → 0 < s.playLen m →
          t.player p.val = { s.player p.val with run := some { r with
            begun := true, seg := .play, msg := m, left := s.playLen m, pos := 0, plays := (s.chainStep r.chain r.step).rep } }) ∧
        s.SameCoefs t := by
  obtain ⟨-, -, hchain, hcls, hbegun⟩ := s.playSettle_frame p.val 64 r.begin
  have hself := s.playEntered_player p.val p.val r
  rw [if_pos rfl] at hself
  have hother (q : Nat) (hq : q ≠ p.val) : (s.playEntered p.val r).player q = s.player q := by
    rw [State.playEntered_player, if_neg hq]
  have hrun := congrArg Player.run hself
  refine ⟨s.playFirst p.val, exec_playerFirstSample_due (by rw [State.playFirstDue_eq hr, hb, hd]; rfl), ?_⟩
  rw [State.playFirst_eq hr]
  by_cases hover : (s.playSettle p.val 64 r.begin).2.seg = .overs
  · obtain ⟨hnone, hrest, hcoef⟩ := State.playOver_over hrun hover
    refine ⟨fun q hq => (hrest q hq).trans (hother q hq), .inl hnone, ?_, hcoef.trans (s.playEntered_coef _ r)⟩
    intro m hseg hleft hstep hkind hm hlen
    rw [State.playSettle_enter (r := r.begin) hseg hleft hstep hkind hm hlen 63] at hover
    exact nomatch (hover : PlaySeg.play = PlaySeg.overs)
  · rw [State.playOver_goes hrun hover]
    refine ⟨hother, .inr ⟨_, hrun, hbegun, hchain, hcls⟩, ?_, s.playEntered_coef _ r⟩
    intro m hseg hleft hstep hkind hm hlen
    rw [hself, State.playSettle_enter (r := r.begin) hseg hleft hstep hkind hm hlen 63]
    rfl

/-! ### The end of a segment -/

theorem State.msgSample_free (s : State) (m pos : Nat) : ∃ x w, s.msgSample m pos = ({ s with free := x }, w) := by
  unfold State.msgSample
  split
  · exact ⟨_, _, rfl⟩
  · exact ⟨s.free, _, rfl⟩

/-- A sample of a segment with samples left: the next of the play, or a zero. -/
theorem State.playGen_succ (n : Nat) (acc : List Word) (hleft : 0 < r.left) : s.playGen p (n + 1) r acc =
    if r.seg = .play then
      State.playGen (s.msgSample r.msg r.pos).1 p n { r with left := r.left - 1, pos := r.pos + 1 } (acc ++ [(s.msgSample r.msg r.pos).2])
    else s.playGen p n { r with left := r.left - 1 } (acc ++ [0]) := by
  rw [State.playGen, State.playSettle_stays hleft]
  dsimp only
  rw [if_neg (by omega)]
  by_cases hseg : r.seg = .play
  · rw [if_pos hseg, if_pos hseg, if_pos hseg]
  · rw [if_neg hseg, if_neg hseg, if_neg hseg]

/-- The samples of a play: the chain stays on it and its position moves by as many. -/
theorem State.playGen_play {n : Nat} (acc : List Word) (hseg : r.seg = .play) (hn : n ≤ r.left) : ∃ x ws,
    s.playGen p n r acc = ({ s with free := x }, { r with left := r.left - n, pos := r.pos + n }, acc ++ ws) ∧ ws.length = n := by
  induction n generalizing s r acc with
  | zero => exact ⟨s.free, [], by rw [List.append_nil]; rfl, rfl⟩
  | succ n ih =>
    obtain ⟨x, w, hsample⟩ := s.msgSample_free r.msg r.pos
    obtain ⟨y, ws, hrest, hlen⟩ := ih (s := { s with free := x }) (r := { r with left := r.left - 1, pos := r.pos + 1 }) (acc ++ [w]) hseg
      (by show n ≤ r.left - 1; omega)
    refine ⟨y, w :: ws, ?_, by rw [List.length_cons, hlen]⟩
    have hstep : s.playGen p (n + 1) r acc =
        State.playGen { s with free := x } p n { r with left := r.left - 1, pos := r.pos + 1 } (acc ++ [w]) := by
      rw [State.playGen_succ n acc (by omega), if_pos hseg, hsample]
    rw [hstep, hrest, List.append_assoc]
    have hleft : r.left - 1 - n = r.left - (n + 1) := by omega
    have hpos : r.pos + 1 + n = r.pos + (n + 1) := by omega
    dsimp only
    rw [hleft, hpos]
    rfl

/-- The samples of a silence are zeros. -/
theorem State.playGen_silence {n : Nat} (acc : List Word) (hseg : r.seg = .silence) (hn : n ≤ r.left) :
    s.playGen p n r acc = (s, { r with left := r.left - n }, acc ++ List.replicate n 0) := by
  induction n generalizing r acc with
  | zero => rw [List.replicate_zero, List.append_nil]; rfl
  | succ n ih =>
    have hplay : ¬ r.seg = .play := by rw [hseg]; decide
    have hstep : s.playGen p (n + 1) r acc = s.playGen p n { r with left := r.left - 1 } (acc ++ [0]) := by
      rw [State.playGen_succ n acc (by omega), if_neg hplay]
    rw [hstep, ih (r := { r with left := r.left - 1 }) _ hseg (by show n ≤ r.left - 1; omega), List.append_assoc, List.replicate_succ]
    have hleft : r.left - 1 - n = r.left - (n + 1) := by omega
    dsimp only
    rw [hleft]
    rfl

/-- The state with a segment's last samples delivered and the chain moved on, before the player may become IDLE. -/
def State.segmentEnded (s : State) (p : Nat) (r : PlayRun) : State :=
  let x := s.player p
  let (s1, r1, ws) := s.playGen p r.left r x.part
  let (s2, r2) := s1.playAdvance p r1
  s2.setPlayer p { x with run := some r2, part := ws }

theorem State.OnlyLogged.bump {t : State} {l : List Nat} (h : s.OnlyLogged t l) (f : Fld) (k : Nat) (hf : f.addr ∈ l) :
    s.OnlyLogged (t.bump f k) l := h.wr _ hf

/-- Beside the player that changed, the state keeps what a change of its registers leaves. -/
theorem State.OnlyLogged.of_setPlayer {t : State} {l : List Nat} {x : Player} (h : (s.setPlayer p x).OnlyLogged t l) :
    s.OnlyLogged { t with msg := s.msg } l := by
  obtain ⟨hreg, hrest⟩ := h
  exact ⟨hreg, congrArg (fun u : State => { u with msg := s.msg }) hrest⟩

section

variable {p : Fin 64} (hr : (s.player p.val).run = some r)
include hr

theorem exec_chainStepAdvance_due (hlive : r.live s.cycle = true) (hs : (s.player p.val).starved = false)
    (he : (s.player p.val).ending = none) (hn : r.left ≤ s.blk - (s.player p.val).part.length) :
    exec (.chainStepAdvance p) s = .next ((s.segmentEnded p.val r).playOver p.val) := by
  show execChainStepAdvance p s = _
  unfold execChainStepAdvance
  dsimp only
  rw [hr]
  exact if_pos (by simp [hlive, hs, he, hn])

theorem does_chainStepAdvance_play (hlive : r.live s.cycle = true) (hs : (s.player p.val).starved = false)
    (he : (s.player p.val).ending = none) (hn : r.left ≤ s.blk - (s.player p.val).part.length) (hseg : r.seg = .play) :
    Does (.chainStepAdvance p) s fun t =>
      (t.player p.val).run = some { r with seg := .gap, left := s.msSamples (s.chainStep r.chain r.step).gap, pos := r.pos + r.left } ∧
        (t.player p.val).part.length = (s.player p.val).part.length + r.left ∧ (∀ q, q ≠ p.val → t.player q = s.player q) ∧
        t = { s with msg := { s.msg with players := t.msg.players }, free := t.free } := by
  obtain ⟨x, ws, hgen, hlen⟩ := State.playGen_play (s := s) (p := p.val) (s.player p.val).part hseg (Nat.le_refl r.left)
  have hended : s.segmentEnded p.val r = State.setPlayer { s with free := x } p.val { s.player p.val with
      run := some { r with seg := .gap, left := s.msSamples (s.chainStep r.chain r.step).gap, pos := r.pos + r.left }
      part := (s.player p.val).part ++ ws } := by
    unfold State.segmentEnded
    dsimp only
    rw [hgen]
    dsimp only
    unfold State.playAdvance
    dsimp only
    rw [hseg]
    rfl
  have hplayer := State.player_setPlayer_same ({ s with free := x }) p.val { s.player p.val with
      run := some { r with seg := .gap, left := s.msSamples (s.chainStep r.chain r.step).gap, pos := r.pos + r.left }
      part := (s.player p.val).part ++ ws }
  rw [← hended] at hplayer
  refine ⟨_, (exec_chainStepAdvance_due hr hlive hs he hn).trans (congrArg _ (State.playOver_goes (congrArg Player.run hplayer) nofun)),
    congrArg Player.run hplayer, ?_, fun q hq => ?_, by rw [hended]; rfl⟩
  · rw [hplayer, List.length_append, hlen]
  · rw [hended]
    exact State.player_setPlayer_other _ _ hq

theorem does_chainStepAdvance_silence (hlive : r.live s.cycle = true) (hs : (s.player p.val).starved = false)
    (he : (s.player p.val).ending = none) (hn : r.left ≤ s.blk - (s.player p.val).part.length) (hseg : r.seg = .silence) :
    Does (.chainStepAdvance p) s fun t =>
      t.player p.val = { s.player p.val with
        run := some { r with step := r.step + 1, seg := .enter, left := 0 }
        part := (s.player p.val).part ++ List.replicate r.left 0 } ∧ (∀ q, q ≠ p.val → t.player q = s.player q) ∧
        t = { s with msg := { s.msg with players := t.msg.players } } := by
  have hended : s.segmentEnded p.val r = s.setPlayer p.val { s.player p.val with
      run := some { r with step := r.step + 1, seg := .enter, left := 0 }
      part := (s.player p.val).part ++ List.replicate r.left 0 } := by
    unfold State.segmentEnded
    dsimp only
    rw [State.playGen_silence _ hseg (Nat.le_refl r.left)]
    dsimp only
    unfold State.playAdvance
    dsimp only
    rw [hseg]
  have hplayer := State.player_setPlayer_same s p.val { s.player p.val with
      run := some { r with step := r.step + 1, seg := .enter, left := 0 }
      part := (s.player p.val).part ++ List.replicate r.left 0 }
  rw [← hended] at hplayer
  refine ⟨_, (exec_chainStepAdvance_due hr hlive hs he hn).trans (congrArg _ (State.playOver_goes (congrArg Player.run hplayer) nofun)),
    hplayer, fun q hq => ?_, by rw [hended]; rfl⟩
  rw [hended]
  exact State.player_setPlayer_other _ _ hq

/-! ### Underruns -/


theorem does_playerUnderrun (hlive : r.live s.cycle = true) (hs : (s.player p.val).starved = false) (hp : (s.player p.val).part = []) :
    Does (.playerUnderrun p) s fun t =>
      t.player p.val = { s.player p.val with starved := true } ∧ t.isSet MSG_STATUS.underrun = true ∧
        t.rd (MSG_CNT.underrun p.val) = min (2 ^ (MSG_CNT.underrun p.val).width - 1) (s.rd (MSG_CNT.underrun p.val) + 1) ∧
        s.OnlyLogged { t with msg := s.msg } [MSG_CNT p.val, MSG_STATUS] := by
  have hcnt : MSG_CNT p.val ≠ MSG_STATUS ∧ MSG_CNT p.val ∉ logRegs := by
    unfold MSG_CNT MSG_STATUS
    exact ⟨by omega, not_mem_logRegs (by omega)⟩
  have hexec : exec (.playerUnderrun p) s = .next (((s.setPlayer p.val { s.player p.val with starved := true }).bump
      (MSG_CNT.underrun p.val) 1).flagEvent MSG_STATUS.underrun p.val 0) := by
    show execPlayerUnderrun p s = _
    unfold execPlayerUnderrun
    dsimp only
    rw [hr]
    exact if_pos (by simp [hlive, hs, hp])
  refine ⟨_, hexec, ?player, State.flagEvent_isSet _ _ _ _ (by decide) (by decide) (by decide), ?count, ?rest⟩
  case player =>
    rw [State.player_of_msg (State.flagEvent_msg _ _ _ _), State.player_of_msg (State.bump_msg _ _ _), State.player_setPlayer_same]
  case count =>
    rw [State.rd_flagEvent_apart _ _ _ (.inl hcnt.1) hcnt.2 (by decide)]
    exact State.rd_bump_same _ (MSG_CNT.underrun p.val) 1 (by simp)
  case rest =>
    exact State.OnlyLogged.of_setPlayer (((State.OnlyLogged.refl _ _).bump _ 1 (List.mem_cons_self ..)).flagEvent _ _ (by simp))

end

theorem exec_chainStepAdvance_idle {p : Fin 64} (hr : (s.player p.val).run = none) : exec (.chainStepAdvance p) s = .next s := by
  show execChainStepAdvance p s = _
  unfold execChainStepAdvance
  dsimp only
  rw [hr]

theorem exec_playerUnderrun_idle {p : Fin 64} (hr : (s.player p.val).run = none) : exec (.playerUnderrun p) s = .next s := by
  show execPlayerUnderrun p s = _
  unfold execPlayerUnderrun
  dsimp only
  rw [hr]

end Sys2Proof.Machine

/-! ## The message scan, generators and zones -/

namespace Sys2Proof.Machine

variable {s : State} {f : Fld}

/-! ### Reads that a change passes by -/

theorem forAll_part {α β : Type} {g : State → β} {xs : List α} {h : α → State → State} (hg : ∀ x t, g (h x t) = g t) (s : State) :
    g (forAll xs h s) = g s := by
  induction xs generalizing s with
  | nil => rfl
  | cons x xs ih => exact (ih (h x s)).trans (hg x s)

theorem State.rd_setMsg (s : State) (m : Nat) (x : MsgEntry) (f : Fld) : (s.setMsg m x).rd f = s.rd f := rfl

theorem State.isSet_wrB_same (s : State) (f : Fld) (b : Bool) (h : f.lo + f.width ≤ 32) (hw : 0 < f.width) : (s.wrB f b).isSet f = b := by
  cases b
  · exact State.isSet_wr_zero s f h
  · exact State.isSet_set1 s f h hw

theorem State.rd_wrB_apart {g : Fld} (s : State) (b : Bool) (k : f.apart g) (h : f.lo + f.width ≤ 32) : (s.wrB f b).rd g = s.rd g :=
  State.rd_wr_apart s _ k h

/-- A value that fits its field is read back. -/
theorem State.rd_wr_fits (s : State) (f : Fld) {v : Nat} (h : f.lo + f.width ≤ 32) (hv : v < 2 ^ f.width) : (s.wr f v).rd f = v := by
  rw [State.rd_wr_same s f v h, Nat.mod_eq_of_lt hv]

section

variable (hs : f.addr ≠ SYS_STATE) (hl : f.addr ∉ logRegs)
include hs hl

theorem State.regrade_rd (s : State) : s.regrade.rd f = s.rd f := by
  unfold State.regrade
  dsimp only
  split
  · rfl
  · rw [State.event_rd _ _ _ _ hl]
    exact State.rd_setReg_other s _ hs

theorem State.raiseCond_rd (s : State) (cause res : Nat) : (s.raiseCond cause res).rd f = s.rd f := by
  unfold State.raiseCond
  dsimp only
  split
  · rfl
  · split
    · exact State.regrade_rd hs hl _
    · rfl

theorem State.msgConds_rd (s : State) (m : Nat) : (s.msgConds m).rd f = s.rd f := by
  unfold State.msgConds
  dsimp only
  split
  · split
    · exact State.raiseCond_rd hs hl _ _ _
    · exact State.raiseCond_rd hs hl _ _ _
  · rfl

theorem State.msgChanged_rd (s : State) (m : Nat) (hp : f.addr ≠ MSG_PIN) : (s.msgChanged m).rd f = s.rd f := by
  unfold State.msgChanged State.pinSync
  dsimp only
  have hdep (xs : List Nat) : (forAll xs (fun k st => st.msgConds k) (s.msgConds m)).rd f = s.rd f :=
    (forAll_part (g := fun t => t.rd f) (fun k t => State.msgConds_rd hs hl t k) _).trans (State.msgConds_rd hs hl s m)
  exact (State.rd_setReg_other _ _ hp).trans (hdep _)

end

/-! ### The message directory -/

theorem State.msgConds_msg (s : State) (m : Nat) : (s.msgConds m).msg = s.msg := by
  have raised (t : State) (cause res : Nat) : (t.raiseCond cause res).msg = t.msg :=
    State.raiseCond_part (fun _ _ _ => rfl) State.event_msg (fun _ _ => rfl) t cause res
  unfold State.msgConds
  dsimp only
  split
  · split
    · exact raised _ _ _
    · exact raised _ _ _
  · rfl

theorem State.msgChanged_msg (s : State) (m : Nat) : (s.msgChanged m).msg = s.msg := by
  have hdep (xs : List Nat) : (forAll xs (fun k st => st.msgConds k) (s.msgConds m)).msg = s.msg :=
    (forAll_part (g := State.msg) (fun k t => State.msgConds_msg t k) _).trans (State.msgConds_msg s m)
  exact (State.wr_msg _ _ _).trans (hdep _)

theorem State.msgEntry_of_msg {t : State} (h : t.msg = s.msg) (m : Nat) : t.msgEntry m = s.msgEntry m := by
  unfold State.msgEntry
  rw [h]

theorem State.msgEntry_setMsg_same (s : State) (m : Nat) (x : MsgEntry) : (s.setMsg m x).msgEntry m = x := SMap.get_set_same _ _ _ _

theorem State.msgEntry_setMsg_other (s : State) {m k : Nat} (x : MsgEntry) (h : k ≠ m) : (s.setMsg m x).msgEntry k = s.msgEntry k :=
  SMap.get_set_other _ _ _ _ _ h

/-! ### The scan -/

/-- An event of a free code changes no more than the log. -/
theorem State.OnlyLogged.eventFree {t : State} {l : List Nat} (h : s.OnlyLogged t l) (a b : Nat) :
    s.OnlyLogged { t.eventFree a b with free := s.free } l := by
  obtain ⟨hreg, hrest⟩ : s.OnlyLogged { t with free := s.free } l := ⟨h.1, congrArg (fun u : State => { u with free := s.free }) h.2⟩
  unfold State.eventFree
  have hevent (c : Nat) (v w : Word) : s.OnlyLogged { ({ t with free := t.free + 1 } : State).event c v w with free := s.free } l := by
    constructor
    · intro a ha
      have hkept := State.event_reg ({ t with free := t.free + 1 }) c v w fun hlog => ha (List.mem_append_right _ hlog)
      exact hkept.trans (hreg a ha)
    · rw [State.event_rest]
      exact congrArg (fun u : State => { u with
        regs := (({ t with free := t.free + 1 } : State).event c v w).regs, log := (({ t with free := t.free + 1 } : State).event c v w).log }) hrest
  exact hevent _ _ _

theorem State.rd_eventFree (s : State) (a b : Nat) (h : f.addr ∉ logRegs) : (s.eventFree a b).rd f = s.rd f :=
  State.event_rd ({ s with free := s.free + 1 }) _ _ _ h

theorem State.rd_scanShown (s : State) (m : Fin 8192) : (s.wr MSG_SCAN.msg m.val).rd MSG_SCAN.msg = m.val :=
  State.rd_wr_fits s MSG_SCAN.msg (by decide) m.isLt

theorem State.OnlyRegs.scanShown (s : State) (m : Nat) : s.OnlyRegs (s.wr MSG_SCAN.msg m) [MSG_SCAN] :=
  (State.OnlyRegs.refl s _).wr m (List.mem_cons_self ..)

theorem does_scanVerify_head (m : Fin 8192) : Does (.scanVerify (.head m) true) s fun t =>
    t.rd MSG_SCAN.msg = m.val ∧ s.OnlyRegs t [MSG_SCAN] := ⟨_, rfl, s.rd_scanShown m, .scanShown s m.val⟩

theorem does_scanVerify_data (m : Fin 8192) : Does (.scanVerify (.data m) true) s fun t =>
    t.rd MSG_SCAN.msg = m.val ∧ s.OnlyRegs t [MSG_SCAN] := ⟨_, rfl, s.rd_scanShown m, .scanShown s m.val⟩

theorem does_scanVerify_headFails (m : Fin 8192) : Does (.scanVerify (.head m) false) s fun t =>
    t.rd MSG_SCAN.msg = m.val ∧ s.OnlyLogged { t with free := s.free } [MSG_SCAN] :=
  ⟨_, rfl, (State.rd_eventFree _ _ _ (by decide)).trans (s.rd_scanShown m),
    ((State.OnlyLogged.refl s _).wr m.val (List.mem_cons_self ..)).eventFree _ _⟩

theorem does_scanVerify_dataFails (m : Fin 8192) (hv : (s.msgEntry m.val).valid = true) (hb : (s.msgEntry m.val).bad = false) :
    Does (.scanVerify (.data m) false) s fun t =>
      t.msgEntry m.val = { s.msgEntry m.val with bad := true } ∧ t.isSet MSG_STATUS.msg_bad = true ∧
        (∀ k, k ≠ m.val → t.msgEntry k = s.msgEntry k) := by
  have hexec : exec (.scanVerify (.data m) false) s = .next
      ((((s.wr MSG_SCAN.msg m.val).setMsg m.val { s.msgEntry m.val with bad := true }).flagEvent MSG_STATUS.msg_bad m.val 0).msgChanged m.val) :=
    if_neg (c := (false || !(s.msgEntry m.val).valid || (s.msgEntry m.val).bad) = true) (by rw [hv, hb]; decide)
  have hentry (k : Nat) : ((((s.wr MSG_SCAN.msg m.val).setMsg m.val { s.msgEntry m.val with bad := true }).flagEvent
      MSG_STATUS.msg_bad m.val 0).msgChanged m.val).msgEntry k =
        ((s.wr MSG_SCAN.msg m.val).setMsg m.val { s.msgEntry m.val with bad := true }).msgEntry k :=
    State.msgEntry_of_msg ((State.msgChanged_msg _ _).trans (State.flagEvent_msg _ _ _ _)) k
  refine ⟨_, hexec, ?_, ?_, fun k hk => ?_⟩
  · rw [hentry, State.msgEntry_setMsg_same]
  · unfold State.isSet
    rw [State.msgChanged_rd (by decide) (by decide) _ _ (by decide)]
    exact State.flagEvent_isSet _ _ _ _ (by decide) (by decide) (by decide)
  · rw [hentry, State.msgEntry_setMsg_other _ _ hk]
    exact State.msgEntry_of_msg (State.wr_msg _ _ _) k

theorem does_scanVerify_table (b : Bool) (c : Fin 2) : exec (.scanVerify (.table b c) true) s = .next s ∧
    Does (.scanVerify (.table b c) false) s fun t => s.OnlyLogged { t with free := s.free } [] :=
  ⟨rfl, _, rfl, (State.OnlyLogged.refl s _).eventFree _ _⟩

theorem does_scanPhaseEnd : Does .scanPhaseEnd s fun t =>
    t.rd MSG_SCAN.rounds = (s.rd MSG_SCAN.rounds + 1) % 65536 ∧ t.rd MSG_SCAN.msg = s.rd MSG_SCAN.msg ∧ s.OnlyRegs t [MSG_SCAN] :=
  ⟨_, rfl, State.rd_wr_same s MSG_SCAN.rounds _ (by decide), State.rd_wr_apart s _ (by decide) (by decide),
    (State.OnlyRegs.refl s _).wr _ (List.mem_cons_self ..)⟩

end Sys2Proof.Machine

/-! ## Generators -/

namespace Sys2Proof.Machine

variable {s : State} {f : Fld} {g : Nat} {v w : Word}

/-! ### Fields under a mask -/

section

variable {a lo n : Nat} {m : Word}

/-- A mask that holds a field keeps it. -/
theorem getFld_and_held (hm : m.extractLsb' lo n = BitVec.allOnes n) : getFld ⟨a, lo, n⟩ (v &&& m) = getFld ⟨a, lo, n⟩ v := by
  unfold getFld
  rw [BitVec.extractLsb'_and, hm, BitVec.and_allOnes]

/-- A mask apart from a field clears it. -/
theorem getFld_or_cleared (hm : m.extractLsb' lo n = 0#n) : getFld ⟨a, lo, n⟩ (w ||| (v &&& m)) = getFld ⟨a, lo, n⟩ w := by
  unfold getFld
  rw [BitVec.extractLsb'_or, BitVec.extractLsb'_and, hm, BitVec.and_zero, BitVec.or_zero]

theorem getFld_cleared_or (hm : m.extractLsb' lo n = 0#n) : getFld ⟨a, lo, n⟩ ((w &&& m) ||| v) = getFld ⟨a, lo, n⟩ v := by
  rw [BitVec.or_comm]
  exact getFld_or_cleared hm

end

/-! ### The configuration -/

theorem State.genCfgWord_known (h : getFld (GEN_CFG.type g) v < 6) : s.genCfgWord g v = v &&& 0xF0000007 :=
  if_neg (Nat.not_le.mpr h)

section

variable {m : Master} {g : Fin 32}

theorem GEN_CFG_ne_MSG_STATUS (g : Fin 32) : GEN_CFG g.val ≠ MSG_STATUS ∧ GEN_CFG g.val ∉ logRegs := by
  unfold GEN_CFG MSG_STATUS
  exact ⟨by omega, not_mem_logRegs (by omega)⟩

theorem exec_genEnableWrite_put (h : s.genCfgPut m g.val v = (t, false)) : exec (.genEnableWrite m g v) s = .next t := by
  show Host.Outcome.next (s.genCfgWrite m g.val v) = _
  unfold State.genCfgWrite
  rw [h]
  rfl

theorem exec_genEnableWrite_refused (h : s.genCfgPut m g.val v = (t, true)) :
    exec (.genEnableWrite m g v) s = .next (t.wpEvent m (GEN_CFG g.val)) := by
  show Host.Outcome.next (s.genCfgWrite m g.val v) = _
  unfold State.genCfgWrite
  rw [h]
  rfl

theorem does_genEnableWrite_open (hlock : s.pairLocked m = false) (hty : getFld (GEN_CFG.type g.val) v < 6)
    (hen : s.isSet (GEN_CFG.en g.val) = false) : Does (.genEnableWrite m g v) s fun t =>
      t.reg (GEN_CFG g.val) = v &&& 0xF0000007 ∧ s.OnlyRegs t [GEN_CFG g.val] := by
  have hput : s.genCfgPut m g.val v = (s.setReg (GEN_CFG g.val) (v &&& 0xF0000007), false) := by
    unfold State.genCfgPut
    dsimp only
    rw [hlock, hen, State.genCfgWord_known hty]
    rfl
  exact ⟨_, exec_genEnableWrite_put hput, State.reg_setReg_same _ _ _, (State.OnlyRegs.refl s _).setReg _ (List.mem_cons_self ..)⟩

/-- Where type and number of segments are as before, so is what the enabled generator locks. -/
theorem locked_fields {old new : Word} (h : new &&& 0x70000007 = old &&& 0x70000007) :
    getFld (GEN_CFG.type g.val) new = getFld (GEN_CFG.type g.val) old ∧ getFld (GEN_CFG.nseg g.val) new = getFld (GEN_CFG.nseg g.val) old := by
  have field {a lo n : Nat} (hm : (0x70000007 : Word).extractLsb' lo n = BitVec.allOnes n) : getFld ⟨a, lo, n⟩ new = getFld ⟨a, lo, n⟩ old := by
    rw [← getFld_and_held (v := new) hm, h, getFld_and_held hm]
  exact ⟨field (by decide), field (by decide)⟩

theorem does_genEnableWrite_running (hlock : s.pairLocked m = false) (hty : getFld (GEN_CFG.type g.val) v < 6)
    (hen : s.isSet (GEN_CFG.en g.val) = true) (hnew : getFld (GEN_CFG.type g.val) v ≠ s.rd (GEN_CFG.type g.val) ∨
      getFld (GEN_CFG.nseg g.val) v ≠ s.rd (GEN_CFG.nseg g.val)) : Does (.genEnableWrite m g v) s fun t =>
      t.rd (GEN_CFG.en g.val) = getFld (GEN_CFG.en g.val) v ∧ t.rd (GEN_CFG.type g.val) = s.rd (GEN_CFG.type g.val) ∧
        t.rd (GEN_CFG.nseg g.val) = s.rd (GEN_CFG.nseg g.val) ∧ t.isSet MSG_STATUS.wr_refused = true ∧
        s.OnlyLogged t [GEN_CFG g.val, MSG_STATUS] := by
  obtain ⟨hstatus, hlog⟩ := GEN_CFG_ne_MSG_STATUS g
  have hdiff : (v &&& 0xF0000007) &&& 0x70000007 ≠ s.reg (GEN_CFG g.val) &&& 0x70000007 := by
    intro hsame
    obtain ⟨htype, hnseg⟩ := locked_fields (g := g) hsame
    rw [getFld_and_held (by decide)] at htype hnseg
    exact hnew.elim (fun h => h htype) fun h => h hnseg
  have hput : s.genCfgPut m g.val v = ((s.setReg (GEN_CFG g.val) ((s.reg (GEN_CFG g.val) &&& 0x70000007) |||
      ((v &&& 0xF0000007) &&& 0x80000000))).set1 MSG_STATUS.wr_refused, true) := by
    unfold State.genCfgPut
    dsimp only
    rw [hlock, hen, State.genCfgWord_known hty]
    refine (if_neg Bool.false_ne_true).trans (if_pos ?_)
    rw [Bool.true_and]
    exact bne_iff_ne.mpr hdiff
  have hread (f : Fld) (hf : f.addr = GEN_CFG g.val) (x : Word) :
      (((s.setReg (GEN_CFG g.val) x).set1 MSG_STATUS.wr_refused).wpEvent m (GEN_CFG g.val)).rd f = getFld f x := by
    unfold State.wpEvent State.set1
    rw [State.event_rd _ _ _ _ (hf ▸ hlog)]
    rw [State.rd_wr_apart _ 1 (.inl (hf ▸ hstatus)) (by decide)]
    rw [← hf, State.rd_setReg_same]
  refine ⟨_, exec_genEnableWrite_refused hput, ?_, ?_, ?_, ?_, ?_⟩
  · rw [hread _ rfl, getFld_cleared_or (by decide), getFld_and_held (by decide), getFld_and_held (by decide)]
  · rw [hread _ rfl, getFld_or_cleared (by decide), getFld_and_held (by decide)]
    rfl
  · rw [hread _ rfl, getFld_or_cleared (by decide), getFld_and_held (by decide)]
    rfl
  · unfold State.wpEvent State.isSet
    rw [State.event_rd _ _ _ _ (by decide)]
    exact State.isSet_set1 _ _ (by decide) (by decide)
  · exact ((((State.OnlyLogged.refl s _).setReg _ (List.mem_cons_self ..)).wr _ (List.mem_cons_of_mem _ (List.mem_cons_self ..))).event _ _ _)

theorem does_genEnableWrite_locked (hlock : s.pairLocked m = true) (hnew : s.genCfgWord g.val v ≠ s.reg (GEN_CFG g.val)) :
    Does (.genEnableWrite m g v) s fun t =>
      t.reg (GEN_CFG g.val) = s.reg (GEN_CFG g.val) ∧ t.isSet MSG_STATUS.wr_refused = true ∧ s.OnlyLogged t [MSG_STATUS] := by
  obtain ⟨hstatus, hlog⟩ := GEN_CFG_ne_MSG_STATUS g
  have hput : s.genCfgPut m g.val v = (s.set1 MSG_STATUS.wr_refused, true) := by
    unfold State.genCfgPut
    dsimp only
    rw [hlock]
    exact (if_pos rfl).trans (if_neg hnew)
  refine ⟨_, exec_genEnableWrite_refused hput, ?_, ?_, ?_⟩
  · unfold State.wpEvent
    rw [State.event_reg _ _ _ _ hlog]
    exact State.reg_setReg_other s _ hstatus
  · unfold State.wpEvent State.isSet
    rw [State.event_rd _ _ _ _ (by decide)]
    exact State.isSet_set1 _ _ (by decide) (by decide)
  · exact ((State.OnlyLogged.refl s _).wr _ (List.mem_cons_self ..)).event _ _ _

end

/-! ### The end of a segment -/

/-- A generator with its next sample in the block, before its segment may give way. -/
def State.genTaken (s : State) (g : Nat) (x : Gen) : Gen :=
  { (s.genSample g x).2 with
    part := x.part ++ [scale (s.genSample g x).1
      (if x.fromG = x.level then x.level else rampGain x.fromG x.level s.blk (x.part.length + 1))] }

theorem State.genRun_next (s : State) (g n : Nat) (x : Gen) : s.genRun g (n + 1) x = s.genRun g n (s.genTurn g (s.genTaken g x)) := rfl

theorem State.genTurn_within {x : Gen} (h : x.pos < s.segLen g x.seg) : s.genTurn g x = x := by
  refine if_neg ?_
  rw [Bool.and_eq_true, decide_eq_true_iff, decide_eq_true_iff]
  exact fun hover => Nat.not_le.mpr h hover.2

section

variable {x : Gen} (hty : 4 ≤ s.rd (GEN_CFG.type g))
include hty

theorem State.genTurn_over (h : s.segLen g x.seg ≤ x.pos) : (s.genTurn g x).seg = (x.seg + 1) % s.genSegs g ∧
    (s.genTurn g x).pos = 0 ∧ (s.genTurn g x).part = x.part := by
  have hturn : s.genTurn g x = _ := if_pos (by rw [Bool.and_eq_true, decide_eq_true_iff, decide_eq_true_iff]; exact ⟨hty, h⟩)
  rw [hturn]
  exact ⟨rfl, rfl, rfl⟩

/-- A sample of a pattern moves the position on and stays in its segment. -/
theorem State.genTaken_segment : (s.genTaken g x).seg = x.seg ∧ (s.genTaken g x).pos = x.pos + 1 ∧
    (s.genTaken g x).part.length = x.part.length + 1 := by
  refine ⟨?_, ?_, List.length_append⟩
  all_goals
    unfold State.genTaken State.genSample
    dsimp only
    rw [if_neg (by omega), if_neg (by omega), if_neg (by omega), if_pos hty]

/-- The rest of a segment, sample by sample: with the last one the next segment begins. -/
theorem State.genRun_segment {n : Nat} (hn : x.pos + (n + 1) = s.segLen g x.seg) :
    (s.genRun g (n + 1) x).seg = (x.seg + 1) % s.genSegs g ∧ (s.genRun g (n + 1) x).pos = 0 ∧
      (s.genRun g (n + 1) x).part.length = x.part.length + (n + 1) := by
  induction n generalizing x with
  | zero =>
    obtain ⟨hseg, hpos, hpart⟩ := State.genTaken_segment (x := x) hty
    obtain ⟨tseg, tpos, tpart⟩ := State.genTurn_over (x := s.genTaken g x) hty (by rw [hseg, hpos, hn])
    rw [State.genRun_next]
    exact ⟨tseg.trans (by rw [hseg]), tpos, (congrArg List.length tpart).trans hpart⟩
  | succ n ih =>
    obtain ⟨hseg, hpos, hpart⟩ := State.genTaken_segment (x := x) hty
    obtain ⟨iseg, ipos, ipart⟩ := ih (x := s.genTaken g x) (by rw [hseg, hpos]; omega)
    rw [State.genRun_next, State.genTurn_within (by rw [hseg, hpos]; omega), iseg, ipart, hseg, hpart]
    exact ⟨rfl, ipos, by omega⟩

end

theorem State.gen_setGen_same (s : State) (g : Nat) (x : Gen) : (s.setGen g x).gen g = x := SMap.get_set_same _ _ _ _

theorem State.gen_setGen_other (s : State) {g k : Nat} (x : Gen) (h : k ≠ g) : (s.setGen g x).gen k = s.gen k :=
  SMap.get_set_other _ _ _ _ _ h

/-- Showing a generator writes its status register alone. -/
theorem State.OnlyRegs.genSync (s : State) (g : Nat) : s.OnlyRegs (s.genSync g) [GEN_STAT g] :=
  ((State.OnlyRegs.refl s _).wr _ (List.mem_cons_self ..)).wr _ (List.mem_cons_self ..)

theorem State.gen_genSync (s : State) (g k : Nat) : (s.genSync g).gen k = s.gen k := by
  have hmsg : (s.genSync g).msg = s.msg := (State.wr_msg _ _ _).trans (State.wrB_msg _ _ _)
  unfold State.gen
  rw [hmsg]

section

variable {g : Fin 32}

theorem does_genSegmentEnd (hon : (s.gen g.val).on = true) (hty : 4 ≤ s.rd (GEN_CFG.type g.val))
    (hpos : (s.gen g.val).pos < s.segLen g.val (s.gen g.val).seg)
    (hfits : s.segLen g.val (s.gen g.val).seg - (s.gen g.val).pos ≤ s.blk - (s.gen g.val).part.length) : Does (.genSegmentEnd g) s fun t =>
      (t.gen g.val).seg = ((s.gen g.val).seg + 1) % s.genSegs g.val ∧ (t.gen g.val).pos = 0 ∧
        (t.gen g.val).part.length = (s.gen g.val).part.length + (s.segLen g.val (s.gen g.val).seg - (s.gen g.val).pos) ∧
        (∀ k, k ≠ g.val → t.gen k = s.gen k) ∧ s.RegsBut t [GEN_STAT g.val] := by
  obtain ⟨n, hn⟩ := Nat.exists_eq_succ_of_ne_zero (n := s.segLen g.val (s.gen g.val).seg - (s.gen g.val).pos) (by omega)
  obtain ⟨hseg, hzero, hpart⟩ := State.genRun_segment (n := n) (x := s.gen g.val) hty (by omega)
  have hexec : exec (.genSegmentEnd g) s = .next ((s.setGen g.val (s.genRun g.val (n + 1) (s.gen g.val))).genSync g.val) := by
    rw [← Nat.succ_eq_add_one, ← hn]
    exact if_pos (by rw [hon, Bool.true_and, Bool.and_eq_true, decide_eq_true_iff, decide_eq_true_iff]; exact ⟨hty, hfits⟩)
  refine ⟨_, hexec, ?_, ?_, ?_, fun k hk => ?_, ?_⟩
  · rw [State.gen_genSync, State.gen_setGen_same, hseg]
  · rw [State.gen_genSync, State.gen_setGen_same, hzero]
  · rw [State.gen_genSync, State.gen_setGen_same, hpart, hn]
  · rw [State.gen_genSync, State.gen_setGen_other _ _ hk]
  · exact (State.OnlyRegs.genSync (s.setGen g.val _) g.val).1

theorem exec_genSegmentEnd_idle (h : (s.gen g.val).on = false ∨ s.rd (GEN_CFG.type g.val) < 4) : exec (.genSegmentEnd g) s = .next s := by
  refine if_neg ?_
  obtain h | h := h
  · rw [h]
    simp
  · simp [Nat.not_le.mpr h]

end

end Sys2Proof.Machine

/-! ## Zones -/

namespace Sys2Proof.Machine

variable {s : State} {z : Nat} {e : VisEst} {b : Bool} {f : Fld}

/-! ### Where a zone's fields lie -/

theorem VIS_INDEX_ne_VIS_LVL (z : Nat) : VIS_INDEX z ≠ VIS_LVL z := by
  unfold VIS_INDEX VIS_LVL
  omega

theorem VIS_INDEX_ne_VIS_CORR (z : Nat) : VIS_INDEX z ≠ VIS_CORR z := by
  unfold VIS_INDEX VIS_CORR
  omega

theorem VIS_LVL_ne_VIS_CORR (z : Nat) : VIS_LVL z ≠ VIS_CORR z := by
  unfold VIS_LVL VIS_CORR
  omega

theorem VIS_INDEX_ne_VIS_MTI (z k : Nat) : VIS_INDEX z ≠ VIS_MTI z k := by
  unfold VIS_INDEX VIS_MTI
  omega

/-- The addresses that neither the status word of the block nor the log takes. -/
theorem VIS_not_logged {a : Nat} (z : Fin 32) (ha : a = VIS_INDEX z.val ∨ a = VIS_LVL z.val) : a ≠ MSG_STATUS ∧ a ∉ logRegs := by
  unfold VIS_INDEX VIS_LVL at ha
  unfold MSG_STATUS
  exact ⟨by omega, not_mem_logRegs (by omega)⟩

theorem tenths_lt (x : Int) : tenths x < 2 ^ 16 := by
  unfold tenths bitsOf
  omega

/-! ### The index and the levels -/

/-- The index part of a zone after a measurement. -/
def State.visIndexed (s : State) (z : Nat) (e : VisEst) (b : Bool) : State :=
  let s1 := if e.quiet || b then s
    else
      upTo 7 (fun k st => st.wr (VIS_MTI.mti z k) (e.mtis.getD k 0).val)
        (((s.wr (VIS_INDEX.index z) e.index.val).wr (VIS_INDEX.delay z) e.delay.val).wr (VIS_INDEX.valid z) 1)
  if b then s1.wr (VIS_INDEX.valid z) 0 else s1

/-- Its levels and its marks. -/
def State.visLevelled (s : State) (z : Nat) (e : VisEst) (b : Bool) : State :=
  ((((s.wrB (VIS_INDEX.quiet z) e.quiet).wrB (VIS_INDEX.outside z) (decide (signedOf 16 e.prog.toNat < signedOf 16 e.amb.toNat))).wr
    (VIS_LVL.prog z) e.prog.toNat).wr (VIS_LVL.amb z) e.amb.toNat).wrB (VIS_INDEX.mic_fault z) b

theorem State.visShow_eq (s : State) (z : Nat) (e : VisEst) (b : Bool) : s.visShow z e b =
    if b && !s.isSet (VIS_INDEX.mic_fault z) then ((s.visIndexed z e b).visLevelled z e b).flagEvent MSG_STATUS.vis_fault z 0
    else (s.visIndexed z e b).visLevelled z e b := rfl

theorem State.visIndexed_part {α : Type} {g : State → α} (hg : ∀ t a v, g (t.setReg a v) = g t) (s : State) : g (s.visIndexed z e b) = g s := by
  have wr (t : State) (f : Fld) (v : Nat) : g (t.wr f v) = g t := hg _ _ _
  have hmeasured : g (if e.quiet || b then s else
      upTo 7 (fun k st => st.wr (VIS_MTI.mti z k) (e.mtis.getD k 0).val)
        (((s.wr (VIS_INDEX.index z) e.index.val).wr (VIS_INDEX.delay z) e.delay.val).wr (VIS_INDEX.valid z) 1)) = g s := by
    split
    · rfl
    · exact (forAll_part (fun _ _ => wr _ _ _) _).trans (by rw [wr, wr, wr])
  unfold State.visIndexed
  dsimp only
  split
  · rw [wr, hmeasured]
  · exact hmeasured

theorem State.visLevelled_part {α : Type} {g : State → α} (hg : ∀ t a v, g (t.setReg a v) = g t) (s : State) :
    g (s.visLevelled z e b) = g s := by
  have wr (t : State) (f : Fld) (v : Nat) : g (t.wr f v) = g t := hg _ _ _
  unfold State.visLevelled State.wrB
  rw [wr, wr, wr, wr, wr]

theorem State.visShow_part {α : Type} {g : State → α} (hg : ∀ t a v, g (t.setReg a v) = g t)
    (hev : ∀ t f i d, g (State.flagEvent t f i d) = g t) (s : State) : g (s.visShow z e b) = g s := by
  have hshown : g ((s.visIndexed z e b).visLevelled z e b) = g s := (State.visLevelled_part hg _).trans (State.visIndexed_part hg s)
  rw [State.visShow_eq]
  split
  · rw [hev, hshown]
  · exact hshown

theorem State.visShow_rd (hs : f.addr ≠ MSG_STATUS) (hl : f.addr ∉ logRegs) :
    (s.visShow z e b).rd f = ((s.visIndexed z e b).visLevelled z e b).rd f := by
  rw [State.visShow_eq]
  split
  · exact State.rd_flagEvent_apart _ _ _ (.inl hs) hl (by simp)
  · rfl

theorem State.visLevelled_prog (s : State) (z : Nat) (e : VisEst) (b : Bool) :
    (s.visLevelled z e b).rd (VIS_LVL.prog z) = e.prog.toNat := by
  unfold State.visLevelled
  rw [State.rd_wrB_apart _ _ (.inl (VIS_INDEX_ne_VIS_LVL z).symm) (by simp), State.rd_wr_apart _ _ (.inr (.inr (by simp))) (by simp),
    State.rd_wr_fits _ (VIS_LVL.prog z) (by simp) e.prog.isLt]

theorem State.visLevelled_amb (s : State) (z : Nat) (e : VisEst) (b : Bool) :
    (s.visLevelled z e b).rd (VIS_LVL.amb z) = e.amb.toNat := by
  unfold State.visLevelled
  rw [State.rd_wrB_apart _ _ (.inl (VIS_INDEX_ne_VIS_LVL z).symm) (by simp), State.rd_wr_fits _ (VIS_LVL.amb z) (by simp) e.amb.isLt]

/-- The levels pass by the index word's other fields. -/
theorem State.visLevelled_rd (s : State) (z : Nat) (e : VisEst) (b : Bool) (hf : f.addr = VIS_INDEX z) (hq : (VIS_INDEX.quiet z).apart f)
    (ho : (VIS_INDEX.outside z).apart f) (hm : (VIS_INDEX.mic_fault z).apart f) : (s.visLevelled z e b).rd f = s.rd f := by
  have hlvl : f.addr ≠ VIS_LVL z := hf ▸ VIS_INDEX_ne_VIS_LVL z
  unfold State.visLevelled
  rw [State.rd_wrB_apart _ _ hm (by simp), State.rd_wr_apart _ _ (.inl hlvl) (by simp), State.rd_wr_apart _ _ (.inl hlvl) (by simp),
    State.rd_wrB_apart _ _ ho (by simp), State.rd_wrB_apart _ _ hq (by simp)]

theorem State.visLevelled_quiet (s : State) (z : Nat) (e : VisEst) (b : Bool) :
    (s.visLevelled z e b).isSet (VIS_INDEX.quiet z) = e.quiet := by
  have hmarked := State.isSet_wrB_same s (VIS_INDEX.quiet z) e.quiet (by simp) (by simp)
  unfold State.visLevelled
  unfold State.isSet at hmarked ⊢
  rw [State.rd_wrB_apart _ _ (.inr (by simp)) (by simp), State.rd_wr_apart _ _ (.inl (VIS_INDEX_ne_VIS_LVL z)) (by simp),
    State.rd_wr_apart _ _ (.inl (VIS_INDEX_ne_VIS_LVL z)) (by simp), State.rd_wrB_apart _ _ (.inr (by simp)) (by simp)]
  exact hmarked

theorem State.visIndexed_measured (s : State) (z : Nat) (e : VisEst) (hq : e.quiet = false) :
    (s.visIndexed z e false).rd (VIS_INDEX.index z) = e.index.val ∧ (s.visIndexed z e false).rd (VIS_INDEX.delay z) = e.delay.val ∧
      (s.visIndexed z e false).rd (VIS_INDEX.valid z) = 1 := by
  have heq : s.visIndexed z e false = upTo 7 (fun k st => st.wr (VIS_MTI.mti z k) (e.mtis.getD k 0).val)
      (((s.wr (VIS_INDEX.index z) e.index.val).wr (VIS_INDEX.delay z) e.delay.val).wr (VIS_INDEX.valid z) 1) := by
    unfold State.visIndexed
    rw [hq]
    rfl
  have hmti (f : Fld) (hf : f.addr = VIS_INDEX z) (t : State) :
      (upTo 7 (fun k st => st.wr (VIS_MTI.mti z k) (e.mtis.getD k 0).val) t).rd f = t.rd f :=
    forAll_part (g := fun u => u.rd f) (fun k u => State.rd_wr_apart u _ (.inl (hf ▸ VIS_INDEX_ne_VIS_MTI z k)) (by simp)) t
  have hindex : e.index.val < 2 ^ 10 := by omega
  have hdelay : e.delay.val < 2 ^ 10 := by omega
  rw [heq]
  refine ⟨?_, ?_, ?_⟩
  · rw [hmti _ rfl, State.rd_wr_apart _ _ (.inr (by simp)) (by simp), State.rd_wr_apart _ _ (.inr (by simp)) (by simp)]
    exact State.rd_wr_fits s (VIS_INDEX.index z) (by simp) hindex
  · rw [hmti _ rfl, State.rd_wr_apart _ _ (.inr (by simp)) (by simp)]
    exact State.rd_wr_fits _ (VIS_INDEX.delay z) (by simp) hdelay
  · rw [hmti _ rfl]
    exact State.rd_wr_fits _ (VIS_INDEX.valid z) (by simp) (by simp)

theorem State.visIndexed_fault (s : State) (z : Nat) (e : VisEst) : (s.visIndexed z e true).rd (VIS_INDEX.valid z) = 0 :=
  State.rd_wr_fits _ (VIS_INDEX.valid z) (by simp) (by simp)

/-! ### The corrections -/

/-- A zone with new corrections, and its registers that show them. -/
def State.showCorr (s : State) (z : Nat) (y : VisZone) : State :=
  ((s.setZone z y).wr (VIS_CORR.gain z) (tenths (min 1200 (y.gVis + y.gAmb) : Nat))).wr (VIS_CORR.tilt z) (tenths y.tilt)

theorem State.rd_showCorr (s : State) (z : Nat) (y : VisZone) (hf : f.addr ≠ VIS_CORR z) : (s.showCorr z y).rd f = s.rd f :=
  (State.rd_setReg_other _ _ hf).trans (State.rd_setReg_other _ _ hf)

theorem State.showCorr_gain (s : State) (z : Nat) (y : VisZone) :
    (s.showCorr z y).rd (VIS_CORR.gain z) = tenths (min 1200 (y.gVis + y.gAmb) : Nat) := by
  unfold State.showCorr
  rw [State.rd_wr_apart _ _ (.inr (by simp)) (by simp)]
  exact State.rd_wr_fits _ (VIS_CORR.gain z) (by simp) (tenths_lt _)

theorem State.showCorr_tilt (s : State) (z : Nat) (y : VisZone) : (s.showCorr z y).rd (VIS_CORR.tilt z) = tenths y.tilt :=
  State.rd_wr_fits _ (VIS_CORR.tilt z) (by simp) (tenths_lt _)

theorem State.zone_of_msg {t : State} (h : t.msg = s.msg) (k : Nat) : t.zone k = s.zone k := by
  unfold State.zone
  rw [h]

theorem State.zone_showCorr_same (s : State) (z : Nat) (y : VisZone) : (s.showCorr z y).zone z = y :=
  (State.zone_of_msg ((State.wr_msg _ _ _).trans (State.wr_msg _ _ _)) z).trans (SMap.get_set_same _ _ _ _)

theorem State.zone_showCorr_other (s : State) {z k : Nat} (y : VisZone) (h : k ≠ z) : (s.showCorr z y).zone k = s.zone k :=
  (State.zone_of_msg ((State.wr_msg _ _ _).trans (State.wr_msg _ _ _)) k).trans (SMap.get_set_other _ _ _ _ _ h)

theorem State.showCorr_coef (s : State) (z : Nat) (y : VisZone) : (s.showCorr z y).coef = s.coef :=
  (State.wr_coef _ _ _).trans (State.wr_coef _ _ _)

theorem State.visWrite_part {α : Type} {g : State → α} (hg : ∀ t a w, g (State.setMemWord t a w) = g t) {c : Prop} [Decidable c] (s : State)
    (os k : Nat) (x : Int) : g (if c then s.visWrite os k x else s) = g s := by
  unfold State.visWrite
  split
  · split
    · rw [hg, hg]
    · rfl
  · rfl

/-- Memory aside, an update shows the measurement and then the zone's new corrections. -/
theorem State.visUpdate_shows (s : State) (z : Nat) (e : VisEst) : ∃ y : VisZone, ∀ {α : Type} {g : State → α},
    (∀ t a w, g (State.setMemWord t a w) = g t) → g (s.visUpdate z e) =
      g ((s.visShow z e (e.silent || s.micStopped (s.rd (VIS_MIC.source z)))).showCorr z y) :=
  ⟨_, fun hg => State.visWrite_part hg _ _ _ _⟩

/-! ### The update -/

theorem exec_visUpdate_due {z : Fin 32} (hen : s.isSet (VIS_CFG.en z.val) = true) (hg : s.gateShut 8 = false) (hs : s.visShed z.val = false)
    (hd : s.visDue z.val (s.cycle + 1) = true) : exec (.visUpdate z e) s = .next (s.visUpdate z.val e) :=
  congrArg Host.Outcome.next (if_pos (by rw [hen, hg, hs, hd]; rfl))

theorem exec_visUpdate_idle {z : Fin 32} (h : s.isSet (VIS_CFG.en z.val) = false ∨ s.gateShut 8 = true ∨ s.visShed z.val = true ∨
    s.visDue z.val (s.cycle + 1) = false) : exec (.visUpdate z e) s = .next s := by
  refine congrArg Host.Outcome.next (if_neg ?_)
  obtain h | h | h | h := h <;> rw [h] <;> simp

theorem does_visUpdate {z : Fin 32} (hen : s.isSet (VIS_CFG.en z.val) = true) (hg : s.gateShut 8 = false) (hs : s.visShed z.val = false)
    (hd : s.visDue z.val (s.cycle + 1) = true) (hb : (e.silent || s.micStopped (s.rd (VIS_MIC.source z.val))) = b) :
    Does (.visUpdate z e) s fun t =>
      t.rd (VIS_LVL.prog z.val) = e.prog.toNat ∧ t.rd (VIS_LVL.amb z.val) = e.amb.toNat ∧ t.isSet (VIS_INDEX.quiet z.val) = e.quiet ∧
        t.isSet (VIS_INDEX.mic_fault z.val) = b ∧
        (e.quiet = false → b = false → t.rd (VIS_INDEX.index z.val) = e.index.val ∧ t.rd (VIS_INDEX.delay z.val) = e.delay.val ∧
          t.isSet (VIS_INDEX.valid z.val) = true) ∧
        (b = true → t.isSet (VIS_INDEX.valid z.val) = false) ∧ (∀ k, k ≠ z.val → t.zone k = s.zone k) ∧
        t.rd (VIS_CORR.gain z.val) = tenths (min 1200 ((t.zone z.val).gVis + (t.zone z.val).gAmb)) ∧
        t.rd (VIS_CORR.tilt z.val) = tenths (t.zone z.val).tilt ∧ s.SameCoefs t := by
  obtain ⟨y, hshows⟩ := s.visUpdate_shows z.val e
  rw [hb] at hshows
  have hread (f : Fld) : (s.visUpdate z.val e).rd f = ((s.visShow z.val e b).showCorr z.val y).rd f :=
    hshows (g := fun t => t.rd f) fun t a w => State.rd_of_regs (State.setMemWord_regs t a w) f
  have hindex (f : Fld) (hf : f.addr = VIS_INDEX z.val) : (s.visUpdate z.val e).rd f =
      ((s.visIndexed z.val e b).visLevelled z.val e b).rd f := by
    obtain ⟨hstatus, hlog⟩ := VIS_not_logged z (.inl hf)
    rw [hread, State.rd_showCorr _ _ _ (hf ▸ VIS_INDEX_ne_VIS_CORR z.val), State.visShow_rd hstatus hlog]
  have hlevel (f : Fld) (hf : f.addr = VIS_LVL z.val) : (s.visUpdate z.val e).rd f =
      ((s.visIndexed z.val e b).visLevelled z.val e b).rd f := by
    obtain ⟨hstatus, hlog⟩ := VIS_not_logged z (.inr hf)
    rw [hread, State.rd_showCorr _ _ _ (hf ▸ VIS_LVL_ne_VIS_CORR z.val), State.visShow_rd hstatus hlog]
  have hmarks (f : Fld) (hf : f.addr = VIS_INDEX z.val) : (s.visUpdate z.val e).isSet f =
      ((s.visIndexed z.val e b).visLevelled z.val e b).isSet f := by
    unfold State.isSet
    rw [hindex f hf]
  have hvalid : (s.visUpdate z.val e).rd (VIS_INDEX.valid z.val) = (s.visIndexed z.val e b).rd (VIS_INDEX.valid z.val) :=
    (hindex _ rfl).trans (State.visLevelled_rd _ _ _ _ rfl (.inr (by simp)) (.inr (by simp)) (.inr (by simp)))
  have hmsg : (s.visUpdate z.val e).msg = ((s.visShow z.val e b).showCorr z.val y).msg := hshows (g := State.msg) State.setMemWord_msg
  have hzone := (State.zone_of_msg hmsg z.val).trans (State.zone_showCorr_same _ _ _)
  refine ⟨_, exec_visUpdate_due hen hg hs hd, ?_, ?_, ?_, ?_, fun hq hb => ?_, fun hb => ?_, fun k hk => ?_, ?_, ?_, ?_⟩
  · rw [hlevel _ rfl, State.visLevelled_prog]
  · rw [hlevel _ rfl, State.visLevelled_amb]
  · rw [hmarks _ rfl, State.visLevelled_quiet]
  · rw [hmarks _ rfl]
    exact State.isSet_wrB_same _ _ _ (by simp) (by simp)
  · subst hb
    obtain ⟨mindex, mdelay, mvalid⟩ := s.visIndexed_measured z.val e hq
    refine ⟨?_, ?_, ?_⟩
    · rw [hindex _ rfl, State.visLevelled_rd _ _ _ _ rfl (.inr (by simp)) (.inr (by simp)) (.inr (by simp)), mindex]
    · rw [hindex _ rfl, State.visLevelled_rd _ _ _ _ rfl (.inr (by simp)) (.inr (by simp)) (.inr (by simp)), mdelay]
    · unfold State.isSet
      rw [hvalid, mvalid]
      rfl
  · subst hb
    unfold State.isSet
    rw [hvalid, State.visIndexed_fault]
    rfl
  · rw [State.zone_of_msg hmsg, State.zone_showCorr_other _ _ hk]
    exact State.zone_of_msg (State.visShow_part (fun _ _ _ => rfl) State.flagEvent_msg s) k
  · rw [hread, State.showCorr_gain, hzone]
    congr 1
    push_cast
    rfl
  · rw [hread, State.showCorr_tilt, hzone]
  · exact (hshows (g := State.coef) State.setMemWord_coef).trans ((State.showCorr_coef _ _ _).trans
      (State.visShow_part (fun _ _ _ => rfl) State.flagEvent_coef s))

end Sys2Proof.Machine

/-! ## The loopback store at a tick

While no command is outstanding and no activation runs, everything that a tick does but the fabric window and a reset of the device leaves
the loopback store alone. One rule per function of the tick, in the order of the model. -/

namespace Sys2Proof.Machine

/-- The three blocks of the loopback store, the newest first. -/
def EngState.loops (e : EngState) : SMap Word × SMap Word × SMap Word := (e.loop1, e.loop2, e.loop3)

theorem EngState.loops_eq_iff {e : EngState} {x y z : SMap Word} : e.loops = (x, y, z) ↔ e.loop1 = x ∧ e.loop2 = y ∧ e.loop3 = z := by
  unfold EngState.loops
  rw [Prod.mk.injEq, Prod.mk.injEq]

theorem EngState.loops_congr {d e : EngState} (h1 : d.loop1 = e.loop1) (h2 : d.loop2 = e.loop2) (h3 : d.loop3 = e.loop3) :
    d.loops = e.loops := EngState.loops_eq_iff.mpr ⟨h1, h2, h3⟩

/-- No command is outstanding, no activation runs, and the loopback store is the given one. -/
def State.Loops (s : State) (l : SMap Word × SMap Word × SMap Word) : Prop :=
  s.q.outst = [] ∧ s.img.act = none ∧ s.eng.loops = l

variable {l : SMap Word × SMap Word × SMap Word} {s t : State} {a v w : Word} {n m k p c i d g : Nat} {b tx : Bool}
  {o : Option CmdRef} {r : CmdRef}

theorem State.Loops.outst (h : s.Loops l) : s.q.outst = [] := h.left

theorem State.Loops.act (h : s.Loops l) : s.img.act = none := h.right.left

theorem State.Loops.loops (h : s.Loops l) : s.eng.loops = l := h.right.right

/-! ### Control -/

theorem State.Loops.same (h : s.Loops l) (hq : t.q.outst = s.q.outst) (ha : t.img.act = s.img.act) (he : t.eng.loops = s.eng.loops) :
    t.Loops l := ⟨hq.trans h.outst, ha.trans h.act, he.trans h.loops⟩

/-- An update of any parts but the commands, the image and the engine. -/
theorem State.Loops.update {regs mem coef free xpt patch ovr dsp ms lastRead log flt bus pwr sec boot spi dec sp field msg ref net ptp pair}
    (h : s.Loops l) : State.Loops { s with
      regs := regs, mem := mem, coef := coef, free := free, xpt := xpt, patch := patch, ovr := ovr, dsp := dsp, ms := ms
      lastRead := lastRead, log := log, flt := flt, bus := bus, pwr := pwr, sec := sec, boot := boot, spi := spi, dec := dec, sp := sp
      field := field, msg := msg, ref := ref, net := net, ptp := ptp, pair := pair } l := .same h rfl rfl rfl

theorem State.Loops.ite {q : Prop} [Decidable q] (hs : s.Loops l) (ht : t.Loops l) : (if q then s else t).Loops l := by
  split
  · exact hs
  · exact ht

/-- An update made only where a condition holds. -/
theorem State.Loops.ifSo {q : Prop} [Decidable q] (h : s.Loops l) (ht : s.Loops l → t.Loops l) : (if q then t else s).Loops l :=
  .ite (ht h) h

theorem State.Loops.forAll {α : Type} {xs : List α} {f : α → State → State} (h : s.Loops l)
    (hf : ∀ x t, State.Loops t l → (f x t).Loops l) : (forAll xs f s).Loops l := by
  induction xs generalizing s with
  | nil => exact h
  | cons x xs ih => exact ih (hf x s h)

theorem State.Loops.upTo {f : Nat → State → State} (h : s.Loops l) (hf : ∀ i t, State.Loops t l → (f i t).Loops l) :
    (upTo n f s).Loops l := State.Loops.forAll h hf

/-! ### Memory and the log -/

theorem State.Loops.setMemWords {ws : List Word} (h : s.Loops l) : (s.setMemWords n ws).Loops l := .same h rfl rfl rfl

theorem State.Loops.event (h : s.Loops l) : (s.event n v w).Loops l :=
  .same h (congrArg QState.outst (State.event_q ..)) (congrArg ImgState.act (State.event_img ..))
    (congrArg EngState.loops (State.event_eng ..))

theorem State.Loops.flagEvent {f : Fld} (h : s.Loops l) : (s.flagEvent f i d).Loops l := .event (.update h)

theorem State.Loops.eventP {x y : Option Nat} (h : s.Loops l) : (s.eventP n x y).Loops l := by
  cases x <;> cases y <;> exact .event (.update (.update h))

/-! ### Faults and the operating state -/

theorem State.Loops.regrade (h : s.Loops l) : s.regrade.Loops l := .ite h (.event (.update h))

theorem State.Loops.raiseCond (h : s.Loops l) : (s.raiseCond n k).Loops l := .ite h (.ite (.regrade (.update h)) (.update h))

theorem State.Loops.startTest {x : TestKind} (h : s.Loops l) : (s.startTest x n).Loops l :=
  .ite (.update h) (.ite (.ite (.update (.update (.event h))) (.update (.event h))) (.update h))

theorem State.Loops.goto {x : OpState} (h : s.Loops l) : (s.goto x).Loops l := .ite h (.event (.update h))

/-! ### Completions -/

theorem State.Loops.findOut (h : s.Loops l) : s.findOut r = none := by
  unfold State.findOut
  rw [h.outst]
  rfl

theorem State.Loops.finish {bs : List Byte} (h : s.Loops l) : (s.finish r n d bs).Loops l := by
  unfold State.finish
  rw [h.findOut]
  exact h

theorem State.Loops.ownerDone (h : s.Loops l) : (s.ownerDone o).Loops l := by
  cases o with
  | none => exact h
  | some r =>
    unfold State.ownerDone
    dsimp only
    rw [h.findOut]
    exact h

theorem State.Loops.ownerCancel (h : s.Loops l) : (s.ownerCancel o).Loops l :=
  match o with
  | none => h
  | some _ => .finish h

theorem State.Loops.ownerHeld (h : s.Loops l) : (s.ownerHeld o).Loops l := by
  cases o with
  | none => exact h
  | some r =>
    unfold State.ownerHeld
    dsimp only
    rw [h.findOut]
    exact h

theorem State.Loops.mapOut {f : Outst → Outst} (h : s.Loops l) : (s.mapOut r f).Loops l :=
  ⟨congrArg (List.map _) h.outst, h.act, h.loops⟩

theorem State.Loops.pendSync (h : s.Loops l) : s.pendSync.Loops l := .ite (.update (.update h)) (.update h)

theorem State.Loops.answer {x : Cmd} {bs : List Byte} (h : s.Loops l) : (s.answer x n d a bs).Loops l := by
  unfold State.answer
  split
  · exact .update (.setMemWords (.ite (.update h) h))
  · exact .update (.ite (.update (.update h)) (.update h))
  · exact .update h
  · exact .update h

theorem State.Loops.complete {x : Cmd} {bs : List Byte} (h : s.Loops l) : (s.complete x n d a bs).Loops l := by
  unfold State.complete
  split
  · exact .update (.answer h)
  · exact .update (.answer h)
  · exact .answer h
  · exact .answer h

theorem State.Loops.commitWith {x : Outst} {f : Outst → State → State} (h : s.Loops l) : (s.commitWith x f).Loops l := by
  unfold State.commitWith
  rw [h.findOut]
  exact h

/-! ### The patch -/

theorem State.Loops.commitPatch {x : PatchReq} (h : s.Loops l) : (s.commitPatch x a).Loops l := by
  refine .ite (.ite (.ownerCancel (.update h)) (.ownerHeld ?_)) (.ite (.ownerDone (.update h)) (.update h))
  split
  · exact .ownerCancel (.update h)
  · exact .update h

theorem State.Loops.patchSteady (h : s.Loops l) : (s.patchSteady k a).Loops l := by
  unfold State.patchSteady
  dsimp only
  split
  · exact .commitPatch (.ownerDone (.update h))
  · exact .ownerDone (.update h)

theorem State.Loops.patchFadeOutEnd (h : s.Loops l) : (s.patchFadeOutEnd k).Loops l := by
  unfold State.patchFadeOutEnd
  dsimp only
  split
  · exact .update h
  · exact .patchSteady (.update h)

theorem State.Loops.patchDue (h : s.Loops l) : s.patchDue.Loops l :=
  .forAll h fun _ _ h => .ite (.ite (.patchFadeOutEnd h) h) (.ite (.patchSteady h) h)

theorem State.Loops.reverseRecord {x : MuteRec} {ks : List Nat} (h : s.Loops l) : (s.reverseRecord x b ks a n).Loops l :=
  .forAll h fun _ _ h => .ite (.update (.commitPatch h)) h

theorem State.Loops.commitPatchQueues (h : s.Loops l) : s.commitPatchQueues.Loops l :=
  .forAll (.update h) fun _ _ h => .commitPatch h

/-! ### The crosspoint -/

theorem State.Loops.copyCol (h : s.Loops l) : (s.copyCol m).Loops l :=
  .update (.forAll (.forAll h fun _ _ h => .update h) fun _ _ h => .ite h (.update h))

theorem State.Loops.xptDue (h : s.Loops l) : s.xptDue.Loops l :=
  .forAll h fun _ _ h => .ifSo (.ifSo h fun h => .copyCol h) fun h => .update h

theorem State.Loops.meterDue (h : s.Loops l) : s.meterDue.Loops l := by
  unfold State.meterDue State.latchMeters
  exact .ite (.update (.update (.upTo h fun _ _ h => .ite h (.update h)))) h

theorem State.Loops.meterTick (h : s.Loops l) : s.meterTick.Loops l := by
  unfold State.meterTick
  exact .ifSo (.ite (.update (.upTo h fun _ _ h => .ite h (.update h))) h) fun h => .update h

theorem State.Loops.captureDone (h : s.Loops l) : (s.captureDone n).Loops l := .ownerDone (.update (.update h))

theorem State.Loops.captureBlock (h : s.Loops l) : (s.captureBlock n).Loops l := .ite h (.update (.upTo h fun _ _ h => .update h))

theorem State.Loops.swapColumn (h : s.Loops l) : (s.swapColumn m n).Loops l := .ite (.update h) (.ite (.update (.update h)) (.update h))

theorem State.Loops.entryOwner {x : XptEntry} (h : s.Loops l) : (s.entryOwner x).Loops l := by
  unfold State.entryOwner
  split
  · exact h
  · exact .pendSync (.mapOut h)

theorem State.Loops.commitXptQueue (h : s.Loops l) : s.commitXptQueue.Loops l :=
  .forAll (.update h) fun _ _ h => .entryOwner
    (.forAll h fun _ _ h => .ite (.update (.update h)) (.ite (.swapColumn h) (.update h)))

/-! ### The override plane -/

theorem State.Loops.cinToTriggers (h : s.Loops l) : (s.cinToTriggers n k).Loops l :=
  .upTo h fun _ _ h => .ite (.ite (.update h) (.ite (.update h) (.update h))) h

theorem State.Loops.resolveCol (h : s.Loops l) : (s.resolveCol a m).Loops l := by
  unfold State.resolveCol
  dsimp only
  split
  · exact .ite h (.forAll (.update (.update h)) fun _ _ h => .commitPatch h)
  · exact .update h
  · exact h

theorem State.Loops.resolve (h : s.Loops l) : (s.resolve a).Loops l := .ite h (.forAll h fun _ _ h => .resolveCol h)

theorem State.Loops.planeRamps (h : s.Loops l) : s.planeRamps.Loops l :=
  .forAll h fun _ _ h => .ite (.update h) (.ite (.reverseRecord (.update h)) h)

theorem State.Loops.copyTable (h : s.Loops l) : s.copyTable.Loops l := by
  unfold State.copyTable
  exact .update (.update (.upTo (.upTo h fun _ _ h => .ite h (.update h)) fun _ _ h => .ite h (.update h)))

/-! ### Quads, memory and generators -/

theorem State.Loops.withQuads {x : SMap Quad} (h : s.Loops l) : State.Loops { s with img := { s.img with quads := x } } l :=
  .same h rfl rfl rfl

theorem State.Loops.initQuadRegion {x : DispRec} (h : s.Loops l) : (s.initQuadRegion x).Loops l := by
  unfold State.initQuadRegion
  split
  · split
    · exact .update h
    · exact h
  · exact h

theorem State.Loops.requad (h : s.Loops l) : (s.requad a b).Loops l :=
  .forAll h fun _ _ h => .ite h (.ite (.withQuads (.initQuadRegion h)) (.withQuads h))

theorem State.Loops.paramSyncDone (h : s.Loops l) : (s.paramSyncDone k).Loops l := by
  unfold State.paramSyncDone
  split
  · exact .ite h (.ownerDone (.withQuads (.update h)))
  · exact h

theorem State.Loops.actDue (h : s.Loops l) : (s.actDue a).Loops l := by
  unfold State.actDue
  rw [h.act]
  dsimp only
  rw [h.act]
  dsimp only
  rw [h.act]
  exact h

theorem State.Loops.actTick (h : s.Loops l) : s.actTick.Loops l := by
  unfold State.actTick
  rw [h.act]
  exact h

theorem State.Loops.duskTick (h : s.Loops l) : s.duskTick.Loops l := .upTo h fun _ _ h => .ite (.update h) (.ite (.update h) h)

theorem State.Loops.flashEnqueue {x : FlashReq} (h : s.Loops l) : (s.flashEnqueue x).Loops l := by
  unfold State.flashEnqueue
  split
  · exact .update (.update h)
  · exact .ite (.update (.update (.update (.update h)))) (.update h)

theorem State.Loops.dlqDue (h : s.Loops l) : s.dlqDue.Loops l := .update (.forAll h fun _ _ h => .ite (.update h) (.update h))

theorem State.Loops.genBlock (h : s.Loops l) : (s.genBlock g).1.Loops l := by
  unfold State.genBlock
  dsimp only
  split
  · exact .update h
  · exact h

theorem State.Loops.genEnds (h : s.Loops l) : (s.genEnds g).Loops l := by
  unfold State.genEnds
  rw [h.outst]
  exact h

theorem State.Loops.genTickOne (h : s.Loops l) : (s.genTickOne g).Loops l :=
  .ite (.update (.update (.update h))) (.ite (.update (.update (.update h)))
    (.ite (.genEnds (.update (.update (.update h)))) (.update (.update (.update h)))))

/-! ### Decimation and trackers -/

theorem State.Loops.decStart (h : s.Loops l) : (s.decStart n o).Loops l := by
  unfold State.decStart
  split
  · exact .ownerDone h
  · split
    · dsimp only
      split
      · exact .finish (.ite (.update h) h)
      · exact .ite (.update h) h
    · exact .update (.update (.update (.update h)))

theorem State.Loops.decStop (h : s.Loops l) : (s.decStop n o).Loops l :=
  .ite (.update (.update h)) (.ite (.ownerCancel (.update h)) (.ownerDone h))

theorem State.Loops.decTickOne (h : s.Loops l) : (s.decTickOne n).Loops l :=
  .ite (.forAll (.update h) fun _ _ h => .decStart h)
    (.forAll (.forAll (.update h) fun _ _ h => .ownerCancel h) fun _ _ h => .decStop h)

theorem State.Loops.decHalt (h : s.Loops l) : (s.decHalt n).Loops l :=
  .forAll (.forAll (.ownerDone (.update (.update (.update h)))) fun _ _ h => .ownerCancel h) fun _ _ h => .finish h

theorem State.Loops.decDue (h : s.Loops l) : (s.decDue a).Loops l :=
  .upTo h fun _ _ h => .ifSo (.ifSo h fun h => .ownerDone (.update (.update h))) fun h => .decHalt h

theorem State.Loops.decFifoPush {x : BitVec 24} (h : s.Loops l) : (s.decFifoPush n x).Loops l := .ite h (.ite (.update h) (.update h))

theorem State.Loops.decOutput {x : BitVec 24} (h : s.Loops l) : (s.decOutput n x b).Loops l :=
  .ite h (.update (.decFifoPush (.ifSo h fun h => .update (.update h))))

theorem State.Loops.asrcClaim {ids : List Nat} (h : s.Loops l) : (s.asrcClaim n m k p ids).1.Loops l := by
  unfold State.asrcClaim
  dsimp only
  split
  · exact .flagEvent h
  · split
    · exact .flagEvent h
    · exact .update (.update (.update (.forAll (.update (.update (.update (.update h)))) fun _ _ h => .update h)))

theorem State.Loops.asrcJoin {ids : List Nat} (h : s.Loops l) : (s.asrcJoin n ids).1.Loops l := by
  unfold State.asrcJoin
  dsimp only
  split
  · exact .flagEvent h
  · exact .update (.update (.forAll h fun _ _ h => .update h))

theorem State.Loops.asrcRelease {ids : List Nat} (h : s.Loops l) : (s.asrcRelease n ids).Loops l := by
  unfold State.asrcRelease
  dsimp only
  split
  · exact .update (.update (.forAll h fun _ _ h => .update h))
  · exact .update (.update (.update (.update (.update (.update (.update (.forAll h fun _ _ h => .update h)))))))

theorem State.Loops.trkTickOne {x : Track} (h : s.Loops l) : (s.trkTickOne n x).Loops l := by
  unfold State.trkTickOne
  split
  · exact h
  · refine .update (.ifSo (.ifSo (.forAll (.update (.update h)) fun _ _ h => .update h) fun h => ?_) fun h => .flagEvent h)
    exact .update (.flagEvent h)

/-! ### Serial ports -/

theorem State.Loops.spClaim (h : s.Loops l) : (s.spClaim n).1.Loops l := by
  unfold State.spClaim
  split
  · exact h
  · split
    · exact .asrcJoin h
    · exact .asrcClaim h

theorem State.Loops.spRelease (h : s.Loops l) : (s.spRelease n).Loops l := by
  unfold State.spRelease
  split
  · exact .asrcRelease h
  · exact h

theorem State.Loops.spFinish (h : s.Loops l) : (s.spFinish o n d).Loops l :=
  match o with
  | none => h
  | some _ => .finish h

/-- The state of a claim that has been made or refused. -/
theorem State.Loops.of_claim {x : State × Bool} (e : x = (t, b)) (h : x.1.Loops l) : t.Loops l := by
  rw [e] at h
  exact h

theorem State.Loops.spStart (h : s.Loops l) : (s.spStart n o).Loops l := by
  unfold State.spStart
  split
  · exact .spFinish h
  · split
    · exact .ownerDone h
    · split
      · next hclaim => exact .spFinish (.of_claim hclaim (.spClaim h))
      · next hclaim => exact .update (.update (.update (.update (.of_claim hclaim (.spClaim h)))))

theorem State.Loops.spStop (h : s.Loops l) : (s.spStop n o).Loops l :=
  .ite (.ownerDone h) (.ite (.ownerCancel (.update (.update h))) (.ite (.ownerCancel (.update (.update h))) (.ownerCancel (.update h))))

theorem State.Loops.spMute (h : s.Loops l) : (s.spMute n b o).Loops l := .ite (.ownerDone h) (.ownerCancel (.update (.update h)))

theorem State.Loops.spActions (h : s.Loops l) : (s.spActions n).Loops l := by
  refine .ite (.forAll (.forAll ?started fun _ _ h => .ownerCancel h) fun _ _ h => .spMute h) (.forAll ?started fun _ _ h => .spMute h)
  exact .ite (.forAll (.update h) fun _ _ h => .spStart h)
    (.forAll (.forAll (.update h) fun _ _ h => .ownerCancel h) fun _ _ h => .spStop h)

theorem State.Loops.spProgress (h : s.Loops l) : (s.spProgress n).Loops l := by
  refine .ifSo ?_ fun h => .ownerDone (.update h)
  exact .ite (.ownerDone (.update (.update h))) (.ite (.update (.update h)) (.ite (.update h) (.ite (.ownerDone (.update h)) h)))

theorem State.Loops.spFrames (h : s.Loops l) : s.spFrames.Loops l := by
  refine .upTo h fun g u h => ?_
  dsimp only
  split
  · exact h
  · exact .ite (.update h) (.update (.update h))

theorem State.Loops.spHalt (h : s.Loops l) : (s.spHalt n).Loops l := by
  refine .forAll (.forAll (.ownerCancel (.ownerCancel (.forAll (.spRelease (.ownerDone (.update (.update (.update ?_))))) ?_))) ?_) ?_
  · split
    · exact .update (.update h)
    · exact h
  · exact fun _ _ h => .ownerCancel h
  · exact fun _ _ h => .ownerCancel h
  · exact fun _ _ h => .finish h

theorem State.Loops.spDue (h : s.Loops l) : (s.spDue a).Loops l :=
  .upTo h fun _ _ h => .ifSo (.ifSo h fun h => .update (.update h)) fun h => .spHalt h

/-! ### References -/

theorem State.Loops.mcEnter (h : s.Loops l) : (s.mcEnter n v).Loops l :=
  .ite (.update h) (.ite (.event (.update (.update (.update (.update h)))))
    (.ite (.flagEvent (.update (.update (.update (.update (.update h)))))) (.update (.update h))))

theorem State.Loops.refTick (h : s.Loops l) : s.refTick.Loops l := by
  unfold State.refTick
  dsimp only
  split
  · exact .mcEnter (.ite (.mcEnter (.update h)) h)
  · exact .ite (.mcEnter (.update h)) h

theorem State.Loops.monGo (h : s.Loops l) : (s.monGo k n v).Loops l := by
  refine .ite ?shown (.ite (.update ?shown) (.ite (.update (.update ?shown)) ?shown))
  exact .update (.update (.update h))

theorem State.Loops.refPresence (h : s.Loops l) : (s.refPresence k b).Loops l :=
  .ite h (.ite (.ite (.monGo h) h) (.ite h (.monGo h)))

/-! ### Streams and links -/

theorem State.Loops.strmFinish (h : s.Loops l) : (s.strmFinish o n d).Loops l :=
  match o with
  | none => h
  | some _ => .finish h

theorem State.Loops.admitOn (h : s.Loops l) : (s.admitOn k p b).Loops l := .ifSo h fun h => .update h

theorem State.Loops.strmClaim (h : s.Loops l) : (s.strmClaim tx k).1.Loops l := by
  unfold State.strmClaim
  split
  · exact .ifSo (.asrcClaim h) fun h => .update h
  · exact .update h

theorem State.Loops.strmRelease (h : s.Loops l) : (s.strmRelease tx k).Loops l := by
  refine .update ?_
  split
  · exact .asrcRelease h
  · exact h

theorem State.Loops.strmStart (h : s.Loops l) : (s.strmStart tx k o).Loops l := by
  refine .ite (.strmFinish h) (.ite (.ownerDone h) (.ite (.strmFinish h) ?_))
  split
  · exact .strmFinish (.ifSo h fun h => .flagEvent h)
  · split
    · next hclaim => exact .strmFinish (.of_claim hclaim (.strmClaim h))
    · next hclaim =>
      have held : State.Loops _ l := .of_claim hclaim (.strmClaim h)
      refine .ite (.update (.update (.admitOn (.admitOn (.update (.update held)))))) ?_
      refine .update (.update (.update (.update (.forAll ?_ fun _ _ h => .update h))))
      exact .update (.update (.update (.update (.update (.update held)))))

theorem State.Loops.strmStop (h : s.Loops l) : (s.strmStop tx k o).Loops l :=
  .ite (.strmFinish h) (.ite (.ownerDone h) (.update (.update (.ownerCancel (.update h)))))

theorem State.Loops.strmOff (h : s.Loops l) : (s.strmOff tx k).Loops l := by
  refine .forAll (.forAll (.ownerDone (.update (.ite (.admitOn (.admitOn ?off)) (.ite (.update (.update ?off)) ?off)))) ?_) ?_
  · exact .update (.update (.strmRelease (.update h)))
  · exact fun _ _ h => .ownerCancel h
  · exact fun _ _ h => .finish h

theorem State.Loops.strmSuspend (h : s.Loops l) : (s.strmSuspend tx k).Loops l :=
  .ite h (.ite (.flagEvent (.update (.update h))) (.update (.update (.flagEvent (.update (.update h))))))

theorem State.Loops.strmResume (h : s.Loops l) : (s.strmResume tx k).Loops l := by
  refine .ite h (.ite (.update (.update h)) ?_)
  split
  · next hclaim => exact .of_claim hclaim (.strmClaim (.update (.update h)))
  · next hclaim =>
    have held : State.Loops _ l := .of_claim hclaim (.strmClaim (.update (.update h)))
    exact .ite (.update (.update (.admitOn (.admitOn (.update held))))) (.update (.update (.update held)))

theorem State.Loops.strmShed (h : s.Loops l) : (s.strmShed n b).Loops l :=
  .upTo h fun _ _ h =>
    have one {u : State} {q : Prop} [Decidable q] {tx : Bool} {k : Nat} (h : u.Loops l) :
      State.Loops (if q then u.strmSuspend tx k else u.strmResume tx k) l := .ite (.strmSuspend h) (.strmResume h)
    one (one h)

theorem State.Loops.strmActions (h : s.Loops l) : (s.strmActions tx k).Loops l :=
  .ite (.forAll (.update h) fun _ _ h => .strmStart h)
    (.forAll (.forAll (.update h) fun _ _ h => .ownerCancel h) fun _ _ h => .strmStop h)

theorem State.Loops.strmFollow (h : s.Loops l) : (s.strmFollow tx k).Loops l := by
  refine .ite ?_ h
  split
  · next hclaim => exact .update (.of_claim hclaim (.strmClaim (.strmRelease h)))
  · next hclaim => exact .update (.update (.of_claim hclaim (.strmClaim (.strmRelease h))))

theorem State.Loops.strmProgress (h : s.Loops l) : (s.strmProgress tx k).Loops l := by
  refine .ifSo ?_ fun h => .strmOff h
  split
  · refine .ite ?begun (.ite (.update (.update (.update ?begun))) (.update (.update (.update ?begun))))
    exact .ifSo h fun h => .ownerDone (.update h)
  · exact .ifSo h fun h => .ownerDone (.update h)

theorem State.Loops.netTick (h : s.Loops l) : s.netTick.Loops l :=
  .forAll (.update (.forAll h fun _ _ h => .update h)) fun _ _ h => .strmProgress (.strmFollow (.strmActions h))

theorem State.Loops.txCollect (h : s.Loops l) : (s.txCollect k).Loops l := .ite (.ite (.update h) h) (.ite (.update h) h)

theorem State.Loops.rxBlock (h : s.Loops l) : (s.rxBlock k).1.Loops l := by
  unfold State.rxBlock
  dsimp only
  split
  · exact h
  · exact .ifSo (.ite (.update (.update h)) (.update h)) fun h => .update (.upTo h fun _ _ h => .update h)

theorem State.Loops.portSuspend (h : s.Loops l) : (s.portSuspend k p).Loops l :=
  .ifSo (.update (.flagEvent (.flagEvent (.admitOn (.update (.update h)))))) fun h => .update (.update h)

theorem State.Loops.portFit {ks : List Nat} (h : s.Loops l) : (s.portFit p ks).Loops l := by
  induction ks generalizing s with
  | nil => exact h
  | cons k ks ih => exact .ite h (ih (.portSuspend h))

theorem State.Loops.portResume (h : s.Loops l) : (s.portResume p).Loops l := by
  refine .forAll (.update h) fun e u h => .ite ?_ (.admitOn (.update (.update h)))
  split
  · next hclaim =>
    exact .update (.update (.admitOn (.admitOn (.update (.of_claim hclaim (.strmClaim (.update (.update h))))))))
  · next hclaim => exact .of_claim hclaim (.strmClaim (.update (.update h)))

theorem State.Loops.linkChange (h : s.Loops l) : (s.linkChange p n).Loops l := by
  refine .ite h (.ite (.portFit ?shown) (.ite (.update ?shown) ?shown))
  refine .ifSo ?_ fun h => .update (.update h)
  exact .ite (.update (.update (.flagEvent (.update h)))) (.ite (.update (.update (.flagEvent (.update h)))) (.flagEvent (.update h)))

/-! ### Players -/

theorem State.Loops.playSync (h : s.Loops l) : (s.playSync p).Loops l :=
  .same h (State.playSync_part (g := fun u => u.q.outst) (fun _ _ _ => rfl) s p)
    (State.playSync_part (g := fun u => u.img.act) (fun _ _ _ => rfl) s p)
    (State.playSync_part (g := fun u => u.eng.loops) (fun _ _ _ => rfl) s p)

theorem State.Loops.playStop (h : s.Loops l) : (s.playStop p n).Loops l := by
  unfold State.playStop
  dsimp only
  split
  · exact h
  · refine .playSync ?_
    split
    · exact .finish (.update h)
    · exact .update h

theorem State.Loops.playBegin {x : Option Nat} (h : s.Loops l) : (s.playBegin p n k x o a).Loops l :=
  .playSync (.update (.update (.update (.update (.ifSo h fun h => .flagEvent (.playStop h))))))

theorem State.Loops.msgSample (h : s.Loops l) : (s.msgSample m p).1.Loops l := by
  obtain ⟨x, w, hsample⟩ := s.msgSample_free m p
  rw [hsample]
  exact .update h

theorem State.Loops.playAdvance {x : PlayRun} (h : s.Loops l) : (s.playAdvance p x).1.Loops l := by
  obtain hsame | ⟨n, v, w, hevent⟩ := s.playAdvance_state p x
  · rw [hsame]
    exact h
  · rw [hevent]
    exact .event (.update h)

theorem State.Loops.playSettle {x : PlayRun} (h : s.Loops l) : (s.playSettle p n x).1.Loops l := by
  induction n generalizing s x with
  | zero => exact h
  | succ n ih =>
    unfold State.playSettle
    split
    · exact h
    · exact ih (.playAdvance h)

theorem State.Loops.playGen {x : PlayRun} {ws : List Word} (h : s.Loops l) : (s.playGen p n x ws).1.Loops l := by
  induction n generalizing s x ws with
  | zero => exact h
  | succ n ih =>
    unfold State.playGen
    dsimp only
    split
    · exact ih (.playSettle h)
    · split
      · exact ih (.msgSample (.playSettle h))
      · exact ih (.playSettle h)

theorem State.Loops.playOver (h : s.Loops l) : (s.playOver p).Loops l := by
  unfold State.playOver
  dsimp only
  split
  · exact h
  · refine .ite (.playSync ?_) h
    split
    · exact .finish (.update h)
    · exact .update h

theorem State.Loops.playBlock (h : s.Loops l) : (s.playBlock p).1.Loops l := by
  unfold State.playBlock
  dsimp only
  split
  · exact .playSync (.update (.playGen h))
  · split
    · exact .update h
    · split
      · exact .playOver (.playSync (.update (.playSettle (.playGen h))))
      · exact .update h
  · exact .update h

theorem State.Loops.playFirst (h : s.Loops l) : (s.playFirst p).Loops l := by
  unfold State.playFirst
  dsimp only
  split
  · exact .playOver (.playSync (.update (.playSettle h)))
  · exact h

theorem State.Loops.playShed (h : s.Loops l) : (s.playShed n).Loops l := by
  refine .forAll h fun p u h => ?_
  split
  · exact .ifSo h fun h => .playStop h
  · exact h

theorem State.Loops.playTrig (h : s.Loops l) : (s.playTrig n p c k a).Loops l := by
  refine .ite (.flagEvent (.flagEvent h)) ?_
  split
  · exact .playBegin h
  · exact .flagEvent (.flagEvent h)

theorem State.Loops.playTrigStop (h : s.Loops l) : (s.playTrigStop n p).Loops l := by
  unfold State.playTrigStop
  split
  · exact .ifSo h fun h => .playStop h
  · exact h

/-! ### Triggers -/

theorem State.Loops.commitStops (h : s.Loops l) : (s.commitStops a).Loops l :=
  .forAll h fun _ _ h => .finish (.forAll h fun _ _ h => .playStop h)

theorem State.Loops.trigAssert (h : s.Loops l) : (s.trigAssert n a).Loops l := by
  refine .forAll (.ifSo (.ifSo (.commitStops (.update h)) fun h => .playTrig h) fun h => ?_) fun _ _ h => .resolveCol h
  exact .update (.update h)

theorem State.Loops.trigLetGo (h : s.Loops l) : (s.trigLetGo n a).Loops l := .forAll (.update h) fun _ _ h => .resolveCol h

theorem State.Loops.trigRelease (h : s.Loops l) : (s.trigRelease n a).Loops l :=
  .trigLetGo (.ifSo (.ifSo (.update h) fun h => .playTrigStop h) fun h => .update h)

theorem State.Loops.planeDue (h : s.Loops l) : s.planeDue.Loops l :=
  .forAll (.upTo h fun _ _ h => .ifSo h fun h => .trigRelease h) fun _ _ h => .trigAssert h

theorem State.Loops.suspendSync (h : s.Loops l) : (s.suspendSync a n).Loops l :=
  .upTo h fun _ _ h => .ite (.trigLetGo (.update h)) (.ite (.update h) h)

theorem State.Loops.cinReload (h : s.Loops l) : (s.cinReload a).Loops l :=
  .upTo h fun _ _ h => .ite h (.ite (.update h) (.ite (.update h) (.update h)))

theorem State.Loops.takeCommit (h : s.Loops l) : (s.takeCommit a).Loops l := by
  unfold State.takeCommit
  dsimp only
  split
  on_goal 1 => refine .finish ?_
  all_goals
    refine .resolve (.forAll (.cinReload (.flashEnqueue (.flashEnqueue ?_))) fun _ _ h => .ite (.update (.resolveCol h)) (.resolveCol h))
    exact .update (.update (.update (.update (.update (.update (.copyTable h))))))

/-! ### Time -/

theorem State.Loops.stepTime {x : Int} (h : s.Loops l) : (s.stepTime a x o).Loops l :=
  .forAll (.refPresence (.update (.event (.update (.update (.update h)))))) fun _ _ h => .ifSo h fun h => .update h

theorem State.Loops.stepTick (h : s.Loops l) : (s.stepTick a).Loops l := by
  unfold State.stepTick
  split
  · exact .ite h (.stepTime h)
  · exact h

theorem State.Loops.ptpTick (h : s.Loops l) : s.ptpTick.Loops l := by
  have shown {u : State} (h : u.Loops l) : State.Loops (match u.ptp.done with
      | some (t, amount, r) => if later32 t u.cycle then u
        else { u with ptp := { u.ptp with done := none } }.finish r stDone 0 (leBytes 8 (BitVec.ofInt 64 amount).toNat)
      | none => u) l := by
    split
    · exact .ite h (.finish (.update h))
    · exact h
  refine shown ?_
  split
  · exact .update (.update (.update (.update h)))
  · exact h

/-! ### Analog parts, contacts and power -/

theorem State.Loops.aoTickOne (h : s.Loops l) : (s.aoTickOne n).Loops l :=
  have shut {u : State} {x : Gate} (h : u.Loops l) : (u.aoClose n 0 x).Loops l := .update (.update h)
  .ite (.ite (.update h) (.update h)) (.ite (.ite (.update h) (.ite (.update (.update h)) (.update (.update h))))
    (.ite (.ite (.update h) h) (.ite (.ite (.update h) (shut h)) (.ite (.ite (.ite (.update h) (shut h)) (.ite (.update h) h))
      (.ite (.ite h (.update h)) (.ite (.ite (.update h) (.ite h (shut h))) (.ite (.update h) h)))))))

theorem State.Loops.wake (h : s.Loops l) : s.wake.Loops l := by
  refine .ite (.ite ?told (.update ?told)) h
  exact .ite (.update h) h

theorem State.Loops.cinDebounced (h : s.Loops l) : (s.cinDebounced n k b).Loops l :=
  .ifSo (.ifSo (.ifSo (.update (.update h)) fun h => .flagEvent h) fun h => .cinToTriggers h) fun h => .wake h

theorem State.Loops.cinDueAll (h : s.Loops l) : s.cinDueAll.Loops l := .upTo h fun _ _ h => .ifSo h fun h => .cinDebounced h

theorem State.Loops.shedColumn (h : s.Loops l) : (s.shedColumn a n m).Loops l :=
  have again {u : State} {x : XptCol} (h : u.Loops l) : (u.rerelease a m x).Loops l := .ifSo (.update h) fun h => .update h
  .ite (.ite (again h) (.update h)) (.ite (.ite (again h) (.update h)) h)

theorem State.Loops.setLevel (h : s.Loops l) : (s.setLevel a n).Loops l := by
  refine .ite (.forAll ?shed fun _ _ h => .ifSo h fun h => .commitPatch h) (.ite (.reverseRecord ?shed) ?shed)
  refine .upTo (.strmShed (.playShed (.requad (.upTo (.suspendSync (.update h)) fun _ _ h => .shedColumn h)))) fun _ _ h => ?_
  exact .update (.update (.update h))

theorem State.Loops.enterRun (h : s.Loops l) : (s.enterRun a).Loops l := .ite (.goto h) (.update (.setLevel (.goto h)))

theorem State.Loops.runFromReady (h : s.Loops l) : (s.runFromReady a).Loops l :=
  .forAll (.enterRun h) fun _ _ h => .ite (.update h) h

theorem State.Loops.squallEnter (h : s.Loops l) : (s.squallEnter a n).Loops l := by
  refine .ite ?entered (.setLevel ?entered)
  exact .update (.update (.flagEvent (.goto h)))

theorem State.Loops.takePlan {x : Plan} (h : s.Loops l) : (s.takePlan x).Loops l := by
  refine .ite (.ite (.squallEnter ?taken) (.ite (.setLevel ?taken) ?taken)) (.ite (.setLevel (.flagEvent (.goto ?taken))) ?taken)
  exact .update h

theorem State.Loops.squallTick (h : s.Loops l) : s.squallTick.Loops l := by
  have told : State.Loops (if s.synced then
      { s with pair := { s.pair with
          link := s.pair.link ++ [.power (BitVec.ofNat 4 (s.rd PWR_STATUS.cond)) s.pwr.hot2] } }
    else s) l := .ite (.update h) h
  unfold State.squallTick
  dsimp only
  split
  · exact .ite told (.takePlan told)
  · split
    · exact told
    · exact .ite (.takePlan told) (.ite (.update told) told)

theorem State.Loops.trigState (h : s.Loops l) : s.trigState.Loops l := .ite (.ite (.runFromReady h) (.ite (.wake h) h)) h

theorem State.Loops.nightDuskStep {x : NfRun} (h : s.Loops l) : (s.nightDuskStep x).Loops l := by
  unfold State.nightDuskStep
  dsimp only
  split
  on_goal 1 => refine .finish ?_
  all_goals
    refine .ifSo (.ifSo (.forAll (.duskTick ?_) fun _ _ h => .update (.update (.update h))) fun h => .update h) fun h => .linkChange h
    exact .update (.update (.update h))

theorem State.Loops.nightDue (h : s.Loops l) : (s.nightDue a).Loops l := by
  unfold State.nightDue
  split
  · exact h
  · exact .ite (.requad (.update h)) (.ite (.nightDuskStep h) h)

theorem State.Loops.wakeGates (h : s.Loops l) : (s.wakeGates a).Loops l := by
  unfold State.wakeGates
  dsimp only
  split
  · exact .ite (.update h) (.ifSo (.update (.update (.forAll (.update h) fun _ _ h => .update (.update (.update h))))) fun h => .update h)
  · exact .update h

theorem State.Loops.wakeRun (h : s.Loops l) : (s.wakeRun a).Loops l := by
  refine .forAll (.strmShed (.reverseRecord (.requad (.enterRun ?_)))) fun _ _ h => .finish h
  exact .same h rfl rfl rfl

theorem State.Loops.wakeDue (h : s.Loops l) : (s.wakeDue a).Loops l := by
  unfold State.wakeDue
  split
  · exact h
  · exact .ite (.wakeGates h) (.ite (.wakeRun h) h)

/-! ### The pair -/

theorem State.Loops.orderCheck (h : s.Loops l) : s.orderCheck.Loops l := .ite h (.update h)

theorem State.Loops.attachFail (h : s.Loops l) : s.attachFail.Loops l := by
  refine .ite ?_ (.update (.update (.update (.update (.update h)))))
  split
  on_goal 1 => refine .finish ?_
  all_goals exact .event (.update (.update (.update (.update (.update (.update h))))))

theorem State.Loops.takeLead (h : s.Loops l) : s.takeLead.Loops l := by
  unfold State.takeLead
  exact .eventP (.update (.update (.update (.update (.update h)))))

theorem State.Loops.giveLead (h : s.Loops l) : (s.giveLead a).Loops l := by
  unfold State.giveLead
  dsimp only
  split
  on_goal 1 => refine .finish ?_
  all_goals exact .eventP (.update (.update (.update (.update h))))

theorem State.Loops.roleDue (h : s.Loops l) : (s.roleDue a).Loops l := by
  unfold State.roleDue
  split
  · exact .ite h (.ite (.takeLead h) (.ite (.giveLead h) (.update h)))
  · exact h

theorem State.Loops.busTick (h : s.Loops l) : s.busTick.Loops l := by
  refine .update ?_
  refine .ite (.update ?queued) ?queued
  exact .upTo h fun _ _ h => .ite h (.update h)

theorem State.Loops.silence (h : s.Loops l) : (s.silence a).Loops l := by
  unfold State.silence
  dsimp only
  split
  on_goal 1 => refine .update ?_
  all_goals exact .orderCheck (.ite (.eventP (.update h)) (.eventP (.update h)))

theorem State.Loops.claimTick (h : s.Loops l) : s.claimTick.Loops l :=
  .update (.busTick (.orderCheck (.update (.update (.update (.update h))))))

theorem State.Loops.linkFalls (h : s.Loops l) : s.linkFalls.Loops l := by
  refine .orderCheck (.update (.refPresence (.forAll (.eventP ?_) fun _ _ h => .startTest h)))
  exact .update (.update (.update h))

theorem State.Loops.misTests (h : s.Loops l) : (s.misTests n m k).Loops l := by
  refine .ite ?_ (.ite (.startTest ?tested) ?tested)
  · split
    · exact .ite (.startTest ?tested) (.startTest ?tested)
    · exact ?tested
  · exact .forAll (.forAll h fun _ _ h => .startTest (.startTest h)) fun _ _ h => .startTest h

theorem State.Loops.mismatch (h : s.Loops l) : (s.mismatch n m k).Loops l := by
  refine .ite (.attachFail ?shown) (.ite ?shown ?_)
  · exact .eventP (.update (.update (.update (.update (.update h)))))
  · dsimp only
    split
    on_goal 2 => refine .misTests (.update ?_)
    all_goals exact .update (.eventP (.update (.update (.update (.update (.update h))))))

theorem State.Loops.verdictDue (h : s.Loops l) : (s.verdictDue a).Loops l := by
  unfold State.verdictDue
  split
  · exact .ite (.update h) h
  · exact h

theorem State.Loops.demote (h : s.Loops l) : s.demote.Loops l := by
  refine .ite (.update ?counted) (.update (.update (.update ?counted)))
  exact .ifSo (.update h) fun h => .event (.update h)

theorem State.Loops.decisionDue (h : s.Loops l) : (s.decisionDue a).Loops l := by
  unfold State.decisionDue
  split
  · exact .ite h (.ifSo (.update (.update h)) fun h => .demote h)
  · exact h

theorem State.Loops.attachEnter (h : s.Loops l) : s.attachEnter.Loops l := by
  unfold State.attachEnter
  split
  · exact .ite (.update (.update (.update (.forAll h fun _ _ h => .finish h)))) h
  · exact h

theorem State.Loops.cutover (h : s.Loops l) : (s.cutover a).Loops l := by
  unfold State.cutover
  split
  · refine .ite h ?_
    dsimp only
    split
    on_goal 1 => refine .finish ?_
    all_goals exact .ite (.update h) (.update (.update (.goto (.update (.update (.update h))))))
  · exact h

theorem State.Loops.lockstepEnds (h : s.Loops l) : s.lockstepEnds.Loops l :=
  .ite (.update (.update (.update (.update (.event (.update h)))))) (.ite (.update (.update (.update h))) h)

theorem State.Loops.attachEnds (h : s.Loops l) : s.attachEnds.Loops l := by
  refine .ite ?_ h
  dsimp only
  split
  on_goal 1 => refine .finish ?_
  all_goals exact .ifSo (.update h) fun h => .update (.update h)

theorem State.Loops.pairDue (h : s.Loops l) : (s.pairDue a).Loops l :=
  .ite h (.decisionDue (.verdictDue (.cutover (.attachEnter (.attachEnds (.lockstepEnds (.roleDue (.ifSo h fun h => .silence h))))))))

theorem State.Loops.compareFrames (h : s.Loops l) : s.compareFrames.Loops l := by
  unfold State.compareFrames
  dsimp only
  split
  · exact .update h
  · refine .ite (.mismatch h) ?_
    split
    · exact .mismatch h
    · exact .ite (.mismatch h) (.ite (.mismatch h) (.update h))

theorem State.Loops.pairTick (h : s.Loops l) : s.pairTick.Loops l := by
  refine .ite h (.claimTick (.update (.ifSo (.ifSo (.ifSo (.ifSo (.ifSo ?_ fun h => .compareFrames h) fun h => ?_) fun h => ?_) fun h => ?_)
    fun h => .update h)))
  · exact .update (.forAll h fun _ _ h => .update h)
  · exact .update (.update h)
  · exact .update (.update (.update h))
  · exact .flagEvent (.update h)

/-! ### Aborts -/

theorem State.Loops.stopRunning (h : s.Loops l) : (s.stopRunning r n).Loops l := by
  unfold State.stopRunning
  split
  · exact .playStop h
  · rw [h.findOut]
    exact h

theorem State.Loops.dropFetched (h : s.Loops l) : (s.dropFetched r).Loops l :=
  .ite (.same h rfl rfl rfl) (.ite (.same h rfl rfl rfl) (.same h rfl rfl rfl))

theorem State.Loops.takeAbort {x : AbortReq} (h : s.Loops l) : (s.takeAbort x).Loops l := by
  unfold State.takeAbort
  dsimp only
  rw [h.findOut]
  dsimp only
  split
  · exact .complete (.complete (.dropFetched h))
  · split
    · exact .ite (.complete h) (.same h rfl rfl rfl)
    · exact .complete h

theorem State.Loops.abortTick (h : s.Loops l) : s.abortTick.Loops l := .forAll (.same h rfl rfl rfl) fun _ _ h => .takeAbort h

theorem State.Loops.drainTick (h : s.Loops l) : s.drainTick.Loops l := by
  have withWaited {u : State} {x : SMap Nat} (h : u.Loops l) : State.Loops { u with q := { u.q with waited := x } } l := .same h rfl rfl rfl
  refine .upTo (.forAll (.same h rfl rfl rfl) fun _ _ h => .stopRunning h) fun _ _ h => .ifSo h fun h => ?_
  exact withWaited (.update (.update h))

/-! ### The stages of a tick -/

theorem State.Loops.decStage {x : List SrcSample} (h : s.Loops l) : (s.decStage x).Loops l :=
  .forAll h fun _ _ h => .ifSo h fun h => .decOutput h

theorem State.Loops.playStage {ps : List Nat} (h : s.Loops l) : (s.playStage ps).1.Loops l := by
  induction ps generalizing s with
  | nil => exact h
  | cons p ps ih => exact ih (.playBlock h)

theorem State.Loops.genStage {gs : List Nat} (h : s.Loops l) : (s.genStage gs).1.Loops l := by
  induction gs generalizing s with
  | nil => exact h
  | cons g gs ih => exact ih (.genBlock h)

theorem State.Loops.rxStage {ks : List Nat} (h : s.Loops l) : (s.rxStage ks).1.Loops l := by
  induction ks generalizing s with
  | nil => exact h
  | cons k ks ih => exact ih (.ifSo (.rxBlock h) fun h => .update h)

theorem State.Loops.mapEng {f : EngState → EngState} (hf : ∀ e, (f e).loops = e.loops) (h : s.Loops l) : (s.mapEng f).Loops l :=
  .same h rfl rfl (hf _)

theorem State.Loops.captureStage {x : List SrcSample} (h : s.Loops l) : (s.captureStage x).Loops l := by
  unfold State.captureStage
  refine .mapEng ?_ (.rxStage (.genStage (.playStage (.decStage h))))
  exact fun _ => EngState.loops_congr rfl rfl rfl

theorem State.Loops.dueBefore (h : s.Loops l) : (s.dueBefore a).Loops l := by
  have units : State.Loops (((((s.actDue a).syncDue a).decDue a).spDue a).aoDue a).cinDueAll.patchDue.xptDue.meterDue l :=
    .meterDue (.xptDue (.patchDue (.cinDueAll (.upTo (.spDue (.decDue (.forAll (.actDue h) fun _ _ h => .paramSyncDone h)))
      fun _ _ h => .ifSo h fun h => .update h))))
  have streams : State.Loops (Machine.upTo 128 (fun k st => if st.txStopDue k a then st.strmOff true k else st)
      ((Machine.upTo 4 (fun n st => st.captureEnd n)
        (((((s.actDue a).syncDue a).decDue a).spDue a).aoDue a).cinDueAll.patchDue.xptDue.meterDue).planeRamps.playDue a)) l :=
    .upTo (.forAll (.planeRamps (.upTo units fun _ _ h => .ifSo h fun h => .captureDone h)) fun _ _ h => .ifSo h fun h => .playFirst h)
      fun _ _ h => .ifSo h fun h => .strmOff h
  exact .resolve (.planeDue (.wakeDue (.nightDue (.commitStops (.ifSo (.ifSo streams fun h => .stepTick h) fun h => .takeCommit h)))))

theorem State.Loops.laneStandIn (h : s.Loops l) : (s.laneStandIn n).Loops l := by
  refine .ite h ?_
  split
  · exact .update (.update (.update h))
  · exact .raiseCond h

theorem State.Loops.coefError {x : CoefErr} (h : s.Loops l) : (s.coefError x).Loops l := by
  refine .ite (.ite (.event (.ite ?tested (.update ?tested))) ?tested) (.update h)
  exact .startTest (.update h)

theorem State.Loops.xptStage {x : List LaneErr} {y : List CoefErr} (h : s.Loops l) : (s.xptStage x y).Loops l := by
  unfold State.xptStage
  refine .forAll (.forAll (.mapEng ?_ (.forAll h fun _ _ h => ?_)) fun _ _ h => .upTo h fun _ _ h => ?_) fun _ _ h => .coefError h
  · exact fun _ => EngState.loops_congr rfl rfl rfl
  · exact .startTest (.laneStandIn (.event (.update h)))
  · exact .update (.update (.update h))

theorem State.Loops.watch (h : s.Loops l) : s.watch.Loops l := by
  unfold State.watch
  exact .upTo (.upTo (.forAll h fun _ _ h => .update (.update h)) fun _ _ h => .captureBlock h) fun _ _ h => .txCollect h

theorem State.Loops.emitStage {x : SMap Word} (h : s.Loops l) : (s.emitStage x).Loops l := by
  unfold State.emitStage
  refine .upTo (.mapEng ?_ h) fun _ _ h => .ite h (.update (.update h))
  exact fun _ => EngState.loops_congr rfl rfl rfl

theorem State.Loops.fillQuads {x : Nat → Nat → Word} (h : s.Loops l) : (s.fillQuads b x).Loops l :=
  .forAll h fun _ _ h => .setMemWords h

theorem State.Loops.moved {x y z xi os : SMap Word} (h : s.Loops (x, y, z)) :
    (s.mapEng (fun e => { e with xptIn := xi, osOut := os, loop1 := os, loop2 := e.loop1, loop3 := e.loop2 })).Loops (os, x, y) := by
  obtain ⟨hout, hact, hloops⟩ := h
  obtain ⟨hx, hy, -⟩ := EngState.loops_eq_iff.mp hloops
  exact ⟨hout, hact, EngState.loops_eq_iff.mpr ⟨rfl, hx, hy⟩⟩

/-- The fabric window moves the store on by one block. -/
theorem State.Loops.fabric {x y z xi os : SMap Word} (h : s.Loops (x, y, z)) : (s.fabric xi os).Loops (os, x, y) := by
  unfold State.fabric
  exact .moved (.fillQuads (.fillQuads (.emitStage h)))

/-! ### What may reset the device -/

/-- The rule of the loopback store where the engine still runs. -/
def State.Ticks (s : State) (l : SMap Word × SMap Word × SMap Word) : Prop := s.engineRuns = true → s.Loops l

theorem State.engineRuns_of_rd (h : t.rd SYS_STATE.state = s.rd SYS_STATE.state) : t.engineRuns = s.engineRuns := by
  unfold State.engineRuns State.op
  rw [h]

theorem State.Ticks.of_boot (h : s.op = .boot) : s.Ticks l := by
  intro hruns
  unfold State.engineRuns at hruns
  rw [h] at hruns
  exact nomatch hruns

theorem State.Ticks.same (h : s.Ticks l) (hop : t.rd SYS_STATE.state = s.rd SYS_STATE.state) (hl : s.Loops l → t.Loops l) : t.Ticks l := by
  intro hruns
  rw [State.engineRuns_of_rd hop] at hruns
  exact hl (h hruns)

theorem State.Ticks.update {mem coef free xpt dsp ms flt pair ref log}
    (h : s.Ticks l) : State.Ticks { s with
      mem := mem, coef := coef, free := free, xpt := xpt, dsp := dsp, ms := ms, flt := flt, pair := pair, ref := ref, log := log } l :=
  h.same rfl .update

theorem State.Ticks.setReg (h : s.Ticks l) (hn : n ≠ SYS_STATE) : (s.setReg n v).Ticks l :=
  h.same (State.rd_setReg_other s v hn.symm) .update

theorem State.Ticks.wr {f : Fld} (h : s.Ticks l) (hf : f.addr ≠ SYS_STATE) : (s.wr f n).Ticks l := .setReg h hf

theorem State.Ticks.ite {q : Prop} [Decidable q] (hs : s.Ticks l) (ht : t.Ticks l) : (if q then s else t).Ticks l := by
  split
  · exact hs
  · exact ht

theorem State.Ticks.forAll {α : Type} {xs : List α} {f : α → State → State} (h : s.Ticks l)
    (hf : ∀ x t, State.Ticks t l → (f x t).Ticks l) : (forAll xs f s).Ticks l := by
  induction xs generalizing s with
  | nil => exact h
  | cons x xs ih => exact ih (hf x s h)

theorem State.Ticks.event (h : s.Ticks l) : (s.event n v w).Ticks l := h.same (State.event_rd _ _ _ _ (by decide)) .event

theorem State.Ticks.eventP {x y : Option Nat} (h : s.Ticks l) : (s.eventP n x y).Ticks l := by
  cases x <;> cases y <;> exact .event (.update (.update h))

theorem State.Ticks.regrade (h : s.Ticks l) : s.regrade.Ticks l :=
  .ite h (.event (h.same (State.rd_wr_apart s _ (by decide) (by decide)) .update))

theorem State.Ticks.raiseCond (h : s.Ticks l) : (s.raiseCond n k).Ticks l := .ite h (.ite (.regrade (.update h)) (.update h))

theorem State.Ticks.startTest {x : TestKind} (h : s.Ticks l) : (s.startTest x n).Ticks l :=
  .ite (.update h) (.ite (.ite (.update (.update (.event h))) (.update (.event h))) (.update h))

theorem State.Ticks.setAstate (h : s.Ticks l) : (s.setAstate n).Ticks l :=
  State.Ticks.same (.wr h (by decide)) (State.rd_wr_apart _ _ (by decide) (by decide)) .update

theorem State.Ticks.monGo (h : s.Ticks l) : (s.monGo k n v).Ticks l := by
  have hk : REF_MON k ≠ SYS_STATE := by
    unfold REF_MON SYS_STATE
    omega
  refine .ite ?shown (.ite (.update ?shown) (.ite (.update (.update ?shown)) ?shown))
  exact .update (.wr (.wr h hk) hk)

theorem State.Ticks.refPresence (h : s.Ticks l) : (s.refPresence k b).Ticks l :=
  .ite h (.ite (.ite (.monGo h) h) (.ite h (.monGo h)))

theorem State.Ticks.linkFalls (h : s.Ticks l) : s.linkFalls.Ticks l := by
  refine .ite ?fallen (.update ?fallen)
  refine .update (.refPresence (.forAll (.eventP ?_) fun _ _ h => .startTest h))
  exact .update (.update (.update h))

/-! ### Steps of the ladder -/

theorem State.deviceReset_op (s : State) (c : Nat) : (s.deviceReset c).op = .boot := State.toBoot_op

theorem State.rd_withBootPair (s : State) (b : BootState) (p : PairState) (f : Fld) :
    ({ s with boot := b, pair := p } : State).rd f = s.rd f := rfl

theorem State.railsOff_op (s : State) : s.railsOff.op = .boot := by
  unfold State.railsOff State.op
  dsimp only
  rw [State.rd_withBootPair, State.rd_wr_apart _ _ (by decide) (by decide), State.bootState_rd (by decide) (by decide)]
  decide

theorem State.takeStep_op (s : State) (n f : Nat) : (s.takeStep n f).op = .boot := by
  unfold State.takeStep
  dsimp only
  split
  · exact State.deviceReset_op _ _
  · split
    · exact State.deviceReset_op _ _
    · exact State.railsOff_op _

theorem State.Ticks.hold (h : s.Ticks l) : (s.hold n).Ticks l := by
  have hn : CLU_STATUS n ≠ SYS_STATE := by
    unfold CLU_STATUS SYS_STATE
    omega
  refine .ite (.update (.wr ?held hn)) (.ite (.update ?held) ?held)
  exact .update (.event h)

theorem State.Ticks.autoStep (h : s.Ticks l) : (s.autoStep n k).Ticks l :=
  .ite (.ite h (.raiseCond (.event (.update h)))) (.of_boot (State.takeStep_op _ _ _))

theorem State.Ticks.funcReinit (h : s.Ticks l) : (s.funcReinit n).Ticks l := by
  refine .ite (.update h) (.ite (.autoStep ?held) ?held)
  exact .hold (.ite (.update (.setAstate h)) h)

theorem State.Ticks.reinitTick (h : s.Ticks l) : s.reinitTick.Ticks l := by
  unfold State.reinitTick
  split
  · exact .ite h (.funcReinit (.update (.setAstate h)))
  · exact h

/-! ### Fences -/

theorem State.Ticks.takeSpare (h : s.Ticks l) : (s.takeSpare i n b).Ticks l := by
  have hi : XPT_SPARE i ≠ SYS_STATE := by
    unfold XPT_SPARE SYS_STATE
    omega
  exact .wr (.wr (.wr h hi) hi) hi

theorem State.Ticks.spareTick (h : s.Ticks l) : s.spareTick.Ticks l := by
  have hi (i : Nat) : XPT_SPARE i ≠ SYS_STATE := by
    unfold XPT_SPARE SYS_STATE
    omega
  refine .forAll (.forAll (.forAll h fun i _ h => .ite (.setReg h (hi i)) h) fun _ _ h => ?_) fun _ _ h => .ite (.update h) h
  split
  · exact .raiseCond (.update (.update (.takeSpare h)))
  · exact h

theorem State.Ticks.fenceWord {x : TestKind} (h : s.Ticks l) : (s.fenceWord x m n k).Ticks l := by
  refine .ite (.ite (.raiseCond (.event (.update h))) (.event (.update h))) ?_
  refine .ite (.startTest (.funcReinit (.update (.raiseCond (.update ?lost))))) (.raiseCond (.update ?lost))
  split
  · exact .update h
  · exact .update h
  · exact .update h

theorem State.Ticks.fenceOne {x : TestKind} (h : s.Ticks l) : (s.fenceOne x n k).Ticks l := by
  cases x with
  | lane =>
    have hr : XPT_FENCE (n / 32) ≠ SYS_STATE := by
      unfold XPT_FENCE SYS_STATE
      omega
    refine .ite h ?_
    dsimp only
    split
    · exact .update (.update (.raiseCond (.eventP (.takeSpare (.setReg h hr)))))
    · exact .raiseCond (.eventP (.setReg h hr))
  | bank => exact .fenceWord h
  | coef => exact .fenceWord h
  | dramRow => exact .fenceWord h
  | core => exact .ite (.raiseCond (.update h)) (.startTest (.funcReinit (.update (.raiseCond (.update h)))))
  | link =>
    refine .ite (.linkFalls ?narrowed) ?narrowed
    exact .update (.raiseCond (.update h))
  | portLoop => exact .raiseCond (.update h)
  | conv => exact .ite (.raiseCond (.update h)) (.raiseCond (.update h))

theorem State.Ticks.fenceAll (h : s.Ticks l) : s.fenceAll.Ticks l := .forAll (.update h) fun _ _ h => .fenceOne h

theorem State.Ticks.releaseHeld (h : s.Ticks l) : s.releaseHeld.Ticks l := by
  unfold State.releaseHeld
  split
  · exact h
  · exact .ite h (.of_boot (State.takeStep_op _ _ _))

/-! ### The tick -/

theorem State.Loops.commits {x : OpState} (h : s.Loops l) : (s.commits x).Ticks l := by
  have queues : State.Loops (s.commitCmds.commitPatchQueues.commitXptQueue.paramTick.actTick.decTick.spTick) l :=
    .spFrames (.upTo (.forAll (.actTick (.withQuads (.commitXptQueue (.commitPatchQueues (.forAll h fun _ _ h => .commitWith h)))))
      fun _ _ h => .decTickOne h) fun _ _ h => .spProgress (.spActions h))
  have parts : State.Loops (s.commitCmds.commitPatchQueues.commitXptQueue.paramTick.actTick.decTick.spTick.trkTick.tmrTick.gainTick.gpioTick) l :=
    .update (.upTo (.upTo (.forAll queues fun _ _ h => .trkTickOne h) fun _ _ h => .ite (.update h) h) fun _ _ h => .ite (.update h) h)
  unfold State.commits
  refine .regrade (.releaseHeld (.reinitTick (.spareTick (.fenceAll fun _ => .forAll (.squallTick (.trigState ?_)) fun _ _ h => .commitWith h))))
  refine .forAll (.netTick (.ptpTick (.refTick (.duskTick (.upTo (.upTo parts ?_) ?_))))) fun _ _ h => .portResume h
  · exact fun _ _ h => .aoTickOne h
  · exact fun _ _ h => .ifSo h fun h => .genTickOne h

theorem State.Loops.newCycle (h : s.Loops l) : (s.riseCycle.passTime v).newCycle.Loops l := by
  have risen : (s.riseCycle.passTime v).Loops l := .update (.update (.update (.ite (.update (.update h)) (.update h))))
  refine .meterTick (.forAll (.withQuads (.mapEng ?_ ?_)) fun _ _ h => .ite h (.update h))
  · exact fun _ => EngState.loops_congr rfl rfl rfl
  · exact risen.same rfl rfl rfl

/-- What follows the commits leaves the store as the fabric window has moved it. -/
theorem State.Loops.tickFrom {x y z xi os : SMap Word} {st : OpState} {lanes : List LaneErr} {errs : List CoefErr} (h : s.Loops (x, y, z)) :
    (s.tickFrom st xi os lanes errs v).Ticks (os, x, y) := by
  unfold State.tickFrom
  dsimp only
  split
  · next hstops =>
    intro hruns
    rw [hruns] at hstops
    exact nomatch hstops
  · next hruns =>
    have committed : State.Loops (((s.riseCycle.passTime v).newCycle).commits st) (x, y, z) :=
      (State.Loops.newCycle h).commits (by simpa using hruns)
    refine fun _ => .regrade (.pairTick (.forAll (.forAll (.drainTick (.abortTick (.forAll (.watch (.xptStage (.fabric committed)))
      ?_))) ?_) ?_))
    · exact fun _ _ h => .finish h
    · exact fun _ _ h => .finish h
    · exact fun _ _ h => .ite (.mapOut h) (.finish h)

theorem State.Loops.tick {x y z : SMap Word} {caps : List SrcSample} {lanes : List LaneErr} {errs : List CoefErr} (h : s.Loops (x, y, z)) :
    ∃ os, (s.tick caps lanes errs v).Ticks (os, x, y) := by
  refine ⟨s.results true, ?_⟩
  have due : State.Loops (((s.clearSent.dlqDue.captureStage caps).dueBefore (s.cycle + 1)).pairDue (s.cycle + 1)) (x, y, z) :=
    .pairDue (.dueBefore (.captureStage (.dlqDue (.update h))))
  unfold State.tick
  dsimp only
  split
  · exact .tickFrom due
  · next hstops => exact fun hruns => absurd hruns hstops

theorem State.outrank_eq (h : s.Loops l) (hreset : s.boot.resetReq = none) : s.outrank a = s.faultHold := by
  have hreq : s.faultHold.boot.resetReq = none := by
    unfold State.faultHold
    split
    · rw [State.goto_boot, hreset]
    · exact hreset
  have hheld : s.faultHold.Loops l := .ite (.goto h) h
  unfold State.outrank
  dsimp only
  rw [hreq, hheld.outst]
  exact ite_self _

theorem exec_engineTick {cs : List SrcSample} {ls : List LaneErr} {es : List CoefErr} {ns : Word} (hruns : s.engineRuns = true)
    (hact : s.img.act = none) : exec (.engineTick cs ls es ns) s = .next (
      if !(s.outrank (s.cycle + 1)).engineRuns then s.outrank (s.cycle + 1)
      else match (s.outrank (s.cycle + 1)).fullDue (s.cycle + 1) with
        | some x => if (s.outrank (s.cycle + 1)).op = .ready then (s.outrank (s.cycle + 1)).stopTick x
            else ((s.outrank (s.cycle + 1)).fullRefused x).tick cs ls es ns
        | none => (s.outrank (s.cycle + 1)).tick cs ls es ns) := by
  have hgo : ¬ (!s.engineRuns || s.tickStopped) = true := by
    unfold State.tickStopped
    rw [hruns, hact]
    decide
  exact congrArg Host.Outcome.next (if_neg hgo)

theorem does_engineTick {cs : List SrcSample} {ls : List LaneErr} {es : List CoefErr} {ns : Word} (hruns : s.engineRuns = true)
    (hact : s.img.act = none) (hreset : s.boot.resetReq = none) (hout : s.q.outst = []) : Does (.engineTick cs ls es ns) s fun t =>
      t.engineRuns = true → t.eng.loop2 = s.eng.loop1 ∧ t.eng.loop3 = s.eng.loop2 := by
  have h : s.Loops s.eng.loops := ⟨hout, hact, rfl⟩
  have hheld : s.faultHold.Loops s.eng.loops := .ite (.goto h) h
  have hfull : s.faultHold.fullDue (s.cycle + 1) = none := by
    unfold State.fullDue
    rw [hheld.act]
  refine ⟨_, exec_engineTick hruns hact, ?_⟩
  rw [State.outrank_eq h hreset, hfull]
  dsimp only
  split
  · next hstops =>
    intro ht
    rw [ht] at hstops
    exact nomatch hstops
  · intro ht
    obtain ⟨os, htick⟩ := State.Loops.tick (v := ns) (caps := cs) (lanes := ls) (errs := es) hheld
    obtain ⟨-, -, hloops⟩ := htick ht
    exact (EngState.loops_eq_iff.mp hloops).2

theorem exec_engineTick_idle {cs : List SrcSample} {ls : List LaneErr} {es : List CoefErr} {ns : Word}
    (h : s.engineRuns = false ∨ s.tickStopped = true) : exec (.engineTick cs ls es ns) s = .next s :=
  congrArg Host.Outcome.next (if_pos (by obtain h | h := h <;> rw [h] <;> simp))

end Sys2Proof.Machine

/-! ## Players, the message scan, generators, zones and the loopback of a tick -/

namespace Sys2Proof.Machine

/-- Settles O48: a case per clause, each from the command's own lemmas. -/
theorem playersGeneratorsZones : Obligations.PlayersGeneratorsZones := by
  unfold Obligations.PlayersGeneratorsZones
  intro s
  refine ⟨?first, ?firstIdle, ?segment, ?idle, ?underrun, ?items, ?tables, ?round, ?config, ?configLocked, ?segmentEnd, ?segmentEndIdle,
    ?zone, ?zoneIdle, ?tick, ?tickIdle⟩
  case first => exact fun p r hr hb hd => does_playerFirstSample hr hb hd
  case firstIdle => exact fun p h => exec_playerFirstSample_idle h
  case segment =>
    exact fun p r hr hlive hs he hn => ⟨does_chainStepAdvance_play hr hlive hs he hn, does_chainStepAdvance_silence hr hlive hs he hn⟩
  case idle => exact fun p hr => ⟨exec_chainStepAdvance_idle hr, exec_playerUnderrun_idle hr⟩
  case underrun => exact fun p r hr hlive hs hp => does_playerUnderrun hr hlive hs hp
  case items =>
    exact fun m => ⟨does_scanVerify_head m, does_scanVerify_data m, does_scanVerify_headFails m, does_scanVerify_dataFails m⟩
  case tables => exact does_scanVerify_table
  case round => exact does_scanPhaseEnd
  case config =>
    exact fun m g v hlock hty => ⟨does_genEnableWrite_open hlock hty, does_genEnableWrite_running hlock hty⟩
  case configLocked => exact fun m g v hlock hnew => does_genEnableWrite_locked hlock hnew
  case segmentEnd => exact fun g hon hty hpos hfits => does_genSegmentEnd hon hty hpos hfits
  case segmentEndIdle => exact fun g h => exec_genSegmentEnd_idle h
  case zone => exact fun z e hen hg hs hd => does_visUpdate hen hg hs hd rfl
  case zoneIdle => exact fun z e h => exec_visUpdate_idle h
  case tick => exact fun cs ls es ns hruns hact hreset hout => does_engineTick hruns hact hreset hout
  case tickIdle => exact fun cs ls es ns h => exec_engineTick_idle h

end Sys2Proof.Machine

/-! ## Write-backs, Wisp, scrub, Dusk exits and the flash queue -/

namespace Sys2Proof.Machine

-- One theorem after another: elaborated side by side, those that wait for the kernel each hold a thread, and memory is bounded.
set_option Elab.async false

section

variable {α : Type} {s t : State} {l : List Nat}

/-! ### Entries of a sparse map -/

theorem SMap.find_insert_same (m : SMap α) (k : Nat) (v : α) : SMap.find (SMap.insert k v m) k = some v := by
  induction m with
  | nil => exact if_pos rfl
  | cons p m ih =>
    unfold SMap.insert
    split
    · exact if_pos rfl
    · split
      · exact if_pos rfl
      · next hne => exact (if_neg (Ne.symm hne)).trans ih

theorem SMap.find_erase_same (m : SMap α) (k : Nat) : SMap.find (SMap.erase k m) k = none := by
  induction m with
  | nil => rfl
  | cons p m ih =>
    unfold SMap.erase
    split
    · exact ih
    · next hne => exact (if_neg hne).trans ih

/-! ### Write-backs -/

theorem does_eccWriteback (a : Word) : Does (.eccWriteback a) s fun t =>
    (∀ k, k ∈ t.ms.writeback ↔ k ∈ s.ms.writeback ∧ k ≠ a.toNat) ∧ t = { s with ms := { s.ms with writeback := t.ms.writeback } } :=
  ⟨_, rfl, fun k => by simp, rfl⟩

/-! ### Wisp -/

variable {m : Fin 6} {w : WispRun}

/-- Redirection of a memory ends (R182 step 4). -/
def State.wispEnded (s : State) (m : Nat) : State := { s with ms := { s.ms with wisp := SMap.erase m s.ms.wisp } }

theorem State.find_wispEnded (s : State) (m : Nat) : SMap.find (s.wispEnded m).ms.wisp m = none := SMap.find_erase_same _ m

theorem State.OnlyRegs.ofWithMs {x : MemState} (h : ({ s with ms := x } : State).OnlyRegs t l) : s.OnlyRegs { t with ms := s.ms } l :=
  ⟨h.1, congrArg (fun u : State => { u with ms := s.ms }) h.2⟩

theorem State.isSet_withMs (s : State) (x : MemState) (f : Fld) : ({ s with ms := x } : State).isSet f = s.isSet f := rfl

theorem State.wr_withMs (s : State) (x : MemState) (f : Fld) (v : Nat) :
    ({ s with ms := x } : State).wr f v = { s.wr f v with ms := x } := rfl

theorem MEM_WISP_POS.region_apart_passes (n : Nat) : (MEM_WISP_POS.region n).apart (MEM_WISP_POS.passes n) := .inr (.inr (by simp))

theorem MEM_WISP_POS.passes_apart_region (n : Nat) : (MEM_WISP_POS.passes n).apart (MEM_WISP_POS.region n) := .inr (.inl (by simp))

theorem wispRegions_le (m : Nat) : wispRegions m ≤ 8192 := by
  unfold wispRegions
  split <;> decide

theorem does_wispAbandon (h : SMap.find s.ms.wisp m.val = some w) : Does (.wispAbandon m) s fun t =>
    SMap.find t.ms.wisp m.val = some { w with abandoned := true } ∧ t = { s with ms := { s.ms with wisp := t.ms.wisp } } := by
  refine ⟨{ s with ms := { s.ms with wisp := SMap.insert m.val { w with abandoned := true } s.ms.wisp } }, ?_,
    SMap.find_insert_same _ _ _, rfl⟩
  show execWispAbandon m s = _
  unfold execWispAbandon
  rw [h]

/-- What the end of a restore does to the pointer, by whether the march was abandoned and whether the memory is at its end. -/
theorem exec_wispRestoreDone (h : SMap.find s.ms.wisp m.val = some w) : exec (.wispRestoreDone m) s =
    if w.abandoned then .next (s.wispEnded m.val)
    else if s.rd (MEM_WISP_POS.region m.val) + 1 ≥ wispRegions m.val then
      .next (((s.wispEnded m.val).wr (MEM_WISP_POS.region m.val) 0).wrapInc (MEM_WISP_POS.passes m.val) 1)
    else .next ((s.wispEnded m.val).wr (MEM_WISP_POS.region m.val) (s.rd (MEM_WISP_POS.region m.val) + 1)) := by
  show execWispRestoreDone m s = _
  unfold execWispRestoreDone
  rw [h]
  rfl

theorem does_wispRestoreDone_abandoned (h : SMap.find s.ms.wisp m.val = some w) (ha : w.abandoned = true) :
    Does (.wispRestoreDone m) s fun t =>
      SMap.find t.ms.wisp m.val = none ∧ t = { s with ms := { s.ms with wisp := t.ms.wisp } } :=
  ⟨_, (exec_wispRestoreDone h).trans (if_pos ha), s.find_wispEnded _, rfl⟩

theorem does_wispRestoreDone_passEnd (h : SMap.find s.ms.wisp m.val = some w) (ha : w.abandoned = false)
    (hend : wispRegions m.val ≤ s.rd (MEM_WISP_POS.region m.val) + 1) : Does (.wispRestoreDone m) s fun t =>
      SMap.find t.ms.wisp m.val = none ∧ t.rd (MEM_WISP_POS.region m.val) = 0 ∧
        t.rd (MEM_WISP_POS.passes m.val) = (s.rd (MEM_WISP_POS.passes m.val) + 1) % 2 ^ (MEM_WISP_POS.passes m.val).width ∧
        s.OnlyRegs { t with ms := s.ms } [MEM_WISP_POS m.val] := by
  have hexec := ((exec_wispRestoreDone h).trans (if_neg (by simp [ha]))).trans (if_pos hend)
  refine ⟨_, hexec, s.find_wispEnded _, ?region, ?passes, ?only⟩
  case region =>
    unfold State.wrapInc
    rw [State.rd_wr_apart _ _ (MEM_WISP_POS.passes_apart_region _) (by simp), State.rd_wr_same _ _ _ (by simp), Nat.zero_mod]
  case passes =>
    unfold State.wrapInc
    rw [State.rd_wr_same _ _ _ (by simp), State.rd_wr_apart _ _ (MEM_WISP_POS.region_apart_passes _) (by simp)]
    rfl
  case only =>
    have hmem := List.mem_singleton_self (MEM_WISP_POS m.val)
    exact .ofWithMs (.wr (f := MEM_WISP_POS.passes m.val) (.wr (f := MEM_WISP_POS.region m.val) (.refl _ _) 0 hmem) _ hmem)

theorem does_wispRestoreDone_next (h : SMap.find s.ms.wisp m.val = some w) (ha : w.abandoned = false)
    (hlt : s.rd (MEM_WISP_POS.region m.val) + 1 < wispRegions m.val) : Does (.wispRestoreDone m) s fun t =>
      SMap.find t.ms.wisp m.val = none ∧ t.rd (MEM_WISP_POS.region m.val) = s.rd (MEM_WISP_POS.region m.val) + 1 ∧
        t.rd (MEM_WISP_POS.passes m.val) = s.rd (MEM_WISP_POS.passes m.val) ∧
        s.OnlyRegs { t with ms := s.ms } [MEM_WISP_POS m.val] := by
  have hexec := ((exec_wispRestoreDone h).trans (if_neg (by simp [ha]))).trans (if_neg (Nat.not_le.mpr hlt))
  have hfits : s.rd (MEM_WISP_POS.region m.val) + 1 < 2 ^ 13 := hlt.trans_le (wispRegions_le _)
  exact ⟨_, hexec, s.find_wispEnded _, State.rd_wr_fits _ _ (by simp) hfits,
    State.rd_wr_apart _ _ (MEM_WISP_POS.region_apart_passes _) (by simp),
    .ofWithMs (.wr (.refl _ _) _ (List.mem_singleton_self _))⟩

/-! ### Dusk exits and the scrub -/

/-- A memory begins to serve accesses (R185). -/
def State.woken (s : State) (m : Nat) : State := { s with ms := { s.ms with waking := s.ms.waking.filter (· != m) } }

theorem State.mem_woken {k m : Nat} : k ∈ (s.woken m).ms.waking ↔ k ∈ s.ms.waking ∧ k ≠ m := by
  show k ∈ List.filter _ _ ↔ _
  simp

theorem exec_duskExitReady {m : Fin 5} (h : m.val ∈ s.ms.waking) :
    exec (.duskExitReady m) s = .next ((s.woken m.val).wr ⟨MEM_STATUS, 16 + m.val, 1⟩ 0) := by
  show execDuskExitReady m s = _
  unfold execDuskExitReady
  rw [if_pos h]
  dsimp only
  rw [State.wr_ms]
  exact congrArg Host.Outcome.next (s.wr_withMs _ _ _).symm

theorem does_duskExitReady {m : Fin 5} (h : m.val ∈ s.ms.waking) : Does (.duskExitReady m) s fun t =>
    t.rd ⟨MEM_STATUS, 16 + m.val, 1⟩ = 0 ∧ m.val ∉ t.ms.waking ∧ (∀ k, k ≠ m.val → (k ∈ t.ms.waking ↔ k ∈ s.ms.waking)) ∧
      s.OnlyRegs { t with ms := s.ms } [MEM_STATUS] := by
  refine ⟨_, exec_duskExitReady h, ?asleep, ?gone, fun k hk => ?others,
    .ofWithMs (.wr (.refl _ _) _ (List.mem_singleton_self _))⟩
  case asleep => exact State.rd_wr_same _ ⟨MEM_STATUS, 16 + m.val, 1⟩ 0 (by simp only; omega)
  case gone =>
    rw [State.wr_ms, State.mem_woken]
    exact fun hm => hm.2 rfl
  case others =>
    rw [State.wr_ms, State.mem_woken]
    exact and_iff_left hk

theorem does_scrubPass : Does .scrubPass s fun t =>
    t.rd MEM_SCRUB.passes = (s.rd MEM_SCRUB.passes + 1) % 2 ^ MEM_SCRUB.passes.width ∧ s.OnlyRegs t [MEM_SCRUB] :=
  ⟨_, rfl, s.rd_wr_same MEM_SCRUB.passes _ (by decide), (State.OnlyRegs.refl s _).wr _ (List.mem_singleton_self _)⟩

/-! ### The flash queue -/

variable {n : Nat} {uncorr : Bool} {cur : FlashReq} {rest : List FlashReq}

/-- The page statistics of a flash operation (R194). -/
def State.flashPages (s : State) (n : Nat) (uncorr : Bool) (cur : FlashReq) : State :=
  let t := if uncorr then (s.flagEvent FLASHC_STATUS.uncorr 0 0).bump FLASHC_ECC.uncorr 1 else s
  if cur.op = 1 && !uncorr && n > 24 then (t.flagEvent FLASHC_STATUS.rewrite 0 0).bump FLASHC_ECC.rewrites 1 else t

/-- A flash operation without a block failure gives up its place: its statistics, and a stored override table where it wrote one. -/
def State.flashServed (s : State) (n : Nat) (uncorr : Bool) (cur : FlashReq) : State :=
  if cur.use = .ovrCopy then (s.flashPages n uncorr cur).storeOvrCopy else s.flashPages n uncorr cur

/-- The operation code of the request in service. -/
def flashOp (q : List FlashReq) : Nat := match q with | x :: _ => x.op | [] => 0

theorem exec_flashOperationDone (hf : s.ms.flash = cur :: rest) (hs : s.ms.suspended = none) :
    exec (.flashOperationDone n uncorr false) s = .next
      ((({ s.flashServed n uncorr cur with ms := { (s.flashServed n uncorr cur).ms with flash := rest, suspended := none } } : State).wr
        FLASHC_STATUS.op (flashOp rest)).wrB FLASHC_STATUS.susp false) := by
  show execFlashOperationDone n uncorr false s = _
  unfold execFlashOperationDone
  rw [hf, hs]
  simp only [Bool.and_false, Bool.not_false, Bool.and_true, Bool.false_eq_true, if_false, decide_eq_true_eq]
  rfl

theorem State.OnlyLogged.ite {u : State} {c : Prop} [Decidable c] (h : s.OnlyLogged t l) (k : s.OnlyLogged u l) :
    s.OnlyLogged (if c then t else u) l := by
  split
  · exact h
  · exact k

theorem State.flashPages_onlyLogged (s : State) (n : Nat) (uncorr : Bool) (cur : FlashReq) :
    s.OnlyLogged (s.flashPages n uncorr cur) [FLASHC_STATUS, FLASHC_ECC] := by
  have hread : s.OnlyLogged (if uncorr then (s.flagEvent FLASHC_STATUS.uncorr 0 0).bump FLASHC_ECC.uncorr 1 else s)
      [FLASHC_STATUS, FLASHC_ECC] := .ite (.bump (.flagEvent (.refl s _) 0 0 (by simp)) _ 1 (by simp)) (.refl s _)
  exact .ite (.bump (hread.flagEvent (f := FLASHC_STATUS.rewrite) 0 0 (by simp)) _ 1 (by simp)) hread

theorem State.flashPages_uncorr (s : State) (n : Nat) (cur : FlashReq) :
    (s.flashPages n true cur).isSet FLASHC_STATUS.uncorr = true := by
  have hpages : s.flashPages n true cur = (s.flagEvent FLASHC_STATUS.uncorr 0 0).bump FLASHC_ECC.uncorr 1 := if_neg (by simp)
  rw [hpages]
  exact (State.isSet_wr_apart _ _ (.inl (by decide)) (by decide)).trans
    (s.flagEvent_isSet FLASHC_STATUS.uncorr 0 0 (by decide) (by decide) (by decide))

/-- What a flash operation serves is at most the plane's stored tables. -/
theorem State.flashServed_eq (s : State) (n : Nat) (uncorr : Bool) (cur : FlashReq) :
    ∃ x, s.flashServed n uncorr cur = { s.flashPages n uncorr cur with ovr := x } :=
  (Decidable.em _).elim (fun h => ⟨_, if_pos h⟩) fun h => ⟨_, if_neg h⟩

theorem State.flashServed_uncorr (s : State) (n : Nat) (cur : FlashReq) :
    (s.flashServed n true cur).isSet FLASHC_STATUS.uncorr = true := by
  obtain ⟨x, hx⟩ := s.flashServed_eq n true cur
  rw [hx, State.isSet_withOvr, s.flashPages_uncorr]

theorem State.flashServed_mem (s : State) (n : Nat) (uncorr : Bool) (cur : FlashReq) : (s.flashServed n uncorr cur).mem = s.mem := by
  obtain ⟨x, hx⟩ := s.flashServed_eq n uncorr cur
  obtain ⟨-, hpages⟩ := s.flashPages_onlyLogged n uncorr cur
  rw [hx, hpages]

theorem does_flashOperationDone (hf : s.ms.flash = cur :: rest) (hs : s.ms.suspended = none) :
    Does (.flashOperationDone n uncorr false) s fun t =>
      t.ms.flash = rest ∧ t.ms.suspended = none ∧ t.rd FLASHC_STATUS.susp = 0 ∧
        t.rd FLASHC_STATUS.op = flashOp rest % 2 ^ FLASHC_STATUS.op.width ∧
        (uncorr = true → t.isSet FLASHC_STATUS.uncorr = true) ∧ s.SameBytes t := by
  refine ⟨_, exec_flashOperationDone hf hs, rfl, rfl, State.rd_wr_same _ FLASHC_STATUS.susp 0 (by decide), ?op, ?uncorr, ?bytes⟩
  case op => exact (State.rd_wrB_apart _ _ (by decide) (by decide)).trans (State.rd_wr_same _ FLASHC_STATUS.op _ (by decide))
  case uncorr =>
    rintro rfl
    unfold State.wrB
    rw [State.isSet_wr_apart _ _ (by decide) (by decide), State.isSet_wr_apart _ _ (by decide) (by decide), State.isSet_withMs,
      s.flashServed_uncorr]
  case bytes =>
    intro a
    unfold State.byte
    rw [State.wrB_mem, State.wr_mem, s.flashServed_mem]

end

/-- Settles O24: a case per row; the restore of a march is split by whether the pointer is at the end of the memory. -/
theorem memoryRows : Obligations.MemoryRows := by
  unfold Obligations.MemoryRows
  intro s
  refine ⟨does_eccWriteback, fun m w => does_wispAbandon, fun m w => does_wispRestoreDone_abandoned, ?restored,
    fun m => does_duskExitReady, does_scrubPass, fun n uncorr cur rest => does_flashOperationDone⟩
  case restored =>
    intro m w h ha
    obtain hlt | hend := Nat.lt_or_ge (s.rd (MEM_WISP_POS.region m.val) + 1) (wispRegions m.val)
    · obtain ⟨t, ht, hended, hregion, hpasses, honly⟩ := does_wispRestoreDone_next h ha hlt
      exact ⟨t, ht, hended, hregion.trans (if_neg (Nat.not_le.mpr hlt)).symm, fun k => absurd k (Nat.not_le.mpr hlt),
        fun _ => hpasses, honly⟩
    · obtain ⟨t, ht, hended, hregion, hpasses, honly⟩ := does_wispRestoreDone_passEnd h ha hend
      exact ⟨t, ht, hended, hregion.trans (if_pos hend).symm, fun _ => hpasses, fun k => absurd hend (Nat.not_le.mpr k), honly⟩

end Sys2Proof.Machine
